-- ==== Sys2Proof/Word.lean ====
section
/-! DEFINITION. The plain words of the model: bytes, sparse tables, and the bounded names of the parts of
the device (00_scope.md, 01_organisation.md). -/

namespace Sys2Proof

/-- One byte. -/
abbrev Byte := BitVec 8

/-- A sparse table: pairs of key and value, keys strictly rising, no entry equal to the table's default. -/
abbrev Tab (α : Type) := List (Nat × α)

/-- Bytes by address, absent bytes read as zero. -/
abbrev Mem := Tab Byte

/-- A logical core, 0 to 4,095 (R14). -/
abbrev CoreId := Fin 4096
/-- A bank of a tile (R21). -/
abbrev BankId := Fin 16
/-- A command stream (13_host_interface.md). -/
abbrev StreamId := Fin 256
/-- A rig (R407). -/
abbrev RigId := Fin 64
/-- A yard, 64 m + 16 k + y (R540). -/
abbrev YardId := Fin 256
/-- A Pahus port (R379). -/
abbrev PortId := Fin 6
/-- A mast (R18). -/
abbrev MastId := Fin 4
/-- An LLC slice (R211). -/
abbrev SliceId := Fin 128
/-- An HBM channel, 64 m + c (Table 18-4). -/
abbrev ChanId := Fin 256
/-- A vertical path (Table 16-6). -/
abbrev PathId := Fin 352
/-- A stay: M0-M1, M1-M3, M3-M2, M2-M0 (Table 22-1). -/
abbrev StayId := Fin 4
/-- An event source (R540). -/
abbrev SourceId := Fin 2048
/-- An MSI-X vector (R352). -/
abbrev VecId := Fin 2048
/-- A loop-back interface (Table 22-1). -/
abbrev IfaceId := Fin 20

end Sys2Proof
end

