-- ==== Sys2Proof/Syntax.lean ====
section
/-! DEFINITION. The commands of the block: one constructor of `Instr` for each row of the opcode table, and the
operand records they carry. The formats of core instructions are those of Table 3-2 (03_isa_encoding.md). -/

namespace Sys2Proof

/-- Format R (Table 3-2). -/
structure FmtR where
  rd : BitVec 5
  rs1 : BitVec 5
  rs2 : BitVec 5
  fn : BitVec 8
  rsv : BitVec 27
  l : Bool
  guard : BitVec 5
deriving DecidableEq, Repr

/-- Format I (Table 3-2) with the literal of the long form (R81). -/
structure FmtI where
  rd : BitVec 5
  rs1 : BitVec 5
  imm : BitVec 32
  fn : BitVec 8
  l : Bool
  guard : BitVec 5
  lit : BitVec 64
deriving DecidableEq, Repr

/-- Format M (Table 3-2). -/
structure FmtM where
  rt : BitVec 5
  rb : BitVec 5
  off : BitVec 32
  sz : BitVec 2
  x : Bool
  rsv : BitVec 5
  l : Bool
  guard : BitVec 5
deriving DecidableEq, Repr

/-- Format B (Table 3-2) with the literal of the long form. -/
structure FmtB where
  rs : BitVec 5
  p : BitVec 3
  n : Bool
  ind : Bool
  off : BitVec 40
  l : Bool
  rsv : BitVec 5
  lit : BitVec 64
deriving DecidableEq, Repr

/-- Format E (Table 3-2). -/
structure FmtE where
  k : BitVec 6
  ch : BitVec 2
  da : BitVec 4
  db : BitVec 4
  dc : BitVec 4
  ra : BitVec 5
  rb : BitVec 5
  x20 : BitVec 20
  l : Bool
  guard : BitVec 5
deriving DecidableEq, Repr

/-- Format V (Table 3-2). -/
structure FmtV where
  k : BitVec 6
  vd : BitVec 5
  vs1 : BitVec 5
  vs2 : BitVec 5
  vs3 : BitVec 5
  vopc : BitVec 8
  t : BitVec 2
  da : BitVec 4
  x10 : BitVec 10
  l : Bool
  guard : BitVec 5
deriving DecidableEq, Repr

/-- Format C (Table 3-2). -/
structure FmtC where
  ra : BitVec 5
  rb : BitVec 5
  k : BitVec 6
  grp : BitVec 4
  fn : BitVec 3
  rsv : BitVec 27
  l : Bool
  guard : BitVec 5
deriving DecidableEq, Repr

/-- The second operand of a scalar operation: the register form or the immediate form (R93). -/
inductive Alu where
  | reg (f : FmtR)
  | imm (f : FmtI)
deriving DecidableEq, Repr

/-- The engines of Table 2-1. -/
inductive Eng where
  | dma | hal | mxu | vec | sfu | sel | lku
deriving DecidableEq, Repr

/-- Who makes a memory request: a logical core or the host port (R222), or one of the device's own engines: the front end
(R370) and the UPDATE engines (R397). -/
inductive Who where
  | core (c : CoreId)
  | host
  | device
deriving DecidableEq, Repr

/-- A read of n bytes, or a write of bytes. -/
inductive MemOp where
  | read (n : Nat)
  | write (bs : List Byte)
deriving DecidableEq, Repr

/-- A reduction: its operation (0 ADD, 1 MAX, 2 MIN, 3 LSE), INT32 or FP32, and the source element or record
as 32-bit words (R99, R236). -/
structure Red where
  op : Fin 4
  int : Bool
  src : List (BitVec 32)
deriving DecidableEq, Repr

/-- What a request asks of an LLC slice (R217). -/
inductive LlcOp where
  | read (n : Nat)
  | write (bs : List Byte)
  | red (r : Red)
deriving DecidableEq, Repr

/-- What a channel controller serves (R261). -/
inductive ChanOp where
  | fill | writeBack | reduce
deriving DecidableEq, Repr

/-- The answer of host memory to a read of one 64 B line: data, or poison or an error completion. -/
inductive HostRead where
  | data (line : BitVec 512)
  | bad
deriving DecidableEq, Repr

/-- What a configuration request asks (R350, R354): a decoder's base and size and whether it is committed, the IDE enable, the reset time of
Readiness Time Reporting, or anything else. -/
inductive ConfigReq where
  | hdm (i : Fin 4) (base size : Nat) (commit : Bool)
  | ide (on : Bool)
  | readiness
  | other
deriving DecidableEq, Repr

/-- What a host write to MSI-X puts a mask bit into: the function mask, the mask of a vector, or that mask with the message address and
data of the vector's entry (R352, R546). -/
inductive MsixWrite where
  | fn
  | vec (v : VecId)
  | entry (v : VecId) (addr : BitVec 64) (data : BitVec 32)
deriving DecidableEq, Repr

/-- Links with spare wires (Table 11-1, R490). -/
inductive LinkKind where
  | row | cross | vert | up | step | port
deriving DecidableEq, Repr

/-- A link: its kind and its number among the links of that kind, mast by mast (R305, R307). -/
structure Link where
  kind : LinkKind
  idx : Nat
deriving DecidableEq, Repr

/-- A router: of the logic mesh by position 288 (4 m + k) + 18 y + c; or of a step plane by 32 m + u; or, from 128
on, a stay endpoint, port router or the front end's by 128 + 16 m + e of Table 11-7 (R305, R307, R318). -/
structure Router where
  step : Bool
  idx : Nat
deriving DecidableEq, Repr

/-- Counts of one link of a router over one window, in percent (Table 11-6). -/
structure LinkLoad where
  dir : Fin 8
  out : Nat
  inn : Nat
  qmax : Nat
deriving DecidableEq, Repr

/-- The hardware faults that suspend contracts (Table 12-2). -/
inductive HwFault where
  | halyardHold (c : CoreId)
  | halyardHalf (c : CoreId)
  | netHold (m : MastId)
  | netLost (m : MastId)
  | spreader (m : MastId)
  | stayLanes
  | belowFloor (y : YardId)
  | hbmChannel (m : MastId)
deriving DecidableEq, Repr

/-- What the peer declares at a rendezvous (R397): its rig, tag, role, the port at its end that it names, and the values exchanged. -/
structure Rdv where
  rig : RigId
  tag : BitVec 8
  op : BitVec 2
  len : Nat
  nblk : Nat
  rsz : Nat
  wfmt : Nat
  prog : Nat
  rpos : Nat
  port : BitVec 3
deriving DecidableEq, Repr

/-- Temperatures of one yard in tenths of a degree: core sensors (highest working) and tile sensors (R461). -/
structure YardTemp where
  yard : YardId
  core : Nat
  tile : Nat
deriving DecidableEq, Repr

/-- What one sampling of the temperature sensors reads, in tenths of a degree (R461). -/
structure Sensors where
  yards : List YardTemp
  step : List (MastId × Nat)
  hbm : List (Fin 8 × Nat)
  inlet : Nat
  outlet : Nat
  edge : List (Fin 64 × Nat) := []
deriving DecidableEq, Repr

/-- Power telemetry of one 50 microsecond evaluation, in W and in mW per yard (R453, R454, R469), the feeds in tenths
of a volt and of an ampere (Table 16-2), and the currents of vertical paths in mA (R438). -/
structure Telemetry where
  va : Nat
  vb : Nat
  ia : Nat
  ib : Nat
  sample : Nat
  mean1 : Nat
  mean10 : Nat
  peak : Nat
  est1 : Nat
  rigs : List (RigId × Nat)
  yards : List (YardId × Nat)
  paths : List (PathId × Nat) := []
deriving DecidableEq, Repr

/-- Energy of one memory, step, link or HBM domain over 50 microseconds in uJ, with the requests served for each rig and for no rig
(R420). -/
structure DomainEnergy where
  uj : Nat
  act : List (RigId × Nat)
  other : Nat := 0
deriving DecidableEq, Repr

/-- Energy of one yard domain over 50 microseconds in uJ, with the activity estimate of each core, and of its idle positions (R420). -/
structure YardEnergy where
  yard : YardId
  uj : Nat
  act : List (CoreId × Nat)
  idle : Nat := 0
deriving DecidableEq, Repr

/-- One telltale measurement of a yard, in ps and degrees: normalised level-0 slack, raw slack now, lowest raw
slack, temperature, and the slack at each level 0 to 6 with +40 mV (R498, R500). -/
structure Telltale where
  slack : Int
  raw : Int
  low : Nat
  temp : Nat
  levels : List Int
deriving DecidableEq, Repr

/-- How a start-up step ended: well, or with a CAUSE of Table 19-5. The lists name the positions that failed a test of step 8; the units
trained in full: positions, channels, or stays 0 to 3 and ports 4 to 9; of the wires or lanes of the record, those that passed a retest;
the wires, lanes or channels that failed training; and the voltages of the rails that came up, in thousandths of their setpoints (R431,
R504 to R512). -/
structure StepEnd where
  ms : Nat
  cause : BitVec 8
  failed : List Nat
  full : List Nat
  present : BitVec 6
  passed : List Nat
  bad : List Nat
  volts : List Nat
deriving DecidableEq, Repr

/-- A staged firmware image as the mailbox read it from host memory; none when the host read failed (R522). -/
structure Image where
  bytes : List Byte
deriving DecidableEq, Repr

/-- Requests to the SPDM responder (R526, R527): those of the capabilities of Table 20-2, and any other. -/
inductive Spdm where
  | version
  | capabilities
  | algorithms
  | digests
  | certificate (slot off len : Nat)
  | keyUpdate (s : Nat)
  | keyExchange
  | challenge
  | measurements (idx : Nat)
  | heartbeat (s : Nat)
  | ideKm (s : Nat)
  | other
deriving DecidableEq, Repr

/-- Transports of the SPDM responder (R527). -/
inductive Transport where
  | doe | mctp | pahus (p : PortId)
deriving DecidableEq, Repr

/-- PLDM requests (R471): read a sensor of Table 17-7, or retrieve an event. -/
inductive Pldm where
  | sensor (i : Fin 9)
  | event
deriving DecidableEq, Repr

/-- The commands: one constructor for each row of the opcode table. A core instruction carries the core that
issues it and the fields of its word. -/
inductive Instr where
  -- scalar instructions (03, R93 to R98)
  | ld (c : CoreId) (f : FmtM)
  | st (c : CoreId) (f : FmtM)
  | add (c : CoreId) (f : Alu)
  | sub (c : CoreId) (f : Alu)
  | mul (c : CoreId) (f : Alu)
  | and (c : CoreId) (f : Alu)
  | or (c : CoreId) (f : Alu)
  | xor (c : CoreId) (f : Alu)
  | shl (c : CoreId) (f : Alu)
  | shr (c : CoreId) (f : Alu)
  | cmp (c : CoreId) (f : Alu)
  | mov (c : CoreId) (f : FmtI)
  | dset (c : CoreId) (f : FmtI)
  | br (c : CoreId) (f : FmtB)
  | brp (c : CoreId) (f : FmtB)
  | call (c : CoreId) (f : FmtB)
  | ret (c : CoreId) (f : FmtB)
  -- DMA and halyard instructions (R99 to R102, R128)
  | dmaCp (c : CoreId) (f : FmtE)
  | dmaSkew (c : CoreId) (f : FmtE)
  | redLlc (c : CoreId) (f : FmtE)
  | dead (c : CoreId) (f : FmtE)
  | halRd (c : CoreId) (f : FmtE)
  | halWr (c : CoreId) (f : FmtE)
  -- matrix instructions (R103 to R105, 04)
  | mxload (c : CoreId) (f : FmtE)
  | mma (c : CoreId) (f : FmtE)
  | mmaT (c : CoreId) (f : FmtE)
  | accClr (c : CoreId) (f : FmtE)
  | accRd (c : CoreId) (f : FmtE)
  -- vector and special-function instructions (R106 to R109, 05)
  | vopLd (c : CoreId) (f : FmtV)
  | vopSt (c : CoreId) (f : FmtV)
  | vopMov (c : CoreId) (f : FmtV)
  | vopBcast (c : CoreId) (f : FmtV)
  | vopAdd (c : CoreId) (f : FmtV)
  | vopSub (c : CoreId) (f : FmtV)
  | vopMul (c : CoreId) (f : FmtV)
  | vopFma (c : CoreId) (f : FmtV)
  | vopMax (c : CoreId) (f : FmtV)
  | vopMin (c : CoreId) (f : FmtV)
  | vopAbs (c : CoreId) (f : FmtV)
  | vopNeg (c : CoreId) (f : FmtV)
  | vopAnd (c : CoreId) (f : FmtV)
  | vopOr (c : CoreId) (f : FmtV)
  | vopXor (c : CoreId) (f : FmtV)
  | vopShl (c : CoreId) (f : FmtV)
  | vopShr (c : CoreId) (f : FmtV)
  | vopCvt (c : CoreId) (f : FmtV)
  | vopRsum (c : CoreId) (f : FmtV)
  | vopRmax (c : CoreId) (f : FmtV)
  | vopPerm (c : CoreId) (f : FmtV)
  | vnormRms (c : CoreId) (f : FmtE)
  | sfuTanh (c : CoreId) (f : FmtV)
  | sfuSig (c : CoreId) (f : FmtV)
  | sfuExp2 (c : CoreId) (f : FmtV)
  | sfuRsq (c : CoreId) (f : FmtV)
  | sfuRcp (c : CoreId) (f : FmtV)
  -- selection and lookup instructions (R110 to R116, 06)
  | selTopk (c : CoreId) (f : FmtE)
  | selMerge (c : CoreId) (f : FmtE)
  | lkuLoad (c : CoreId) (f : FmtE)
  | lkuSwap (c : CoreId) (f : FmtE)
  | lkuPq (c : CoreId) (f : FmtE)
  -- synchronisation (R117, 02)
  | fenceL (c : CoreId) (f : FmtC)
  | fenceR (c : CoreId) (f : FmtC)
  | invL1 (c : CoreId) (f : FmtC)
  | bar (c : CoreId) (f : FmtC)
  | wait (c : CoreId) (f : FmtC)
  | waitSignal (c : CoreId) (f : FmtC)
  | waitall (c : CoreId) (f : FmtC)
  | signal (c : CoreId) (f : FmtC)
  | signalEv (c : CoreId) (f : FmtC)
  -- core execution events (02)
  | issueResume (c : CoreId)
  | engineOpStart (c : CoreId) (e : Eng)
  | engineOpComplete (c : CoreId) (e : Eng) (i : Nat)
  | stopDrainDone (c : CoreId)
  | dispatch (c : CoreId)
  | coreEndReport (c : CoreId)
  | stopReport (c : CoreId)
  | signalOrArrival (c : CoreId)
  | barrierArrival (c : CoreId)
  | barrierRelease (r : RigId) (g : Fin 16)
  | coreMarkedDown (c : CoreId)
  -- last-level cache, L1 and locker (08)
  | llcRequest (who : Who) (cls : Fin 5) (a : Nat) (op : LlcOp)
  | llcFillReturn (line : Nat)
  | setWritten (g : Nat)
  | setWrittenReply (g : Nat)
  | streamTrackerRelease (s : SliceId) (who : Who)
  | deadDrop (g : Nat)
  | deadMarkAck (g : Nat)
  | reductionApply (line : Nat)
  | forwardAck (line : Nat)
  | hostSnoopResponse (a : Nat) (data : Option (BitVec 512))
  | hotSliceWindowEnd (s : SliceId) (occ : Nat)
  | l1Fill (c : CoreId) (instr : Bool) (a : Nat)
  | lockerRemoteAccess (who : Who) (c : CoreId) (off : Nat) (op : MemOp)
  -- halyards, tiles and HBM (09)
  | halyardCrcRetry (c : CoreId) (dir : Fin 2) (wire : Fin 272) (win : Nat)
  | tileRequest (c : CoreId) (mesh : Bool) (off : Nat) (op : MemOp)
  | refreshDue (c : CoreId) (b : BankId)
  | refreshEnd (c : CoreId) (b : BankId)
  | trefiWindowEnd (c : CoreId) (t : Nat) (busy : Nat)
  | hbmTrefiWindowEnd (ch : ChanId) (t : Nat)
  | dutyWindowStart (c : CoreId)
  | dutyLimitReached (c : CoreId)
  | hbmChannelRequest (a : Nat) (op : ChanOp)
  -- bank units (10)
  | bankmodeWrite (c : CoreId) (w : BitVec 64)
  | bankUnitModeEffect (c : CoreId) (b : BankId)
  | bankNormalModeEffect (c : CoreId) (b : BankId)
  | xpop (c : CoreId) (b : BankId) (w : BitVec 64)
  | i8dot (c : CoreId) (b : BankId) (w : BitVec 64)
  | sumred (c : CoreId) (b : BankId) (w : BitVec 64)
  | bankFill (c : CoreId) (b : BankId) (w : BitVec 64)
  | bankCopy (c : CoreId) (b : BankId) (w : BitVec 64)
  | topk32 (c : CoreId) (b : BankId) (w : BitVec 64)
  | chain (c : CoreId) (b : BankId) (w : BitVec 64)
  | bitset (c : CoreId) (b : BankId) (w : BitVec 64)
  | bankUnitAbort (c : CoreId) (b : BankId)
  | queuedCommandStart (c : CoreId) (b : BankId)
  | bankUnitCommandEnd (c : CoreId) (b : BankId)
  | safePoint (c : CoreId) (b : BankId) (upto : Nat)
  | chainStreamArrival (c : CoreId) (b : BankId)
  | chainBreak (c : CoreId) (b : BankId)
  -- network and clocks (11)
  | flitRetransmission (l : Link) (dir : Fin 2) (wire : Nat) (win : Nat)
  | stayLaneFailed (s : StayId) (dir : Fin 2) (lane : Fin 272)
  | routerWindowEnd (r : Router) (loads : List LinkLoad) (temp : Nat)
  | corePllLoss (y : YardId)
  | networkPllLoss (y : YardId)
  | networkPllRelock (y : YardId) (ok : Bool)
  | spreaderReferenceLoss (m : MastId)
  -- command streams and commands (12, 13)
  | tailLineSnoop (s : StreamId) (r : HostRead)
  | fetchCommandLine (s : StreamId) (l1 l2 : HostRead)
  | linePass (now : Nat)
  | run
  | copyCommand
  | fillCommand
  | scrub
  | rerig (plan : Option (List Byte))
  | rerigStart
  | setcap
  | search
  | rerankerDispatch (r : RigId)
  | fence
  | table
  | perf
  | keyopActivate
  | keyopCascade
  | keyopPin
  | reduce
  | send
  | recv
  | barrier
  | nop
  | planDispatch (r : RigId) (now : Nat)
  | abortPoint (r : RigId) (now : Nat)
  | cmaxExpiry (r : RigId) (now : Nat)
  | faultIntervalStart (f : HwFault)
  | faultIntervalEnd (f : HwFault)
  | floorChangeEffect
  | completionRecordWrite (s : StreamId) (now : Nat) (acc : Bool) (reef : Nat)
  | hostMemRead (a : Nat) (n : Nat)
  | hostMemWrite (a : Nat) (bs : List Byte) (poison : Bool)
  | configRequest (q : ConfigReq := .other)
  | strmCtlEn (s : StreamId) (en : Bool) (r : HostRead := .bad)
  | strmCtlResume (s : StreamId)
  | strmCtlAbort (s : StreamId)
  -- cascade (14)
  | portEnable (pen : BitVec 6) (present : BitVec 6)
  | cascRankWrite (r : BitVec 6)
  | pahusRetransmission (p : PortId)
  | pahusLaneFailed (p : PortId) (lane : Fin 17)
  | portTrainingDone (p : PortId)
  | peerAttestationDone (p : PortId) (digest : BitVec 256) (signed : Bool) (rank : BitVec 6) (port : BitVec 3)
  | configurationReceived (epoch : BitVec 32) (master standby : BitVec 6) (hasStandby : Bool) (nmem : BitVec 6)
  | heartbeatSend
  | heartbeatReceived (epoch : BitVec 32) (seq : Nat)
  | heartbeatTimeout
  | delayProbeSend (p : PortId) (t1 : Nat)
  | delayProbeEcho (p : PortId) (t2 h : Nat)
  | barrierArrivalMessage (rank : BitVec 6) (tag : BitVec 8) (released : Bool) (delay : Nat)
  | cascadeReleaseSend (tag : BitVec 8) (rank : BitVec 6) (now : Nat)
  | cascadeReleaseArrival (tag : BitVec 8) (rank : BitVec 6 := 0) (due : Nat := 0)
  | rendezvous (r : RigId) (send : Bool) (peer : Rdv)
  | pahusPortDown (p : PortId)
  -- accounting, power delivery, power and thermal control (15, 16, 17)
  | energyAttribution (yards : List YardEnergy) (others : List DomainEnergy)
  | rigPwrShareWrite (r : RigId) (w : BitVec 64)
  | feedLost (b : Bool)
  | feedGood (b : Bool)
  | converterFailed (k : Fin 4)
  | regulatorCellFailed (y : YardId)
  | pathRatioWindowEnd (p : PathId) (samples : List Nat)
  | yardPowerOnRequest (y : YardId)
  | neighbourWaitExpiry (y : YardId)
  | yardRampStart (y : YardId)
  | yardRampEnd (y : YardId)
  | fastGuardEstimate (m : MastId) (est : Nat)
  | governorEvaluation (t : Telemetry)
  | dutyCycleFurl (r : RigId) (begins : Bool)
  | boostStep (y : YardId)
  | consSet (diff : Nat)
  | sensorSample (x : Sensors)
  | modelEvaluation (est : List YardTemp)
  | flowInference (p tin tout : Nat)
  -- reliability (18)
  | rasFliptgtWrite (w : BitVec 64)
  | scrubGo (nofix : Bool)
  | rowRepair (c : CoreId) (b : BankId) (row : Nat)
  | llcWayRetire (s : SliceId) (way : Fin 16)
  | hbmChannelRetrain (ch : ChanId) (ok : Bool) (within10s : Bool)
  | telltaleMeasurement (y : YardId) (t : Telltale)
  | telltaleGuardRaise (y : YardId) (limit : Bool)
  -- start-up (19)
  | powerOn (air : Bool)
  | startupStepEnd (e : StepEnd)
  | startupPause (begins : Bool)
  -- security (20)
  | spdmRequest (via : Transport) (q : Spdm)
  | slhsigReq (via : Transport) (transcript : List Byte)
  | bindCmd (sess : Nat) (ems : BitVec 384)
  | endSession (sess : Nat)
  | spdmHeartbeatTimeout (sess : Nat)
  -- events and interrupts (21)
  | eventRaise (s : SourceId)
  | eventMessageSend (v : VecId) (now : Nat)
  | holdoffExpiry (v : VecId) (now : Nat)
  | evtMaskSet (i : Fin 32) (w : BitVec 64)
  | evtMaskClr (i : Fin 32) (w : BitVec 64)
  | evtPendSet (i : Fin 32) (w : BitVec 64)
  | evtPendClr (i : Fin 32) (w : BitVec 64)
  | evtIdleHintWrite (w : BitVec 64) (now : Nat)
  | evtRead (off : Nat)
  | crowsNestWake (s : SourceId)
  -- loop-backs (22)
  | loopEnter (i : IfaceId) (w : BitVec 64)
  | loopLeave (i : IfaceId)
  | loopDurationExpiry (i : IfaceId) (errs time : Nat) (locked : Bool)
  | loopFarEndTimeout (i : IfaceId)
  -- registers (00, 08, 23)
  | llcHashKeyWrite (k : BitVec 64)
  | llcModeSet (w : BitVec 64)
  | registerWrite (off : Nat) (size : Nat) (val : BitVec 64)
  -- further events
  | linkTrainingEnd (cxl : Bool)
  | pldmRequest (q : Pldm)
  | msixMaskWrite (w : MsixWrite) (m : Bool)
  | delayProbeReceived (p : PortId) (arrive leave : Nat)
  | wireBlockArrival (r : RigId) (data : List Byte)
  | storeAcknowledgement (c : CoreId)
  | hbmParityError (ch : ChanId) (win : Nat)
  | rowClose (c : CoreId) (b : BankId)
  | mailboxOperationEnd (img : Option Image)
  -- events and actions without operands (16 to 22)
  | bothFeedsLost
  | consClear
  | thermalTrip
  | emergClear
  | rasCeClr
  | scrubEnd
  | lockstepTakeover
  | marginPlan
  | recomp
  | deviceReset
  | ready
  | force
  | stage
  | recover
  | sheetHoldoffExpiry
  | wakeTimerExpiry
  | watchdogExpiry
  | perstRelease
  | flowMeterPulse
  | standbyTakeoverDone
deriving DecidableEq, Repr

end Sys2Proof
end

