-- ==== Sys2Proof/Decode.lean ====
section
/-! DEFINITION. Decoding. No row of the opcode table is given bits, so no table word spells a command; the word of a core instruction
is taken apart by the formats of Table 3-2 and the major opcodes of Table 3-6 (R82, R92). -/

namespace Sys2Proof

/-- The command that a word of nbits bits spells by the opcode table's bits: the table gives none. -/
def decodeTableWord (_nbits _w : Nat) : Option Instr := none

/-! ### The formats of Table 3-2 -/

/-- Format R. -/
def wordR (w : BitVec 64) : FmtR :=
  { rd := w.extractLsb' 51 5, rs1 := w.extractLsb' 46 5, rs2 := w.extractLsb' 41 5, fn := w.extractLsb' 33 8, rsv := w.extractLsb' 6 27
    l := w.getLsbD 5, guard := w.extractLsb' 0 5 }
/-- Format I, with the literal of a long form (R81). -/
def wordI (w lit : BitVec 64) : FmtI :=
  { rd := w.extractLsb' 51 5, rs1 := w.extractLsb' 46 5, imm := w.extractLsb' 14 32, fn := w.extractLsb' 6 8, l := w.getLsbD 5
    guard := w.extractLsb' 0 5, lit := lit }
/-- Format M. -/
def wordM (w : BitVec 64) : FmtM :=
  { rt := w.extractLsb' 51 5, rb := w.extractLsb' 46 5, off := w.extractLsb' 14 32, sz := w.extractLsb' 12 2, x := w.getLsbD 11
    rsv := w.extractLsb' 6 5, l := w.getLsbD 5, guard := w.extractLsb' 0 5 }
/-- Format B, with the literal of a long form. -/
def wordB (w lit : BitVec 64) : FmtB :=
  { rs := w.extractLsb' 51 5, p := w.extractLsb' 48 3, n := w.getLsbD 47, ind := w.getLsbD 46, off := w.extractLsb' 6 40
    l := w.getLsbD 5, rsv := w.extractLsb' 0 5, lit := lit }
/-- Format E. -/
def wordE (w : BitVec 64) : FmtE :=
  { k := w.extractLsb' 50 6, ch := w.extractLsb' 48 2, da := w.extractLsb' 44 4, db := w.extractLsb' 40 4, dc := w.extractLsb' 36 4
    ra := w.extractLsb' 31 5, rb := w.extractLsb' 26 5, x20 := w.extractLsb' 6 20, l := w.getLsbD 5, guard := w.extractLsb' 0 5 }
/-- Format V. -/
def wordV (w : BitVec 64) : FmtV :=
  { k := w.extractLsb' 50 6, vd := w.extractLsb' 45 5, vs1 := w.extractLsb' 40 5, vs2 := w.extractLsb' 35 5, vs3 := w.extractLsb' 30 5
    vopc := w.extractLsb' 22 8, t := w.extractLsb' 20 2, da := w.extractLsb' 16 4, x10 := w.extractLsb' 6 10, l := w.getLsbD 5
    guard := w.extractLsb' 0 5 }
/-- Format C. -/
def wordC (w : BitVec 64) : FmtC :=
  { ra := w.extractLsb' 51 5, rb := w.extractLsb' 46 5, k := w.extractLsb' 40 6, grp := w.extractLsb' 36 4, fn := w.extractLsb' 33 3
    rsv := w.extractLsb' 6 27, l := w.getLsbD 5, guard := w.extractLsb' 0 5 }

/-! ### The opcodes of Tables 3-6 and 3-11 -/

/-- The vector operation of a VOPC (Table 3-11). -/
def vopOf (c : CoreId) (f : FmtV) : Option Instr :=
  match f.vopc.toNat with
  | 0x00 => some (.vopLd c f) | 0x01 => some (.vopSt c f) | 0x02 => some (.vopMov c f) | 0x03 => some (.vopBcast c f)
  | 0x04 => some (.vopAdd c f) | 0x05 => some (.vopSub c f) | 0x06 => some (.vopMul c f) | 0x07 => some (.vopFma c f)
  | 0x08 => some (.vopMax c f) | 0x09 => some (.vopMin c f) | 0x0A => some (.vopAbs c f) | 0x0B => some (.vopNeg c f)
  | 0x0C => some (.vopAnd c f) | 0x0D => some (.vopOr c f) | 0x0E => some (.vopXor c f) | 0x0F => some (.vopShl c f)
  | 0x10 => some (.vopShr c f) | 0x11 => some (.vopCvt c f) | 0x12 => some (.vopRsum c f) | 0x13 => some (.vopRmax c f)
  | 0x14 => some (.vopPerm c f)
  | _ => none

/-- The scalar operation of the low five bits of an opcode, in its register or its immediate form (R92). -/
def aluOf (c : CoreId) (op : Nat) (f : Alu) : Option Instr :=
  match op with
  | 0x08 => some (.add c f) | 0x09 => some (.sub c f) | 0x0A => some (.mul c f) | 0x0B => some (.and c f) | 0x0C => some (.or c f)
  | 0x0D => some (.xor c f) | 0x0E => some (.shl c f) | 0x0F => some (.shr c f) | 0x10 => some (.cmp c f)
  | _ => none

/-- The core instruction that a word spells, with the literal that follows it; none for a reserved opcode (R82, R92). -/
def coreInstr (c : CoreId) (w lit : BitVec 64) : Option Instr :=
  match (w.extractLsb' 56 8).toNat with
  | 0x01 => some (.ld c (wordM w)) | 0x02 => some (.st c (wordM w))
  | 0x08 => aluOf c 0x08 (.reg (wordR w)) | 0x09 => aluOf c 0x09 (.reg (wordR w)) | 0x0A => aluOf c 0x0A (.reg (wordR w))
  | 0x0B => aluOf c 0x0B (.reg (wordR w)) | 0x0C => aluOf c 0x0C (.reg (wordR w)) | 0x0D => aluOf c 0x0D (.reg (wordR w))
  | 0x0E => aluOf c 0x0E (.reg (wordR w)) | 0x0F => aluOf c 0x0F (.reg (wordR w)) | 0x10 => aluOf c 0x10 (.reg (wordR w))
  | 0x11 => some (.mov c (wordI w lit)) | 0x12 => some (.dset c (wordI w lit))
  | 0x18 => some (.br c (wordB w lit)) | 0x19 => some (.brp c (wordB w lit)) | 0x1A => some (.call c (wordB w lit))
  | 0x1B => some (.ret c (wordB w lit))
  | 0x28 => aluOf c 0x08 (.imm (wordI w lit)) | 0x29 => aluOf c 0x09 (.imm (wordI w lit)) | 0x2A => aluOf c 0x0A (.imm (wordI w lit))
  | 0x2B => aluOf c 0x0B (.imm (wordI w lit)) | 0x2C => aluOf c 0x0C (.imm (wordI w lit)) | 0x2D => aluOf c 0x0D (.imm (wordI w lit))
  | 0x2E => aluOf c 0x0E (.imm (wordI w lit)) | 0x2F => aluOf c 0x0F (.imm (wordI w lit)) | 0x30 => aluOf c 0x10 (.imm (wordI w lit))
  | 0x40 => some (.dmaCp c (wordE w)) | 0x41 => some (.dmaSkew c (wordE w)) | 0x42 => some (.redLlc c (wordE w))
  | 0x43 => some (.dead c (wordE w)) | 0x48 => some (.halRd c (wordE w)) | 0x49 => some (.halWr c (wordE w))
  | 0x50 => some (.mxload c (wordE w)) | 0x51 => some (.mma c (wordE w)) | 0x52 => some (.mmaT c (wordE w))
  | 0x53 => some (.accClr c (wordE w)) | 0x54 => some (.accRd c (wordE w))
  | 0x58 => vopOf c (wordV w) | 0x59 => some (.vnormRms c (wordE w))
  | 0x60 => some (.sfuTanh c (wordV w)) | 0x61 => some (.sfuSig c (wordV w)) | 0x62 => some (.sfuExp2 c (wordV w))
  | 0x63 => some (.sfuRsq c (wordV w)) | 0x64 => some (.sfuRcp c (wordV w))
  | 0x68 => some (.selTopk c (wordE w)) | 0x69 => some (.selMerge c (wordE w))
  | 0x70 => some (.lkuLoad c (wordE w)) | 0x71 => some (.lkuSwap c (wordE w)) | 0x72 => some (.lkuPq c (wordE w))
  | 0x78 => some (.fenceL c (wordC w)) | 0x79 => some (.fenceR c (wordC w)) | 0x7A => some (.invL1 c (wordC w))
  | 0x7C => some (.bar c (wordC w))
  | 0x7D => if (wordC w).fn.getLsbD 0 then some (.waitSignal c (wordC w)) else some (.wait c (wordC w))
  | 0x7E => some (.waitall c (wordC w))
  | 0x7F => if (wordC w).fn.getLsbD 0 then some (.signalEv c (wordC w)) else some (.signal c (wordC w))
  | _ => none

end Sys2Proof
end

