-- ==== Sys2Proof/Config.lean ====
section
/-! DEFINITION. What the spec leaves open: the free values, each a constant with no body, so that nothing can be
proved of its value. -/

namespace Sys2Proof.Config

/-- The bits a native special function returns, by function code and operand, before the limits of R146 to R150
are imposed (R152: the bits are not architectural). DESIGN CHOICE, log entry 10. -/
opaque sfuNative : Nat → BitVec 32 → BitVec 32

/-- A free byte: contents the spec calls undefined, by a counter of the state. DESIGN CHOICE, log entry 3. -/
opaque freeByte : Nat → BitVec 8

/-- A free 64-bit word, by a counter of the state. DESIGN CHOICE, log entry 3. -/
opaque freeWord : Nat → BitVec 64

/-- Cycles a core has spent stalled, by a counter of the core: what the cycle counter holds beyond the issue
cycles is timing the model does not keep (R78, R324). DESIGN CHOICE, log entry 11. -/
opaque stallCycles : Nat → Nat

/-- The key the sheet controller draws from its random source (R213, R514), by a counter of the state. -/
opaque drawnKey : Nat → BitVec 64

/-- Whether the RSASSA-PSS signature of an image verifies (R519). DESIGN CHOICE: log entry 15. -/
opaque rsaVerifies : List (BitVec 8) → Bool

/-- Whether the SLH-DSA signature of an image verifies (R519). DESIGN CHOICE: log entry 15. -/
opaque slhVerifies : List (BitVec 8) → Bool

/-- Whether the digests of an image's two public keys match those in the ROM (R518, R519). -/
opaque keysMatch : List (BitVec 8) → Bool

/-- The signature the device returns for a transcript, by kind (0 RSA, 1 SLH-DSA), private key and transcript (R525, R528). -/
opaque sign : Nat → Nat → List (BitVec 8) → BitVec 512

/-- The root and intermediate certificates of an identity chain, written in manufacture, by SPDM certificate slot (R526). -/
opaque issuers : Nat → List (BitVec 8)

/-- The DER encoding of the leaf certificate of a slot for an identity public key, whose subject serial number is DEV_SERIAL (R526). -/
opaque leaf : Nat → Nat → BitVec 64 → List (BitVec 8)

/-- STEPPING of DEV_REV: silicon stepping, from the fuses (Table 19-6). DESIGN CHOICE: log entry 7. -/
opaque stepping : BitVec 8

/-- SERIAL of DEV_SERIAL, from the fuses (Table 19-6). -/
opaque serial : BitVec 64

/-- The digest of a measurement block (R529): its index and the state it measures. What the model does not hold (ROM, fuses)
and how a block is laid out are open. -/
opaque measured : Nat → List Nat → BitVec 384

/-- The row of its channel's DRAM in which an HBM address lies, numbered over the device: the spec does not lay the rows of the HBM4
stacks out (R489). DESIGN CHOICE, log entry 85. -/
opaque hbmRow : Nat → Nat

/-- The private and public key the key unit derives from the unique secret, by kind (0 RSA-3072, 1 SLH-DSA-SHA2-192s) (R525). -/
opaque identityPair : Nat → BitVec 256 → Nat × Nat

/-- Links on the shortest route from a peer, by its rank, to a farther rank, by EPOCH: how the modules beyond the peers are cabled is not
in this module's state (R386, R392). DESIGN CHOICE, log entry 27. -/
opaque hops : Nat → Nat → Nat → Nat

/-- Which of the step routers that a stay endpoint attaches to is the one of its nearest landing, by index of Table 11-7. DESIGN CHOICE,
log entry 13. -/
opaque nearLanding : Nat → Fin 32

/-- The step routers that port routers attach to, two for each, which the spec does not place. DESIGN CHOICE, log entry 13. -/
opaque portStep : Nat → Fin 32

/-- Which of a port's two step routers has the nearest landing. DESIGN CHOICE, log entry 13. -/
opaque portSecond : Nat → Bool

/-- The straps ADDR[2:0], sampled at power-on (R572, R573). DESIGN CHOICE, log entry 7. -/
opaque addrStraps : BitVec 3

end Sys2Proof.Config
end

