-- ==== Sys2Proof/Machine/Tab.lean ====
section
/-! DEFINITION. Sparse tables and byte sequences: the one way the model reads and writes a table, in canonical
form, and the little-endian order of bytes (R5). -/

namespace Sys2Proof.Machine

/-- The entry of key i, or the default. -/
def tget {α : Type} (d : α) : Tab α → Nat → α
  | [], _ => d
  | (k, v) :: t, i => if k = i then v else tget d t i

/-- Insert or replace the entry of key i. -/
def tput {α : Type} (i : Nat) (v : α) : Tab α → Tab α
  | [] => [(i, v)]
  | (k, w) :: t =>
    if i < k then (i, v) :: (k, w) :: t
    else if i = k then (i, v) :: t
    else (k, w) :: tput i v t

/-- Remove the entry of key i. -/
def tdel {α : Type} (i : Nat) : Tab α → Tab α
  | [] => []
  | (k, w) :: t => if k = i then tdel i t else (k, w) :: tdel i t

/-- Set the entry of key i; an entry equal to the default is not kept. -/
def tset {α : Type} [DecidableEq α] (d : α) (t : Tab α) (i : Nat) (v : α) : Tab α :=
  if v = d then tdel i t else tput i v t

/-- Remove every entry whose key satisfies p. -/
def tclear {α : Type} (p : Nat → Bool) (t : Tab α) : Tab α := t.filter fun e => !p e.1

/-- Apply f to the entry of key i. -/
def tmod {α : Type} [DecidableEq α] (d : α) (t : Tab α) (i : Nat) (f : α → α) : Tab α :=
  tset d t i (f (tget d t i))

/-- The canonical form: keys strictly rising from a lower bound, and no entry equal to the default. -/
def tabWfFrom {α : Type} [DecidableEq α] (d : α) : Nat → Tab α → Bool
  | _, [] => true
  | n, (k, v) :: t => decide (n ≤ k) && decide (v ≠ d) && tabWfFrom d (k + 1) t

/-- A table in canonical form. -/
def tabWf {α : Type} [DecidableEq α] (d : α) (t : Tab α) : Bool := tabWfFrom d 0 t

/-- One byte of memory. -/
def mget (m : Mem) (a : Nat) : Byte := tget 0 m a

/-- Write one byte of memory. -/
def mset (m : Mem) (a : Nat) (b : Byte) : Mem := tset 0 m a b

/-- n bytes from address a, ascending. -/
def mread (m : Mem) (a : Nat) : Nat → List Byte
  | 0 => []
  | n + 1 => mget m a :: mread m (a + 1) n

/-- Write bytes from address a, ascending. -/
def mwrite (m : Mem) (a : Nat) : List Byte → Mem
  | [] => m
  | b :: bs => mwrite (mset m a b) (a + 1) bs

/-- The number whose little-endian bytes are given (R5). -/
def leNat : List Byte → Nat
  | [] => 0
  | b :: bs => b.toNat + 256 * leNat bs

/-- The n little-endian bytes of a number (R5). -/
def leBytes : Nat → Nat → List Byte
  | 0, _ => []
  | n + 1, v => BitVec.ofNat 8 (v % 256) :: leBytes n (v / 256)

/-- Bits [hi:lo] of a number. -/
def bits (v hi lo : Nat) : Nat := (v >>> lo) % 2 ^ (hi + 1 - lo)

/-- Bit i of a number. -/
def bit (v i : Nat) : Bool := v.testBit i

/-- A number with bits [hi:lo] replaced. -/
def setBits (v hi lo x : Nat) : Nat :=
  v - (bits v hi lo) * 2 ^ lo + (x % 2 ^ (hi + 1 - lo)) * 2 ^ lo

/-- A Bool as a number. -/
def b2n (b : Bool) : Nat := if b then 1 else 0

/-- The positions below n at which p holds, ascending. -/
def idxs (n : Nat) (p : Nat → Bool) : List Nat := (List.range n).filter p

/-- A bit mask of the positions below n at which p holds. -/
def maskOf (n : Nat) (p : Nat → Bool) : Nat :=
  (List.range n).foldl (fun a i => if p i then a + 2 ^ i else a) 0

/-- Round up n / d. -/
def ceilDiv (n d : Nat) : Nat := (n + d - 1) / d

/-- Drop the element at position i. -/
def dropAt {α : Type} : Nat → List α → List α
  | _, [] => []
  | 0, _ :: t => t
  | i + 1, x :: t => x :: dropAt i t

/-- A number clipped to a ceiling. -/
def satTo (hi v : Nat) : Nat := if v ≤ hi then v else hi

/-- A 64-bit word from eight bytes of a list at an offset. -/
def field (bs : List Byte) (off n : Nat) : Nat := leNat ((bs.drop off).take n)

/-- The 64 bytes of a line. -/
def lineBytes (l : BitVec 512) : List Byte := leBytes 64 l.toNat

end Sys2Proof.Machine
end

