-- ==== Sys2Proof/Machine/Fp.lean ====
section
/-! DEFINITION. Floating-point values and their rounding (05_vector_sfu.md, 04_matrix_array.md): every format of
Table 3-5 is decoded to an exact value, operations are exact on rational numbers, and results are rounded once. -/

namespace Sys2Proof.Machine

/-- An exact floating-point value: a NaN, an infinity, or a finite magnitude with its sign. -/
inductive FV where
  | nan
  | inf (neg : Bool)
  | fin (neg : Bool) (q : Rat)

/-- 2 to an integer power. -/
def pow2 (e : Int) : Rat := if e < 0 then 1 / ((2 : Rat) ^ e.natAbs) else (2 : Rat) ^ e.natAbs

/-- The finite value of sign and magnitude as a rational. -/
def signed (neg : Bool) (q : Rat) : Rat := if neg then -q else q

/-- floor (log2 q) for q > 0. -/
def log2Floor (q : Rat) : Int :=
  let n : Int := (Nat.log2 q.num.natAbs : Int) - (Nat.log2 q.den : Int)
  if pow2 n ≤ q then n else n - 1

/-- Round a non-negative rational to an integer, to nearest with ties to even. -/
def rneNat (q : Rat) : Nat :=
  let f := q.num.natAbs / q.den
  let r := 2 * (q.num.natAbs % q.den)
  if r < q.den then f else if q.den < r then f + 1 else f + f % 2

/-- Magnitude bits of q > 0 in a binary format with eb exponent and mb fraction bits, without overflow (R140).
DESIGN CHOICE: log entry 16. -/
def encodeMag (eb mb : Nat) (q : Rat) : Nat :=
  if q = 0 then 0
  else
    let emin : Int := 2 - (2 : Int) ^ (eb - 1)
    let e := log2Floor q
    let e' := if e < emin then emin else e
    let r := rneNat (q / pow2 (e' - mb))
    (e' - emin).toNat * 2 ^ mb + r

/-- Decode sign, exponent and fraction bits of an IEEE-shaped format, infinities and NaNs included. -/
def decodeIeee (eb mb : Nat) (v : Nat) : FV :=
  let neg := bit v (eb + mb)
  let e := bits v (eb + mb - 1) mb
  let f := v % 2 ^ mb
  let emin : Int := 2 - (2 : Int) ^ (eb - 1)
  if e = 2 ^ eb - 1 then (if f = 0 then .inf neg else .nan)
  else if e = 0 then .fin neg (f * pow2 (emin - mb))
  else .fin neg ((2 ^ mb + f : Nat) * pow2 (emin + e - 1 - mb))

/-- Decode a format with neither infinity nor NaN (E2M1, E3M2, E2M3). -/
def decodeMini (eb mb : Nat) (v : Nat) : FV :=
  let neg := bit v (eb + mb)
  let e := bits v (eb + mb - 1) mb
  let f := v % 2 ^ mb
  let emin : Int := 2 - (2 : Int) ^ (eb - 1)
  if e = 0 then .fin neg (f * pow2 (emin - mb))
  else .fin neg ((2 ^ mb + f : Nat) * pow2 (emin + e - 1 - mb))

/-- Decode FP8 E4M3 as OCP defines it: no infinity, NaN only at 0x7F and 0xFF (Table 4-4). -/
def decodeE4M3 (v : Nat) : FV := if v % 128 = 127 then .nan else decodeMini 4 3 v

/-- Encode a value in an IEEE-shaped format, to nearest even; values beyond the range give an infinity, a NaN the
canonical one (R142). -/
def encodeIeee (eb mb : Nat) : FV → Nat
  | .nan => (2 ^ eb - 1) * 2 ^ mb + 2 ^ (mb - 1)
  | .inf neg => (2 ^ eb - 1) * 2 ^ mb + b2n neg * 2 ^ (eb + mb)
  | .fin neg q =>
    let m := encodeMag eb mb q
    (if (2 ^ eb - 1) * 2 ^ mb ≤ m then (2 ^ eb - 1) * 2 ^ mb else m) + b2n neg * 2 ^ (eb + mb)

/-- FP32. -/
def decF32 (v : BitVec 32) : FV := decodeIeee 8 23 v.toNat
/-- FP32. -/
def encF32 (x : FV) : BitVec 32 := BitVec.ofNat 32 (encodeIeee 8 23 x)
/-- BF16. -/
def decBf (v : BitVec 16) : FV := decodeIeee 8 7 v.toNat
/-- BF16. -/
def encBf (x : FV) : BitVec 16 := BitVec.ofNat 16 (encodeIeee 8 7 x)
/-- FP16 (IEEE binary16). -/
def decF16 (v : BitVec 16) : FV := decodeIeee 5 10 v.toNat

/-- Widening of a BF16 value to FP32: exact, a NaN gives the canonical NaN (R142). -/
def widenBf (v : BitVec 16) : BitVec 32 := encF32 (decBf v)
/-- Widening of an FP16 value to FP32 (R142, R173). -/
def widenF16 (v : BitVec 16) : BitVec 32 := encF32 (decF16 v)

/-- Exact sum of two values; a zero sum is +0 unless both are -0 (R131, R140). DESIGN CHOICE: log entry 16. -/
def FV.add : FV → FV → FV
  | .nan, _ => .nan
  | _, .nan => .nan
  | .inf a, .inf b => if a = b then .inf a else .nan
  | .inf a, .fin .. => .inf a
  | .fin .., .inf b => .inf b
  | .fin a p, .fin b q =>
    let r := signed a p + signed b q
    if r = 0 then .fin (a && b) 0
    else if r < 0 then .fin true (-r) else .fin false r

/-- Exact product. -/
def FV.mul : FV → FV → FV
  | .nan, _ => .nan
  | _, .nan => .nan
  | .inf a, .inf b => .inf (a != b)
  | .inf a, .fin b q => if q = 0 then .nan else .inf (a != b)
  | .fin a q, .inf b => if q = 0 then .nan else .inf (a != b)
  | .fin a p, .fin b q => .fin (a != b) (p * q)

/-- Negation. -/
def FV.neg : FV → FV
  | .nan => .nan
  | .inf a => .inf (!a)
  | .fin a q => .fin (!a) q

/-- Magnitude. -/
def FV.abs : FV → FV
  | .nan => .nan
  | .inf _ => .inf false
  | .fin _ q => .fin false q

/-- Less-than on numbers, a NaN compares false. -/
def FV.lt : FV → FV → Bool
  | .nan, _ => false
  | _, .nan => false
  | .inf a, .inf b => a && !b
  | .inf a, .fin .. => a
  | .fin .., .inf b => !b
  | .fin a p, .fin b q => decide (signed a p < signed b q)

/-- The sign of a value. -/
def FV.isNeg : FV → Bool
  | .nan => false
  | .inf a => a
  | .fin a _ => a

/-- Whether a value is a NaN. -/
def FV.isNan : FV → Bool
  | .nan => true
  | _ => false

/-- FP32 sum, rounded once (R140). -/
def fadd (a b : BitVec 32) : BitVec 32 := encF32 ((decF32 a).add (decF32 b))
/-- FP32 difference. -/
def fsub (a b : BitVec 32) : BitVec 32 := encF32 ((decF32 a).add (decF32 b).neg)
/-- FP32 product. -/
def fmul (a b : BitVec 32) : BitVec 32 := encF32 ((decF32 a).mul (decF32 b))
/-- FP32 fused multiply-add a × b + c, rounded once (R141). -/
def ffma (a b c : BitVec 32) : BitVec 32 := encF32 (((decF32 a).mul (decF32 b)).add (decF32 c))

/-- The larger of two values with the NaN rule of R106 and the zeros of R142. -/
def FV.max (x y : FV) : FV :=
  if x.isNan then y else if y.isNan then x
  else if x.lt y then y else if y.lt x then x
  else if x.isNeg then y else x

/-- The smaller of two values, with the same rules. -/
def FV.min (x y : FV) : FV :=
  if x.isNan then y else if y.isNan then x
  else if x.lt y then x else if y.lt x then y
  else if x.isNeg then x else y

/-- FP32 maximum (R106, R142). -/
def fmax (a b : BitVec 32) : BitVec 32 := encF32 ((decF32 a).max (decF32 b))
/-- FP32 minimum. -/
def fmin (a b : BitVec 32) : BitVec 32 := encF32 ((decF32 a).min (decF32 b))

/-- Round a rational to an integer, to nearest even. -/
def rneInt (q : Rat) : Int := if q < 0 then -(rneNat (-q) : Int) else (rneNat q : Int)

/-- FP32 or widened value to INT32: nearest even, saturating, NaN gives 0 (Table 5-1). -/
def toInt32 : FV → BitVec 32
  | .nan => 0
  | .inf neg => if neg then 0x80000000#32 else 0x7FFFFFFF#32
  | .fin neg q =>
    let i := rneInt (signed neg q)
    if 2147483647 < i then 0x7FFFFFFF#32
    else if i < -2147483648 then 0x80000000#32
    else BitVec.ofInt 32 i

/-- An integer as an exact value. -/
def ofInt (i : Int) : FV := if i < 0 then .fin true (-i : Int) else .fin false (i : Int)

/-- A rational as an exact value. -/
def ofRat (q : Rat) : FV := if q < 0 then .fin true (-q) else .fin false q

/-! Exact special functions, to a precision far beyond FP32: fixed point with `prec` fraction bits. -/

/-- Fraction bits of the fixed-point evaluation. -/
def prec : Nat := 192

/-- Taylor sum of exp at fixed point x (below 1): term is the current term, n its number, k the terms left. -/
def expTaylor (x : Nat) : Nat → Nat → Nat → Nat → Nat
  | 0, _, _, acc => acc
  | k + 1, n, term, acc =>
    let t := term * x / 2 ^ prec / n
    expTaylor x k (n + 1) t (acc + t)

/-- Repeated squaring in fixed point. -/
def sqrFix : Nat → Nat → Nat
  | 0, v => v
  | k + 1, v => sqrFix k (v * v / 2 ^ prec)

/-- exp of a non-negative fixed-point number: argument over 64, Taylor, six squarings. -/
def expFix (x : Nat) : Nat := sqrFix 6 (expTaylor (x / 64) 48 1 (2 ^ prec) (2 ^ prec))

/-- Sum of 1 / (n 2^n): ln 2 in fixed point. -/
def ln2Sum : Nat → Nat → Nat
  | 0, _ => 0
  | k + 1, n => 2 ^ prec / (n * 2 ^ n) + ln2Sum k (n + 1)

/-- ln 2 in fixed point. -/
def ln2Fix : Nat := ln2Sum 200 1

/-- A non-negative rational in fixed point. -/
def toFix (q : Rat) : Nat := q.num.natAbs * 2 ^ prec / q.den

/-- A fixed-point number as a rational. -/
def ofFix (v : Nat) : Rat := (v : Rat) / ((2 ^ prec : Nat) : Rat)

/-- 2^f for f in [0, 1]. -/
def exp2Frac (f : Rat) : Rat := if f = 0 then 1 else if f = 1 then 2 else ofFix (expFix (toFix f * ln2Fix / 2 ^ prec))

/-- exp a for a non-negative rational. -/
def expQ (a : Rat) : Rat := ofFix (expFix (toFix a))

/-- tanh a for a non-negative rational. -/
def tanhQ (a : Rat) : Rat := if a = 0 then 0 else 1 - 2 / (expQ (2 * a) + 1)

/-- The logistic function of a non-negative rational. -/
def sigQ (a : Rat) : Rat := let e := expQ a; e / (1 + e)

/-- 1 / sqrt u for a positive rational. -/
def rsqQ (u : Rat) : Rat :=
  let v := (u.den * 2 ^ (2 * prec)) / u.num.natAbs
  (Nat.sqrt v : Rat) / ((2 ^ prec : Nat) : Rat)

/-- floor of a rational. -/
def floorQ (q : Rat) : Int := q.floor

end Sys2Proof.Machine
end

