-- ==== Sys2Proof/Machine/State.lean ====
section
/-! DEFINITION. The state of the device as plain data, its faults and refusals, and the state after reset.
Each structure names the rules of spec/ that give it; INVENTORY.md lists every field with its reset value. -/

namespace Sys2Proof.Machine

/-- Why a step stops. -/
inductive Fault where
  /-- Raised by a meaning whose term is no instance of its row (a VOP row whose VOPC is another operation's):
  WellFormed refuses such a term, the hardware has no such command. Safe: the model stops. -/
  | illFormed
deriving DecidableEq, Repr

/-- Why a step is refused. -/
inductive Refusal where
  /-- Answered by the dispatcher alone for a command without a meaning. Safe: the model stops. -/
  | notModelled (mnemonic : String)
deriving DecidableEq, Repr

/-! ### Cores (02, 03) -/

/-- Where a core stands in its part of a command (R43, R47, R73). -/
inductive Phase where
  | idle | running | ending | draining | stopped | ended
deriving DecidableEq, Repr

/-- A stop: cause of Table 2-6 and the address of the instruction concerned (R70). -/
structure Stop where
  cause : Nat := 0
  addr : Nat := 0
deriving DecidableEq, Repr

/-- A descriptor register, four 64-bit words (Table 3-4). -/
structure Desc where
  w0 : BitVec 64 := 0
  w1 : BitVec 64 := 0
  w2 : BitVec 64 := 0
  w3 : BitVec 64 := 0
deriving DecidableEq, Repr

/-- An engine operation that has issued, with its copies of descriptors and scalars (R49, R53, R85), and whether a
request of it is outstanding (R55). -/
structure Op where
  i : Instr
  eng : Eng
  tok : Nat
  ch : Nat
  pc : Nat
  ra : BitVec 64
  rb : BitVec 64
  da : Desc
  da1 : Desc
  db : Desc
  db1 : Desc
  dc : Desc
  copy : Nat := 0
  fin : Bool := false
  waits : Bool := false
deriving DecidableEq, Repr

/-- A posted store, or a posted SIGNAL to a core or to the rig's event vector (R40, R65). -/
inductive Post where
  | store (a : Nat) (bs : List Byte)
  | orTo (t : CoreId) (v : BitVec 64)
  | event (v : BitVec 64)
deriving DecidableEq, Repr

/-- A posted write, the instruction that posted it, and how far it has come: placed ahead of later requests (R61), its OR or
event performed and not yet acknowledged (R55). -/
structure Posted where
  p : Post
  pc : Nat := 0
  placed : Bool := false
  done : Bool := false
deriving DecidableEq, Repr

/-- An entry of a correctable-error log (R482). -/
structure LogEnt where
  addr : Nat
  count : Nat
deriving DecidableEq, Repr

/-- A dispatch on its way to a core: entry, index, number of cores, operand address (R43, Table 2-2). -/
structure Disp where
  entry : Nat
  index : Nat
  count : Nat
  opnd : Nat
deriving DecidableEq, Repr

/-- A logical core: its architectural state (Table 3-1), engines, caches and posted writes; `stallReq` says that the
stalled instruction has a request outstanding (R55), `budget` bounds the elements an operation still performs (R331). -/
structure Core where
  phase : Phase := .idle
  down : Bool := false
  stop : Option Stop := none
  stall : Option Instr := none
  stallReq : Bool := false
  disp : Option Disp := none
  g : Tab (BitVec 64) := []
  p : BitVec 8 := 0
  d : Tab (BitVec 64) := []
  v : Tab (BitVec 32) := []
  acc : Tab (BitVec 32) := []
  accW : BitVec 4 := 0
  tok : BitVec 64 := 0
  ret : List (BitVec 64) := []
  pc : BitVec 64 := 0
  cyc : BitVec 64 := 0
  stRec : Option (BitVec 8) := none
  recLive : Tab (BitVec 6) := []
  recShad : Tab (BitVec 6) := []
  store : Tab (BitVec 16) := []
  scale : Tab (BitVec 8) := []
  ks : Nat := 0
  mxT : Bool := false
  lku : Tab (BitVec 16) := []
  liveB : Bool := false
  epoch : BitVec 32 := 0
  q : List Op := []
  run : List Op := []
  posted : List Posted := []
  atBar : Option (Fin 16) := none
  chHalt : BitVec 4 := 0
  l1d : List Nat := []
  l1Data : Mem := []
  l1i : List Nat := []
  l1Bad : Tab Nat := []
  log : List LogEnt := []
  retired : Bool := false
  budget : Option Nat := none
  free : Nat := 0
deriving DecidableEq, Repr

/-! ### Memory (01, 08, 09, 18) -/

/-- The state of a 4 KiB granule (R262, R478). -/
inductive Gran where
  | unwritten | written | dead | poisoned
deriving DecidableEq, Repr

/-- The mark of a protected word: clean, one correctable corruption at a position, or uncorrectable (R477). -/
inductive Err where
  | none | ce (pos : Nat) | ue
deriving DecidableEq, Repr

/-- A resident LLC line (R211, R215, R220, R225, R227, R238). Sectors are bits; `bad1`, `bad2` are sectors with one
and with more corrupted bits (R484); `tag` has a bit for each copy of the line's tag that is uncorrectable (R479). -/
structure Line where
  slice : Nat
  set : Nat
  way : Nat
  valid : BitVec 16
  dirty : BitVec 16
  bad1 : BitVec 16 := 0
  bad2 : BitVec 16 := 0
  flag : Bool
  pins : Nat := 0
  age : Nat := 0
  tag : BitVec 2 := 0
deriving DecidableEq, Repr

/-- A request at a slice (R217); `counted` once its slice has counted it as a miss (R221). -/
structure LlcReq where
  who : Who
  cls : Fin 5
  a : Nat
  op : LlcOp
  counted : Bool := false
deriving DecidableEq, Repr

/-- A line being filled: way reserved (none: served without allocation), and the request waiting (R215, R223). -/
structure FillReq where
  line : Nat
  way : Option Nat
  req : LlcReq
deriving DecidableEq, Repr

/-- A stream tracker of one slice (R222). -/
structure Tracker where
  slice : SliceId
  who : Who
  last : Nat
  run : Nat
  bypass : Bool
  age : Nat
deriving DecidableEq, Repr

/-- A line the host has read with caching permitted (R241); age 0 while a back-invalidate frees the entry; `bad` has a bit
for each copy of the entry that is uncorrectable (R479). -/
structure DirEnt where
  line : Nat
  modified : Bool
  age : Nat
  bad : BitVec 2 := 0
deriving DecidableEq, Repr

/-- The LLC and the host directory (08): `acks` are the lines of writes not yet acknowledged (R227), `splits` the written
lines of pairs that wait for a way of their own (R225), `frees` the lines whose snoop frees the directory entry (R242). -/
structure Llc where
  lines : Tab Line := []
  clock : Nat := 0
  fills : List FillReq := []
  setW : List Nat := []
  setR : List Nat := []
  acks : List Nat := []
  splits : List Nat := []
  waiting : List (Nat × LlcReq) := []
  heldG : List Nat := []
  held : List LlcReq := []
  reds : List (Nat × LlcReq) := []
  fwd : List (Nat × LlcReq) := []
  fwdHeld : List LlcReq := []
  snoops : List Nat := []
  frees : List Nat := []
  snHeld : List LlcReq := []
  trk : List Tracker := []
  dir : List DirEnt := []
  key : BitVec 64 := 0
  staged : Option (BitVec 64) := none
  rmode : Tab (BitVec 2) := []
  rstage : Tab (Option (BitVec 2)) := []
  hits : Tab (BitVec 64) := []
  misses : Tab (BitVec 64) := []
  retired : Tab (BitVec 16) := []
  failing : Tab (BitVec 16) := []
  spareFor : Tab (Option Nat) := []
  out : Option (List Byte × Bool) := none
deriving DecidableEq, Repr

/-! ### Halyards, tiles, HBM channels and bank units (09, 10) -/

/-- One 64 B transfer of a request at a tile controller (R253): whether it came over the mesh, whether it is its request's last, and
whether a pending change to unit mode waits for it (R275). -/
structure TileReq where
  off : Nat
  op : MemOp
  mesh : Bool := false
  last : Bool := true
  before : Bool := false
deriving DecidableEq, Repr

/-- What the transfers of a read answered so far: bytes, whether a word was uncorrectable, and whether a dead granule was met. -/
structure Taken where
  bytes : List Byte := []
  ue : Bool := false
  dead : Bool := false
deriving DecidableEq, Repr

/-- A halyard and its tile controller (R246 to R269, R482, R489): `hold` while a wire or the width changes (R249, R250), `turn` the beats
given while both queues held requests (R253), `gangs` the number of chains its banks were given. -/
structure Tile where
  half : Bool := false
  wireErr : Tab Nat := []
  wireBad : Tab Bool := []
  win : Nat := 0
  fast : Bool := false
  dl : Nat := 16
  dutyHit : Bool := false
  openRow : Tab (Option Nat) := []
  refr : BitVec 16 := 0
  cq : List TileReq := []
  mq : List TileReq := []
  hold : Bool := false
  turn : Nat := 0
  cpart : Taken := {}
  mpart : Taken := {}
  gangs : Nat := 0
  out : Option (List Byte × Bool) := none
  log : List LogEnt := []
  spare : Tab Nat := []
deriving DecidableEq, Repr

/-- A command a bank unit runs: its CMD word, the operand words as it started, its progress, and for a chain
step its members in order (R280, R289), the number of its gang start and whether the member only forwards (R291); `hits` are the bytes of its own source that a BITSET has
written (R288). -/
structure BankRun where
  w : BitVec 64
  src : Nat
  dst : Nat
  n : Nat
  exb : Nat
  pat : BitVec 64
  cdst : Nat
  fmt : Nat
  pos : Nat := 0
  acc : Tab (BitVec 64) := []
  waiting : Bool := false
  chain : List Nat := []
  deads : List Nat := []
  id : Nat := 0
  fwd : Bool := false
  hits : List Nat := []
deriving DecidableEq, Repr

/-- What the chain link brings to a member: its predecessor's lists, or a break mark (R290, R293). -/
inductive ChainIn where
  | lists (ls : List (List Nat))
  | broken
deriving DecidableEq, Repr

/-- A bank and its unit (R273 to R303): `inS` is what the chain link brought to the command that runs, `inQ` to the CHAIN that is queued
and given by gang start `qid`; `abort` while an ABORT waits for a safe point (R283); `fin` the code of a command that ends once its owed
refreshes are done (R298). -/
structure Bank where
  unit : Bool := false
  pend : Option Bool := none
  seq : BitVec 16 := 0
  opc : BitVec 8 := 0
  err : BitVec 8 := 0
  paused : Bool := false
  slice : Bool := false
  cut : Bool := false
  run : Option BankRun := none
  queued : Option (BitVec 64 × List Nat) := none
  op : Tab (BitVec 64) := []
  qa : Mem := []
  score : Bool := false
  lists : Tab (List Nat) := []
  result : BitVec 64 := 0
  faultOff : BitVec 23 := 0
  owed : Nat := 0
  held : List TileReq := []
  inS : Option ChainIn := none
  inQ : Option ChainIn := none
  qid : Nat := 0
  abort : Bool := false
  fin : Option (BitVec 8) := none
deriving DecidableEq, Repr

/-- What belongs to a core position that backs no logical column: its halyard and tile, its locker's log, and whether its locker is retired
(R22, R25, R482, Table 18-9). -/
structure Parked where
  tile : Tile := {}
  log : List LogEnt := []
  retired : Bool := false
deriving DecidableEq, Repr

/-- An HBM channel controller (R258, R268, R478, R482, R495). -/
structure Hbm where
  fast : Bool := false
  retries : Nat := 0
  win : Nat := 0
  training : Bool := false
  lost : Bool := false
  log : List LogEnt := []
deriving DecidableEq, Repr

/-! ### Yards (01, 16, 17, 18) -/

/-- How a yard's core supply stands in a power-on (R443): none in progress, waiting under step 1, waiting under step 2,
ramping. -/
inductive Ramp where
  | no | wait | ready | ramping
deriving DecidableEq, Repr

/-- A yard: its positions and mapping (R21 to R24), reef level (R445, R447), regulator (R433), power-on (R443),
temperatures in tenths of a degree (R461 to R463), and telltales (R498 to R500); `dark` once both its supplies are off (R432). -/
structure Yard where
  bad : BitVec 18 := 0
  work : BitVec 18 := 0
  prev : BitVec 18 := 0
  lvl : Nat := 0
  held : Bool := false
  cause : Nat := 0
  boost : Nat := 0
  cells : Nat := 0
  ramp : Ramp := .no
  quarter : Bool := false
  own : Nat := 0
  model : Nat := 0
  hasModel : Bool := false
  tileT : Nat := 0
  tileM : Nat := 0
  susp : Bool := false
  tsusp : Bool := false
  diff : Nat := 0
  tdiff : Nat := 0
  hot : Bool := false
  tileHot : Bool := false
  warned : Option Nat := none
  raised : Option Nat := none
  pow : Nat := 0
  hist : List (Nat × Nat) := []
  slack : Int := 0
  base : Int := 0
  temp : Nat := 0
  low : Nat := 0
  raw : Int := 0
  levels : List Int := []
  samples : List Int := []
  off : Int := 0
  ceil : Nat := 0
  offNext : Option Int := none
  ceilNext : Option Nat := none
  guard : Nat := 0
  retired : Bool := false
  netHold : Bool := false
  netDown : Bool := false
  dark : Bool := false
deriving DecidableEq, Repr

/-! ### Command streams and commands (12, 13) -/

/-- A fetched command line: its stream, ring index, first and second line, plan bytes,
and its observation tick (R327, R357, R361). -/
structure CRec where
  strm : Nat := 0
  slot : Nat := 0
  l1 : List Byte := []
  l2 : List Byte := []
  t0 : Nat := 0
  plan : List Byte := []
deriving DecidableEq, Repr

/-- An HDM decoder: its base and size, and whether it is committed (R354). -/
structure Hdm where
  base : Nat := 0
  size : Nat := 0
  commit : Bool := false
deriving DecidableEq, Repr

/-- A stream (R356 to R363, Table 13-7). -/
structure Strm where
  en : Bool := false
  act : Bool := false
  head : BitVec 16 := 0
  exp : BitVec 32 := 0
  tail : BitVec 32 := 0
  err : BitVec 4 := 0
  halt : Bool := false
  fetched : List CRec := []
  out : Nat := 0
  fence : Bool := false
  okN : Nat := 0
  otherN : Nat := 0
deriving DecidableEq, Repr

/-- A status code and the eight bytes of DETAIL (Table 13-14). -/
structure Fin' where
  status : BitVec 8
  detail : BitVec 64
deriving DecidableEq, Repr

/-- An UPDATE in progress (R397 to R404): rendezvous held as sender and as receiver, blocks or bytes received, blocks
formed that wait for the peer's credit, and the program copied at admission (R405). -/
structure Upd where
  rvSend : Bool := false
  rvRecv : Bool := false
  pos : Nat := 0
  held : List (List Byte) := []
  prog : List (BitVec 64) := []
deriving DecidableEq, Repr

/-- How far a command has come: waiting in a plan; its cores or engine at work; a SEARCH waiting for its re-ranker. -/
inductive Stage where
  | waiting | running | rerank
deriving DecidableEq, Repr

/-- An accepted command of a rig: its line, cost and deadline (R329, R340), whether a pending change of the floor or of
the rig's share waits for it (R349), its cores and barrier groups, how far its cores have come (R67, R68, R74, R75), whether any has run, and
the ticks since its dispatch in which one of their yards was reefed (R376). -/
structure Cmd where
  r : CRec := {}
  w : Nat := 0
  d : Nat := 0
  idle : Bool := false
  moved : Bool := false
  hFloor : Bool := false
  hShare : Bool := false
  stage : Stage := .waiting
  disp : Nat := 0
  energy : BitVec 64 := 0
  cores : BitVec 4096 := 0
  groups : Tab (BitVec 4096) := []
  arrived : Tab (BitVec 4096) := []
  ended : BitVec 4096 := 0
  stopped : BitVec 4096 := 0
  rep : Option (Nat × Stop) := none
  repAt : Nat := 0
  front : Option Nat := none
  fin : Option Fin' := none
  cand : Nat := 0
  bmap : Nat := 0
  dir : Nat := 0
  upd : Upd := {}
  ran : Bool := false
  reef : Nat := 0
deriving DecidableEq, Repr

/-- A rig (R407): its resources, command plan (R335), corpus record (R346), contract state (R333, R336) and floor
figures (R451). -/
structure Rig where
  cores : BitVec 4096 := 0
  regions : BitVec 384 := 0
  ways : BitVec 64 := 0
  hbm : Nat := 0
  stay : Nat := 0
  pahus : Nat := 0
  pwr : Nat := 0
  evec : Nat := 0
  gen : BitVec 16 := 0
  st : Nat := 0
  rrtime : Nat := 0
  running : Option Cmd := none
  plan : List Cmd := []
  cq : List Cmd := []
  corpP : Nat := 0
  corpM : Nat := 0
  crig : Bool := false
  fault : Bool := false
  iv : List HwFault := []
  ff : Nat := 0
  sf : Nat := 0
  dl : Nat := 0
  phi : Nat := 0
  newPwr : Option Nat := none
  deads : Nat := 0
  reefs : Nat := 0
deriving DecidableEq, Repr

/-- A record waiting to be written: of a running command of a rig, or of a command with its outcome at hand. -/
structure Done where
  r : CRec
  rig : Option Nat := none
  fin : Fin' := ⟨0, 0⟩
deriving DecidableEq, Repr

/-- A RERIG past phase 2: its line, the affected rigs and the plan block. -/
structure Rerig where
  r : CRec
  mask : BitVec 64
  plan : List Byte
deriving DecidableEq, Repr

/-- The admission unit and the completion writer (12, 13). -/
structure Adm where
  now : Nat := 0
  last : Option Nat := none
  rr : Nat := 0
  passed : List CRec := []
  done : List Done := []
  rerig : Option Rerig := none
  rerigQ : List CRec := []
  admits : BitVec 64 := 0
  rejects : BitVec 64 := 0
deriving DecidableEq, Repr

/-! ### Cascade (14) -/

/-- A Pahus port (R379 to R383, Table 14-9): its state, PEN, whether the connector reports a peer, failed lanes, the lane
the spare stands for, retransmissions, delay, the peer, and the probe under way. -/
structure Port where
  st : BitVec 3 := 0
  pen : Bool := false
  present : Bool := false
  failed : BitVec 17 := 0
  spare : Option Nat := none
  retry : Nat := 0
  delay : Nat := 0
  peerRank : BitVec 6 := 0
  peerPort : BitVec 3 := 0
  t1 : Option Nat := none
deriving DecidableEq, Repr

/-- A control message the module puts on its ports: configuration, heartbeat, barrier arrival and released mark with the delay of the
path so far, release, delay probe, echo with hold time (R384, R392). -/
inductive Msg where
  | config (epoch : BitVec 32) (master standby : BitVec 6) (hasStandby : Bool) (nmem : BitVec 6)
  | heartbeat (epoch : BitVec 32) (seq : Nat)
  | arrival (tag : BitVec 8) (rank : BitVec 6) (delay : Nat)
  | mark (tag : BitVec 8) (rank : BitVec 6) (delay : Nat)
  | release (tag : BitVec 8) (rank : BitVec 6) (due : Nat)
  | probe (t1 : Nat)
  | echo (h : Nat)
deriving DecidableEq, Repr

/-- Data of a rig that waits at a port behind the port's control messages, and the round of the weighted round-robin it goes in
(R384). -/
structure WireOut where
  port : Nat
  rig : Nat
  round : Nat
  bytes : List Byte
deriving DecidableEq, Repr

/-- A barrier the master holds open (R393 to R395): the tick of the last arrival, and arrivals of the next barrier with
its tag. -/
structure Bar where
  tag : BitVec 8
  ranks : BitVec 64 := 0
  marks : BitVec 64 := 0
  sent : BitVec 64 := 0
  delays : Tab Nat := []
  full : Option Nat := none
  later : List (Nat × Nat) := []
deriving DecidableEq, Repr

/-- The cascade as this module sees it (R387 to R395, Table 14-8). -/
structure Casc where
  rank : BitVec 6 := 0
  epoch : BitVec 32 := 0
  nmem : BitVec 6 := 0
  standby : BitVec 6 := 0
  hasStandby : Bool := false
  master : BitVec 6 := 0
  role : BitVec 2 := 0
  hb : Nat := 0
  seen : Option Nat := none
  bars : List Bar := []
  relTags : List (BitVec 8) := []
  ports : Tab Port := []
  out : List (Nat × Msg) := []
  data : List WireOut := []
deriving DecidableEq, Repr

/-! ### Power and temperature (16, 17) -/

/-- A vertical path (R438, R439): ratio in 1/256, state, and the states its latest two windows would give. -/
structure Path where
  ratio : Rat := 256
  st : BitVec 2 := 0
  c1 : BitVec 2 := 0
  c2 : BitVec 2 := 0
deriving DecidableEq, Repr

/-- The rails of Table 16-3. -/
inductive Rail where
  | vstby | link | step | mem | hbm | vin | yard
deriving DecidableEq, Repr

/-- A rail that has come up: its mast, and its voltage in thousandths of the setpoint (R431). -/
structure RailUp where
  rail : Rail
  mast : Nat
  volts : Nat
deriving DecidableEq, Repr

/-- Power delivery and the governor (16, 17). -/
structure Pwr where
  feedA : Bool := true
  feedB : Bool := true
  alost : Bool := false
  blost : Bool := false
  va : Nat := 0
  vb : Nat := 0
  ia : Nat := 0
  ib : Nat := 0
  conv : BitVec 4 := 0xF
  clost : Bool := false
  chg : Bool := false
  paths : Tab Path := []
  cap : Nat := 0
  floor : Nat := 0
  newFloor : Nat := 0
  sample : Nat := 0
  mean1 : Nat := 0
  mean10 : Nat := 0
  peak : Nat := 0
  est : Nat := 0
  est1 : Nat := 0
  diff : Nat := 0
  cons : Bool := false
  duty : BitVec 64 := 0
  emerg : Bool := false
  below : Bool := false
  air : Bool := false
  off : Bool := false
  ev : Nat := 0
  attr : Tab Rat := []
  attrS : Tab Rat := []
  waits : List Nat := []
  rails : List RailUp := []
deriving DecidableEq, Repr

/-- Temperatures beyond the yards, and coolant (17), in tenths of a degree and hundredths of a litre per minute. -/
structure Therm where
  step : Tab Nat := []
  hbm : Tab Nat := []
  tin : Nat := 0
  tout : Nat := 0
  flow : Rat := 0
  inf : Rat := 0
  stepHot : BitVec 4 := 0
  hbmHot : BitVec 8 := 0
  flowm : Nat := 0
  pulses : Nat := 0
  n : Nat := 0
  warn : Bool := false
  cut : Bool := false
  loss : Bool := false
  inhot : Bool := false
  invalid : Bool := false
  mdis : Bool := false
  limit : Bool := false
  tripped : Bool := false
  okFor : Nat := 0
  small : Nat := 0
  large : Nat := 0
  smallKept : Nat := 0
  largeKept : Nat := 0
  lowS : Option Nat := none
  highS : Nat := 0
  lowL : Option Nat := none
  highL : Nat := 0
  pldm : Tab Nat := []
  events : List (Nat × Nat) := []
deriving DecidableEq, Repr

/-! ### Network, start-up, security, test, crow's nest (11, 19 to 22) -/

/-- The wires of one direction of a link, or the lanes of one direction of a stay (R490, R491). -/
structure Wires where
  win : Nat := 0
  errs : Tab Nat := []
  bad : List Nat := []
deriving DecidableEq, Repr

/-- Network state: links, stay lanes, groups out of service, router windows, hot edges, lost references, the masts in which a link
cannot keep half width (R490), and the latest readings of the edge routers' sensors, in tenths of a degree (R318). -/
structure Net where
  links : Tab Wires := []
  half : List Nat := []
  stays : Tab Wires := []
  out : Tab (BitVec 16) := []
  loads : List (Router × List LinkLoad × Nat) := []
  hotcnt : Nat := 0
  hot : Bool := false
  hotsel : Nat := 0
  refLost : BitVec 4 := 0
  dead : BitVec 4 := 0
  temp : Tab Nat := []
deriving DecidableEq, Repr

/-- Start-up (19): phase 0 off, 1 starting, 5 ready, 6 failed. -/
structure Boot where
  ph : Nat := 1
  step : Nat := 1
  cause : BitVec 8 := 0
  stime : Nat := 0
  nfull : Nat := 0
  fast : Bool := false
  force : Bool := false
  perst : Bool := true
  paused : Bool := false
  gen : BitVec 8 := 0
  link : Bool := false
  pcie : Bool := false
  saved : Bool := false
deriving DecidableEq, Repr

/-- An SPDM session (R527, R533): its number, transport (0 DOE, 1 MCTP, 2 + p Pahus). -/
structure Sess where
  id : Nat
  via : Nat
deriving DecidableEq, Repr

/-- Capabilities of the SPDM responder (Table 20-2). -/
inductive SpdmCap where
  | cert | chal | meas | measFresh | keyEx | encrypt | mac | hbeat | keyUpd | mutAuth | chunk
deriving DecidableEq, Repr

/-- Algorithms of the SPDM responder (Table 20-2). -/
inductive SpdmAlg where
  | rsassa3072 | sha384 | secp384r1 | aes256gcm
deriving DecidableEq, Repr

/-- The last signed SPDM exchange on a transport, and what SLHSIG_REQ may name (R528). -/
inductive SpdmRsp where
  | version (vs : List (Nat × Nat))
  | capabilities (cs : List SpdmCap)
  | algorithms (as : List SpdmAlg)
  | digests (ds : List (List Byte))
  | certificate (slot : Nat) (part : List Byte) (rest : Nat)
  | keyExchange (sess : Nat) (sig : BitVec 512)
  | limit
  | challenge (sig : BitVec 512)
  | measurements (idx : Nat) (digest : BitVec 384) (sig : BitVec 512)
  | ack
  | error
  | slhsig (sig : BitVec 512)
deriving DecidableEq, Repr

/-- An identity key pair of the key unit (R525). -/
structure KeyPair where
  priv : Nat := 0
  pub : Nat := 0
deriving DecidableEq, Repr

/-- One copy of the fuses (R508, Table 19-2): the parts it names bad, in the numbering of the failure record, and the unique secret
(R525). -/
structure Fuses where
  bad : List (Nat × Nat) := []
  secret : BitVec 256 := 0
deriving DecidableEq, Repr

/-- Security (20). -/
structure Sec where
  sess : List Sess := []
  bound : Option Nat := none
  key : BitVec 384 := 0
  ctr : BitVec 64 := 0
  slotA : Option (List Byte) := none
  slotB : Option (List Byte) := none
  next : Bool := false
  run : Bool := false
  fuse : Nat := 0
  commit : Bool := false
  pins : Tab (BitVec 256) := []
  rej : Nat := 0
  last : BitVec 8 := 0
  busy : Bool := false
  op : BitVec 8 := 0
  result : BitVec 8 := 0
  rsp : Option (Nat × SpdmRsp) := none
  rsa : KeyPair := {}
  slh : KeyPair := {}
deriving DecidableEq, Repr

/-- A loop-back interface (Tables 22-4, 22-5). -/
structure Loop where
  ctl : BitVec 64 := 0
  st : BitVec 8 := 0
  result : BitVec 8 := 0
  errs : Nat := 0
  time : Nat := 0
deriving DecidableEq, Repr

/-- The sheet controller: not started, running, in its wait state, in a lockstep takeover, or dead (R494, R553). -/
inductive Sheet where
  | notStarted | running | waiting | takeover | dead
deriving DecidableEq, Repr

/-- The crow's nest (R553, R554). -/
structure Nest where
  sheet : Sheet := .notStarted
  standby : Bool := true
  latched : List Nat := []
  timer : Bool := false
deriving DecidableEq, Repr

/-- The register-started scrub (Tables 18-6, 18-7). -/
structure Scrub where
  nofix : Bool := false
  busy : Bool := false
  done : Bool := false
  status : BitVec 8 := 0
  sum : List (BitVec 64) := [0, 0, 0, 0]
  rig : Option Nat := none
deriving DecidableEq, Repr

/-- The hot-slice record of LLC_HOT_STAT (R244). -/
structure Hot where
  hot : Bool := false
  slice : Nat := 0
  count : Nat := 0
  occ : Nat := 0
deriving DecidableEq, Repr

/-! ### Events (21) -/

/-- The signal controller (R540 to R551). Routes, holdoffs and MSI-X masks are held where they differ from reset; `msg` holds the message
address and data of the MSI-X entries (R352), `now` the last tick of its own counter that a command named (R328). -/
structure Evt where
  pend : BitVec 2048 := 0
  mask : BitVec 2048 := BitVec.allOnes 2048
  route : Tab (BitVec 16) := []
  cause : Tab (BitVec 16) := []
  due : BitVec 2048 := 0
  sheetDue : BitVec 2048 := 0
  hold : Tab (BitVec 8) := []
  until_ : Tab Nat := []
  idle : BitVec 64 := 0
  fnMask : Bool := false
  vecMask : BitVec 2048 := 0
  pba : BitVec 2048 := 0
  sent : List Nat := []
  sheetQ : List Nat := []
  sheetHold : Bool := false
  msg : Tab (BitVec 96) := []
  now : Nat := 0
deriving DecidableEq, Repr

/-! ### Errors and repair (18) -/

/-- An entry of RAS_CE_TABLE (Table 18-4). -/
structure CeEnt where
  kind : Nat
  unit : Nat
  addr : Nat
  stamp : Nat
  count : Nat
  pos : Nat
  repaired : Bool := false
deriving DecidableEq, Repr

/-- Counts, tables and registers of the RAS block (Tables 18-3 to 18-7). -/
structure Ras where
  ce : Nat := 0
  next : Nat := 0
  wrap : Bool := false
  table : Tab CeEnt := []
  ue : Nat := 0
  ueKind : Nat := 0
  ueUnit : Nat := 0
  lslice : Nat := 0
  lostDir : Bool := false
  lost : Bool := false
  ms : Nat := 0
  flipMask : BitVec 64 := 0
  flipTgt : BitVec 64 := 0
deriving DecidableEq, Repr

/-! ### The device -/

/-- The whole device. -/
structure State where
  cores : Tab Core := []
  mem : Mem := []
  gran : Tab Gran := []
  errs : Tab Err := []
  hostMem : Mem := []
  llc : Llc := {}
  tiles : Tab Tile := []
  banks : Tab Bank := []
  hbm : Tab Hbm := []
  yards : Tab Yard := []
  rigs : Tab Rig := []
  strms : Tab Strm := []
  adm : Adm := {}
  casc : Casc := {}
  pwr : Pwr := {}
  therm : Therm := {}
  net : Net := {}
  evt : Evt := {}
  ras : Ras := {}
  scrub : Scrub := {}
  hot : Hot := {}
  failures : List (Nat × Nat) := []
  fuses : List Fuses := [{}, {}, {}]
  parked : Tab Parked := []
  boot : Boot := {}
  sec : Sec := {}
  loops : Tab Loop := []
  nest : Nest := {}
  energyRig : Tab (BitVec 64) := []
  energyStrm : Tab (BitVec 64) := []
  rsp : Option (List Byte × Bool) := none
  hdm : Tab Hdm := []
  ide : Bool := false
  bar0 : Tab (BitVec 64) := []
  free : Nat := 0
  pending : List Instr := []
deriving DecidableEq, Repr

/-- The machine right after reset. DESIGN CHOICE: log entry 2. DESIGN CHOICE: log entry 4. DESIGN CHOICE: log entry 6.
DESIGN CHOICE: log entry 7. DESIGN CHOICE: log entry 9. -/
def State.reset : State := {}

end Sys2Proof.Machine
end

