-- ==== Sys2Proof/Machine/Ops.lean ====
section
/-! DEFINITION. Named operations on the parts of the state, the device address map (R28 to R34), the raising of
events (R541, R548), and the counting of corrected and uncorrectable errors (R480 to R483). -/

namespace Sys2Proof.Machine

/-- The entry of key i, if any. -/
def tfind {α : Type} : Tab α → Nat → Option α
  | [], _ => none
  | (k, v) :: t, i => if k = i then some v else tfind t i

/-- What a command's meaning answers. -/
abbrev Out := Host.Outcome State Fault Refusal

/-! ### Parts of the state -/

/-- Logical core c. -/
def State.core (s : State) (c : Nat) : Core := tget {} s.cores c
/-- Replace logical core c. -/
def State.setCore (s : State) (c : Nat) (k : Core) : State := { s with cores := tset {} s.cores c k }
/-- The tile and halyard of logical core c. -/
def State.tile (s : State) (c : Nat) : Tile := tget {} s.tiles c
/-- Replace the tile of logical core c. -/
def State.setTile (s : State) (c : Nat) (t : Tile) : State := { s with tiles := tset {} s.tiles c t }
/-- Bank b of the tile of logical core c. -/
def State.bank (s : State) (c b : Nat) : Bank := tget {} s.banks (c * 16 + b)
/-- Replace bank b of the tile of logical core c. -/
def State.setBank (s : State) (c b : Nat) (k : Bank) : State := { s with banks := tset {} s.banks (c * 16 + b) k }
/-- An HBM channel, 64 m + c. -/
def State.chan (s : State) (i : Nat) : Hbm := tget {} s.hbm i
/-- Replace an HBM channel. -/
def State.setChan (s : State) (i : Nat) (h : Hbm) : State := { s with hbm := tset {} s.hbm i h }
/-- A rig. -/
def State.rig (s : State) (r : Nat) : Rig := tget {} s.rigs r
/-- Replace a rig. -/
def State.setRig (s : State) (r : Nat) (k : Rig) : State := { s with rigs := tset {} s.rigs r k }

/-- A yard. -/
def State.yard (s : State) (y : Nat) : Yard := tget {} s.yards y
/-- Replace a yard. -/
def State.setYard (s : State) (y : Nat) (k : Yard) : State := { s with yards := tset {} s.yards y k }
/-- Apply f for each number of a list, in order. -/
def State.each (s : State) (xs : List Nat) (f : State → Nat → State) : State := xs.foldl f s

/-- The yard of a logical core (R14). -/
def yardOf (c : Nat) : Nat := c / 16

/-- The physical columns that back logical columns, in order (R22). -/
def backing (w : BitVec 18) : List Nat := (idxs 18 fun i => w.getLsbD i).take 16

/-- The physical column behind a logical core. -/
def State.columnOf (s : State) (c : Nat) : Option Nat := (backing (s.yard (yardOf c)).work)[c % 16]?

/-- A loop-back interface. -/
def State.loop (s : State) (i : Nat) : Loop := tget {} s.loops i

/-- A yard in the off form of level 7 (R447): its core supply is off. -/
def Yard.offForm (k : Yard) : Bool := k.lvl = 7 && !k.held
/-- The arithmetic clock of a core runs: its yard is not furled in either form (R445, R447). -/
def State.clocked (s : State) (c : Nat) : Bool := (s.yard (yardOf c)).lvl ≠ 7
/-- A core is powered off: no router sinks or sources traffic for it (R306). DEDUCED: log entry 73. -/
def State.furled (s : State) (c : Nat) : Bool := (s.yard (yardOf c)).offForm

/-! ### Registers of BAR0 held as words (23) -/

/-- Reset values of the words of BAR0 that the model holds by offset, where not zero (Tables 23-2 to 23-15).
DESIGN CHOICE: log entry 2. -/
def resetReg (off : Nat) : BitVec 64 :=
  match off with
  | 0x040008 => 0x73695F695F645A00
  | 0x040020 => 0x12C003C5000
  | 0x070008 => 0x100000
  | 0x070010 => 0x100504
  | 0x090000 => 0x14000A0000000000
  | 0x0C0000 => 0x0064001000000001
  | _ => 0

/-- The stored word of a register. -/
def State.reg (s : State) (off : Nat) : BitVec 64 := (tfind s.bar0 off).getD (resetReg off)
/-- Store the word of a register. -/
def State.setReg (s : State) (off : Nat) (w : BitVec 64) : State := { s with bar0 := tset (resetReg off) s.bar0 off w }

/-! ### The address map (Table 1-5) -/

/-- Where an address lies: HBM, a tile, a locker, a bank-unit window, or nowhere populated. -/
inductive Place where
  | hbm
  | tile (n off : Nat)
  | locker (n off : Nat)
  | window (n b off : Nat)
  | nowhere
deriving DecidableEq, Repr

/-- First address of the tile range. -/
def tileBase : Nat := 0x010000000000
/-- First address of the locker windows. -/
def lockerBase : Nat := 0x020000000000
/-- First address of the bank-unit command windows. -/
def windowBase : Nat := 0x030000000000
/-- Bytes of one locker (R205). -/
def lockerSize : Nat := 0x140000
/-- Locker offset of the signal word (Table 2-2). -/
def signalOff : Nat := 0x13FFF8

/-- Offsets of a bank's window block that Table 10-2 lists; the others are unpopulated (R277). -/
def windowListed (o : Nat) : Bool :=
  o < 0x30 || (0x40 ≤ o && o < 0x80) || (0x400 ≤ o && o < 0x800) || (0x1000 ≤ o && o < 0x2000)

/-- Decode a device physical address by Table 1-5. -/
def place (a : Nat) : Place :=
  if a < 0x006000000000 then .hbm
  else if tileBase ≤ a ∧ a < 0x018000000000 then .tile ((a - tileBase) / 0x8000000) ((a - tileBase) % 0x8000000)
  else if lockerBase ≤ a ∧ a < 0x020200000000 then
    if (a - lockerBase) % 0x200000 < lockerSize then
      .locker ((a - lockerBase) / 0x200000) ((a - lockerBase) % 0x200000)
    else .nowhere
  else if windowBase ≤ a ∧ a < 0x030100000000 ∧ windowListed ((a - windowBase) % 0x10000) then
    .window ((a - windowBase) / 0x100000) ((a - windowBase) % 0x100000 / 0x10000) ((a - windowBase) % 0x10000)
  else .nowhere

/-- Address of offset o of the tile of logical core n (R33). -/
def tileAddr (n o : Nat) : Nat := tileBase + n * 0x8000000 + o
/-- Address of offset o of bank b of the tile of logical core n (R33). -/
def bankAddr (n b o : Nat) : Nat := tileAddr n (b * 0x800000 + o)
/-- Address of offset o of the locker of logical core n (R28). -/
def lockerAddr (n o : Nat) : Nat := lockerBase + n * 0x200000 + o
/-- The HBM region of an address (R30). -/
def regionOf (a : Nat) : Nat := a / 0x40000000
/-- The home mast of an HBM address (R30). -/
def homeMast (a : Nat) : Nat := regionOf a % 4
/-- The channel of an HBM address, 0 to 63 within its mast (R259). -/
def chanOf (a : Nat) : Nat := bits a 17 12 ^^^ bits a 23 18 ^^^ bits a 29 24 ^^^ bits a 35 30
/-- The channel's number in the device, 64 m + c. -/
def chanUnit (a : Nat) : Nat := 64 * homeMast a + chanOf a

/-! ### Ownership (15) -/

/-- The rig that holds logical core n. -/
def State.rigOfCore (s : State) (n : Nat) : Option Nat := ((List.range 64).find? fun r => (s.rig r).cores.getLsbD n)
/-- The rig that holds HBM region r. -/
def State.rigOfRegion (s : State) (g : Nat) : Option Nat := ((List.range 64).find? fun r => (s.rig r).regions.getLsbD g)
/-- The rig that holds the resource at an address. -/
def State.rigOfAddr (s : State) (a : Nat) : Option Nat :=
  match place a with
  | .hbm => s.rigOfRegion (regionOf a)
  | .tile n _ => s.rigOfCore n
  | .locker n _ => s.rigOfCore n
  | .window n _ _ => s.rigOfCore n
  | .nowhere => none

/-- The logical core behind an address, when it is one of a core's own ranges. -/
def coreAt (a : Nat) : Option Nat :=
  match place a with
  | .tile n _ => some n
  | .locker n _ => some n
  | .window n _ _ => some n
  | _ => none

/-- The logical core whose tile, locker window or bank-unit window holds an address, the unpopulated parts of its windows
included (R35). -/
def windowCore (a : Nat) : Option Nat :=
  if tileBase ≤ a ∧ a < 0x018000000000 then some ((a - tileBase) / 0x8000000)
  else if lockerBase ≤ a ∧ a < 0x020200000000 then some ((a - lockerBase) / 0x200000)
  else if windowBase ≤ a ∧ a < 0x030100000000 then some ((a - windowBase) / 0x100000)
  else none

/-- An address belongs to a core that is reported down (R35). -/
def State.downAt (s : State) (a : Nat) : Bool := match windowCore a with | some n => (s.core n).down | none => false

/-- An address is populated and its resource bound to a core's rig (R28, R29, R37). -/
def State.ownAddr (s : State) (c a : Nat) : Bool :=
  place a ≠ .nowhere && (s.rigOfAddr a).isSome && s.rigOfAddr a == s.rigOfCore c

/-- An address lies in the locker of another core that is powered off (R306). DEDUCED: log entry 73. -/
def State.furledAt (s : State) (c a : Nat) : Bool :=
  match place a with | .locker n _ => n ≠ c && s.furled n | _ => false

/-- Traffic to an address is refused at its source as R35 states: its core is down, or powered off (R306). -/
def State.refusedAt (s : State) (c a : Nat) : Bool := s.downAt a || s.furledAt c a

/-- A core may address the resources of its own rig that are populated (R28, R29, R35, R37, R306). DEDUCED: log entry 19. -/
def State.mayAddr (s : State) (c a : Nat) : Bool := s.ownAddr c a && !s.refusedAt c a

/-- The cause of a fault at an address: 0x0B for a core of the rig that is down or powered off, which ends the command with
FAULT_DOWN (R35, R306), else that of an address fault. DEDUCED: log entry 19. -/
def State.addrCause (s : State) (c a fault : Nat) : Nat := if s.ownAddr c a && s.refusedAt c a then 0x0B else fault

/-! ### Events (R540 to R548) -/

/-- The sources of Table 21-1. -/
def listedSource (n : Nat) : Bool :=
  n ≤ 5 || (8 ≤ n && n ≤ 14) || (128 ≤ n && n < 192) || (256 ≤ n && n ≤ 260) || (512 ≤ n && n < 775) ||
    (776 ≤ n && n < 780) || (1024 ≤ n && n < 2048)

/-- The route a source has at reset: HOST [15], SHEET [14], VEC [10:0] (R546). -/
def resetRoute (n : Nat) : BitVec 16 :=
  if 512 ≤ n ∧ n < 768 then BitVec.ofNat 16 (0x8000 + (n - 512))
  else if 128 ≤ n ∧ n < 192 then 0x8000
  else 0x4000

/-- The route in effect; a rig source's vector is its rig's EVEC (R547). -/
def State.route (s : State) (n : Nat) : BitVec 16 :=
  let w := (tfind s.evt.route n).getD (resetRoute n)
  if 128 ≤ n ∧ n < 192 then BitVec.ofNat 16 (w.toNat / 2048 * 2048 + (s.rig (n - 128)).evec % 2048) else w

/-- A source is deliverable while pending, unmasked and routed (R541). -/
def State.deliverable (s : State) (n : Nat) : Bool :=
  s.evt.pend.getLsbD n && !s.evt.mask.getLsbD n && ((s.route n).getLsbD 15 || (s.route n).getLsbD 14)

/-- A source has just become deliverable: a message is due to each target of its route (R541, R546). -/
def State.noteDue (s : State) (n : Nat) : State :=
  if s.deliverable n then
    { s with evt := { s.evt with
        due := if (s.route n).getLsbD 15 then s.evt.due ||| BitVec.twoPow 2048 n else s.evt.due
        sheetDue := if (s.route n).getLsbD 14 then s.evt.sheetDue ||| BitVec.twoPow 2048 n else s.evt.sheetDue } }
  else s

/-- Set a source's pending bit in the signal controller (R541); a reserved source, or the source of an unbound rig,
is never raised (R540, R547). -/
def State.raiseSrc (s : State) (n : Nat) : State :=
  if !listedSource n || s.evt.pend.getLsbD n ||
      (128 ≤ n && n < 192 && (s.rig (n - 128)).cores == 0 && (s.rig (n - 128)).regions == 0 &&
        (s.rig (n - 128)).ways == 0) then s
  else ({ s with evt := { s.evt with pend := s.evt.pend ||| BitVec.twoPow 2048 n } } : State).noteDue n

/-! ### Cause bits of a rig source (R548), by their place in EVT_ROUTE less 16 -/

/-- Set cause bits of a rig and raise its source. -/
def State.rigCause (s : State) (r : Nat) (bitsSet : BitVec 16) : State :=
  ({ s with evt := { s.evt with cause := tset 0 s.evt.cause r (tget 0 s.evt.cause r ||| bitsSet) } } : State).raiseSrc
    (128 + r)

/-- Contract fault. -/
def causeFlt : BitVec 16 := 1
/-- Core down. -/
def causeDown : BitVec 16 := 2
/-- Dead read. -/
def causeDead : BitVec 16 := 4
/-- Unwritten accumulator read. -/
def causeAcc : BitVec 16 := 8

/-- A dead read in the memory of a rig: counted and raised (R231). -/
def State.deadRead (s : State) (a : Nat) : State :=
  match s.rigOfAddr a with
  | none => s
  | some r => (s.setRig r { s.rig r with deads := (s.rig r).deads + 1 }).rigCause r causeDead

/-! ### Counting errors (R480 to R483) -/

/-- The KIND and UNIT of Table 18-4 for an address. -/
def errUnit (a : Nat) : Nat × Nat :=
  match place a with
  | .hbm => (2, chanUnit a)
  | .tile n _ => (1, n)
  | .locker n _ => (3, n)
  | _ => (0, 0)

/-- The address under which Table 18-4 lists the 64 B word of an address. -/
def errAddr (a : Nat) : Nat :=
  match place a with
  | .locker _ o => o / 64 * 64
  | _ => a / 64 * 64

/-- Enter a correction in a target's log of n entries (R482): the lowest count, the oldest among equals, gives way. -/
def logCorrection (n : Nat) (log : List LogEnt) (a : Nat) : List LogEnt :=
  if log.any (fun e => e.addr = a) then
    log.map fun e => if e.addr = a then { e with count := e.count + 1 } else e
  else if log.length < n then log ++ [⟨a, 1⟩]
  else
    let least := log.foldl (fun m e => min m e.count) (log.headD ⟨0, 0⟩).count
    match log.findIdx? fun e => e.count = least with
    | some i => dropAt i log ++ [⟨a, 1⟩]
    | none => log

/-- Enter a correction in RAS_CE_TABLE (R483) and count it (R481). -/
def State.countCe (s : State) (kind unit addr pos : Nat) : State :=
  let r := s.ras
  let hit := (List.range 256).find? fun i =>
    match tfind r.table i with
    | some e => e.kind = kind && e.unit = unit && e.addr = addr
    | none => false
  let r := { r with ce := satTo (2 ^ 40 - 1) (r.ce + 1) }
  match hit with
  | some i =>
    match tfind r.table i with
    | some e => { s with ras := { r with
        table := tput i { e with count := satTo 0xFFFF (e.count + 1), pos := pos } r.table } }
    | none => { s with ras := r }
  | none =>
    { s with ras := { r with
        table := tput r.next ⟨kind, unit, addr, r.ms, 1, pos, false⟩ r.table
        wrap := r.wrap || (tfind r.table r.next).isSome
        next := (r.next + 1) % 256 } }

/-- Count an uncorrectable error and raise its source (R480, source 256). -/
def State.countUe (s : State) (kind unit : Nat) : State :=
  ({ s with ras := { s.ras with ue := satTo 0xFFFFFFFF (s.ras.ue + 1), ueKind := kind, ueUnit := unit } } :
    State).raiseSrc 256

/-! ### Fuses and the failure record (R488, R492, R508, R509) -/

/-- Enter a failure in the record (R492): 0 a position, 1 a row, 2 a wire, 3 a lane, 4 a way, 5 a channel, 6 an HBM row.
DEDUCED: log entry 70. -/
def State.recordFail (s : State) (kind item : Nat) : State :=
  if s.failures.contains (kind, item) then s
  else if s.failures.length < 1024 then { s with failures := s.failures ++ [(kind, item)] }
  else s.raiseSrc 259

/-- The value that two of three copies agree on (R508). -/
def majority {α : Type} [DecidableEq α] : List α → Option α
  | [x, y, z] => if x = y || x = z then some x else if y = z then some y else none
  | _ => none

/-- The parts of one kind the fuses name bad, by majority (R508). -/
def State.fusedBad (s : State) (kind : Nat) : List Nat :=
  (majority (s.fuses.map fun f => (f.bad.filter fun e => e.1 = kind).map (·.2))).getD []

/-- Some fuse item has no two equal copies (R508). -/
def State.fusesBad (s : State) : Bool :=
  (majority (s.fuses.map (·.secret))).isNone ||
    (List.range 5).any fun k => (majority (s.fuses.map fun f => (f.bad.filter fun e => e.1 = k).map (·.2))).isNone

/-- The parts of one kind that count as fused bad: fused, or in the record (R509), in that order. DEDUCED: log entry 70. -/
def State.listedBad (s : State) (kind : Nat) : List Nat :=
  s.fusedBad kind ++ (s.failures.filter fun e => e.1 = kind).map (·.2)

end Sys2Proof.Machine
end

