-- ==== Sys2Proof/Machine/Mem.lean ====
section
/-! DEFINITION. Protected memory: words and their marks (R476, R477), granule states (R262 to R264, R478), the checker
flip (R484), and reads and writes of tiles, lockers and DRAM words at their point of coherence. -/

namespace Sys2Proof.Machine

/-- Bytes of a protected word: 8 in a locker (R207), 64 in DRAM (R255, R260). -/
def wordSize (a : Nat) : Nat := match place a with | .locker _ _ => 8 | _ => 64

/-- First address of the protected word of an address. -/
def wordOf (a : Nat) : Nat := a / wordSize a * wordSize a

/-- The protected words that n bytes from a touch, ascending. -/
def wordsOf (a n : Nat) : List Nat :=
  if n = 0 then [] else
    (List.range ((a + n - 1) / wordSize a - a / wordSize a + 1)).map fun i => wordOf a + i * wordSize a

/-- The mark of a word. -/
def State.mark (s : State) (w : Nat) : Err := tget .none s.errs w
/-- Set the mark of a word. -/
def State.setMark (s : State) (w : Nat) (e : Err) : State := { s with errs := tset .none s.errs w e }

/-- The state of the granule of an address. -/
def State.granAt (s : State) (a : Nat) : Gran := tget .unwritten s.gran (a / 4096)
/-- Set the state of the granule of an address. -/
def State.setGran (s : State) (a : Nat) (g : Gran) : State := { s with gran := tset .unwritten s.gran (a / 4096) g }

/-- Zero n bytes from a. -/
def clearBytes (m : Mem) (a n : Nat) : Mem := tclear (fun k => a ≤ k && k < a + n) m

/-- Replace n bytes from a by those of a function. -/
def fillBytes (m : Mem) (a n : Nat) (f : Nat → Byte) : Mem :=
  (m.filter fun e => e.1 < a) ++ ((List.range n).filterMap fun i => if f i = 0 then none else some (a + i, f i)) ++
    m.filter fun e => a + n ≤ e.1

/-- Bring a granule to a state in which it reads as zero (R262, R263): its bytes and marks are no longer readable. -/
def State.emptyGran (s : State) (a : Nat) (g : Gran) : State :=
  ({ s with
      mem := clearBytes s.mem (a / 4096 * 4096) 4096
      errs := tclear (fun k => k / 4096 = a / 4096) s.errs } : State).setGran a g

/-- n free bytes (log entry 3). -/
def State.freeBytes (s : State) (n : Nat) : List Byte := (List.range n).map fun i => Config.freeByte (s.free + i)

/-- Enter a correction in its target's own log (R482), the tile, channel or locker; an HBM row with corrections in two words, or four in
one, is recorded for repair at the next start-up (R489). DESIGN CHOICE: log entry 85. -/
def State.ownLog (s : State) (a : Nat) : State :=
  match place a with
  | .hbm =>
    let h := s.chan (chanUnit a)
    let log := logCorrection 8 h.log (errAddr a)
    let s := s.setChan (chanUnit a) { h with log := log }
    let row := log.filter fun e => Config.hbmRow e.addr = Config.hbmRow (errAddr a)
    if 2 ≤ row.length || row.any fun e => 4 ≤ e.count then s.recordFail 6 (Config.hbmRow (errAddr a)) else s
  | .tile n _ => let t := s.tile n; s.setTile n { t with log := logCorrection 8 t.log (errAddr a) }
  | .locker n o =>
    let k := s.core n
    let fifth := k.log.length = 4 && !(k.log.any fun e => e.addr = o / 8 * 8) && k.log.all fun e => 1 < e.count
    s.setCore n { k with log := logCorrection 4 k.log (o / 8 * 8), retired := k.retired || fifth }
  | _ => s

/-- A read meets a protected word: a correction is counted and logged (a locker rewrites the word, R481), an
uncorrectable word is counted (R480). Answers whether the word is uncorrectable. -/
def State.meet (s : State) (w : Nat) : State × Bool :=
  match s.mark w with
  | .none => (s, false)
  | .ce pos =>
    let s := ((s.countCe (errUnit w).1 (errUnit w).2 (errAddr w) pos).ownLog w)
    (match place w with | .locker _ _ => s.setMark w .none | _ => s, false)
  | .ue => (s.countUe (errUnit w).1 (errUnit w).2, true)

/-- Meet several words in ascending order. -/
def State.meetAll (s : State) : List Nat → State × Bool
  | [] => (s, false)
  | w :: ws =>
    let (s, b) := s.meet w
    let (s, c) := s.meetAll ws
    (s, b || c)

/-! ### The checker flip (R484) -/

/-- Number of non-zero bytes among the first n bytes of a number, and the first such. -/
def symbolsOf (n v : Nat) : List Nat := idxs n fun i => bits v (8 * i + 7) (8 * i) != 0

/-- Number of set bits among the first n. -/
def bitsOf (n v : Nat) : List Nat := idxs n fun i => bit v i

/-- The corrupted symbols or bits of an armed flip, by their position in the word (R476, Table 18-4 POS). -/
def flipPositions (kind mask tgt : Nat) : List Nat :=
  if kind ≤ 2 then
    if bits tgt 39 36 < 8 then (symbolsOf 8 mask).map (· + 8 * bits tgt 39 36)
    else if bits tgt 39 36 = 8 then (symbolsOf 4 mask).map (· + 64) else []
  else bitsOf 64 mask ++ (bitsOf 8 (bits tgt 35 28)).map (· + 64)

/-- Whether the flip is armed for a target (R484). -/
def State.flipArmed (s : State) (kind unit : Nat) : Bool :=
  bit s.ras.flipTgt.toNat 63 && bits s.ras.flipTgt.toNat 55 52 == kind && bits s.ras.flipTgt.toNat 51 40 == unit &&
    1 ≤ kind && kind ≤ 6

/-- The flip has fired: ARM clears and FIRED sets. -/
def State.flipFired (s : State) : State :=
  { s with ras := { s.ras with flipTgt := (s.ras.flipTgt &&& ~~~(BitVec.twoPow 64 63)) ||| BitVec.twoPow 64 62 } }

/-- A write to a protected word of a tile, channel or locker passes the armed flip, if any: one symbol or bit leaves
a correctable word, two an uncorrectable one, more leave undefined contents. -/
def State.flipWrite (s : State) (kind unit w : Nat) : State :=
  if s.flipArmed kind unit then
    match flipPositions kind s.ras.flipMask.toNat s.ras.flipTgt.toNat with
    | [] => s.flipFired
    | [p] => s.flipFired.setMark w (.ce p)
    | [_, _] => s.flipFired.setMark w .ue
    | _ => { s.flipFired with
        mem := mwrite s.mem w (s.freeBytes (wordSize w))
        free := s.free + wordSize w }
  else s

/-! ### Writing protected words -/

/-- Bytes of a write at a that fall on word w of size z. -/
def coversWord (a n w z : Nat) : Bool := a ≤ w && w + z ≤ a + n

/-- A write of n bytes at a meets word w: a whole word replaces the mark; a partial write merges, correcting a
correctable word and counting an uncorrectable one, whose mark stays (R207, R477, R480). -/
def State.writeMark (s : State) (a n w : Nat) : State :=
  if coversWord a n w (wordSize w) then s.setMark w .none
  else
    match s.mark w with
    | .none => s
    | .ce _ => ((s.meet w).1).setMark w .none
    | .ue => (s.meet w).1

/-- Apply `writeMark` to every word of a write. -/
def State.writeMarks (s : State) (a n : Nat) : List Nat → State
  | [] => s
  | w :: ws => (s.writeMark a n w).writeMarks a n ws

/-- Write bytes to protected words: marks, bytes, then the armed flip on the word of the first byte. -/
def State.putBytes (s : State) (a : Nat) (bs : List Byte) : State :=
  if bs = [] then s else
    let s := s.writeMarks a bs.length (wordsOf a bs.length)
    let s : State := { s with mem := mwrite s.mem a bs }
    match place a with
    | .hbm => s
    | _ => s.flipWrite (errUnit a).1 (errUnit a).2 (wordOf a)

/-! ### Lockers -/

/-- Read n bytes of a locker: the bytes and whether a word was uncorrectable. -/
def State.lockerRead (s : State) (a n : Nat) : State × (List Byte × Bool) :=
  let (s', u) := s.meetAll (wordsOf a n)
  (s', (mread s.mem a n, u))

/-- Write bytes of a locker. -/
def State.lockerWrite (s : State) (a : Nat) (bs : List Byte) : State := s.putBytes a bs

/-! ### Tiles (R262 to R264) -/

/-- Whether any granule of the range is dead. -/
def State.anyDead (s : State) (a n : Nat) : Bool :=
  (wordsOf a n).any fun w => s.granAt w = .dead

/-- Meet the words of a DRAM read: a written granule checks its words, a poisoned-unwritten one is uncorrectable,
the others read as zeros with no check (R263, R478). DEDUCED: log entry 71. -/
def State.meetDram (s : State) : List Nat → State × Bool
  | [] => (s, false)
  | w :: ws =>
    let (s, b) := match s.granAt w with
      | .written => s.meet w
      | .poisoned => (s.countUe (errUnit w).1 (errUnit w).2, true)
      | _ => (s, false)
    let (s, c) := s.meetDram ws
    (s, b || c)

/-- Read n bytes of a tile: one request (R231, R255, R263). -/
def State.tileRead (s : State) (a n : Nat) : State × (List Byte × Bool) :=
  let s1 := if s.anyDead a n then s.deadRead a else s
  let (s2, u) := s1.meetDram (wordsOf a n)
  (s2, (mread s.mem a n, u))

/-- A write reaches a granule that is not written: zero-fill, then written (R264, R478). -/
def State.firstWrite (s : State) (a : Nat) : State :=
  if s.granAt a = .written then s else s.emptyGran a .written

/-- First-write the granules of a range. -/
def State.firstWrites (s : State) : List Nat → State
  | [] => s
  | w :: ws => (s.firstWrite w).firstWrites ws

/-- Write bytes of a tile (R264, R255). -/
def State.tileWrite (s : State) (a : Nat) (bs : List Byte) : State :=
  (s.firstWrites (wordsOf a bs.length)).putBytes a bs

end Sys2Proof.Machine
end

