-- ==== Sys2Proof/Machine/BankOps.lean ====
section
/-! DEFINITION. Bank units (10): the command window, acceptance and start of commands, their array work item by item
(an item is what the unit reads of one 64 B word), their ends, and the chain. -/

namespace Sys2Proof.Machine

/-! ### CMD fields (Table 10-3) -/

/-- OPC. -/
def cOpc (w : BitVec 64) : Nat := bits w.toNat 7 0
/-- KEEP. -/
def cKeep (w : BitVec 64) : Bool := w.getLsbD 16
/-- EXCL. -/
def cExcl (w : BitVec 64) : Bool := w.getLsbD 17
/-- CHD. -/
def cChd (w : BitVec 64) : Bool := w.getLsbD 18
/-- CLR. -/
def cClr (w : BitVec 64) : Bool := w.getLsbD 19
/-- Query count Q. -/
def cQ (w : BitVec 64) : Nat := bits w.toNat 31 28 + 1
/-- TH. -/
def cTh (w : BitVec 64) : Nat := bits w.toNat 39 32
/-- SL2. -/
def cSl2 (w : BitVec 64) : Bool := w.getLsbD 40
/-- GANG. -/
def cGang (w : BitVec 64) : Nat := bits w.toNat 63 48

/-- The CMD bits an opcode uses (R587); none for an unlisted opcode. -/
def cmdMask (opc : Nat) : Option Nat :=
  let every := 0xFFFF * 2 ^ 48 + 2 ^ 40 + 0xFF
  let qm1 := 15 * 2 ^ 28
  let th := 0xFF * 2 ^ 32
  match opc with
  | 1 => some (every + qm1 + th + 2 ^ 17 + 2 ^ 16)
  | 2 => some (every + qm1 + 2 ^ 17 + 2 ^ 16)
  | 3 => some every
  | 4 => some every
  | 5 => some every
  | 6 => some (every + qm1 + 2 ^ 17 + th)
  | 7 => some (every + qm1 + 2 ^ 18)
  | 8 => some (every + 2 ^ 19)
  | _ => none

/-- A CMD word is refused with ERR 0x01 (R279). -/
def cmdBad (w : BitVec 64) : Bool :=
  match cmdMask (cOpc w) with
  | none => true
  | some m => w &&& ~~~(BitVec.ofNat 64 m) != 0

/-- Whether a command offers entries to the lists (R284, R285). -/
def cOffers (w : BitVec 64) : Bool := (cOpc w == 1 && cKeep w) || (cOpc w == 2 && cKeep w) || cOpc w == 6

/-- Whether the list area reads as not ready while the unit holds a command (R282). -/
def cHides (w : BitVec 64) : Bool := cOffers w || cOpc w == 7

/-! ### The window (Table 10-2) -/

/-- Bits an operand word holds (Table 10-5). -/
def opWidth (i : Nat) : Nat :=
  match i with
  | 0 => 23 | 1 => 23 | 2 => 24 | 3 => 23 | 4 => 64 | 5 => 23 | 6 => 1 | _ => 0

/-- STATE of STATUS (Table 10-4). -/
def Bank.state (k : Bank) : Nat :=
  if !k.unit then 0
  else match k.run with
    | none => 1
    | some r => if r.waiting then 3 else if k.paused then 4 else if k.slice then 5 else 2

/-- The unit is busy with array work: not idle, waiting, paused or at a slice boundary (R295), and no chain member that only forwards,
which uses no bank array (R291). -/
def Bank.busy (k : Bank) : Bool := k.state == 2 && !(match k.run with | some r => r.fwd | none => false)

/-- STATUS (Table 10-4). -/
def Bank.status (k : Bank) : BitVec 64 :=
  let qd := (if k.run.isSome then 1 else 0) + (if k.queued.isSome then 1 else 0)
  BitVec.ofNat 64 (k.seq.toNat * 2 ^ 48 + k.opc.toNat * 2 ^ 32 + qd * 2 ^ 16 + k.err.toNat * 2 ^ 8 + k.state)

/-- BANKMODE of a tile (Table 10-1). -/
def State.bankMode (s : State) (c : Nat) : BitVec 64 :=
  BitVec.ofNat 64 (maskOf 16 (fun b => (s.bank c b).pend.isSome) * 2 ^ 32 + maskOf 16 fun b => (s.bank c b).unit)

/-- Byte i of the list area: entries, then empty entries, or the not-ready pattern (R282, R285). -/
def Bank.listByte (k : Bank) (i : Nat) : Byte :=
  let hidden := (match k.run with | some r => cHides r.w | none => false) ||
    (match k.queued with | some q => cHides q.1 | none => false)
  let word :=
    if hidden then 0xFFFFFFFE
    else
      let l := tget [] k.lists (i / 256)
      if k.score then
        match l[(i % 256) / 8]? with
        | some e => bits e (if i % 8 < 4 then 31 else 63) (if i % 8 < 4 then 0 else 32)
        | none => if i % 8 < 4 then 0x80000000 else 0x00FFFFFF
      else
        match l[(i % 256) / 4]? with
        | some e => e % 2 ^ 32
        | none => 0xFFFFFFFF
  BitVec.ofNat 8 (word / 2 ^ (8 * (i % 4)))

/-- Read n bytes of a bank's window at an offset (R277, R278). -/
def State.windowRead (s : State) (c b off n : Nat) : List Byte :=
  let k := s.bank c b
  let word (w : BitVec 64) : List Byte := if n = 8 ∧ off % 8 = 0 then leBytes 8 w.toNat else leBytes n 0
  if off = 0 then word (s.bankMode c)
  else if off = 8 then word k.status
  else if off = 0x20 then word k.result
  else if off = 0x28 then word (k.faultOff.zeroExtend 64)
  else if 0x40 ≤ off ∧ off < 0x80 then word (tget 0 k.op ((off - 0x40) / 8))
  else if 0x400 ≤ off ∧ off + n ≤ 0x800 then mread k.qa (off - 0x400) n
  else if 0x1000 ≤ off ∧ off + n ≤ 0x2000 then (List.range n).map fun i => k.listByte (off - 0x1000 + i)
  else leBytes n 0

/-! ### Tile queues (R253, R295) -/

/-- The 64 B transfers of a request (R253). -/
def reqBeats (mesh : Bool) (off : Nat) (op : MemOp) : List TileReq :=
  let n := match op with | .read n => n | .write bs => bs.length
  if n = 0 then []
  else
    let m := (off + n - 1) / 64 - off / 64 + 1
    (List.range m).map fun i =>
      let lo := max off ((off / 64 + i) * 64)
      let hi := min (off + n) ((off / 64 + i + 1) * 64)
      { off := lo, mesh := mesh, last := i + 1 == m
        op := match op with | .read _ => .read (hi - lo) | .write bs => .write ((bs.drop (lo - off)).take (hi - lo)) }

/-- The row of an address of a tile opens (R253, R254). -/
def State.openTile (s : State) (c off : Nat) : State :=
  let t := s.tile c
  s.setTile c { t with openRow := tset none t.openRow (off / 0x800000) (some (off % 0x800000 / 2048)) }

/-- Serve one transfer of a tile; its request is answered with its last, and counts one dead read (R231). -/
def State.serveTile (s : State) (c : Nat) (q : TileReq) : State :=
  let a := tileAddr c q.off
  let s := s.openTile c q.off
  match q.op with
  | .read n =>
    let p := if q.mesh then (s.tile c).mpart else (s.tile c).cpart
    let dead := s.anyDead a n
    let s := if dead && !p.dead then s.deadRead a else s
    let (s, u) := s.meetDram (wordsOf a n)
    let p : Taken := ⟨p.bytes ++ mread s.mem a n, p.ue || u, p.dead || dead⟩
    let t := s.tile c
    let t := if q.last then { t with out := some (p.bytes, p.ue) } else t
    let p := if q.last then {} else p
    s.setTile c (if q.mesh then { t with mpart := p } else { t with cpart := p })
  | .write bs =>
    let s := s.tileWrite a bs
    if q.last then s.setTile c { s.tile c with out := some ([], false) } else s

/-- A bank other than b holds a transfer of a queue, which nothing of that queue passes (R253). -/
def State.heldApart (s : State) (c b : Nat) (mesh : Bool) : Bool :=
  (List.range 16).any fun i => i ≠ b && (s.bank c i).held.any fun q => q.mesh == mesh

/-- The head of a queue, if it may go on: the halyard does not hold it (R249, R250), its bank is not under refresh (R266), and nothing of
its queue is held before it. -/
def State.tileHead (s : State) (c : Nat) (mesh : Bool) : Option TileReq :=
  let t := s.tile c
  match if mesh then t.mq else t.cq with
  | [] => none
  | q :: _ =>
    let b := q.off / 0x800000
    if t.hold || t.refr.getLsbD b || s.heldApart c b mesh then none else some q

/-- The queue that receives the next beat: while both hold requests, the mesh queue one in every four (R253). -/
def State.nextBeat (s : State) (c : Nat) : Option TileReq :=
  match s.tileHead c false, s.tileHead c true with
  | some q, some r => some (if (s.tile c).turn % 4 = 3 then r else q)
  | some q, none => some q
  | none, r => r

/-- Serve queues beat by beat; a transfer for a busy bank, or behind others held there, is held until a safe point (R295). -/
def State.serveBeats (s : State) (c : Nat) : Nat → State
  | 0 => s
  | fuel + 1 =>
    match s.nextBeat c with
    | none => s
    | some q =>
      let t := s.tile c
      let both := !t.cq.isEmpty && !t.mq.isEmpty
      let t := if q.mesh then { t with mq := t.mq.tail } else { t with cq := t.cq.tail }
      let s := s.setTile c { t with turn := if both then (t.turn + 1) % 4 else 0 }
      let b := q.off / 0x800000
      let k := s.bank c b
      let s := if k.busy || !k.held.isEmpty then s.setBank c b { k with held := k.held ++ [q] } else s.serveTile c q
      s.serveBeats c fuel

/-- Serve both queues of a tile as far as they go. -/
def State.serveTileQueues (s : State) (c : Nat) : State := s.serveBeats c ((s.tile c).cq.length + (s.tile c).mq.length)

/-- Serve the transfers held at a bank, at most n. -/
def State.serveHeld (s : State) (c b n : Nat) : State :=
  let hs := (s.bank c b).held
  (hs.take n).foldl (fun s q => s.serveTile c q) (s.setBank c b { s.bank c b with held := hs.drop n })

/-- The bank serves what it held, now that its unit is not busy (R295). -/
def State.releaseBank (s : State) (c b : Nat) : State :=
  if (s.bank c b).busy || (s.tile c).refr.getLsbD b then s
  else (s.serveHeld c b (s.bank c b).held.length).serveTileQueues c

/-- An access to a tile, from its core or over the mesh, is served at once: its bank is not held by a busy unit or a refresh, and nothing
waits before it (R249, R253, R266, R295). -/
def State.tileOpen (s : State) (c off : Nat) (mesh : Bool) : Bool :=
  let t := s.tile c
  let b := off / 0x800000
  let k := s.bank c b
  !t.hold && !t.refr.getLsbD b && !k.busy && k.held.isEmpty && (if mesh then t.mq else t.cq).isEmpty && !s.heldApart c b mesh

/-- A bank starts a refresh: unavailable, its row closed (R266). -/
def State.startRefresh (s : State) (c b : Nat) : State :=
  let t := s.tile c
  s.setTile c { t with refr := t.refr ||| BitVec.twoPow 16 b, openRow := tset none t.openRow b none }

/-! ### Lists (Table 10-7) -/

/-- Signed value of 32 bits. -/
def int32 (v : Nat) : Int := (BitVec.ofNat 32 v).toInt

/-- Whether entry x stands before entry y (Table 10-7). -/
def entryBefore (score : Bool) (x y : Nat) : Bool :=
  if score then
    int32 (x % 2 ^ 32) > int32 (y % 2 ^ 32) || (x % 2 ^ 32 == y % 2 ^ 32 && x / 2 ^ 32 < y / 2 ^ 32)
  else x < y

/-- Insert an entry in order. -/
def insertEntry (score : Bool) (x : Nat) : List Nat → List Nat
  | [] => [x]
  | y :: t => if entryBefore score x y then x :: y :: t else y :: insertEntry score x t

/-- Merge two lists in order. -/
def mergeEntries (score : Bool) (xs ys : List Nat) : List Nat := ys.foldl (fun l y => insertEntry score y l) xs

/-- Offer an entry to list q, which keeps 32 (R285). -/
def Bank.offer (k : Bank) (q e : Nat) : Bank :=
  { k with lists := tset [] k.lists q ((insertEntry k.score e (tget [] k.lists q)).take 32) }

/-! ### Starting a command -/

/-- Operand limits of Table 10-6 and R292: true when the operands are in range. -/
def operandsOk (r : BankRun) (b : Nat) : Bool :=
  let q := cQ r.w
  let bank := 0x800000
  let excl := !cExcl r.w || r.exb + ceilDiv r.n 8 ≤ bank
  match cOpc r.w with
  | 1 => r.src % 8 == 0 && r.src + 8 * r.n ≤ bank && cTh r.w ≤ 64 && excl &&
      (if cKeep r.w then r.n ≤ 2 ^ 20 else r.dst + q * r.n ≤ bank)
  | 2 => r.src % 64 == 0 && r.src + 64 * r.n ≤ bank && excl &&
      (if cKeep r.w then r.n ≤ 2 ^ 20 else r.dst % 4 == 0 && r.dst + 4 * q * r.n ≤ bank)
  | 3 => r.src % 4 == 0 && r.src + 4 * r.n ≤ bank
  | 4 => r.dst % 8 == 0 && r.n % 8 == 0 && r.dst + r.n ≤ bank
  | 5 => r.src + r.n ≤ bank && r.dst + r.n ≤ bank
  | 6 =>
    let sz := if r.fmt = 1 then 4 else 1
    r.src % sz == 0 && r.src + q * r.n * sz ≤ bank && excl && r.n ≤ 2 ^ 20 &&
      (if r.fmt = 1 then cTh r.w == 0 else cTh r.w ≤ 0xFE)
  | 7 =>
    let e := if r.fmt = 1 then 8 else 4
    r.chain.getLast? != some b || (r.cdst % e == 0 && r.cdst + q * 32 * r.chain.length * e ≤ bank)
  | 8 => r.src % 4 == 0 && r.src + 4 * r.n ≤ bank
  | _ => false

/-- The successor of a member in its chain. -/
def nextMember (chain : List Nat) (b : Nat) : Option Nat :=
  match chain with
  | [] => none
  | x :: t => if x = b then t.head? else nextMember t b

/-- The chain link of a gang start brings something to a member that holds its CHAIN, running or queued (R290, R293). -/
def State.deliver (s : State) (c : Nat) (m : Option Nat) (id : Nat) (x : ChainIn) : State :=
  match m with
  | none => s
  | some b =>
    let k := s.bank c b
    if match k.run with | some r => r.chain != [] && r.id == id | none => false then s.setBank c b { k with inS := some x }
    else if (match k.queued with | some q => cOpc q.1 == 7 | none => false) && k.qid == id then s.setBank c b { k with inQ := some x }
    else s

/-- The command a unit runs is gone: the unit goes idle, and a chain step's error sends a break mark (R280, R293). -/
def State.closeRun (s : State) (c b : Nat) (err : BitVec 8) : State :=
  let k := s.bank c b
  match k.run with
  | none => s
  | some r =>
    let s := s.setBank c b { k with
      run := none, err := err, paused := false, slice := false, cut := false, owed := 0, inS := none, abort := false, fin := none }
    if err ≠ 0 ∧ r.chain ≠ [] then s.deliver c (nextMember r.chain b) r.id .broken else s

/-- The command a unit runs ends with an error code; while refreshes are owed the unit performs them before it goes idle (R298). -/
def State.endRun (s : State) (c b : Nat) (err : BitVec 8) : State :=
  let k := s.bank c b
  if k.owed = 0 then s.closeRun c b err
  else (s.setBank c b { k with slice := true, fin := some err }).startRefresh c b

/-- A command starts: operand words are taken, checked, lists emptied when entries will be offered; no element, no
work (R280, R284, R285); a chain step sends or waits (R290). -/
def State.startRun (s : State) (c b : Nat) (w : BitVec 64) (chain : List Nat) (id : Nat) : State :=
  let k := s.bank c b
  let op (i : Nat) : Nat := (tget 0 k.op i).toNat
  let r : BankRun := { w := w, src := op 0, dst := op 1, n := op 2, exb := op 3, pat := tget 0 k.op 4, cdst := op 5, fmt := op 6, chain := chain, id := id }
  let r := { r with fwd := chain != [] && chain.getLast? != some b }
  let k := { k with run := some r, opc := BitVec.ofNat 8 (cOpc w) }
  if !operandsOk r b then (s.setBank c b k).endRun c b 2
  else
    let k := if cOffers w then { k with lists := [], score := cOpc w == 2 || (cOpc w == 6 && r.fmt == 1) } else k
    let s := s.setBank c b k
    if cOpc w = 7 then
      if chain.head? = some b then
        let ls := (List.range (cQ w)).map fun q => tget [] k.lists q
        if chain.length ≤ 1 then s.setBank c b { k with inS := some (.lists ls) }
        else s.deliver c (nextMember chain b) id (.lists ls)
      else s.setBank c b { k with run := some { r with waiting := true } }
    else if r.n = 0 then
      (s.setBank c b { k with result := if cOpc w = 3 ∨ cOpc w = 8 then 0 else k.result }).endRun c b 0
    else s

/-- A queued command starts once the running one has ended (R280), with what the chain link brought it meanwhile. -/
def State.settleBank (s : State) (c b : Nat) : State :=
  let k := s.bank c b
  match k.run, k.queued with
  | none, some (w, ch) => (s.setBank c b { k with queued := none, inS := k.inQ, inQ := none }).startRun c b w ch k.qid
  | _, _ => s

/-- Give a command to one bank: refused in normal mode or when two are held, else started or queued (R274, R280).
DEDUCED: log entry 62. -/
def State.giveCmd (s : State) (c b : Nat) (w : BitVec 64) (chain : List Nat) : State :=
  let s := s.settleBank c b
  let k := s.bank c b
  let id := (s.tile c).gangs
  if !k.unit then s.setBank c b { k with err := 6 }
  else if k.run.isSome && k.queued.isSome then s.setBank c b { k with err := 5 }
  else if k.run.isSome then s.setBank c b { k with queued := some (w, chain), qid := id, inQ := none, seq := k.seq + 1, err := 0 }
  else (s.setBank c b { k with seq := k.seq + 1, err := 0, inS := none }).startRun c b w chain id

/-- Whether a bank would take a command. -/
def State.takesCmd (s : State) (c b : Nat) : Bool :=
  let k := (s.settleBank c b).bank c b
  k.unit && !(k.run.isSome && k.queued.isSome)

/-- Copy the operand words but OP2, and the query area, to a gang bank (R281). -/
def State.gangCopy (s : State) (c src dst : Nat) : State :=
  let k := s.bank c src
  let t := s.bank c dst
  s.setBank c dst { t with op := [0, 1, 3, 4, 5, 6, 7].foldl (fun o i => tset 0 o i (tget 0 k.op i)) t.op, qa := k.qa }

/-- The members of a chain in order (R289). -/
def chainMembers (w : BitVec 64) (b : Nat) : List Nat :=
  let ms := idxs 16 fun i => i = b || bit (cGang w) i
  if cOpc w = 7 then (if cChd w then ms.reverse else ms) else []

/-- A CMD write (R274, R279 to R281, R293): refused as a whole for a bad word, else given to the written bank and to
every gang bank; a skipped chain member counts as ended with an error. DEDUCED: log entry 62. -/
def State.bankCmd (s : State) (c b : Nat) (w : BitVec 64) : State :=
  if cmdBad w then s.setBank c b { s.bank c b with err := 1 }
  else
    let gang := idxs 16 fun i => i ≠ b && bit (cGang w) i
    let chain := chainMembers w b
    let s := if chain = [] then s else s.setTile c { s.tile c with gangs := (s.tile c).gangs + 1 }
    let s := gang.foldl (fun s i => if s.takesCmd c i then (s.settleBank c i).gangCopy c b i else s) s
    let skipped := (b :: gang).filter fun i => !s.takesCmd c i
    let order := if chain = [] then b :: gang else chain.reverse
    let s := order.foldl (fun s i => s.giveCmd c i w chain) s
    skipped.foldl (fun s i => if chain = [] then s else s.deliver c (nextMember chain i) (s.tile c).gangs .broken) s

/-- Lists a stopped command was filling hold undefined entries (R283, R303). -/
def State.freeLists (s : State) (c b : Nat) (w : BitVec 64) : State :=
  if cOffers w then
    let k := s.bank c b
    let e (q i : Nat) : Nat :=
      let v := (Config.freeWord (s.free + 32 * q + i)).toNat
      if k.score then v else v % 2 ^ 32
    ({ s with free := s.free + 512 } : State).setBank c b
      { k with lists := (List.range 16).foldl (fun t q => tset [] t q ((List.range 32).map (e q))) k.lists }
  else s

/-- The queued command of a unit is discarded; a CHAIN breaks its chain (R276, R283, R293). -/
def State.dropQueued (s : State) (c b : Nat) : State :=
  let k := s.bank c b
  let next := match k.queued with | some (_, ch) => nextMember ch b | none => none
  (s.setBank c b { k with queued := none, inQ := none }).deliver c next k.qid .broken

/-- The running command stops where it stands, with ERR 0x04 (R276, R283). -/
def State.stopRun (s : State) (c b : Nat) : State :=
  match (s.bank c b).run with
  | none => s.setBank c b { s.bank c b with err := 4 }
  | some r => (s.freeLists c b r.w).endRun c b 4

/-- ABORT: the queued command is discarded; the running one stops at once where the unit does no array work, else at its next safe
point (R283). -/
def State.abortBank (s : State) (c b : Nat) : State :=
  let s := s.dropQueued c b
  let k := s.bank c b
  if k.busy then s.setBank c b { k with abort := true } else if k.fin.isSome then s else s.stopRun c b

/-- A transfer that waits for bank b is one that a change of its mode, written now, waits for (R275). -/
def TileReq.note (b : Nat) (q : TileReq) : TileReq := if q.off / 0x800000 = b then { q with before := true } else q

/-- A mode change becomes pending for a bank (Table 10-1, R275). -/
def State.pendMode (s : State) (c b : Nat) (unit : Bool) : State :=
  let k := s.bank c b
  let t := s.tile c
  (s.setBank c b { k with pend := some unit, held := k.held.map (TileReq.note b) }).setTile c
    { t with cq := t.cq.map (TileReq.note b), mq := t.mq.map (TileReq.note b) }

/-- BANKMODE write: a mode change becomes pending for each selected bank (Table 10-1, R275). -/
def State.bankModeWrite (s : State) (c : Nat) (w : BitVec 64) : State :=
  (idxs 16 fun b => bit w.toNat (16 + b)).foldl (fun s b => s.pendMode c b (bit w.toNat b)) s

/-- Write bytes to a bank's window at an offset (R277, R278). -/
def State.windowWrite (s : State) (c b off : Nat) (bs : List Byte) : State :=
  let whole := bs.length = 8 ∧ off % 8 = 0
  let w := BitVec.ofNat 64 (leNat bs)
  if off = 0 then (if whole then s.bankModeWrite c w else s)
  else if off = 0x10 then (if whole then s.bankCmd c b w else s)
  else if off = 0x18 then (if whole then (s.abortBank c b).releaseBank c b else s)
  else if 0x40 ≤ off ∧ off < 0x80 then
    if whole then
      let i := (off - 0x40) / 8
      s.setBank c b { s.bank c b with op := tset 0 (s.bank c b).op i (BitVec.ofNat 64 (w.toNat % 2 ^ opWidth i)) }
    else s
  else if 0x400 ≤ off ∧ off + bs.length ≤ 0x800 then
    s.setBank c b { s.bank c b with qa := mwrite (s.bank c b).qa (off - 0x400) bs }
  else s

/-! ### Array work -/

/-- First byte and number of bytes of the range whose 64 B words are the command's items. -/
def itemRange (r : BankRun) : Nat × Nat :=
  match cOpc r.w with
  | 1 => (r.src, 8 * r.n)
  | 2 => (r.src, 64 * r.n)
  | 3 => (r.src, 4 * r.n)
  | 4 => (r.dst, r.n)
  | 5 => (r.src, r.n)
  | 6 => (r.src, cQ r.w * r.n * (if r.fmt = 1 then 4 else 1))
  | 8 => (r.src, 4 * r.n)
  | 7 => if r.fwd then (0, 0) else (r.cdst, cQ r.w * 32 * r.chain.length * (if r.fmt = 1 then 8 else 4))
  | _ => (0, 0)

/-- Number of items of a command; a chain step that only forwards has one. -/
def itemCount (r : BankRun) : Nat :=
  let (a, n) := itemRange r
  if n = 0 then 1 else (a + n - 1) / 64 - a / 64 + 1

/-- The bytes of item i: first offset and length. -/
def itemBytes (r : BankRun) (i : Nat) : Nat × Nat :=
  let (a, n) := itemRange r
  let lo := max a ((a / 64 + i) * 64)
  let hi := min (a + n) ((a / 64 + i + 1) * 64)
  (lo, hi - lo)

/-- The range XPOP or I8DOT writes, which its source should not overlap (R288). -/
def outRange (r : BankRun) : Nat × Nat :=
  match cOpc r.w with
  | 1 => if cKeep r.w then (0, 0) else (r.dst, cQ r.w * r.n)
  | 2 => if cKeep r.w then (0, 0) else (r.dst, 4 * cQ r.w * r.n)
  | _ => (0, 0)

/-- Whether two ranges meet. -/
def meets (a n b m : Nat) : Bool := n ≠ 0 && m ≠ 0 && a < b + m && b < a + n

/-- The unit reads n bytes at a bank offset (R302, R303): dead granules are counted once a command, words checked. The
answer is the bytes and the offset of an uncorrectable word, if one was met. -/
def State.unitRead (s : State) (c b : Nat) (r : BankRun) (o n : Nat) : State × BankRun × List Byte × Option Nat :=
  let a := bankAddr c b o
  let g := a / 4096
  let dead := s.granAt a = .dead && !r.deads.contains g
  let s : State := if dead then s.deadRead a else s
  let r := if dead then { r with deads := r.deads ++ [g] } else r
  let (s, u) := s.meetDram (wordsOf a n)
  let (oa, on) := outRange r
  let bad := if u then some (o / 64 * 64) else none
  if meets o n oa on then
    ({ s with free := s.free + n }, r, (mread s.mem a n).mapIdx fun i x =>
      if oa ≤ o + i && o + i < oa + on then Config.freeByte (s.free + i) else x, bad)
  else (s, r, mread s.mem a n, bad)

/-- The unit writes bytes at a bank offset (R302); where they fall on the command's own source they are undefined
(R288). -/
def State.unitWrite (s : State) (c b : Nat) (r : BankRun) (o : Nat) (bs : List Byte) : State :=
  let (sa, sn) := itemRange r
  let (oa, on) := outRange r
  if meets o bs.length sa sn && meets o bs.length oa on then
    ({ s with free := s.free + bs.length } : State).tileWrite (bankAddr c b o) (s.freeBytes bs.length)
  else s.tileWrite (bankAddr c b o) bs

/-- Exclusion bit of element j (OP3). -/
def State.excluded (s : State) (c b : Nat) (r : BankRun) (j : Nat) : Bool :=
  cExcl r.w && bit (mget s.mem (bankAddr c b (r.exb + j / 8))).toNat (j % 8)

/-- The unit reads the exclusion word of element j when j is the first element it covers. -/
def State.readExcl (s : State) (c b : Nat) (r : BankRun) (j : Nat) : State × BankRun × Option Nat :=
  if cExcl r.w && (j = 0 || (r.exb + j / 8) / 64 ≠ (r.exb + (j - 1) / 8) / 64) then
    let (s, r, _, u) := s.unitRead c b { r with w := r.w } (r.exb + j / 8) 1
    (s, r, u)
  else (s, r, none)

/-- The entry of a key at position j of bank b (Table 10-7). -/
def mkEntry (score : Bool) (key b j : Nat) : Nat :=
  if score then key % 2 ^ 32 + (b * 2 ^ 20 + j) * 2 ^ 32 else key * 2 ^ 24 + b * 2 ^ 20 + j

/-- Number of set bits. -/
def popcount (v : Nat) : Nat := (idxs 64 fun i => bit v i).length

/-- Exact INT8 dot product of 64 elements (R286). -/
def dot8 (xs ys : List Byte) : Int := (List.zipWith (fun x y => x.toInt * y.toInt) xs ys).foldl (· + ·) 0

/-- One element of XPOP: sketch j against every query (Table 10-6). -/
def State.xpopElem (s : State) (c b : Nat) (r : BankRun) (j : Nat) (sk : List Byte) : State :=
  (List.range (cQ r.w)).foldl (fun s q =>
    let d := popcount (leNat sk ^^^ leNat (mread (s.bank c b).qa (8 * q) 8))
    let ex := s.excluded c b r j
    if cKeep r.w then
      if d ≤ cTh r.w && !ex then s.setBank c b ((s.bank c b).offer q (mkEntry false d b j)) else s
    else s.unitWrite c b r (r.dst + q * r.n + j) [BitVec.ofNat 8 (if ex then 0xFF else d)]) s

/-- One row of I8DOT. -/
def State.dotElem (s : State) (c b : Nat) (r : BankRun) (j : Nat) (row : List Byte) : State :=
  (List.range (cQ r.w)).foldl (fun s q =>
    let v := (BitVec.ofInt 32 (dot8 row (mread (s.bank c b).qa (64 * q) 64))).toNat
    let ex := s.excluded c b r j
    if cKeep r.w then
      if ex then s else s.setBank c b ((s.bank c b).offer q (mkEntry true v b j))
    else s.unitWrite c b r (r.dst + 4 * (q * r.n + j)) (leBytes 4 (if ex then 0x80000000 else v))) s

/-- One element of SUMRED into the running sums (R287). -/
def sumElem (r : BankRun) (i : Nat) (x : BitVec 32) : BankRun :=
  if r.fmt = 0 then { r with acc := tset 0 r.acc 0 (tget 0 r.acc 0 + x.signExtend 64) }
  else
    let l := i % 8
    { r with acc := tset 0 r.acc l (if i < 8 then x.zeroExtend 64 else (fadd ((tget 0 r.acc l).truncate 32) x).zeroExtend 64) }

/-- RESULT of SUMRED (R287). -/
def sumResult (r : BankRun) : BitVec 64 :=
  if r.fmt = 0 then tget 0 r.acc 0
  else
    let p (l : Nat) : BitVec 32 := (tget 0 r.acc l).truncate 32
    (fadd (fadd (fadd (p 0) (p 4)) (fadd (p 2) (p 6))) (fadd (fadd (p 1) (p 5)) (fadd (p 3) (p 7)))).zeroExtend 64

/-- One key of TOPK32: index i counts keys over all queries. -/
def State.topElem (s : State) (c b : Nat) (r : BankRun) (i key : Nat) : State :=
  let q := i / r.n
  let j := i % r.n
  if s.excluded c b r j || (r.fmt = 0 && cTh r.w < key) then s
  else s.setBank c b ((s.bank c b).offer q (mkEntry (r.fmt == 1) key b j))

/-- What an item leaves: the state, the run, and an error code with the offset of an uncorrectable word. -/
structure ItemOut where
  s : State
  r : BankRun
  err : BitVec 8 := 0
  off : Nat := 0

/-- One BITSET position (R280, Table 10-6): its bit changes, and is counted; in a byte of the command's own source both what is read and
what is written are undefined (R288). -/
def State.bitsetElem (s : State) (c b : Nat) (r : BankRun) (p : Nat) : ItemOut :=
  let o := r.dst + p / 8
  if 0x800000 ≤ o then { s := s, r := r, err := 2 }
  else
    let (s, r, bs, u) := s.unitRead c b r o 1
    match u with
    | some f => { s := s, r := r, err := 3, off := f }
    | none =>
      let own := r.src ≤ o && o < r.src + 4 * r.n
      let old := leNat bs
      let new := if own then (Config.freeByte s.free).toNat
        else if cClr r.w then old &&& (0xFF - 2 ^ (p % 8)) else old ||| 2 ^ (p % 8)
      let flipped := if own then (Config.freeWord s.free).toNat % 2 else if old = new then 0 else 1
      let s : State := if own then { s with free := s.free + 1 } else s
      { s := s.tileWrite (bankAddr c b o) [BitVec.ofNat 8 new]
        r := { r with acc := tset 0 r.acc 0 (tget 0 r.acc 0 + flipped), hits := if own then r.hits ++ [o] else r.hits } }

/-- Whether a source word of a BITSET overlaps what the command writes: a byte of it is written already, or by a position at or after it
(R288). -/
def State.bitsetLap (s : State) (c b : Nat) (r : BankRun) (o : Nat) : Bool :=
  r.hits.any (fun h => o ≤ h && h < o + 4) ||
    (r.dst < o + 4 && (List.range ((r.src + 4 * r.n - o) / 4)).any fun i =>
      let h := r.dst + leNat (mread s.mem (bankAddr c b (o + 4 * i)) 4) / 8
      o ≤ h && h < o + 4)

/-- The positions an item of BITSET holds, in order, stopping at an error; a position read where source and bitmap
overlap is undefined, and the command goes on normally (R288). -/
def State.bitsetItem (s : State) (c b : Nat) (r : BankRun) (o : Nat) : List Nat → ItemOut
  | [] => { s := s, r := r }
  | p :: ps =>
    let lap := s.bitsetLap c b r o
    let p' := if lap then (Config.freeWord s.free).toNat % ((0x800000 - r.dst) * 8) else p
    let s : State := if lap then { s with free := s.free + 1 } else s
    let x := s.bitsetElem c b r p'
    if x.err ≠ 0 then x else x.s.bitsetItem c b x.r (o + 4) ps

/-- Read the exclusion words of several elements. -/
def State.readExcls (s : State) (c b : Nat) (r : BankRun) : List Nat → State × BankRun × Option Nat
  | [] => (s, r, none)
  | j :: js =>
    match s.readExcl c b r j with
    | (s, r, some f) => (s, r, some f)
    | (s, r, none) => s.readExcls c b r js

/-- Bytes o to o + n of what the end of a chain writes at CDST: its merged lists, each padded to 32 entries a member (R290). -/
def chainBytes (r : BankRun) (ls : List (List Nat)) (o n : Nat) : List Byte :=
  let e := if r.fmt = 1 then 8 else 4
  let m := 32 * r.chain.length
  let empty := if r.fmt = 1 then 0x80000000 + 0x00FFFFFF * 2 ^ 32 else 0xFFFFFFFF
  (List.range (n / e)).flatMap fun i =>
    let x := (o - r.cdst) / e + i
    leBytes e ((ls.getD (x / m) []).getD (x % m) empty)

/-- One item of array work (Table 10-6). -/
def State.bankItem (s : State) (c b : Nat) (r : BankRun) (i : Nat) : ItemOut :=
  let opc := cOpc r.w
  let i := if opc = 5 ∧ r.src < r.dst then itemCount r - 1 - i else i
  let (o, n) := itemBytes r i
  if opc = 7 then
    match (s.bank c b).inS with
    | some (.lists ls) => { s := s.tileWrite (bankAddr c b o) (chainBytes r ls o n), r := r }
    | _ => { s := s, r := r }
  else if opc = 4 then
    { s := s.unitWrite c b r o ((List.range n).map fun k => (leBytes 8 r.pat.toNat).getD ((o + k - r.dst) % 8) 0), r := r }
  else
    let size := if opc = 1 then 8 else if opc = 2 then 64 else if opc = 6 ∧ r.fmt ≠ 1 then 1 else 4
    let first := (o - r.src) / size
    let count := n / size
    let elems := (List.range count).map (· + first)
    let (s, r, x) := s.readExcls c b r (if opc = 6 then elems.map (· % r.n) else elems)
    match x with
    | some f => { s := s, r := r, err := 3, off := f }
    | none =>
      match s.unitRead c b r o n with
      | (s, r, _, some f) => { s := s, r := r, err := 3, off := f }
      | (s, r, bs, none) =>
        let el (k : Nat) : List Byte := (bs.drop (size * k)).take size
        match opc with
        | 1 => { s := (List.range count).foldl (fun s k => s.xpopElem c b r (first + k) (el k)) s, r := r }
        | 2 => { s := (List.range count).foldl (fun s k => s.dotElem c b r (first + k) (el k)) s, r := r }
        | 3 => { s := s, r := (List.range count).foldl (fun r k => sumElem r (first + k) (BitVec.ofNat 32 (leNat (el k)))) r }
        | 5 => { s := s.unitWrite c b r (r.dst + (o - r.src)) bs, r := r }
        | 6 => { s := (List.range count).foldl (fun s k => s.topElem c b r (first + k) (leNat (el k))) s, r := r }
        | 8 => s.bitsetItem c b r o ((List.range count).map fun k => leNat (el k))
        | _ => { s := s, r := r }

/-- After a break the end's output holds undefined values in what it wrote (R293), and a command that met an
uncorrectable word leaves its outputs undefined (R303): free bytes where the granule is written. -/
def State.freeRange (s : State) (c b o : Nat) : Nat → State
  | 0 => s
  | n + 1 =>
    let a := bankAddr c b (o + n)
    (if s.granAt a = .written then
      ({ s with mem := mset s.mem a (Config.freeByte s.free), free := s.free + 1 } : State) else s).freeRange c b o n

/-- Outputs of a command that met an uncorrectable word are undefined (R303): bytes it writes, where written, and RESULT. -/
def State.freeOutputs (s : State) (c b : Nat) (r : BankRun) : State :=
  let s : State := if cOpc r.w = 3 || cOpc r.w = 8 then
      ({ s with free := s.free + 1 } : State).setBank c b { s.bank c b with result := Config.freeWord s.free } else s
  if cOpc r.w = 8 then
    (List.range r.n).foldl (fun s i =>
      let o := r.dst + leNat (mread s.mem (bankAddr c b (r.src + 4 * i)) 4) / 8
      if o < 0x800000 then s.freeRange c b o 1 else s) s
  else
    let (oa, on) := if cOpc r.w = 4 ∨ cOpc r.w = 5 then (r.dst, r.n) else outRange r
    s.freeRange c b oa on

/-- Work on items up to a count, in order; an error ends the command (R280, R303). -/
def State.bankWork (s : State) (c b : Nat) : Nat → State
  | 0 => s
  | fuel + 1 =>
    match (s.bank c b).run with
    | none => s
    | some r =>
      if itemCount r ≤ r.pos || r.fwd then s
      else
        let x := s.bankItem c b r r.pos
        let s := x.s.setBank c b { x.s.bank c b with run := some { x.r with pos := x.r.pos + 1 } }
        if x.err = 3 then
          let s := (s.setBank c b { s.bank c b with faultOff := BitVec.ofNat 23 x.off }).freeLists c b r.w
          (s.freeOutputs c b x.r).endRun c b 3
        else if x.err = 2 then
          (s.setBank c b { s.bank c b with result := tget 0 x.r.acc 0 }).endRun c b 2
        else s.bankWork c b fuel

/-- The unit finishes its command: the rest of the work, then RESULT, and the end (R280); an ABORT that waits stops it here (R283). -/
def State.bankFinish (s : State) (c b : Nat) : State :=
  match (s.bank c b).run with
  | none => s
  | some r0 =>
    if r0.waiting then s
    else
      let s := s.bankWork c b (itemCount r0)
      let k := s.bank c b
      match k.run with
      | none => s
      | some r =>
        if k.fin.isSome then s
        else if k.abort then s.stopRun c b
        else
          let res := if cOpc r.w = 3 then sumResult r else if cOpc r.w = 8 then tget 0 r.acc 0 else k.result
          (s.setBank c b { k with result := res }).endRun c b 0

/-- A waiting member receives its predecessor's stream: merged list by list with its own, then forwarded, or kept for
the end's output (R290). -/
def State.chainArrive (s : State) (c b : Nat) : State :=
  let k := s.bank c b
  match k.run, k.inS with
  | some r, some (.lists ls) =>
    if r.waiting then
      let ms := (List.range (cQ r.w)).map fun q => mergeEntries (r.fmt == 1) (ls.getD q []) (tget [] k.lists q)
      let s := s.setBank c b { k with run := some { r with waiting := false }, inS := some (.lists ms) }
      s.deliver c (nextMember r.chain b) r.id (.lists ms)
    else s
  | _, _ => s

/-- A break mark reaches a waiting member: it ends with ERR 0x07 and passes the mark on; the end's output range is
undefined where written (R293). -/
def State.chainBroken (s : State) (c b : Nat) : State :=
  let k := s.bank c b
  match k.run, k.inS with
  | some r, some .broken =>
    if r.chain = [] then s
    else if r.chain.getLast? = some b then
      let e := if r.fmt = 1 then 8 else 4
      (s.freeRange c b r.cdst (cQ r.w * 32 * r.chain.length * e)).endRun c b 7
    else s.endRun c b 7
  | _, _ => s

end Sys2Proof.Machine
end

