-- ==== Sys2Proof/Machine/Sfu.lean ====
section
/-! DEFINITION. The special functions (R146 to R158): the saturating inputs of Table 5-4, native results within the
bounds of Table 5-3, and the bit-exact compatibility mode. -/

namespace Sys2Proof.Machine

/-- The special functions of the SFU. -/
inductive Sf where
  | tanh | sig | exp2 | rsq | rcp
deriving DecidableEq, Repr

/-- The number under which a function's native bits are free (log entry 10). -/
def Sf.code : Sf → Nat
  | .tanh => 0 | .sig => 1 | .exp2 => 2 | .rsq => 3 | .rcp => 4

/-- FP32 one. -/
def one32 : BitVec 32 := 0x3F800000
/-- The canonical NaN (R142). -/
def nan32 : BitVec 32 := 0x7FC00000
/-- An FP32 infinity. -/
def inf32 (neg : Bool) : BitVec 32 := if neg then 0xFF800000 else 0x7F800000
/-- An FP32 zero. -/
def zero32 (neg : Bool) : BitVec 32 := if neg then 0x80000000 else 0
/-- Round a rational to FP32. -/
def roundQ (q : Rat) : BitVec 32 := encF32 (ofRat q)
/-- The rational value of a finite FP32 number; 0 otherwise. -/
def valQ (v : BitVec 32) : Rat := match decF32 v with | .fin n q => signed n q | _ => 0
/-- Round to FP32 and keep the value. -/
def rq (q : Rat) : Rat := valQ (roundQ q)

/-- The results of Table 5-4 other than NaN inputs; none where the table does not settle the input. -/
def sfSpecial (f : Sf) (x : FV) : Option (BitVec 32) :=
  match f, x with
  | _, .nan => some nan32
  | .tanh, .inf n => some (if n then 0xBF800000 else one32)
  | .tanh, .fin n q =>
    if q < pow2 (-12) then some (encF32 x) else if 9 ≤ q then some (if n then 0xBF800000 else one32) else none
  | .sig, .inf n => some (if n then 0 else one32)
  | .sig, .fin n q =>
    if q = 0 then some 0x3F000000
    else if q < pow2 (-12) then
      some (if n then roundQ (1 - rq (1 / 2 + q / 4)) else roundQ (1 / 2 + q / 4))
    else if 17 ≤ q then some (if n then 0 else one32) else none
  | .exp2, .inf n => some (if n then 0 else inf32 false)
  | .exp2, .fin n q =>
    if q = 0 then some one32
    else if !n && 128 ≤ q then some (inf32 false) else if n && 149 < q then some 0 else none
  | .rsq, .inf n => some (if n then nan32 else 0)
  | .rsq, .fin n q => if q = 0 then some (inf32 n) else if n then some nan32 else none
  | .rcp, .inf n => some (zero32 n)
  | .rcp, .fin n q => if q = 0 then some (inf32 n) else none

/-- The exact value of the function of |x| for an input that Table 5-4 does not settle; for exp2 and the reciprocal
of the signed input's own value. -/
def sfExact (f : Sf) (neg : Bool) (q : Rat) : Rat :=
  match f with
  | .tanh => tanhQ q
  | .sig => sigQ q
  | .exp2 =>
    let x := signed neg q
    exp2Frac (x - floorQ x) * pow2 (floorQ x)
  | .rsq =>
    let e := log2Floor q
    let h := e / 2
    rsqQ (q / pow2 (2 * h)) * pow2 (-h)
  | .rcp => 1 / q

/-- One unit in the last place of FP32 at a positive value. -/
def ulp32 (y : Rat) : Rat := pow2 (max (log2Floor y) (-126) - 23)

/-- The bound of Table 5-3 at an exact value. -/
def sfBound (f : Sf) (y : Rat) : Rat :=
  match f with
  | .tanh => pow2 (-22)
  | .sig => pow2 (-22)
  | .exp2 => if pow2 (-126) ≤ y then pow2 (-21) * y else pow2 (-149)
  | .rsq => ulp32 y
  | .rcp => ulp32 y

/-- Distance of two rationals. -/
def distQ (a b : Rat) : Rat := if a < b then b - a else a - b

/-- The reduced input of a function: the magnitude, or for exp2 the input itself (Table 5-5). -/
def sfReduced (f : Sf) (x : BitVec 32) : BitVec 32 := if f = .exp2 then x else x &&& 0x7FFFFFFF

/-- A special function with the results of a table `mag` for the reduced inputs that Table 5-4 does not settle: the magnitude, or for
exp2 the signed input (R146, R148, R150). -/
def sfWith (f : Sf) (mag : BitVec 32 → BitVec 32) (x : BitVec 32) : BitVec 32 :=
  match sfSpecial f (decF32 x), decF32 x with
  | some r, _ => r
  | none, .fin n _ =>
    let r := mag (sfReduced f x)
    match f with
    | .sig => if n then roundQ (1 - valQ r) else r
    | .exp2 => r
    | _ => if n then r ||| 0x80000000 else r
  | none, _ => nan32

/-- A table's result for one reduced input keeps the bound of Table 5-3 and the range of R150, where Table 5-4 leaves the input open. -/
def sfWithin (f : Sf) (mag : BitVec 32 → BitVec 32) (x : BitVec 32) : Bool :=
  match sfSpecial f (decF32 x), decF32 x with
  | none, .fin n q =>
    let y := sfExact f n q
    let v := mag (sfReduced f x)
    match decF32 v, decF32 (roundQ y) with
    | .fin m p, .fin _ _ => !m && distQ p y ≤ sfBound f y && (f ≠ .sig || (1 / 2 ≤ p && p ≤ 1)) && (f ≠ .tanh || p ≤ 1)
    | _, .fin _ _ => false
    | _, _ => v == roundQ y
  | _, _ => true

/-- A function's results at two inputs next to each other in magnitude stand in the order of R151. -/
def sfOrdered (f : Sf) (g : BitVec 32 → BitVec 32) (n : Nat) : Bool :=
  let lo : BitVec 32 := BitVec.ofNat 32 n
  let hi : BitVec 32 := BitVec.ofNat 32 (n + 1)
  let le (x y : BitVec 32) : Bool := !(decF32 (g y)).lt (decF32 (g x))
  match f with
  | .rsq => le hi lo
  | .rcp => le hi lo && le (lo ||| 0x80000000) (hi ||| 0x80000000)
  | _ => le lo hi && le (hi ||| 0x80000000) (lo ||| 0x80000000)

/-- A test of every number below n, the highest first. -/
def allBelow : Nat → (Nat → Bool) → Bool
  | 0, _ => true
  | n + 1, p => p n && allBelow n p

/-- A table of native results that a device may have: within the bounds at every input (R146, R150), and monotone over every pair of
neighbouring inputs from zero to infinity (R151). -/
def sfLawful (f : Sf) (mag : BitVec 32 → BitVec 32) : Bool :=
  allBelow 0x7F800000 fun n =>
    sfWithin f mag (BitVec.ofNat 32 n) && sfWithin f mag (BitVec.ofNat 32 n ||| 0x80000000) && sfOrdered f (sfWith f mag) n

/-- The table of correctly rounded results. -/
def sfRounded (f : Sf) (x : BitVec 32) : BitVec 32 :=
  match decF32 x with | .fin n q => roundQ (sfExact f n q) | _ => nan32

/-- A special function in native mode (R146, R148, R150 to R152): the device's own bits if their table is one R146 to R151 permit,
correctly rounded ones otherwise. DESIGN CHOICE: log entry 10. -/
def sfNative (f : Sf) (x : BitVec 32) : BitVec 32 :=
  sfWith f (if sfLawful f (Config.sfuNative f.code) then Config.sfuNative f.code else sfRounded f) x

/-- A segment's evaluation (R156): φ at its ends and middle, coefficients, and the position t. -/
def segEval (y0 ym y1 t : Rat) : Rat :=
  let c2 := rq (2 * (y1 - 2 * ym + y0))
  let c1 := rq (y1 - y0 - c2)
  rq (y0 + t * rq (c1 + t * c2))

/-- The segment of an argument within its binade, and the polynomial there, of φ (R149, R156). DEDUCED: log entry 21. -/
def segBinade (φ : Rat → Rat) (a : Rat) : Rat :=
  let b := pow2 (log2Floor a)
  let j : Rat := (floorQ ((a / b - 1) * 16) : Rat)
  let s0 := b * (1 + j / 16)
  let h := b / 16
  segEval (rq (φ s0)) (rq (φ (s0 + h / 2))) (rq (φ (s0 + h))) ((a - s0) / h)

/-- The segment of exp2 in [0, 1). -/
def segUnit (φ : Rat → Rat) (t : Rat) : Rat :=
  let s0 : Rat := (floorQ (16 * t) : Rat) / 16
  segEval (rq (φ s0)) (rq (φ (s0 + 1 / 32))) (rq (φ (s0 + 1 / 16))) (16 * (t - s0))

/-- A result below 2^-126 in magnitude becomes a zero of its sign (R155). -/
def flush32 (v : BitVec 32) : BitVec 32 := if bits v.toNat 30 23 = 0 then v &&& 0x80000000 else v

/-- A special function in compatibility mode (R155, R156). DEDUCED: log entry 21. -/
def sfCompat (f : Sf) (x : BitVec 32) : BitVec 32 :=
  match decF32 x with
  | .nan => x ||| 0x00400000
  | _ =>
    let x := flush32 x
    match sfSpecial f (decF32 x), decF32 x with
    | some r, _ => flush32 r
    | none, .fin n q =>
      match f with
      | .tanh => flush32 (roundQ (signed n (segBinade tanhQ q)))
      | .sig => let p := segBinade sigQ q; flush32 (roundQ (if n then 1 - p else p))
      | .exp2 =>
        let v := signed n q
        flush32 (roundQ (segUnit exp2Frac (v - floorQ v) * pow2 (floorQ v)))
      | .rsq =>
        let e := log2Floor q
        let h := e / 2
        flush32 (roundQ (segBinade rsqQ (q / pow2 (2 * h)) * pow2 (-h)))
      | .rcp =>
        let e := log2Floor q
        flush32 (roundQ (signed n (segBinade (fun m => 1 / m) (q / pow2 e) * pow2 (-e))))
    | none, _ => nan32

end Sys2Proof.Machine
end

