-- ==== Sys2Proof/Machine/LlcOps.lean ====
section
/-! DEFINITION. The last-level cache: hash, ways, sectors, bypass, pairing, validity, dead lines, reductions and the
host directory (R211 to R243). Memory holds the value at the point of coherence; a line holds which sectors the
slice has, and which are dirty. -/

namespace Sys2Proof.Machine

/-! ### Hash and ways -/

/-- The mixed value of R212. -/
def llcMix (key : BitVec 64) (a : Nat) : Nat :=
  let x := a / 2048 * (key ||| 1).toNat % 2 ^ 64
  let y := x ^^^ (x >>> 29)
  y * 0x9E3779B97F4A7C15 % 2 ^ 64

/-- The set of an HBM address (R212). -/
def llcSet (key : BitVec 64) (a : Nat) : Nat := bits (llcMix key a) 7 0

/-- The settings in effect for a region: bit 0 mast-local, bit 1 host caching (R214). -/
def State.regMode (s : State) (g : Nat) : BitVec 2 := tget 0 s.llc.rmode g

/-- The slice of an HBM address (R212). -/
def State.llcSlice (s : State) (a : Nat) : Nat :=
  if (s.regMode (regionOf a)).getLsbD 0 then 32 * homeMast a + bits (llcMix s.llc.key a) 63 59
  else bits (llcMix s.llc.key a) 63 57

/-- The ways of a slice's mast a rig holds: way masks hold 16 bits per mast (R215, R407). -/
def State.waysOf (s : State) (r : Nat) (mast : Nat) : BitVec 16 := (s.rig r).ways.extractLsb' (16 * mast) 16

/-- The ways in which a line of a region may be allocated in a slice (R215). -/
def State.eligible (s : State) (slice g : Nat) : List Nat :=
  let mast := slice / 32
  let lost := tget 0 s.llc.retired slice
  (match s.rigOfRegion g with
    | some r => idxs 16 fun w => (s.waysOf r mast).getLsbD w
    | none => idxs 16 fun w => !((List.range 64).any fun r => (s.waysOf r mast).getLsbD w)).filter fun w =>
      !lost.getLsbD w

/-- A resident line. -/
def State.line (s : State) (l : Nat) : Option Line := tfind s.llc.lines l
/-- Place or replace a resident line. -/
def State.setLine (s : State) (l : Nat) (x : Line) : State :=
  { s with llc := { s.llc with lines := tput l x s.llc.lines } }
/-- Remove a line. -/
def State.dropLine (s : State) (l : Nat) : State := { s with llc := { s.llc with lines := tdel l s.llc.lines } }

/-- The lines resident in one way of one set. -/
def State.inWay (s : State) (slice set way : Nat) : List (Nat × Line) :=
  s.llc.lines.filter fun e => e.2.slice == slice && e.2.set == set && e.2.way == way

/-- The sectors that n bytes from a touch in their line. -/
def sectorsOf (a n : Nat) : BitVec 16 :=
  BitVec.ofNat 16 (maskOf 16 fun i => a % 1024 / 64 ≤ i && i ≤ (a % 1024 + n - 1) / 64)

/-- The sectors that n bytes from a cover in full. -/
def fullSectors (a n : Nat) : BitVec 16 :=
  BitVec.ofNat 16 (maskOf 16 fun i => a % 1024 ≤ 64 * i && 64 * i + 64 ≤ a % 1024 + n)

/-- What a miss fetches, by class (Table 8-3). -/
def fetchMask (cls : Fin 5) (a n : Nat) : BitVec 16 :=
  match cls.val with
  | 1 => BitVec.ofNat 16 (15 * 2 ^ (4 * (a % 1024 / 256)))
  | 2 => sectorsOf a n
  | _ => BitVec.allOnes 16

/-- Address of sector i of line l. -/
def sectorAddr (l i : Nat) : Nat := 1024 * l + 64 * i

/-! ### Compressed pairing (R224, R225) -/

/-- The words of a line, n bytes each. -/
def lineWords (m : Mem) (l n : Nat) : List Nat := (List.range (1024 / n)).map fun i => leNat (mread m (1024 * l + n * i) n)

/-- Every word equals the first plus a signed delta of the given bits. -/
def deltasFit (wordBits deltaBits : Nat) : List Nat → Bool
  | [] => true
  | w :: ws => ws.all fun x =>
      let d := (x + 2 ^ wordBits - w) % 2 ^ wordBits
      d < 2 ^ (deltaBits - 1) || 2 ^ wordBits - 2 ^ (deltaBits - 1) ≤ d

/-- A line is compressible when all its sectors are valid and one of the forms of R224 holds. -/
def State.compressible (s : State) (l : Nat) (valid : BitVec 16) : Bool :=
  valid == BitVec.allOnes 16 &&
    (deltasFit 64 16 (lineWords s.mem l 8) || deltasFit 32 8 (lineWords s.mem l 4))

/-- PAIREN of LLC_MODE (Table 8-2). -/
def State.pairEn (s : State) : Bool := (s.reg 0x070008).getLsbD 20

/-! ### Errors of line data, tags and directory entries (R220, R479) -/

/-- A request reads sectors of a resident line that hold errors: a single bit is corrected and rewritten; an
uncorrectable clean sector is discarded and counted as correctable; an uncorrectable dirty one is poisoned (R220,
R481). -/
def State.lineErrors (s : State) (l : Nat) (need : BitVec 16) : State :=
  (idxs 16 fun i => need.getLsbD i).foldl (fun s i =>
    match s.line l with
    | none => s
    | some x =>
      let b := BitVec.twoPow 16 i
      let w := sectorAddr l i
      if x.bad2.getLsbD i then
        if x.dirty.getLsbD i then (s.setLine l { x with bad2 := x.bad2 &&& ~~~b }).setMark w .ue
        else (s.setLine l { x with bad2 := x.bad2 &&& ~~~b, valid := x.valid &&& ~~~b }).countCe 4 x.slice (1024 * l) 0
      else if x.bad1.getLsbD i then
        (s.setLine l { x with bad1 := x.bad1 &&& ~~~b }).countCe 4 x.slice (1024 * l) 0
      else s) s

/-- A lost entry of a tag or of the directory: LOST with its slice, or 32 × mast, and the uncorrectable source (R479). An entry
of a directory has no KIND in Table 18-4. DESIGN CHOICE: log entry 83. -/
def State.lostEntry (s : State) (dir : Bool) (slice : Nat) : State :=
  let s := s.countUe (if dir then 0 else 4) slice
  { s with ras := { s.ras with lost := true, lostDir := dir, lslice := slice } }

/-- Bytes of the dirty sectors of a line become undefined: free values (R479). -/
def State.loseSectors (s : State) (l : Nat) (d : BitVec 16) : State :=
  s.each (idxs 16 fun i => d.getLsbD i) fun s i =>
    ({ s with mem := mwrite s.mem (sectorAddr l i) (s.freeBytes 64), free := s.free + 64 } : State).setMark (sectorAddr l i) .none

/-- A way of a slice fails: recorded, and in use until a re-rig replaces it (R493). -/
def State.failWay (s : State) (slice way : Nat) : State :=
  let now : BitVec 16 := tget 0 s.llc.failing slice
  if now.getLsbD way || (tget (0 : BitVec 16) s.llc.retired slice).getLsbD way then s
  else
    ({ s with llc := { s.llc with failing := tset 0 s.llc.failing slice (now ||| BitVec.twoPow 16 way) } } : State).recordFail 4
      (17 * slice + if tget none s.llc.spareFor slice = some way then 16 else way)

/-- A look-up meets the tag of a resident line (R479): the other copy serves and rewrites a bad one, counted as correctable; with
both bad the line is gone, its dirty sectors are lost, and its way fails (R493). DEDUCED: log entry 71. -/
def State.meetTag (s : State) (l : Nat) (x : Line) : State :=
  if x.tag = 0 then s
  else if x.tag = 3 then (((s.loseSectors l x.dirty).dropLine l).lostEntry false x.slice).failWay x.slice x.way
  else (s.setLine l { x with tag := 0 }).countCe 4 x.slice (1024 * l) 0

/-- A look-up of a line meets the tags of its set. -/
def State.meetTags (s : State) (l : Nat) : State :=
  let slice := s.llcSlice (1024 * l)
  let set := llcSet s.llc.key (1024 * l)
  (s.llc.lines.filter fun e => e.2.slice == slice && e.2.set == set && e.2.tag != 0).foldl (fun s e => s.meetTag e.1 e.2) s

/-- A look-up meets a directory entry (R479): as a tag, but a lost entry is only no longer tracked. A correction of one has no KIND
in Table 18-4, and is counted alone. DESIGN CHOICE: log entry 83. DEDUCED: log entry 71. -/
def State.meetDir (s : State) (e : DirEnt) : State :=
  if e.bad = 0 then s
  else if e.bad = 3 then
    ({ s with llc := { s.llc with dir := s.llc.dir.filter (· ≠ e) } } : State).lostEntry true (32 * homeMast (64 * e.line))
  else
    { s with
      llc := { s.llc with dir := s.llc.dir.map fun d => if d = e then { d with bad := 0 } else d }
      ras := { s.ras with ce := satTo (2 ^ 40 - 1) (s.ras.ce + 1) } }

/-- Look-ups of the directory entries of n bytes from a. -/
def State.meetDirs (s : State) (a n : Nat) : State :=
  (s.llc.dir.filter fun e => a / 64 ≤ e.line && e.line ≤ (a + n - 1) / 64 && e.bad != 0).foldl (fun s e => s.meetDir e) s

/-! ### Set-written messages (R227, R264) -/

/-- Whether the slice of a word holds its sector, so that its bytes are the cached ones. -/
def State.cachedWord (s : State) (w : Nat) : Bool :=
  match s.line (w / 1024) with | some x => x.valid.getLsbD (w % 1024 / 64) | none => false

/-- The first write to a granule of HBM: zeros in DRAM, so that only cached copies can hold other bytes; then written (R227, R264). -/
def State.firstDram (s : State) (a : Nat) : State :=
  if s.granAt a = .written then s
  else
    ({ s with
        mem := tclear (fun k => k / 4096 = a / 4096 && !s.cachedWord (k / 64 * 64)) s.mem
        errs := tclear (fun k => k / 4096 = a / 4096 && !s.cachedWord k) s.errs } : State).setGran a .written

/-- A set-written message reaches the controller: the granule is zero-filled and written (R227, R264). -/
def State.setWritten (s : State) (g : Nat) : State :=
  if s.llc.setW.contains g then
    let s := s.firstDram (4096 * g)
    { s with llc := { s.llc with setW := s.llc.setW.filter (· ≠ g), setR := s.llc.setR ++ [g] } }
  else s

/-- Answer a request: the bytes and whether they are uncorrectable. -/
def State.llcOut (s : State) (bs : List Byte) (ue : Bool) : State := { s with llc := { s.llc with out := some (bs, ue) } }

/-- Whether a write to a line may be acknowledged: it lies in its place and no set-written message of its granule is on the way. -/
def Llc.ackable (k : Llc) (l : Nat) : Bool :=
  !k.splits.contains l && !k.setW.contains (l / 4) && !k.setR.contains (l / 4)

/-- The slices acknowledge the writes that wait for nothing any more (R225, R227). -/
def State.ackWrites (s : State) : State :=
  if s.llc.acks.any s.llc.ackable then
    ({ s with llc := { s.llc with acks := s.llc.acks.filter fun l => !s.llc.ackable l } } : State).llcOut [] false
  else s

/-- The controller's reply lets the slice acknowledge the write; the granule's lines carry the flag (R227). -/
def State.setWrittenReply (s : State) (g : Nat) : State :=
  if s.llc.setR.contains g then
    ({ s with llc := { s.llc with
        setR := s.llc.setR.filter (· ≠ g)
        lines := s.llc.lines.map fun e => if e.1 / 4 = g then (e.1, { e.2 with flag := true }) else e } } : State).ackWrites
  else s

/-- A set-written message of a granule and its reply (R227). -/
def State.settleWrite (s : State) (g : Nat) : State := (s.setWritten g).setWrittenReply g

/-! ### Write-back and victims (R215, R219) -/

/-- Write one dirty sector back: its DRAM word is rewritten, poison carried (R219, R220); an armed flip of the
channel fires. -/
def State.backSector (s : State) (a : Nat) : State :=
  match s.mark a with
  | .ue => s.countUe 2 (chanUnit a)
  | _ => (s.setMark a .none).flipWrite 2 (chanUnit a) a

/-- Write the dirty sectors of a line back, each with the error it holds (R220). A set-written message of the granule has reached
the controller before them (R264). -/
def State.backSectors (s : State) (l : Nat) (d : BitVec 16) : State :=
  let s := if d = 0 then s else s.setWritten (l / 4)
  (idxs 16 fun i => d.getLsbD i).foldl (fun s i => s.backSector (sectorAddr l i)) (s.lineErrors l d)

/-- Evict a line: dirty sectors written back, then gone. -/
def State.evict (s : State) (l : Nat) : State :=
  match s.line l with
  | none => s
  | some x => (s.backSectors l x.dirty).dropLine l

/-- Evict every line of one way. -/
def State.evictWay (s : State) (slice set way : Nat) : State :=
  (s.inWay slice set way).foldl (fun s e => s.evict e.1) s

/-- Ways reserved by fills in a set. -/
def State.filling (s : State) (slice set : Nat) : List Nat :=
  s.llc.fills.filterMap fun f =>
    if s.llcSlice (1024 * f.line) = slice ∧ llcSet s.llc.key (1024 * f.line) = set then f.way else none

/-- Age of a way: the latest use of its lines; 0 when empty. -/
def State.wayAge (s : State) (slice set way : Nat) : Nat :=
  (s.inWay slice set way).foldl (fun m e => max m (e.2.age + 1)) 0

/-- The way a line may take: least recently used among the eligible that are neither pinned nor being filled (R215,
R238). DEDUCED: log entry 66. -/
def State.victim (s : State) (l : Nat) : Option Nat :=
  let slice := s.llcSlice (1024 * l)
  let set := llcSet s.llc.key (1024 * l)
  let ok := (s.eligible slice (regionOf (1024 * l))).filter fun w =>
    !((s.filling slice set).contains w) && (s.inWay slice set w).all fun e => e.2.pins = 0
  ok.foldl (fun best w =>
    match best with
    | none => some w
    | some b => if s.wayAge slice set w < s.wayAge slice set b then some w else some b) none

/-- The other line of a 2 KiB pair. -/
def mate (l : Nat) : Nat := if l % 2 = 0 then l + 1 else l - 1

/-- The way in which a line may share its mate's space (R225). -/
def State.pairWay (s : State) (l : Nat) (valid : BitVec 16) : Option Nat :=
  match s.line (mate l) with
  | none => none
  | some m =>
    if s.pairEn && s.compressible l valid && s.compressible (mate l) m.valid &&
        m.slice == s.llcSlice (1024 * l) && (s.eligible m.slice (regionOf (1024 * l))).contains m.way then some m.way
    else none

/-- A fresh age stamp. -/
def State.tickLlc (s : State) : State := { s with llc := { s.llc with clock := s.llc.clock + 1 } }

/-- Place a line in a way, whose lines leave first unless it shares the way with its mate. -/
def State.placeLine (s : State) (l way : Nat) (share : Bool) (x : Line) : State :=
  let slice := s.llcSlice (1024 * l)
  let set := llcSet s.llc.key (1024 * l)
  (if share then s else s.evictWay slice set way).setLine l { x with slice := slice, set := set, way := way }

/-- The way an absent line is to take, and whether it shares it with its mate: the mate's way where the line will be compressible with
the sectors it gets, else a victim's (R215, R225). DEDUCED: log entry 66. -/
def State.wayFor (s : State) (l : Nat) (valid : BitVec 16) : Option (Nat × Bool) :=
  match s.pairWay l valid with
  | some w => some (w, true)
  | none => (s.victim l).map fun w => (w, false)

/-- Allocate a line in the way that its fill reserved (R215, R225): a pair shares its way and evicts nothing; a line that was to pair
and no longer can takes a way under R215, or is not allocated where there is none. DEDUCED: log entry 66. -/
def State.allocate (s : State) (l way : Nat) (valid : BitVec 16) (flag : Bool) : State :=
  let s := s.tickLlc
  let x : Line := { slice := 0, set := 0, way := 0, valid := valid, dirty := 0, flag := flag, age := s.llc.clock }
  let shared := match s.line (mate l) with | some m => m.slice == s.llcSlice (1024 * l) && m.way == way | none => false
  if shared && s.pairWay l valid = some way then s.placeLine l way true x
  else if shared then (match s.victim l with | some w => s.placeLine l w false x | none => s)
  else s.placeLine l way false x

/-- After a write, a paired line that is no longer compressible takes a way of its own, at once or when one is free (R225). -/
def State.splitPair (s : State) (l : Nat) : State :=
  match s.line l with
  | none => s
  | some x =>
    if (s.inWay x.slice x.set x.way).length ≤ 1 || s.compressible l x.valid then s
    else
      match (s.dropLine l).victim l with
      | none => { s with llc := { s.llc with splits := s.llc.splits.filter (· ≠ l) ++ [l] } }
      | some w => (s.dropLine l).placeLine l w false x

/-- Written lines that wait for a way of their own try again, and their writes complete once they are placed (R225); an answer already
given stays. -/
def State.splitAgain (s : State) : State :=
  if s.llc.splits = [] then s
  else
    let t := (({ s with llc := { s.llc with splits := [] } } : State).each s.llc.splits fun s l => s.splitPair l).ackWrites
    if s.llc.out.isSome then { t with llc := { t.llc with out := s.llc.out } } else t

/-! ### Counters and stream trackers (R221, R222) -/

/-- Count a request as a hit or a miss. -/
def State.countLlc (s : State) (cls : Fin 5) (hit : Bool) : State :=
  { s with llc := { s.llc with
      hits := if hit then tmod 0 s.llc.hits cls.val (· + 1) else s.llc.hits
      misses := if hit then s.llc.misses else tmod 0 s.llc.misses cls.val (· + 1) } }

/-- LLC_STREAM_CTL (Table 8-5). -/
def State.streamCtl (s : State) : Nat := (s.reg 0x070010).toNat

/-- Whether the detector follows a class. -/
def State.streamOn (s : State) (cls : Fin 5) : Bool :=
  cls.val ≤ 2 && bit s.streamCtl (8 + cls.val) && bits s.streamCtl 3 0 ≠ 0

/-- The tracker of a requester in a slice. -/
def State.tracker (s : State) (slice : Nat) (who : Who) : Option Tracker :=
  s.llc.trk.find? fun t => t.slice.val == slice && t.who == who

/-- A tracker's next state after a miss on line l (R222); the same line again changes nothing. -/
def Tracker.miss (t : Tracker) (l thresh age : Nat) : Tracker :=
  if l = t.last then { t with age := age }
  else if t.last < l ∧ l / 64 = t.last / 64 then
    { t with last := l, run := t.run + 1, bypass := t.bypass || decide (thresh ≤ t.run + 1), age := age }
  else { t with last := l, run := 1, bypass := decide (thresh ≤ 1), age := age }

/-- Follow a miss: the requester's tracker, or a new one, the least recently used giving way among 32 of the slice. -/
def State.trackMiss (s : State) (slice : Nat) (who : Who) (cls : Fin 5) (l : Nat) : State :=
  if !s.streamOn cls then s else
    let s := s.tickLlc
    let th := bits s.streamCtl 3 0
    match s.tracker slice who with
    | some t =>
      { s with llc := { s.llc with
          trk := s.llc.trk.map fun u => if u = t then t.miss l th s.llc.clock else u } }
    | none =>
      let mine := s.llc.trk.filter fun t => t.slice.val == slice
      let oldest := mine.foldl (fun m t => min m t.age) s.llc.clock
      let kept := if mine.length < 32 then s.llc.trk
        else s.llc.trk.filter fun t => !(t.slice.val == slice && t.age == oldest)
      { s with llc := { s.llc with
          trk := kept ++ [{ slice := Fin.ofNat 128 slice, who := who, last := l, run := 1, bypass := decide (th ≤ 1), age := s.llc.clock }] } }

/-- A hit in a slice ends the requester's bypass there (R222). -/
def State.trackHit (s : State) (slice : Nat) (who : Who) : State :=
  { s with llc := { s.llc with trk := s.llc.trk.filter fun t => !(t.slice.val == slice && t.who == who) } }

/-- Whether a requester's tracker is in bypass. -/
def State.inBypass (s : State) (slice : Nat) (who : Who) : Bool :=
  match s.tracker slice who with | some t => t.bypass | none => false

/-! ### Reductions (R234 to R237) -/

/-- Combine one word (R235). -/
def redWord (op : Fin 4) (int : Bool) (d x : BitVec 32) : BitVec 32 :=
  match op.val, int with
  | 0, false => fadd d x
  | 1, false => fmax d x
  | 2, false => fmin d x
  | 0, true => d + x
  | 1, true => if d.slt x then x else d
  | _, true => if x.slt d then x else d
  | _, false => d

/-- 32-bit words of a byte list. -/
def wordsLe (bs : List Byte) : List (BitVec 32) :=
  (List.range (bs.length / 4)).map fun i => BitVec.ofNat 32 (field bs (4 * i) 4)

/-- Bytes of 32-bit words. -/
def bytesLe (ws : List (BitVec 32)) : List Byte := ws.flatMap fun w => leBytes 4 w.toNat

/-- Combine LSE records as lists of words: element 0 is m, 1 is l, 2 is COUNT, 16 on are o (R236, R237). -/
def lseCombine (d x : List (BitVec 32)) : List (BitVec 32) :=
  let at_ (l : List (BitVec 32)) (i : Nat) : BitVec 32 := l.getD i 0
  let c := at_ x 2
  if c = 0 then d
  else if at_ d 2 = 0 then
    (List.range d.length).map fun i => if i < 3 ∨ 16 ≤ i then at_ x i else at_ d i
  else
    let mn := fmax (at_ d 0) (at_ x 0)
    let α := if at_ d 0 = mn then one32 else sfNative .exp2 (fsub (at_ d 0) mn)
    let β := if at_ x 0 = mn then one32 else sfNative .exp2 (fsub (at_ x 0) mn)
    (List.range d.length).map fun i =>
      if i = 0 then mn
      else if i = 1 then ffma (at_ d 1) α (fmul (at_ x 1) β)
      else if i = 2 then at_ d 2 + c
      else if i < 16 then at_ d i
      else ffma (at_ d i) α (fmul (at_ x i) β)

/-- The combined words of a reduction. -/
def redCombine (r : Red) (d : List (BitVec 32)) : List (BitVec 32) :=
  if r.op.val = 3 then lseCombine d r.src else List.zipWith (redWord r.op r.int) d r.src

/-! ### Requests -/

/-- The bytes a request touches. -/
def llcLen : LlcOp → Nat
  | .read n => n
  | .write bs => bs.length
  | .red r => 4 * r.src.length

/-- Whether a request changes memory. -/
def llcWrites : LlcOp → Bool
  | .read _ => false
  | _ => true

/-- The 64 B lines of a request that the host holds in a state the request must snoop (R242). -/
def State.snoopLines (s : State) (r : LlcReq) : List Nat :=
  if r.who = .host then [] else
    (s.llc.dir.filter fun e => r.a / 64 ≤ e.line && e.line ≤ (r.a + (llcLen r.op) - 1) / 64 && (llcWrites r.op || e.modified)).map (·.line)

/-- A write to a line whose flag is clear sends set-written (R227). -/
def State.needSetWritten (s : State) (g : Nat) : State :=
  if s.llc.setW.contains g then s else { s with llc := { s.llc with setW := s.llc.setW ++ [g] } }

/-- Mark the sectors a write touches: poison and partial writes per sector (R218, R220, R477). A sector present before
the write is met by the merge read; one just fetched was counted by the fill. -/
def State.sectorMarks (s : State) (present : BitVec 16) (a n : Nat) : List Nat → State
  | [] => s
  | i :: is =>
    let w := a / 1024 * 1024 + 64 * i
    let s := if coversWord a n w 64 then s.setMark w .none
      else match s.mark w with
        | .ue => if present.getLsbD i then s.countUe 4 (s.llcSlice w) else s
        | _ => s
    s.sectorMarks present a n is

/-- Corrupt a sector of a resident line by an armed flip of LLC data (R484, KIND 4). -/
def State.flipLine (s : State) (l a : Nat) : State :=
  let slice := s.llcSlice a
  match s.line l with
  | none => s
  | some x =>
    if s.flipArmed 4 slice then
      let sec := BitVec.twoPow 16 (a % 1024 / 64)
      match flipPositions 4 s.ras.flipMask.toNat s.ras.flipTgt.toNat with
      | [] => s.flipFired
      | [_] => s.flipFired.setLine l { x with bad1 := x.bad1 ||| sec }
      | [_, _] => s.flipFired.setLine l { x with bad2 := x.bad2 ||| sec }
      | _ => { s.flipFired with mem := mwrite s.mem (a / 8 * 8) (s.freeBytes 8), free := s.free + 8 }
    else s

/-- Whether a read of present sectors meets poison; each poisoned sector counts once (R480). -/
def State.readSectors (s : State) (l : Nat) : List Nat → State × Bool
  | [] => (s, false)
  | i :: is =>
    let w := sectorAddr l i
    let (s, b) := match s.mark w with
      | .ue => (s.countUe 4 (s.llcSlice w), true)
      | _ => (s, false)
    let (s, c) := s.readSectors l is
    (s, b || c)

/-- Release a pin. -/
def State.unpin (s : State) (l : Nat) : State :=
  match s.line l with
  | none => s
  | some x => s.setLine l { x with pins := x.pins - 1 }

/-- A write has reached a line: it is acknowledged at once where the line's flag is set and the line lies in its place, else when the
set-written reply and the place have come (R225, R227). -/
def State.wrote (s : State) (l : Nat) (flag : Bool) : State :=
  let s := s.splitPair l
  if flag && !s.llc.splits.contains l then s.llcOut [] false
  else
    let s := if flag then s else s.needSetWritten (l / 4)
    { s with llc := { s.llc with acks := s.llc.acks ++ [l] } }

/-- The channel controller reads the words of a fill: which sectors came back good (R228, R255, R260, R478, R495). -/
def State.fetchSectors (s : State) (l : Nat) : List Nat → State × BitVec 16
  | [] => (s, 0)
  | i :: is =>
    let w := sectorAddr l i
    let (s, bad) :=
      if (s.chan (chanUnit w)).lost then (s.countUe 2 (chanUnit w), true) else s.meetDram [w]
    let (s, m) := s.fetchSectors l is
    (s, if bad then m else m ||| BitVec.twoPow 16 i)

/-- Remove the first element that satisfies p. -/
def dropFirst {α : Type} (p : α → Bool) : List α → List α
  | [] => []
  | x :: t => if p x then t else x :: dropFirst p t

/-- A slice applies the first reduction accepted for a line: one indivisible read, combine and write. A clean sector in error is
refetched (R220); an uncorrectable destination is left as it is, and the answer says so (R234). The pin is released (R238). -/
def State.reductionApply (s : State) (l : Nat) : State :=
  match s.llc.reds.find? fun e => e.1 = l with
  | none => s
  | some (_, q) =>
    let s : State := { s with llc := { s.llc with reds := dropFirst (fun e => e.1 = l) s.llc.reds } }
    let sec := sectorsOf q.a (llcLen q.op)
    let s := (s.unpin l).lineErrors l sec
    match q.op, s.line l with
    | .red r, some x =>
      let (s, good) := s.fetchSectors l (idxs 16 fun i => (sec &&& ~~~x.valid).getLsbD i)
      let (s, ue) := s.readSectors l (idxs 16 fun i => (sec &&& x.valid).getLsbD i)
      if ue || sec &&& ~~~(x.valid ||| good) != 0 then s.splitAgain.llcOut [] true
      else
        let bs := bytesLe (redCombine r (wordsLe (mread s.mem q.a (llcLen q.op))))
        let s : State := { s with mem := mwrite s.mem q.a bs }
        let s := s.setLine l { x with valid := x.valid ||| good, dirty := x.dirty ||| sec }
        ((s.flipLine l q.a).splitAgain).wrote l x.flag
    | _, _ => s

/-- The reductions accepted for a line are applied before a later read or write of it (R234); their own answers are given as they are. -/
def State.applyReds (s : State) (l : Nat) : State :=
  let n := (s.llc.reds.filter fun e => e.1 = l).length
  if n = 0 then s
  else
    let t := s.each (List.range n) fun s _ => s.reductionApply l
    { t with llc := { t.llc with out := s.llc.out } }

/-- Perform a request on a line all of whose needed sectors are present (R218, R227, R234, R238). -/
def State.perform (s : State) (r : LlcReq) : State :=
  let l := r.a / 1024
  let s := s.tickLlc
  match s.line l with
  | none => s
  | some x =>
    match r.op with
    | .read n =>
      let s := s.setLine l { x with age := s.llc.clock }
      let (s, u) := s.readSectors l (idxs 16 fun i => (sectorsOf r.a n).getLsbD i)
      s.llcOut (mread s.mem r.a n) u
    | .write bs =>
      let sec := sectorsOf r.a bs.length
      let s := s.sectorMarks x.valid r.a bs.length (idxs 16 fun i => sec.getLsbD i)
      let s : State := { s with mem := mwrite s.mem r.a bs }
      let full := fullSectors r.a bs.length
      let s := s.setLine l { x with
        valid := x.valid ||| sec, dirty := x.dirty ||| sec, age := s.llc.clock,
        bad1 := x.bad1 &&& ~~~full, bad2 := x.bad2 &&& ~~~full }
      (s.flipLine l r.a).wrote l x.flag
    | .red _ =>
      let s := s.setLine l { x with pins := x.pins + 1, age := s.llc.clock }
      { s with llc := { s.llc with reds := s.llc.reds ++ [(l, r)] } }

/-- A request that finds what it needs absent counts as a miss, once, and its requester's tracker follows it (R221, R222). -/
def State.missed (s : State) (r : LlcReq) : State :=
  if r.counted then s else (s.countLlc r.cls false).trackMiss (s.llcSlice r.a) r.who r.cls (r.a / 1024)

/-- A request that finds what it needs counts as a hit, unless it has waited for the fill, and ends its requester's bypass. -/
def State.hit (s : State) (r : LlcReq) : State :=
  if r.counted then s else (s.countLlc r.cls true).trackHit (s.llcSlice r.a) r.who

/-- Whether a request is a reduction. -/
def llcRed : LlcOp → Bool
  | .red _ => true
  | _ => false

/-- The lines in the forward table of a slice (R239). -/
def State.fwdTable (s : State) (slice : Nat) : List Nat :=
  ((s.llc.fwd.map (·.1)).filter fun l => s.llcSlice (1024 * l) = slice).dedup

/-- A request that the forward table of its slice holds back (R239): one for a line in it, unless it is a reduction that finds no way
either, and every reduction while the table is full. -/
def State.fwdHolds (s : State) (r : LlcReq) : Bool :=
  let t := s.fwdTable (s.llcSlice r.a)
  let l := r.a / 1024
  if llcRed r.op then 32 ≤ t.length || (t.contains l && ((s.line l).isSome || (s.victim l).isSome)) else t.contains l

/-- Wait for a fill of a line, in a way or without allocation. -/
def State.waitFill (s : State) (r : LlcReq) (way : Option Nat) : State :=
  { s with llc := { s.llc with fills := s.llc.fills ++ [⟨r.a / 1024, way, { r with counted := true }⟩] } }

/-- A request misses at its slice: `have_` are the sectors present that it finds (R215, R217, R218, R223, R225, R239). -/
def State.miss (s : State) (r : LlcReq) (have_ : BitVec 16) : State :=
  let l := r.a / 1024
  let slice := s.llcSlice r.a
  let set := llcSet s.llc.key r.a
  let need := sectorsOf r.a (llcLen r.op)
  let bypass := s.inBypass slice r.who && s.streamOn r.cls && !llcRed r.op
  let s := s.missed r
  let full := fullSectors r.a (llcLen r.op)
  let noFetch := match r.op with | .write _ => decide (need &&& ~~~(have_ ||| full) = 0) | _ => false
  if (s.line l).isSome then (if noFetch then s.perform r else s.waitFill r none)
  else if bypass then s.waitFill r none
  else
    let after : State := match r.op with | .write bs => { s with mem := mwrite s.mem r.a bs } | _ => s
    match after.wayFor l (if noFetch then full else need ||| fetchMask r.cls r.a (llcLen r.op)) with
    | none => if llcRed r.op then { s with llc := { s.llc with fwd := s.llc.fwd ++ [(l, r)] } } else s.waitFill r none
    | some (w, share) =>
      if noFetch then
        ((s.tickLlc).placeLine l w share { slice := 0, set := 0, way := 0, valid := 0, dirty := 0, flag := false, age := 0 }).perform r
      else (if share then s else s.evictWay slice set w).waitFill r (some w)

/-- A request is served at its slice, which nothing holds back: reductions accepted before it for its line come first (R234), errors of
tags and data are met (R220, R479), and it hits or misses (R217, R218). -/
def State.atSlice (s : State) (r : LlcReq) : State :=
  let l := r.a / 1024
  let s := (if llcRed r.op then s else s.applyReds l).meetTags l
  let need := sectorsOf r.a (llcLen r.op)
  let s := s.lineErrors l need
  let have_ := match s.line l with | some x => x.valid | none => 0
  if need &&& ~~~have_ = 0 then (s.hit r).perform r else s.miss r have_

/-- A request that a dead drop does not hold: the forward table, the host's directory and a fill of its line may hold it yet
(R227, R239, R242). -/
def State.llcServe (s : State) (r : LlcReq) : State :=
  let l := r.a / 1024
  let s := if r.who = .host then s else s.meetDirs r.a (llcLen r.op)
  if s.fwdHolds r then { s with llc := { s.llc with fwdHeld := s.llc.fwdHeld ++ [r] } }
  else if s.snoopLines r ≠ [] then
    let sn := s.snoopLines r
    { s with llc := { s.llc with
        snoops := s.llc.snoops ++ sn.filter fun x => !s.llc.snoops.contains x
        frees := if llcWrites r.op then s.llc.frees ++ sn.filter fun x => !s.llc.frees.contains x else s.llc.frees
        snHeld := s.llc.snHeld ++ [r] } }
  else if s.llc.fills.any (fun f => f.line = l) then
    let s := s.missed r
    { s with llc := { s.llc with waiting := s.llc.waiting ++ [(l, { r with counted := true })] } }
  else s.atSlice r

/-- A request reaches its slice (R217 to R242); a granule that is being dropped holds it (R230). -/
def State.llcRequest (s : State) (r : LlcReq) : State :=
  if place r.a ≠ .hbm || llcLen r.op = 0 then s
  else if s.llc.heldG.contains (r.a / 4096) then { s with llc := { s.llc with held := s.llc.held ++ [r] } }
  else s.llcServe r

/-! ### Channel controllers and fills -/

/-- First writes to the granules of some words of HBM. -/
def State.firstDrams (s : State) : List Nat → State
  | [] => s
  | w :: ws => (s.firstDram w).firstDrams ws

/-- A write without allocation at the controller (R223): granule state, marks, bytes. -/
def State.dramWrite (s : State) (a : Nat) (bs : List Byte) : State :=
  if (s.chan (chanUnit a)).lost then s
  else (((s.firstDrams (wordsOf a bs.length)).putBytes a bs)).flipWrite 2 (chanUnit a) (wordOf a)

/-- Requests that were held go on, in order. -/
def State.resend (s : State) (rs : List LlcReq) : State := rs.foldl (fun s r => s.llcRequest r) s

/-- The channel controller returns a line, or takes the masked write that nothing waits for: the slice allocates the line and performs
the request that waited (R223, R227, R228). A fill of a dead granule counts a dead read, unless it only completes a partial write
(R231). -/
def State.fillReturn (s : State) (l : Nat) : State :=
  match s.llc.fills.find? fun f => f.line = l with
  | none => s
  | some f =>
    let s : State := { s with llc := { s.llc with fills := dropFirst (fun x => x.line = l) s.llc.fills } }
    let a := 1024 * l
    let need := sectorsOf f.req.a (llcLen f.req.op)
    let have_ := match s.line l with | some x => x.valid | none => 0
    let want := if f.way.isSome && (s.line l).isNone then fetchMask f.req.cls f.req.a (llcLen f.req.op) ||| need else need
    let through := match f.req.op with | .write _ => f.way.isNone && (s.line l).isNone | _ => false
    let s : State :=
      if through then (match f.req.op with | .write bs => (s.dramWrite f.req.a bs).llcOut [] false | _ => s)
      else
        let s : State := match f.req.op with
          | .write _ => s
          | _ => if s.granAt a = .dead then s.deadRead a else s
        let (s, good) := s.fetchSectors l (idxs 16 fun i => (want &&& ~~~have_).getLsbD i)
        let bad := need &&& ~~~(have_ ||| good)
        let flag := decide (s.granAt a = .written)
        let s : State := match s.line l, f.way with
          | some x, _ => s.setLine l { x with valid := x.valid ||| good, flag := flag }
          | none, some w => (s.allocate l w good flag).flipLine l f.req.a
          | none, none => s
        match f.req.op with
        | .read n => if (s.line l).isSome && bad = 0 then s.perform f.req else s.llcOut (mread s.mem f.req.a n) (bad ≠ 0)
        | .write bs => if (s.line l).isSome then s.perform f.req else (s.dramWrite f.req.a bs).llcOut [] false
        | .red _ =>
          if (s.line l).isSome then s.perform f.req else { s with llc := { s.llc with fwd := s.llc.fwd ++ [(l, f.req)] } }
    let ws := (s.llc.waiting.filter fun e => e.1 = l).map (·.2)
    (({ s with llc := { s.llc with waiting := s.llc.waiting.filter fun e => e.1 ≠ l } } : State).resend ws).splitAgain

/-- The home controller applies the first forwarded reduction of a line to DRAM (R239). -/
def State.forwardApply (s : State) (l : Nat) : State :=
  match s.llc.fwd.find? fun e => e.1 = l with
  | none => s
  | some (_, q) =>
    let s : State := { s with llc := { s.llc with fwd := dropFirst (fun e => e.1 = l) s.llc.fwd } }
    match q.op with
    | .red r =>
      let n := llcLen q.op
      let (s, ue) := if (s.chan (chanUnit q.a)).lost then (s.countUe 2 (chanUnit q.a), true) else s.meetDram (wordsOf q.a n)
      if ue then s.llcOut [] true
      else (s.dramWrite q.a (bytesLe (redCombine r (wordsLe (mread s.mem q.a n))))).llcOut [] false
    | _ => s

/-- The controller acknowledges every reduction forwarded for a line: the entry frees and the requests that its slice's table held go
on (R239). -/
def State.forwardAck (s : State) (l : Nat) : State :=
  let n := (s.llc.fwd.filter fun e => e.1 = l).length
  if n = 0 then s
  else
    let s := s.each (List.range n) fun s _ => s.forwardApply l
    let mine (r : LlcReq) : Bool := r.a / 1024 = l || (llcRed r.op && s.llcSlice r.a = s.llcSlice (1024 * l))
    ({ s with llc := { s.llc with fwdHeld := s.llc.fwdHeld.filter fun r => !mine r } } : State).resend (s.llc.fwdHeld.filter mine)

/-! ### Dead lines (R229 to R233) -/

/-- What reached a line's slice before a drop is served with the data as it stood (R233): fills and the requests that wait for them,
reductions accepted and forwarded. -/
def State.finishLine (s : State) (l : Nat) : State :=
  let n := (s.llc.fills.filter fun f => f.line = l).length + (s.llc.waiting.filter fun e => e.1 = l).length
  ((s.each (List.range n) fun s _ => s.fillReturn l).applyReds l).forwardAck l

/-- Requests that reached the slices before the drop of a granule wait for the host's answer (R242). -/
def State.snoopedFirst (s : State) (g : Nat) : Bool := s.llc.snHeld.any fun r => r.a / 4096 = g

/-- The slices drop the lines of a granule without write-back, and the host copies of its lines are back-invalidated (R229). -/
def State.dropGran (s : State) (g : Nat) : State :=
  let s := s.meetDirs (4096 * g) 4096
  let sn := (s.llc.dir.filter fun e => e.line / 64 = g).map (·.line)
  { s with llc := { s.llc with
      lines := s.llc.lines.filter fun e => e.1 / 4 ≠ g
      splits := s.llc.splits.filter fun l => l / 4 ≠ g
      snoops := s.llc.snoops ++ sn.filter fun x => !s.llc.snoops.contains x
      frees := s.llc.frees ++ sn.filter fun x => !s.llc.frees.contains x } }.ackWrites

/-- The drop of a granule reaches its slices, each of which counts a request of class 0: what came before it is served, later requests
are held, lines and host copies go (R217, R229, R230, R233). While a request that came before waits for the host, so does the drop.
DESIGN CHOICE: log entry 84. -/
def State.deadDrop (s : State) (g : Nat) : State :=
  let ls := (List.range 4).map (4 * g + ·)
  let s := s.each (ls.map fun l => s.llcSlice (1024 * l)).dedup fun s _ => s.countLlc 0 true
  let s := (s.each ls fun s l => s.finishLine l).settleWrite g
  let s : State := { s with llc := { s.llc with heldG := s.llc.heldG.filter (· ≠ g) ++ [g] } }
  if s.snoopedFirst g then s else s.dropGran g

/-- The controller acknowledges the dead mark once the host's copies are gone; held requests proceed in arrival order (R229, R230).
DESIGN CHOICE: log entry 84. -/
def State.deadAck (s : State) (g : Nat) : State :=
  if s.llc.heldG.contains g && !s.snoopedFirst g && s.llc.dir.all fun e => e.line / 64 ≠ g then
    let rs := s.llc.held.filter fun r => r.a / 4096 = g
    let s := s.emptyGran (4096 * g) .dead
    ({ s with llc := { s.llc with
        heldG := s.llc.heldG.filter (· ≠ g)
        held := s.llc.held.filter fun r => r.a / 4096 ≠ g } } : State).resend rs
  else s

end Sys2Proof.Machine
end

