-- ==== Sys2Proof/Machine/Operands.lean ====
section
/-! DEFINITION. Operand forms of core instructions: registers, descriptors, formats, layouts and element addresses
(R78 to R91, R127), and the checks of a descriptor at issue (R90). -/

namespace Sys2Proof.Machine

/-! ### Registers -/

/-- A scalar register; g0 reads as zero (R79). -/
def Core.rg (k : Core) (r : Nat) : BitVec 64 := if r = 0 then 0 else tget 0 k.g r
/-- Write a scalar register; a write to g0 is discarded (R79). -/
def Core.wg (k : Core) (r : Nat) (x : BitVec 64) : Core := if r = 0 then k else { k with g := tset 0 k.g r x }
/-- A predicate. -/
def Core.rp (k : Core) (i : Nat) : Bool := k.p.getLsbD i
/-- Write a predicate. -/
def Core.wp (k : Core) (i : Nat) (b : Bool) : Core :=
  { k with p := if b then k.p ||| BitVec.twoPow 8 i else k.p &&& ~~~(BitVec.twoPow 8 i) }
/-- Lane i of vector register r. -/
def Core.rv (k : Core) (r i : Nat) : BitVec 32 := tget 0 k.v (64 * r + i)
/-- Write lane i of vector register r. -/
def Core.wv (k : Core) (r i : Nat) (x : BitVec 32) : Core := { k with v := tset 0 k.v (64 * r + i) x }
/-- The 64 lanes of a vector register. -/
def Core.rvs (k : Core) (r : Nat) : List (BitVec 32) := (List.range 64).map (k.rv r)
/-- Write lanes from lane i on. -/
def Core.wvs (k : Core) (r : Nat) : Nat → List (BitVec 32) → Core
  | _, [] => k
  | i, x :: xs => (k.wv r i x).wvs r (i + 1) xs
/-- Element (r, c) of accumulator bank n. -/
def Core.ra (k : Core) (n r c : Nat) : BitVec 32 := tget 0 k.acc (1024 * n + 32 * r + c)
/-- Write element (r, c) of accumulator bank n. -/
def Core.wa (k : Core) (n r c : Nat) (x : BitVec 32) : Core := { k with acc := tset 0 k.acc (1024 * n + 32 * r + c) x }
/-- Descriptor register n. -/
def Core.rd (k : Core) (n : Nat) : Desc :=
  ⟨tget 0 k.d (4 * n), tget 0 k.d (4 * n + 1), tget 0 k.d (4 * n + 2), tget 0 k.d (4 * n + 3)⟩
/-- Write word w of descriptor register n. -/
def Core.wd (k : Core) (n w : Nat) (x : BitVec 64) : Core := { k with d := tset 0 k.d (4 * n + w) x }

/-! ### Descriptor fields (Table 3-4) -/

/-- BASE. -/
def Desc.base (d : Desc) : Nat := bits d.w0.toNat 47 0
/-- FMT. -/
def Desc.fmt (d : Desc) : Nat := bits d.w0.toNat 55 48
/-- LAYOUT[4:0]. -/
def Desc.lay (d : Desc) : Nat := bits d.w0.toNat 60 56
/-- SKW. -/
def Desc.skw (d : Desc) : Bool := d.w0.getLsbD 61
/-- SCL. -/
def Desc.scl (d : Desc) : Nat := bits d.w0.toNat 63 62
/-- E0. -/
def Desc.e0 (d : Desc) : Nat := bits d.w1.toNat 15 0 + 1
/-- E1. -/
def Desc.e1 (d : Desc) : Nat := bits d.w1.toNat 31 16 + 1
/-- E2. -/
def Desc.e2 (d : Desc) : Nat := bits d.w1.toNat 47 32 + 1
/-- E3. -/
def Desc.e3 (d : Desc) : Nat := bits d.w1.toNat 63 48 + 1
/-- S0. -/
def Desc.s0 (d : Desc) : Int := (d.w2.extractLsb' 0 32).toInt
/-- S1. -/
def Desc.s1 (d : Desc) : Int := (d.w2.extractLsb' 32 32).toInt
/-- S2. -/
def Desc.s2 (d : Desc) : Int := (d.w3.extractLsb' 0 32).toInt
/-- S3. -/
def Desc.s3 (d : Desc) : Int := (d.w3.extractLsb' 32 32).toInt
/-- Element count N (R87). -/
def Desc.count (d : Desc) : Nat := d.e0 * d.e1 * d.e2 * d.e3
/-- Rows of dimension 0. -/
def Desc.rows (d : Desc) : Nat := d.e1 * d.e2 * d.e3

/-- Element bits of a format code; none when not listed (Table 3-5). -/
def fmtBits (f : Nat) : Option Nat :=
  match f with
  | 0x01 => some 8 | 0x02 => some 8 | 0x03 => some 32 | 0x04 => some 32 | 0x05 => some 32
  | 0x06 => some 16 | 0x07 => some 16 | 0x08 => some 8 | 0x09 => some 8 | 0x0A => some 4
  | 0x0B => some 4 | 0x0C => some 6 | 0x0D => some 6 | 0x0E => some 8 | 0x0F => some 64
  | 0x10 => some 64 | 0x11 => some 128 | 0x12 => some 128
  | _ => none

/-- Element bits of a listed format, 8 otherwise. -/
def fmtW (f : Nat) : Nat := (fmtBits f).getD 8
/-- Block-scaled formats (Table 3-5). -/
def fmtScaled (f : Nat) : Bool := f == 0x0B || f == 0x0C || f == 0x0D
/-- Bytes of a 32-element block with its scale byte (R89). -/
def blockBytes (f : Nat) : Nat := if f = 0x0B then 17 else 25

/-! ### Elements -/

/-- An element in memory: address of its first byte, first bit within it, and width in bits. -/
structure Elem where
  a : Int
  bit : Nat := 0
  w : Nat
deriving DecidableEq, Repr

/-- Bytes an element touches. -/
def Elem.len (e : Elem) : Nat := (e.bit + e.w + 7) / 8

/-- Address of the first byte of row n, n counting rows in linear order (R87). -/
def Desc.row (d : Desc) (n : Nat) : Int :=
  d.base + (n % d.e1 : Nat) * d.s1 + (n / d.e1 % d.e2 : Nat) * d.s2 + (n / d.e1 / d.e2 : Nat) * d.s3

/-- The element of linear index n (R87, R89). -/
def Desc.elem (d : Desc) (n : Nat) : Elem :=
  let i0 := n % d.e0
  let r := d.row (n / d.e0)
  let w := fmtW d.fmt
  if 8 ≤ w then ⟨r + i0 * d.s0, 0, w⟩
  else if d.scl = 1 then
    let p := i0 % 32 * w
    ⟨r + (i0 / 32 * blockBytes d.fmt + 1 + p / 8 : Nat), p % 8, w⟩
  else ⟨r + (i0 * w / 8 : Nat), i0 * w % 8, w⟩

/-- The scale byte of block n, blocks counted in linear order, for SCL 01 (R89). Under SKW = 1, where R127 ignores the strides and
gives scales no place, the blocks' scales stand one block apart from BASE. DESIGN CHOICE: log entry 75. -/
def Desc.scale (d : Desc) (n : Nat) : Elem :=
  let per := d.e0 / 32
  if d.skw then ⟨(d.base + n * blockBytes d.fmt : Nat), 0, 8⟩
  else ⟨d.row (n / per) + (n % per * blockBytes d.fmt : Nat), 0, 8⟩

/-! ### Checks at issue (R90) -/

/-- Whether an address lies in the core's own locker. -/
def inLocker (c : Nat) (a : Nat) : Bool := match place a with | .locker n _ => n == c | _ => false

/-- A stride or base is a multiple of the element size; sub-byte formats are byte-aligned. -/
def strideOk (w : Nat) (x : Int) : Bool := w < 8 || x % ((w / 8 : Nat) : Int) == 0

/-- The companion register of core c holds the scales of d: format 0x0E and extents E0/32, E1, E2, E3 (R89), with the checks of R90
on its own layout code; SKW = 1 with BASE in the own locker is no stop, as R90 lists none. DESIGN CHOICE: log entry 75. -/
def companionOk (c : Nat) (d e : Desc) : Bool :=
  e.fmt == 0x0E && e.lay == 0 && e.scl == 0 && (!e.skw || inLocker c e.base) && e.e0 * 32 == d.e0 && e.e1 == d.e1 && e.e2 == d.e2 &&
    e.e3 == d.e3

/-- The checks of R90 on descriptor n of core c, with its companion, for a set of accepted formats. -/
def descOk (c n : Nat) (d e : Desc) (fmts : List Nat) : Bool :=
  let w := fmtW d.fmt
  (fmtBits d.fmt).isSome && fmts.contains d.fmt && d.lay == 0 && d.scl != 3 &&
    (if fmtScaled d.fmt then d.scl != 0 else d.scl == 0) &&
    (d.scl != 2 || (n != 15 && companionOk c d e)) &&
    (!d.skw || inLocker c d.base) &&
    strideOk w d.base &&
    (d.skw || ((w < 8 || strideOk w d.s0) && strideOk w d.s1 && strideOk w d.s2 && strideOk w d.s3)) &&
    (!fmtScaled d.fmt || d.e0 % 32 == 0) && (d.fmt != 0x0A || d.e0 % 2 == 0)

/-- Every listed format code. -/
def anyFmt : List Nat := (List.range 0x12).map (· + 1)

/-! ### The skewed layout (R127, Tables 4-1 and 4-2) -/

/-- Reduction indices per step g. -/
def fmtG (f : Nat) : Nat := if f = 0x0A ∨ f = 0x0B then 2 else 1
/-- Depth granule. -/
def fmtGran (f : Nat) : Nat := if f = 0x0A ∨ f = 0x0B then 64 else 32
/-- Deepest stationary operand. -/
def fmtKmax (f : Nat) : Nat := if f = 0x0A ∨ f = 0x0B then 512 else if f = 0x06 ∨ f = 0x07 then 128 else 256
/-- Padded depth (R120). -/
def kPad (f k : Nat) : Nat := ceilDiv k (fmtGran f) * fmtGran f

/-- Shapes of Table 4-2. -/
inductive Shape where
  | s32 | s16 | s8 | p2 | p4
deriving DecidableEq, Repr

/-- The shape of a SHP code. -/
def shapeOf (n : Nat) : Option Shape :=
  match n with
  | 0 => some .s32 | 1 => some .s16 | 2 => some .s8 | 3 => some .p2 | 4 => some .p4 | _ => none

/-- Rows R of a shape. -/
def Shape.rows : Shape → Nat
  | .s16 => 16 | .s8 => 8 | _ => 32
/-- Column halves H. -/
def Shape.halves : Shape → Nat
  | .p4 => 2 | _ => 1
/-- E1 and E2 fit a shape (Table 4-2). -/
def Shape.fits (sh : Shape) (e1 e2 : Nat) : Bool :=
  match sh with
  | .s32 => 17 ≤ e1 && e1 ≤ 32 && e2 == 1
  | .s16 => 9 ≤ e1 && e1 ≤ 16 && e2 == 1
  | .s8 => 1 ≤ e1 && e1 ≤ 8 && e2 == 1
  | .p2 => e1 == 16 && e2 == 2
  | .p4 => e1 == 16 && e2 == 4
/-- The shape that extents E1 and E2 select (R128). -/
def shapeFor (e1 e2 : Nat) : Option Shape := [Shape.s32, .s16, .s8, .p2, .p4].find? fun sh => sh.fits e1 e2
/-- Array row of element (i1, i2). -/
def Shape.rowOf (sh : Shape) (i1 i2 : Nat) : Nat :=
  match sh with
  | .p2 => 16 * i2 + i1
  | .p4 => 16 * (i2 / 2) + i1
  | _ => i1
/-- Column half of element (i1, i2). -/
def Shape.halfOf (sh : Shape) (i2 : Nat) : Nat := match sh with | .p4 => i2 % 2 | _ => 0
/-- The problem (i1, i2) whose moving elements meet bank element (r, j). -/
def Shape.source (sh : Shape) (r j : Nat) : Nat × Nat :=
  match sh with
  | .p2 => (r % 16, r / 16)
  | .p4 => (r % 16, 2 * (r / 16) + j / 16)
  | _ => (r, 0)
/-- Store column feeding bank column j of row r. -/
def Shape.storeCol (sh : Shape) (r j : Nat) : Nat :=
  match sh with
  | .p2 => j + 32 * (r / 16)
  | .p4 => 16 * (2 * (r / 16) + j / 16) + j % 16
  | _ => j

/-- Slot size SB in bytes. -/
def slotBytes (f : Nat) (sh : Shape) : Nat := 32 * sh.halves * fmtG f * fmtW f / 8
/-- Slot count T. -/
def slotCount (f k : Nat) (sh : Shape) : Nat := kPad f k / fmtG f + sh.rows - 1

/-- The skewed place of an element of step index i0 at row r and column half h of a block at a base, H halves wide (R127). -/
def skewAt (base f H i0 r h : Nat) : Elem :=
  let g := fmtG f
  let w := fmtW f
  let p := 8 * (32 * H * g * w / 8) * (i0 / g + r) + ((32 * h + r) * g + i0 % g) * w
  ⟨(base + p / 8 : Nat), p % 8, w⟩

/-- The skewed place of element (i0, i1, i2) of a block at a base (R127). -/
def skewElem (base : Nat) (f : Nat) (sh : Shape) (i0 i1 i2 : Nat) : Elem :=
  skewAt base f sh.halves i0 (sh.rowOf i1 i2) (sh.halfOf i2)

/-- The element of linear index n in the layout the descriptor names (R87, R89, R127). With SKW = 1 the strides are ignored; where E1,
E2 and E3 fit no row of Table 4-2, or Table 4-1 lists no g for the format, R127's place is that of row number n div E0 in half 0
with g = 1 for the format: DESIGN CHOICE: log entry 75. -/
def Desc.el (d : Desc) (n : Nat) : Elem :=
  if d.skw then
    match (if d.e3 = 1 then shapeFor d.e1 d.e2 else none) with
    | some sh => skewElem d.base d.fmt sh (n % d.e0) (n / d.e0 % d.e1) (n / d.e0 / d.e1 % d.e2)
    | none => skewAt d.base d.fmt 1 (n % d.e0) (n / d.e0) 0
  else d.elem n

end Sys2Proof.Machine
end

