-- ==== Sys2Proof/Machine/Route.lean ====
section
/-! DEFINITION. The network (11): its places, the links between them (R305, R307, R308, R585), the route between two places (R309,
R491), and the multicast packet with its replication tree (R314). Only what a route passes shows: a yard whose routers hold, or carry
nothing further (R322), and a stay that is down (R491). -/

namespace Sys2Proof.Machine

/-! ### Links (Table 11-1) -/

/-- Data wires of one direction of a link. -/
def linkWidth : LinkKind → Nat
  | .row | .cross | .vert => 512
  | .up => 1024
  | .step | .port => 2048

/-- Links of one kind in one mast (R305, R307); port attachments are two for each port router of the device. -/
def linksPerMast : LinkKind → Nat
  | .row => 64 * 17
  | .cross => 4 * 15 * 18
  | .vert => 3 * 288
  | .up => 32
  | .step => 52
  | .port => 14

/-- First key of the links of a kind in the model's tables. -/
def linkBase : LinkKind → Nat
  | .row => 0
  | .cross => 10000
  | .vert => 20000
  | .up => 30000
  | .step => 40000
  | .port => 50000

/-- The mast of the port attachment of the CXL port and Pahus ports 0 to 5 (Table 1-4). -/
def portMast (p : Nat) : Nat :=
  match p with
  | 0 => 0 | 1 => 0 | 2 => 1 | 3 => 1 | 4 => 2 | 5 => 3 | _ => 3

/-- The mast of a link. -/
def linkMast (l : Link) : Nat :=
  match l.kind with
  | .port => portMast (l.idx / 2)
  | k => l.idx / linksPerMast k

/-- Whether the device has a link of this number. -/
def linkOk (l : Link) : Bool :=
  match l.kind with
  | .port => l.idx < 14
  | k => l.idx < 4 * linksPerMast k

/-- The key of a link. -/
def linkKey (l : Link) : Nat := linkBase l.kind + l.idx

/-! ### Places -/

/-- A place of the network: a logic router by mast, layer, row and physical column; a step router; the stay endpoint of a mast at column 7
or at row 3; a port router, 0 for CXL and p + 1 for Pahus p; the front end's router (R305, R307, R585). -/
inductive Node where
  | logic (m l y c : Nat)
  | step (m u : Nat)
  | stay (m : Nat) (col7 : Bool)
  | port (p : Nat)
  | front
deriving DecidableEq, Repr

/-- The mast of a place. -/
def Node.mast : Node → Nat
  | .logic m _ _ _ => m
  | .step m _ => m
  | .stay m _ => m
  | .port p => portMast p
  | .front => 0

/-- The logic router of landing u of a mast (R307). -/
def landingNode (m u : Nat) : Node := .logic m 0 (4 * (u / 8) + 1 + u % 2) (2 * (u % 8) + 1)

/-- The landing nearest a logic position at row y and physical column c (R309). -/
def nearestLanding (y c : Nat) : Nat := 8 * (y / 4) + min (c / 2) 7

/-- The two step routers that a port router attaches to, which the spec does not place. DESIGN CHOICE: log entry 13. -/
def portStep (p : Nat) (second : Bool) : Nat := (Config.portStep (2 * p + b2n second)).val

/-- The landing nearest a port, of the two step routers it attaches to. DESIGN CHOICE: log entry 13. -/
def portLanding (p : Nat) : Nat := portStep p (Config.portSecond p)

/-- The places a link joins (Table 11-1, R307, R585), by its number within its kind and mast. DEDUCED: log entry 64. -/
def linkEnds (l : Link) : Node × Node :=
  let m := linkMast l
  let i := l.idx % linksPerMast l.kind
  match l.kind with
  | .row => (.logic m (i / 17 / 16) (i / 17 % 16) (i % 17), .logic m (i / 17 / 16) (i / 17 % 16) (i % 17 + 1))
  | .cross => (.logic m (i / 270) (i / 18 % 15) (i % 18), .logic m (i / 270) (i / 18 % 15 + 1) (i % 18))
  | .vert => (.logic m (i / 288) (i / 18 % 16) (i % 18), .logic m (i / 288 + 1) (i / 18 % 16) (i % 18))
  | .up => (landingNode m i, .step m i)
  | .step => if i < 28 then (.step m (8 * (i / 7) + i % 7), .step m (8 * (i / 7) + i % 7 + 1)) else (.step m (i - 28), .step m (i - 20))
  | .port => (.port (i / 2), .step m (portStep (i / 2) (i % 2 = 1)))

/-- The masts a stay joins, M0–M1, M1–M3, M3–M2, M2–M0 (R308, Table 19-7). -/
def stayMasts (st : Nat) : List Nat := match st with | 0 => [0, 1] | 1 => [1, 3] | 2 => [3, 2] | _ => [2, 0]

/-- The next mast clockwise, and anticlockwise, round the ring M0, M1, M3, M2 (R308). -/
def clockwise (m : Nat) : Nat := match m with | 0 => 1 | 1 => 3 | 3 => 2 | _ => 0
/-- The next mast anticlockwise. -/
def anticlockwise (m : Nat) : Nat := match m with | 0 => 2 | 2 => 3 | 3 => 1 | _ => 0

/-- The stay between two neighbouring masts. -/
def stayBetween (a b : Nat) : Nat := ((List.range 4).find? fun st => (stayMasts st).contains a && (stayMasts st).contains b).getD 0

/-- The endpoint of a mast toward a neighbour: column 7 faces the neighbour along the host-connector edge (R585). -/
def endpoint (m other : Nat) : Node := .stay m (other / 2 = m / 2)

/-! ### Routes (R309, Table 11-2) -/

/-- The numbers from a to b, one step at a time, a left out. -/
def stepsTo (a b : Nat) : List Nat :=
  if a ≤ b then (List.range (b - a)).map fun i => a + i + 1 else (List.range (a - b)).map fun i => a - i - 1

/-- Within a layer: across yards to the row, then along it to the column. The place it starts from is left out. -/
def inLayer (m l y c y' c' : Nat) : List Node := (stepsTo y y').map (.logic m l · c) ++ (stepsTo c c').map (.logic m l y' ·)

/-- Across a step plane from router u to router v: along the row of u, then along the column of v (Table 11-2, R585). DEDUCED: log entry 99. -/
def inPlane (m u v : Nat) : List Node :=
  (stepsTo (u % 8) (v % 8)).map (fun x => .step m (8 * (u / 8) + x)) ++ (stepsTo (u / 8) (v / 8)).map fun x => .step m (8 * x + v % 8)

/-- The landing by which a logic position reaches a place outside its layer stack: of the slice, nearest the port or the front end, or
nearest itself on the way to another mast (Table 11-2). DEDUCED: log entry 99. -/
def downLanding (y c : Nat) (m : Nat) : Node → Nat
  | .step m' u => if m' = m then u else nearestLanding y c
  | .port p => if portMast p = m then portLanding p else nearestLanding y c
  | .front => if m = 0 then 0 else nearestLanding y c
  | _ => nearestLanding y c

/-- From a place to the step router at which it enters its mast's step plane. -/
def toPlane (a b : Node) : List Node × Nat :=
  match a with
  | .logic m l y c =>
    let u := downLanding y c m b
    match landingNode m u with
    | .logic _ _ y' c' => (inLayer m l y c y' c' ++ (stepsTo l 0).map (.logic m · y' c') ++ [.step m u], u)
    | _ => ([], u)
  | .step _ u => ([], u)
  | .port p => ([.step (portMast p) (portLanding p)], portLanding p)
  | _ => ([.step 0 0], 0)

/-- From the step plane of its mast to a place: the step router it leaves by, and what follows. -/
def fromPlane (b : Node) : Nat × List Node :=
  match b with
  | .logic m l y c =>
    let u := nearestLanding y c
    match landingNode m u with
    | .logic _ _ y' c' => (u, [landingNode m u] ++ (stepsTo 0 l).map (.logic m · y' c') ++ inLayer m l y' c' y c)
    | _ => (u, [])
  | .step _ u => (u, [])
  | .port p => (portLanding p, [b])
  | _ => (0, [b])

/-- The step router at which a packet from router u meets the endpoint toward a neighbour (R585). -/
def stayStep (u : Nat) : Node → Nat
  | .stay _ true => 8 * (u / 8) + 7
  | _ => 24 + u % 8

/-- The stays crossed: the masts passed on a way round the ring, by `next`, from a to b. -/
def ringWay (next : Nat → Nat) (b : Nat) : Nat → Nat → List Nat
  | 0, _ => []
  | n + 1, a => if a = b then [] else next a :: ringWay next b n (next a)

/-- The endpoints passed on a way round the ring. Across a mast that is passed through, the endpoints alone stand for the way. -/
def wayNodes : Nat → List Nat → List Node
  | _, [] => []
  | a, b :: t => endpoint a b :: endpoint b a :: wayNodes b t

/-- A way crosses no stay that is down. -/
def wayUp (down : Nat → Bool) : Nat → List Nat → Bool
  | _, [] => true
  | a, b :: t => !down (stayBetween a b) && wayUp down b t

/-- The way to another mast: one stay to a neighbour, two clockwise to the diagonal mast; where a stay on it is down, the other way round
the ring (R309, R491); none where both ways are cut. -/
def mastWay (down : Nat → Bool) (a b : Nat) : Option (List Nat) :=
  let cw := ringWay clockwise b 4 a
  let acw := ringWay anticlockwise b 4 a
  let (first, second) := if cw.length ≤ 2 then (cw, acw) else (acw, cw)
  if wayUp down a first then some first else if wayUp down a second then some second else none

/-- The route from one place to another, both included (Table 11-2): none where no way round the ring is left. -/
def routeOf (down : Nat → Bool) (a b : Node) : Option (List Node) :=
  match a, b with
  | .logic m l y c, .logic m' l' y' c' =>
    if m = m' then some (a :: (stepsTo l l').map (.logic m · y c) ++ inLayer m l' y c y' c') else far a b
  | _, _ =>
    if a.mast = b.mast then
      let (up, u) := toPlane a b
      let (v, dn) := fromPlane b
      some (a :: up ++ inPlane a.mast u v ++ dn)
    else far a b
where
  /-- To a place of another mast. -/
  far (a b : Node) : Option (List Node) :=
    (mastWay down a.mast b.mast).map fun ms =>
      let (up, u) := toPlane a b
      let (v, dn) := fromPlane b
      let ends := wayNodes a.mast ms
      let u' := stayStep u (ends.headD .front)
      let v' := stayStep v (ends.getLastD .front)
      a :: up ++ inPlane a.mast u u' ++ ends ++ [.step b.mast v'] ++ inPlane b.mast v' v ++ dn

/-! ### What a route passes -/

/-- A stay is down when no group is left (R491). -/
def State.stayDown (s : State) (st : Nat) : Bool := tget 0 s.net.out st == BitVec.allOnes 16

/-- A stay carries no traffic: it is down, or in a loop-back (R491, R557). -/
def State.stayCut (s : State) (st : Nat) : Bool :=
  s.stayDown st || (let l := s.loop (16 + st); l.st = 1 || l.st = 2 || l.st = 3)

/-- Nothing in the network holds a packet: no yard's routers hold or are out, and every stay carries traffic. -/
def State.netClear (s : State) : Bool :=
  (s.yards.all fun e => !e.2.netHold && !e.2.netDown) && (List.range 4).all fun st => !s.stayCut st

/-- A router passes packets: in a yard whose network PLL is lost it holds them, and after a failed relock it carries none (R322). -/
def State.nodeOpen (s : State) : Node → Bool
  | .logic m l y _ => let k := s.yard (64 * m + 16 * l + y); !k.netHold && !k.netDown
  | _ => true

/-- A packet from one place reaches another. -/
def State.passes (s : State) (a b : Node) : Bool :=
  s.netClear || (match routeOf s.stayCut a b with | some ns => ns.all s.nodeOpen | none => false)

/-- A request reaches its target and the response comes back, each by its own route. -/
def State.reaches (s : State) (a b : Node) : Bool := s.netClear || s.passes a b && s.passes b a

/-- The router of a logical core: its physical position, or column 0 of its yard for a core that has none. -/
def State.coreNode (s : State) (c : Nat) : Node :=
  .logic (c / 1024) (c / 256 % 4) (yardOf c % 16) ((s.columnOf c).getD 0)

/-! ### Multicast (R314) -/

/-- A multicast packet: its yard bitmap, bit 16 × (4m + k) + y, and the logical-column mask that applies in every marked yard. -/
structure Mcast where
  yards : BitVec 256
  cols : BitVec 16
deriving DecidableEq, Repr

/-- A logical core is marked. -/
def Mcast.marks (p : Mcast) (c : Nat) : Bool := p.yards.getLsbD (yardOf c) && p.cols.getLsbD (c % 16)

/-- The packets that mark exactly the cores of a set: one for each column mask that a yard of the set has.
DESIGN CHOICE: log entry 93. -/
def packetsOf (cs : BitVec 4096) : List Mcast :=
  let mask (y : Nat) : BitVec 16 := cs.extractLsb' (16 * y) 16
  let ms := ((List.range 256).map mask).dedup.filter (· ≠ 0)
  ms.map fun x => ⟨(idxs 256 fun y => mask y = x).foldl (fun b y => b ||| BitVec.twoPow 256 y) 0, x⟩

/-- The cores that receive a copy of a packet: the marked logical cores that are not down; a reserve spare is no logical core. -/
def State.copies (s : State) (p : Mcast) : List Nat := idxs 4096 fun c => p.marks c && !(s.core c).down

/-- The links of a packet's replication tree: those of the routes from the front end to every receiver, each once. -/
def State.mcastLinks (s : State) (p : Mcast) : List (Node × Node) :=
  ((s.copies p).flatMap fun c =>
    match routeOf s.stayCut .front (s.coreNode c) with
    | some ns => ns.zip ns.tail
    | none => []).dedup

/-- A packet to a set of cores reaches each of its receivers. DESIGN CHOICE: log entry 93. -/
def State.mcastPasses (s : State) (cs : BitVec 4096) : Bool :=
  s.netClear || (packetsOf cs).all fun p =>
    (s.mcastLinks p).all (fun e => s.nodeOpen e.2) && (s.copies p).all fun c => (routeOf s.stayCut .front (s.coreNode c)).isSome

end Sys2Proof.Machine
end

