-- ==== Sys2Proof/Machine/CoreOps.lean ====
section
/-! DEFINITION. What core instructions share: stops (R70 to R73), memory accesses by path (Table 2-3), the L1 caches
(R208 to R210), posted writes (R59, R61), fetch, guard, interlocks and issue (R41, R49, R52, R83, R84). -/

namespace Sys2Proof.Machine

/-! ### Results of an access -/

/-- An access or a run of accesses: done, ended by a stop cause, or waiting for another agent (a host snoop, a fill, a
held granule); a wait names the host lines it snoops, each with whether the answer frees its entry, and leaves nothing else. -/
inductive Res (α : Type) where
  | ok (s : State) (x : α)
  | fault (s : State) (cause : Nat)
  | wait (sn : List (Nat × Bool))

/-- Go on with the result of an access. -/
def Res.andThen {α β : Type} (r : Res α) (f : State → α → Res β) : Res β :=
  match r with
  | .ok s x => f s x
  | .fault s c => .fault s c
  | .wait sn => .wait sn

/-- Run an access for each element of a list, in order. -/
def resList {α β : Type} (f : State → α → Res β) (s : State) : List α → Res (List β)
  | [] => .ok s []
  | x :: xs => (f s x).andThen fun s y => (resList f s xs).andThen fun s ys => .ok s (y :: ys)

/-! ### LLC requests carried to their end -/

/-- The snoops that wait for the host: lines, and whether the answer frees the entry (R242). -/
def Llc.sent (k : Llc) : List (Nat × Bool) := k.snoops.map fun l => (l, k.frees.contains l)

/-- A request and its fill, set-written message and reply, one after the other; the answer is the bytes and whether
they are uncorrectable. A write whose line has no way of its own waits (R225). -/
def State.llcDo (s : State) (r : LlcReq) : Res (List Byte × Bool) :=
  let l := r.a / 1024
  let s1 := ({ s with llc := { s.llc with out := none } } : State).llcRequest r
  let s2 := if s1.llc.out.isNone && !(s.llc.fills.any fun f => f.line = l) then s1.fillReturn l else s1
  match s2.llc.out with
  | some x => .ok s2 x
  | none =>
    if s.llc.acks.count l < s2.llc.acks.count l && !s2.llc.splits.contains l then .ok (s2.settleWrite (r.a / 4096)) ([], false)
    else .wait s2.llc.sent

/-- Whether a word's contents are uncorrectable where it is stored (R477, R478, R495). -/
def State.wordBad (s : State) (a : Nat) : Bool :=
  s.mark (wordOf a) = .ue || s.granAt a = .poisoned && place a ≠ .nowhere ||
    (place a = .hbm && (s.chan (chanUnit a)).lost)

/-- The snoops a waiting access sends (R242). -/
def State.addSnoops (s : State) (sn : List (Nat × Bool)) : State :=
  { s with llc := { s.llc with
      snoops := s.llc.snoops ++ (sn.map (·.1)).filter fun x => !s.llc.snoops.contains x
      frees := s.llc.frees ++ ((sn.filter (·.2)).map (·.1)).filter fun x => !s.llc.frees.contains x } }

/-! ### Reads and writes by place (Table 2-3) -/

/-- An access to a tile comes over the mesh unless its own core makes it (R32, R253). -/
def overMesh (who : Who) (m : Nat) : Bool := match who with | .core d => d.val ≠ m | _ => true

/-- Where an accessor stands: a core's router, the CXL port router, or the front end (R305, R307). -/
def State.whoNode (s : State) : Who → Node
  | .core c => s.coreNode c.val
  | .host => .port 0
  | .device => .front

/-- An access to an address reaches its target and is answered; a core's access to its own tile and locker takes no router (R309, R315,
R322). -/
def State.linked (s : State) (who : Who) (a : Nat) : Bool :=
  match place a with
  | .hbm => s.reaches (s.whoNode who) (.step (s.llcSlice a / 32) (s.llcSlice a % 32))
  | .tile m _ | .locker m _ | .window m _ _ => !overMesh who m || s.reaches (s.whoNode who) (s.coreNode m)
  | .nowhere => true

/-- Read n bytes at an address that lies in one 1 KiB line, one tile or one locker; an access waits while routers on its way hold it
(R322), and an access to a tile while its bank or its halyard holds it (R249, R266, R295). -/
def State.readAt (s : State) (who : Who) (cls : Fin 5) (a n : Nat) : Res (List Byte × Bool) :=
  if !s.linked who a then .wait []
  else match place a with
  | .hbm => s.llcDo { who := who, cls := cls, a := a, op := .read n }
  | .tile m o => if s.tileOpen m o (overMesh who m) then let (s, x) := (s.openTile m o).tileRead a n; .ok s x else .wait []
  | .locker _ _ => let (s, x) := s.lockerRead a n; .ok s x
  | .window m b o => .ok s (s.windowRead m b o n, false)
  | .nowhere => .ok s (leBytes n 0, false)

/-- Write bytes at such an address. -/
def State.writeAt (s : State) (who : Who) (cls : Fin 5) (a : Nat) (bs : List Byte) : Res Unit :=
  if !s.linked who a then .wait []
  else match place a with
  | .hbm => (s.llcDo { who := who, cls := cls, a := a, op := .write bs }).andThen fun s _ => .ok s ()
  | .tile m o => if s.tileOpen m o (overMesh who m) then .ok ((s.openTile m o).tileWrite a bs) () else .wait []
  | .locker _ _ => .ok (s.lockerWrite a bs) ()
  | .window m b o => .ok (s.windowWrite m b o bs) ()
  | .nowhere => .ok s ()

/-- The rig of a region, or of the core whose tile or window an address lies in, is being re-rigged, under its old or its new binding
(R416). -/
def State.rerigging (s : State) (a : Nat) : Bool :=
  (match (match windowCore a with
      | some n => s.rigOfCore n
      | none => if place a = .hbm then s.rigOfRegion (regionOf a) else none) with
    | some r => (s.rig r).st = 2
    | none => false) ||
    (match s.adm.rerig with
     | none => false
     | some x =>
       (idxs 64 fun r => x.mask.getLsbD r).zipIdx.any fun e =>
         let ent := (x.plan.drop (64 + 640 * e.2)).take 640
         match windowCore a with
         | some n => bit (field ent 0 512) n
         | none => place a = .hbm && bit (field ent 512 48) (regionOf a))

/-! ### Stops (R70 to R73) -/

/-- A core stops: the first cause stands, it issues nothing further and drains (R72, R73). DEDUCED: log entry 20. -/
def State.stopCore (s : State) (c : Nat) (cause addr : Nat) : State :=
  let k := s.core c
  s.setCore c { k with
    stop := if k.stop.isSome then k.stop else some ⟨cause, addr⟩
    phase := if k.phase = .running ∨ k.phase = .ending then .draining else k.phase
    stall := none }

/-- The core ends with FAULT_DOWN because a posted write of it reached a core that is down or powered off (R35, R36).
DESIGN CHOICE: log entry 23. -/
def State.stopDown (s : State) (c pc : Nat) : State := s.stopCore c 0x0B pc

/-! ### L1 data cache (R208, R209) -/

/-- A line becomes the most recently used. -/
def useLine (l : Nat) (ls : List Nat) : List Nat := l :: ls.filter (· ≠ l)

/-- Allocate a line in a cache of 4 ways: the least recently used of a full set gives way. -/
def allocLine (sets l : Nat) (ls : List Nat) : List Nat × Option Nat :=
  let mine := ls.filter fun x => x % sets = l % sets ∧ x ≠ l
  if mine.length < 4 then (useLine l ls, none)
  else
    match mine.getLast? with
    | some v => (useLine l (ls.filter (· ≠ v)), some v)
    | none => (useLine l ls, none)

/-- Drop a line of the L1 data cache. -/
def Core.dropL1 (k : Core) (l : Nat) : Core :=
  { k with l1d := k.l1d.filter (· ≠ l), l1Data := clearBytes k.l1Data (256 * l) 256, l1Bad := tdel (2 * l) k.l1Bad }

/-- Drop every line that holds a byte of a range (R50, R63). -/
def Core.dropL1Range (k : Core) (a n : Nat) : Core :=
  if n = 0 then k
  else (k.l1d.filter fun l => a < 256 * l + 256 && 256 * l < a + n).foldl (fun k l => k.dropL1 l) k

/-- Drop a line of the L1 instruction cache (R209). -/
def Core.dropL1i (k : Core) (l : Nat) : Core :=
  { k with l1i := k.l1i.filter (· ≠ l), l1Bad := tdel (2 * l + 1) k.l1Bad }

/-- Drop the whole L1 data cache (R43, R63). -/
def Core.clearL1 (k : Core) : Core :=
  { k with l1d := [], l1Data := [], l1Bad := k.l1Bad.filter fun e => e.1 % 2 = 1 }

/-- Drop both L1 caches (R43, R210). -/
def Core.clearL1s (k : Core) : Core := { k.clearL1 with l1i := [], l1Bad := [] }

/-- An armed flip of an L1 cache fires on a line (R484, KINDs 5 and 6). -/
def State.flipL1 (s : State) (c kind l : Nat) : State :=
  if s.flipArmed kind c then
    match flipPositions kind s.ras.flipMask.toNat s.ras.flipTgt.toNat with
    | [] => s.flipFired
    | [_] => s.flipFired.setCore c { s.core c with l1Bad := tput (2 * l + (kind - 5)) 1 (s.core c).l1Bad }
    | [_, _] => s.flipFired.setCore c { s.core c with l1Bad := tput (2 * l + (kind - 5)) 2 (s.core c).l1Bad }
    | _ => ({ s.flipFired with free := s.free + 8 } : State).setCore c
        (if kind = 5 then { s.core c with l1Data := mwrite (s.core c).l1Data (256 * l) (s.freeBytes 8) } else s.core c)
  else s

/-- A read of an L1 line meets its error mark, if any: one bit is corrected in place, more invalidate the line; both
count as correctable (R209, R481). -/
def State.l1Check (s : State) (c kind l : Nat) : State :=
  let k := s.core c
  match tfind k.l1Bad (2 * l + (kind - 5)) with
  | none => s
  | some n =>
    let k := { k with l1Bad := tdel (2 * l + (kind - 5)) k.l1Bad }
    let k := if n ≤ 1 then k else if kind = 5 then k.dropL1 l else k.dropL1i l
    (s.setCore c k).countCe kind c (256 * l) 0

/-- The core's own posted stores laid over bytes it reads (R59). -/
def overlay (ps : List Posted) (a : Nat) (bs : List Byte) : List Byte :=
  ps.foldl (fun bs p =>
    match p.p with
    | .store b ws => (List.range bs.length).map fun i =>
        if b ≤ a + i && a + i < b + ws.length then ws.getD (a + i - b) 0 else bs.getD i 0
    | _ => bs) bs

/-- The requester a core is. -/
def whoCore (c : Nat) : Who := .core (Fin.ofNat 4096 c)

/-- Fetch a 256 B line for the L1 data cache (R208, R209): allocated with the core's own posted stores laid over it,
unless another word of it was uncorrectable; answers the n bytes at a, and whether their words were. -/
def State.l1Fetch (s : State) (c a n : Nat) : Res (List Byte × Bool) :=
  let l := a / 256
  (s.readAt (whoCore c) 1 (256 * l) 256).andThen fun s x =>
    let need := (wordsOf a n).any s.wordBad
    let line := overlay (s.core c).posted (256 * l) x.1
    let bs := (line.drop (a % 256)).take n
    if x.2 then .ok s (bs, need)
    else
      let k := s.core c
      let (ls, v) := allocLine 128 l k.l1d
      let k := match v with | some v => k.dropL1 v | none => k
      .ok ((s.setCore c { k with l1d := ls, l1Data := mwrite k.l1Data (256 * l) line }).flipL1 c 5 l) (bs, false)

/-- A cached load (R208): hit, or fetch. -/
def State.l1Load (s : State) (c a n : Nat) : Res (List Byte × Bool) :=
  let s := s.l1Check c 5 (a / 256)
  let k := s.core c
  if k.l1d.contains (a / 256) then
    .ok (s.setCore c { k with l1d := useLine (a / 256) k.l1d }) (mread k.l1Data a n, false)
  else s.l1Fetch c a n

/-- A store that hits updates the line (R208). -/
def State.l1Store (s : State) (c a : Nat) (bs : List Byte) : State :=
  let k := s.core c
  if k.l1d.contains (a / 256) then
    (s.setCore c { k with l1d := useLine (a / 256) k.l1d, l1Data := mwrite k.l1Data a bs }).flipL1 c 5 (a / 256)
  else s

/-! ### Posted writes (R40, R59, R61, R65) -/

/-- Where a request of a core goes: the core whose range it names, or the LLC slice of an HBM address (R310). -/
def State.destOf (s : State) (a : Nat) : Nat := match coreAt a with | some n => n | none => 4096 + s.llcSlice a

/-- The destination of a posted write; the front end for an event. -/
def State.postDest (s : State) : Post → Nat
  | .store a _ => s.destOf a
  | .orTo t _ => t
  | .event _ => 8192

/-- A posted store is performed at its point of coherence; one that finds its target down or powered off is discarded and
ends its command with FAULT_DOWN (R35, R36). DESIGN CHOICE: log entry 23. -/
def State.performStore (s : State) (c pc a : Nat) (bs : List Byte) : Res Unit :=
  if s.refusedAt c a then .ok (s.stopDown c pc) () else s.writeAt (whoCore c) 1 a bs

/-- The OR of a SIGNAL reaches its target (R65, R66, R584); the event form sets the rig's cause bits (R548). -/
def State.signalArrive (s : State) (c : Nat) : Post → State
  | .store _ _ => s
  | .orTo t v =>
    let a := lockerAddr t signalOff
    if s.refusedAt c a then s
    else
      match s.meet a with
      | (s, true) => s
      | (s, false) => s.lockerWrite a (leBytes 8 ((BitVec.ofNat 64 (leNat (mread s.mem a 8))) ||| v).toNat)
  | .event v =>
    match s.rigOfCore c with
    | some r => s.rigCause r (BitVec.ofNat 16 (16 * (v.toNat % 2 ^ 12)))
    | none => s

/-- Whether a posted entry is a store. -/
def Posted.isStore (p : Posted) : Bool := match p.p with | .store _ _ => true | _ => false

/-- A signal of a core reaches its target's router: the router of the core it names, or the front end's for an event (R309, R322). -/
def State.postPasses (s : State) (c : Nat) : Post → Bool
  | .orTo t _ => c = t || s.passes (s.coreNode c) (s.coreNode t)
  | .event _ => s.passes (s.coreNode c) .front
  | _ => true

/-- A posted write reaches its target and is performed there, once. -/
def State.performPost (s : State) (c : Nat) (p : Posted) : Res Unit :=
  match p.p with
  | .store a bs => s.performStore c p.pc a bs
  | q => if p.done then .ok s () else if s.postPasses c q then .ok (s.signalArrive c q) () else .wait []

/-- Perform the posted writes of a list, in order. -/
def State.performPosts (s : State) (c : Nat) : List Posted → Res Unit
  | [] => .ok s ()
  | p :: ps => (s.performPost c p).andThen fun s _ => s.performPosts c ps

/-- The posted writes that satisfy a test are performed, in order, and are outstanding no longer. -/
def State.flush (s : State) (c : Nat) (f : Posted → Bool) : Res Unit :=
  (s.performPosts c ((s.core c).posted.filter f)).andThen fun s _ =>
    .ok (s.setCore c { s.core c with posted := (s.core c).posted.filter fun p => !f p }) ()

/-- Writes placed ahead of an operation are performed before it (R61). DESIGN CHOICE: log entry 23. -/
def State.flushPlaced (s : State) (c : Nat) : Res Unit := s.flush c (·.placed)

/-- The posted writes for one destination are performed before a later access of the core there (R59, R206). -/
def State.flushDest (s : State) (c d : Nat) : Res Unit := s.flush c fun p => s.postDest p.p = d

/-- The posted writes, by place in the list, that satisfy a test and have none before them for their destination that is not yet
performed: those that may reach their target next (R310). DESIGN CHOICE: log entry 23. -/
def State.readyPosts (s : State) (c : Nat) (f : Posted → Bool) : List Nat :=
  let ps := (s.core c).posted
  (List.range ps.length).filter fun i =>
    match ps[i]? with
    | some p => f p && (ps.take i).all fun q => q.done || s.postDest q.p ≠ s.postDest p.p
    | none => false

/-- One of the posted writes that may be next; which one, among several, nothing orders (R310). DESIGN CHOICE: log entry 23. -/
def State.nextPost (s : State) (c : Nat) (f : Posted → Bool) : Option Nat :=
  let is := s.readyPosts c f
  if is.length ≤ 1 then is.head? else is[(Config.freeWord s.free).toNat % is.length]?

/-- Requests of a core that are outstanding: its posted writes, those of its engine operations that wait for another agent, and that
of its stalled instruction (R55). -/
def Core.outstanding (k : Core) : Nat :=
  k.posted.length + (k.run.filter (·.waits)).length + b2n (k.stall.isSome && k.stallReq)

/-- Room for one more outstanding memory request (R55). -/
def Core.room (k : Core) : Bool := k.outstanding < 256

/-- FENCE.R has nothing to wait for: no store outstanding and every engine operation complete (R62). -/
def Core.releasable (k : Core) : Bool := k.tok == 0 && k.posted.all fun p => !p.isStore

/-! ### Fetch (R45, R70, R92, R209, R210) -/

/-- The line of an instruction word is fetched through the L1 instruction cache (R45, R209, R210): it answers a stop cause, 0 when
there is no room for the fill (R55), or none. DEDUCED: log entry 18. -/
def State.fetchLine (s : State) (c a : Nat) : Res (Option Nat) :=
  if 2 ^ 48 ≤ a || place a ≠ .hbm || (s.rigOfRegion (regionOf a)).isNone || s.rigOfRegion (regionOf a) ≠ s.rigOfCore c then
    .ok s (some 3)
  else
    let s := s.l1Check c 6 (a / 256)
    let k := s.core c
    if k.l1i.contains (a / 256) then .ok (s.setCore c { k with l1i := useLine (a / 256) k.l1i }) none
    else if !k.room && !(k.stall.isSome && k.stallReq) then .ok s (some 0)
    else
      (s.readAt (whoCore c) 3 (a / 256 * 256) 256).andThen fun s x =>
        if x.2 then .ok s (if s.wordBad a then some 2 else none)
        else
          let k := s.core c
          let (ls, v) := allocLine 64 (a / 256) k.l1i
          let k := match v with | some v => k.dropL1i v | none => k
          .ok ((s.setCore c { k with l1i := ls }).flipL1 c 6 (a / 256)) none

/-! ### Issue -/

/-- The GUARD field permits execution (R84). -/
def Core.guardOk (k : Core) (g : BitVec 5) : Bool := !g.getLsbD 4 || (k.rp (bits g.toNat 2 0) != g.getLsbD 3)

/-- An instruction leaves issue: the PC passes it and its issue cycles count (R40, R78, R81). -/
def State.advance (s : State) (c : Nat) (long : Bool) : State :=
  let k := s.core c
  s.setCore c { k with pc := k.pc + (if long then 16 else 8), cyc := k.cyc + (if long then 2 else 1), stall := none }

/-- Issue goes to a branch target (R98). -/
def State.jump (s : State) (c : Nat) (long : Bool) (target : BitVec 64) : State :=
  let k := s.core c
  s.setCore c { k with pc := target &&& ~~~7, cyc := k.cyc + (if long then 2 else 1), stall := none }

/-- Issue stalls on an instruction; `req` says that a request of it is outstanding (R55). -/
def State.stallFor (s : State) (c : Nat) (i : Instr) (req : Bool) : State :=
  s.setCore c { s.core c with stall := some i, stallReq := req }
/-- Issue stalls on an instruction that has no request outstanding. -/
def State.stallOn (s : State) (c : Nat) (i : Instr) : State := s.stallFor c i false
/-- Issue stalls on an instruction whose request waits for another agent. -/
def State.stallWait (s : State) (c : Nat) (i : Instr) (sn : List (Nat × Bool)) : State := (s.addSnoops sn).stallFor c i true

/-- Go on with a fetched word: a wait stalls issue, as does a fill for which there is no room (0); a failed fetch stops the core
(R55, R70, R92). -/
def State.afterFetch (s : State) (c : Nat) (i : Instr) (r : Res (Option Nat)) (f : State → State) : State :=
  match r with
  | .wait sn => s.stallWait c i sn
  | .fault s e => s.stopCore c e (s.core c).pc.toNat
  | .ok s (some 0) => s.stallOn c i
  | .ok s (some e) => s.stopCore c e (s.core c).pc.toNat
  | .ok s none => f s

/-- Issue an instruction on a core (R41, R83, R84): nothing happens unless the core runs with its clock and its issue is free
or stalled on this very instruction. Fetch of its word; decode checks (cause 0x01); guard; fetch of the literal of a long form;
then `act`, which answers false to stall. DEDUCED: log entry 18. -/
def State.issue (s : State) (c : Nat) (i : Instr) (long bad : Bool) (g : BitVec 5) (act : State → State × Bool) : State :=
  let k := s.core c
  if k.phase ≠ .running || k.down || !s.clocked c || (k.stall.isSome && k.stall ≠ some i) || k.atBar.isSome then s
  else
    s.afterFetch c i (s.fetchLine c k.pc.toNat) fun s =>
      if bad then s.stopCore c 1 k.pc.toNat
      else if !k.guardOk g then s.advance c long
      else
        s.afterFetch c i (if long then s.fetchLine c (k.pc.toNat + 8) else .ok s none) fun s =>
          let (s, issued) := act s
          if issued then s else s.stallOn c i

/-! ### Pending operations and interlocks (R49, R52) -/

/-- The operations of a core that have issued and not completed. -/
def Core.ops (k : Core) : List Op := k.q ++ k.run

/-- Whether an engine completes its operations in issue order (Table 2-1). -/
def inOrder : Eng → Bool
  | .dma => false | .hal => false | _ => true

/-- Queue depth of an engine (Table 2-1). -/
def qDepth : Eng → Nat
  | .dma => 16 | .hal => 16 | .sel => 4 | _ => 8

/-- Token k is pending. -/
def Core.pendingTok (k : Core) (t : Nat) : Bool := k.tok.getLsbD t

end Sys2Proof.Machine
end

