-- ==== Sys2Proof/Machine/RedOps.lean ====
section
/-! DEFINITION. Reductions carried to their end for the engine that sends them (R234 to R239). -/

namespace Sys2Proof.Machine

/-- A reduction carried to its end: request, fill, application or forwarding; the answer is whether the destination
was uncorrectable. -/
def State.redDo (s : State) (q : LlcReq) : Res Bool :=
  let l := q.a / 1024
  let s1 := ({ s with llc := { s.llc with out := none } } : State).llcRequest q
  let s2 := if !(s.llc.fills.any fun f => f.line = l) then s1.fillReturn l else s1
  let bad (t : State) : Bool := match t.llc.out with | some x => x.2 | none => false
  if s.llc.reds.length < s2.llc.reds.length then
    let t := s2.each (List.range (s2.llc.reds.filter fun e => e.1 = l).length) fun s _ => s.reductionApply l
    if t.llc.splits.contains l then .wait [] else .ok (t.settleWrite (q.a / 4096)) (bad t)
  else if s.llc.fwd.length < s2.llc.fwd.length then
    .ok (s2.forwardAck l) (bad (s2.each (List.range (s2.llc.fwd.filter fun e => e.1 = l).length) fun s _ => s.forwardApply l))
  else .wait s2.llc.sent

end Sys2Proof.Machine
end

