-- ==== Sys2Proof/Machine/Regs52.lean ====
section
/-! DEFINITION. Which vector registers and accumulator banks an engine instruction reads or writes, and the interlock
of R52. -/

namespace Sys2Proof.Machine

/-- Registers of a two-operand VOP. -/
def vRegs2 (f : FmtV) : List Nat := [f.vd.toNat, f.vs1.toNat]
/-- Registers of a three-operand VOP. -/
def vRegs3 (f : FmtV) : List Nat := [f.vd.toNat, f.vs1.toNat, f.vs2.toNat]

/-- Vector registers an instruction reads or writes (Tables 3-10 and 3-11, R108). -/
def instrVregs : Instr → List Nat
  | .accRd _ f => if f.x20.getLsbD 0 then [] else (List.range 16).map (· + f.rb.toNat)
  | .vopLd _ f => [f.vd.toNat]
  | .vopSt _ f => [f.vd.toNat]
  | .vopMov _ f => vRegs2 f
  | .vopBcast _ f => vRegs2 f
  | .vopAdd _ f => vRegs3 f
  | .vopSub _ f => vRegs3 f
  | .vopMul _ f => vRegs3 f
  | .vopFma _ f => vRegs3 f ++ [f.vs3.toNat]
  | .vopMax _ f => vRegs3 f
  | .vopMin _ f => vRegs3 f
  | .vopAbs _ f => vRegs2 f
  | .vopNeg _ f => vRegs2 f
  | .vopAnd _ f => vRegs3 f
  | .vopOr _ f => vRegs3 f
  | .vopXor _ f => vRegs3 f
  | .vopShl _ f => vRegs3 f
  | .vopShr _ f => vRegs3 f
  | .vopCvt _ f => if bits f.x10.toNat 1 0 = 1 then vRegs3 f else vRegs2 f
  | .vopRsum _ f => vRegs2 f
  | .vopRmax _ f => vRegs2 f
  | .vopPerm _ f => vRegs3 f
  | .sfuTanh _ f => vRegs2 f
  | .sfuSig _ f => vRegs2 f
  | .sfuExp2 _ f => vRegs2 f
  | .sfuRsq _ f => vRegs2 f
  | .sfuRcp _ f => vRegs2 f
  | _ => []

/-- Accumulator banks an instruction reads or writes; MMA.T may write every bank from its own on (R134). -/
def instrBanks : Instr → List Nat
  | .mma _ f => [bits f.ra.toNat 1 0]
  | .mmaT _ f => (List.range 4).filter fun n => bits f.ra.toNat 1 0 ≤ n
  | .accClr _ f => [bits f.ra.toNat 1 0]
  | .accRd _ f => [bits f.ra.toNat 1 0]
  | _ => []

/-- Two operations are ordered by one in-order engine, or by one DMA channel (R52). -/
def sameOrder (e : Option Eng) (ch : Nat) (o : Op) : Bool :=
  match e with
  | none => false
  | some e => o.eng == e && (inOrder e || (e == .dma && o.ch == ch))

/-- A pending operation of another engine uses one of these vector registers (R52). -/
def Core.vBusy (k : Core) (e : Option Eng) (rs : List Nat) : Bool :=
  k.ops.any fun o => !sameOrder e 0 o && (instrVregs o.i).any rs.contains

/-- A pending operation of another engine uses one of these accumulator banks (R52). -/
def Core.aBusy (k : Core) (e : Option Eng) (bs : List Nat) : Bool :=
  k.ops.any fun o => !sameOrder e 0 o && (instrBanks o.i).any bs.contains

end Sys2Proof.Machine
end

