-- ==== Sys2Proof/Machine/Engine.lean ====
section
/-! DEFINITION. Engine operations: their issue (R41, R49, R52, R53, R85, R90), and the reading and writing of
elements with the faults of R72, R91. -/

namespace Sys2Proof.Machine

/-! ### Issue -/

/-- An engine operation as issued: copies of descriptors and scalars (R53, R85). -/
def mkOp (k : Core) (i : Instr) (e : Eng) (t ch da db dc ra rb : Nat) : Op :=
  { i := i, eng := e, tok := t, ch := ch, pc := k.pc.toNat, ra := k.rg ra, rb := k.rg rb
    da := k.rd da, da1 := k.rd (da + 1), db := k.rd db, db1 := k.rd (db + 1), dc := k.rd dc }

/-- The engine's queue is full (R41). -/
def Core.qFull (k : Core) (e : Eng) : Bool := qDepth e ≤ (k.q.filter fun o => o.eng == e).length

/-- Queue an operation: its token becomes pending (R49). -/
def Core.push (k : Core) (o : Op) : Core := { k with q := k.q ++ [o], tok := k.tok ||| BitVec.twoPow 64 o.tok }

/-- Issue of an engine instruction past its decode checks: token, queue space and interlocks stall; a failed check of
its operands stops with cause 0x08; else the operation is queued and the records that change at issue change. -/
def State.pushOp (s : State) (c : Nat) (o : Op) (ok : Bool) (upd : Core → Core) : State × Bool :=
  let k := s.core c
  if k.pendingTok o.tok || k.qFull o.eng || k.vBusy (some o.eng) (instrVregs o.i) || k.aBusy (some o.eng) (instrBanks o.i)
  then (s, false)
  else if !ok then (s.stopCore c 8 k.pc.toNat, true)
  else ((s.setCore c (upd (k.push o))).advance c false, true)

/-- Issue an instruction of format E. -/
def State.issueE (s : State) (c : CoreId) (i : Instr) (e : Eng) (f : FmtE) (bad : Bool) (ok : Core → Bool)
    (upd : Core → Core) : State :=
  s.issue c i false (f.l || (e != .dma && f.ch != 0) || bad) f.guard fun s =>
    let k := s.core c
    s.pushOp c (mkOp k i e f.k.toNat f.ch.toNat f.da.toNat f.db.toNat f.dc.toNat f.ra.toNat f.rb.toNat) (ok k) upd

/-- Issue an instruction of format V. -/
def State.issueV (s : State) (c : CoreId) (i : Instr) (e : Eng) (f : FmtV) (bad : Bool) (ok : Core → Bool) : State :=
  s.issue c i false (f.l || bad) f.guard fun s =>
    let k := s.core c
    s.pushOp c (mkOp k i e f.k.toNat 0 f.da.toNat 0 0 0 0) (ok k) id

/-- The check of descriptor n of a core for accepted formats (R90). -/
def Core.dOk (k : Core) (c n : Nat) (fmts : List Nat) : Bool := descOk c n (k.rd n) (k.rd (n + 1)) fmts

/-! ### Elements -/

/-- Where an operand may lie: anywhere the rig allows, the own locker, the own tile, HBM, or locker or HBM. -/
inductive Side where
  | any | locker | tile | hbm | lockerHbm
deriving DecidableEq, Repr

/-- An address lies on a side (R102, R107, R173, R179). -/
def Side.has (d : Side) (c a : Nat) : Bool :=
  match d, place a with
  | .any, _ => true
  | .locker, .locker n _ => n == c
  | .tile, .tile n _ => n == c
  | .hbm, .hbm => true
  | .lockerHbm, .hbm => true
  | .lockerHbm, .locker n _ => n == c
  | _, _ => false

/-- The bytes of an element are addressable (R37, R91). -/
def State.elemOk (s : State) (c : Nat) (d : Side) (e : Elem) : Bool :=
  0 ≤ e.a && e.a + e.len ≤ 2 ^ 48 &&
    (List.range e.len).all fun i => s.mayAddr c (e.a.toNat + i) && d.has c (e.a.toNat + i)

/-- The cause when the bytes of an element are not addressable: 0x0B where only a down core stands in the way (R35). -/
def State.elemCause (s : State) (c : Nat) (d : Side) (e : Elem) : Nat :=
  if 0 ≤ e.a && e.a + e.len ≤ 2 ^ 48 && (List.range e.len).all fun i => s.ownAddr c (e.a.toNat + i) && d.has c (e.a.toNat + i)
  then 0x0B else 5

/-- Value of an element's bits within its bytes. -/
def Elem.get (e : Elem) (bs : List Byte) : Nat := bits (leNat bs) (e.bit + e.w - 1) e.bit

/-- The bytes with an element's bits replaced. -/
def Elem.put (e : Elem) (bs : List Byte) (v : Nat) : List Byte :=
  leBytes bs.length (setBits (leNat bs) (e.bit + e.w - 1) e.bit v)

/-- The pieces of an access that each lie in one 1 KiB line (R55). -/
def pieces (a n : Nat) : List (Nat × Nat) :=
  if n = 0 then [] else
    (List.range ((a + n - 1) / 1024 - a / 1024 + 1)).map fun i =>
      let lo := max a ((a / 1024 + i) * 1024)
      (lo, min (a + n) ((a / 1024 + i + 1) * 1024) - lo)

/-- Read bytes piece by piece. -/
def State.readPieces (s : State) (c : Nat) (cls : Fin 5) (a n : Nat) : Res (List Byte × Bool) :=
  (resList (fun s p => s.readAt (whoCore c) cls p.1 p.2) s (pieces a n)).andThen fun s xs =>
    .ok s ((xs.map (·.1)).flatten, xs.any (·.2))

/-- Write bytes piece by piece, dropping the core's own L1 lines (R50). -/
def State.writePieces (s : State) (c : Nat) (cls : Fin 5) (a : Nat) (bs : List Byte) : Res Unit :=
  (resList (fun s p => s.writeAt (whoCore c) cls p.1 ((bs.drop (p.1 - a)).take p.2)) s (pieces a bs.length)).andThen
    fun s _ => .ok (s.setCore c ((s.core c).dropL1Range a bs.length)) ()

/-- The bytes stored at an address of one place: those of a window stand in its bank's unit (R277), all others in memory. -/
def State.stored (s : State) (a n : Nat) : List Byte :=
  match place a with | .window m b o => s.windowRead m b o n | _ => mread s.mem a n

/-- An operation performs one more element, unless its core's budget of elements is spent (R331). DESIGN CHOICE: log entry 82. -/
def State.spend (s : State) (c : Nat) : Option State :=
  match (s.core c).budget with
  | none => some s
  | some 0 => none
  | some (n + 1) => some (s.setCore c { s.core c with budget := some n })

/-- Go on while the budget of elements lasts; the cause 0x0D says that it is spent (R331). -/
def State.spending {α : Type} (s : State) (c : Nat) (f : State → Res α) : Res α :=
  match s.spend c with | none => .fault s 0x0D | some s => f s

/-- Read an element: address fault 0x05, uncorrectable word the given cause. -/
def State.readElem (s : State) (c : Nat) (d : Side) (cls : Fin 5) (cause : Nat) (e : Elem) : Res Nat :=
  s.spending c fun s =>
    if !s.elemOk c d e then .fault s (s.elemCause c d e)
    else (s.readPieces c cls e.a.toNat e.len).andThen fun s x => if x.2 then .fault s cause else .ok s (e.get x.1)

/-- Write an element; one smaller than its bytes keeps their other bits (R87). -/
def State.writeElem (s : State) (c : Nat) (d : Side) (cls : Fin 5) (e : Elem) (v : Nat) : Res Unit :=
  s.spending c fun s =>
    if !s.elemOk c d e then .fault s (s.elemCause c d e)
    else
      let bs := if e.bit = 0 ∧ e.w % 8 = 0 then leBytes e.len v else e.put (s.stored e.a.toNat e.len) v
      s.writePieces c cls e.a.toNat bs

/-- Copy elements pairwise, one by one, in order. -/
def State.copyEach (s : State) (c : Nat) (ds dd : Side) (cause : Nat) : List (Elem × Elem) → Res Unit
  | [] => .ok s ()
  | (x, y) :: t =>
    (s.readElem c ds 0 cause x).andThen fun s v =>
      (s.writeElem c dd 0 y v).andThen fun s _ => s.copyEach c ds dd cause t

/-- Read elements in order. -/
def State.readElems (s : State) (c : Nat) (d : Side) (cause : Nat) (es : List Elem) : Res (List Nat) :=
  resList (fun s e => s.readElem c d 0 cause e) s es

/-- Read elements in order up to the first that faults: the values read, and the fault's cause, if any (R72). -/
def State.readTo (s : State) (c : Nat) (d : Side) (cause : Nat) : List Elem → Res (List Nat × Option Nat)
  | [] => .ok s ([], none)
  | e :: es =>
    match s.readElem c d 0 cause e with
    | .ok s v => (s.readTo c d cause es).andThen fun s x => .ok s (v :: x.1, x.2)
    | .fault s k => .ok s ([], some k)
    | .wait sn => .wait sn

/-! ### Runs: neighbouring elements that one request carries (R55, R217, R231) -/

/-- One element ends where the next begins, and both lie in one 1 KiB line. -/
def Elem.joins (x y : Elem) : Bool :=
  8 * x.a + x.bit + x.w == 8 * y.a + y.bit && x.a / 1024 == (y.a + y.len - 1) / 1024

/-- Cut a list where two neighbours do not belong together. -/
def runsBy {α : Type} (p : α → α → Bool) : List α → List (List α)
  | [] => []
  | x :: xs =>
    match runsBy p xs with
    | (y :: g) :: gs => if p x y then (x :: y :: g) :: gs else [x] :: (y :: g) :: gs
    | gs => [x] :: gs

/-- First address of a run. -/
def runBase (es : List Elem) : Nat := (es.headD ⟨0, 0, 0⟩).a.toNat
/-- Bytes of a run. -/
def runLen (es : List Elem) : Nat :=
  match es.getLast? with | some e => e.a.toNat + e.len - runBase es | none => 0

/-- A run may go as one request: no budget ends it part-way, and all of it may be addressed. -/
def State.runOk (s : State) (c : Nat) (d : Side) (es : List Elem) : Bool :=
  (s.core c).budget.isNone && es.all (s.elemOk c d)

/-- Read a run as one request: its values, and whether a word of it was uncorrectable. DESIGN CHOICE: log entry 98. -/
def State.readRun (s : State) (c : Nat) (cls : Fin 5) (es : List Elem) : Res (List Nat × Bool) :=
  (s.readPieces c cls (runBase es) (runLen es)).andThen fun s x =>
    .ok s (es.map fun e => e.get ((x.1.drop (e.a.toNat - runBase es)).take e.len), x.2)

/-- Write a run as one request; bits of its bytes that no element covers stay (R87). DESIGN CHOICE: log entry 98. -/
def State.writeRun (s : State) (c : Nat) (cls : Fin 5) (es : List (Elem × Nat)) : Res Unit :=
  let a := runBase (es.map (·.1))
  let n := runLen (es.map (·.1))
  let bs := if es.all fun e => e.1.bit == 0 && e.1.w % 8 == 0 then es.flatMap fun e => leBytes e.1.len e.2
    else leBytes n (es.foldl (fun v e =>
      let o := 8 * (e.1.a.toNat - a) + e.1.bit
      setBits v (o + e.1.w - 1) o e.2) (leNat (s.stored a n)))
  s.writePieces c cls a bs

/-- Read elements run by run up to the first that faults: the values read, and the fault's cause, if any (R72). A run with a word in
error is read element by element. -/
def State.readRuns (s : State) (c : Nat) (d : Side) (cause : Nat) : List (List Elem) → Res (List Nat × Option Nat)
  | [] => .ok s ([], none)
  | g :: gs =>
    let each : Res (List Nat × Option Nat) := s.readTo c d cause g
    let r := if s.runOk c d g then
        (match s.readRun c 0 g with
          | .ok t (vs, false) => .ok t (vs, none)
          | .ok _ (_, true) => each
          | .fault _ _ => each
          | .wait sn => .wait sn)
      else each
    r.andThen fun s x =>
      if x.2.isSome then .ok s x else (s.readRuns c d cause gs).andThen fun s y => .ok s (x.1 ++ y.1, y.2)

/-- Read elements in order, one request for each run of neighbours. -/
def State.readFrom (s : State) (c : Nat) (d : Side) (cause : Nat) (es : List Elem) : Res (List Nat × Option Nat) :=
  s.readRuns c d cause (runsBy Elem.joins es)

/-- Two runs have no byte in common. -/
def apart (xs ys : List Elem) : Bool :=
  runBase xs + runLen xs ≤ runBase ys || runBase ys + runLen ys ≤ runBase xs

/-- Copy runs of pairs in order: a run as one read and one write where neither a fault nor an overlap can show its elements, else
element by element. -/
def State.copyRuns (s : State) (c : Nat) (ds dd : Side) (cause : Nat) : List (List (Elem × Elem)) → Res Unit
  | [] => .ok s ()
  | g :: gs =>
    let xs := g.map (·.1)
    let ys := g.map (·.2)
    let each : Res Unit := s.copyEach c ds dd cause g
    let r := if s.runOk c ds xs && s.runOk c dd ys && apart xs ys then
        (match s.readRun c 0 xs with
          | .ok t (vs, false) => t.writeRun c 0 (List.zip ys vs)
          | .ok _ (_, true) => each
          | .fault _ _ => each
          | .wait sn => .wait sn)
      else each
    r.andThen fun s _ => s.copyRuns c ds dd cause gs

/-- Copy elements pairwise, in order, one request for each run of neighbours at either end. -/
def State.copyElems (s : State) (c : Nat) (ds dd : Side) (cause : Nat) (ps : List (Elem × Elem)) : Res Unit :=
  s.copyRuns c ds dd cause (runsBy (fun p q => p.1.joins q.1 && p.2.joins q.2) ps)

/-- End with a fault, if there is one. -/
def State.orFault (s : State) (e : Option Nat) : Res Unit := match e with | some k => .fault s k | none => .ok s ()

/-- Write elements in order. -/
def State.writeElems (s : State) (c : Nat) (d : Side) : List (Elem × Nat) → Res Unit
  | [] => .ok s ()
  | (e, v) :: t => (s.writeElem c d 0 e v).andThen fun s _ => s.writeElems c d t

/-- All elements of a descriptor in linear order (R87). -/
def Desc.elems (d : Desc) : List Elem := (List.range d.count).map d.el

end Sys2Proof.Machine
end

