-- ==== Sys2Proof/Machine/Hash.lean ====
section
/-! DEFINITION. SHA-384 and HMAC-SHA-384, which R411, R529, R533 and R534 name and FIPS 180-4 and RFC 2104 define
(PRESUMED, log entry 14). -/

namespace Sys2Proof.Machine

/-! The constants of FIPS 180-4 are computed from what they are: leading fractional bits of roots of primes. -/

/-- The greatest number below 2^n, at or above r, whose power e is at most v. -/
def rootFrom (e v : Nat) : Nat → Nat → Nat
  | 0, r => r
  | n + 1, r => if (r + 2 ^ n) ^ e ≤ v then rootFrom e v n (r + 2 ^ n) else rootFrom e v n r

/-- The first 64 fractional bits of the e-th root of p. -/
def rootBits (e p : Nat) : BitVec 64 := BitVec.ofNat 64 (rootFrom e (p * 2 ^ (64 * e)) 70 0)

/-- The primes below 410, which has 80 of them; a composite number below has a factor below 21. -/
def shaPrimes : List Nat := (List.range 410).filter fun p => decide (2 ≤ p) && (List.range 21).all fun d => d < 2 || d = p || p % d ≠ 0

/-- The words a block goes through: constants are the cube roots of the first 80 primes. -/
def shaConsts : List (BitVec 64) := shaPrimes.map (rootBits 3)

/-- The chaining value SHA-384 begins with: the square roots of the ninth to sixteenth primes. -/
def shaStart : List (BitVec 64) := ((shaPrimes.drop 8).take 8).map (rootBits 2)

/-- The exclusive or of three rotations. -/
def mix3 (x : BitVec 64) (a b c : Nat) : BitVec 64 := x.rotateRight a ^^^ x.rotateRight b ^^^ x.rotateRight c

/-- The two rotations and the shift of the schedule. -/
def mixShift (x : BitVec 64) (a b c : Nat) : BitVec 64 := x.rotateRight a ^^^ x.rotateRight b ^^^ (x >>> c)

/-- n more words of the schedule before those given, newest first. -/
def shaExpand : Nat → List (BitVec 64) → List (BitVec 64)
  | 0, w => w
  | n + 1, w => shaExpand n ((mixShift (w.getD 1 0) 19 61 6 + w.getD 6 0 + mixShift (w.getD 14 0) 1 8 7 + w.getD 15 0) :: w)

/-- The eight working variables of a round. -/
structure ShaVars where
  a : BitVec 64
  b : BitVec 64
  c : BitVec 64
  d : BitVec 64
  e : BitVec 64
  f : BitVec 64
  g : BitVec 64
  h : BitVec 64
deriving DecidableEq, Repr

/-- One round with its constant and schedule word added up. -/
def ShaVars.turn (v : ShaVars) (kw : BitVec 64) : ShaVars :=
  let choose := v.g ^^^ (v.e &&& (v.f ^^^ v.g))
  let most := (v.a &&& v.b) ||| (v.c &&& (v.a ||| v.b))
  let t := v.h + mix3 v.e 14 18 41 + choose + kw
  ⟨t + mix3 v.a 28 34 39 + most, v.a, v.b, v.c, v.d + t, v.e, v.f, v.g⟩

/-- The variables of a chaining value. -/
def ShaVars.ofList (l : List (BitVec 64)) : ShaVars :=
  ⟨l.getD 0 0, l.getD 1 0, l.getD 2 0, l.getD 3 0, l.getD 4 0, l.getD 5 0, l.getD 6 0, l.getD 7 0⟩
/-- The chaining value of variables. -/
def ShaVars.toList (v : ShaVars) : List (BitVec 64) := [v.a, v.b, v.c, v.d, v.e, v.f, v.g, v.h]

/-- A number from big-endian bytes. -/
def beNat (bs : List Byte) : Nat := leNat bs.reverse
/-- The n big-endian bytes of a number. -/
def beBytes (n v : Nat) : List Byte := (leBytes n v).reverse

/-- One block of 128 bytes. -/
def shaBlock (ks h : List (BitVec 64)) (b : List Byte) : List (BitVec 64) :=
  let w := ((List.range 16).map fun i => BitVec.ofNat 64 (beNat ((b.drop (8 * i)).take 8))).reverse
  let v := (List.zipWith (· + ·) ks (shaExpand 64 w).reverse).foldl ShaVars.turn (ShaVars.ofList h)
  List.zipWith (· + ·) h v.toList

/-- SHA-384 of a message. PRESUMED: log entry 14. -/
def sha384 (m : List Byte) : List Byte :=
  let l := m.length
  let pad := m ++ 0x80 :: List.replicate ((239 - l % 128) % 128) 0 ++ beBytes 16 (8 * l)
  let h := (List.range (pad.length / 128)).foldl (fun h i => shaBlock shaConsts h ((pad.drop (128 * i)).take 128)) shaStart
  (h.flatMap fun x => beBytes 8 x.toNat).take 48

/-- HMAC-SHA-384 under a key of at most 128 bytes. PRESUMED: log entry 14. -/
def hmac384 (key m : List Byte) : List Byte :=
  let k := key ++ List.replicate (128 - key.length) 0
  sha384 (k.map (· ^^^ 0x5C) ++ sha384 (k.map (· ^^^ 0x36) ++ m))

/-- HKDF-Expand with SHA-384 to at most 48 bytes: the first block, over the info and a byte of one (R533). -/
def hkdf384 (prk info : List Byte) (n : Nat) : List Byte := (hmac384 prk (info ++ [1])).take n

end Sys2Proof.Machine
end

