-- ==== Sys2Proof/Machine/Device.lean ====
section
/-! DEFINITION. Operations that several families share: yards, ports and other parts of the state; fault intervals (R332 to
R334); the front end's stops and reports (R70, R73 to R78); marking a core down (R24, R76, R304, R496); the mapping of
a yard (R22 to R24). -/

namespace Sys2Proof.Machine

/-! ### Parts of the state -/

/-- A stream. -/
def State.strm (s : State) (n : Nat) : Strm := tget {} s.strms n
/-- Replace a stream. -/
def State.setStrm (s : State) (n : Nat) (k : Strm) : State := { s with strms := tset {} s.strms n k }
/-- A Pahus port. -/
def State.port (s : State) (p : Nat) : Port := tget {} s.casc.ports p
/-- Replace a Pahus port. -/
def State.setPort (s : State) (p : Nat) (k : Port) : State :=
  { s with casc := { s.casc with ports := tset {} s.casc.ports p k } }
/-- Replace a loop-back interface. -/
def State.setLoop (s : State) (i : Nat) (k : Loop) : State := { s with loops := tset {} s.loops i k }
/-- A vertical path. -/
def State.path (s : State) (i : Nat) : Path := tget {} s.pwr.paths i
/-- Replace a vertical path. -/
def State.setPath (s : State) (i : Nat) (k : Path) : State :=
  { s with pwr := { s.pwr with paths := tset {} s.pwr.paths i k } }
/-- Replace the admission unit. -/
def State.setAdm (s : State) (a : Adm) : State := { s with adm := a }

/-- Bus converters working. -/
def Pwr.converters (p : Pwr) : Nat := popcount p.conv.toNat

/-- The mast of a logical core (R14). -/
def mastOf (c : Nat) : Nat := c / 1024
/-- The mast of a yard. -/
def yardMast (y : Nat) : Nat := y / 64

/-- Raise a source of the per-yard group: 0 DOWN, 1 THERMAL, 2 REGULATOR, 3 TELLTALE (Table 21-1). -/
def State.yardEvent (s : State) (y k : Nat) : State := s.raiseSrc (1024 + 4 * y + k)

/-! ### The availability map (R516) -/

/-- The availability map changes (R516). DEDUCED: log entry 38. -/
def State.bumpGen (s : State) : State := { s with boot := { s.boot with gen := s.boot.gen + 1 } }

/-! ### Which rigs (Table 12-2) -/

/-- A rig holds a core of a mast. -/
def Rig.inMast (r : Rig) (m : Nat) : Bool := r.cores.extractLsb' (1024 * m) 1024 != 0
/-- A rig holds a core of a yard. -/
def Rig.inYard (r : Rig) (y : Nat) : Bool := r.cores.extractLsb' (16 * y) 16 != 0
/-- The regions homed on a mast (R30). -/
def homedOn (m : Nat) : BitVec 384 := BitVec.ofNat 384 ((2 ^ 384 - 1) / 15 * 2 ^ m)

/-- The rigs a hardware fault affects (Table 12-2). -/
def Rig.affected (k : Rig) : HwFault → Bool
  | .halyardHold c => k.cores.getLsbD c
  | .halyardHalf c => k.cores.getLsbD c
  | .netHold m => k.inMast m
  | .netLost m => k.inMast m
  | .spreader m => k.inMast m
  | .stayLanes => k.stay != 0
  | .belowFloor y => k.inYard y
  | .hbmChannel m => k.regions &&& homedOn m != 0

/-- Classes A and B (Table 12-1). -/
def CRec.cls (r : CRec) : Nat := field r.l1 2 1
/-- A command of class A or B. -/
def CRec.contract (r : CRec) : Bool := r.cls == 1 || r.cls == 2

/-- FAULT while an interval is open or a command accepted before its end remains in the plan (R334). -/
def Rig.refault (k : Rig) : Rig :=
  { k with fault := !k.iv.isEmpty || (k.fault && (k.plan.any (·.moved) || k.running.any fun m => m.moved && m.r.contract)) }

/-- The abort points of a rig move (R333). -/
def Rig.move (k : Rig) : Rig :=
  { k with
    running := k.running.map fun m => { m with moved := true }
    plan := k.plan.map fun m => { m with moved := true } }

/-- A fault interval begins (R333). -/
def State.faultBegin (s : State) (f : HwFault) : State :=
  s.each (List.range 64) fun s r =>
    let k := s.rig r
    if k.affected f && !k.iv.contains f then
      (s.setRig r { k.move with fault := true, iv := f :: k.iv }).rigCause r causeFlt
    else s

/-- A fault interval ends (R334). -/
def State.faultEnd (s : State) (f : HwFault) : State :=
  s.each (List.range 64) fun s r =>
    let k := s.rig r
    if k.iv.contains f then s.setRig r ({ k with iv := k.iv.filter (· ≠ f) }).refault else s

/-- A fault whose interval is the tick of the event (R333). -/
def State.faultTick (s : State) (f : HwFault) : State := (s.faultBegin f).faultEnd f

/-! ### The front end: stops and reports (R73 to R78) -/

/-- The status of a stop cause (Table 2-6). -/
def causeStatus (c : Nat) : BitVec 8 :=
  match c with
  | 0x09 => 0x20
  | 0x0A => 0x22
  | 0x0B => 0x21
  | 0x0C => 0x30
  | 0x0D => 0x30
  | _ => 0x23

/-- A stop detail (R378). -/
def stopDetail (addr : Nat) (core : Option Nat) (cause : Nat) : BitVec 64 :=
  BitVec.ofNat 64 (addr % 2 ^ 48 / 8 * 8 * 2 ^ 16 + (if core.isNone then 2 ^ 18 else 0) + core.getD 0 * 16 + cause)

/-- The lowest logical core of a bitmap. -/
def lowestOf (b : BitVec 4096) : Nat := ((List.range 4096).find? fun c => b.getLsbD c).getD 0

/-- Every core of a command has ended or stopped. -/
def Cmd.over (m : Cmd) : Bool := (m.ended ||| m.stopped) &&& m.cores == m.cores

/-- The command runs programs on cores, not fixed behaviour: RUN, or a SEARCH in its re-ranker. -/
def Cmd.onCores (m : Cmd) : Bool := m.fin.isNone && m.cores != 0

/-- Move a finished command of a rig to the records waiting (R48, R74). -/
def State.settle (s : State) (r : Nat) : State :=
  match (s.rig r).running with
  | some m =>
    if m.stage = .running && m.onCores && m.over && !(s.adm.done.any fun d => d.rig = some r) then
      s.setAdm { s.adm with done := s.adm.done ++ [{ r := m.r, rig := some r }] }
    else s
  | none => s

/-- Update the running command of a rig. -/
def State.modCmd (s : State) (r : Nat) (f : Cmd → Cmd) : State :=
  let k := s.rig r
  s.setRig r { k with running := k.running.map f }

/-- The front end stops the cores of a command other than one (R74): each at its next instruction boundary, BAR and
WAIT included. A core not yet dispatched never starts. -/
def State.stopCores (s : State) (r : Nat) (except : Option Nat) (cause : Nat) : State :=
  match (s.rig r).running with
  | none => s
  | some m =>
    let ks := (s.cores.map (·.1)).filter fun c => m.cores.getLsbD c && some c ≠ except
    let s := s.each ks fun s c =>
      let k := s.core c
      if let some d := k.disp then
        (s.setCore c { k with disp := none, stop := some ⟨cause, d.entry⟩ }).modCmd r fun m =>
          { m with stopped := m.stopped ||| BitVec.twoPow 4096 c }
      else if k.phase = .running || k.phase = .ending then
        (s.setCore c { k with atBar := none }).stopCore c cause k.pc.toNat
      else s
    s.settle r

/-- The rank of a status among reports of one tick (R75). -/
def statusRank (st : BitVec 8) : Nat :=
  match st with | 0x21 => 4 | 0x20 => 3 | 0x22 => 2 | 0x23 => 1 | _ => 0

/-- A report takes the place of one of the same tick: its status ranks higher, or as high and its core is lower (R75). -/
def outranks (x y : Nat × Stop) : Bool :=
  let a := statusRank (causeStatus x.2.cause)
  let b := statusRank (causeStatus y.2.cause)
  decide (b < a) || (a == b && decide (x.1 < y.1))

/-- The report a command keeps when core c reports a stop at a tick: the first observed, of one tick the highest; the causes the front
end set itself are none (R75). -/
def Cmd.keepReport (m : Cmd) (now c : Nat) (st : Stop) : Cmd :=
  if st.cause = 0x0C || st.cause = 0x0D then m
  else
    match m.rep with
    | none => { m with rep := some (c, st), repAt := now }
    | some x => if m.repAt = now && outranks (c, st) x then { m with rep := some (c, st) } else m

/-- A stop report of a core reaches the front end (R74, R75). -/
def State.report (s : State) (r c : Nat) (st : Stop) : State :=
  let s := s.modCmd r fun m => { m.keepReport s.adm.now c st with stopped := m.stopped ||| BitVec.twoPow 4096 c }
  s.stopCores r (some c) 0x0C

/-! ### Marking a core down (R24, R76, R304, R496) -/

/-- A request in flight to a tile that is marked down is answered as an access to a down core (R35, R36): a read with poison. -/
def Tile.answerDown (t : Tile) (q : TileReq) : Tile :=
  { t with out := some (match q.op with | .read n => (leBytes n 0, true) | .write _ => ([], false)) }

/-- The units of a tile stop at once (R304), and the requests in its queues and held at its banks are each answered as accesses to a
down core (R36). -/
def State.stopTile (s : State) (c : Nat) : State :=
  let held := (List.range 16).flatMap fun b => (s.bank c b).held
  let s := s.each (List.range 16) fun s b =>
    let k := s.bank c b
    if k = {} then s else s.setBank c b { k with run := none, queued := none, held := [], inS := none }
  s.setTile c { (held ++ (s.tile c).cq ++ (s.tile c).mq).foldl Tile.answerDown (s.tile c) with cq := [], mq := [] }

/-- A core, its tile or its halyard is marked down; a failure of the position itself (Table 18-9) is recorded.
DEDUCED: log entry 20. -/
def State.markDown (s : State) (record : Bool) (c : Nat) : State :=
  let k := s.core c
  if k.down then s
  else
    let y := yardOf c
    let s := match s.columnOf c with
      | some p =>
        let s := s.setYard y { s.yard y with bad := (s.yard y).bad ||| BitVec.twoPow 18 p }
        if record then s.recordFail 0 (18 * y + p) else s
      | none => s
    let busy := k.phase ≠ .idle && k.phase ≠ .ended && k.phase ≠ .stopped
    let s := s.setCore c { k with
      down := true
      phase := if busy || k.disp.isSome then .stopped else k.phase
      stop := if busy && k.stop.isNone then some ⟨0x0B, k.pc.toNat⟩ else k.stop
      stall := none, disp := none, q := [], run := [], posted := [], atBar := none }
    let s := (s.stopTile c).yardEvent y 0
    match s.rigOfCore c with
    | none => s
    | some r =>
      let s := s.rigCause r causeDown
      match (s.rig r).running with
      | some m => if m.stage = .running && m.onCores && m.cores.getLsbD c then s.report r c ⟨0x0B, k.pc.toNat⟩ else s
      | none => s

/-- The position behind a logical core, 18 y + p. -/
def State.posOf (s : State) (c : Nat) : Option Nat := (s.columnOf c).map fun p => 18 * yardOf c + p

/-- Mark down every working core of a yard. -/
def State.markYard (s : State) (record : Bool) (y : Nat) : State :=
  s.each (List.range 16) fun s j => s.markDown record (16 * y + j)
/-- Mark down every core of a mast. -/
def State.markMast (s : State) (m : Nat) : State := s.each (List.range 1024) fun s j => s.markDown false (1024 * m + j)

/-- A mast has lost its share of a step, link or HBM rail, or a link that its network needs (Table 16-8, R490). -/
def State.mastDark (s : State) (m : Nat) : Bool :=
  ((List.range 4).any fun q => (s.path (320 + 4 * m + q)).st = 2) ||
    ((List.range 2).any fun j => (s.path (336 + 2 * m + j)).st = 2 || (s.path (344 + 2 * m + j)).st = 2) || s.net.dead.getLsbD m

/-! ### The mapping of a yard (R22 to R24) -/

/-- The VDD_MEM path that feeds the tiles of a yard (Table 16-6). -/
def memPath (y : Nat) : Nat := 256 + 16 * (y / 64) + 4 * (y / 16 % 4) + y % 16 / 4

/-- No position of a yard works: it is retired for ageing (R500), its supplies or those of its tiles are off (R429, R435, Table 16-8),
its network clock is lost (R322), or its mast has lost a rail. -/
def State.yardLost (s : State) (y : Nat) : Bool :=
  let k := s.yard y
  k.retired || k.dark || k.netDown || decide (3 ≤ k.cells) || (s.path y).st = 2 || (s.path (memPath y)).st = 2 || s.mastDark (yardMast y)

/-- The positions of a yard that count as not working at its next mapping: those marked bad, those whose locker has been retired
(Table 18-9), and every one of a yard that is lost. -/
def State.badAtMap (s : State) (y : Nat) : BitVec 18 :=
  if s.yardLost y then BitVec.allOnes 18
  else (s.yard y).bad ||| BitVec.ofNat 18 (maskOf 18 fun p => (tget {} s.parked (18 * y + p)).retired)

/-- The halyards, tiles and locker logs of a yard's logical cores go back to their positions. -/
def State.park (s : State) (y : Nat) : State :=
  s.each (List.range 16) fun s j =>
    let c := 16 * y + j
    let k := s.core c
    let s := match s.posOf c with
      | some p => { s with parked := tset {} s.parked p ⟨s.tile c, k.log, k.retired⟩ }
      | none => s
    (s.setTile c {}).setCore c { k with log := [], retired := false }

/-- The position now behind a logical core brings its halyard, tile and locker log; without one the core is down (R22, R23). -/
def State.unpark (s : State) (c : Nat) (pos : Option Nat) : State :=
  match pos with
  | some p =>
    let x := tget {} s.parked p
    let s : State := { s with parked := tset {} s.parked p {} }
    (s.setTile c x.tile).setCore c { s.core c with down := false, log := x.log }
  | none => s.setCore c { s.core c with down := true }

/-- Compute a yard's mapping (R22, R23). -/
def State.mapYard (s : State) (y : Nat) : State :=
  let old := backing (s.yard y).work
  let s := s.park y
  let k := s.yard y
  let bad := s.badAtMap y
  let new := backing (~~~bad)
  let s := s.setYard y { k with bad := bad, work := ~~~bad, prev := k.work }
  let s := s.each (List.range 16) fun s j => s.unpark (16 * y + j) ((new[j]?).map (18 * y + ·))
  if old = new then s else s.bumpGen

/-- Jury cores of a yard: positions that back a column and were reserve spares at the previous mapping (R24). -/
def Yard.jury (k : Yard) : List Nat :=
  let spares := (idxs 18 fun i => k.prev.getLsbD i).drop 16
  (backing k.work).filter spares.contains

end Sys2Proof.Machine
end

