-- ==== Sys2Proof/Machine/Floor.lean ====
section
/-! DEFINITION. Floor figures of a rig (R349, R445, R451). -/

namespace Sys2Proof.Machine

/-- FFLOOR in MHz, SFLOOR in units of 0.1 µs, floor DL, and φ in 1/64 (R451). -/
structure Floors where
  ff : Nat
  sf : Nat
  dl : Nat
  phi : Nat
deriving DecidableEq, Repr

/-- Arithmetic clock of a level in MHz (Table 17-1). -/
def levelMhz : Nat → Nat
  | 0 => 1250 | 1 => 1150 | 2 => 1050 | 3 => 1000 | 4 => 850 | 5 => 700 | 6 => 600 | _ => 0

/-- Worst-case power per core of a level, in mW (Table 17-1). -/
def levelMw : Nat → Nat
  | 0 => 580 | 1 => 500 | 2 => 420 | 3 => 320 | 4 => 260 | 5 => 190 | 6 => 130 | _ => 30

/-- The derivation of R451 from the floor in W, the share of 1,024 and the cores bound; powers are held in mW × 1,024. -/
def floors (capFloor share nc : Nat) : Floors :=
  if nc = 0 then ⟨0, 0, 0, 0⟩
  else
    let b : Int := ((capFloor : Int) - 600) * share * 1000
    let dl := (min 16 (max 1 (b / (4 * 9 * 1024 * nc : Int)))).toNat
    let c : Int := b - (nc * dl * 9 * 1024 : Nat)
    let fits (l : Nat) : Bool := ((levelMw l * 1024 * nc : Nat) : Int) ≤ c
    match [3, 4, 5, 6].find? fits with
    | some l => ⟨levelMhz l, 20, dl, 64⟩
    | none =>
      let phi := (64 * (c - (30 * 1024 * nc : Nat))) / (100 * 1024 * nc : Nat)
      if phi < 16 then ⟨0, 0, dl, phi.toNat⟩
      else
        let p := phi.toNat
        ⟨600 * (100 * p - 64) / 6400, ceilDiv (10 * (3 * 64 + 100 * (64 - p))) 64, dl, p⟩

/-- The worse of two sets of figures, figure by figure (R349). -/
def Floors.worse (x y : Floors) : Floors :=
  ⟨min x.ff y.ff, max x.sf y.sf, min x.dl y.dl, min x.phi y.phi⟩

/-- A set of figures is worse than another in at least one (R349). -/
def Floors.worsens (old new : Floors) : Bool :=
  new.ff < old.ff || old.sf < new.sf || new.dl < old.dl

/-- Number of cores a rig holds. -/
def Rig.nc (k : Rig) : Nat := (idxs 4096 fun n => k.cores.getLsbD n).length

/-- Figures in effect for a rig. -/
def Rig.floorsNow (k : Rig) : Floors := ⟨k.ff, k.sf, k.dl, k.phi⟩

/-- Figures of a rig under a floor and a share. -/
def Rig.floorsAt (k : Rig) (capFloor share : Nat) : Floors := floors capFloor share k.nc

/-- Figures admission uses: while a change is pending, the worse of old and new (R349). -/
def State.admFloors (s : State) (r : Nat) : Floors :=
  let k := s.rig r
  let x := k.floorsNow
  if s.pwr.newFloor = 0 && k.newPwr.isNone then x
  else x.worse (k.floorsAt (if s.pwr.newFloor = 0 then s.pwr.floor else s.pwr.newFloor) (k.newPwr.getD k.pwr))

/-- The better of two sets of figures, figure by figure (R349). -/
def Floors.better (x y : Floors) : Floors :=
  ⟨max x.ff y.ff, min x.sf y.sf, max x.dl y.dl, max x.phi y.phi⟩

/-- Figures power control keeps to: while a change is pending, the better of old and new (R349). -/
def State.ctlFloors (s : State) (r : Nat) : Floors :=
  let k := s.rig r
  let x := k.floorsNow
  if s.pwr.newFloor = 0 && k.newPwr.isNone then x
  else x.better (k.floorsAt (if s.pwr.newFloor = 0 then s.pwr.floor else s.pwr.newFloor) (k.newPwr.getD k.pwr))

/-- The figures in effect of a rig, derived again (R451). -/
def State.putFloors (s : State) (r : Nat) : State :=
  let k := s.rig r
  let f := k.floorsAt s.pwr.floor k.pwr
  if k = {} then s else s.setRig r { k with ff := f.ff, sf := f.sf, dl := f.dl, phi := f.phi }

/-- Derive the figures of every rig again. -/
def State.putAllFloors (s : State) : State := s.each (List.range 64) State.putFloors

/-! ### Changes of the floor and of shares (R349) -/

/-- The figures of a rig under another floor or share are worse than those in effect (R349). -/
def Rig.worseAt (k : Rig) (capFloor share : Nat) : Bool := k.floorsNow.worsens (k.floorsAt capFloor share)

/-- The class A and B commands of a rig wait on a change of the floor. DEDUCED: log entry 68. -/
def Rig.holdFloor (k : Rig) : Rig :=
  { k with
    running := k.running.map fun m => { m with hFloor := m.r.contract }
    plan := k.plan.map fun m => { m with hFloor := true } }

/-- The class A and B commands of a rig wait on a change of its share. -/
def Rig.holdShare (k : Rig) : Rig :=
  { k with
    running := k.running.map fun m => { m with hShare := m.r.contract }
    plan := k.plan.map fun m => { m with hShare := true } }

/-- No command of a rig waits on a change of the floor. -/
def Rig.freeFloor (k : Rig) : Bool := k.plan.all (!·.hFloor) && k.running.all (!·.hFloor)
/-- No command of a rig waits on a change of its share. -/
def Rig.freeShare (k : Rig) : Bool := k.plan.all (!·.hShare) && k.running.all (!·.hShare)

/-- Pending changes that no command waits on take effect (R349). DEDUCED: log entry 68. -/
def State.settleFloors (s : State) : State :=
  let free := (List.range 64).all fun r => (s.rig r).freeFloor
  let s : State := if s.pwr.newFloor ≠ 0 && free then { s with pwr := { s.pwr with floor := s.pwr.newFloor, newFloor := 0 } } else s
  let s := s.each (List.range 64) fun s r =>
    let k := s.rig r
    match k.newPwr with
    | some p => if k.freeShare then s.setRig r { k with pwr := p, newPwr := none } else s
    | none => s
  s.putAllFloors

/-- A write of the floor (R349, R449): held while it worsens a figure of a rig that has class A or B commands; with none
to hold it, in effect at once. -/
def State.writeFloor (s : State) (f : Nat) : State :=
  let worse := (List.range 64).filter fun r => (s.rig r).worseAt f (s.rig r).pwr
  if worse = [] then ({ s with pwr := { s.pwr with floor := f, newFloor := 0 } } : State).putAllFloors
  else
    let s : State := { s with pwr := { s.pwr with newFloor := f } }
    (s.each worse fun s r => s.setRig r (s.rig r).holdFloor).settleFloors

/-- The power share of a rig that counts against the sum: the higher of the one in effect and one pending (R410). -/
def Rig.share (k : Rig) : Nat := max k.pwr (k.newPwr.getD 0)

/-- A write of a rig's power share (R349, R410): discarded when the shares would exceed 1,024. -/
def State.writeShare (s : State) (r p : Nat) : State :=
  let others := ((List.range 64).filter (· ≠ r)).map fun i => (s.rig i).share
  if 1024 < others.foldl (· + ·) 0 + p then s
  else
    let k := s.rig r
    if k.worseAt s.pwr.floor p then (s.setRig r { k.holdShare with newPwr := some p }).settleFloors
    else (s.setRig r { k with pwr := p, newPwr := none }).putFloors r

end Sys2Proof.Machine
end

