-- ==== Sys2Proof/Machine/LlcEvents.lean ====
section
/-! DEFINITION. Last-level cache events and registers (08): requests, fills, set-written, dead lines, reductions, the
host directory, hot windows, the hash key and the region settings. -/

namespace Sys2Proof.Machine

/-- A request that the network can bring to a slice: bytes of one HBM line that its requester may address (R28, R37, R55),
with a class-4 reduction of whole words, an LSE record within its line (R99, R236). -/
def State.llcReqOk (s : State) (r : LlcReq) : Bool :=
  let n := llcLen r.op
  place r.a = .hbm && n != 0 && r.a / 1024 = (r.a + n - 1) / 1024 &&
    (match r.who with
     | .core c => (s.rigOfCore c).isSome && s.rigOfRegion (regionOf r.a) = s.rigOfCore c
     | .host => true
     | .device => true) &&
    (match r.op with
     | .red q => r.a % 4 = 0 && r.cls = 4 && (if q.op = 3 then 17 ≤ q.src.length && !q.int else q.src.length = 1)
     | _ => true)

/-- LLC_REQUEST (R217 to R227, R238, R239, R242). -/
def execLlcRequest (who : Who) (cls : Fin 5) (a : Nat) (op : LlcOp) (s : State) : Out :=
  let r : LlcReq := { who := who, cls := cls, a := a, op := op }
  .next (if s.llcReqOk r then s.llcRequest r else s)

/-- LLC_FILL_RETURN (R227, R228, R231). -/
def execLlcFillReturn (line : Nat) (s : State) : Out := .next (s.fillReturn line)

/-- SET_WRITTEN (R227, R264). -/
def execSetWritten (g : Nat) (s : State) : Out := .next (s.setWritten g)

/-- SET_WRITTEN_REPLY (R227). -/
def execSetWrittenReply (g : Nat) (s : State) : Out := .next (s.setWrittenReply g)

/-- STREAM_TRACKER_RELEASE: a tracker has gone RELEASE × 64 cycles without an access; RELEASE of 0 releases none (R222, Table 8-5). -/
def execStreamTrackerRelease (k : SliceId) (who : Who) (s : State) : Out :=
  .next (if bits s.streamCtl 23 16 = 0 then s else s.trackHit k who)

/-- DEAD_DROP: the slices drop a granule and hold its requests (R229, R230). -/
def execDeadDrop (g : Nat) (s : State) : Out :=
  if place (4096 * g) = .hbm then .next (s.deadDrop g) else .next s

/-- DEAD_MARK_ACK: the controller has marked the granule dead (R229, R230). -/
def execDeadMarkAck (g : Nat) (s : State) : Out := .next (s.deadAck g)

/-- REDUCTION_APPLY (R234, R235, R237, R238). -/
def execReductionApply (line : Nat) (s : State) : Out := .next (s.reductionApply line)

/-- FORWARD_ACK (R239). -/
def execForwardAck (line : Nat) (s : State) : Out := .next (s.forwardAck line)

/-- Host data merged at its point of coherence: into the resident line, else into DRAM (R242). DEDUCED: log entry 65. -/
def State.mergeHost (s : State) (a : Nat) (bs : List Byte) : State :=
  let l := a / 1024
  match s.line l with
  | some x =>
    let sec := sectorsOf a 64
    let s := s.sectorMarks x.valid a 64 (idxs 16 fun i => sec.getLsbD i)
    let s := ({ s with mem := mwrite s.mem a bs } : State).setLine l { x with
      valid := x.valid ||| sec, dirty := x.dirty ||| sec, bad1 := x.bad1 &&& ~~~sec, bad2 := x.bad2 &&& ~~~sec }
    let s := if x.flag then s else s.needSetWritten (a / 4096)
    s.splitPair l
  | none => s.dramWrite a bs

/-- HOST_SNOOP_RESPONSE: the host answers a back-invalidate (R242). Modified data is merged, unless a drop of its granule has come
and no request from before it waits (R229, R233); the entry is freed, or kept shared after a read; the operations that waited
proceed, and then a drop that waited for them. -/
def execHostSnoopResponse (a : Nat) (data : Option (BitVec 512)) (s : State) : Out :=
  let l := a / 64
  let g := a / 4096
  if !s.llc.snoops.contains l then .next s
  else
    let dropped := s.llc.heldG.contains g && !s.snoopedFirst g
    let wasMod := s.llc.dir.any fun e => e.line = l && e.modified
    let s := match data with
      | some x => if wasMod && !dropped then s.mergeHost (64 * l) (lineBytes x) else s
      | none => s
    let gone := s.llc.frees.contains l || !wasMod || s.llc.dir.any fun e => e.line = l && e.age = 0
    let dir := if gone then s.llc.dir.filter (fun e => e.line ≠ l)
      else s.llc.dir.map fun e => if e.line = l then { e with modified := false } else e
    let rs := s.llc.snHeld
    let s : State := { s with llc := { s.llc with
      dir := dir, snoops := s.llc.snoops.filter (· ≠ l), frees := s.llc.frees.filter (· ≠ l), snHeld := [] } }
    let s := rs.foldl (fun s r => s.llcServe r) s
    .next (if s.llc.heldG.contains g && !s.snoopedFirst g then s.dropGran g else s)

/-- HOT_SLICE_WINDOW_END: a slice's 100 µs window ends with the percentage of cycles its queue was at least 75 % full
(R244). -/
def execHotSliceWindowEnd (k : SliceId) (occ : Nat) (s : State) : Out :=
  if 50 ≤ occ && occ ≤ 100 then
    .next (({ s with hot := { hot := true, slice := k, count := satTo 0xFFFF (s.hot.count + 1), occ := occ } } : State).raiseSrc 12)
  else .next s

/-- Write back and invalidate the lines that satisfy p. -/
def State.evictLines (s : State) (p : Nat → Bool) : State :=
  s.each ((s.llc.lines.map (·.1)).filter p) fun s l => s.evict l

/-- A staged region setting takes effect: the region's lines leave first (R214, R219). -/
def State.setMode (s : State) (g : Nat) (m : BitVec 2) : State :=
  let s := s.evictLines fun l => regionOf (1024 * l) = g
  { s with llc := { s.llc with rmode := tset 0 s.llc.rmode g m, rstage := tset none s.llc.rstage g none } }

/-- A write of LLC_MODE (Table 8-2): RSEL and PAIREN are kept; SET stages, at once for an unbound region (R214). -/
def State.llcModeWrite (s : State) (w : BitVec 64) : State :=
  let s := s.setReg 0x070008 (w &&& 0x1001FF)
  let g := bits w.toNat 8 0
  if w.getLsbD 16 && g < 384 then
    let m : BitVec 2 := BitVec.ofNat 2 (bits w.toNat 18 17)
    if (s.rigOfRegion g).isSome then { s with llc := { s.llc with rstage := tset none s.llc.rstage g (some m) } }
    else s.setMode g m
  else s

/-- Registers answer once the device is ready and its link is up; in FAILED only some blocks do (R515, R568).
DEDUCED: log entry 59. -/
def State.bar0On (s : State) (off : Nat) : Bool :=
  s.boot.link &&
    (s.boot.ph = 5 || (s.boot.ph = 6 && (off < 0x010000 || (0x030000 ≤ off && off < 0x060000) || (0x0A0000 ≤ off && off < 0x0B0000))))

/-- LLC_MODE_SET (R214). -/
def execLlcModeSet (w : BitVec 64) (s : State) : Out := .next (if s.bar0On 0x070008 then s.llcModeWrite w else s)

/-- A write of LLC_HASH_KEY stages a key; zero stages a drawn one (R213). -/
def State.hashKeyWrite (s : State) (k : BitVec 64) : State :=
  { s with
    llc := { s.llc with staged := some (if k = 0 then Config.drawnKey s.free else k) }
    free := s.free + 1 }

/-- LLC_HASH_KEY_WRITE (R213). -/
def execLlcHashKeyWrite (k : BitVec 64) (s : State) : Out := .next (if s.bar0On 0x070000 then s.hashKeyWrite k else s)

end Sys2Proof.Machine
end

