-- ==== Sys2Proof/Machine/Streams.lean ====
section
/-! DEFINITION. Command streams (13, R356 to R364): the tail line, the fetcher, enabling, resuming; configuration
requests (R353); host reads and writes of device memory (R354, R355, R416). -/

namespace Sys2Proof.Machine

/-! ### Stream registers (Tables 13-3 to 13-7) -/

/-- BAR0 offset of a register of stream n. -/
def strmOff (n k : Nat) : Nat := 0x010000 + 0x40 * n + k
/-- LOG2 of STRM_SIZE. -/
def State.strmLog2 (s : State) (n : Nat) : Nat := bits (s.reg (strmOff n 0x08)).toNat 4 0
/-- Lines of a stream's ring. -/
def State.strmSize (s : State) (n : Nat) : Nat := 2 ^ s.strmLog2 n
/-- RIG of STRM_RIG. -/
def State.strmRig (s : State) (n : Nat) : Nat := bits (s.reg (strmOff n 0x28)).toNat 7 0
/-- Base of the completion area. -/
def State.strmCpl (s : State) (n : Nat) : Nat := (s.reg (strmOff n 0x18)).toNat

/-- A stream halts and raises its completion source (R362). -/
def State.haltStrm (s : State) (n : Nat) (err : BitVec 4) : State :=
  (s.setStrm n { s.strm n with halt := true, err := err }).raiseSrc (512 + n)

/-- The fetcher reads the tail line: it is held shared again, and TAIL is taken when it lies in the ring (R356, R357, R362). -/
def State.takeTail (s : State) (n : Nat) (r : HostRead) : State :=
  let k := s.strm n
  match r with
  | .bad => (s.setStrm n { k with act := false }).haltStrm n 3
  | .data line =>
    let tail := bits line.toNat 31 0
    let s := s.setStrm n { k with act := true }
    if s.strmSize n ≤ tail then s.haltStrm n 2 else s.setStrm n { s.strm n with tail := BitVec.ofNat 32 tail }

/-- TAIL_LINE_SNOOP: the snoop wakes the fetcher, which reads the tail line again; a halted one too, though it fetches nothing (R356,
R362). DEDUCED: log entry 35. -/
def execTailLineSnoop (n : StreamId) (r : HostRead) (s : State) : Out := .next (if (s.strm n).en then s.takeTail n r else s)

/-- Lines between HEAD and TAIL. -/
def State.strmReady (s : State) (n : Nat) : Nat :=
  let k := s.strm n
  (k.tail.toNat + s.strmSize n - k.head.toNat % s.strmSize n) % s.strmSize n

/-- FETCH_COMMAND_LINE: the line at HEAD, and the line after it for a critical command, are read (R357 to R362).
DESIGN CHOICE: log entry 5. -/
def execFetchCommandLine (n : StreamId) (l1 l2 : HostRead) (s : State) : Out :=
  let k := s.strm n
  if !k.en || k.halt || 64 ≤ k.out || s.strmReady n = 0 then .next s
  else
    let take (b1 b2 : List Byte) (lines : Nat) : Out :=
      .next (s.setStrm n { k with
        fetched := k.fetched ++ [{ strm := n, slot := k.head.toNat, l1 := b1, l2 := b2 }]
        head := BitVec.ofNat 16 ((k.head.toNat + lines) % s.strmSize n)
        exp := k.exp + 1
        out := k.out + 1 })
    match l1 with
    | .bad => .next (s.haltStrm n 3)
    | .data x =>
      let b1 := lineBytes x
      if BitVec.ofNat 32 (field b1 4 4) ≠ k.exp then .next (s.haltStrm n 1)
      else if bit (field b1 1 1) 7 then
        if s.strmReady n < 2 then .next s
        else
          match l2 with
          | .bad => .next (s.haltStrm n 3)
          | .data y => take b1 (lineBytes y) 2
      else take b1 [] 1

/-- A write of EN (R363, R515): enabling is refused while fetched commands remain, for an unlisted size or rig, and on PCIe only; disabling
stops fetching at once. The tail line is then held shared once it has been read. -/
def State.strmEn (s : State) (n : Nat) (en : Bool) : State :=
  let k := s.strm n
  if !en then s.setStrm n { k with en := false, act := false }
  else if k.en then s
  else
    let lg := s.strmLog2 n
    let rg := s.strmRig n
    if k.out ≠ 0 || lg < 6 || 16 < lg || (64 ≤ rg && rg ≠ 0xFF) || s.boot.pcie || s.boot.ph ≠ 5 then s.setStrm n { k with err := 4 }
    else s.setStrm n { k with
      en := true, act := false, head := 0, exp := 0, tail := 0, err := 0, halt := false, fence := false, okN := 0, otherN := 0 }

/-- BAR0 offset of STRM_CTL of a stream. -/
def strmCtlOff (n : Nat) : Nat := strmOff n 0x20

/-- Registers of the stream block take writes once ready; a FAILED device refuses EN itself (R515). DEDUCED: log entry 35.
DEDUCED: log entry 59. -/
def State.strmOn (s : State) : Bool := s.boot.link && (s.boot.ph = 5 || s.boot.ph = 6)

/-- STRM_CTL_EN (R356, R363): a stream that is enabled by the write reads its tail line. DEDUCED: log entry 35. -/
def execStrmCtlEn (n : StreamId) (en : Bool) (s : State) (r : HostRead := .bad) : Out :=
  if !s.strmOn then .next s
  else
    let t := s.strmEn n en
    .next (if (t.strm n).en && !(s.strm n).en then t.takeTail n r else t)

/-- A write of RESUME clears a halt (R362). -/
def State.strmResume (s : State) (n : Nat) : State := s.setStrm n { s.strm n with halt := false, err := 0 }

/-- STRM_CTL_RESUME (R362). -/
def execStrmCtlResume (n : StreamId) (s : State) : Out := .next (if s.bar0On 0x010000 then s.strmResume n else s)

/-! ### The host port -/

/-- Replace an HDM decoder. -/
def State.setHdm (s : State) (i : Nat) (h : Hdm) : State := { s with hdm := tset {} s.hdm i h }

/-- What a completed configuration request does and answers: a decoder, or the IDE enable, is set; Readiness Time Reporting gives the reset
time in ms (Table 13-1). PRESUMED: log entry 92. -/
def State.configured (s : State) (q : ConfigReq) : State × List Byte :=
  match q with
  | .hdm i base size commit => (s.setHdm i ⟨base, size, commit⟩, [1])
  | .ide on => ({ s with ide := on }, [1])
  | .readiness => (s, 1 :: leBytes 4 6000)
  | .other => (s, [1])

/-- CONFIG_REQUEST: retry status until ready, then completed (R353). The answer begins with a byte, 0 for retry status and 1 for a
completed request; none while there is no link. PRESUMED: log entry 92. -/
def execConfigRequest (s : State) (q : ConfigReq := .other) : Out :=
  if !s.boot.link then .next { s with rsp := none }
  else if s.boot.ph = 5 || s.boot.ph = 6 then
    let (t, bs) := s.configured q
    .next { t with rsp := some (bs, false) }
  else .next { s with rsp := some ([0], false) }

/-- The range of a decoder: its base and size (Table 13-2). -/
def hdmRange : Nat → Nat × Nat
  | 0 => (0, 0x6000000000)
  | 1 => (0x10000000000, 0x8000000000)
  | 2 => (0x20000000000, 0x200000000)
  | _ => (0x30000000000, 0x100000000)

/-- The decoder whose range an address lies in. -/
def hdmOf (a : Nat) : Option Nat := (List.range 4).find? fun i => (hdmRange i).1 ≤ a && a < (hdmRange i).1 + (hdmRange i).2

/-- An address is decoded: the decoder of its range is committed with exactly that range (R354); an address of no range is a reserved one
(R29). -/
def State.decodes (s : State) (a : Nat) : Bool :=
  match hdmOf a with
  | some i => let h := tget {} s.hdm i; h.commit && h.base == (hdmRange i).1 && h.size == (hdmRange i).2
  | none => true

/-- The device decodes CXL.mem: ready, and the link is not PCIe only (R351, R353, R515). -/
def State.memOn (s : State) : Bool := s.boot.link && s.boot.ph = 5 && !s.boot.pcie

/-- Host accesses to the HBM of a mast return poison and are discarded while its step, link or HBM path has failed (Table
16-8), and while a stack of it is in a loop-back (Table 22-3). -/
def State.mastLost (s : State) (a : Nat) : Bool :=
  let m := homeMast a
  place a = .hbm && (s.mastDark m || s.pwr.converters ≤ 1 ||
    (List.range 2).any fun j => let l := s.loop (7 + 2 * m + j); l.st = 1 || l.st = 2 || l.st = 3)

/-- A host access of n bytes stays within one 64 B line of CXL.mem. -/
def hostSpan (a n : Nat) : Bool := n ≠ 0 && a / 64 = (a + n - 1) / 64

/-- Answer a host read. -/
def State.hostOut (s : State) (bs : List Byte) (poison : Bool) : State := { s with rsp := some (bs, poison) }

/-- Entries a mast's directory holds (R241). -/
def dirSize : Nat := 2 ^ 20

/-- The directory tracks a line the host has read with caching permitted: a new entry, the least recently used of the
mast giving way to a back-invalidate when it is full (R241). A CXL.mem read leaves the line possibly modified.
DEDUCED: log entry 65. -/
def State.trackHost (s : State) (a : Nat) : State :=
  if !(s.regMode (regionOf a)).getLsbD 1 then s
  else
    let s := s.meetDirs a 1
    let l := a / 64
    let d := s.llc.dir.filter fun e => e.line ≠ l
    let mine := d.filter fun e => homeMast (64 * e.line) = homeMast a && e.age ≠ 0
    let clk := s.llc.clock + 1
    let old := mine.foldl (fun (m : Option DirEnt) e => match m with | some x => if e.age < x.age then some e else some x | none => some e) none
    let (d, sn) := match old with
      | some v => if mine.length < dirSize then (d, []) else (d.map fun e => if e = v then { v with age := 0 } else e, [(v.line, true)])
      | none => (d, [])
    ({ s with llc := { s.llc with dir := d ++ [{ line := l, modified := true, age := clk }], clock := clk } } : State).addSnoops sn

/-! ### Fields of a command line -/

/-- A field of the first line. -/
def CRec.u (r : CRec) (off n : Nat) : Nat := field r.l1 off n
/-- A field of the second line, by its offset in the command. -/
def CRec.v (r : CRec) (off n : Nat) : Nat := field r.l2 (off - 64) n
/-- OPCODE. -/
def CRec.op (r : CRec) : Nat := r.u 0 1
/-- FLAGS. -/
def CRec.flags (r : CRec) : Nat := r.u 1 1
/-- CRIT. -/
def CRec.crit (r : CRec) : Bool := bit r.flags 7
/-- RIG. -/
def CRec.rig (r : CRec) : Nat := r.u 3 1
/-- BOUND in ns. -/
def CRec.bound (r : CRec) : Nat := r.u 8 8

/-! ### Memory accesses of the host -/

/-- The ranges a running UPDATE uses: base, length, and whether it writes them (Table 14-4). -/
def Cmd.updRanges (m : Cmd) : List (Nat × Nat × Bool) :=
  let l := m.r
  let n := l.u 48 4
  if l.op ≠ 0xC || m.fin.isSome then []
  else
    match bits (l.u 53 1) 1 0 with
    | 0 => [(l.u 24 8, 128 * n, false), (l.u 32 8, 128 * n, true)] ++ (if l.u 40 8 = 0 then [] else [(l.u 40 8, 128 * n, true)]) ++
        (if l.u 58 6 = 0 then [] else [(l.u 58 6, 64 * n, true)])
    | 1 => [(l.u 24 8, l.u 40 8, false)]
    | 2 => [(l.u 32 8, l.u 40 8, true)]
    | _ => []

/-- A byte that software must not read, or not write, while an UPDATE runs (R400). -/
def State.updHides (s : State) (write : Bool) (a : Nat) : Bool :=
  s.rigs.any fun e =>
    match e.2.running with
    | some m => m.stage = .running && m.updRanges.any fun x => (write || x.2.2) && x.1 ≤ a && a < x.1 + x.2.1
    | none => false

/-- Bytes from an address, those under a running UPDATE replaced by free values (R400). DESIGN CHOICE: log entry 3. -/
def State.hideUpd (s : State) (write : Bool) (a : Nat) (bs : List Byte) : State × List Byte :=
  if (List.range bs.length).any fun i => s.updHides write (a + i) then
    ({ s with free := s.free + bs.length },
      bs.zipIdx.map fun e => if s.updHides write (a + e.2) then Config.freeByte (s.free + e.2) else e.1)
  else (s, bs)

/-- HOST_MEM_READ (R28, R29, R35, R354, R240, R241, R355, R400, R416): the answer is the bytes and whether they are poisoned. A read
that must wait for the host's own snoop response is sent again. Of a core that is down in a rig being re-rigged R35 says poison and
R416 zeros without error: zeros. DESIGN CHOICE: log entry 86. DEDUCED: log entry 72. -/
def execHostMemRead (a n : Nat) (s : State) : Out :=
  if !s.memOn || !s.decodes a || !hostSpan a n then .next s
  else if s.rerigging a then .next (s.hostOut (leBytes n 0) false)
  else if s.downAt a || s.mastLost a then .next (s.hostOut (leBytes n 0) true)
  else if place a = .nowhere then .next (s.hostOut (leBytes n 0) false)
  else
    match s.readAt .host 2 a n with
    | .ok s x =>
      let (s, bs) := s.hideUpd false a x.1
      .next ((match place a with | .hbm => s.trackHost a | _ => s).hostOut bs x.2)
    | .fault s _ => .next s
    | .wait sn => .next (s.addSnoops sn)

/-- Words a poisoned write leaves uncorrectable (R350, R477). -/
def State.poisonWords (s : State) (a n : Nat) : State :=
  match place a with
  | .window _ _ _ => s
  | .nowhere => s
  | _ => s.each (wordsOf a n) fun s w => s.setMark w .ue

/-- HOST_MEM_WRITE (R29, R35, R354, R57, R355, R400, R416). DEDUCED: log entry 72. DESIGN CHOICE: log entry 86. -/
def execHostMemWrite (a : Nat) (bs : List Byte) (poison : Bool) (s : State) : Out :=
  if !s.memOn || !s.decodes a || !hostSpan a bs.length then .next s
  else if place a = .nowhere || s.rerigging a || s.downAt a || s.mastLost a then .next s
  else
    let (s, bs) := s.hideUpd true a bs
    match s.writeAt .host 2 a bs with
    | .ok s _ => .next (if poison then s.poisonWords a bs.length else s)
    | .fault s _ => .next s
    | .wait sn => .next (s.addSnoops sn)

end Sys2Proof.Machine
end

