-- ==== Sys2Proof/Machine/FrontEnd.lean ====
section
/-! DEFINITION. What the command front end's operations share: fields of command lines (Table 13-8), rejections (R339),
outcomes waiting for their records, reads and writes of device memory by the front end, and firmware images (R519). -/

namespace Sys2Proof.Machine

/-! ### Command lines -/

/-- The critical opcodes (R367). -/
def critOp (op : Nat) : Bool := op = 5 || op = 6 || op = 0xB
/-- The opcodes of Table 13-9. -/
def listedOp (op : Nat) : Bool := (1 ≤ op && op ≤ 0xC) || op = 0xF
/-- Opcodes permitted on rig streams. -/
def rigOp (op : Nat) : Bool := listedOp op && !critOp op
/-- Opcodes permitted on management streams. -/
def mgmtOp (op : Nat) : Bool := op = 4 || op = 5 || op = 6 || op = 8 || op = 0xA || op = 0xB || op = 0xF

/-! ### Outcomes -/

/-- REJ_RES with an offset and a reason (R339). -/
def rejRes (off reason : Nat) : Fin' := ⟨0x11, BitVec.ofNat 64 (off % 65536 + reason * 65536)⟩
/-- REJ_RES for a reason that concerns no operand. -/
def rejWhy (reason : Nat) : Fin' := rejRes 0xFFFF reason
/-- REJ_RIG with the stream's RIG field (Table 13-14). -/
def rejRig (rig : Nat) : Fin' := ⟨0x14, BitVec.ofNat 64 rig⟩
/-- OK with no detail. -/
def finOk : Fin' := ⟨0, 0⟩
/-- FAULT_UE of a command that ran no core, with the failing word (R378). -/
def finUe (a : Nat) : Fin' := ⟨0x20, stopDetail (a / 64 * 64) none 9⟩
/-- FAULT_DOWN at admission (R378). -/
def finDown (c : Nat) : Fin' := ⟨0x21, stopDetail 0 (some c) 0x0B⟩
/-- ABORTED of a command that ran no core. -/
def finAborted (cause : Nat) : Fin' := ⟨0x30, stopDetail 0 none cause⟩

/-- The stream number of the command a register-started scrub is (R487): no stream, and so no record. -/
def regStrm : Nat := 256

/-- A summary is written to RAS_SCRUB_SUM and to a host address (R487). -/
def State.putSum (s : State) (sum : List (BitVec 64)) (host : Nat) : State :=
  let s : State := { s with scrub := { s.scrub with sum := sum } }
  if host = 0 then s else { s with hostMem := mwrite s.hostMem host (sum.flatMap fun w => leBytes 8 w.toNat) }

/-- The summary of a scrub that visited nothing. -/
def noSum : List (BitVec 64) := [0, 0, 0, BitVec.allOnes 64]

/-- A register-started scrub ends: DONE, its status, and the scrub source (Table 18-7). -/
def State.regScrubEnd (s : State) (status : BitVec 8) : State :=
  ({ s with scrub := { s.scrub with busy := false, done := true, status := status, rig := none } } : State).raiseSrc 257

/-- A command's outcome waits for its record. A scrub that stops writes its summary first (R487). -/
def State.conclude (s : State) (r : CRec) (f : Fin') : State :=
  let s := if r.op = 4 && f.status = 0x30 then s.putSum noSum (r.u 40 8) else s
  if regStrm ≤ r.strm then s.regScrubEnd f.status
  else s.setAdm { s.adm with done := s.adm.done ++ [{ r := r, fin := f }] }

/-- The command running in a rig has ended without its cores: its outcome waits for its record. -/
def State.endRunning (s : State) (r : Nat) (f : Fin') : State :=
  match (s.rig r).running with
  | none => s
  | some m =>
    let s := if m.r.op = 4 && f.status = 0x30 then s.putSum noSum (m.r.u 40 8) else s
    let s := s.modCmd r fun m => { m with fin := some f, upd := {} }
    if regStrm ≤ m.r.strm then
      let k := s.rig r
      (s.setRig r ({ k with running := none }).refault).regScrubEnd f.status
    else s.setAdm { s.adm with done := s.adm.done ++ [{ r := m.r, rig := some r }] }

/-- The front end alone stops the command running in a rig (R74, R331, R336, R337, R364, R378). -/
def State.stopRunning (s : State) (r cause : Nat) : State :=
  match (s.rig r).running with
  | none => s
  | some m =>
    if m.fin.isSome then s
    else if m.cores == 0 then s.endRunning r (finAborted cause)
    else if m.stage = .rerank then s.endRunning r ⟨0x30, stopDetail 0 (some (lowestOf m.cores)) cause⟩
    else (s.modCmd r fun m => { m with front := if m.front.isSome then m.front else some cause }).stopCores r none cause

/-- The first check that fails. -/
def firstSome {α : Type} : List (Option α) → Option α
  | [] => none
  | some x :: _ => some x
  | none :: t => firstSome t

/-- A check: the failure when the condition holds. -/
def failIf {α : Type} (c : Bool) (f : α) : Option α := if c then some f else none

/-- The first non-zero byte among offsets lo to hi of the command, if any, as its offset. -/
def CRec.nonzero (r : CRec) (lo hi : Nat) : Option Nat :=
  ((List.range (hi + 1 - lo)).map (· + lo)).find? fun i => (if i < 64 then r.u i 1 else r.v i 1) ≠ 0

/-- A reserved field of which the command reports the field's own offset (R366). DEDUCED: log entry 32. -/
def CRec.rsvField (r : CRec) (lo hi : Nat) : Option Fin' := failIf (r.nonzero lo hi).isSome (rejRes lo 0)
/-- Reserved bytes of which the command reports the offending byte (R181, R396, R538). DEDUCED: log entry 32. -/
def CRec.rsvBytes (r : CRec) (lo hi : Nat) : Option Fin' := (r.nonzero lo hi).map fun i => rejRes i 0

/-! ### Where a rig's memory lies -/

/-- Every byte of a range lies in HBM regions, or also tiles, of a rig: regions and tiles are multiples of 128 MiB. -/
def State.inRig (s : State) (r : Nat) (tiles : Bool) (a n : Nat) : Bool :=
  n ≠ 0 && a + n ≤ 2 ^ 48 &&
    (List.range ((a + n - 1) / 0x8000000 - a / 0x8000000 + 1)).all fun i =>
      let x := (a / 0x8000000 + i) * 0x8000000
      match place x with
      | .hbm => s.rigOfRegion (regionOf x) = some r
      | .tile c _ => tiles && s.rigOfCore c = some r
      | _ => false

/-- The cores whose tiles a range touches. -/
def tilesOf (a n : Nat) : List Nat :=
  if n = 0 || 2 ^ 48 < a + n then []
  else (List.range ((a + n - 1) / 0x8000000 - a / 0x8000000 + 1)).filterMap fun i =>
    match place ((a / 0x8000000 + i) * 0x8000000) with
    | .tile c _ => some c
    | _ => none

/-! ### Front-end accesses to device memory -/

/-- Read n bytes: bytes, and the first piece that is uncorrectable. -/
def State.feRead (s : State) (a n : Nat) : Res (List Byte × Option Nat) :=
  (resList (fun s p => (s.readAt .device 0 p.1 p.2).andThen fun s x => .ok s (p.1, x)) s (pieces a n)).andThen fun s xs =>
    .ok s ((xs.map (·.2.1)).flatten, (xs.find? (·.2.2)).map (·.1))

/-- Write bytes. -/
def State.feWrite (s : State) (a : Nat) (bs : List Byte) : Res Unit :=
  (resList (fun s p => s.writeAt .device 0 p.1 ((bs.drop (p.1 - a)).take p.2)) s (pieces a bs.length)).andThen fun s _ => .ok s ()

/-- The outcome of front-end work: done, or nothing but the snoops it waits for. -/
def orWait {α : Type} (s : State) (r : Res α) (f : State → α → State) : State :=
  match r with
  | .ok s x => f s x
  | .fault s _ => s
  | .wait sn => s.addSnoops sn

/-- Bytes written to host memory. DESIGN CHOICE: log entry 5. -/
def State.toHost (s : State) (a : Nat) (bs : List Byte) : State := { s with hostMem := mwrite s.hostMem a bs }

/-! ### Firmware images (R519, Table 20-1) -/

/-- The layout of Table 20-1 is kept, within 4 MiB; the body digest is that of the body. -/
def imageFormed (b : List Byte) : Bool :=
  17168 ≤ b.length && b.length ≤ 4 * 1024 * 1024 && field b 0 4 == 0x4F584657 && field b 7 1 ≤ 64 &&
    17168 + field b 8 4 == b.length && (b.drop 12).take 52 == List.replicate 52 0 &&
    (b.drop 112).take 16 == List.replicate 16 0 && (b.drop 64).take 48 == sha384 (b.drop 17168)

/-- An image verifies (R519). -/
def imageVerifies (b : List Byte) : Bool :=
  imageFormed b && Config.keysMatch b && Config.rsaVerifies b && Config.slhVerifies b

/-- SVN of an image. -/
def imageSvn (b : List Byte) : Nat := field b 7 1
/-- VER of an image. -/
def imageVer (b : List Byte) : Nat := field b 4 3

/-- The image of a slot. -/
def Sec.slot (k : Sec) (b : Bool) : Option (List Byte) := if b then k.slotB else k.slotA

/-- A slot holds an image that verifies with SVN at least FUSESVN (R520, R521). -/
def Sec.slotOk (k : Sec) (b : Bool) : Bool :=
  match k.slot b with
  | some i => imageVerifies i && k.fuse ≤ imageSvn i
  | none => false

/-! ### Figures -/

/-- Round up a rational to a natural number. -/
def ceilRat (q : Rat) : Nat := q.ceil.toNat

/-- Ticks of 0.8 ns in a number of ns, rounded up. -/
def nsTicks (q : Rat) : Nat := ceilRat (q * 5 / 4)
/-- ns in a number of ticks, rounded up (R329). -/
def ticksNs (t : Nat) : Nat := ceilDiv (4 * t) 5

/-- The deadline's distance from t0 for a bound in ns (R329). -/
def boundTicks (b : Nat) : Nat := 5 * b / 4

end Sys2Proof.Machine
end

