-- ==== Sys2Proof/Machine/Levels.lean ====
section
/-! DEFINITION. Reef levels of the yards (R445 to R447, R463, R464), ceilings (R433 to R440), the effective cap (R450,
R468), and powering a yard on (R442, R443). -/

namespace Sys2Proof.Machine

/-! ### Floors of yards -/

/-- The floor level of a floor clock (R451); level 6 at a duty fraction. -/
def clockLevel (ff : Nat) : Nat := if 1000 ≤ ff then 3 else if 850 ≤ ff then 4 else if 700 ≤ ff then 5 else 6

/-- The rigs that hold cores of a yard. -/
def State.yardRigs (s : State) (y : Nat) : List Nat := (List.range 64).filter fun r => (s.rig r).inYard y

/-- A yard holds a bound core. -/
def State.yardBound (s : State) (y : Nat) : Bool := (List.range 64).any fun r => (s.rig r).inYard y

/-- The floor level of a yard: the fastest of its rigs' (R446); 7 for a yard that holds no bound core.
DESIGN CHOICE: log entry 40. -/
def State.yardFloor (s : State) (y : Nat) : Nat := ((s.yardRigs y).map fun r => clockLevel (s.ctlFloors r).ff).foldl min 7

/-- Floor DL of the rig that holds a tile; 1 for none (R451). -/
def State.floorDl (s : State) (c : Nat) : Nat := match s.rigOfCore c with | some r => max 1 (s.ctlFloors r).dl | none => 1

/-- A tile of a yard has its duty limit below its floor DL (R451, Table 17-4). DEDUCED: log entry 39. -/
def State.tilesBelow (s : State) (y : Nat) : Bool :=
  (List.range 16).any fun j => (s.tile (16 * y + j)).dl < s.floorDl (16 * y + j)

/-- A yard runs below its floor: slower than its floor level, a duty-cycle furl apart (R446, R455), or its tiles below
their floor DL. DEDUCED: log entry 39. -/
def State.isBelow (s : State) (y : Nat) : Bool :=
  let k := s.yard y
  (decide (s.yardFloor y < k.lvl) && !(k.lvl = 7 && k.held && k.cause = 7)) || s.tilesBelow y

/-! ### Ceilings -/

/-- Core supply of a level in mV (Table 17-1). -/
def levelMv : Nat → Nat
  | 0 => 720 | 1 => 690 | 2 => 660 | 3 => 640 | 4 => 610 | 5 => 580 | _ => 550

/-- The most current a yard draws at a level, in mA. -/
def levelMa (l : Nat) : Nat := levelMw l * 16 * 1000 / levelMv l

/-- The ceiling of a path in mA (Table 16-7). -/
def Path.ceiling (k : Path) (rated : Nat) : Nat := 
  if k.st = 2 then 0 else if k.st = 1 then ((rated * 256 : Nat) / k.ratio).floor.toNat else rated

/-- The ceiling of a yard with failed cells, in mA (Table 16-5). DEDUCED: log entry 41. -/
def cellCeiling (n : Nat) : Nat := if n ≤ 2 then 1700 * (8 - n) else 0

/-- The effective ceiling of a yard in mA (R440). DEDUCED: log entry 41. -/
def State.yardCeiling (s : State) (y : Nat) : Nat := min (cellCeiling (s.yard y).cells) ((s.path y).ceiling 13600)

/-- The highest-performance level whose worst-case current stays below a ceiling. -/
def levelUnder (ceiling : Nat) : Nat := ((List.range 6).find? fun l => levelMa l ≤ ceiling).getD 6

/-- The highest-performance level a yard may use: its margin plan's CEIL (R500) and its ceiling. -/
def State.yardTop (s : State) (y : Nat) : Nat := max (s.yard y).ceil (levelUnder (s.yardCeiling y))

/-! ### Levels -/

/-- Reasons that are thermal or coolant limits: 3 temperature, 5 coolant, 8 emergency (Tables 12-2 and 17-12). -/
def limitCause (c : Nat) : Bool := c = 3 || c = 5 || c = 8

/-- After a change of a yard's level: BELOW when the yard falls below its floor, and the fault interval of Table 12-2
begins when a thermal or coolant limit forces it, and ends when the yard is back at its floor point (R333). -/
def State.noteBelow (s : State) (y : YardId) (was : Bool) : State :=
  let now := s.isBelow y
  let s : State := if now && !was then { s with pwr := { s.pwr with below := true } } else s
  if now && (limitCause (s.yard y).cause || s.tilesBelow y) then s.faultBegin (.belowFloor y)
  else if now then s
  else s.faultEnd (.belowFloor y)

/-- A yard takes a level, a form of level 7, and a reason. -/
def State.setLevel (s : State) (y : YardId) (lvl : Nat) (held : Bool) (cause : Nat) : State :=
  let was := s.isBelow y
  let k := s.yard y
  let s := s.setYard y { k with
    lvl := lvl, held := held && lvl = 7, cause := if lvl = 0 then 0 else cause
    boost := if lvl = 0 then k.boost else 0, ramp := .no, quarter := false }
  ({ s with pwr := { s.pwr with waits := s.pwr.waits.filter (· ≠ y.val) } } : State).noteBelow y was

/-- The number as a yard. -/
def yardId (y : Nat) : YardId := Fin.ofNat 256 y

/-- Furl a yard in the off form (R447). -/
def State.furlOff (s : State) (y : Nat) (cause : Nat) : State := s.setLevel (yardId y) 7 false cause

/-- The level a yard takes when its power-on ends: its floor point, within what the yard may use (DESIGN CHOICE, log
entry 40). DESIGN CHOICE: log entry 40. -/
def State.wakeLevel (s : State) (y : Nat) : Nat := max (s.yardTop y) (min 6 (s.yardFloor y))

/-- A yard runs again. -/
def State.wake (s : State) (y : Nat) : State := s.setLevel (yardId y) (s.wakeLevel y) false 1

/-- A yard loses performance to keep within what it may use. -/
def State.keepTop (s : State) (y : Nat) (cause : Nat) : State :=
  if (s.yard y).lvl < s.yardTop y then s.setLevel (yardId y) (s.yardTop y) false cause else s

/-! ### Trusted temperatures and suspect layers (R461 to R464) -/

/-- The trusted temperature of a yard, in tenths of a degree (R461). -/
def Yard.trusted (k : Yard) : Nat := if k.hasModel then max k.own k.model else k.own
/-- The trusted temperature of the tiles beneath a yard. -/
def Yard.tileTrusted (k : Yard) : Nat := if k.hasModel then max k.tileT k.tileM else k.tileT

/-- A logic layer, 4 m + k, has a suspect yard. -/
def State.layerSuspect (s : State) (l : Nat) : Bool := (List.range 16).any fun i => (s.yard (16 * l + i)).susp
/-- More than two logic layers of a mast have suspect sensors (R464). -/
def State.mastSuspect (s : State) (m : Nat) : Bool := 2 < ((List.range 4).filter fun k => s.layerSuspect (4 * m + k)).length

/-- The level a yard runs at: one below the governed level in a suspect layer, the floor point in a suspect mast, never
below floor (R463, R464). -/
def State.effLevel (s : State) (y : Nat) : Nat :=
  let l := (s.yard y).lvl
  let f := s.yardFloor y
  if 6 < l || 6 < f then l
  else if s.mastSuspect (yardMast y) then max l f
  else if s.layerSuspect (y / 16) then max l (min (l + 1) f)
  else l

/-- The yards that may run at reef level 1 or above: those with state of their own, and every one while a layer is suspect. -/
def State.reefYards (s : State) : List Nat :=
  (if s.yards.any fun e => e.2.susp then List.range 256 else s.yards.map (·.1)).filter fun y => 1 ≤ s.effLevel y

/-- The admission unit's counter has come to a tick: the ticks since the last count as reef ticks of the rigs and running commands that hold
a core of a yard at level 1 or above (Tables 13-12, 13-13). DESIGN CHOICE: log entry 8. DESIGN CHOICE: log entry 91. -/
def State.seeTick (s : State) (now : Nat) : State :=
  let n := now - s.adm.now
  let s := if n = 0 then s else
    let ys := s.reefYards
    s.each (s.rigs.map (·.1)) fun s r =>
      let k := s.rig r
      if !ys.any k.inYard then s
      else s.setRig r { k with
        reefs := k.reefs + n
        running := k.running.map fun m =>
          if ys.any fun y => m.cores.extractLsb' (16 * y) 16 != 0 then { m with reef := m.reef + n } else m }
  s.setAdm { s.adm with now := max now s.adm.now }

/-- The arithmetic clock of a yard in MHz (Table 17-12). -/
def State.yardMhz (s : State) (y : Nat) : Nat :=
  let l := s.effLevel y
  levelMhz l + (if l = 0 then (s.yard y).boost else 0)

/-! ### The effective cap (R450) -/

/-- LIMIT: two converters have failed (R429). -/
def Pwr.limit (p : Pwr) : Bool := p.converters ≤ 2

/-- FRATED and WARNPCT of COOL_WARN_LVL, and MEN (Table 17-15). -/
def State.frated (s : State) : Nat := bits (s.reg 0x040020).toNat 43 32
/-- WARNPCT. -/
def State.warnPct (s : State) : Nat := bits (s.reg 0x040020).toNat 15 8
/-- MEN. -/
def State.meterOn (s : State) : Bool := bit (s.reg 0x040020).toNat 0

/-- The coolant limit in W (Table 17-6); in air-cooled mode the limit that a hot inlet lowers is 1,100 W (R473, R581). DEDUCED: log entry 97. -/
def State.coolLimit (s : State) : Rat :=
  let t := s.therm
  let base : Rat := if s.pwr.air then 1100 else if t.cut then 3400 * t.flow / ((60 * s.frated : Nat) / 100) else 3400
  if t.inhot then base * (1 - ((t.tin - 400 : Nat) : Rat) / 250) else base

/-- CAPEFF (R450). -/
def State.capEff (s : State) : Rat :=
  let p := s.pwr
  let c : Rat := p.cap
  let c := min c s.coolLimit
  if p.limit then min c 2500 else c

/-! ### Powering a yard on (R442, R443) -/

/-- The neighbours of a yard (R442). -/
def neighbours (y : Nat) : List Nat :=
  let m := y / 64
  let k := y / 16 % 4
  let i := y % 16
  (if 0 < i then [y - 1] else []) ++ (if i < 15 then [y + 1] else []) ++
    (if 0 < k then [64 * m + 16 * (k - 1) + i] else []) ++ (if k < 3 then [64 * m + 16 * (k + 1) + i] else [])

/-- The current a yard draws, in mA: its measured power at the supply of its operating point. DEDUCED: log entry 42. -/
def State.yardMa (s : State) (y : Nat) : Nat :=
  let k := s.yard y
  let mv := ((levelMv k.lvl : Nat) : Int) + k.off + (k.guard : Nat)
  if k.offForm then 0 else k.pow * 1000 / mv.toNat

/-- A yard draws at least 90 % of its effective ceiling. DEDUCED: log entry 42. -/
def State.nearLimit (s : State) (y : Nat) : Bool := !(s.yard y).offForm && decide (9 * s.yardCeiling y ≤ 10 * s.yardMa y)

/-- Yards of a mast that ramp. -/
def State.ramping (s : State) (m : Nat) : Nat := ((List.range 64).filter fun i => (s.yard (64 * m + i)).ramp = .ramping).length

/-- Step 1 of a power-on still holds a yard. -/
def State.heldBack (s : State) (y : Nat) : Bool :=
  4 ≤ s.ramping (yardMast y) ||
    (neighbours y).any fun n => (s.yard n).ramp = .ramping || (s.yard n).ramp = .ready

/-- Yards that wait under step 1 go on to step 2, in the order of their requests. -/
def State.settleWaits (s : State) : State :=
  s.each s.pwr.waits fun s y =>
    if (s.yard y).ramp = .wait && !s.heldBack y then s.setYard y { s.yard y with ramp := .ready } else s

/-- A yard may power on: off, bound, its supplies whole, and nothing keeps it furled. -/
def State.mayPowerOn (s : State) (y : Nat) : Bool :=
  let k := s.yard y
  k.offForm && k.ramp = .no && s.yardBound y && !k.dark && k.cells < 3 && (s.path y).st ≠ 2 && 2 ≤ s.pwr.converters && !s.pwr.emerg &&
    !(k.hot && k.cause = 3) && !s.pwr.off

end Sys2Proof.Machine
end

