-- ==== Sys2Proof/Machine/Admission.lean ====
section
/-! DEFINITION. Admission (12): lines passed, the checks of Table 12-3, costs (R340 to R345), and the admission algorithm
(R347). -/

namespace Sys2Proof.Machine

/-! ### CTR_CFG (Table 12-8) -/

/-- CTR_CFG. -/
def State.ctrCfg (s : State) : Nat := (s.reg 0x0C0000).toNat
/-- CMAX in ticks; 0 for no limit. -/
def State.cmax (s : State) : Nat := bits s.ctrCfg 63 48 * 12500
/-- HOSTTX. -/
def State.hosttx (s : State) : Nat := bits s.ctrCfg 39 32
/-- CPRE. -/
def State.cpre (s : State) : Bool := bit s.ctrCfg 1
/-- ADMIT. -/
def State.admitOn (s : State) : Bool := bit s.ctrCfg 0

/-! ### Operands, step 4 (R181, R366, R369, R370, R396, R486, R538) -/

/-- FLAGS: reserved bits, and CRIT agreeing with the opcode (R366, R367). -/
def CRec.flagCheck (r : CRec) : Option Fin' :=
  failIf (bits r.flags 6 2 ≠ 0 || r.crit != critOp r.op) (rejRes 1 0)

/-- The second line's reserved bytes. -/
def CRec.line2Check (r : CRec) : Option Fin' := if r.crit then r.rsvField 88 127 else none

/-- A range named by an address operand and a length operand (R339). -/
def State.rangeCheck (s : State) (r : Nat) (tiles : Bool) (al a n offA offN : Nat) : List (Option Fin') :=
  [failIf (a % al ≠ 0 || !s.inRig r tiles a 1) (rejRes offA 0), failIf (!s.inRig r tiles a n) (rejRes offN 0)]

/-- A range of derived length, reported at its address operand. -/
def State.derivedCheck (s : State) (r : Nat) (al a n off : Nat) : Option Fin' :=
  failIf (a % al ≠ 0 || !s.inRig r false a n) (rejRes off 0)

/-- COPY (R370). -/
def State.copyCheck (s : State) (r : CRec) : Option Fin' :=
  let a := r.u 24 8
  let b := r.u 32 8
  let n := r.u 40 8
  let g := r.rig
  firstSome [
    failIf (a % 64 ≠ 0 || !s.inRig g true a 1) (rejRes 24 0),
    failIf (b % 64 ≠ 0 || !s.inRig g true b 1) (rejRes 32 0),
    failIf (n % 64 ≠ 0 || !s.inRig g true a n || !s.inRig g true b n) (rejRes 40 0),
    r.rsvField 48 63]

/-- FILL (R370). -/
def State.fillCheck (s : State) (r : CRec) : Option Fin' :=
  let b := r.u 24 8
  let n := r.u 32 8
  firstSome [
    failIf (b % 64 ≠ 0 || !s.inRig r.rig true b 1) (rejRes 24 0),
    failIf (n % 64 ≠ 0 || !s.inRig r.rig true b n) (rejRes 32 0),
    r.rsvField 48 63]

/-- TABLE (R371, Table 13-11). -/
def State.tableCheck (s : State) (r : CRec) : Option Fin' :=
  let a := r.u 24 8
  let slot := r.u 32 1
  let n := r.u 33 1
  let m := r.u 34 1
  let fit := 1 ≤ n && n ≤ 16 && 1 ≤ m && m ≤ 32
  firstSome [
    s.derivedCheck r.rig 64 a (if fit then n * 512 * m else 1) 24,
    failIf (15 < slot) (rejRes 32 0),
    failIf (n = 0 || 16 < n || 16 < slot + n) (rejRes 33 0),
    failIf (m = 0 || 32 < m) (rejRes 34 0),
    failIf (1 < r.u 35 1) (rejRes 35 0),
    r.rsvField 36 63]

/-- PERF (R373). -/
def CRec.perfCheck (r : CRec) : Option Fin' := firstSome [failIf (r.u 24 8 % 64 ≠ 0) (rejRes 24 0), r.rsvField 32 63]

/-- The rig, if any, that holds every resource of a scrub range; the range lies wholly in HBM or in tiles (R486). -/
def State.scrubOwner (s : State) (a n : Nat) : Option (Option Nat) :=
  if n = 0 || 2 ^ 48 < a + n then none
  else
    let o := s.rigOfAddr a
    let same := (List.range ((a + n - 1) / 0x8000000 - a / 0x8000000 + 1)).all fun i =>
      let x := (a / 0x8000000 + i) * 0x8000000
      (match place a, place x with
        | .hbm, .hbm => true
        | .tile _ _, .tile _ _ => true
        | _, _ => false) && s.rigOfAddr x = o
    if same then some o else none

/-- SCRUB (R486, Table 18-5b): g is the rig of a rig stream. -/
def State.scrubCheck (s : State) (g : Option Nat) (r : CRec) : Option Fin' :=
  let a := r.u 24 8
  let n := r.u 32 8
  let one := s.scrubOwner a 1
  firstSome [
    failIf (a % 4096 ≠ 0 || one.isNone || (g.isSome && one ≠ some g)) (rejRes 24 0),
    failIf (n % 4096 ≠ 0 || (s.scrubOwner a n).isNone) (rejRes 32 0),
    failIf (r.u 40 8 % 32 ≠ 0) (rejRes 40 0),
    failIf (1 < r.u 48 1) (rejRes 48 0),
    r.rsvField 49 63]

/-- Query count, S, k_c, k_r and k_f of a SEARCH (Table 6-5). -/
def CRec.sq (r : CRec) : Nat := bits (r.u 48 1) 3 0 + 1
/-- S. -/
def CRec.ss (r : CRec) : Nat := r.u 52 2 + 1
/-- k_c. -/
def CRec.skc (r : CRec) : Nat := r.u 54 2 + 1
/-- k_r. -/
def CRec.skr (r : CRec) : Nat := r.u 56 2 + 1
/-- k_f. -/
def CRec.skf (r : CRec) : Nat := r.u 58 2 + 1

/-- SEARCH (R181). -/
def State.searchCheck (s : State) (r : CRec) : Option Fin' :=
  let mode := r.u 49 1
  let rr := r.u 40 8
  let g := r.rig
  firstSome [
    s.derivedCheck g 256 (r.u 24 8) 256 24,
    s.derivedCheck g 64 (r.u 32 8) (16 * r.sq * r.skr) 32,
    failIf (rr ≠ 0 && (rr % 8 ≠ 0 || !s.inRig g false rr 8)) (rejRes 40 0),
    failIf (15 < r.u 48 1) (rejRes 48 0),
    failIf (1 < mode) (rejRes 49 0),
    failIf (64 < r.u 50 1) (rejRes 50 0),
    r.rsvBytes 51 51,
    failIf (mode = 0 && 512 < r.ss) (rejRes 52 0),
    failIf (1024 < r.skc || (mode = 0 && r.ss < r.skc)) (rejRes 54 0),
    failIf (1024 < r.skr) (rejRes 56 0),
    failIf (1024 < r.skf || r.skr < r.skf) (rejRes 58 0),
    failIf (rr = 0 && r.u 60 2 ≠ 0) (rejRes 60 0),
    r.rsvBytes 62 63]

/-- The program of UPD_TABLE an UPDATE copies (R405): five words. -/
def State.updProg (s : State) (p : Nat) : List (BitVec 64) := (List.range 5).map fun i => s.reg (0x091000 + 0x40 * p + 8 * i)

/-- REDUCE (Table 14-4). -/
def State.reduceCheck (s : State) (r : CRec) : Option Fin' :=
  let g := r.rig
  let w := r.u 32 8
  let m := r.u 40 8
  let n := r.u 48 4
  let rsz := bits (r.u 55 1) 5 0
  let w16 := r.u 58 6
  let okN := 1 ≤ n && n ≤ 2 ^ 28
  let b := r.u 52 1
  let ports := r.u 54 1
  let start (a off : Nat) : Option Fin' := failIf (a % 64 ≠ 0 || !s.inRig g false a 1) (rejRes off 0)
  firstSome [
    failIf ((s.rig g).pahus = 0 && rsz ≠ 0) (rejRes 3 0),
    start (r.u 24 8) 24, start w 32, (if m = 0 then none else start m 40),
    failIf (!okN || !s.inRig g false (r.u 24 8) (128 * n) || !s.inRig g false w (128 * n) ||
      (m ≠ 0 && !s.inRig g false m (128 * n)) || (w16 ≠ 0 && s.inRig g false w16 1 && !s.inRig g false w16 (64 * n))) (rejRes 48 0),
    failIf (63 < b || 1 < bits b 5 4 || !((s.updProg (bits b 3 0)).getD 4 0).getLsbD 1) (rejRes 52 0),
    failIf (3 < r.u 53 1) (rejRes 53 0),
    failIf (63 < ports || 5 < bits ports 2 0 || 5 < bits ports 5 3 || (rsz = 0 && ports ≠ 0)) (rejRes 54 0),
    failIf (63 < r.u 55 1) (rejRes 55 0),
    failIf (rsz < r.u 56 1) (rejRes 56 0),
    (if w16 = 0 then none else start w16 58)]

/-- SEND and RECV: `at_` is the address operand's offset and `port` the place of the port's field (Table 14-4). -/
def State.moveCheck (s : State) (r : CRec) (at_ port : Nat) : Option Fin' :=
  let g := r.rig
  let n := r.u 40 8
  let p := r.u 54 1
  firstSome ([
    failIf ((s.rig g).pahus = 0) (rejRes 3 0),
    (if at_ = 24 then none else r.rsvBytes 24 31),
    failIf (r.u at_ 8 % 64 ≠ 0 || !s.inRig g false (r.u at_ 8) 1) (rejRes at_ 0),
    (if at_ = 32 then none else r.rsvBytes 32 39),
    failIf (n % 64 ≠ 0 || !s.inRig g false (r.u at_ 8) n) (rejRes 40 0),
    r.rsvBytes 48 52,
    failIf (3 < r.u 53 1) (rejRes 53 0),
    failIf (p ≠ bits p (port + 2) port * 2 ^ port || 5 < bits p (port + 2) port) (rejRes 54 0),
    r.rsvBytes 55 56, r.rsvBytes 58 63])

/-- BARRIER (Table 14-4). -/
def barrierCheck (r : CRec) : Option Fin' :=
  firstSome [
    r.rsvBytes 24 52, failIf (3 < r.u 53 1) (rejRes 53 0), r.rsvBytes 54 56, r.rsvBytes 58 63]

/-- UPDATE (R396). -/
def State.updateCheck (s : State) (r : CRec) : Option Fin' :=
  match bits (r.u 53 1) 1 0 with
  | 0 => s.reduceCheck r
  | 1 => s.moveCheck r 24 0
  | 2 => s.moveCheck r 32 3
  | _ => barrierCheck r

/-- SETCAP's reserved bytes and ranges (R448); the cap against the floor is judged after. DEDUCED: log entry 69. -/
def State.setcapCheck (s : State) (r : CRec) : Option Fin' :=
  let cap := r.u 24 4
  let fl := r.u 28 4
  let air := s.pwr.air
  firstSome [
    failIf ((cap = 0 && fl = 0) || (if air then 1100 else 3400) < cap) (rejRes 24 0),
    failIf (fl ≠ 0 && (fl < 800 || (if air then 1000 else 2400) < fl)) (rejRes 28 0),
    r.rsvField 32 63]

/-- KEYOP (R538, R388). -/
def State.keyopCheck (s : State) (r : CRec) : Option Fin' :=
  let b (i : Nat) : Nat := r.u i 1
  match b 24 with
  | 1 => firstSome [failIf (1 < b 25) (rejRes 25 0), failIf (1 < b 26) (rejRes 26 0), r.rsvBytes 27 63]
  | 2 => firstSome [
      failIf (63 < b 25 || b 25 = b 26 || s.casc.rank.toNat ≠ b 25) (rejRes 25 0),
      failIf (63 < b 26) (rejRes 26 0), failIf (b 27 = 0 || 64 < b 27) (rejRes 27 0), r.rsvBytes 28 63]
  | 3 => firstSome [failIf (5 < b 25) (rejRes 25 0), failIf (1 < b 26) (rejRes 26 0), r.rsvBytes 27 31]
  | _ => some (rejRes 24 0)

/-! ### RUN's blocks (R342, R344, R369) -/

/-- The declaration of Table 12-6. -/
structure Decl where
  cyc : Nat := 0
  halb : Nat := 0
  meshb : Nat := 0
  llcb : Nat := 0
  stayb : Nat := 0
  unitc : Nat := 0
  bars : Nat := 0
  held : Nat := 0
deriving DecidableEq, Repr

/-- A declaration from its bytes. -/
def declOf (bs : List Byte) : Decl :=
  ⟨field bs 0 8, field bs 8 8, field bs 16 8, field bs 24 8, field bs 32 8, field bs 40 4, field bs 44 2, field bs 46 2⟩

/-- What a RUN's blocks say: a rejection, or the cores, the groups and the declaration. -/
structure RunPlan where
  bad : Option Fin' := none
  cores : BitVec 4096 := 0
  groups : Tab (BitVec 4096) := []
  decl : Decl := {}

/-- Check a core-set block (R369). -/
def csetOf (own : BitVec 4096) (n : Nat) (bs : List Byte) : RunPlan :=
  let map (i : Nat) : BitVec 4096 := BitVec.ofNat 4096 (field bs (512 * i) 512)
  let c := map 0
  let gs := (List.range n).map (· + 1)
  if c == 0 || c &&& ~~~own != 0 || gs.any (fun g => map g &&& ~~~c != 0) then { bad := some (rejRes 40 0) }
  else { cores := c, groups := gs.foldl (fun t g => tset 0 t g (map g)) [] }

/-- Read a RUN's core-set block. -/
def State.runCset (s : State) (r : CRec) : Res RunPlan :=
  let own := (s.rig r.rig).cores
  let a := r.u 40 8
  let n := min 15 (r.u 56 1)
  if a = 0 then .ok s { cores := own }
  else if a % 512 ≠ 0 || !s.inRig r.rig false a (512 * (1 + n)) then .ok s { bad := some (rejRes 40 0) }
  else (s.feRead a (512 * (1 + n))).andThen fun s x =>
    .ok s (if x.2.isSome then { bad := some (rejRes 40 8) } else csetOf own n x.1)

/-- Read a RUN's cost declaration, in classes A and B. DEDUCED: log entry 33. -/
def State.runDecl (s : State) (r : CRec) (p : RunPlan) : Res RunPlan :=
  let a := r.u 48 8
  if !r.contract then .ok s p
  else if a = 0 then .ok s { p with bad := some (rejRes 48 0) }
  else if a % 64 ≠ 0 || !s.inRig r.rig false a 64 then .ok s { p with bad := some (rejRes 48 6) }
  else (s.feRead a 64).andThen fun s x =>
    .ok s (if x.2.isSome then { p with bad := some (rejRes 48 8) }
      else if field x.1 48 16 ≠ 0 then { p with bad := some (rejRes 48 6) }
      else { p with decl := declOf x.1 })

/-- RUN's step 4, by ascending operand offset. -/
def State.runCheck (s : State) (r : CRec) : Res RunPlan :=
  let e := r.u 24 8
  if e % 8 ≠ 0 || !s.inRig r.rig false e 8 then .ok s { bad := some (rejRes 24 0) }
  else
    (s.runCset r).andThen fun s p =>
      if p.bad.isSome then .ok s p
      else (s.runDecl r p).andThen fun s p =>
        .ok s { p with bad := firstSome [p.bad, failIf (15 < r.u 56 1) (rejRes 56 0), r.rsvField 57 63] }

/-! ### Costs (R340 to R345), in ns -/

/-- A quotient of bytes by a rate in bytes per ns; none when bytes meet a rate of zero. -/
def perRate (n : Nat) (rate : Rat) : Option Rat := if n = 0 then some 0 else if rate ≤ 0 then none else some (n / rate)

/-- A sum that no term makes unbounded. -/
def sumTerms (ts : List (Option Rat)) : Option Rat := ts.foldl (fun a t => match a, t with | some x, some y => some (x + y) | _, _ => none) (some 0)

/-- B(u) of Table 12-5 under a floor DL. -/
def unitNs (dl u : Nat) : Option Rat :=
  if u = 0 then some 0
  else if dl = 0 then none
  else
    let e : Rat := (u * 32 : Nat) / (dl : Rat)
    some (e + (ceilRat (e / 1730) * 220 : Nat))

/-- The ways a rig holds in the masts it must hold ways in: the smallest count; none for a rig with no region (R409). -/
def State.wayCount (s : State) (r : Nat) : Option Nat :=
  let k := s.rig r
  if k.regions == 0 then none
  else
    let wide := (List.range 384).any fun g => k.regions.getLsbD g && !(s.regMode g).getLsbD 0
    let masts := (List.range 4).filter fun m => wide || k.regions &&& homedOn m != 0
    some (masts.foldl (fun a m => min a (popcount (s.waysOf r m).toNat)) 16)

/-- The LLC rate of Table 12-5 in bytes per ns; a rig with no region costs no LLC term. -/
def State.llcNs (s : State) (r : Nat) (n : Nat) : Option Rat :=
  match s.wayCount r with
  | none => some 0
  | some w => perRate n (min ((w * 512 : Nat) / 160) (((s.rig r).hbm * 13100 : Nat) / 256))

/-- Own-halyard time: half rate when any of the cores has a halyard at half width (R252, R334). -/
def State.halNs (s : State) (cores : BitVec 4096) (n : Nat) : Option Rat :=
  let half := s.tiles.any fun e => e.2.half && cores.getLsbD e.1
  perRate n (if half then 32 else 64)

/-- A row, cross-yard or vertical link of a mast runs at half width (R490). -/
def State.meshHalf (s : State) (m : Nat) : Bool :=
  s.net.half.any fun k => [LinkKind.row, .cross, .vert].any fun t => linkBase t ≤ k && k < linkBase t + 4 * linksPerMast t &&
    (k - linkBase t) / linksPerMast t = m
/-- Mesh time: a flow's eighteenth of 80 GB/s, half of it while a mesh link of a mast in which the rig holds cores runs at half width (R311,
R334, R490). DEDUCED: log entry 94. -/
def State.meshNs (s : State) (r n : Nat) : Option Rat :=
  perRate n (if (List.range 4).any fun m => s.meshHalf m && (s.rig r).cores.extractLsb' (1024 * m) 1024 != 0 then 20 / 9 else 40 / 9)
/-- The fewest groups in service of a stay that is not down (R334, R491). -/
def State.stayGroups (s : State) : Nat :=
  ((List.range 4).map fun st => 16 - popcount (tget 0 s.net.out st).toNat).foldl (fun m g => if g = 0 then m else min m g) 16
/-- Stay time: the rig's share of 125 GB/s for each group in service of the stay with the fewest (R308, R334, R491). DEDUCED: log entry 94. -/
def State.stayNs (s : State) (r n : Nat) : Option Rat := perRate n (((s.rig r).stay * 125 * s.stayGroups : Nat) / 256)
/-- Cycles at the floor clock, in ns; FFLOOR 0 makes every cost unbounded (R451). -/
def cycNs (ff n : Nat) : Option Rat := if ff = 0 then none else some ((n * 1000 : Nat) / (ff : Rat))

/-- The cost of a RUN (R342). -/
def State.runCost (s : State) (r : Nat) (cores : BitVec 4096) (d : Decl) : Option Rat :=
  let f := s.admFloors r
  sumTerms [some 4500, some (f.sf * 100 : Nat), cycNs f.ff d.cyc, s.halNs cores d.halb, s.meshNs r d.meshb, s.llcNs r d.llcb,
    s.stayNs r d.stayb, unitNs f.dl d.unitc, some (d.held * 60 : Nat), some (d.bars * 1600 : Nat),
    some (if d.unitc = 0 then 0 else s.hosttx * 60 : Nat)]

/-- Merge levels for C cores (R345). -/
def mergeLevels (c : Nat) : Nat := ((List.range 4).find? fun l => c ≤ 16 ^ l).getD 3

/-- The cost of a SEARCH (R345, Table 12-7). -/
def State.searchCost (s : State) (r : CRec) : Option Rat :=
  let g := r.rig
  let k := s.rig g
  let f := s.admFloors g
  let q := r.sq
  let m := k.corpM
  let p := k.corpP
  let kc := r.skc
  let kr := r.skr
  let cy := cycNs f.ff
  let sb := 256 + 512 * q * m
  let common := [some (4500 + f.sf * 100 : Rat), s.llcNs g sb, perRate sb 80, cy (q * (8 + 4 * m)), s.halNs k.cores (8 * q * kc),
    s.llcNs g (16 * q * kr)]
  let byMode := if r.u 49 1 = 0 then
      [some (100 : Rat), unitNs f.dl (36 + ceilDiv (8 * p) 32), some 240, unitNs f.dl (64 * q), some (s.hosttx * 60 : Nat),
        s.halNs k.cores (r.ss * q * m), cy (q * ceilDiv (r.ss * m) 64 + 12), cy (q * (8 + ceilDiv r.ss 64 + ceilDiv kc 16))]
    else
      [s.halNs k.cores (16 * p * m), cy (q * ceilDiv (16 * p * m) 64 + 12),
        cy (ceilDiv (16 * p) 4096 * (q * (8 + ceilDiv (4096 + kc) 64 + ceilDiv kc 16)))]
  let level (n : Nat) : List (Option Rat) := [s.meshNs g (256 * n), cy (8 + ceilDiv (16 * n) 64 + ceilDiv kr 16), some 1600]
  let merges := (List.range (mergeLevels k.nc)).flatMap fun l => level (if l = 0 then min kc kr else kr)
  let rerank := if r.u 40 8 = 0 then [] else [some (1000 : Rat), cy (r.u 60 2 * 1024)]
  sumTerms (common ++ byMode ++ merges ++ rerank)

/-! ### The plan (R335, R347) -/

/-- Whether a waiting A or B command stands before another (R335). -/
def planBefore (x y : Cmd) : Bool :=
  x.d < y.d || (x.d = y.d && (x.r.t0 < y.r.t0 || (x.r.t0 = y.r.t0 && x.r.strm < y.r.strm)))

/-- Place a command in the order of R335. -/
def planInsert (x : Cmd) : List Cmd → List Cmd
  | [] => [x]
  | y :: t => if planBefore x y then x :: y :: t else y :: planInsert x t

/-- The abort point of a command (R331, R333). -/
def Cmd.abortAt (m : Cmd) : Nat := if m.moved then m.d + m.w else m.d - 1875

/-- The planned finish of a running A or B command (R347). -/
def Cmd.planned (m : Cmd) : Nat := if m.idle then m.r.t0 + m.w else m.disp + m.w

/-- The tick from which the rig is free: now plus rem of the running command; none when unbounded (R347). -/
def State.freeAt (s : State) (r now : Nat) : Option Nat :=
  match (s.rig r).running with
  | none => some now
  | some m =>
    if m.r.contract then some (if now < m.planned then m.planned else m.abortAt)
    else if s.cpre then some (now + 1875)
    else if (s.rig r).crig && s.cmax ≠ 0 then some (m.disp + s.cmax + 1875)
    else none

/-- Whether the commands after the new one keep their deadlines, from a finish time on. -/
def tailOk : Nat → List Cmd → Bool
  | _, [] => true
  | g, x :: t => g + x.w < x.d && tailOk (g + x.w) t

/-- fin(j) of R347. -/
def finAt (free w : Nat) (lq : List Cmd) (j : Nat) : Option Nat :=
  let f := free + ((lq.take j).map (·.w)).foldl (· + ·) 0 + w
  if tailOk f (lq.drop j) then some f else none

/-- Class minimum and maximum bound in ns (Table 12-1). -/
def classMin (c : Nat) : Nat := if c = 1 then 20000 else 1000000
/-- Class maximum. -/
def classMax (c : Nat) : Nat := if c = 1 then 2000000 else 4000000000

/-- REJ_BOUND with the earliest bound (R347). -/
def rejBound (e : Nat) : Fin' := ⟨0x10, BitVec.ofNat 64 e⟩

/-- The admission algorithm: none to accept, else the rejection (R347). -/
def State.feasible (s : State) (r : CRec) (w : Option Nat) : Option Fin' :=
  let g := r.rig
  let lq := (s.rig g).plan
  let lo := classMin r.cls
  let d := r.t0 + boundTicks (max r.bound lo)
  match w, s.freeAt g r.t0 with
  | some w, some free =>
    let p := (lq.filter fun x => x.d ≤ d).length
    let good := lo ≤ r.bound && (match finAt free w lq p with | some f => f < d | none => false)
    if good then none
    else
      let fins := (List.range (lq.length + 1)).filterMap (finAt free w lq)
      match fins.min? with
      | none => some (rejBound (2 ^ 64 - 1))
      | some f =>
        let e := max lo (ticksNs (f - r.t0 + 1))
        some (rejBound (if classMax r.cls < e then 2 ^ 64 - 1 else e))
  | _, _ => some (rejBound (2 ^ 64 - 1))

/-! ### Steps 1 to 3 and 5 to 7 (Table 12-3) -/

/-- Step 1 (R365, R408, R416). -/
def State.step1 (s : State) (r : CRec) : Option Fin' :=
  let sr := s.strmRig r.strm
  let ok := if sr = 0xFF then r.rig = 0xFF && (!listedOp r.op || mgmtOp r.op)
    else r.rig = sr && (s.rig sr).st = 1 && (!listedOp r.op || rigOp r.op)
  failIf (!ok) (rejRig sr)

/-- Step 2 (R325, R368). -/
def State.step2 (s : State) (r : CRec) : Option Fin' :=
  firstSome [
    failIf (!listedOp r.op || r.cls = 0 || 3 < r.cls || (r.cls ≠ 3 && r.op ≠ 1 && r.op ≠ 7)) (rejWhy 1),
    failIf (r.contract && !s.admitOn) (rejWhy 7)]

/-- Step 3. -/
def CRec.step3 (r : CRec) : Option Fin' := failIf (r.contract && classMax r.cls < r.bound) (rejWhy 2)

/-- Step 4 but for RUN, which reads its blocks. -/
def State.step4 (s : State) (r : CRec) : Option Fin' :=
  let g := if r.rig < 64 then some r.rig else none
  firstSome [
    r.flagCheck,
    match r.op with
    | 2 => s.copyCheck r
    | 3 => s.fillCheck r
    | 4 => s.scrubCheck g r
    | 6 => s.setcapCheck r
    | 7 => s.searchCheck r
    | 8 => r.rsvField 24 63
    | 9 => s.tableCheck r
    | 0xA => r.perfCheck
    | 0xB => s.keyopCheck r
    | 0xC => s.updateCheck r
    | 0xF => r.rsvField 24 63
    | _ => none,
    r.line2Check]

/-- Step 5 (R243, R335, R346). -/
def State.step5 (s : State) (r : CRec) : Option Fin' :=
  let k := s.rig r.rig
  let caching := (List.range 384).any fun g => k.regions.getLsbD g &&
    ((s.regMode g).getLsbD 1 || (match tget none s.llc.rstage g with | some m => m.getLsbD 1 | none => false))
  let held := (k.plan.length + match k.running with | some m => b2n m.r.contract | none => 0)
  firstSome [
    failIf (r.contract && caching) (rejWhy 3),
    failIf (r.contract && 32 ≤ held) (rejWhy 4),
    failIf (r.contract && r.op = 7 && k.corpM = 0) (rejWhy 5),
    failIf ((r.op = 1 || r.op = 7 || r.op = 9) && k.cores == 0) (rejWhy 9)]

/-- The lowest down core among a set. -/
def State.downOf (s : State) (cores : BitVec 4096) : Option Nat :=
  (s.cores.find? fun e => e.2.down && cores.getLsbD e.1).map (·.1)

/-- Step 6: the cores named, and those whose tiles a COPY, FILL or SCRUB range touches (R35). -/
def State.step6 (s : State) (r : CRec) (cores : BitVec 4096) : Option Fin' :=
  let ts := match r.op with
    | 2 => tilesOf (r.u 24 8) (r.u 40 8) ++ tilesOf (r.u 32 8) (r.u 40 8)
    | 3 => tilesOf (r.u 24 8) (r.u 32 8)
    | 4 => tilesOf (r.u 24 8) (r.u 32 8)
    | _ => []
  let downs := (s.downOf cores).toList ++ (ts.filter fun c => (s.core c).down)
  match downs.min? with
  | some c => some (finDown c)
  | none => none

/-- Place an accepted command with its rig (R335, R336, R337). -/
def State.enqueue (s : State) (r : CRec) (m : Cmd) : State :=
  let k := s.rig r.rig
  if r.contract then
    let m := { m with
      d := r.t0 + boundTicks r.bound
      idle := k.running.isNone && k.plan.isEmpty
      moved := !k.iv.isEmpty }
    let s := s.setAdm { s.adm with admits := s.adm.admits + 1 }
    let s := s.setRig r.rig { k with plan := planInsert m k.plan, crig := true }
    match k.running with
    | some x =>
      if !x.r.contract && s.cpre then s.stopRunning r.rig 0x0C else s
    | none => s
  else s.setRig r.rig { k with cq := k.cq ++ [{ m with moved := !k.iv.isEmpty }] }

/-- Steps 5 to 7 and the acceptance of a command of a rig. -/
def State.admitTo (s : State) (r : CRec) (m : Cmd) (w : Option Rat) : State :=
  match firstSome [s.step5 r, s.step6 r m.cores, if r.contract then s.feasible r (w.map nsTicks) else none] with
  | some f => s.conclude r f
  | none => s.enqueue r { m with r := r, w := (w.map nsTicks).getD 0 }

/-! ### Lines passed to the admission unit -/

/-- Take the first passed line off. -/
def State.popLine (s : State) : State := s.setAdm { s.adm with passed := s.adm.passed.drop 1 }

/-- Decide the first passed line when it is one of a row: its opcode and, by p, its form. -/
def State.withLine (s : State) (op : Nat) (p : CRec → Bool) (f : CRec → State → State) : Out :=
  match s.adm.passed with
  | r :: _ => if r.op = op && p r then .next (f r s.popLine) else .next s
  | [] => .next s

/-- Checks of steps 1 to 4 in order, without authentication or blocks. -/
def State.steps14 (s : State) (r : CRec) : Option Fin' := firstSome [s.step1 r, s.step2 r, r.step3, s.step4 r]

/-- The stream a passed line is taken from: the first with a line ready from the pointer on; none passes behind a FENCE
of its stream (R359, R372). -/
def State.nextStrm (s : State) : Option Nat :=
  (List.range 256).map (fun i => (s.adm.rr + i) % 256) |>.find? fun n =>
    (s.strm n).fetched ≠ [] && !(s.strm n).fence

/-- LINE_PASS: the synchroniser takes a line at a tick, at least 16 after the last (R327, R359). A line whose opcode or
sub-operation has no row is rejected at once (R365, R368, R396, R538). DEDUCED: log entry 33. -/
def execLinePass (now : Nat) (s : State) : Out :=
  let now := max now s.adm.now
  let ok := match s.adm.last with | some l => l + 16 ≤ now | none => true
  match s.nextStrm with
  | none => .next s
  | some n =>
    if !ok then .next s
    else
      let k := s.strm n
      match k.fetched with
      | [] => .next s
      | r :: rest =>
        let r := { r with t0 := now }
        let s := s.setStrm n { k with fetched := rest, fence := r.op = 8 }
        let s := s.seeTick now
        let s := s.setAdm { s.adm with last := some now, rr := (n + 1) % 256 }
        if listedOp r.op then .next (s.setAdm { s.adm with passed := s.adm.passed ++ [r] })
        else match firstSome [s.step1 r, s.step2 r] with
          | some f => .next (s.conclude r f)
          | none => .next s

end Sys2Proof.Machine
end

