-- ==== Sys2Proof/Machine/Ageing.lean ====
section
/-! DEFINITION. Ageing (R498 to R500): telltales, guard raises, and the margin plan. -/

namespace Sys2Proof.Machine

/-- Samples a yard keeps: 24 hours of one each 1 ms. -/
def sampleCap : Nat := 86400000

/-- TELLTALE_MEASUREMENT (R498): the figures of one measurement. -/
def execTelltaleMeasurement (y : YardId) (t : Telltale) (s : State) : Out :=
  let k := s.yard y
  let xs := k.samples ++ [t.slack]
  .next (s.setYard y { k with
    slack := t.slack, raw := t.raw, low := satTo 255 t.low, temp := t.temp, levels := t.levels
    samples := xs.drop (xs.length - sampleCap) })

/-- Place a number in an ascending list. -/
def insertInt (x : Int) : List Int → List Int
  | [] => [x]
  | y :: t => if x ≤ y then x :: y :: t else y :: insertInt x t

/-- The median; of an even count, the mean of the middle two. DEDUCED: log entry 48. -/
def median (xs : List Int) : Rat :=
  let l := xs.foldr insertInt []
  let n := l.length
  if n % 2 = 1 then (l.getD (n / 2) 0 : Int) else ((l.getD (n / 2 - 1) 0 + l.getD (n / 2) 0 : Int) : Rat) / 2

/-- The planned offset in mV for a median slack in ps (R500). -/
def planOffset (s : Rat) : Int := max (-20) (min 40 ((30 - s) / 2).ceil)

/-- The lowest level whose telltale slack at +40 mV is at least 30 ps (R500). -/
def planCeil (levels : List Int) : Option Nat := (List.range 7).find? fun l => 30 ≤ levels.getD l 0

/-- AGE_STAT's offset. -/
def ageStat : Nat := 0x0D0A00

/-- Set a bit of AGE_STAT: 2 GUARDHIT, 1 CHG. -/
def State.ageBit (s : State) (i : Nat) : State := s.setReg ageStat (s.reg ageStat ||| BitVec.twoPow 64 i)

/-- Retire a yard for ageing (R500): it runs at its floor level with +40 mV until its next mapping. -/
def State.retireYard (s : State) (y : Nat) : State :=
  let f := min 6 (s.yardFloor y)
  let s := s.setYard y { s.yard y with retired := true, off := 40, ceil := f, offNext := none, ceilNext := none }
  if (s.yard y).lvl < f then s.setLevel (yardId y) f false 0 else s

/-- Apply the plan's figures to a yard: raises at once, lowerings only when free to (R500). -/
def Yard.applyPlan (k : Yard) (free : Bool) (off : Int) (ceil : Nat) : Yard :=
  { k with
    off := if free || k.off ≤ off then off else k.off
    offNext := if free || k.off ≤ off then none else some off
    ceil := if free || k.ceil ≤ ceil then ceil else k.ceil
    ceilNext := if free || k.ceil ≤ ceil then none else some ceil }

/-- A yard's entry of the plan: offset and CEIL, lowerings that wait included (R500). -/
def Yard.planned (k : Yard) : Int × Nat := (k.offNext.getD k.off, k.ceilNext.getD k.ceil)

/-- Compute the plan of one yard; a yard without samples keeps its plan. CHG records a changed entry (R500).
DEDUCED: log entry 48. -/
def State.planYard (s : State) (included : Bool) (y : Nat) : State :=
  let k := s.yard y
  if k.samples = [] || k.retired then s
  else
    let off := planOffset (median k.samples)
    let f := s.yardFloor y
    let s' := match planCeil k.levels with
      | some c => if f < c then s.retireYard y
        else (s.setYard y (k.applyPlan (included || f = 7) off c)).keepTop y 0
      | none => if f = 7 then s.setYard y (k.applyPlan true off 6) else s.retireYard y
    if (s'.yard y).planned = k.planned then s' else s'.ageBit 1

/-- The lowest median of some yards, and its yard. -/
def State.worstYard (s : State) (ys : List Nat) : Option (Rat × Nat) :=
  ys.foldl (fun m y =>
    if (s.yard y).samples = [] then m
    else
      let x := median (s.yard y).samples
      match m with
      | some w => if x < w.1 then some (x, y) else m
      | none => some (x, y)) none

/-- A plan computation over some yards (R500): PLANS, WORST and WORSTY. -/
def State.marginPlan (s : State) (included : Bool) (ys : List Nat) : State :=
  let w := (s.reg ageStat).toNat
  let w := setBits w 63 48 (bits w 63 48 + 1)
  let w := match s.worstYard ys with
    | some x => setBits (setBits w 31 16 (x.1.floor % 65536).toNat) 15 8 x.2
    | none => w
  (s.setReg ageStat (BitVec.ofNat 64 w)).each ys fun s y => s.planYard included y

/-- Every yard. -/
def allYards : List Nat := List.range 256

/-- MARGIN_PLAN: each 24 hours (R500). -/
def execMarginPlan (s : State) : Out := .next (s.marginPlan false allYards)

/-- TELLTALE_GUARD_RAISE (R499): 5 mV more, up to +60 mV in all; at the limit for 100 µs the yard's cores are marked
down. -/
def execTelltaleGuardRaise (y : YardId) (limit : Bool) (s : State) : Out :=
  let k := s.yard y
  if k.off + k.guard < 60 then
    if limit then .next s
    else
      let s := s.setYard y { k with guard := min (k.guard + 5) (60 - k.off).toNat }
      .next ((s.ageBit 2).yardEvent y 3)
  else .next (if limit then s.markYard true y else s)

end Sys2Proof.Machine
end

