-- ==== Sys2Proof/Machine/BankEvents.lean ====
section
/-! DEFINITION. Bank-unit commands and events (10). A window access to the tile of a core that is down reaches nothing
(R35, R304). -/

namespace Sys2Proof.Machine

/-- A window access acts while the core is not down. -/
def State.onWindow (s : State) (c : Nat) (f : State → State) : Out := .next (if (s.core c).down then s else f s)

/-- A CMD write whose word is one of a given opcode; another word is no instance of the row. -/
def cmdRow (opc : Nat) (c : CoreId) (b : BankId) (w : BitVec 64) (s : State) : Out :=
  if cOpc w = opc then s.onWindow c fun s => s.bankCmd c b w else .fault .illFormed

/-- BANKMODE_WRITE (Table 10-1, R275). -/
def execBankmodeWrite (c : CoreId) (w : BitVec 64) (s : State) : Out := s.onWindow c fun s => s.bankModeWrite c w

/-- An access to a bank that was accepted before its BANKMODE write has not completed (R275). -/
def State.waitsFor (s : State) (c b : Nat) : Bool :=
  ((s.tile c).cq ++ (s.tile c).mq ++ (s.bank c b).held).any fun q => q.off / 0x800000 = b && q.before

/-- BANK_UNIT_MODE_EFFECT: once the accesses to the bank have completed (R275). -/
def execBankUnitModeEffect (c : CoreId) (b : BankId) (s : State) : Out :=
  let k := s.bank c b
  if k.pend = some true && !s.waitsFor c b then .next (s.setBank c b { k with unit := true, pend := none })
  else .next s

/-- BANK_NORMAL_MODE_EFFECT: a command held is stopped first, with ERR 0x04, and its owed refreshes are performed (R276, R298). -/
def execBankNormalModeEffect (c : CoreId) (b : BankId) (s : State) : Out :=
  let k := s.bank c b
  if k.pend ≠ some false || k.fin.isSome then .next s
  else
    let s := if k.run.isSome || k.queued.isSome then (s.dropQueued c b).stopRun c b else s
    if (s.bank c b).run.isSome then .next s
    else .next ((s.setBank c b { s.bank c b with unit := false, pend := none }).releaseBank c b)

/-- XPOP (R170, R279 to R285). -/
def execXpop (c : CoreId) (b : BankId) (w : BitVec 64) (s : State) : Out := cmdRow 1 c b w s
/-- I8DOT (R286). -/
def execI8dot (c : CoreId) (b : BankId) (w : BitVec 64) (s : State) : Out := cmdRow 2 c b w s
/-- SUMRED (R287). -/
def execSumred (c : CoreId) (b : BankId) (w : BitVec 64) (s : State) : Out := cmdRow 3 c b w s
/-- FILL of a bank unit (Table 10-6). -/
def execBankFill (c : CoreId) (b : BankId) (w : BitVec 64) (s : State) : Out := cmdRow 4 c b w s
/-- COPY of a bank unit (Table 10-6). -/
def execBankCopy (c : CoreId) (b : BankId) (w : BitVec 64) (s : State) : Out := cmdRow 5 c b w s
/-- TOPK32 (Table 10-6). -/
def execTopk32 (c : CoreId) (b : BankId) (w : BitVec 64) (s : State) : Out := cmdRow 6 c b w s
/-- CHAIN (R289 to R293). -/
def execChain (c : CoreId) (b : BankId) (w : BitVec 64) (s : State) : Out := cmdRow 7 c b w s
/-- BITSET (Table 10-6). -/
def execBitset (c : CoreId) (b : BankId) (w : BitVec 64) (s : State) : Out := cmdRow 8 c b w s

/-- BANK_UNIT_ABORT (R283). -/
def execBankUnitAbort (c : CoreId) (b : BankId) (s : State) : Out :=
  s.onWindow c fun s => (s.abortBank c b).releaseBank c b

/-- QUEUED_COMMAND_START (R280). -/
def execQueuedCommandStart (c : CoreId) (b : BankId) (s : State) : Out := .next ((s.settleBank c b).releaseBank c b)

/-- The unit of a bank can go on: it holds a command, is neither waiting, paused nor at a slice boundary, and its bank is
not under refresh. -/
def State.unitGoes (s : State) (c b : Nat) : Bool := (s.bank c b).busy && !(s.tile c).refr.getLsbD b && !s.pwr.emerg

/-- A chain member that only forwards has done so, whatever its bank's refresh and pauses (R291). -/
def State.forwards (s : State) (c b : Nat) : Bool :=
  match (s.bank c b).run with | some r => r.fwd && !r.waiting && (s.bank c b).fin.isNone | none => false

/-- BANK_UNIT_COMMAND_END: the rest of the work, and the end (R280, R298, R303). -/
def execBankUnitCommandEnd (c : CoreId) (b : BankId) (s : State) : Out :=
  if s.unitGoes c b || s.forwards c b then .next ((s.bankFinish c b).releaseBank c b) else .next s

/-- What a unit does at a safe point (R295, R297 to R300): a pause at the duty limit, a slice boundary when a refresh
must be performed, else at most eight held accesses. -/
def State.atSafePoint (s : State) (c b : Nat) : State :=
  let k := s.bank c b
  match k.run with
  | none => s.releaseBank c b
  | some r =>
    if k.fin.isSome then s
    else if k.abort then (s.stopRun c b).releaseBank c b
    else
    let due := k.owed ≠ 0 && (k.cut || (if cSl2 r.w then 2 ≤ k.owed else true))
    if (s.tile c).dutyHit then
      let s := s.setBank c b { k with paused := true }
      if k.owed ≠ 0 then s.startRefresh c b else s.releaseBank c b
    else if due then (s.setBank c b { k with slice := true }).startRefresh c b
    else
      ((s.setBank c b { k with cut := false }).serveHeld c b 8).serveTileQueues c

/-- SAFE_POINT: the unit has worked on the items before `upto` (R294 to R300). -/
def execSafePoint (c : CoreId) (b : BankId) (upto : Nat) (s : State) : Out :=
  if s.unitGoes c b then
    let pos := match (s.bank c b).run with | some r => r.pos | none => 0
    .next ((s.bankWork c b (upto - pos)).atSafePoint c b)
  else .next s

/-- CHAIN_STREAM_ARRIVAL (R290). -/
def execChainStreamArrival (c : CoreId) (b : BankId) (s : State) : Out := .next (s.chainArrive c b)

/-- CHAIN_BREAK (R293). -/
def execChainBreak (c : CoreId) (b : BankId) (s : State) : Out := .next (s.chainBroken c b)

end Sys2Proof.Machine
end

