-- ==== Sys2Proof/Machine/NetEvents.lean ====
section
/-! DEFINITION. Network and clock events (11): wires and lanes (R490, R491), router windows (R316 to R318), lost clocks
(R322). -/

namespace Sys2Proof.Machine

/-! ### Wires and lanes -/

/-- A link's direction passes its 8 spares: half width, a one-tick fault of its mast (R490, Table 12-2). DEDUCED: log entry 64. -/
def State.linkHalf (s : State) (l : Link) : State :=
  if s.net.half.contains (linkKey l) then s
  else
    let s : State := { s with net := { s.net with half := s.net.half ++ [linkKey l] } }
    s.faultTick (.netLost ⟨linkMast l % 4, Nat.mod_lt _ (by decide)⟩)

/-- FLIT_RETRANSMISSION: a flit CRC error on one wire in window `win` of the receiving router's counter; the flit is
sent again (R312) and the wire counted (R490). DEDUCED: log entry 64. -/
def execFlitRetransmission (l : Link) (dir : Fin 2) (wire win : Nat) (s : State) : Out :=
  if !linkOk l || linkWidth l.kind + 8 ≤ wire then .next s
  else
    let key := 2 * linkKey l + dir.val
    let w := tget {} s.net.links key
    let errs := if w.win = win then w.errs else []
    let n := tget 0 errs wire + 1
    let fails := n = 8 && !w.bad.contains wire
    let bad := if fails then w.bad ++ [wire] else w.bad
    let s : State := { s with net := { s.net with
      links := tset {} s.net.links key ⟨win, tset 0 errs wire n, bad⟩ } }
    if !fails then .next s
    else
      let s := s.recordFail 2 (4000000 + 4096 * key + wire)
      if bad.length ≤ 8 then .next s
      else if bad.length ≤ 8 + linkWidth l.kind / 2 then .next (s.linkHalf l)
      else
        let s := s.linkHalf l
        .next (({ s with net := { s.net with dead := s.net.dead ||| BitVec.twoPow 4 (linkMast l) } } : State).markMast (linkMast l))

/-! ### Stays (R491) -/

/-- The lane group of a lane: 256 data lanes in 16 groups, then one spare lane of each (R308). -/
def stayGroup (lane : Nat) : Nat := if lane < 256 then lane / 16 else lane - 256

/-- STAY_LANE_FAILED: the group's spare takes over, or with two failed lanes the group leaves service (R491). -/
def execStayLaneFailed (st : StayId) (dir : Fin 2) (lane : Fin 272) (s : State) : Out :=
  let key := 2 * st.val + dir.val
  let w := tget {} s.net.stays key
  if w.bad.contains lane.val then .next s
  else
    let bad := w.bad ++ [lane.val]
    let g := stayGroup lane.val
    let out := tget 0 s.net.out st.val
    let s : State := ({ s with net := { s.net with stays := tset {} s.net.stays key { w with bad := bad } } } : State).recordFail 3
      (272 * key + lane.val)
    if (bad.filter fun x => stayGroup x = g).length = 2 && !out.getLsbD g then
      let s : State := { s with net := { s.net with out := tset 0 s.net.out st.val (out ||| BitVec.twoPow 16 g) } }
      .next (((s.bumpGen).faultTick .stayLanes).raiseSrc (776 + st.val))
    else .next s

/-! ### Router windows (R316 to R318) -/

/-- Position index of landing u of mast m on L0 (R307). -/
def landingPos (m u : Nat) : Nat := 288 * (4 * m) + 18 * (4 * (u / 8) + 1 + u % 2) + 2 * (u % 8) + 1

/-- The landing nearest edge router e of a mast: of a stay endpoint, the landing of one of the step routers it attaches to, in column 7 or
in row 3; of a port router, of one of its two; of the front end, landing 0 (R307, R318, R585). DESIGN CHOICE: log entry 13. -/
def edgeLanding (m e : Nat) : Nat :=
  let n := (Config.nearLanding (16 * m + e)).val
  match e with
  | 0 => if endpoint m (clockwise m) = .stay m true then 8 * (n % 4) + 7 else 24 + n % 8
  | 1 => if endpoint m (anticlockwise m) = .stay m true then 8 * (n % 4) + 7 else 24 + n % 8
  | 4 => 0
  | _ => portLanding (match m, e with | 0, 2 => 0 | 0, _ => 1 | 1, 2 => 2 | 1, _ => 3 | 2, _ => 4 | _, 2 => 5 | _, _ => 6)

/-- The router of an edge index of Table 11-7, if any. -/
def edgeRouter (i : Nat) : Option Router :=
  let m := i / 16
  let e := i % 16
  let has (e : Nat) : Bool := e < 2 || e = 2 || (e = 3 && m ≠ 2) || (e = 4 && m = 0)
  if 64 ≤ i then none
  else if e < 8 then (if has e then some ⟨true, 128 + i⟩ else none)
  else if has (e - 8) && e ≤ 12 then some ⟨false, landingPos m (edgeLanding m (e - 8))⟩
  else none

/-- The edge index of a router: the lowest that names it. -/
def edgeIndex (r : Router) : Option Nat :=
  if r.step then (if 128 ≤ r.idx ∧ edgeRouter (r.idx - 128) = some r then some (r.idx - 128) else none)
  else if r.idx < 288 ∨ (1152 ≤ r.idx ∧ r.idx < 1440) ∨ (2304 ≤ r.idx ∧ r.idx < 2592) ∨ (3456 ≤ r.idx ∧ r.idx < 3744) then
    (List.range 64).find? fun i => edgeRouter i == some r
  else none

/-- Whether the device has a router. -/
def routerOk (r : Router) : Bool :=
  if r.step then r.idx < 128 || (128 ≤ r.idx && (edgeRouter (r.idx - 128)).isSome && r.idx < 192) else r.idx < 4608

/-- Whether a router has the link that DIR names (Table 11-6): a logic router its neighbours in the row, across yards, above and below, and
its core; a landing its up-link below; a step router its neighbours, its up-link, its slice and its attachments; another router its own
attachments alone. -/
def hasDir (r : Router) (d : Nat) : Bool :=
  if !r.step then
    let l := r.idx / 288 % 4
    let y := r.idx / 18 % 16
    let c := r.idx % 18
    match d with
    | 0 => c < 17
    | 1 => 0 < c
    | 2 => y < 15
    | 3 => 0 < y
    | 4 => l < 3
    | 5 => 0 < l || (List.range 32).any fun u => landingPos (r.idx / 1152) u = r.idx
    | 6 => true
    | _ => false
  else if 128 ≤ r.idx then 6 ≤ d
  else
    let m := r.idx / 32
    let u := r.idx % 32
    match d with
    | 0 => u % 8 < 7
    | 1 => 0 < u % 8
    | 2 => u / 8 < 3
    | 3 => 0 < u / 8
    | 5 => false
    | 7 => u % 8 = 7 || 3 = u / 8 || (m = 0 && u = 0) ||
        (List.range 7).any fun p => portMast p = m && (portStep p false = u || portStep p true = u)
    | _ => true

/-- The highest link percentage of a window. -/
def busiest (ls : List LinkLoad) : Nat := ls.foldl (fun m l => max m (max l.out l.inn)) 0

/-- ROUTER_WINDOW_END: the counts of the window, in percent, and the router's highest temperature in degrees (R316). -/
def execRouterWindowEnd (r : Router) (loads : List LinkLoad) (temp : Nat) (s : State) : Out :=
  if !routerOk r || loads.any (fun l => !hasDir r l.dir.val || 100 < l.out || 100 < l.inn || 100 < l.qmax) then .next s
  else
    let s : State := { s with net := { s.net with loads := (s.net.loads.filter fun e => e.1 ≠ r) ++ [(r, loads, temp)] } }
    match edgeIndex r with
    | none => .next s
    | some e =>
      if 90 ≤ busiest loads || 95 ≤ temp then
        .next (({ s with net := { s.net with hot := true, hotsel := e, hotcnt := satTo 0xFFFF (s.net.hotcnt + 1) } } : State).raiseSrc 13)
      else .next s

/-! ### Lost clocks (R322) -/

/-- CORE_PLL_LOSS: the yard's cores are down. -/
def execCorePllLoss (y : YardId) (s : State) : Out := .next ((s.markYard true y).yardEvent y 0)

/-- The mast of a yard, bounded. -/
def yardMast' (y : YardId) : MastId := ⟨y.val / 64, by omega⟩

/-- NETWORK_PLL_LOSS: the yard's routers hold every flit: a hold of Table 12-2. -/
def execNetworkPllLoss (y : YardId) (s : State) : Out :=
  if (s.yard y).netHold || (s.yard y).netDown then .next s
  else .next (((s.setYard y { s.yard y with netHold := true }).yardEvent y 0).faultBegin (.netHold (yardMast' y)))

/-- Whether another yard of the mast still holds. -/
def State.mastHolds (s : State) (m : Nat) : Bool := (List.range 64).any fun i => (s.yard (64 * m + i)).netHold

/-- NETWORK_PLL_RELOCK: the hold ends; a relock that fails takes the yard's cores and routers out. -/
def execNetworkPllRelock (y : YardId) (ok : Bool) (s : State) : Out :=
  if !(s.yard y).netHold then .next s
  else
    let s := s.setYard y { s.yard y with netHold := false, netDown := !ok }
    let s := if s.mastHolds (yardMast y) then s else s.faultEnd (.netHold (yardMast' y))
    if ok then .next s
    else .next ((s.markYard false y).faultTick (.netLost (yardMast' y)))

/-- SPREADER_REFERENCE_LOSS: the mast's PLLs hold their frequency; a device event and a fault of the mast. -/
def execSpreaderReferenceLoss (m : MastId) (s : State) : Out :=
  let s : State := { s with net := { s.net with refLost := s.net.refLost ||| BitVec.twoPow 4 m.val } }
  .next ((s.raiseSrc (8 + m.val)).faultTick (.spreader m))

end Sys2Proof.Machine
end

