-- ==== Sys2Proof/Machine/Dma.lean ====
section
/-! DEFINITION. The DMA and halyard instructions (R99 to R102, R128): their issue, and what their operations do. -/

namespace Sys2Proof.Machine

/-! ### What the operations do -/

/-- Scale bytes of a companion array in linear order (R99). -/
def Desc.companion (e : Desc) : List Elem := e.elems

/-- The pairs DMA.CP copies, in order: elements, with each block's scale byte before its block under SCL 01, and the
companion arrays after them under SCL 10 (R99; which of the two comes first under SCL 10 is a DESIGN CHOICE, log entry 77).
DESIGN CHOICE: log entry 77. -/
def copyPairs (src src1 dst dst1 : Desc) : List (Elem × Elem) :=
  if src.scl = 1 then
    (List.range (src.count / 32)).flatMap fun b =>
      (src.scale b, dst.scale b) :: (List.range 32).map fun i => (src.el (32 * b + i), dst.el (32 * b + i))
  else
    List.zip src.elems dst.elems ++ (if src.scl = 2 then List.zip src1.companion dst1.companion else [])

/-- DMA.CP (R99). -/
def State.runDmaCp (s : State) (c : Nat) (o : Op) : Res Unit :=
  s.copyElems c .any .any 10 (copyPairs o.da o.da1 o.db o.db1)

/-- The bytes of a skewed block with every bit that holds no element zero (R127, R128). -/
def skewImage (base n : Nat) (es : List (Elem × Nat)) : List Byte :=
  leBytes n (es.foldl (fun v e => setBits v (8 * (e.1.a.toNat - base) + e.1.bit + e.1.w - 1) (8 * (e.1.a.toNat - base) + e.1.bit) e.2) 0)

/-- The bytes of a block, as elements of one byte each, ascending. -/
def byteElems (base n : Nat) : List Elem := (List.range n).map fun i => ⟨((base + i : Nat) : Int), 0, 8⟩

/-- DMA.SKEW (R128): the source is read in order, then all T × SB bytes of the block are written, zeros included, then the scales. A
source element that faults leaves the elements before it written and nothing else (R72). DESIGN CHOICE: log entry 77. -/
def State.runDmaSkew (s : State) (c : Nat) (o : Op) : Res Unit :=
  match shapeFor o.db.e1 o.db.e2 with
  | none => .ok s ()
  | some sh =>
    (s.readFrom c .any 10 o.da.elems).andThen fun s x =>
      let n := slotCount o.db.fmt o.db.e0 sh * slotBytes o.db.fmt sh
      let new := List.zip o.db.elems x.1
      let img := skewImage o.db.base n new
      (match x.2 with
        | some e => (s.writeElems c .locker new).andThen fun s _ => .fault s e
        | none =>
          if (byteElems o.db.base n).all (s.elemOk c .locker) then s.writePieces c 0 o.db.base img
          else s.writeElems c .locker (List.zip (byteElems o.db.base n) (img.map BitVec.toNat))).andThen fun s _ =>
        let scales := if o.da.scl = 1 then (List.range (o.da.count / 32)).map o.da.scale
          else if o.da.scl = 2 then o.da1.companion else []
        s.copyElems c .any .locker 10 (List.zip scales o.db1.companion)

/-- Reduce one element or record at its destination (R99, R234). -/
def State.reduceAt (s : State) (c a : Nat) (r : Red) : Res Unit :=
  (s.redDo { who := whoCore c, cls := 4, a := a, op := .red r }).andThen fun s u =>
    if u then .fault s 10 else .ok (s.setCore c ((s.core c).dropL1Range a (4 * r.src.length))) ()

/-- Reduce values at their destinations, one by one. -/
def State.redValues (s : State) (c : Nat) (op : Fin 4) (int : Bool) : List (Elem × Nat) → Res Unit
  | [] => .ok s ()
  | (y, v) :: t =>
    if !s.elemOk c .hbm y then .fault s 5
    else (s.reduceAt c y.a.toNat ⟨op, int, [BitVec.ofNat 32 v]⟩).andThen fun s _ => s.redValues c op int t

/-- RED.LLC for ADD, MAX, MIN: element by element, a run of neighbouring source elements read as one request where it shares no byte
with its destinations (R99, R100). -/
def State.redElems (s : State) (c : Nat) (op : Fin 4) (int : Bool) : List (List (Elem × Elem)) → Res Unit
  | [] => .ok s ()
  | g :: gs =>
    (if apart (g.map (·.1)) (g.map (·.2)) then
      (s.readFrom c .any 10 (g.map (·.1))).andThen fun s x =>
        (s.redValues c op int (List.zip (g.map (·.2)) x.1)).andThen fun s _ => s.orFault x.2
    else
      (resList (fun s p => (s.readElem c .any 0 10 p.1).andThen fun s v => s.redValues c op int [(p.2, v)]) s g).andThen fun s _ =>
        .ok s ()).andThen fun s _ => s.redElems c op int gs

/-- A destination record whose elements are spread by a stride is read, combined and written within one command. -/
def State.redGather (s : State) (c : Nat) (r : Red) (ys : List Elem) : Res Unit :=
  (resList (fun s e => s.readElem c .hbm 4 10 e) s ys).andThen fun s ds =>
    let ws := redCombine r (ds.map (BitVec.ofNat 32))
    s.writeElems c .hbm (List.zip ys (ws.map (·.toNat)))

/-- RED.LLC in LSE mode: record by record (R236). -/
def State.redRows (s : State) (c : Nat) (o : Op) : Nat → Nat → Res Unit
  | _, 0 => .ok s ()
  | row, n + 1 =>
    let e0 := o.da.e0
    let xs := (List.range e0).map fun i => o.da.el (row * e0 + i)
    let ys := (List.range e0).map fun i => o.db.el (row * e0 + i)
    (s.readElems c .any 10 xs).andThen fun s vs =>
      let line := (ys.headD ⟨0, 0, 32⟩).a / 1024
      if !(ys.all fun y => s.elemOk c .hbm y) || !(ys.all fun y => y.a / 1024 == line) then .fault s 5
      else
        let r : Red := ⟨3, false, vs.map (BitVec.ofNat 32)⟩
        (if o.db.s0 = 4 then s.reduceAt c (ys.headD ⟨0, 0, 32⟩).a.toNat r else s.redGather c r ys).andThen fun s _ =>
          s.redRows c o (row + 1) n

/-- RED.LLC (R99, R236). -/
def State.runRed (s : State) (c : Nat) (o : Op) (op : Fin 4) : Res Unit :=
  if op.val = 3 then s.redRows c o 0 o.da.rows
  else s.redElems c op (o.da.fmt == 3) (runsBy (fun p q => p.1.joins q.1 && p.2.joins q.2) (List.zip o.da.elems o.db.elems))

/-- DEAD on granules from g, n of them (R101, R229): a granule elsewhere than HBM or the own tile ends with 0x05. It waits until the
host's copies of the granule are gone (R242). -/
def State.deadGrans (s : State) (c : Nat) : Nat → Nat → Res Unit
  | _, 0 => .ok s ()
  | g, n + 1 =>
    s.spending c fun s =>
    let a := 4096 * g
    if 2 ^ 48 ≤ a || !s.mayAddr c a then .fault s 5
    else
      match place a with
      | .hbm =>
        let s := s.meetDirs a 4096
        let sn := (s.llc.dir.filter fun e => e.line / 64 = g).map fun e => (e.line, true)
        if sn ≠ [] || s.snoopedFirst g || s.llc.heldG.contains g then .wait sn
        else
          let s := (s.deadDrop g).deadAck g
          (s.setCore c ((s.core c).dropL1Range a 4096)).deadGrans c (g + 1) n
      | .tile m o =>
        if m ≠ c then .fault s 5
        else if !s.tileOpen m o false then .wait []
        else ((s.emptyGran a .dead).setCore c ((s.core c).dropL1Range a 4096)).deadGrans c (g + 1) n
      | _ => .fault s 5

/-- DEAD over [RA, RA + RB) (R101). -/
def State.runDead (s : State) (c : Nat) (o : Op) : Res Unit :=
  let g := ceilDiv o.ra.toNat 4096
  s.deadGrans c g ((o.ra.toNat + o.rb.toNat) / 4096 - g)

/-- HAL.RD (R102); of a block-scaled format the elements alone are copied: DESIGN CHOICE: log entry 77. -/
def State.runHalRd (s : State) (c : Nat) (o : Op) : Res Unit := s.copyElems c .tile .locker 9 (List.zip o.da.elems o.db.elems)
/-- HAL.WR (R102), as HAL.RD. DESIGN CHOICE: log entry 77. -/
def State.runHalWr (s : State) (c : Nat) (o : Op) : Res Unit := s.copyElems c .locker .tile 9 (List.zip o.da.elems o.db.elems)

/-! ### Checks at issue (Table 3-9) -/

/-- Equal counts and element sizes. -/
def sameShape (x y : Desc) : Bool := x.count == y.count && fmtW x.fmt == fmtW y.fmt

/-- The checks of DMA.CP. -/
def dmaCpOk (k : Core) (c : Nat) (f : FmtE) : Bool :=
  let x := k.rd f.da.toNat
  let y := k.rd f.db.toNat
  k.dOk c f.da.toNat anyFmt && k.dOk c f.db.toNat anyFmt && sameShape x y &&
    ((!fmtScaled x.fmt && !fmtScaled y.fmt) || (x.fmt == y.fmt && x.scl == y.scl))

/-- Formats the skewed layout is given for (Table 4-1). DEDUCED: log entry 22. -/
def matrixFmts : List Nat := [1, 6, 7, 8, 9, 10, 11, 12, 13]

/-- The checks of DMA.SKEW (R128); E3 other than 1, of which Table 4-2 says nothing, stops with 0x08 as extents that fit no row:
DESIGN CHOICE: log entry 77. DEDUCED: log entry 22. -/
def dmaSkewOk (k : Core) (c : Nat) (f : FmtE) : Bool :=
  let x := k.rd f.da.toNat
  let y := k.rd f.db.toNat
  k.dOk c f.da.toNat matrixFmts && k.dOk c f.db.toNat matrixFmts && !x.skw && y.skw && x.fmt == y.fmt &&
    x.e0 == y.e0 && x.e1 == y.e1 && x.e2 == y.e2 && x.e3 == y.e3 && y.e3 == 1 && (shapeFor y.e1 y.e2).isSome &&
    (!fmtScaled x.fmt || (y.scl == 2 && inLocker c (k.rd (f.db.toNat + 1)).base))

/-- The checks of RED.LLC (Table 3-9, R236). -/
def redOk (k : Core) (c : Nat) (f : FmtE) : Bool :=
  let x := k.rd f.da.toNat
  let y := k.rd f.db.toNat
  let lse := bits f.x20.toNat 1 0 == 3
  k.dOk c f.da.toNat [3, 5] && k.dOk c f.db.toNat [3, 5] && x.count == y.count && x.fmt == y.fmt &&
    (!lse || (x.fmt == 5 && 17 ≤ x.e0 && x.e0 ≤ 256 && y.e0 == x.e0))

/-- The checks of HAL.RD and HAL.WR (Table 3-9). -/
def halOk (k : Core) (c : Nat) (f : FmtE) : Bool :=
  k.dOk c f.da.toNat anyFmt && k.dOk c f.db.toNat anyFmt && sameShape (k.rd f.da.toNat) (k.rd f.db.toNat)

/-- Unused fields of a two-descriptor engine instruction. -/
def twoDescBad (f : FmtE) : Bool := f.dc != 0 || f.ra != 0 || f.rb != 0 || f.x20 != 0

/-! ### Issue -/

/-- DMA.CP (R99). -/
def execDmaCp (c : CoreId) (f : FmtE) (s : State) : Out :=
  .next (s.issueE c (.dmaCp c f) .dma f (twoDescBad f) (fun k => dmaCpOk k c f) id)
/-- DMA.SKEW (R128). -/
def execDmaSkew (c : CoreId) (f : FmtE) (s : State) : Out :=
  .next (s.issueE c (.dmaSkew c f) .dma f (twoDescBad f) (fun k => dmaSkewOk k c f) id)
/-- RED.LLC (R99). -/
def execRedLlc (c : CoreId) (f : FmtE) (s : State) : Out :=
  .next (s.issueE c (.redLlc c f) .dma f (f.dc != 0 || f.ra != 0 || f.rb != 0 || 4 ≤ f.x20.toNat) (fun k => redOk k c f) id)
/-- DEAD (R101). -/
def execDead (c : CoreId) (f : FmtE) (s : State) : Out :=
  .next (s.issueE c (.dead c f) .dma f (f.da != 0 || f.db != 0 || f.dc != 0 || f.x20 != 0) (fun _ => true) id)
/-- HAL.RD (R102). -/
def execHalRd (c : CoreId) (f : FmtE) (s : State) : Out :=
  .next (s.issueE c (.halRd c f) .hal f (twoDescBad f) (fun k => halOk k c f) id)
/-- HAL.WR (R102). -/
def execHalWr (c : CoreId) (f : FmtE) (s : State) : Out :=
  .next (s.issueE c (.halWr c f) .hal f (twoDescBad f) (fun k => halOk k c f) id)

end Sys2Proof.Machine
end

