-- ==== Sys2Proof/Machine/Matrix.lean ====
section
/-! DEFINITION. The matrix array (R103 to R105, 04): MXLOAD, MMA, MMA.T, ACC.CLR and ACC.RD. -/

namespace Sys2Proof.Machine

/-! ### Fields of MMA and MMA.T (R103) -/

/-- FMT, X20[25:22]. -/
def mFmt (f : FmtE) : Nat := bits f.x20.toNat 19 16
/-- SHP, X20[21:19]. -/
def mShp (f : FmtE) : Nat := bits f.x20.toNat 15 13
/-- CLR, X20[18]. -/
def mClr (f : FmtE) : Bool := f.x20.getLsbD 12
/-- The accumulator bank, RA[1:0]. -/
def mBank (f : FmtE) : Nat := bits f.ra.toNat 1 0
/-- The descriptor format of a FMT code (R103). -/
def mFormat (n : Nat) : Nat := [0x08, 0x09, 0x01, 0x0A, 0x0B, 0x0C, 0x0D, 0x06, 0x07].getD n 0

/-! ### Element values (R129, R131) -/

/-- The value of an element of a format. -/
def decElem (fmt v : Nat) : FV :=
  match fmt with
  | 0x01 => ofInt (BitVec.ofNat 8 v).toInt
  | 0x06 => decodeIeee 8 7 v
  | 0x07 => decodeIeee 5 10 v
  | 0x08 => decodeE4M3 v
  | 0x09 => decodeIeee 5 2 v
  | 0x0A => decodeMini 2 1 v
  | 0x0B => decodeMini 2 1 v
  | 0x0C => decodeMini 3 2 v
  | _ => decodeMini 2 3 v

/-- The exact product of two elements; an INT8 product is an integer (R129). -/
def prodElem (fmt x y : Nat) : FV :=
  if fmt = 1 then ofInt ((BitVec.ofNat 8 x).toInt * (BitVec.ofNat 8 y).toInt) else (decElem fmt x).mul (decElem fmt y)

/-- Add an exact value to an FP32 accumulator with one rounding. -/
def accAdd (a : BitVec 32) (x : FV) : BitVec 32 := encF32 ((decF32 a).add x)

/-- The exact sum of several values; the empty sum is +0. -/
def sumFV : List FV → FV
  | [] => ofInt 0
  | [x] => x
  | x :: y :: t => (sumFV (y :: t)).add x

/-- The scale of a block: 2^(Xa + Xw - 254), NaN for the code 0xFF (R129, R131). -/
def blockScale (xa xw : Nat) : FV := if xa = 0xFF ∨ xw = 0xFF then .nan else .fin false (pow2 ((xa : Int) + xw - 254))

/-- The accumulation of one bank element over a padded depth (R125, R129, R130): products of the moving element
`a kk` and the stored element `w kk`; for block-scaled formats block sums times scales `sa b`, `sw b`, a block past
the moving depth k contributing zero (R120), which is added as +0: DESIGN CHOICE: log entry 76. -/
def accumulate (fmt kp k : Nat) (acc : BitVec 32) (a w : Nat → Nat) (sa sw : Nat → Nat) : BitVec 32 :=
  if fmtScaled fmt then
    (List.range (kp / 32)).foldl (fun acc b =>
      if k ≤ 32 * b then accAdd acc (ofInt 0)
      else accAdd acc ((sumFV ((List.range 32).map fun i => prodElem fmt (a (32 * b + i)) (w (32 * b + i)))).mul
        (blockScale (sa b) (sw b)))) acc
  else if fmt = 0x0A then
    (List.range (kp / 2)).foldl (fun acc u =>
      accAdd acc ((prodElem fmt (a (2 * u)) (w (2 * u))).add (prodElem fmt (a (2 * u + 1)) (w (2 * u + 1))))) acc
  else (List.range kp).foldl (fun acc kk => accAdd acc (prodElem fmt (a kk) (w kk))) acc

/-! ### Banks -/

/-- The bank has been written. -/
def Core.bankWritten (k : Core) (n : Nat) : Bool := k.accW.getLsbD n
/-- Set every element of a bank to +0. -/
def Core.zeroBank (k : Core) (n : Nat) : Core :=
  { k with acc := tclear (fun i => 1024 * n ≤ i && i < 1024 * n + 1024) k.acc }
/-- Mark a bank written. -/
def Core.markBank (k : Core) (n : Nat) : Core := { k with accW := k.accW ||| BitVec.twoPow 4 n }
/-- An unwritten bank is read as zeros and raises the counted event (R71, R548). -/
def State.readBank (s : State) (c n : Nat) : State :=
  if (s.core c).bankWritten n then s
  else
    let s := s.setCore c ((s.core c).zeroBank n)
    match s.rigOfCore c with
    | some r => s.rigCause r causeAcc
    | none => s

/-- A bank as an MMA or MMA.T takes it: cleared or accumulated onto, and marked written (R126). -/
def State.openBank (s : State) (c n : Nat) (clr : Bool) : State :=
  let s := if clr then s.setCore c ((s.core c).zeroBank n) else s.readBank c n
  s.setCore c ((s.core c).markBank n)

/-- Elements of a bank given by row and column take new values, each from its own. -/
def Core.mapBank (k : Core) (n : Nat) (cells : List (Nat × Nat)) (g : BitVec 32 → Nat → Nat → BitVec 32) : Core :=
  cells.foldl (fun k x => k.wa n x.1 x.2 (g (k.ra n x.1 x.2) x.1 x.2)) k

/-! ### What the operations do -/

/-- Store row kk of store column j (R122). -/
def Core.storeAt (k : Core) (kk j : Nat) : Nat := (tget 0 k.store (64 * kk + j)).toNat
/-- The scale of block b of store column j. -/
def Core.scaleAt (k : Core) (b j : Nat) : Nat := (tget 0 k.scale (64 * b + j)).toNat

/-- The elements MXLOAD takes in order, each with its place in the store (R122). -/
def State.loadStore (s : State) (c : Nat) (d : Desc) : List Nat → Res Unit
  | [] => .ok s ()
  | n :: ns =>
    (s.readElem c .locker 0 9 (d.el n)).andThen fun s v =>
      let k := s.core c
      let at_ := 64 * (n % d.e0) + n / d.e0
      (s.setCore c { k with store := tset 0 k.store at_ (BitVec.ofNat 16 v) }).loadStore c d ns

/-- The scale bytes MXLOAD takes, each beside its block. -/
def State.loadScales (s : State) (c per : Nat) : List (Nat × Elem) → Res Unit
  | [] => .ok s ()
  | (n, e) :: es =>
    (s.readElem c .locker 0 9 e).andThen fun s v =>
      let k := s.core c
      (s.setCore c { k with scale := tset 0 k.scale (64 * (n % per) + n / per) (BitVec.ofNat 8 v) }).loadScales c per es

/-- MXLOAD (R121, R122): the positions it does not write read as zero. -/
def State.runMxload (s : State) (c : Nat) (o : Op) : Res Unit :=
  let d := o.da
  let s := s.setCore c { s.core c with store := [], scale := [], ks := d.e0, mxT := false }
  (s.loadStore c d (List.range d.count)).andThen fun s _ =>
    let n := d.count / 32
    if d.scl = 0 then .ok s ()
    else s.loadScales c (d.e0 / 32) ((List.range n).map fun b => (b, if d.scl = 1 then d.scale b else o.da1.el b))

/-! The moving operand is taken row by row of dimension 0, element by element (R87), with each block's companion scale before the block
(DESIGN CHOICE, log entry 76); what stands before a faulting element is performed, as far as whole steps go (R72, R129). -/

/-- The elements of row n of a moving operand with their scales, in the order they are taken. DESIGN CHOICE: log entry 76. -/
def movingRow (d e : Desc) (n : Nat) : List Elem :=
  if d.scl = 2 then
    (List.range (d.e0 / 32)).flatMap fun b =>
      e.el (d.e0 / 32 * n + b) :: (List.range 32).map fun i => d.el (d.e0 * n + 32 * b + i)
  else (List.range d.e0).map fun i => d.el (d.e0 * n + i)

/-- Element kk among the values of a moving row; +0 where there is none. -/
def movingVal (d : Desc) (vs : List Nat) (kk : Nat) : Nat :=
  if d.scl = 2 then vs.getD (33 * (kk / 32) + 1 + kk % 32) 0 else vs.getD kk 0

/-- Scale code of block b among the values of a moving row. -/
def movingScale (d : Desc) (vs : List Nat) (b : Nat) : Nat := if d.scl = 2 then vs.getD (33 * b) 0 else 0

/-- Reduction indices whose products are added at once: a block, a pair, or one (R129). -/
def stepUnit (f : Nat) : Nat := if fmtScaled f then 32 else if f = 0x0A then 2 else 1

/-- The depth that the values taken of a moving row perform: all of it with its padding, or the whole steps before a fault. -/
def movingDepth (d : Desc) (full : Nat) (vs : List Nat) (fault : Option Nat) : Nat :=
  let m := if d.scl = 2 then vs.length / 33 * 32 else vs.length
  if fault.isNone then full else m / stepUnit d.fmt * stepUnit d.fmt

/-- The bank elements that moving row (i1, i2) feeds (Table 4-2). -/
def Shape.cells (sh : Shape) (i1 i2 : Nat) : List (Nat × Nat) :=
  let js := match sh with | .p4 => (List.range 16).map (16 * (i2 % 2) + ·) | _ => List.range 32
  js.map fun j => (sh.rowOf i1 i2, j)

/-- The bank elements of a shape that no row of a moving operand feeds (R125). -/
def Shape.unfed (sh : Shape) (d : Desc) : List (Nat × Nat) :=
  ((List.range sh.rows).filter fun r => d.e1 ≤ (sh.source r 0).1).flatMap fun r => (List.range 32).map fun j => (r, j)

/-- What an MMA adds to bank elements from the values of one moving row (R125). -/
def Core.mmaCells (k : Core) (f : FmtE) (d : Desc) (sh : Shape) (kp : Nat) (vs : List Nat) (cells : List (Nat × Nat)) : Core :=
  k.mapBank (mBank f) cells fun acc r j =>
    accumulate d.fmt kp d.e0 acc (movingVal d vs) (fun kk => k.storeAt kk (sh.storeCol r j)) (movingScale d vs)
      (fun b => k.scaleAt b (sh.storeCol r j))

/-- The moving rows of an MMA, in order. -/
def State.mmaRows (s : State) (c : Nat) (o : Op) (f : FmtE) (sh : Shape) : List Nat → Res Unit
  | [] => .ok (s.setCore c ((s.core c).mmaCells f o.da sh (kPad o.da.fmt o.da.e0) [] (sh.unfed o.da))) ()
  | n :: ns =>
    (s.readTo c .locker 9 (movingRow o.da o.da1 n)).andThen fun s x =>
      let kp := movingDepth o.da (kPad o.da.fmt o.da.e0) x.1 x.2
      let s := s.setCore c ((s.core c).mmaCells f o.da sh kp x.1 (sh.cells (n % o.da.e1) (n / o.da.e1)))
      match x.2 with
      | some e => .fault s e
      | none => s.mmaRows c o f sh ns

/-- MMA (R125, R126). -/
def State.runMma (s : State) (c : Nat) (o : Op) (f : FmtE) : Res Unit :=
  match shapeOf (mShp f) with
  | none => .ok s ()
  | some sh =>
    ((s.setCore c { s.core c with mxT := false }).openBank c (mBank f) (mClr f)).mmaRows c o f sh (List.range o.da.rows)

/-- The banks an MMA.T writes, with the block of each (R134). -/
def mmaTBlocks (an ks : Nat) : List Nat := (List.range (ceilDiv ks 32)).filter fun p => an + p ≤ 3

/-- What an MMA.T adds to bank elements of its blocks from the values of one moving row (R134). -/
def Core.mmaTCells (k : Core) (f : FmtE) (d : Desc) (kp : Nat) (vs : List Nat) (cells : List (Nat × Nat)) : Core :=
  (mmaTBlocks (mBank f) k.ks).foldl (fun k p =>
    k.mapBank (mBank f + p) cells fun acc _ j =>
      accumulate d.fmt kp 32 acc (movingVal d vs) (fun x => k.storeAt (32 * p + j) x) (fun _ => 0) (fun _ => 0)) k

/-- The moving rows of an MMA.T, in order. -/
def State.mmaTRows (s : State) (c : Nat) (o : Op) (f : FmtE) (sh : Shape) : List Nat → Res Unit
  | [] => .ok (s.setCore c ((s.core c).mmaTCells f o.da 32 [] (sh.unfed o.da))) ()
  | n :: ns =>
    (s.readTo c .locker 9 (movingRow o.da o.da1 n)).andThen fun s x =>
      let s := s.setCore c ((s.core c).mmaTCells f o.da (movingDepth o.da 32 x.1 x.2) x.1 (sh.cells n 0))
      match x.2 with
      | some e => .fault s e
      | none => s.mmaTRows c o f sh ns

/-- MMA.T (R134). -/
def State.runMmaT (s : State) (c : Nat) (o : Op) (f : FmtE) : Res Unit :=
  match shapeOf (mShp f) with
  | none => .ok s ()
  | some sh =>
    let s := s.setCore c { s.core c with mxT := true }
    (s.each (mmaTBlocks (mBank f) (s.core c).ks) fun s p => s.openBank c (mBank f + p) (mClr f)).mmaTRows c o f sh
      (List.range o.da.rows)

/-- ACC.CLR (R103). -/
def State.runAccClr (s : State) (c : Nat) (f : FmtE) : Res Unit :=
  .ok (s.setCore c (((s.core c).zeroBank (mBank f)).markBank (mBank f))) ()

/-- ACC.RD (R103, R105, R71). -/
def State.runAccRd (s : State) (c : Nat) (o : Op) (f : FmtE) : Res Unit :=
  let s := s.readBank c (mBank f)
  let k := s.core c
  if f.x20.getLsbD 0 then
    s.writeElems c .locker (List.zip o.db.elems ((List.range 1024).map fun i => (k.ra (mBank f) (i / 32) (i % 32)).toNat))
  else
    .ok (s.setCore c ((List.range 1024).foldl (fun k' i =>
      k'.wv (f.rb.toNat + i / 64) (i % 64) (k.ra (mBank f) (i / 32) (i % 32))) k)) ()

/-! ### Checks and issue -/

/-- MXLOAD's operand (R121). -/
def mxloadOk (k : Core) (c : Nat) (f : FmtE) : Bool :=
  let d := k.rd f.da.toNat
  k.dOk c f.da.toNat [1, 6, 7, 8, 9, 10, 11, 12, 13] && d.e0 ≤ fmtKmax d.fmt && d.e1 * d.e2 ≤ 64 && d.e3 == 1


/-- The moving operand of MMA (R104, R124). -/
def mmaOk (k : Core) (c : Nat) (f : FmtE) : Bool :=
  let d := k.rd f.da.toNat
  let m := mFormat (mFmt f)
  k.stRec == some (BitVec.ofNat 8 m) && k.dOk c f.da.toNat [m] && d.skw && d.e0 ≤ fmtKmax m && d.e3 == 1 &&
    (match shapeOf (mShp f) with | some sh => sh.fits d.e1 d.e2 | none => false) &&
    (if fmtScaled m then d.scl == 2 && inLocker c (k.rd (f.da.toNat + 1)).base else d.scl == 0)

/-- The moving operand of MMA.T (R133). -/
def mmaTOk (k : Core) (c : Nat) (f : FmtE) : Bool :=
  mmaOk k c f && [0, 1, 2, 7, 8].contains (mFmt f) && mShp f ≤ 2 && (k.rd f.da.toNat).e0 ≤ 32

/-- Decode checks of MMA and MMA.T (R83, R103). -/
def mmaBad (f : FmtE) : Bool :=
  8 < mFmt f || 4 < mShp f || bits f.x20.toNat 11 0 != 0 || bits f.ra.toNat 4 2 != 0 || f.rb != 0 || f.db != 0 || f.dc != 0

/-- ACC.RD's destination in the locker (Table 3-10). -/
def accRdOk (k : Core) (c : Nat) (f : FmtE) : Bool :=
  !f.x20.getLsbD 0 || (k.dOk c f.db.toNat [5] && (k.rd f.db.toNat).count == 1024)

/-- Decode checks of ACC.RD (R103, R105). -/
def accRdBad (f : FmtE) : Bool :=
  2 ≤ f.x20.toNat || bits f.ra.toNat 4 2 != 0 || f.da != 0 || f.dc != 0 ||
    (if f.x20.getLsbD 0 then f.rb != 0 else f.db != 0 || (f.rb != 0 && f.rb != 16))

/-- MXLOAD (R103, R121, R122). -/
def execMxload (c : CoreId) (f : FmtE) (s : State) : Out :=
  .next (s.issueE c (.mxload c f) .mxu f (f.db != 0 || f.dc != 0 || f.ra != 0 || f.rb != 0 || f.x20 != 0)
    (fun k => mxloadOk k c f) fun k => { k with stRec := some (BitVec.ofNat 8 (k.rd f.da.toNat).fmt) })
/-- MMA (R104, R125). -/
def execMma (c : CoreId) (f : FmtE) (s : State) : Out :=
  .next (s.issueE c (.mma c f) .mxu f (mmaBad f) (fun k => mmaOk k c f) id)
/-- MMA.T (R133, R134). -/
def execMmaT (c : CoreId) (f : FmtE) (s : State) : Out :=
  .next (s.issueE c (.mmaT c f) .mxu f (mmaBad f) (fun k => mmaTOk k c f) id)
/-- ACC.CLR (R103). -/
def execAccClr (c : CoreId) (f : FmtE) (s : State) : Out :=
  .next (s.issueE c (.accClr c f) .mxu f
    (f.da != 0 || f.db != 0 || f.dc != 0 || f.rb != 0 || f.x20 != 0 || bits f.ra.toNat 4 2 != 0) (fun _ => true) id)
/-- ACC.RD (R103, R105). -/
def execAccRd (c : CoreId) (f : FmtE) (s : State) : Out :=
  .next (s.issueE c (.accRd c f) .mxu f (accRdBad f) (fun k => accRdOk k c f) id)

end Sys2Proof.Machine
end

