-- ==== Sys2Proof/Machine/Flags.lean ====
section
/-! DEFINITION. The predicates: the conditions of CMP and how their results are combined (R94). -/

namespace Sys2Proof.Machine

/-- The condition of FN[2:0] between two operands; none for an unlisted code (R94). -/
def cmpCond (fn : Nat) (a b : BitVec 64) : Option Bool :=
  match fn with
  | 0 => some (a == b)
  | 1 => some (a != b)
  | 2 => some (a.slt b)
  | 3 => some (!a.slt b)
  | 4 => some (a.ult b)
  | 5 => some (!a.ult b)
  | _ => none

/-- Combine a result into a predicate by RD[4:3] (R94). -/
def combinePred (mode : Nat) (old res : Bool) : Bool :=
  match mode with
  | 0 => res
  | 1 => old && res
  | _ => old || res

end Sys2Proof.Machine
end

