-- ==== Sys2Proof/Machine/Scalar.lean ====
section
/-! DEFINITION. The scalar instructions (R93 to R98): LD, ST, arithmetic and logic, CMP, MOV, DSET and branches. -/

namespace Sys2Proof.Machine

/-! ### LD and ST (R95, R206 to R209) -/

/-- The effective address of LD and ST (R95). -/
def memAddr (k : Core) (f : FmtM) : Nat := (k.rg f.rb.toNat + f.off.signExtend 64).toNat

/-- Access width in bytes. -/
def memWidth (f : FmtM) : Nat := 2 ^ f.sz.toNat

/-- Extend a loaded value (R95). -/
def extendLoad (x : Bool) (n v : Nat) : BitVec 64 :=
  if x then (BitVec.ofNat (8 * n) v).signExtend 64 else BitVec.ofNat 64 v

/-- The bytes a scalar load reads, by its path (Table 2-3). -/
def State.scalarRead (s : State) (c a n : Nat) : Res (List Byte × Bool) :=
  match place a with
  | .hbm => s.l1Load c a n
  | .tile _ _ => s.l1Load c a n
  | .locker m _ => if m = c then s.readAt (whoCore c) 1 a n
    else (s.flushDest c m).andThen fun s _ => s.readAt (whoCore c) 1 a n
  | _ => (s.flushDest c (s.destOf a)).andThen fun s _ => s.readAt (whoCore c) 1 a n

/-- LD once issued: alignment (0x06), then address (0x04), an order the spec leaves open (DESIGN CHOICE, log entry 74); room for a
miss (R55), the read, an uncorrectable word (0x09). DESIGN CHOICE: log entry 74. -/
def State.doLoad (s : State) (c : Nat) (f : FmtM) : State × Bool :=
  let k := s.core c
  let a := memAddr k f
  let n := memWidth f
  if a % n ≠ 0 then (s.stopCore c 6 k.pc.toNat, true)
  else if 2 ^ 48 ≤ a || !s.mayAddr c a then (s.stopCore c (s.addrCause c a 4) k.pc.toNat, true)
  else if !k.room && !(k.stall.isSome && k.stallReq) && !inLocker c a && !k.l1d.contains (a / 256) then (s, false)
  else
    match s.scalarRead c a n with
    | .wait sn => (s.stallWait c (.ld (Fin.ofNat 4096 c) f) sn, true)
    | .fault s e => (s.stopCore c e k.pc.toNat, true)
    | .ok s (bs, ue) =>
      if ue then (s.stopCore c 9 k.pc.toNat, true)
      else ((s.setCore c ((s.core c).wg f.rt.toNat (extendLoad f.x n (leNat bs)))).advance c false, true)

/-- LD (R95). -/
def execLd (c : CoreId) (f : FmtM) (s : State) : Out :=
  .next (s.issue c (.ld c f) false (f.rsv != 0 || f.l) f.guard fun s => s.doLoad c f)

/-- A store that has passed its checks: at once into the own locker, else into a hit L1 line and posted (R59, R208). -/
def State.postStore (s : State) (c a : Nat) (bs : List Byte) : State :=
  if inLocker c a then s.lockerWrite a bs
  else
    let s := s.l1Store c a bs
    s.setCore c { s.core c with posted := (s.core c).posted ++ [{ p := .store a bs, pc := (s.core c).pc.toNat }] }

/-- ST once issued. DESIGN CHOICE: log entry 74. -/
def State.doStore (s : State) (c : Nat) (f : FmtM) : State × Bool :=
  let k := s.core c
  let a := memAddr k f
  let n := memWidth f
  if a % n ≠ 0 then (s.stopCore c 6 k.pc.toNat, true)
  else if 2 ^ 48 ≤ a || !s.mayAddr c a then (s.stopCore c (s.addrCause c a 4) k.pc.toNat, true)
  else if !k.room && !inLocker c a then (s, false)
  else ((s.postStore c a (leBytes n (k.rg f.rt.toNat).toNat)).advance c false, true)

/-- ST (R95); X must be 0. -/
def execSt (c : CoreId) (f : FmtM) (s : State) : Out :=
  .next (s.issue c (.st c f) false (f.rsv != 0 || f.l || f.x) f.guard fun s => s.doStore c f)

/-! ### Arithmetic and logic (R93, R94) -/

/-- Decode checks of the register and immediate forms, for the FN values a table lists (R83, R93). -/
def aluBad (f : Alu) (listed : Nat → Bool) : Bool :=
  match f with
  | .reg f => f.rsv != 0 || f.l || !listed f.fn.toNat
  | .imm f => !listed f.fn.toNat || (f.l && f.imm != 0)

/-- Long form. -/
def aluLong (f : Alu) : Bool := match f with | .reg f => f.l | .imm f => f.l
/-- GUARD. -/
def aluGuard (f : Alu) : BitVec 5 := match f with | .reg f => f.guard | .imm f => f.guard
/-- FN. -/
def aluFn (f : Alu) : Nat := match f with | .reg f => f.fn.toNat | .imm f => f.fn.toNat
/-- RD. -/
def aluRd (f : Alu) : BitVec 5 := match f with | .reg f => f.rd | .imm f => f.rd
/-- First operand. -/
def aluA (k : Core) (f : Alu) : BitVec 64 := match f with | .reg f => k.rg f.rs1.toNat | .imm f => k.rg f.rs1.toNat
/-- Second operand (R93). -/
def aluB (k : Core) (f : Alu) : BitVec 64 :=
  match f with
  | .reg f => k.rg f.rs2.toNat
  | .imm f => if f.l then f.lit else f.imm.signExtend 64

/-- RD ← op FN a b, and on (R93). -/
def State.aluWrite (s : State) (c : Nat) (f : Alu) (op : Nat → BitVec 64 → BitVec 64 → BitVec 64) : State :=
  let k := s.core c
  (s.setCore c (k.wg (aluRd f).toNat (op (aluFn f) (aluA k f) (aluB k f)))).advance c (aluLong f)

/-- A scalar operation of Table 3-7. -/
def State.alu (s : State) (c : CoreId) (i : Instr) (f : Alu) (listed : Nat → Bool)
    (op : Nat → BitVec 64 → BitVec 64 → BitVec 64) : State :=
  s.issue c i (aluLong f) (aluBad f listed) (aluGuard f) fun s => (s.aluWrite c f op, true)

/-- ADD (R93). -/
def execAdd (c : CoreId) (f : Alu) (s : State) : Out := .next (s.alu c (.add c f) f (· == 0) fun _ a b => a + b)
/-- SUB (R93). -/
def execSub (c : CoreId) (f : Alu) (s : State) : Out := .next (s.alu c (.sub c f) f (· == 0) fun _ a b => a - b)

/-- The products of Table 3-7. -/
def mulOp (fn : Nat) (a b : BitVec 64) : BitVec 64 :=
  match fn with
  | 0 => a * b
  | 1 => BitVec.ofInt 64 (a.toInt * b.toInt / 2 ^ 64)
  | _ => BitVec.ofNat 64 (a.toNat * b.toNat / 2 ^ 64)

/-- MUL (R93). -/
def execMul (c : CoreId) (f : Alu) (s : State) : Out := .next (s.alu c (.mul c f) f (· ≤ 2) mulOp)
/-- AND (R93). -/
def execAnd (c : CoreId) (f : Alu) (s : State) : Out := .next (s.alu c (.and c f) f (· == 0) fun _ a b => a &&& b)
/-- OR (R93). -/
def execOr (c : CoreId) (f : Alu) (s : State) : Out := .next (s.alu c (.or c f) f (· == 0) fun _ a b => a ||| b)
/-- XOR (R93). -/
def execXor (c : CoreId) (f : Alu) (s : State) : Out := .next (s.alu c (.xor c f) f (· == 0) fun _ a b => a ^^^ b)
/-- SHL (R93). -/
def execShl (c : CoreId) (f : Alu) (s : State) : Out :=
  .next (s.alu c (.shl c f) f (· == 0) fun _ a b => a <<< bits b.toNat 5 0)
/-- SHR (R93). -/
def execShr (c : CoreId) (f : Alu) (s : State) : Out :=
  .next (s.alu c (.shr c f) f (· ≤ 1) fun fn a b => if fn = 0 then a >>> bits b.toNat 5 0 else a.sshiftRight (bits b.toNat 5 0))

/-- CMP once issued (R94). -/
def State.doCmp (s : State) (c : Nat) (f : Alu) : State :=
  let k := s.core c
  let pd := bits (aluRd f).toNat 2 0
  match cmpCond (aluFn f) (aluA k f) (aluB k f) with
  | some r => (s.setCore c (k.wp pd (combinePred (bits (aluRd f).toNat 4 3) (k.rp pd) r))).advance c (aluLong f)
  | none => s

/-- CMP (R94). -/
def execCmp (c : CoreId) (f : Alu) (s : State) : Out :=
  .next (s.issue c (.cmp c f) (aluLong f) (aluBad f (· ≤ 5) || bits (aluRd f).toNat 4 3 == 3) (aluGuard f)
    fun s => (s.doCmp c f, true))

/-! ### MOV and DSET (R96, R97) -/

/-- Decode checks of MOV (R96). -/
def movBad (f : FmtI) : Bool :=
  match f.fn.toNat with
  | 0 => f.rs1 != 0 || (f.l && f.imm != 0)
  | 1 => f.l || f.imm != 0
  | 2 => f.l || f.rs1 != 0 || f.imm.toNat ≥ 4
  | 3 => f.l || f.imm.toNat ≥ 64
  | 4 => f.l || f.imm.toNat ≥ 64
  | 5 => f.l || f.imm != 0 || f.rd != 0
  | _ => true

/-- The cycles a core has stalled are counted when its cycle counter is read: a free number of them, since the model keeps no cycles
beyond those of issue, so that a later read is never below an earlier one (R78, R324). DESIGN CHOICE: log entry 11. -/
def Core.countStalls (k : Core) : Core :=
  { k with cyc := k.cyc + BitVec.ofNat 64 (Config.stallCycles k.free), free := k.free + 1 }

/-- The special values of MOV (Table 3-8). -/
def Core.special (k : Core) (n : Nat) : BitVec 64 :=
  match n with
  | 0 => k.cyc
  | 1 => k.epoch.zeroExtend 64
  | 2 => BitVec.ofNat 64 k.ret.length
  | _ => k.p.zeroExtend 64

/-- MOV once issued: none while a pending operation uses the vector register (R52). -/
def State.doMov (s : State) (c : Nat) (f : FmtI) : State × Bool :=
  let k := s.core c
  let rd := f.rd.toNat
  let rs := f.rs1.toNat
  let lane := f.imm.toNat
  match f.fn.toNat with
  | 0 => ((s.setCore c (k.wg rd (if f.l then f.lit else f.imm.signExtend 64))).advance c f.l, true)
  | 1 => ((s.setCore c (k.wg rd (k.rg rs))).advance c false, true)
  | 2 =>
    let k := if lane = 0 then k.countStalls else k
    ((s.setCore c (k.wg rd (k.special lane))).advance c false, true)
  | 3 => if k.vBusy none [rs] then (s, false) else ((s.setCore c (k.wg rd ((k.rv rs lane).zeroExtend 64))).advance c false, true)
  | 4 => if k.vBusy none [rd] then (s, false) else ((s.setCore c (k.wv rd lane ((k.rg rs).truncate 32))).advance c false, true)
  | _ => ((s.setCore c { k with p := (k.rg rs).truncate 8 }).advance c false, true)

/-- MOV (R96). -/
def execMov (c : CoreId) (f : FmtI) (s : State) : Out :=
  .next (s.issue c (.mov c f) f.l (movBad f) f.guard fun s => s.doMov c f)

/-- Decode checks of DSET (R97). -/
def dsetBad (f : FmtI) : Bool :=
  f.rd.getLsbD 4 || bits f.fn.toNat 7 3 != 0 || f.imm != 0 ||
    (if f.fn.getLsbD 2 then !f.l || f.rs1 != 0 else f.l)

/-- DSET once issued (R97). -/
def State.doDset (s : State) (c : Nat) (f : FmtI) : State :=
  let k := s.core c
  let w := if f.fn.getLsbD 2 then f.lit else k.rg f.rs1.toNat
  (s.setCore c (k.wd (bits f.rd.toNat 3 0) (bits f.fn.toNat 1 0) w)).advance c f.l

/-- DSET (R97). -/
def execDset (c : CoreId) (f : FmtI) (s : State) : Out :=
  .next (s.issue c (.dset c f) f.l (dsetBad f) f.guard fun s => (s.doDset c f, true))

/-! ### Branches (R98, R46, R47) -/

/-- Decode checks of BR and CALL (R98). -/
def brBad (f : FmtB) : Bool :=
  f.rsv != 0 || f.p != 0 || f.n || (f.ind && f.l) || ((f.ind || f.l) && f.off != 0) || (!f.ind && f.rs != 0)

/-- The target of BR and CALL (R98). -/
def brTarget (k : Core) (f : FmtB) : BitVec 64 :=
  if f.ind then k.rg f.rs.toNat else if f.l then f.lit else k.pc + (f.off.signExtend 64) * 8

/-- BR (R98). -/
def execBr (c : CoreId) (f : FmtB) (s : State) : Out :=
  .next (s.issue c (.br c f) f.l (brBad f) 0 fun s => (s.jump c f.l (brTarget (s.core c) f), true))

/-- Decode checks of BRP (R98). -/
def brpBad (f : FmtB) : Bool := f.rsv != 0 || f.rs != 0 || f.ind || f.l

/-- BRP (R98). -/
def execBrp (c : CoreId) (f : FmtB) (s : State) : Out :=
  .next (s.issue c (.brp c f) f.l (brpBad f) 0 fun s =>
    let k := s.core c
    (if k.rp f.p.toNat != f.n then s.jump c false (k.pc + (f.off.signExtend 64) * 8) else s.advance c false, true))

/-- CALL once issued: push and jump, or overflow (R46). -/
def State.doCall (s : State) (c : Nat) (f : FmtB) : State :=
  let k := s.core c
  if 32 ≤ k.ret.length then s.stopCore c 7 k.pc.toNat
  else
    (s.setCore c { k with ret := (k.pc + (if f.l then 16 else 8)) :: k.ret }).jump c f.l (brTarget k f)

/-- CALL (R98, R46). -/
def execCall (c : CoreId) (f : FmtB) (s : State) : Out :=
  .next (s.issue c (.call c f) f.l (brBad f) 0 fun s => (s.doCall c f, true))

/-- RET once issued: pop and jump, or the core's part ends (R46, R47). -/
def State.doRet (s : State) (c : Nat) : State :=
  let k := s.core c
  match k.ret with
  | [] => s.setCore c { k with phase := .ending, cyc := k.cyc + 1, stall := none }
  | t :: ts => (s.setCore c { k with ret := ts }).jump c false t

/-- RET (R98, R46, R47): every field is zero. -/
def execRet (c : CoreId) (f : FmtB) (s : State) : Out :=
  .next (s.issue c (.ret c f) f.l (f.rs != 0 || f.p != 0 || f.n || f.ind || f.off != 0 || f.l || f.rsv != 0) 0
    fun s => (s.doRet c, true))

end Sys2Proof.Machine
end

