-- ==== Sys2Proof/Machine/SelLku.lean ====
section
/-! DEFINITION. The selection and lookup instructions (R110 to R116, 06 R172 to R179, R586): their issue, and what their
operations do. -/

namespace Sys2Proof.Machine

/-! ### SCORE records (R110, R112) -/

/-- Score of a 128-bit record. -/
def recScore (r : Nat) : BitVec 32 := BitVec.ofNat 32 (r % 2 ^ 32)
/-- Tag of a record. -/
def recTag (r : Nat) : Nat := bits r 63 32
/-- Candidate index of a record. -/
def recIndex (r : Nat) : Nat := bits r 127 64
/-- A record. -/
def mkRec (score : BitVec 32) (tag idx : Nat) : Nat := score.toNat + tag % 2 ^ 32 * 2 ^ 32 + idx % 2 ^ 64 * 2 ^ 64

/-- The value of a score: FP32 under format 0x11, INT32 under 0x12. -/
def scoreVal (fmt : Nat) (x : BitVec 32) : FV := if fmt = 0x12 then ofInt x.toInt else decF32 x

/-- A score is strictly better than another in a direction (0 keeps the largest); a NaN is worse than every number. -/
def scoreBetter (fmt dir : Nat) (x y : BitVec 32) : Bool :=
  let a := scoreVal fmt x
  let b := scoreVal fmt y
  if a.isNan then false
  else if b.isNan then true
  else if dir = 0 then b.lt a else a.lt b

/-- A record ranks strictly before another by steps 1, 2 and 4 of R112. -/
def recBefore (fmt dir : Nat) (x y : Nat) : Bool :=
  scoreBetter fmt dir (recScore x) (recScore y) ||
    (!scoreBetter fmt dir (recScore y) (recScore x) && recIndex x < recIndex y)

/-- Insert a record behind every record it does not precede (step 3 of R112). -/
def recInsert (fmt dir : Nat) (x : Nat) : List Nat → List Nat
  | [] => [x]
  | y :: ys => if recBefore fmt dir x y then x :: y :: ys else y :: recInsert fmt dir x ys

/-- Rank records (R112). -/
def recSort (fmt dir : Nat) (rs : List Nat) : List Nat := rs.foldl (fun acc x => recInsert fmt dir x acc) []

/-- The sentinel of a format and direction (R112). -/
def sentinel (fmt dir : Nat) : Nat :=
  let s : BitVec 32 := if fmt = 0x12 then (if dir = 0 then 0x80000000 else 0x7FFFFFFF)
    else if dir = 0 then 0xFF800000 else 0x7F800000
  mkRec s 0 (2 ^ 64 - 1)

/-- The first k of a list, filled up with sentinels. -/
def takeBest (fmt dir k : Nat) (rs : List Nat) : List Nat :=
  rs.take k ++ List.replicate (k - rs.length) (sentinel fmt dir)

/-- A list is sorted best first. -/
def sortedBest (fmt dir : Nat) : List Nat → Bool
  | x :: y :: t => !recBefore fmt dir y x && sortedBest fmt dir (y :: t)
  | _ => true

/-- Draw k elements at free places (R111: unsorted input lists; log entry 3). -/
def drawFree : Nat → Nat → List Nat → List Nat
  | 0, _, _ => []
  | _, _, [] => []
  | k + 1, c, x :: xs =>
    let i := (Config.freeWord c).toNat % (xs.length + 1)
    (x :: xs).getD i 0 :: drawFree k (c + 1) (dropAt i (x :: xs))

/-! ### SEL operations -/

/-- k of SEL.TOPK and SEL.MERGE. -/
def selK (f : FmtE) : Nat := bits f.x20.toNat 9 0 + 1
/-- Direction. -/
def selDir (f : FmtE) : Nat := bits f.x20.toNat 10 10
/-- A of SEL.TOPK. -/
def selA (f : FmtE) : Bool := f.x20.getLsbD 11

/-- SEL.TOPK (R111): every input first, then the output in ascending order; with A = 1 the records of DB are read before DA: DESIGN
CHOICE, log entry 78. DESIGN CHOICE: log entry 78. -/
def State.runTopk (s : State) (c : Nat) (o : Op) (f : FmtE) : Res Unit :=
  let outs := (List.range (selK f)).map o.db.el
  (s.readElems c .locker 9 (if selA f then outs else [])).andThen fun s old =>
    (s.readElems c .locker 9 o.da.elems).andThen fun s new =>
      s.writeElems c .locker (List.zip outs (takeBest o.da.fmt (selDir f) (selK f) (recSort o.da.fmt (selDir f) (old ++ new))))

/-- Cut a list into lists of n. -/
def chunks (n : Nat) (xs : List Nat) : List (List Nat) :=
  (List.range (ceilDiv xs.length n)).map fun i => (xs.drop (i * n)).take n

/-- The records SEL.MERGE writes: of sorted lists the best k, of others k records the spec leaves open, sorted. -/
def mergeBest (fmt dir k e0 ctr : Nat) (xs : List Nat) : List Nat :=
  if (chunks e0 xs).all (sortedBest fmt dir) then takeBest fmt dir k (recSort fmt dir xs)
  else takeBest fmt dir k (recSort fmt dir (drawFree k ctr xs))

/-- SEL.MERGE (R111). -/
def State.runMerge (s : State) (c : Nat) (o : Op) (f : FmtE) : Res Unit :=
  (s.readElems c .locker 9 o.da.elems).andThen fun s xs =>
    let best := mergeBest o.da.fmt (selDir f) (selK f) o.da.e0 s.free xs
    ({ s with free := s.free + selK f } : State).writeElems c .locker (List.zip ((List.range (selK f)).map o.db.el) best)

/-- The operands of SEL (R110). -/
def selOk (k : Core) (c : Nat) (f : FmtE) : Bool :=
  let x := k.rd f.da.toNat
  let y := k.rd f.db.toNat
  k.dOk c f.da.toNat [0x11, 0x12] && k.dOk c f.db.toNat [0x11, 0x12] && x.fmt == y.fmt && selK f ≤ y.count

/-- Unused fields of SEL. -/
def selBad (f : FmtE) (hi : Nat) : Bool := f.dc != 0 || f.ra != 0 || f.rb != 0 || f.x20.toNat / 2 ^ hi != 0

/-- SEL.TOPK (R110). -/
def execSelTopk (c : CoreId) (f : FmtE) (s : State) : Out :=
  .next (s.issueE c (.selTopk c f) .sel f (selBad f 12) (fun k => selOk k c f) id)
/-- SEL.MERGE (R110). -/
def execSelMerge (c : CoreId) (f : FmtE) (s : State) : Out :=
  .next (s.issueE c (.selMerge c f) .sel f (selBad f 11) (fun k => selOk k c f) id)

/-! ### LKU (R113 to R116) -/

/-- Slot of LKU.LOAD and LKU.PQ. -/
def lkuSlot (f : FmtE) : Nat := bits f.x20.toNat 3 0

/-- Place of entry c of sub-quantiser i of a slot in a copy. -/
def lkuAt (copy slot i c : Nat) : Nat := 131072 * copy + 8192 * slot + 256 * i + c

/-- The copy that is live. -/
def Core.liveCopy (k : Core) : Nat := b2n k.liveB

/-- Write an entry of the table store. -/
def Core.setEntry (k : Core) (a : Nat) (v : BitVec 16) : Core := { k with lku := tset 0 k.lku a v }

/-- Entries of a slot become undefined: free values (R586). -/
def State.undefEntries (s : State) (c copy slot : Nat) (ns : List Nat) : State :=
  ns.foldl (fun (s : State) m =>
    ({ s with free := s.free + 1 } : State).setCore c
      ((s.core c).setEntry (lkuAt copy slot 0 m) ((Config.freeWord s.free).truncate 16))) s

/-- Load entries from memory into a slot of a copy, in order (R113, R165); after a fault, whose cause is the answer, the rest of the
slot's entries to load are undefined (R586). -/
def State.loadEntries (s : State) (c copy slot : Nat) (es : List Elem) : Res (Option Nat) :=
  (s.readFrom c .lockerHbm 9 es).andThen fun s x =>
    let s := s.setCore c (x.1.zipIdx.foldl (fun k e => k.setEntry (lkuAt copy slot 0 e.2) (BitVec.ofNat 16 e.1)) (s.core c))
    .ok (if x.2.isSome then s.undefEntries c copy slot ((List.range es.length).drop x.1.length) else s) x.2

/-- LKU.LOAD. -/
def State.runLkuLoad (s : State) (c : Nat) (o : Op) (f : FmtE) : Res Unit :=
  (s.loadEntries c o.copy (lkuSlot f) o.da.elems).andThen fun s e => s.orFault e

/-- The score of a candidate's codes (R113, R173). -/
def pqScore (k : Core) (copy slot : Nat) : List Nat → BitVec 32
  | [] => 0
  | x :: xs =>
    let e (i c : Nat) : BitVec 32 := widenF16 (tget 0 k.lku (lkuAt copy slot i c))
    (xs.foldl (fun (a : Nat × BitVec 32) c => (a.1 + 1, fadd a.2 (e a.1 c))) (1, e 0 x)).2

/-- Candidate by candidate: codes read, the score or record written. -/
def State.pqFrom (s : State) (c : Nat) (o : Op) (slot : Nat) : Nat → Nat → Res Unit
  | _, 0 => .ok s ()
  | j, n + 1 =>
    let m := o.da.e0
    (s.readElems c .locker 9 ((List.range m).map fun i => o.da.el (j * m + i))).andThen fun s codes =>
      let sc := pqScore (s.core c) o.copy slot codes
      let v := if o.db.fmt = 5 then sc.toNat else mkRec sc 0 (o.ra.toNat + j)
      (s.writeElem c .locker 0 (o.db.el j) v).andThen fun s _ => s.pqFrom c o slot (j + 1) n

/-- LKU.PQ. -/
def State.runLkuPq (s : State) (c : Nat) (o : Op) (f : FmtE) : Res Unit := s.pqFrom c o (lkuSlot f) 0 o.da.rows

/-- LKU.SWAP takes effect: copies exchanged, epoch advanced (R113, R177). -/
def Core.lkuSwapNow (k : Core) : Core := { k with liveB := !k.liveB, epoch := k.epoch + 1 }

/-- The operand of LKU.LOAD (Table 3-12). -/
def lkuLoadOk (k : Core) (c : Nat) (f : FmtE) : Bool :=
  let d := k.rd f.da.toNat
  k.dOk c f.da.toNat [7] && d.e0 == 256 && d.e1 ≤ 32 && d.e2 == 1 && d.e3 == 1

/-- The operands of LKU.PQ (Table 3-12). -/
def lkuPqOk (k : Core) (c : Nat) (f : FmtE) : Bool :=
  let x := k.rd f.da.toNat
  let y := k.rd f.db.toNat
  let m := (tget 0 k.recLive (lkuSlot f)).toNat
  k.dOk c f.da.toNat [2] && k.dOk c f.db.toNat [5, 0x11] && m != 0 && x.e0 == m && y.count == x.rows

/-- LKU.LOAD (R113, R116): the shadow's table record changes at issue. -/
def execLkuLoad (c : CoreId) (f : FmtE) (s : State) : Out :=
  .next (s.issueE c (.lkuLoad c f) .lku f (f.db != 0 || f.dc != 0 || f.ra != 0 || f.rb != 0 || 16 ≤ f.x20.toNat)
    (fun k => lkuLoadOk k c f)
    fun k => { k with recShad := tset 0 k.recShad (lkuSlot f) (BitVec.ofNat 6 (k.rd f.da.toNat).e1) })
/-- LKU.SWAP (R113, R116): the table records change at issue. -/
def execLkuSwap (c : CoreId) (f : FmtE) (s : State) : Out :=
  .next (s.issueE c (.lkuSwap c f) .lku f
    (f.da != 0 || f.db != 0 || f.dc != 0 || f.ra != 0 || f.rb != 0 || f.x20 != 0) (fun _ => true)
    fun k => { k with recLive := k.recShad, recShad := k.recLive })
/-- LKU.PQ (R113). -/
def execLkuPq (c : CoreId) (f : FmtE) (s : State) : Out :=
  .next (s.issueE c (.lkuPq c f) .lku f (f.dc != 0 || f.rb != 0 || 16 ≤ f.x20.toNat) (fun k => lkuPqOk k c f) id)

end Sys2Proof.Machine
end

