-- ==== Sys2Proof/Machine/Sync.lean ====
section
/-! DEFINITION. The control instructions (R117): fences, L1 invalidation, barriers, waits and signals. -/

namespace Sys2Proof.Machine

/-- Fields of format C beyond those a row lists are zero (R83, Table 3-13); the row lists RA, RB, K, GRP, FN in turn. -/
def ctlBad (f : FmtC) (ra rb k grp fn : Bool) : Bool :=
  f.rsv != 0 || f.l || (!ra && f.ra != 0) || (!rb && f.rb != 0) || (!k && f.k != 0) || (!grp && f.grp != 0) ||
    (!fn && f.fn != 0)

/-- FENCE.L (R61): every earlier posted write is placed ahead of later requests of the core. -/
def Core.placeAll (k : Core) : Core := { k with posted := k.posted.map fun p => { p with placed := true } }

/-- FENCE.L. -/
def execFenceL (c : CoreId) (f : FmtC) (s : State) : Out :=
  .next (s.issue c (.fenceL c f) false (ctlBad f false false false false false) f.guard fun s =>
    ((s.setCore c (s.core c).placeAll).advance c false, true))

/-- FENCE.R (R62). -/
def execFenceR (c : CoreId) (f : FmtC) (s : State) : Out :=
  .next (s.issue c (.fenceR c f) false (ctlBad f false false false false false) f.guard fun s =>
    if (s.core c).releasable then (s.advance c false, true) else (s, false))

/-- INV.L1 in either form (R63). -/
def Core.invL1 (k : Core) (f : FmtC) : Core :=
  if f.fn.getLsbD 0 then k.dropL1Range (k.rg f.ra.toNat).toNat (k.rg f.rb.toNat).toNat else k.clearL1

/-- INV.L1. -/
def execInvL1 (c : CoreId) (f : FmtC) (s : State) : Out :=
  .next (s.issue c (.invL1 c f) false
    (ctlBad f (f.fn.getLsbD 0) (f.fn.getLsbD 0) false false true || 2 ≤ f.fn.toNat) f.guard fun s =>
      ((s.setCore c ((s.core c).invL1 f)).advance c false, true))

/-- The command that runs on a core's rig, if the core takes part in it. -/
def State.cmdOf (s : State) (c : Nat) : Option Cmd :=
  match s.rigOfCore c with
  | some r => (s.rig r).running.filter fun m => m.cores.getLsbD c
  | none => none

/-- The members of a barrier group of a command: group 0 holds every core taking part (R67). -/
def Cmd.group (m : Cmd) (g : Nat) : BitVec 4096 := if g = 0 then m.cores else tget 0 m.groups g &&& m.cores

/-- BAR once issued (R67, R68): membership, release, then the core waits at the barrier. -/
def State.doBar (s : State) (c : Nat) (g : Fin 16) : State × Bool :=
  let k := s.core c
  match s.cmdOf c with
  | some m =>
    if !(m.group g).getLsbD c then (s.stopCore c 0x0E k.pc.toNat, true)
    else if !k.releasable then (s, false)
    else (s.setCore c { k with atBar := some g, stall := none }, true)
  | none => (s.stopCore c 0x0E k.pc.toNat, true)

/-- BAR. -/
def execBar (c : CoreId) (f : FmtC) (s : State) : Out :=
  .next (s.issue c (.bar c f) false (ctlBad f false false false true false) f.guard fun s =>
    s.doBar c (Fin.ofNat 16 f.grp.toNat))

/-- WAIT on a token (R51). -/
def execWait (c : CoreId) (f : FmtC) (s : State) : Out :=
  if f.fn.getLsbD 0 then .fault .illFormed else
    .next (s.issue c (.wait c f) false (ctlBad f false false true false false) f.guard fun s =>
      if (s.core c).pendingTok f.k.toNat then (s, false) else (s.advance c false, true))

/-- WAIT in its signal form once issued (R66, R584): stall, or clear the masked bits and return them. -/
def State.doWaitSignal (s : State) (c : Nat) (f : FmtC) : State × Bool :=
  let k := s.core c
  let a := lockerAddr c signalOff
  let (s, x) := s.lockerRead a 8
  if x.2 then (s.stopCore c 9 k.pc.toNat, true)
  else
    let w := BitVec.ofNat 64 (leNat x.1)
    let m := k.rg f.ra.toNat
    if w &&& m = 0 then (s, false)
    else
      let s := s.lockerWrite a (leBytes 8 (w &&& ~~~m).toNat)
      ((s.setCore c ((s.core c).wg f.rb.toNat (w &&& m))).advance c false, true)

/-- WAIT in its signal form. -/
def execWaitSignal (c : CoreId) (f : FmtC) (s : State) : Out :=
  if !f.fn.getLsbD 0 then .fault .illFormed else
    .next (s.issue c (.waitSignal c f) false (ctlBad f true true false false true || 2 ≤ f.fn.toNat) f.guard fun s =>
      s.doWaitSignal c f)

/-- WAITALL (R51). -/
def execWaitall (c : CoreId) (f : FmtC) (s : State) : Out :=
  .next (s.issue c (.waitall c f) false (ctlBad f false false false false false) f.guard fun s =>
    let k := s.core c
    if k.tok = 0 ∧ k.posted = [] then (s.advance c false, true) else (s, false))

/-- Post a signal once its release has finished (R65). -/
def State.postSignal (s : State) (c : Nat) (p : Post) : State × Bool :=
  let k := s.core c
  if !k.releasable || !k.room then (s, false)
  else ((s.setCore c { k with posted := k.posted ++ [{ p := p, pc := k.pc.toNat }] }).advance c false, true)

/-- SIGNAL once issued: a target outside the rig is an address fault, one that is down is discarded (R65). -/
def State.doSignal (s : State) (c : Nat) (f : FmtC) : State × Bool :=
  let k := s.core c
  let t := (k.rg f.ra.toNat).toNat
  if h : t < 4096 then
    if s.rigOfCore t ≠ s.rigOfCore c then (s.stopCore c 4 k.pc.toNat, true)
    else if (s.core t).down then (if k.releasable then (s.advance c false, true) else (s, false))
    else s.postSignal c (.orTo ⟨t, h⟩ (k.rg f.rb.toNat))
  else (s.stopCore c 4 k.pc.toNat, true)

/-- SIGNAL to a core. -/
def execSignal (c : CoreId) (f : FmtC) (s : State) : Out :=
  if f.fn.getLsbD 0 then .fault .illFormed else
    .next (s.issue c (.signal c f) false (ctlBad f true true false false false) f.guard fun s => s.doSignal c f)

/-- SIGNAL.EV. -/
def execSignalEv (c : CoreId) (f : FmtC) (s : State) : Out :=
  if !f.fn.getLsbD 0 then .fault .illFormed else
    .next (s.issue c (.signalEv c f) false (ctlBad f false true false false true || 2 ≤ f.fn.toNat) f.guard fun s =>
      s.postSignal c (.event ((s.core c).rg f.rb.toNat)))

end Sys2Proof.Machine
end

