-- ==== Sys2Proof/Machine/Vector.lean ====
section
/-! DEFINITION. The vector and special-function instructions (R106 to R109, 05). -/

namespace Sys2Proof.Machine

/-! ### Types and lanes (R79, R106) -/

/-- Element types of VOP. -/
inductive VT where
  | f32 | bf16 | i32
deriving DecidableEq, Repr

/-- The type of a T code. -/
def vtOf (t : BitVec 2) : Option VT :=
  match t.toNat with
  | 0 => some .f32 | 1 => some .bf16 | 2 => some .i32 | _ => none

/-- The two BF16 elements of a lane. -/
def bfLo (x : BitVec 32) : BitVec 16 := x.truncate 16
/-- The upper element. -/
def bfHi (x : BitVec 32) : BitVec 16 := x.extractLsb' 16 16
/-- A lane of two BF16 elements. -/
def bfPair (lo hi : BitVec 16) : BitVec 32 := hi ++ lo
/-- BF16 element e of a register's lanes. -/
def bfElem (ls : List (BitVec 32)) (e : Nat) : BitVec 16 := if e % 2 = 0 then bfLo (ls.getD (e / 2) 0) else bfHi (ls.getD (e / 2) 0)
/-- Lanes of 128 BF16 elements. -/
def bfLanes (g : Nat → BitVec 16) : List (BitVec 32) := (List.range 64).map fun i => bfPair (g (2 * i)) (g (2 * i + 1))

/-- Apply a function of exact values to three operands, in FP32 or in BF16, rounding once (R140, R141). -/
def vFloat (t : VT) (fn : FV → FV → FV → FV) (a b c : List (BitVec 32)) : List (BitVec 32) :=
  match t with
  | .bf16 => bfLanes fun e => encBf (fn (decBf (bfElem a e)) (decBf (bfElem b e)) (decBf (bfElem c e)))
  | _ => (List.range 64).map fun i => encF32 (fn (decF32 (a.getD i 0)) (decF32 (b.getD i 0)) (decF32 (c.getD i 0)))

/-- Apply an integer function lane by lane. -/
def vInt (fn : BitVec 32 → BitVec 32 → BitVec 32) (a b : List (BitVec 32)) : List (BitVec 32) :=
  (List.range 64).map fun i => fn (a.getD i 0) (b.getD i 0)

/-- An arithmetic operation of Table 3-11 by type. -/
def vArith (t : VT) (ff : FV → FV → FV) (fi : BitVec 32 → BitVec 32 → BitVec 32) (a b : List (BitVec 32)) : List (BitVec 32) :=
  match t with
  | .i32 => vInt fi a b
  | t => vFloat t (fun x y _ => ff x y) a b a

/-- A sign operation on floating lanes: NaN becomes canonical (R142). -/
def vSign (t : VT) (ff : FV → FV) (fi : BitVec 32 → BitVec 32) (a : List (BitVec 32)) : List (BitVec 32) :=
  vArith t (fun x _ => ff x) (fun x _ => fi x) a a

/-- Signed maximum. -/
def imax (x y : BitVec 32) : BitVec 32 := if x.slt y then y else x
/-- Signed minimum. -/
def imin (x y : BitVec 32) : BitVec 32 := if x.slt y then x else y

/-- Fold a list of n elements by the fixed tree of R106: element i with i + n/2, halving. -/
def treeFold {α : Type} (fn : α → α → α) : Nat → List α → List α
  | 0, xs => xs
  | k + 1, xs => treeFold fn k (List.zipWith fn (xs.take (2 ^ k)) (xs.drop (2 ^ k)))

/-- RSUM and RMAX: element 0 is the tree's result, the others are 0 (R106, R141). -/
def vReduce (t : VT) (ff : BitVec 32 → BitVec 32 → BitVec 32) (fi : BitVec 32 → BitVec 32 → BitVec 32) (a : List (BitVec 32)) :
    List (BitVec 32) :=
  let r : BitVec 32 := match t with
    | .f32 => (treeFold ff 6 a).headD 0
    | .i32 => (treeFold fi 6 a).headD 0
    | .bf16 => (encBf (decF32 ((treeFold ff 7 ((List.range 128).map fun e => widenBf (bfElem a e))).headD 0))).zeroExtend 32
  r :: List.replicate 63 0

/-- The conversions of Table 5-1: source type, target code, half select. -/
def vConvert (t : VT) (target : Nat) (half : Bool) (a b : List (BitVec 32)) : List (BitVec 32) :=
  let h := if half then 64 else 0
  let two (g : BitVec 32 → BitVec 16) : List (BitVec 32) :=
    bfLanes fun e => if e < 64 then g (a.getD e 0) else g (b.getD (e - 64) 0)
  match t, target with
  | .f32, 1 => two fun x => encBf (decF32 x)
  | .f32, _ => a.map fun x => toInt32 (decF32 x)
  | .bf16, 0 => (List.range 64).map fun i => widenBf (bfElem a (h + i))
  | .bf16, _ => (List.range 64).map fun i => toInt32 (decBf (bfElem a (h + i)))
  | .i32, 0 => a.map fun x => encF32 (ofInt x.toInt)
  | .i32, _ => two fun x => encBf (ofInt x.toInt)

/-- BCAST: element n of a register to every element. -/
def vBcast (t : VT) (n : Nat) (a : List (BitVec 32)) : List (BitVec 32) :=
  match t with
  | .bf16 => bfLanes fun _ => bfElem a n
  | _ => List.replicate 64 (a.getD n 0)

/-- PERM: lane i takes the lane the second register names. -/
def vPerm (a b : List (BitVec 32)) : List (BitVec 32) := b.map fun i => a.getD (i.toNat % 64) 0

/-! ### VOP results -/

/-- The operations of Table 3-11 that write VD from registers, by VOPC. MOV, BCAST and PERM copy an element's bits, a NaN's too, since
they produce none (R142): DESIGN CHOICE: log entry 79. -/
def vopResult (opc : Nat) (t : VT) (x : Nat) (a b c : List (BitVec 32)) : List (BitVec 32) :=
  match opc with
  | 0x02 => a
  | 0x03 => vBcast t (bits x 6 0) a
  | 0x04 => vArith t FV.add (· + ·) a b
  | 0x05 => vArith t (fun x y => x.add y.neg) (· - ·) a b
  | 0x06 => vArith t FV.mul (· * ·) a b
  | 0x07 => vFloat t (fun x y z => (x.mul y).add z) a b c
  | 0x08 => vArith t FV.max imax a b
  | 0x09 => vArith t FV.min imin a b
  | 0x0A => vSign t FV.abs (fun x => if x.slt 0 then -x else x) a
  | 0x0B => vSign t FV.neg (fun x => -x) a
  | 0x0C => vInt (· &&& ·) a b
  | 0x0D => vInt (· ||| ·) a b
  | 0x0E => vInt (· ^^^ ·) a b
  | 0x0F => vInt (fun x y => x <<< (y.toNat % 32)) a b
  | 0x10 => vInt (fun v y => if bit x 0 then v.sshiftRight (y.toNat % 32) else v >>> (y.toNat % 32)) a b
  | 0x11 => vConvert t (bits x 1 0) (bit x 2) a b
  | 0x12 => vReduce t fadd (· + ·) a
  | 0x13 => vReduce t fmax imax a
  | _ => vPerm a b

/-- A register operation of VEC performed on a core (R106). -/
def Core.runVop (k : Core) (f : FmtV) : Core :=
  match vtOf f.t with
  | some t => k.wvs f.vd.toNat 0 (vopResult f.vopc.toNat t f.x10.toNat (k.rvs f.vs1.toNat) (k.rvs f.vs2.toNat) (k.rvs f.vs3.toNat))
  | none => k

/-- VOP LD (R106, R107): elements before a faulting one are written (R72); a NaN's bits are copied. DESIGN CHOICE: log entry 79. -/
def State.vloadElems (s : State) (c : Nat) (d : Desc) (t : VT) (vd : Nat) : List Nat → Res Unit
  | [] => .ok s ()
  | n :: ns =>
    (s.readElem c .locker 0 9 (d.el n)).andThen fun s v =>
      let k := s.core c
      let k := match t with
        | .bf16 =>
          let old := k.rv vd (n / 2)
          let x := BitVec.ofNat 16 v
          k.wv vd (n / 2) (if n % 2 = 0 then bfPair x (bfHi old) else bfPair (bfLo old) x)
        | _ => k.wv vd n (BitVec.ofNat 32 v)
      (s.setCore c k).vloadElems c d t vd ns

/-- VOP LD. -/
def State.runVopLd (s : State) (c : Nat) (o : Op) (f : FmtV) : Res Unit :=
  match vtOf f.t with
  | some t => s.vloadElems c o.da t f.vd.toNat (List.range o.da.count)
  | none => .ok s ()

/-- VOP ST (R106, R107). -/
def State.runVopSt (s : State) (c : Nat) (o : Op) (f : FmtV) : Res Unit :=
  let ls := (s.core c).rvs f.vd.toNat
  let val (n : Nat) : Nat := match vtOf f.t with
    | some .bf16 => (bfElem ls n).toNat
    | _ => (ls.getD n 0).toNat
  s.writeElems c .locker ((List.range o.da.count).map fun n => (o.da.el n, val n))

/-! ### SFU (R108, R146 to R158) -/

/-- A special function of each element of VS1. -/
def Core.runSfu (k : Core) (fn : Sf) (f : FmtV) : Core :=
  let a := k.rvs f.vs1.toNat
  let g := if f.x10.getLsbD 0 then sfCompat fn else sfNative fn
  match vtOf f.t with
  | some .bf16 => k.wvs f.vd.toNat 0 (bfLanes fun e => encBf (decF32 (g (widenBf (bfElem a e)))))
  | _ => k.wvs f.vd.toNat 0 (a.map g)

/-! ### VNORM.RMS (R159 to R162, R588) -/

/-- An element of a row widened to FP32. -/
def rmsWiden (fmt v : Nat) : BitVec 32 := if fmt = 6 then widenBf (BitVec.ofNat 16 v) else BitVec.ofNat 32 v

/-- Lane partials of R159: lane L sums the squares at i ≡ L (mod 64) in ascending i, from the first. -/
def rmsPartials (xs : List (BitVec 32)) : List (BitVec 32) :=
  (List.range 64).map fun l =>
    (List.range xs.length).foldl (fun acc i =>
      if i % 64 = l then
        let q := fmul (xs.getD i 0) (xs.getD i 0)
        if i < 64 then q else fadd acc q
      else acc) 0

/-- The factor r of a row (R159). -/
def rmsFactor (xs : List (BitVec 32)) (eps : BitVec 32) : BitVec 32 :=
  let sum := (treeFold fadd 6 (rmsPartials xs)).headD 0
  let n := ofInt (xs.length : Int)
  let mean := match decF32 sum, n with
    | .fin neg q, .fin _ m => encF32 (.fin neg (q / m))
    | x, _ => encF32 x
  sfNative .rsq (fadd mean eps)

/-- An output element (R159): rounded to FP32, times gain, rounded to the destination format. -/
def rmsOut (fmt : Nat) (x r g : BitVec 32) : Nat :=
  let p := (decF32 (fmul x r)).mul (decF32 g)
  if fmt = 6 then (encBf p).toNat else (encF32 p).toNat

/-- Elements of row n of a descriptor. -/
def Desc.rowElems (d : Desc) (n : Nat) : List Elem := (List.range d.e0).map fun i => d.el (n * d.e0 + i)

/-- DC describes exactly the same elements as DA (R161). -/
def rmsInPlace (o : Op) : Bool :=
  o.dc.base == o.da.base && o.dc.w1 == o.da.w1 && o.dc.w2 == o.da.w2 && o.dc.w3 == o.da.w3 && o.dc.fmt == o.da.fmt && o.dc.skw == o.da.skw

/-- Some element of one list has a byte in common with one of another. -/
def meetElems (es fs : List Elem) : Bool := es.any fun e => fs.any fun x => e.a < x.a + x.len && x.a < e.a + e.len

/-- The rows of a VNORM.RMS that its overlap concerns (R161): DC meets DA or DB otherwise than as exactly DA, in the row's destination,
in its source, or in the gain that a long row reads again. DEDUCED: log entry 80. -/
def rmsOverlap (o : Op) (row : Nat) : Bool :=
  let src := (if rmsInPlace o then [] else o.da.elems) ++ o.db.elems
  meetElems (o.dc.rowElems row) src || (!rmsInPlace o && meetElems (o.da.rowElems row) o.dc.elems) ||
    (4096 < o.da.e0 && meetElems o.db.elems o.dc.elems)

/-- The values of row n as written: free ones where an overlap leaves them undefined (R161). DEDUCED: log entry 80. -/
def State.rmsValues (s : State) (o : Op) (n : Nat) (vs : List Nat) : State × List Nat :=
  if rmsOverlap o n then
    ({ s with free := s.free + vs.length }, (List.range vs.length).map fun i =>
      (Config.freeWord (s.free + i)).toNat % 2 ^ fmtW o.dc.fmt)
  else (s, vs)

/-- The second read of a long row and of the gain, element by element (R588): the outputs up to the first fault. -/
def State.rmsAgain (s : State) (c : Nat) (o : Op) (r : BitVec 32) (n : Nat) : List Nat → Res (List Nat × Option Nat)
  | [] => .ok s ([], none)
  | i :: is =>
    (s.readTo c .locker 9 [o.da.el (n * o.da.e0 + i), o.db.el i]).andThen fun s x =>
      match x with
      | ([v, g], none) => (s.rmsAgain c o r n is).andThen fun s y =>
          .ok s (rmsOut o.da.fmt (rmsWiden o.da.fmt v) r (rmsWiden o.da.fmt g) :: y.1, y.2)
      | (_, e) => .ok s ([], e)

/-- The reads of one row and its outputs: of a short row all of them, or none and the fault's cause; of a long row those before the
element that faulted in its second read (R588). -/
def State.rmsRead (s : State) (c : Nat) (o : Op) (gain : List Nat) (n : Nat) : Res (List Nat × Option Nat) :=
  (s.readTo c .locker 9 (o.da.rowElems n)).andThen fun s x =>
    match x.2 with
    | some e => .ok s ([], some e)
    | none =>
      let xs := x.1.map (rmsWiden o.da.fmt)
      let r := rmsFactor xs (o.ra.truncate 32)
      if o.da.e0 ≤ 4096 then
        .ok s ((List.range o.da.e0).map fun i => rmsOut o.da.fmt (xs.getD i 0) r (rmsWiden o.da.fmt (gain.getD i 0)), none)
      else s.rmsAgain c o r n (List.range o.da.e0)

/-- The outputs of a row are written: a short row whose destination is not addressable is not written at all (R588). -/
def State.rmsWrite (s : State) (c : Nat) (o : Op) (n : Nat) (vs : List Nat) : Res Unit :=
  let (s, vs) := s.rmsValues o n vs
  match (if o.da.e0 ≤ 4096 && vs.length = o.da.e0 then (o.dc.rowElems n).find? fun e => !s.elemOk c .locker e else none) with
  | some e => .fault s (s.elemCause c .locker e)
  | none => s.writeElems c .locker (List.zip (o.dc.rowElems n) vs)

/-- The rows of VNORM.RMS in order, each read and then written (R159, R588). -/
def State.rmsRows (s : State) (c : Nat) (o : Op) (gain : List Nat) : List Nat → Res Unit
  | [] => .ok s ()
  | n :: ns =>
    (s.rmsRead c o gain n).andThen fun s x =>
      (s.rmsWrite c o n x.1).andThen fun s _ => (s.orFault x.2).andThen fun s _ => s.rmsRows c o gain ns

/-- The rows read in order up to the first fault, before any is written: in place, the result is that of separate buffers (R161). -/
def State.rmsReadAll (s : State) (c : Nat) (o : Op) (gain : List Nat) : List Nat → Res (List (Nat × List Nat) × Option Nat)
  | [] => .ok s ([], none)
  | n :: ns =>
    (s.rmsRead c o gain n).andThen fun s x =>
      match x.2 with
      | some e => .ok s ([(n, x.1)], some e)
      | none => (s.rmsReadAll c o gain ns).andThen fun s y => .ok s ((n, x.1) :: y.1, y.2)

/-- Write the outputs of several rows. -/
def State.rmsWriteAll (s : State) (c : Nat) (o : Op) : List (Nat × List Nat) → Res Unit
  | [] => .ok s ()
  | (n, vs) :: t => (s.rmsWrite c o n vs).andThen fun s _ => s.rmsWriteAll c o t

/-- VNORM.RMS (R109, R159, R161, R588): the gain vector, then the rows. DEDUCED: log entry 80. -/
def State.runVnorm (s : State) (c : Nat) (o : Op) : Res Unit :=
  (s.readTo c .locker 9 o.db.elems).andThen fun s g =>
    (s.orFault g.2).andThen fun s _ =>
      if rmsInPlace o then
        (s.rmsReadAll c o g.1 (List.range o.da.rows)).andThen fun s x =>
          (s.rmsWriteAll c o x.1).andThen fun s _ => s.orFault x.2
      else s.rmsRows c o g.1 (List.range o.da.rows)

/-! ### Checks and issue -/

/-- The types an operation accepts (Table 3-11). -/
def vopTypes (opc : Nat) : List VT :=
  if opc = 0x07 then [.f32, .bf16]
  else if 0x0C ≤ opc ∧ opc ≤ 0x10 then [.i32]
  else if opc = 0x14 then [.f32, .i32]
  else [.f32, .bf16, .i32]

/-- X10 holds only what the operation names (R83, R106, R144). -/
def vopX10Ok (opc : Nat) (t : VT) (x : Nat) : Bool :=
  match opc with
  | 0x03 => x < 128 && (t == .bf16 || x < 64)
  | 0x10 => x < 2
  | 0x11 => x < 8 && bits x 1 0 ≠ 3 && bits x 1 0 ≠ (match t with | .f32 => 0 | .bf16 => 1 | .i32 => 2) && (t == .bf16 || !bit x 2)
  | _ => x == 0

/-- The register fields an operation does not name are zero: VS1, VS2, VS3 and DA in turn (Table 3-11). -/
def vopFieldsOk (opc x : Nat) (f : FmtV) : Bool :=
  let n := if opc ≤ 1 then 0
    else if opc = 0x02 ∨ opc = 0x03 ∨ opc = 0x0A ∨ opc = 0x0B ∨ opc = 0x12 ∨ opc = 0x13 then 1
    else if opc = 0x07 then 3 else if opc = 0x11 then (if bits x 1 0 = 1 then 2 else 1) else 2
  (1 ≤ n || f.vs1 == 0) && (2 ≤ n || f.vs2 == 0) && (3 ≤ n || f.vs3 == 0) && (opc ≤ 1 || f.da == 0)

/-- Decode checks of VOP (R83, R106). -/
def vopBad (f : FmtV) : Bool :=
  match vtOf f.t with
  | none => true
  | some t => !(vopTypes f.vopc.toNat).contains t || !vopX10Ok f.vopc.toNat t f.x10.toNat || !vopFieldsOk f.vopc.toNat f.x10.toNat f

/-- The descriptor of VOP LD and ST: format of the type, 64 or 128 elements (Table 3-11). -/
def vopDescOk (k : Core) (c : Nat) (f : FmtV) : Bool :=
  let d := k.rd f.da.toNat
  match vtOf f.t with
  | some .f32 => k.dOk c f.da.toNat [5] && d.count == 64
  | some .bf16 => k.dOk c f.da.toNat [6] && d.count == 128
  | some .i32 => k.dOk c f.da.toNat [3] && d.count == 64
  | none => false

/-- Issue of a VOP row: a term whose VOPC is another row's is no instance of it. -/
def State.vop (s : State) (c : CoreId) (i : Instr) (opc : Nat) (f : FmtV) (ok : Core → Bool) : Out :=
  if f.vopc.toNat ≠ opc then .fault .illFormed else .next (s.issueV c i .vec f (vopBad f) ok)

/-- VOP LD. -/
def execVopLd (c : CoreId) (f : FmtV) (s : State) : Out := s.vop c (.vopLd c f) 0x00 f fun k => vopDescOk k c f
/-- VOP ST. -/
def execVopSt (c : CoreId) (f : FmtV) (s : State) : Out := s.vop c (.vopSt c f) 0x01 f fun k => vopDescOk k c f
/-- VOP MOV. -/
def execVopMov (c : CoreId) (f : FmtV) (s : State) : Out := s.vop c (.vopMov c f) 0x02 f fun _ => true
/-- VOP BCAST. -/
def execVopBcast (c : CoreId) (f : FmtV) (s : State) : Out := s.vop c (.vopBcast c f) 0x03 f fun _ => true
/-- VOP ADD. -/
def execVopAdd (c : CoreId) (f : FmtV) (s : State) : Out := s.vop c (.vopAdd c f) 0x04 f fun _ => true
/-- VOP SUB. -/
def execVopSub (c : CoreId) (f : FmtV) (s : State) : Out := s.vop c (.vopSub c f) 0x05 f fun _ => true
/-- VOP MUL. -/
def execVopMul (c : CoreId) (f : FmtV) (s : State) : Out := s.vop c (.vopMul c f) 0x06 f fun _ => true
/-- VOP FMA. -/
def execVopFma (c : CoreId) (f : FmtV) (s : State) : Out := s.vop c (.vopFma c f) 0x07 f fun _ => true
/-- VOP MAX. -/
def execVopMax (c : CoreId) (f : FmtV) (s : State) : Out := s.vop c (.vopMax c f) 0x08 f fun _ => true
/-- VOP MIN. -/
def execVopMin (c : CoreId) (f : FmtV) (s : State) : Out := s.vop c (.vopMin c f) 0x09 f fun _ => true
/-- VOP ABS. -/
def execVopAbs (c : CoreId) (f : FmtV) (s : State) : Out := s.vop c (.vopAbs c f) 0x0A f fun _ => true
/-- VOP NEG. -/
def execVopNeg (c : CoreId) (f : FmtV) (s : State) : Out := s.vop c (.vopNeg c f) 0x0B f fun _ => true
/-- VOP AND. -/
def execVopAnd (c : CoreId) (f : FmtV) (s : State) : Out := s.vop c (.vopAnd c f) 0x0C f fun _ => true
/-- VOP OR. -/
def execVopOr (c : CoreId) (f : FmtV) (s : State) : Out := s.vop c (.vopOr c f) 0x0D f fun _ => true
/-- VOP XOR. -/
def execVopXor (c : CoreId) (f : FmtV) (s : State) : Out := s.vop c (.vopXor c f) 0x0E f fun _ => true
/-- VOP SHL. -/
def execVopShl (c : CoreId) (f : FmtV) (s : State) : Out := s.vop c (.vopShl c f) 0x0F f fun _ => true
/-- VOP SHR. -/
def execVopShr (c : CoreId) (f : FmtV) (s : State) : Out := s.vop c (.vopShr c f) 0x10 f fun _ => true
/-- VOP CVT. -/
def execVopCvt (c : CoreId) (f : FmtV) (s : State) : Out := s.vop c (.vopCvt c f) 0x11 f fun _ => true
/-- VOP RSUM. -/
def execVopRsum (c : CoreId) (f : FmtV) (s : State) : Out := s.vop c (.vopRsum c f) 0x12 f fun _ => true
/-- VOP RMAX. -/
def execVopRmax (c : CoreId) (f : FmtV) (s : State) : Out := s.vop c (.vopRmax c f) 0x13 f fun _ => true
/-- VOP PERM. -/
def execVopPerm (c : CoreId) (f : FmtV) (s : State) : Out := s.vop c (.vopPerm c f) 0x14 f fun _ => true

/-- The operands of VNORM.RMS (R109). -/
def vnormOk (k : Core) (c : Nat) (f : FmtE) : Bool :=
  let a := k.rd f.da.toNat
  let b := k.rd f.db.toNat
  let d := k.rd f.dc.toNat
  k.dOk c f.da.toNat [5, 6] && k.dOk c f.db.toNat [5, 6] && k.dOk c f.dc.toNat [5, 6] && a.fmt == b.fmt && a.fmt == d.fmt &&
    a.e0 == d.e0 && a.e1 == d.e1 && a.e2 == d.e2 && a.e3 == d.e3 && b.count == a.e0

/-- VNORM.RMS. -/
def execVnormRms (c : CoreId) (f : FmtE) (s : State) : Out :=
  .next (s.issueE c (.vnormRms c f) .vec f (f.rb != 0 || f.x20 != 0) (fun k => vnormOk k c f) id)

/-- Decode checks of the SFU instructions (R108, R154). -/
def sfuBad (f : FmtV) : Bool :=
  f.vopc != 0 || f.vs2 != 0 || f.vs3 != 0 || f.da != 0 || 2 ≤ f.x10.toNat || 2 ≤ f.t.toNat || (f.x10.getLsbD 0 && f.t != 0)

/-- SFU.TANH. -/
def execSfuTanh (c : CoreId) (f : FmtV) (s : State) : Out := .next (s.issueV c (.sfuTanh c f) .sfu f (sfuBad f) fun _ => true)
/-- SFU.SIG. -/
def execSfuSig (c : CoreId) (f : FmtV) (s : State) : Out := .next (s.issueV c (.sfuSig c f) .sfu f (sfuBad f) fun _ => true)
/-- SFU.EXP2. -/
def execSfuExp2 (c : CoreId) (f : FmtV) (s : State) : Out := .next (s.issueV c (.sfuExp2 c f) .sfu f (sfuBad f) fun _ => true)
/-- SFU.RSQ. -/
def execSfuRsq (c : CoreId) (f : FmtV) (s : State) : Out := .next (s.issueV c (.sfuRsq c f) .sfu f (sfuBad f) fun _ => true)
/-- SFU.RCP. -/
def execSfuRcp (c : CoreId) (f : FmtV) (s : State) : Out := .next (s.issueV c (.sfuRcp c f) .sfu f (sfuBad f) fun _ => true)

end Sys2Proof.Machine
end

