-- ==== Sys2Proof/Machine/CoreEvents.lean ====
section
/-! DEFINITION. Core execution events (02): resumption of issue, engine operations, dispatch, ends, stops, signals and
barriers arriving, stores acknowledged, L1 fills and a core marked down. -/

namespace Sys2Proof.Machine

/-! ### Issue resumes (R41) -/

/-- Issue again the instruction a core is stalled on. -/
def reissue (i : Instr) (s : State) : Out :=
  match i with
  | .ld c f => execLd c f s | .st c f => execSt c f s
  | .add c f => execAdd c f s | .sub c f => execSub c f s | .mul c f => execMul c f s
  | .and c f => execAnd c f s | .or c f => execOr c f s | .xor c f => execXor c f s
  | .shl c f => execShl c f s | .shr c f => execShr c f s | .cmp c f => execCmp c f s
  | .mov c f => execMov c f s | .dset c f => execDset c f s
  | .br c f => execBr c f s | .brp c f => execBrp c f s | .call c f => execCall c f s | .ret c f => execRet c f s
  | .dmaCp c f => execDmaCp c f s | .dmaSkew c f => execDmaSkew c f s | .redLlc c f => execRedLlc c f s
  | .dead c f => execDead c f s | .halRd c f => execHalRd c f s | .halWr c f => execHalWr c f s
  | .mxload c f => execMxload c f s | .mma c f => execMma c f s | .mmaT c f => execMmaT c f s
  | .accClr c f => execAccClr c f s | .accRd c f => execAccRd c f s
  | .vopLd c f => execVopLd c f s | .vopSt c f => execVopSt c f s | .vopMov c f => execVopMov c f s
  | .vopBcast c f => execVopBcast c f s | .vopAdd c f => execVopAdd c f s | .vopSub c f => execVopSub c f s
  | .vopMul c f => execVopMul c f s | .vopFma c f => execVopFma c f s | .vopMax c f => execVopMax c f s
  | .vopMin c f => execVopMin c f s | .vopAbs c f => execVopAbs c f s | .vopNeg c f => execVopNeg c f s
  | .vopAnd c f => execVopAnd c f s | .vopOr c f => execVopOr c f s | .vopXor c f => execVopXor c f s
  | .vopShl c f => execVopShl c f s | .vopShr c f => execVopShr c f s | .vopCvt c f => execVopCvt c f s
  | .vopRsum c f => execVopRsum c f s | .vopRmax c f => execVopRmax c f s | .vopPerm c f => execVopPerm c f s
  | .vnormRms c f => execVnormRms c f s
  | .sfuTanh c f => execSfuTanh c f s | .sfuSig c f => execSfuSig c f s | .sfuExp2 c f => execSfuExp2 c f s
  | .sfuRsq c f => execSfuRsq c f s | .sfuRcp c f => execSfuRcp c f s
  | .selTopk c f => execSelTopk c f s | .selMerge c f => execSelMerge c f s
  | .lkuLoad c f => execLkuLoad c f s | .lkuSwap c f => execLkuSwap c f s | .lkuPq c f => execLkuPq c f s
  | .fenceL c f => execFenceL c f s | .fenceR c f => execFenceR c f s | .invL1 c f => execInvL1 c f s
  | .bar c f => execBar c f s | .wait c f => execWait c f s | .waitSignal c f => execWaitSignal c f s
  | .waitall c f => execWaitall c f s | .signal c f => execSignal c f s | .signalEv c f => execSignalEv c f s
  | _ => .next s

/-- The instruction at the PC of a core whose issue is free is fetched, decoded and issued (R43, R82, R83, R92): a word that no
row spells stops the core with cause 0x01. DEDUCED: log entry 81. -/
def State.issueWord (s : State) (c : CoreId) : Out :=
  let k := s.core c
  if k.phase ≠ .running || k.down || !s.clocked c || k.atBar.isSome then .next s
  else
    match s.fetchLine c k.pc.toNat with
    | .wait sn => .next (s.addSnoops sn)
    | .fault s e => .next (s.stopCore c e k.pc.toNat)
    | .ok s (some 0) => .next s
    | .ok s (some e) => .next (s.stopCore c e k.pc.toNat)
    | .ok s none =>
      match coreInstr c (BitVec.ofNat 64 (leNat (mread s.mem k.pc.toNat 8))) (BitVec.ofNat 64 (leNat (mread s.mem (k.pc.toNat + 8) 8))) with
      | some i => reissue i s
      | none => .next (s.stopCore c 1 k.pc.toNat)

/-- ISSUE_RESUME: the instruction a core stalled on issues, or stalls again; on a core whose issue is free, the instruction at its PC.
DEDUCED: log entry 81. -/
def execIssueResume (c : CoreId) (s : State) : Out :=
  match (s.core c).stall with
  | some i => reissue i s
  | none => s.issueWord c

/-! ### Engine operations start (R41, R114, R115, R175, R176) -/

/-- Kinds of LKU operation. -/
def isLoad (o : Op) : Bool := match o.i with | .lkuLoad _ _ => true | _ => false
/-- LKU.PQ. -/
def isPq (o : Op) : Bool := match o.i with | .lkuPq _ _ => true | _ => false
/-- LKU.SWAP. -/
def isSwap (o : Op) : Bool := match o.i with | .lkuSwap _ _ => true | _ => false

/-- MMA or MMA.T. -/
def isMma (o : Op) : Bool := match o.i with | .mma _ _ => true | .mmaT _ _ => true | _ => false
/-- MXLOAD. -/
def isMxload (o : Op) : Bool := match o.i with | .mxload _ _ => true | _ => false
/-- VNORM.RMS. -/
def isVnorm (o : Op) : Bool := match o.i with | .vnormRms _ _ => true | _ => false

/-- Two MXU operations use one accumulator bank. -/
def sharesBank (o r : Op) : Bool := (instrBanks o.i).any (instrBanks r.i).contains

/-- The conditions of Table 4-6 on the operations before an MXU operation, its timing apart (R136). -/
def Core.mxuMayStart (k : Core) (o : Op) : Bool :=
  let before := k.run.filter fun r => r.eng == .mxu
  if isMxload o then true
  else if isMma o then before.all fun r => !isMxload r && (isMma r || !sharesBank o r)
  else before.all fun r => isMxload r || (isMma r && !sharesBank o r)

/-- The vector registers a VEC operation writes. -/
def vecWrites (o : Op) : List Nat := match o.i with | .vopSt _ _ => [] | .vnormRms _ _ => [] | i => (instrVregs i).take 1
/-- The vector registers a VEC operation reads. -/
def vecReads (o : Op) : List Nat := match o.i with | .vopSt _ f => [f.vd.toNat] | i => (instrVregs i).drop 1

/-- A VEC operation uses the locker port or the reduction tree (Table 5-2). -/
def vecHolds (o : Op) : Bool :=
  match o.i with
  | .vopLd _ _ => true | .vopSt _ _ => true | .vopRsum _ _ => true | .vopRmax _ _ => true | .vnormRms _ _ => true | _ => false

/-- The conditions of R145 on the operations before a VEC operation, its timing apart: what it reads has been written, and no
VNORM.RMS holds the port or tree it uses. -/
def Core.vecMayStart (k : Core) (o : Op) : Bool :=
  (k.run.filter fun r => r.eng == .vec).all fun r =>
    !(vecReads o).any (vecWrites r).contains && !(vecHolds o && isVnorm r) && !(isVnorm o && vecHolds r)

/-- The next operation of an engine may start: for the LKU, its resource is free and R114, R115 and R176 permit; for the MXU under
Table 4-6, for VEC under R145. DEDUCED: log entry 26. -/
def Core.mayStart (k : Core) (o : Op) : Bool :=
  if o.eng = .mxu then k.mxuMayStart o
  else if o.eng = .vec then k.vecMayStart o
  else if isLoad o then k.run.all fun r => !(isLoad r && !r.fin) && !(isPq r && r.copy = 1 - k.liveCopy)
  else if isPq o then k.run.all fun r => !(isPq r && !r.fin)
  else if isSwap o then k.run.all fun r => !(isLoad r && !r.fin)
  else true

/-- Start an operation: a PQ records the live copy, a LOAD the shadow; a SWAP takes effect (R113, R114, R176). -/
def Core.startOp (k : Core) (o : Op) : Core :=
  if isSwap o then { k.lkuSwapNow with run := k.run ++ [{ o with fin := true }] }
  else { k with run := k.run ++ [{ o with copy := if isLoad o then 1 - k.liveCopy else k.liveCopy }] }

/-- Free the tokens of finished LKU operations that stand first in issue order (R175). DEDUCED: log entry 25. -/
def lkuCascade : List Op → List Op × List Nat
  | [] => ([], [])
  | o :: os =>
    if o.eng ≠ .lku then let (l, t) := lkuCascade os; (o :: l, t)
    else if o.fin then let (l, t) := lkuCascade os; (l, o.tok :: t)
    else (o :: os, [])

/-- Tokens become free (R49). -/
def Core.freeToks (k : Core) (ts : List Nat) : Core :=
  { k with tok := ts.foldl (fun b t => b &&& ~~~(BitVec.twoPow 64 t)) k.tok }

/-- Finished LKU operations at the head complete. DEDUCED: log entry 25. -/
def Core.cascade (k : Core) : Core :=
  let (r, ts) := lkuCascade k.run
  ({ k with run := r }).freeToks ts

/-- The core stopped at the abort point of its command (R331). -/
def Core.atAbort (k : Core) : Bool := k.stop.any fun x => x.cause = 0x0D

/-- An operation ends before its first element, its token free: an LKU.LOAD leaves its slot undefined (R331, R586). -/
def State.endOp (s : State) (c : Nat) (o : Op) : State :=
  let s := match o.i with
    | .lkuLoad _ f => s.undefEntries c (1 - (s.core c).liveCopy) (lkuSlot f) (List.range o.da.count)
    | _ => s
  s.setCore c ((s.core c).freeToks [o.tok])

/-- ENGINE_OP_START: the first operation of an engine's queue leaves it and starts; on a core stopped at its abort point it ends
instead, none of its elements performed (R331). DEDUCED: log entry 26. -/
def execEngineOpStart (c : CoreId) (e : Eng) (s : State) : Out :=
  let k := s.core c
  match k.q.find? fun o => o.eng == e with
  | some o =>
    if !s.clocked c then .next s
    else if k.atAbort then .next ((s.endOp c o).setCore c
      { (s.endOp c o).core c with q := dropFirst (fun o => o.eng == e) (s.core c).q })
    else if k.mayStart o then
      .next (s.setCore c (({ k with q := dropFirst (fun o => o.eng == e) k.q }).startOp o).cascade)
    else .next s
  | none => .next s

/-! ### Engine operations complete (R49, R50, R72) -/

/-- What an operation does. -/
def State.runOp (s : State) (c : Nat) (o : Op) : Res Unit :=
  let vec (f : FmtV) : Res Unit := s.spending c fun s => .ok (s.setCore c ((s.core c).runVop f)) ()
  let sfu (fn : Sf) (f : FmtV) : Res Unit := s.spending c fun s => .ok (s.setCore c ((s.core c).runSfu fn f)) ()
  match o.i with
  | .dmaCp _ _ => s.runDmaCp c o
  | .dmaSkew _ _ => s.runDmaSkew c o
  | .redLlc _ f => s.runRed c o (Fin.ofNat 4 f.x20.toNat)
  | .dead _ _ => s.runDead c o
  | .halRd _ _ => s.runHalRd c o
  | .halWr _ _ => s.runHalWr c o
  | .mxload _ _ => s.runMxload c o
  | .mma _ f => s.runMma c o f
  | .mmaT _ f => s.runMmaT c o f
  | .accClr _ f => s.runAccClr c f
  | .accRd _ f => s.runAccRd c o f
  | .vopLd _ f => s.runVopLd c o f
  | .vopSt _ f => s.runVopSt c o f
  | .vopMov _ f => vec f | .vopBcast _ f => vec f | .vopAdd _ f => vec f | .vopSub _ f => vec f
  | .vopMul _ f => vec f | .vopFma _ f => vec f | .vopMax _ f => vec f | .vopMin _ f => vec f
  | .vopAbs _ f => vec f | .vopNeg _ f => vec f | .vopAnd _ f => vec f | .vopOr _ f => vec f
  | .vopXor _ f => vec f | .vopShl _ f => vec f | .vopShr _ f => vec f | .vopCvt _ f => vec f
  | .vopRsum _ f => vec f | .vopRmax _ f => vec f | .vopPerm _ f => vec f
  | .vnormRms _ _ => s.runVnorm c o
  | .sfuTanh _ f => sfu .tanh f
  | .sfuSig _ f => sfu .sig f
  | .sfuExp2 _ f => sfu .exp2 f
  | .sfuRsq _ f => sfu .rsq f
  | .sfuRcp _ f => sfu .rcp f
  | .selTopk _ f => s.runTopk c o f
  | .selMerge _ f => s.runMerge c o f
  | .lkuLoad _ f => s.runLkuLoad c o f
  | .lkuPq _ f => s.runLkuPq c o f
  | _ => .ok s ()

/-- The i-th started operation of an engine may complete next: the first of its channel for DMA, any for HAL, the first
for an in-order engine; an LKU operation may finish when no earlier one of its kind is unfinished (Table 2-1, R175). -/
def Core.mayComplete (k : Core) (e : Eng) (i : Nat) (o : Op) : Bool :=
  let before := (k.run.filter fun r => r.eng == e).take i
  match e with
  | .dma => before.all fun r => r.ch ≠ o.ch
  | .hal => true
  | .lku => !o.fin && before.all fun r => r.fin || (isLoad r != isLoad o)
  | _ => i == 0

/-- Position in a list of the i-th element that satisfies p. -/
def nthIdx {α : Type} (p : α → Bool) : List α → Nat → Nat → Option Nat
  | [], _, _ => none
  | x :: xs, i, j => if p x then (if i = 0 then some j else nthIdx p xs (i - 1) (j + 1)) else nthIdx p xs i (j + 1)

/-- Replace the element at a position. -/
def setAt {α : Type} : Nat → α → List α → List α
  | _, _, [] => []
  | 0, y, _ :: xs => y :: xs
  | i + 1, y, x :: xs => x :: setAt i y xs

/-- An operation ends with its token freed in the engine's order. -/
def Core.finish (k : Core) (j : Nat) (o : Op) : Core :=
  if o.eng = .lku then ({ k with run := setAt j { o with fin := true } k.run }).cascade
  else ({ k with run := dropAt j k.run }).freeToks [o.tok]

/-- An operation ends at a faulting element (R72, R73): an imprecise stop; an uncorrectable read halts a DMA channel (Table 18-2). -/
def State.faultOp (s : State) (c j : Nat) (o : Op) (cause : Nat) : State :=
  let k := s.core c
  let k := ({ k with run := dropAt j k.run }).cascade
  let k := if o.eng = .dma && cause = 0x0A then { k with chHalt := k.chHalt ||| BitVec.twoPow 4 o.ch } else k
  (s.setCore c k).stopCore c cause o.pc

/-- An operation makes requests on the mesh or the halyard: those of DMA and HAL with an operand outside the core's own locker, and
an LKU.LOAD from HBM (R55). -/
def Op.requests (c : Nat) (o : Op) : Bool :=
  let out (d : Desc) : Bool := d.elems.any fun e => !inLocker c e.a.toNat
  match o.i with
  | .dmaCp _ _ => out o.da || out o.db
  | .dmaSkew _ _ => out o.da
  | .lkuLoad _ _ => out o.da
  | _ => o.eng == .dma || o.eng == .hal

/-- The requests of a started operation wait: it has one outstanding (R55). -/
def Core.opWaits (k : Core) (j : Nat) (o : Op) : Core := { k with run := setAt j { o with waits := true } k.run }

/-- A started operation performs its work, and what it answers comes about: it completes, faults, or waits for another agent. -/
def State.finishOp (s : State) (c j : Nat) (o : Op) : State :=
  match (s.flushPlaced c).andThen fun s _ => s.runOp c o with
  | .ok s _ => s.setCore c ((s.core c).finish j o)
  | .fault s cause => s.faultOp c j o cause
  | .wait sn => (s.addSnoops sn).setCore c ((s.core c).opWaits j o)

/-- A started operation of a core stopped at its abort point ends at its next element: how many it has performed by then is free
(R72, R331). DESIGN CHOICE: log entry 82. -/
def State.cutOp (s : State) (c j : Nat) (o : Op) : State :=
  let s1 := ({ s with free := s.free + 1 } : State).setCore c { s.core c with budget := some (Config.freeWord s.free).toNat }
  let s2 := s1.finishOp c j o
  s2.setCore c { s2.core c with budget := none }

/-- ENGINE_OP_COMPLETE: the i-th started operation of an engine performs its work and completes, or faults. The queued
operations of a halted channel count as complete without being performed (R73); an operation that makes requests waits for room
(R55). -/
def execEngineOpComplete (c : CoreId) (e : Eng) (i : Nat) (s : State) : Out :=
  let k := s.core c
  match nthIdx (fun o => o.eng == e) k.run i 0 with
  | none => .next s
  | some j =>
    match k.run[j]? with
    | none => .next s
    | some o =>
      if !k.mayComplete e i o || !s.clocked c then .next s
      else if e == .dma && k.chHalt.getLsbD o.ch then .next (s.setCore c (k.finish j o))
      else if !k.room && !o.waits && o.requests c then .next s
      else .next (if k.atAbort then s.cutOp c j o else s.finishOp c j o)

/-! ### Stops and ends (R47, R73 to R77) -/

/-- STOP_DRAIN_DONE: a stopping core has drained; its channels are reset (R73, R77). -/
def execStopDrainDone (c : CoreId) (s : State) : Out :=
  let k := s.core c
  if k.phase = .draining ∧ k.q = [] ∧ k.run = [] ∧ k.posted = [] then
    .next (s.setCore c { k with phase := .stopped, chHalt := 0 })
  else .next s

/-- STOP_REPORT: a stopped core's report reaches the front end (R74, R75). -/
def execStopReport (c : CoreId) (s : State) : Out :=
  let k := s.core c
  match s.rigOfCore c, k.stop with
  | some r, some st =>
    if k.phase = .stopped && s.passes (s.coreNode c) .front && (s.rig r).running.any fun m => m.cores.getLsbD c && !m.stopped.getLsbD c then
      .next (s.report r c st)
    else .next s
  | _, _ => .next s

/-- CORE_END_REPORT: a core whose program has ended and whose work is performed reports completion (R47). -/
def execCoreEndReport (c : CoreId) (s : State) : Out :=
  let k := s.core c
  if k.phase = .ending ∧ k.tok = 0 ∧ k.posted = [] ∧ s.passes (s.coreNode c) .front then
    let s := s.setCore c { k with phase := .ended }
    match s.rigOfCore c with
    | some r => .next ((s.modCmd r fun m => { m with ended := m.ended ||| BitVec.twoPow 4096 c }).settle r)
    | none => .next s
  else .next s

/-- DISPATCH: a core receives its copy of the dispatch packet (R43, R314, Table 2-2) once no router on the way holds it (R322); tokens are
free and channels reset (R77). -/
def execDispatch (c : CoreId) (s : State) : Out :=
  let k := s.core c
  match k.disp with
  | none => .next s
  | some d =>
    if k.down then .next (s.setCore c { k with disp := none })
    else if !s.passes .front (s.coreNode c) then .next s
    else
      let k := { k.clearL1s with
        phase := .running, stop := none, stall := none, disp := none, cyc := 0
        g := [], p := 0, d := [], v := [], acc := [], accW := 0, tok := 0, ret := [], pc := BitVec.ofNat 64 d.entry
        atBar := none, chHalt := 0, q := [], run := [], posted := [] }
      let k := (((k.wg 1 (BitVec.ofNat 64 c)).wg 2 (BitVec.ofNat 64 d.index)).wg 3 (BitVec.ofNat 64 d.count)).wg 4
        (BitVec.ofNat 64 d.opnd)
      .next ((s.setCore c k).lockerWrite (lockerAddr c signalOff) (leBytes 8 0))

/-! ### Signals, barriers and stores -/

/-- SIGNAL_OR_ARRIVAL: a posted signal that may be next reaches its target and is performed; its request stays outstanding until it is
acknowledged (R55, R65, R66, R310, R584). DESIGN CHOICE: log entry 23. -/
def execSignalOrArrival (c : CoreId) (s : State) : Out :=
  if s.furled c then .next s
  else
    match s.nextPost c fun p => !p.isStore && !p.done with
    | none => .next s
    | some i =>
      match (s.core c).posted[i]? with
      | none => .next s
      | some p =>
        if !s.postPasses c p.p then .next s
        else
        let t := s.signalArrive c p.p
        .next (({ t with free := s.free + 1 } : State).setCore c
          { t.core c with posted := setAt i { p with done := true } (t.core c).posted })

/-- STORE_ACKNOWLEDGEMENT: a posted store that may be next is performed and acknowledged, or a signal that has been performed is
acknowledged (R55, R62, R310). DESIGN CHOICE: log entry 23. -/
def execStoreAcknowledgement (c : CoreId) (s : State) : Out :=
  if s.furled c then .next s
  else
    match s.nextPost c fun p => p.isStore || p.done with
    | none => .next s
    | some i =>
      match (s.core c).posted[i]? with
      | none => .next s
      | some p =>
        match s.performPost c p with
        | .ok t _ => .next (({ t with free := t.free + 1 } : State).setCore c
            { t.core c with posted := dropAt i (t.core c).posted })
        | .fault s _ => .next s
        | .wait sn => .next (s.addSnoops sn)

/-- BARRIER_ARRIVAL: a core waiting at a barrier is observed by the barrier unit (R67). -/
def execBarrierArrival (c : CoreId) (s : State) : Out :=
  match (s.core c).atBar, s.rigOfCore c with
  | some g, some r =>
    if !s.passes (s.coreNode c) .front then .next s
    else .next (s.modCmd r fun m => { m with arrived := tset 0 m.arrived g (tget 0 m.arrived g ||| BitVec.twoPow 4096 c) })
  | _, _ => .next s

/-- BARRIER_RELEASE: a group all of whose members have arrived or ended is released, by multicast (R68, R314); no copy goes out while
routers of its tree hold (R322). DESIGN CHOICE: log entry 93. -/
def execBarrierRelease (r : RigId) (g : Fin 16) (s : State) : Out :=
  match (s.rig r).running with
  | none => .next s
  | some m =>
    let grp := m.group g
    let got := tget 0 m.arrived g
    if grp == 0 || (got == 0) || (got ||| m.ended) &&& grp != grp || !s.mcastPasses grp then .next s
    else
      let s := s.each ((s.cores.map (·.1)).filter fun c => (got &&& grp).getLsbD c) fun s c =>
        if (s.core c).atBar = some g then (s.setCore c { s.core c with atBar := none }).advance c false else s
      .next (s.modCmd r fun m => { m with arrived := tset 0 m.arrived g 0 })

/-- CORE_MARKED_DOWN (R76, R496). -/
def execCoreMarkedDown (c : CoreId) (s : State) : Out := .next (s.markDown true c)

/-- L1_FILL: a fill of either L1 cache returns (R209, R210): the line is allocated unless a word of it is
uncorrectable. -/
def execL1Fill (c : CoreId) (instr : Bool) (a : Nat) (s : State) : Out :=
  let k := s.core c
  if k.down || !s.clocked c || !k.room || 2 ^ 48 ≤ a || !s.mayAddr c a || (match place a with | .hbm => false | .tile _ _ => instr | _ => true) then
    .next s
  else if instr then
    match s.fetchLine c a with
    | .ok s _ => .next s
    | .fault s _ => .next s
    | .wait sn => .next (s.addSnoops sn)
  else if k.l1d.contains (a / 256) then .next s
  else
    match s.l1Fetch c a 1 with
    | .ok s _ => .next s
    | .fault s _ => .next s
    | .wait sn => .next (s.addSnoops sn)

/-- LOCKER_REMOTE_ACCESS: an access to a locker from the mesh (R205 to R207); it waits while routers on its way hold it (R322), and the
host's meets R416 while the core's rig is re-rigged. -/
def execLockerRemoteAccess (who : Who) (c : CoreId) (off : Nat) (op : MemOp) (s : State) : Out :=
  let n := match op with | .read n => n | .write bs => bs.length
  let refused := match who with
    | .core d => s.refusedAt d (lockerAddr c off)
    | _ => (s.core c).down
  if lockerSize < off + n || !s.linked who (lockerAddr c off) then .next s
  else if who = .host && s.rerigging (lockerAddr c off) then
    .next (match op with | .read n => { s with rsp := some (leBytes n 0, false) } | .write _ => s)
  else if refused then
    .next (match op with | .read n => { s with rsp := some (leBytes n 0, true) } | .write _ => s)
  else
    let mayReach := match who with
      | .core d => s.rigOfCore d = s.rigOfCore c && (s.rigOfCore c).isSome && !s.furled d
      | _ => true
    if !mayReach then .next s
    else
      match op with
      | .read n => let (s, x) := s.lockerRead (lockerAddr c off) n; .next { s with rsp := some x }
      | .write bs => .next (s.lockerWrite (lockerAddr c off) bs)

end Sys2Proof.Machine
end

