-- ==== Sys2Proof/Machine/Fixed.lean ====
section
/-! DEFINITION. The fixed behaviour of commands: COPY and FILL (R370), SCRUB (R485 to R487), TABLE (R371), PERF (R373),
and stages 1 to 6 of SEARCH (R164 to R187). -/

namespace Sys2Proof.Machine

/-! ### COPY and FILL -/

/-- Read 64 B words until one is uncorrectable: the words read, and that word's address. -/
def State.wordsRead (s : State) (a : Nat) : Nat → Res (List (List Byte) × Option Nat)
  | 0 => .ok s ([], none)
  | n + 1 =>
    (s.readAt .device 0 a 64).andThen fun s x =>
      if x.2 then .ok s ([], some a)
      else (s.wordsRead (a + 64) n).andThen fun s y => .ok s (x.1 :: y.1, y.2)

/-- Write 64 B words. -/
def State.wordsWrite (s : State) (a : Nat) : List (List Byte) → Res Unit
  | [] => .ok s ()
  | w :: ws => (s.writeAt .device 0 a w).andThen fun s _ => s.wordsWrite (a + 64) ws

/-- COPY (R370): the words before the first uncorrectable one are copied; what falls into the overlap of source and
destination is undefined. DESIGN CHOICE: log entry 24. -/
def State.doCopy (s : State) (r : CRec) : Res Fin' :=
  let a := r.u 24 8
  let b := r.u 32 8
  let n := r.u 40 8
  (s.wordsRead a (n / 64)).andThen fun s x =>
    let lap (i : Nat) : Bool := a < b + n && b < a + n && a ≤ b + 64 * i && b + 64 * i < a + n
    let out := x.1.zipIdx.map fun e => if lap e.2 then s.freeBytes 64 |>.map fun y => y + Config.freeByte (s.free + 64 + e.2) else e.1
    (({ s with free := s.free + 64 + x.1.length } : State).wordsWrite b out).andThen fun s _ =>
      .ok s (match x.2 with | some w => finUe w | none => finOk)

/-- FILL (R370). DESIGN CHOICE: log entry 24. -/
def State.doFill (s : State) (r : CRec) : Res Fin' :=
  let n := r.u 32 8
  let w := (List.replicate 8 (leBytes 8 (r.u 40 8))).flatten
  (s.wordsWrite (r.u 24 8) (List.replicate (n / 64) w)).andThen fun s _ => .ok s finOk

/-! ### Scrubs -/

/-- Scrub one word of a written granule (R485): corrected words are rewritten unless NOFIX. The counts are corrected,
uncorrectable, and the first uncorrectable address. -/
def scrubWord (nofix : Bool) (x : State × Nat × Nat × Option Nat) (w : Nat) : State × Nat × Nat × Option Nat :=
  let (s, cor, unc, first) := x
  let lost := place w = .hbm && (s.chan (chanUnit w)).lost
  if lost then (s.countUe 2 (chanUnit w), cor, unc + 1, first.or (some w))
  else
    match s.mark w with
    | .none => x
    | .ce _ => let s := (s.meet w).1; (if nofix then s else s.setMark w .none, cor + 1, unc, first)
    | .ue => ((s.meet w).1, cor, unc + 1, first.or (some w))

/-- Scrub one granule: an unwritten, dead or poisoned-unwritten one is visited without a read. -/
def scrubGran (nofix : Bool) (x : State × Nat × Nat × Option Nat) (g : Nat) : State × Nat × Nat × Option Nat :=
  if x.1.granAt (4096 * g) = .written then ((List.range 64).map fun i => 4096 * g + 64 * i).foldl (scrubWord nofix) x else x

/-- Scrub a range of granules, up to the first of a core that is down (R35): the state, the summary of Table 18-6, and whether the whole
range was visited. -/
def State.scrubRange (s : State) (a n : Nat) (nofix : Bool) : State × List (BitVec 64) × Bool :=
  let all := (List.range (n / 4096)).map (· + a / 4096)
  let gs := all.takeWhile fun g => !s.downAt (4096 * g)
  let (s, cor, unc, first) := gs.foldl (scrubGran nofix) (s, 0, 0, none)
  (s, [BitVec.ofNat 64 gs.length, BitVec.ofNat 64 cor, BitVec.ofNat 64 unc, BitVec.ofNat 64 (first.getD (2 ^ 64 - 1))],
    gs.length == all.length)

/-- How a scrub ends: FAULT_DOWN when it came to a core that is down (R35). -/
def finScrub (whole : Bool) : Fin' := if whole then finOk else ⟨0x21, stopDetail 0 none 0x0B⟩

/-- SCRUB (R485 to R487), and how it ended. -/
def State.doScrub (s : State) (r : CRec) : State × Fin' :=
  let (s, sum, whole) := s.scrubRange (r.u 24 8) (r.u 32 8) (bit (r.u 48 1) 0)
  (s.putSum sum (r.u 40 8), finScrub whole)

/-- A bank of a range is held by its unit or a refresh, so that its words wait (R486). -/
def State.scrubWaits (s : State) (a n : Nat) : Bool :=
  ((List.range (n / 4096)).map (· + a / 4096)).any fun g =>
    match place (4096 * g) with
    | .tile m o => s.granAt (4096 * g) = .written && !s.downAt (4096 * g) && !s.tileOpen m o true
    | _ => false

/-! ### PERF -/

/-- The snapshot of Table 13-12; none for every rig together. -/
def State.perfBytes (s : State) (rig : Option Nat) (strm : Nat) : List Byte :=
  let rs := match rig with | some r => [r] | none => List.range 64
  let sum (f : Nat → Nat) : Nat := (rs.map f).foldl (· + ·) 0
  let k := s.strm strm
  [s.adm.now, sum fun r => (tget 0 s.energyRig r).toNat, (tget 0 s.energyStrm strm).toNat, sum fun r => (s.rig r).deads,
    k.okN, k.otherN, sum fun r => (s.rig r).reefs / 1024, 0].flatMap (leBytes 8)

/-- PERF (R373). -/
def State.doPerf (s : State) (r : CRec) : State :=
  s.toHost (r.u 24 8) (s.perfBytes (if r.rig < 64 then some r.rig else none) r.strm)

/-! ### Tables -/

/-- A stop of fixed behaviour: cause and core (R378). -/
abbrev Stopped := Nat × Nat

/-- Load a table of m sub-quantisers from an address on into a shadow slot of a core: its record changes, then its entries
(R113, R116, R165, R371). -/
def State.loadTable (s : State) (c slot a m : Nat) : Res (Option Stopped) :=
  let k := s.core c
  let s := s.setCore c { k with recShad := tset 0 k.recShad slot (BitVec.ofNat 6 m) }
  (s.loadEntries c (1 - k.liveCopy) slot ((List.range (256 * m)).map fun n => ⟨((a + 2 * n : Nat) : Int), 0, 16⟩)).andThen fun s e =>
    .ok s (e.map fun x => (x, c))

/-- Run steps in order until one stops. -/
def untilStop (f : State → Nat → Res (Option Stopped)) (s : State) : List Nat → Res (Option Stopped)
  | [] => .ok s none
  | x :: xs => (f s x).andThen fun s y => if y.isSome then .ok s y else untilStop f s xs

/-- LKU.SWAP as one act: records, copies and epoch (R113, R116). -/
def State.swapTables (s : State) (c : Nat) : State :=
  let k := s.core c
  s.setCore c { k.lkuSwapNow with recLive := k.recShad, recShad := k.recLive }

/-- The cores of a bitmap, ascending. -/
def coreList (b : BitVec 4096) : List Nat := (List.range 4096).filter fun n => b.getLsbD n

/-- The outcome of a stop of fixed behaviour. -/
def finStop (x : Stopped) : Fin' := ⟨causeStatus x.1, stopDetail 0 (some x.2) x.1⟩

/-- TABLE (R371): every core loads its slots in ascending order, then swaps. -/
def State.doTable (s : State) (r : CRec) (cores : List Nat) : Res Fin' :=
  let m := r.u 34 1
  let slots := List.range (r.u 33 1)
  let one (s : State) (c : Nat) : Res (Option Stopped) :=
    (untilStop (fun s i => s.loadTable c (r.u 32 1 + i) (r.u 24 8 + 512 * m * i) m) s slots).andThen fun s y =>
      .ok (if y.isNone && bit (r.u 35 1) 0 then s.swapTables c else s) y
  (untilStop one s cores).andThen fun s y => .ok s (match y with | some x => finStop x | none => finOk)

/-! ### SEARCH: the corpus (R164 to R169, R182) -/

/-- What a SEARCH reads of its search block and corpus header. -/
structure Corpus where
  sk : List Nat
  cnttab : Nat
  skoff : Nat
  codeoff : Nat
  idoff : Nat
  m : Nat
  dir : Nat

/-- Check the corpus header (R168, R182): a stop cause, or the corpus. -/
def State.corpusOf (s : State) (r : CRec) (sb hd : List Byte) : Nat × Corpus :=
  let x : Corpus := ⟨(List.range r.sq).map fun q => field sb (8 * q) 8, field hd 0 8, field hd 8 4, field hd 12 4, field hd 16 4,
    field hd 20 1, field hd 21 1⟩
  let cause :=
    if field hd 22 42 ≠ 0 || x.m = 0 || 32 < x.m || 1 < x.dir || x.skoff % 4096 ≠ 0 || x.idoff % 8 ≠ 0 || x.cnttab % 64 ≠ 0 then 8
    else if !s.inRig r.rig false x.cnttab (64 * ((coreList (s.rig r.rig).cores).getLastD 0 + 1)) ||
      !s.inRig r.rig false (r.u 24 8 + 0x100) (r.sq * 512 * x.m) then 5
    else 0
  (cause, x)

/-- Raise the corpus record (R346). -/
def State.raiseCorpus (s : State) (r p m : Nat) : State :=
  let k := s.rig r
  s.setRig r { k with corpP := max k.corpP p, corpM := max k.corpM m }

/-- Read the search block and the corpus header; the m of a header that is read raises the corpus record (R346). -/
def State.readCorpus (s : State) (r : CRec) : Res (Nat × Corpus) :=
  let none_ : Corpus := ⟨[], 0, 0, 0, 0, 0, 0⟩
  (s.feRead (r.u 24 8) 256).andThen fun s x =>
    let h := field x.1 0x80 8
    if x.2.isSome then .ok s (9, none_)
    else if field x.1 0x88 56 ≠ 0 || h % 64 ≠ 0 then .ok s (8, none_)
    else if !s.inRig r.rig false h 64 then .ok s (5, none_)
    else (s.feRead h 64).andThen fun s y => 
      if y.2.isSome then .ok s (9, none_)
      else
        let m := field y.1 20 1
        .ok (if m ≤ 32 then s.raiseCorpus r.rig 0 m else s) (s.corpusOf r x.1 y.1)

/-- The bank counts of a core; none when they cannot be read. -/
def State.readCounts (s : State) (x : Corpus) (c : Nat) : Res (Option (List Nat)) :=
  (s.feRead (x.cnttab + 64 * c) 64).andThen fun s y =>
    .ok s (if y.2.isSome then none else some ((List.range 16).map fun b => field y.1 (4 * b) 4))

/-- An array runs past its bank (R169): the sketches, the codes or the IDs, in either mode. A bank then holds no more passages than XPOP
takes (Table 10-6). -/
def pastBank (x : Corpus) (p : Nat) : Bool :=
  p ≠ 0 && (0x800000 < x.skoff + 8 * p || 0x800000 < x.codeoff + x.m * p || 0x800000 < x.idoff + 8 * p)

/-! ### SEARCH: prefilter and chain (R170, R171) -/

/-- The sketches of a bank, read by its unit in 64 B words; none after an uncorrectable word. -/
def State.sketchWords (s : State) (c b : Nat) (r : BankRun) (o : Nat) : Nat → State × Option (List Byte)
  | 0 => (s, some [])
  | n + 1 =>
    match s.unitRead c b r o (min 64 (8 * (n + 1))) with
    | (s, _, _, some _) => (s, none)
    | (s, r, bs, none) =>
      let (s, rest) := s.sketchWords c b r (o + 64) (n + 1 - 8)
      (s, rest.map fun l => bs ++ l)

/-- The 32 best passages of a bank for a query sketch (R170). -/
def bankBest (b dmax q : Nat) (sk : List Byte) (p : Nat) : List Nat :=
  (List.range p).foldl (fun l j =>
    let d := popcount (field sk (8 * j) 8 ^^^ q)
    if d ≤ dmax then (insertEntry false (mkEntry false d b j) l).take 32 else l) []

/-- Survivors of a tile for each query, in the order of R171; none when a bank unit met an uncorrectable word. -/
def State.survivors (s : State) (x : Corpus) (c dmax : Nat) (ps : List Nat) : State × Option (List (List Nat)) :=
  let start : State × Option (List (List Nat)) := (s, some (x.sk.map fun _ => []))
  ps.zipIdx.foldl (fun acc e =>
    match acc with
    | (s, none) => (s, none)
    | (s, some ls) =>
      let run : BankRun := { w := 0x10001, src := x.skoff, dst := 0, n := e.1, exb := 0, pat := 0, cdst := 0, fmt := 0 }
      match s.sketchWords c e.2 run x.skoff e.1 with
      | (s, none) => (s, none)
      | (s, some sk) => (s, some (List.zipWith (fun l q => mergeEntries false l (bankBest e.2 dmax q sk e.1)) ls x.sk))) start

/-! ### SEARCH: scoring (R166, R183) -/

/-- A passage: bank, position, tile ordinal. -/
structure Pass where
  b : Nat
  j : Nat
  o : Nat

/-- Ordinal of the first passage of a bank. -/
def bankFirst (ps : List Nat) (b : Nat) : Nat := (ps.take b).foldl (· + ·) 0

/-- The passage of a chain entry. -/
def passOf (ps : List Nat) (e : Nat) : Pass := ⟨bits e 23 20, bits e 19 0, bankFirst ps (bits e 23 20) + bits e 19 0⟩

/-- Every passage of a tile in ordinal order. -/
def allPasses (ps : List Nat) : List Pass :=
  ps.zipIdx.flatMap fun e => (List.range e.1).map fun j => ⟨e.2, j, bankFirst ps e.2 + j⟩

/-- Score passages of a core against a live slot; none after an uncorrectable word. -/
def State.scorePasses (s : State) (x : Corpus) (c slot : Nat) : List Pass → State × Option (List Nat)
  | [] => (s, some [])
  | p :: ps =>
    match s.tileRead (bankAddr c p.b (x.codeoff + x.m * p.j)) x.m with
    | (s, (bs, true)) => let _ := bs; (s, none)
    | (s, (bs, false)) =>
      let sc := pqScore (s.core c) (s.core c).liveCopy slot (bs.map (·.toNat))
      let (s, rest) := s.scorePasses x c slot ps
      (s, rest.map fun l => mkRec sc c p.o :: l)

/-- The bank and position of an ordinal. -/
def locate (ps : List Nat) (o : Nat) : Nat × Nat :=
  match ((List.range 16).reverse.find? fun b => bankFirst ps b ≤ o && ps.getD b 0 ≠ 0) with
  | some b => (b, o - bankFirst ps b)
  | none => (0, 0)

/-- Replace the index of each record that is no sentinel by its passage ID; none after an uncorrectable word. -/
def State.putIds (s : State) (x : Corpus) (c : Nat) (ps : List Nat) : List Nat → State × Option (List Nat)
  | [] => (s, some [])
  | r :: rs =>
    if recIndex r = 2 ^ 64 - 1 then
      let (s, rest) := s.putIds x c ps rs
      (s, rest.map fun l => r :: l)
    else
      let (b, j) := locate ps (recIndex r)
      match s.tileRead (bankAddr c b (x.idoff + 8 * j)) 8 with
      | (s, (_, true)) => (s, none)
      | (s, (bs, false)) =>
        let (s, rest) := s.putIds x c ps rs
        (s, rest.map fun l => mkRec (recScore r) (recTag r) (leNat bs) :: l)

/-- What a core brings to the merge: its lists, one for each query, or a stop; and the number of candidates scored. -/
structure Part where
  lists : List (List Nat) := []
  scored : Nat := 0
  stop : Option Stopped := none

/-- Score, select and name the candidates of one query. -/
def State.oneQuery (s : State) (x : Corpus) (r : CRec) (c : Nat) (ps : List Nat) (cand : List Pass) (q : Nat) : State × Option (List Nat) :=
  match s.scorePasses x c q cand with
  | (s, none) => (s, none)
  | (s, some rs) => s.putIds x c ps (takeBest 0x11 x.dir r.skc (recSort 0x11 x.dir rs))

/-- The queries of a core, in order, until an uncorrectable word. -/
def State.queries (s : State) (x : Corpus) (r : CRec) (c : Nat) (ps : List Nat) : Nat → List (List Pass) → State × Part
  | _, [] => (s, {})
  | q, cand :: t =>
    match s.oneQuery x r c ps cand q with
    | (s, none) => (s, { stop := some (9, c) })
    | (s, some l) =>
      let (s, y) := s.queries x r c ps (q + 1) t
      (s, { y with lists := l :: y.lists, scored := cand.length + y.scored })

/-- Stages 1 to 5 of a core, after its tables are live (R183). -/
def State.searchCore (s : State) (x : Corpus) (r : CRec) (c : Nat) (ps : List Nat) : State × Part :=
  if ps.any (pastBank x) then (s, { stop := some (5, c) })
  else if r.u 49 1 = 0 then
    match s.survivors x c (r.u 50 1) ps with
    | (s, none) => (s, { stop := some (9, c) })
    | (s, some ls) => s.queries x r c ps 0 (ls.map fun l => (l.take r.ss).map (passOf ps))
  else s.queries x r c ps 0 (x.sk.map fun _ => allPasses ps)

/-! ### SEARCH: the merge tree (R185) and the results (R184) -/

/-- Cut a list of lists into groups of 16. -/
def groups16 {α : Type} (xs : List α) : List (List α) := (List.range (ceilDiv xs.length 16)).map fun i => (xs.drop (16 * i)).take 16

/-- One level of the tree for one query: each group merges its members' lists of e0 records into k. -/
def mergeLevel (dir k e0 ctr : Nat) (ls : List (List Nat)) : List (List Nat) :=
  (groups16 ls).zipIdx.map fun g => mergeBest 0x11 dir k e0 (ctr + k * g.2) g.1.flatten

/-- The tree for one query. -/
def mergeTree (dir kr : Nat) : Nat → Nat → Nat → List (List Nat) → List Nat
  | 0, _, _, ls => ls.headD []
  | _, _, _, [] => []
  | _, _, _, [l] => l
  | n + 1, e0, ctr, ls => mergeTree dir kr n kr (ctr + kr * ls.length) (mergeLevel dir kr e0 ctr ls)

/-- The merged list of a query: k_r records (R184, R185). -/
def mergedList (r : CRec) (dir ctr : Nat) (ls : List (List Nat)) : List Nat :=
  match ls with
  | [l] => takeBest 0x11 dir r.skr l
  | _ => mergeTree dir r.skr 3 r.skc ctr ls

/-- Write a list of records. -/
def State.writeRecs (s : State) (a : Nat) : List Nat → Res Unit
  | [] => .ok s ()
  | x :: xs => (s.feWrite a (leBytes 16 x)).andThen fun s _ => s.writeRecs (a + 16) xs

/-- Write the result area and answer the bitmap of lists with a sentinel among their first k_f (R184, R187). -/
def State.writeResults (s : State) (r : CRec) (dir : Nat) (parts : List Part) : Nat → Nat → Res Nat
  | _, 0 => .ok s 0
  | q, n + 1 =>
    let l := mergedList r dir s.free (parts.map fun p => p.lists.getD q [])
    (({ s with free := s.free + 2 * r.skr * parts.length } : State).writeRecs (r.u 32 8 + 16 * r.skr * q) l).andThen fun s _ =>
      (s.writeResults r dir parts (q + 1) n).andThen fun s m =>
        .ok s (if (l.take r.skf).any fun x => recIndex x = 2 ^ 64 - 1 then m + 2 ^ q else m)

/-! ### SEARCH: what it leaves undefined (R183) -/

/-- The window words, query area and lists of a bank become undefined; the bank is in normal mode. -/
def State.undefBank (s : State) (c b : Nat) : State :=
  let w (i : Nat) : BitVec 64 := Config.freeWord (s.free + i)
  let k : Bank := {
    unit := false
    seq := (w 0).truncate 16, opc := (w 1).truncate 8, err := (w 2).truncate 8, result := w 3, faultOff := (w 4).truncate 23
    score := (w 5).getLsbD 0
    op := (List.range 8).foldl (fun t i => tset 0 t i (BitVec.ofNat 64 ((w (6 + i)).toNat % 2 ^ opWidth i))) []
    qa := fillBytes [] 0 1024 fun i => Config.freeByte (s.free + i)
    lists := (List.range 16).foldl (fun t q => tset [] t q ((List.range 32).map fun i => (w (16 + 32 * q + i)).toNat)) []
    held := (s.bank c b).held }
  ({ s with free := s.free + 1024 } : State).setBank c b k

/-- Locker offsets below 0x10_0000 and the signal word of a core become undefined. -/
def State.undefLocker (s : State) (c : Nat) : State :=
  let a := lockerAddr c 0
  let g := lockerAddr c signalOff
  { s with
    mem := fillBytes (fillBytes s.mem a 0x100000 fun i => Config.freeByte (s.free + i)) g 8 fun i => Config.freeByte (s.free + 0x100000 + i)
    errs := tclear (fun w => (a ≤ w && w < a + 0x100000) || w = g) s.errs
    free := s.free + 0x100008 }

/-- What stages 1 to 6 leave undefined in a core. -/
def State.undefSearch (s : State) (c : Nat) : State :=
  s.each (List.range 16) (fun s b => s.undefBank c b) |>.undefLocker c

/-! ### SEARCH as a whole -/

/-- Tables of the search, loaded and made live in a core (R183). -/
def State.searchTables (s : State) (r : CRec) (x : Corpus) (c : Nat) : Res (Option Stopped) :=
  (untilStop (fun s q => s.loadTable c q (r.u 24 8 + 0x100 + 512 * x.m * q) x.m) s (List.range r.sq)).andThen fun s y =>
    .ok (if y.isNone then s.swapTables c else s) y

/-- Stages 1 to 5 of every core, in order, until one stops. -/
def State.searchParts (s : State) (r : CRec) (x : Corpus) : List Nat → Res (List Part)
  | [] => .ok s []
  | c :: cs =>
    (s.searchTables r x c).andThen fun s y =>
      match y with
      | some st => .ok s [{ stop := some st }]
      | none =>
        (s.readCounts x c).andThen fun s ps =>
          match ps with
          | none => .ok s [{ stop := some (9, c) }]
          | some ps =>
            let s := s.raiseCorpus r.rig (ps.foldl max 0) x.m
            let (s, p) := s.searchCore x r c ps
            if p.stop.isSome then .ok s [p]
            else (s.searchParts r x cs).andThen fun s l => .ok s (p :: l)

/-- How stages 1 to 6 ended: a stop, or the candidates scored, the sentinel bitmap and the direction. -/
structure Searched where
  stop : Option Stopped := none
  cand : Nat := 0
  bmap : Nat := 0
  dir : Nat := 0

/-- Stages 1 to 6 of a SEARCH (R183 to R185). -/
def State.doSearch (s : State) (r : CRec) (cores : List Nat) : Res Searched :=
  (s.readCorpus r).andThen fun s x =>
    if x.1 ≠ 0 then .ok (s.each cores State.undefSearch) { stop := some (x.1, cores.headD 0) }
    else
      (s.searchParts r x.2 cores).andThen fun s ps =>
        match ps.findSome? (·.stop) with
        | some st => .ok (s.each cores State.undefSearch) { stop := some st }
        | none =>
          (s.writeResults r x.2.dir ps 0 r.sq).andThen fun s bm =>
            .ok (s.each cores State.undefSearch)
              { cand := (ps.map (·.scored)).foldl (· + ·) 0, bmap := bm, dir := x.2.dir }

/-- The detail of a SEARCH that ends with OK (R187). -/
def searchDetail (cand bmap : Nat) : BitVec 64 := BitVec.ofNat 64 (satTo 0xFFFFFFFF cand + bmap % 65536 * 2 ^ 32)

end Sys2Proof.Machine
end

