-- ==== Sys2Proof/Machine/Commands.lean ====
section
/-! DEFINITION. Commands of streams (12, 13): authentication of critical commands (R534 to R537), the rows of Table 13-9
but for RERIG and UPDATE, dispatch (R335), abort points (R331, R336), fault intervals (R333, R334), floors (R349) and the
host's abort (R364). -/

namespace Sys2Proof.Machine

/-! ### Authentication (R533 to R537) -/

/-- MAC of a critical command. -/
def CRec.mac (r : CRec) : List Byte := (r.l2.drop 8).take 16

/-- The MAC a command should carry under the command key: over line 1 and COUNTER (R534). DEDUCED: log entry 55. -/
def Sec.macOf (k : Sec) (r : CRec) : List Byte := (hmac384 (leBytes 48 k.key.toNat) (r.l1 ++ r.l2.take 8)).take 16

/-- Checks 1 to 3 of Table 20-6; a counter that passes is consumed (R535). -/
def State.authMac (s : State) (r : CRec) : State × Option Nat :=
  if s.sec.bound.isNone then (s, some 1)
  else if r.mac ≠ s.sec.macOf r then (s, some 2)
  else if r.v 64 8 ≤ s.sec.ctr.toNat then (s, some 3)
  else ({ s with sec := { s.sec with ctr := BitVec.ofNat 64 (r.v 64 8) } }, none)

/-- A REJ_AUTH record (R537). -/
def State.rejAuth (s : State) (r : CRec) (reason : Nat) : State :=
  ({ s with sec := { s.sec with rej := satTo 0xFFFF (s.sec.rej + 1), last := BitVec.ofNat 8 reason } } : State).conclude r
    ⟨0x12, BitVec.ofNat 64 reason⟩

/-- Steps 2 to 4. -/
def State.steps24 (s : State) (r : CRec) : Option Fin' := firstSome [s.step2 r, r.step3, s.step4 r]

/-- A critical line: step 1, authentication with what `more` adds to Table 20-6, steps 2 to 4, then its effect. -/
def State.critical (s : State) (r : CRec) (more : State → Option Nat) (f : State → State) : State :=
  match s.step1 r with
  | some x => s.conclude r x
  | none =>
    if r.crit then
      match s.authMac r with
      | (s, some e) => s.rejAuth r e
      | (s, none) =>
        match more s with
        | some e => s.rejAuth r e
        | none => (match s.steps24 r with | some x => s.conclude r x | none => f s)
    else (match s.steps24 r with | some x => s.conclude r x | none => s)

/-! ### SETCAP and KEYOP -/

/-- SETCAP after its ranges (R448, R449). DEDUCED: log entry 69. -/
def State.setcap (s : State) (r : CRec) : State :=
  let fl := r.u 28 4
  let cap := if r.u 24 4 = 0 then s.pwr.cap else r.u 24 4
  let low := max (max s.pwr.floor s.pwr.newFloor) fl
  if cap < low then s.conclude r ⟨0x13, BitVec.ofNat 64 (cap + low * 2 ^ 32)⟩
  else
    let s : State := { s with pwr := { s.pwr with cap := cap } }
    (if fl = 0 then s else s.writeFloor fl).conclude r finOk

/-- SETCAP. -/
def execSetcap (s : State) : Out := s.withLine 6 (fun _ => true) fun r s => s.critical r (fun _ => none) fun s => s.setcap r

/-- KEYOP ACTIVATE's own check (Table 20-6): the slot holds an image that verifies. -/
def activateCheck (r : CRec) (s : State) : Option Nat :=
  failIf (r.u 24 1 = 1 && r.u 25 1 ≤ 1 && !s.sec.slotOk (r.u 25 1 = 1)) 5

/-- Set the active-slot mark, and note a fuse raise (R523). -/
def State.activate (s : State) (b commit : Bool) : State :=
  let svn := match s.sec.slot b with | some i => imageSvn i | none => 0
  { s with sec := { s.sec with next := b, commit := commit && s.sec.fuse < svn } }

/-- KEYOP_ACTIVATE (R523); a KEYOP of an unlisted SUB is refused here (R538). -/
def execKeyopActivate (s : State) : Out :=
  s.withLine 0xB (fun r => r.u 24 1 ≠ 2 && r.u 24 1 ≠ 3) fun r s =>
    s.critical r (activateCheck r) fun s => (s.activate (r.u 25 1 = 1) (r.u 26 1 = 1)).conclude r finOk

/-- Ports at STATE 2, ascending. -/
def State.upPorts (s : State) : List Nat := (List.range 6).filter fun p => (s.port p).st = 2

/-- Data of rig r that waits at port p takes its place by weighted round-robin: a rig sends as many blocks or words in a round as its Pahus
share, the rigs of a round in order (R384). DESIGN CHOICE: log entry 90. -/
def placeData (x : WireOut) : List WireOut → List WireOut
  | [] => [x]
  | y :: t =>
    if y.port = x.port && (x.round < y.round || (x.round = y.round && x.rig < y.rig)) then x :: y :: t else y :: placeData x t

/-- Put data of a rig on a port at STATE 2; a rig with no Pahus share sends none (R383, R384). -/
def State.sendData (s : State) (p r : Nat) (bs : List Byte) : State :=
  let w := (s.rig r).pahus
  if w = 0 || (s.port p).st ≠ 2 then s
  else
    let n := (s.casc.data.filter fun x => x.port = p && x.rig = r).length
    { s with casc := { s.casc with data := placeData ⟨p, r, n / w, bs⟩ s.casc.data } }

/-- Put a control message on a port. DESIGN CHOICE: log entry 90. -/
def State.sendMsg (s : State) (p : Nat) (m : Msg) : State := { s with casc := { s.casc with out := s.casc.out ++ [(p, m)] } }

/-- Put a message on every port at STATE 2 (R388, R389). -/
def State.flood (s : State) (m : Msg) : State := s.each s.upPorts fun s p => s.sendMsg p m

/-- Flood the configuration in force. -/
def State.floodConfig (s : State) : State :=
  let c := s.casc
  s.flood (.config c.epoch c.master c.standby c.hasStandby c.nmem)

/-! ### Commands of rigs -/

/-- A line that passes steps 1 to 4 goes on; else its rejection. -/
def State.checked (s : State) (r : CRec) (f : State → State) : State :=
  match s.steps14 r with
  | some x => s.conclude r x
  | none => f s

/-- RUN: its blocks are read by the admission unit (R342, R344, R369). -/
def State.runLine (s0 s : State) (r : CRec) : State :=
  match firstSome [s.step1 r, s.step2 r, r.step3, r.flagCheck] with
  | some x => s.conclude r x
  | none =>
    orWait s0 (s.runCheck r) fun s p =>
      match p.bad with
      | some x => s.conclude r x
      | none => s.admitTo r { cores := p.cores, groups := p.groups } (if r.contract then s.runCost r.rig p.cores p.decl else none)

/-- RUN. -/
def execRun (s : State) : Out := s.withLine 1 (fun _ => true) fun r s1 => s.runLine s1 r

/-- COPY. -/
def execCopyCommand (s : State) : Out :=
  s.withLine 2 (fun _ => true) fun r s => s.checked r fun s => s.admitTo r {} none
/-- FILL. -/
def execFillCommand (s : State) : Out :=
  s.withLine 3 (fun _ => true) fun r s => s.checked r fun s => s.admitTo r {} none

/-- A line naming another rig in byte 3. -/
def CRec.toRig (r : CRec) (g : Nat) : CRec := { r with l1 := r.l1.set 3 (BitVec.ofNat 8 g) }

/-- A scrub joins the plan of the rig that holds its range; a range bound to no rig is scrubbed at once (R486). -/
def State.placeScrub (s : State) (r : CRec) : State :=
  match s.scrubOwner (r.u 24 8) (r.u 32 8) with
  | some (some g) => s.admitTo (r.toRig g) {} none
  | _ =>
    match s.step6 r 0 with
    | some x => s.conclude r x
    | none => let (s, f) := s.doScrub r; s.conclude r f

/-- SCRUB (R485, R486). -/
def execScrub (s : State) : Out :=
  s.withLine 4 (fun _ => true) fun r s => s.checked r fun s => s.placeScrub r

/-- SEARCH (R181, R183, R345). -/
def execSearch (s : State) : Out :=
  s.withLine 7 (fun _ => true) fun r s =>
    s.checked r fun s => s.admitTo r { cores := (s.rig r.rig).cores } (if r.contract then s.searchCost r else none)

/-- TABLE (R371). -/
def execTable (s : State) : Out :=
  s.withLine 9 (fun _ => true) fun r s => s.checked r fun s => s.admitTo r { cores := (s.rig r.rig).cores } none

/-- FENCE (R372). -/
def execFence (s : State) : Out :=
  s.withLine 8 (fun _ => true) fun r s => s.checked r fun s => s.conclude r finOk
/-- NOP (R372). -/
def execNop (s : State) : Out :=
  s.withLine 0xF (fun _ => true) fun r s => s.checked r fun s => s.conclude r finOk

/-- PERF (R326, R373): on a management stream at once. -/
def execPerf (s : State) : Out :=
  s.withLine 0xA (fun _ => true) fun r s =>
    s.checked r fun s => if r.rig < 64 then s.admitTo r {} none else (s.doPerf r).conclude r finOk

/-! ### Dispatch (R335) -/

/-- The next command of a rig, and the rig without it. -/
def Rig.next (k : Rig) : Option (Cmd × Rig) :=
  match k.plan, k.cq with
  | m :: t, _ => some (m, { k with plan := t })
  | [], m :: t => some (m, { k with cq := t })
  | [], [] => none

/-- The lowest down core of a command at dispatch, and whether the command runs cores (R35, R378). -/
def State.dispatchDown (s : State) (m : Cmd) : Option Fin' :=
  match s.step6 m.r m.cores with
  | none => none
  | some f => some (if m.cores == 0 then ⟨0x21, stopDetail 0 none 0x0B⟩ else f)

/-- Every core of a command receives a dispatch (R43, Table 2-2). -/
def State.startCores (s : State) (cores : List Nat) (entry opnd : Nat) : State :=
  s.each (List.range cores.length) fun s i =>
    let c := cores.getD i 0
    s.setCore c { s.core c with disp := some ⟨entry, i, cores.length, opnd⟩ }

/-- SEARCH's stages 1 to 6; a re-ranker waits for its own dispatch (R183 to R187). -/
def State.launchSearch (s0 s : State) (r : Nat) (m : Cmd) : State :=
  orWait s0 (s.doSearch m.r (coreList m.cores)) fun s x =>
    match x.stop with
    | some e => s.endRunning r (finStop e)
    | none =>
      if m.r.u 40 8 = 0 then s.endRunning r ⟨0, searchDetail x.cand x.bmap⟩
      else s.modCmd r fun m => { m with stage := .rerank, cand := x.cand, bmap := x.bmap, dir := x.dir }

/-- Start the command that a rig now runs. An UPDATE waits for its peers; a REDUCE of one member and a BARRIER start
with UPDATE's own operation `upd`. A SCRUB runs until its end. -/
def State.launch (upd : State → State → Nat → Cmd → State) (s0 s : State) (r : Nat) (m : Cmd) : State :=
  match m.r.op with
  | 1 => s.startCores (coreList m.cores) (m.r.u 24 8) (m.r.u 32 8)
  | 2 => orWait s0 (s.doCopy m.r) fun s f => s.endRunning r f
  | 3 => orWait s0 (s.doFill m.r) fun s f => s.endRunning r f
  | 7 => s0.launchSearch s r m
  | 9 => orWait s0 (s.doTable m.r (coreList m.cores)) fun s f => s.endRunning r f
  | 0xA => (s.doPerf m.r).endRunning r finOk
  | 0xC => upd s0 s r m
  | _ => s

/-- Dispatch the next command of an idle rig. -/
def State.dispatchNext (upd : State → State → Nat → Cmd → State) (s : State) (r now : Nat) : State :=
  if (s.rig r).st ≠ 1 || (s.rig r).running.isSome then s
  else
    match (s.rig r).next with
    | none => s
    | some (m, _) =>
      let s1 := s.seeTick now
      let k := match (s1.rig r).next with | some x => x.2 | none => s1.rig r
      let down := s1.dispatchDown m
      let m := { m with
        stage := .running, disp := s1.adm.now, energy := tget 0 s.energyStrm m.r.strm, ran := down.isNone && m.cores != 0 }
      let s1 := s1.setRig r { k with running := some m }
      match down with
      | some f => s1.endRunning r f
      | none => State.launch upd s s1 r m

/-- What the device writes at 0x0C0 of the search block before a re-ranker (R186). -/
def rerankBlock (m : Cmd) : List Byte :=
  leBytes 8 (m.r.u 32 8) ++ leBytes 2 m.r.sq ++ leBytes 2 m.r.skr ++ leBytes 2 m.r.skf ++ leBytes 1 m.dir ++ leBytes 1 0 ++
    leBytes 8 m.cand ++ leBytes 40 0

/-- RERANKER_DISPATCH (R186). -/
def execRerankerDispatch (r : RigId) (s : State) : Out :=
  match (s.rig r).running with
  | none => .next s
  | some m =>
    if m.stage ≠ .rerank || m.fin.isSome then .next s
    else
      match s.dispatchDown m with
      | some f => .next (s.endRunning r f)
      | none =>
        .next (orWait s (s.feWrite (m.r.u 24 8 + 0xC0) (rerankBlock m)) fun s _ =>
          (s.modCmd r fun m => { m with stage := .running, ended := 0, stopped := 0 }).startCores (coreList m.cores)
            (m.r.u 40 8) (m.r.u 24 8))

/-! ### Abort points (R331, R333, R336) -/

/-- A waiting command is removed without running (R331, R364, R415). -/
def State.dropWaiting (s : State) (r : Nat) (cause : Nat) (p : Cmd → Bool) : State :=
  let k := s.rig r
  let gone := (k.plan ++ k.cq).filter p
  let s := s.setRig r ({ k with plan := k.plan.filter fun m => !p m, cq := k.cq.filter fun m => !p m }).refault
  gone.foldl (fun s m => s.conclude m.r (finAborted cause)) s

/-- ABORT_POINT (R331, R333): the commands of a rig past their abort points. DEDUCED: log entry 34. -/
def execAbortPoint (r : RigId) (now : Nat) (s : State) : Out :=
  let s := s.seeTick now
  let t := s.adm.now
  let late (m : Cmd) : Bool := m.r.contract && m.abortAt ≤ t
  let s := match (s.rig r).running with
    | some m => if late m then s.stopRunning r 0x0D else s
    | none => s
  .next (s.dropWaiting r 0x0D late)

/-- CMAX_EXPIRY (R336). -/
def execCmaxExpiry (r : RigId) (now : Nat) (s : State) : Out :=
  let s := s.seeTick now
  let k := s.rig r
  match k.running with
  | some m =>
    if k.crig && s.cmax ≠ 0 && !m.r.contract && m.disp + s.cmax ≤ s.adm.now then .next (s.stopRunning r 0x0D) else .next s
  | none => .next s

/-! ### Fault intervals and floors -/

/-- Faults whose interval lasts (R333). -/
def faultLasts : HwFault → Bool
  | .halyardHold _ => true
  | .netHold _ => true
  | .belowFloor _ => true
  | _ => false

/-- A halyard's hold of new accesses begins or ends; once it ends the tile controller serves what waited (R249, R250). -/
def State.holdHalyard (s : State) (f : HwFault) (on : Bool) : State :=
  match f with
  | .halyardHold c =>
    let s := s.setTile c { s.tile c with hold := on && !(s.core c).down }
    if on then s else s.serveTileQueues c
  | _ => s

/-- FAULT_INTERVAL_START (R333). -/
def execFaultIntervalStart (f : HwFault) (s : State) : Out :=
  .next (if faultLasts f then (s.holdHalyard f true).faultBegin f else s.faultTick f)
/-- FAULT_INTERVAL_END (R334). DEDUCED: log entry 63. -/
def execFaultIntervalEnd (f : HwFault) (s : State) : Out := .next ((s.holdHalyard f false).faultEnd f)
/-- FLOOR_CHANGE_EFFECT (R349). -/
def execFloorChangeEffect (s : State) : Out := .next s.settleFloors

/-! ### The host's abort (R364) -/

/-- An outcome that ABORT finds without its record: ABORTED, but for a command that had failed before (R75, R364). -/
def Fin'.abort (f : Fin') : Fin' := if f.status = 0 then finAborted 0x0C else f

/-- A re-rig ends at ABORT before its phases 3 to 6: its rigs keep their bindings and leave STATE 2. DESIGN CHOICE: log entry 89. -/
def State.dropRerig (s : State) (n : Nat) : State :=
  match s.adm.rerig with
  | some x =>
    if x.r.strm = n then
      (s.setAdm { s.adm with rerig := none }).each (idxs 64 fun r => x.mask.getLsbD r) fun s r =>
        let k := s.rig r
        s.setRig r { k with st := if k.cores == 0 && k.regions == 0 then 0 else 1 }
    else s
  | none => s

/-- ABORT of a stream: every command that has passed admission and has no record yet ends: running ones stop, waiting ones and those
whose record is due are ABORTED (R364). DEDUCED: log entry 34. DESIGN CHOICE: log entry 89. -/
def State.strmAbort (s : State) (n : Nat) : State :=
  let s := s.dropRerig n
  let s := s.setAdm { s.adm with
    done := s.adm.done.map fun d =>
      if d.r.strm = n && d.rig.isNone then { d with fin := d.fin.abort } else d
    rerigQ := s.adm.rerigQ.filter fun r => r.strm ≠ n } |> fun t =>
      (s.adm.rerigQ.filter fun r => r.strm = n).foldl (fun t r => t.conclude r (finAborted 0x0C)) t
  s.each (List.range 64) fun s r =>
    let s := match (s.rig r).running with
      | some m =>
        if m.r.strm ≠ n then s
        else if m.fin.isSome then s.modCmd r fun m => { m with fin := m.fin.map Fin'.abort }
        else s.stopRunning r 0x0C
      | none => s
    s.dropWaiting r 0x0C fun m => m.r.strm = n

/-- STRM_CTL_ABORT (R364). -/
def execStrmCtlAbort (n : StreamId) (s : State) : Out := .next (if s.bar0On 0x010000 then s.strmAbort n else s)

end Sys2Proof.Machine
end

