-- ==== Sys2Proof/Machine/Update.lean ====
section
/-! DEFINITION. UPDATE (14): admission of its four forms (R396, R405), rendezvous (R397, R398), wire blocks and the ring
(R401 to R403), the recurrence (R404), and ports that go down (R399). -/

namespace Sys2Proof.Machine

/-! ### Operands (Table 14-4) -/

/-- OP of an UPDATE. -/
def CRec.uOp (r : CRec) : Nat := bits (r.u 53 1) 1 0
/-- NXT. -/
def CRec.uNxt (r : CRec) : Nat := bits (r.u 54 1) 2 0
/-- PRV. -/
def CRec.uPrv (r : CRec) : Nat := bits (r.u 54 1) 5 3
/-- RSZ. -/
def CRec.uRsz (r : CRec) : Nat := bits (r.u 55 1) 5 0
/-- RPOS. -/
def CRec.uRpos (r : CRec) : Nat := bits (r.u 56 1) 5 0
/-- TAG of an UPDATE. -/
def CRec.uTag (r : CRec) : Nat := r.u 57 1
/-- NBLK. -/
def CRec.uNblk (r : CRec) : Nat := r.u 48 4
/-- PROG. -/
def CRec.uProg (r : CRec) : Nat := bits (r.u 52 1) 3 0
/-- WFMT. -/
def CRec.uWfmt (r : CRec) : Nat := bits (r.u 52 1) 5 4
/-- LEN of SEND and RECV. -/
def CRec.uLen (r : CRec) : Nat := r.u 40 8

/-- A line of an UPDATE of one form: admitted as a class C command of its rig, with a copy of its program (R405). -/
def State.updLine (s : State) (r : CRec) : State :=
  s.checked r fun s => s.admitTo r { upd := { prog := s.updProg r.uProg } } none

/-- REDUCE. -/
def execReduce (s : State) : Out := s.withLine 0xC (fun r => r.uOp = 0) fun r s => s.updLine r
/-- SEND. -/
def execSend (s : State) : Out := s.withLine 0xC (fun r => r.uOp = 1) fun r s => s.updLine r
/-- RECV. -/
def execRecv (s : State) : Out := s.withLine 0xC (fun r => r.uOp = 2) fun r s => s.updLine r
/-- BARRIER. -/
def execBarrier (s : State) : Out := s.withLine 0xC (fun r => r.uOp = 3) fun r s => s.updLine r

/-! ### Wire blocks (R401, Table 14-5) -/

/-- Magnitude of a finite value; none for NaN and infinities. -/
def magOf (x : BitVec 32) : Option Rat :=
  match decF32 x with
  | .fin _ q => some q
  | _ => none

/-- One element of a wire block: the value divided by the scale, to nearest even, saturated. -/
def wireElem (wfmt : Nat) (scale : Rat) (x : BitVec 32) : List Byte :=
  match decF32 x with
  | .fin neg q =>
    if wfmt = 0 then leBytes 1 (min 0x7E (encodeMag 4 3 (q / scale)) + (if neg then 128 else 0))
    else
      let m := min 32767 (rneNat (q / scale))
      leBytes 2 (if neg then (65536 - m) % 65536 else m)
  | _ => leBytes (wfmt + 1) 0

/-- Quantise 32 values into a wire block. -/
def quantise (wfmt : Nat) (xs : List (BitVec 32)) : List Byte :=
  let ms := xs.map magOf
  let zeros := leBytes (32 * (wfmt + 1)) 0
  if ms.any Option.isNone then 0xFF :: zeros
  else
    let a := (ms.filterMap id).foldl max 0
    if a = 0 then 0 :: zeros
    else
      let e : Int := log2Floor a - (if wfmt = 0 then 8 else 14) + 127
      let x : Int := min 254 (max 0 e)
      BitVec.ofInt 8 x :: xs.flatMap (wireElem wfmt (pow2 (x - 127)))

/-- The 32 values of a wire block. -/
def dequantise (wfmt : Nat) (bs : List Byte) : List (BitVec 32) :=
  let x := field bs 0 1
  (List.range 32).map fun i =>
    if x = 255 then encF32 .nan
    else
      let v := if wfmt = 0 then decodeE4M3 (field bs (1 + i) 1) else ofInt (BitVec.ofNat 16 (field bs (1 + 2 * i) 2)).toInt
      encF32 (v.mul (.fin false (pow2 ((x : Int) - 127))))

/-- Bytes of a wire block. -/
def wireLen (wfmt : Nat) : Nat := 1 + 32 * (wfmt + 1)

/-! ### The recurrence (R404) -/

/-- A constant of a program: word w, upper or lower half. -/
def progC (prog : List (BitVec 64)) (w : Nat) (hi : Bool) : BitVec 32 :=
  let x := prog.getD w 0
  if hi then x.extractLsb' 32 32 else x.extractLsb' 0 32

/-- Negation of an FP32 value. -/
def fneg (a : BitVec 32) : BitVec 32 := encF32 (decF32 a).neg

/-- One element: the new moment and the new weight. -/
def recur (prog : List (BitVec 64)) (g0 w m : BitVec 32) : BitVec 32 × BitVec 32 :=
  let c := progC prog
  let g := fmul (c 3 false) g0
  let h := c 3 true
  let g := if (decF32 g).isNan then encF32 .nan else fmin (fmax g (fneg h)) h
  let u := ffma (c 1 false) m (fmul (c 1 true) g)
  let m' := ffma (c 0 false) m (fmul (c 0 true) g)
  let zero : BitVec 32 := 0
  let sg :=
    if !((prog.getD 4 0).getLsbD 0) then u
    else if (decF32 zero).lt (decF32 u) then 0x3F800000#32
    else if (decF32 u).lt (decF32 zero) then 0xBF800000#32
    else zero
  (m', ffma (c 2 false) w (fneg (fmul (c 2 true) sg)))

/-! ### Blocks in memory -/

/-- Run an access that may meet an uncorrectable word: the failing word, or the value. -/
abbrev Got (α : Type) := Nat ⊕ α

/-- Read the 32 FP32 values of a block. -/
def State.readBlock (s : State) (base b : Nat) : Res (Got (List (BitVec 32))) :=
  (s.feRead (base + 128 * b) 128).andThen fun s x =>
    .ok s (match x.2 with
      | some p => .inl (((wordsOf (base + 128 * b) 128).find? s.wordBad).getD p)
      | none => .inr (wordsLe x.1))

/-- Write the weights of a block and their BF16 copies (R402, R404). -/
def State.writeWeights (s : State) (r : CRec) (b : Nat) (ws : List (BitVec 32)) : Res Unit :=
  (s.feWrite (r.u 32 8 + 128 * b) (bytesLe ws)).andThen fun s _ =>
    if r.u 58 6 = 0 then .ok s ()
    else s.feWrite (r.u 58 6 + 64 * b) (ws.flatMap fun w => leBytes 2 (encBf (decF32 w)).toNat)

/-- Write the moments of a block. -/
def State.writeMoments (s : State) (r : CRec) (b : Nat) (ms : List (BitVec 32)) : Res Unit :=
  if r.u 40 8 = 0 then .ok s () else s.feWrite (r.u 40 8 + 128 * b) (bytesLe ms)

/-- Apply the update to an owned block with its reduced gradient: the new weights. -/
def State.applyBlock (s : State) (r : CRec) (prog : List (BitVec 64)) (b : Nat) (g : List (BitVec 32)) :
    Res (Got (List (BitVec 32))) :=
  (s.readBlock (r.u 32 8) b).andThen fun s w =>
    match w with
    | .inl a => .ok s (.inl a)
    | .inr w =>
      (if r.u 40 8 = 0 then .ok s (.inr (List.replicate 32 0)) else s.readBlock (r.u 40 8) b).andThen fun s m =>
        match m with
        | .inl a => .ok s (.inl a)
        | .inr m =>
          let out := List.zipWith (fun g wm => recur prog g wm.1 wm.2) g (List.zip w m)
          (s.writeWeights r b (out.map (·.2))).andThen fun s _ =>
            (s.writeMoments r b (out.map (·.1))).andThen fun s _ => .ok s (.inr (out.map (·.2)))

/-- A REDUCE of one member: every block with its own gradient (R402). -/
def State.applyAll (s : State) (r : CRec) (prog : List (BitVec 64)) : List Nat → Res (Option Nat)
  | [] => .ok s none
  | b :: bs =>
    (s.readBlock (r.u 24 8) b).andThen fun s g =>
      match g with
      | .inl a => .ok s (some a)
      | .inr g =>
        (s.applyBlock r prog b g).andThen fun s x =>
          match x with
          | .inl a => .ok s (some a)
          | .inr _ => s.applyAll r prog bs

/-! ### The ring (R402) -/

/-- First block of a chunk. -/
def chunkStart (n nblk c : Nat) : Nat := min (c * ceilDiv nblk n) nblk
/-- Blocks of a chunk. -/
def chunkSize (n nblk c : Nat) : Nat := min ((c + 1) * ceilDiv nblk n) nblk - chunkStart n nblk c

/-- The chunks a member receives: whether the step reduces, the step, the chunk. -/
def recvSteps (n r : Nat) : List (Bool × Nat × Nat) :=
  ((List.range (n - 1)).map fun k => (true, k, (r + 2 * n - k - 1) % n)) ++
    (List.range (n - 1)).map fun k => (false, k, (r + n - k) % n)

/-- The block received at a place of the order: whether its step reduces, the step, the block. -/
def locateBlock (n nblk : Nat) : List (Bool × Nat × Nat) → Nat → Option (Bool × Nat × Nat)
  | [], _ => none
  | x :: t, p =>
    let z := chunkSize n nblk x.2.2
    if p < z then some (x.1, x.2.1, chunkStart n nblk x.2.2 + p) else locateBlock n nblk t (p - z)

/-- What a member expects at its place. -/
def Cmd.expects (m : Cmd) : Option (Bool × Nat × Nat) :=
  let n := m.r.uRsz + 1
  locateBlock n m.r.uNblk (recvSteps n m.r.uRpos) m.upd.pos

/-- Send bytes to NXT, or hold them until the peer grants credit (R397). -/
def State.emit (s : State) (r : Nat) (bs : List Byte) : State :=
  match (s.rig r).running with
  | none => s
  | some m =>
    if m.upd.rvSend then s.sendData m.r.uNxt r bs
    else s.modCmd r fun m => { m with upd := { m.upd with held := m.upd.held ++ [bs] } }

/-- A REDUCE that has received and sent everything ends (R402). -/
def State.ringDone (s : State) (r : Nat) : State :=
  match (s.rig r).running with
  | none => s
  | some m => if m.upd.rvSend && m.upd.rvRecv && m.expects.isNone then s.endRunning r finOk else s

/-- The member's own gradient of a chunk, quantised and sent block by block. -/
def State.sendOwn (s : State) (r : Nat) (l : CRec) : List Nat → Res (Option Nat)
  | [] => .ok s none
  | b :: bs =>
    (s.readBlock (l.u 24 8) b).andThen fun s g =>
      match g with
      | .inl a => .ok s (some a)
      | .inr g => (s.sendData l.uNxt r (quantise l.uWfmt g)).sendOwn r l bs

/-! ### Rendezvous (R397, R398) -/

/-- The outcome of a mismatch, or of a command the front end stops: ABORTED with NOCORE and cause 0x0C. -/
def finMismatch : Fin' := finAborted 0x0C

/-- The two ends agree (R397, R398). -/
def agree (l : CRec) (send : Bool) (p : Rdv) : Bool :=
  if l.uOp = 0 then
    l.uNblk = p.nblk && l.uRsz = p.rsz && l.uWfmt = p.wfmt && l.uProg = p.prog &&
      (if send then p.rpos = (l.uRpos + 1) % (l.uRsz + 1) else l.uRpos = (p.rpos + 1) % (l.uRsz + 1))
  else l.uLen = p.len

/-- Whether the peer runs the complementary command and names the same link, by its end of it. -/
def complement (r : Nat) (l : CRec) (send : Bool) (far : BitVec 3) (p : Rdv) : Bool :=
  p.rig.val = r && p.port = far && p.tag.toNat = l.uTag &&
    ((l.uOp = 0 && p.op.toNat = 0 && l.uRsz ≠ 0) || (l.uOp = 1 && send && p.op.toNat = 2) || (l.uOp = 2 && !send && p.op.toNat = 1))

/-- Send the words of a SEND. -/
def State.sendWords (s : State) (r : Nat) (l : CRec) : List Nat → Res (Option Nat)
  | [] => .ok s none
  | a :: as =>
    (s.readAt .device 0 a 64).andThen fun s x =>
      if x.2 then .ok s (some a) else (s.sendData l.uNxt r x.1).sendWords r l as

/-- The sending side of an UPDATE goes. -/
def State.startSend (s0 s : State) (r : Nat) (l : CRec) : State :=
  if l.uOp = 1 then
    orWait s0 (s.sendWords r l ((List.range (l.uLen / 64)).map fun i => l.u 24 8 + 64 * i)) fun s e =>
      s.endRunning r (match e with | some a => finUe a | none => finOk)
  else
    let n := l.uRsz + 1
    let bs := (List.range (chunkSize n l.uNblk l.uRpos)).map (· + chunkStart n l.uNblk l.uRpos)
    orWait s0 (s.sendOwn r l bs) fun s e =>
      match e with
      | some a => s.endRunning r (finUe a)
      | none =>
        let held := match (s.rig r).running with | some m => m.upd.held | none => []
        let s := s.modCmd r fun m => { m with upd := { m.upd with rvSend := true, held := [] } }
        (held.foldl (fun s b => s.sendData l.uNxt r b) s).ringDone r

/-- RENDEZVOUS: a peer grants credit on NXT, or asks for it on PRV. -/
def execRendezvous (r : RigId) (send : Bool) (peer : Rdv) (s : State) : Out :=
  match (s.rig r).running with
  | none => .next s
  | some m =>
    let l := m.r
    let port := if send then l.uNxt else l.uPrv
    if l.op ≠ 0xC || m.fin.isSome || (s.port port).st ≠ 2 || (s.rig r).pahus = 0 || !complement r l send (s.port port).peerPort peer ||
        (if send then m.upd.rvSend else m.upd.rvRecv) then .next s
    else if !agree l send peer then .next (s.endRunning r finMismatch)
    else if send then .next (State.startSend s s r l)
    else
      let s := s.modCmd r fun m => { m with upd := { m.upd with rvRecv := true } }
      .next (if l.uOp = 0 then s.ringDone r else s)

/-! ### Arrivals -/

/-- The place in the ring advances. -/
def State.nextPlace (s : State) (r n : Nat) : State :=
  s.modCmd r fun m => { m with upd := { m.upd with pos := m.upd.pos + n } }

/-- A partial arrives at a reducing step: sent on, or owned and updated (R402). -/
def State.reduceBlock (s : State) (r : Nat) (m : Cmd) (step b : Nat) (data : List Byte) : Res (Option Nat) :=
  let l := m.r
  (s.readBlock (l.u 24 8) b).andThen fun s own =>
    match own with
    | .inl a => .ok s (some a)
    | .inr own =>
      let g := List.zipWith fadd (dequantise l.uWfmt data) own
      if step + 2 ≤ l.uRsz then .ok (s.emit r (quantise l.uWfmt g)) none
      else (s.applyBlock l m.upd.prog b g).andThen fun s x =>
        match x with
        | .inl a => .ok s (some a)
        | .inr w => .ok (s.emit r (bytesLe w)) none

/-- Weights arrive at a gathering step: written, and sent on but for the last step. -/
def State.gatherBlock (s : State) (r : Nat) (m : Cmd) (step b : Nat) (data : List Byte) : Res (Option Nat) :=
  (s.writeWeights m.r b (wordsLe data)).andThen fun s _ =>
    .ok (if step + 2 ≤ m.r.uRsz then s.emit r data else s) none

/-- Data of a RECV. -/
def State.recvWords (s0 s : State) (r : Nat) (m : Cmd) (data : List Byte) : State :=
  let l := m.r
  if data = [] || data.length % 64 ≠ 0 || l.uLen < m.upd.pos + data.length then s0
  else
    orWait s0 (s.feWrite (l.u 32 8 + m.upd.pos) data) fun s _ =>
      let s := s.nextPlace r data.length
      if m.upd.pos + data.length = l.uLen then s.endRunning r finOk else s

/-- Data of a REDUCE. -/
def State.recvBlock (s : State) (r : Nat) (m : Cmd) (data : List Byte) : State :=
  match m.expects with
  | none => s
  | some (red, step, b) =>
    if data.length ≠ (if red then wireLen m.r.uWfmt else 128) then s
    else
      orWait s (if red then s.reduceBlock r m step b data else s.gatherBlock r m step b data) fun s e =>
        match e with
        | some a => s.endRunning r (finUe a)
        | none => (s.nextPlace r 1).ringDone r

/-- WIRE_BLOCK_ARRIVAL (R397, R402). -/
def execWireBlockArrival (r : RigId) (data : List Byte) (s : State) : Out :=
  match (s.rig r).running with
  | none => .next s
  | some m =>
    if m.r.op ≠ 0xC || m.fin.isSome || !m.upd.rvRecv || (s.port m.r.uPrv).st ≠ 2 then .next s
    else if m.r.uOp = 2 then .next (s.recvWords s r m data)
    else .next (s.recvBlock r m data)

/-! ### A port that goes down (R399) -/

/-- The ports an UPDATE uses. -/
def CRec.uPorts (l : CRec) : List Nat :=
  match l.uOp with
  | 0 => if l.uRsz = 0 then [] else [l.uNxt, l.uPrv]
  | 1 => [l.uNxt]
  | 2 => [l.uPrv]
  | _ => []

/-- The first block a member of a ring writes: of the chunk it owns, else of the first chunk it gathers that has any (R402). -/
def firstWritten (n nblk r : Nat) : Nat :=
  match (((r + 1) % n) :: (List.range (n - 1)).map fun k => (r + n - k) % n).find? fun c => chunkSize n nblk c ≠ 0 with
  | some c => chunkStart n nblk c
  | none => 0

/-- The address of the first block or word not yet written: the next that an arrival will write. -/
def Cmd.unwritten (m : Cmd) : Nat :=
  let l := m.r
  match l.uOp with
  | 0 =>
    let n := l.uRsz + 1
    match m.expects with
    | some (true, k, b) =>
      l.u 32 8 + 128 * (if k + 2 = n then b else firstWritten n l.uNblk l.uRpos)
    | some (false, _, b) => l.u 32 8 + 128 * b
    | none => l.u 32 8 + 128 * l.uNblk
  | 2 => l.u 32 8 + m.upd.pos
  | _ => 0

/-- The UPDATEs that use a port end with FAULT_DOWN. -/
def State.endUpdates (s : State) (p : Nat) : State :=
  s.each (List.range 64) fun s r =>
    match (s.rig r).running with
    | some m =>
      if m.r.op = 0xC && m.fin.isNone && m.r.uPorts.contains p then s.endRunning r ⟨0x21, stopDetail m.unwritten none 0x0B⟩ else s
    | none => s

/-- A port goes down (R382, R399). -/
def State.portDown (s : State) (p : Nat) : State :=
  ((s.setPort p { s.port p with st := 0, t1 := none }).endUpdates p).raiseSrc (768 + p)

/-- PAHUS_PORT_DOWN. -/
def execPahusPortDown (p : PortId) (s : State) : Out :=
  if (s.port p).st = 0 then .next s else .next (s.portDown p)

end Sys2Proof.Machine
end

