-- ==== Sys2Proof/Machine/Cascade.lean ====
section
/-! DEFINITION. The cascade (14): ports (R379 to R383, R531), configuration (R387 to R390), delays (R391), barriers (R392 to
R395); and the dispatch of a rig's next command (R335), which starts UPDATEs. -/

namespace Sys2Proof.Machine

/-! ### Ports -/

/-- A port's training starts: lanes and counts are those of a port just trained (R381, R506). -/
def Port.train (k : Port) : Port :=
  { k with st := 1, failed := 0, spare := none, retry := 0, delay := 0, peerRank := 0, peerPort := 0, t1 := none }

/-- A write of PEN: a set bit starts training where a peer is present, a cleared bit takes the port down (Table 14-6,
R506). -/
def State.portEnable (s : State) (pen present : BitVec 6) : State :=
  s.each (List.range 6) fun s p =>
    let k := s.port p
    let s := s.setPort p { k with pen := pen.getLsbD p, present := present.getLsbD p }
    if pen.getLsbD p && !k.pen then s.setPort p (s.port p).train
    else if !pen.getLsbD p && k.pen then (if k.st = 0 then s else s.portDown p)
    else s

/-- PORT_ENABLE. -/
def execPortEnable (pen present : BitVec 6) (s : State) : Out :=
  .next (if s.bar0On 0x090000 then s.portEnable pen present else s)

/-- A write of CASC_RANK takes effect only while every port is disabled (R387). -/
def State.rankWrite (s : State) (r : BitVec 6) : State :=
  if (List.range 6).any fun p => (s.port p).pen then s else { s with casc := { s.casc with rank := r } }

/-- CASC_RANK_WRITE. -/
def execCascRankWrite (r : BitVec 6) (s : State) : Out := .next (if s.bar0On 0x090008 then s.rankWrite r else s)

/-- PAHUS_RETRANSMISSION (R380). DEDUCED: log entry 31. -/
def execPahusRetransmission (p : PortId) (s : State) : Out :=
  let k := s.port p
  .next (if k.st = 0 then s else s.setPort p { k with retry := satTo 0xFFFF (k.retry + 1) })

/-- A half of a port's lanes works throughout once the spare, lane 16, is counted (R382). DEDUCED: log entry 30. -/
def Port.halfOk (k : Port) (h : Nat) : Bool :=
  (List.range 8).all fun i => !k.failed.getLsbD (8 * h + i) || (k.spare = some (8 * h + i) && !k.failed.getLsbD 16)

/-- PAHUS_LANE_FAILED (R381, R382): the spare replaces the first failed lane; a second failure leaves x8, or nothing.
DEDUCED: log entry 30. -/
def execPahusLaneFailed (p : PortId) (lane : Fin 17) (s : State) : Out :=
  let k := s.port p
  if k.st = 0 || k.failed.getLsbD lane then .next s
  else
    let first := k.failed == 0
    let k := { k with
      failed := k.failed ||| BitVec.twoPow 17 lane
      spare := if first && lane.val < 16 then some lane.val else k.spare }
    let s := ((s.setPort p k).bumpGen).raiseSrc (768 + p)
    .next (if first || k.halfOk 0 || k.halfOk 1 then s else s.portDown p)

/-- PORT_TRAINING_DONE (R383, R506). -/
def execPortTrainingDone (p : PortId) (s : State) : Out :=
  let k := s.port p
  .next (if k.st = 1 && k.present then s.setPort p { k with st := 3 } else s)

/-- PEER_ATTESTATION_DONE (R383, R387, R531): both signatures verify or not, the first 32 bytes of the peer's identity
digest, its rank and its port. DESIGN CHOICE: log entry 29. DEDUCED: log entry 54. -/
def execPeerAttestationDone (p : PortId) (digest : BitVec 256) (signed : Bool) (rank : BitVec 6) (port : BitVec 3) (s : State) : Out :=
  let k := s.port p
  let pin := tget 0 s.sec.pins p
  if k.st ≠ 3 then .next s
  else
    let k := { k with peerRank := rank, peerPort := port }
    if signed && (pin == 0 || pin == digest) && rank ≠ s.casc.rank then
      .next (({ s with sec := { s.sec with pins := tset 0 s.sec.pins p digest } } : State).setPort p { k with st := 2 })
    else .next (((s.setPort p { k with st := 4 }).endUpdates p).raiseSrc (768 + p))

/-! ### Barriers at the master (R393 to R395) -/

/-- Links to a rank by way of a port (R392). DESIGN CHOICE: log entry 27. -/
def State.linksBy (s : State) (rank p : Nat) : Nat :=
  let q := (s.port p).peerRank.toNat
  if q = rank then 1 else 2 + Config.hops s.casc.epoch.toNat q rank

/-- The port towards a rank: of the ports at STATE 2 with the fewest links, the lowest-numbered (R392). DESIGN CHOICE: log entry 27. -/
def State.portTo (s : State) (rank : Nat) : Option Nat :=
  s.upPorts.find? fun p => s.upPorts.all fun q => s.linksBy rank p ≤ s.linksBy rank q

/-- Send towards a rank. DESIGN CHOICE: log entry 27. -/
def State.sendTo (s : State) (rank : Nat) (m : Msg) : State :=
  match s.portTo rank with
  | some p => s.sendMsg p m
  | none => s

/-- Replace, open or close the barrier of a tag. -/
def State.setBar (s : State) (tag : BitVec 8) (b : Option Bar) : State :=
  { s with casc := { s.casc with bars := s.casc.bars.filter (fun x => x.tag ≠ tag) ++ b.toList } }

/-- Send an arrival or a released mark on towards the master: the link it leaves by adds its DELAY to the path's (R392). -/
def State.sendUp (s : State) (m : Nat → Msg) (delay : Nat) : State :=
  match s.portTo s.casc.master.toNat with
  | some p => s.sendMsg p (m (delay + (s.port p).delay))
  | none => s

/-- Arrivals and released marks of all members (R395). -/
def Bar.complete (b : Bar) (nmem : Nat) : Bool := nmem + 1 ≤ popcount (b.ranks ||| b.marks).toNat

/-- An arrival of a rank joins a barrier; one of a rank that has arrived or been released there, or at a full barrier, belongs to the next
with its tag (R393, R395). -/
def Bar.arrive (b : Bar) (rank delay : Nat) : Bar :=
  if b.full.isSome || b.ranks.getLsbD rank || b.marks.getLsbD rank then { b with later := b.later ++ [(rank, delay)] }
  else { b with ranks := b.ranks ||| BitVec.twoPow 64 rank, delays := tset 0 b.delays rank delay }

/-- A barrier with every member's arrival or mark is full from now on. -/
def Bar.fill (b : Bar) (nmem now : Nat) : Bar := if b.full.isNone && b.complete nmem then { b with full := some now } else b

/-- Arrivals that waited for a barrier to close open the next (R393). -/
def State.reopen (s : State) (tag : BitVec 8) (xs : List (Nat × Nat)) : State :=
  if xs = [] then s.setBar tag none
  else s.setBar tag (some ((xs.foldl (fun (b : Bar) x => b.arrive x.1 x.2) { tag := tag }).fill s.casc.nmem.toNat s.adm.now))

/-- The members a full barrier releases: those not already released (R395). -/
def Bar.targets (b : Bar) : BitVec 64 := b.ranks &&& ~~~b.marks

/-- An arrival, or a released mark, counts at the master; a full barrier whose members are all released closes (R393, R395).
DEDUCED: log entry 28. -/
def State.countArrival (s : State) (rank : Nat) (tag : BitVec 8) (released : Bool) (delay : Nat) : State :=
  let b := (s.casc.bars.find? fun x => x.tag = tag).getD { tag := tag }
  let b := (if released then { b with marks := b.marks ||| BitVec.twoPow 64 rank, delays := tset 0 b.delays rank delay }
    else b.arrive rank delay).fill s.casc.nmem.toNat s.adm.now
  if b.full.isSome && b.targets == 0 then s.reopen tag b.later else s.setBar tag (some b)

/-- The path delay of a member in ns: none of this module's own, the DELAY of the link to a peer, else what its arrival brought (R392,
R394). -/
def State.pathDelay (s : State) (b : Bar) (rank : Nat) : Nat :=
  if rank = s.casc.rank.toNat then 0
  else
    match s.upPorts.find? fun p => (s.port p).peerRank.toNat = rank with
    | some p => (s.port p).delay
    | none => tget 0 b.delays rank

/-- The tick at which the master sends a member's release (R394): STAG in µs, delays in ns; the largest delay is that of all members,
released ones too. DEDUCED: log entry 28. -/
def State.dueAt (s : State) (b : Bar) (full stag rank : Nat) : Nat :=
  let pmax := ((idxs 64 fun i => (b.ranks ||| b.marks).getLsbD i).map (s.pathDelay b)).foldl max 0
  full + nsTicks ((rank / 8 * stag * 1000 + (pmax - s.pathDelay b rank) : Nat) : Rat)

/-- STAG of CASC_CTL. -/
def State.stag (s : State) : Nat := bits (s.reg 0x090000).toNat 63 56
/-- HBTO of CASC_CTL. -/
def State.hbto (s : State) : Nat := bits (s.reg 0x090000).toNat 47 40

/-- A release reaches this module: the BARRIER with its tag ends (R394). -/
def State.released (s : State) (tag : BitVec 8) : State :=
  match (List.range 64).find? fun r =>
      match (s.rig r).running with
      | some m => m.r.op = 0xC && m.r.uOp = 3 && m.fin.isNone && m.r.uTag = tag.toNat
      | none => false with
  | none => s
  | some r =>
    ({ s with casc := { s.casc with relTags := tag :: s.casc.relTags.filter (· ≠ tag) } } : State).endRunning r finOk

/-- CASCADE_RELEASE_SEND (R394). -/
def execCascadeReleaseSend (tag : BitVec 8) (rank : BitVec 6) (now : Nat) (s : State) : Out :=
  let s := s.seeTick now
  match s.casc.bars.find? fun b => b.tag = tag with
  | none => .next s
  | some b =>
    match b.full with
    | none => .next s
    | some full =>
      let due := s.dueAt b full s.stag rank.toNat
      if s.casc.role ≠ 2 || !b.targets.getLsbD rank.toNat || b.sent.getLsbD rank.toNat || s.adm.now < due then .next s
      else
        let b := { b with sent := b.sent ||| BitVec.twoPow 64 rank.toNat }
        let s := if b.sent &&& b.targets == b.targets then s.reopen tag b.later else s.setBar tag (some b)
        .next (if rank = s.casc.rank then s.released tag else s.sendTo rank.toNat (.release tag rank due))

/-- CASCADE_RELEASE_ARRIVAL (R386, R394): a release for this module's rank ends its BARRIER; one for another goes on. -/
def execCascadeReleaseArrival (tag : BitVec 8) (s : State) (rank : BitVec 6 := 0) (due : Nat := 0) : Out :=
  .next (if rank = s.casc.rank then s.released tag else s.sendTo rank.toNat (.release tag rank due))

/-- The message of an arrival or a released mark. -/
def arrivalMsg (tag : BitVec 8) (rank : BitVec 6) (released : Bool) (delay : Nat) : Msg :=
  if released then .mark tag rank delay else .arrival tag rank delay

/-- BARRIER_ARRIVAL_MESSAGE: an arrival or a released mark of a rank, with its path delay in ns, counts at the master; another member of
the cascade passes it on (R386, R393). -/
def execBarrierArrivalMessage (rank : BitVec 6) (tag : BitVec 8) (released : Bool) (delay : Nat) (s : State) : Out :=
  .next (if s.casc.role = 2 then s.countArrival rank.toNat tag released delay
    else if s.casc.role = 0 then s else s.sendUp (arrivalMsg tag rank released) delay)

/-- This module reports its arrival, or a released mark, to the master (R393, R395). -/
def State.arrive (s : State) (tag : BitVec 8) (released : Bool) : State :=
  if s.casc.role = 0 then s
  else if s.casc.role = 2 then s.countArrival s.casc.rank.toNat tag released 0
  else s.sendUp (arrivalMsg tag s.casc.rank released) 0

/-- The tags of the barriers at which rigs of this module wait. -/
def State.waitingTags (s : State) : List (BitVec 8) :=
  (List.range 64).filterMap fun r =>
    match (s.rig r).running with
    | some m => if m.r.op = 0xC && m.r.uOp = 3 && m.fin.isNone then some (BitVec.ofNat 8 m.r.uTag) else none
    | none => none

/-- At an EPOCH change arrivals and released marks go to the new master (R395). -/
def State.rearrive (s : State) : State :=
  let s := s.waitingTags.foldl (fun s t => s.arrive t false) s
  s.casc.relTags.foldl (fun s t => s.arrive t true) s

/-! ### Configuration and heartbeats (R388 to R390) -/

/-- ROLE under a configuration: a module that believed itself master becomes a member (R390). -/
def Casc.roleUnder (c : Casc) (master standby : BitVec 6) (hasStandby : Bool) : BitVec 2 :=
  if c.role = 2 then 1
  else if master = c.rank then 2
  else if hasStandby && standby = c.rank then 3
  else 1

/-- CONFIGURATION_RECEIVED (R388, R390, R395). -/
def execConfigurationReceived (epoch : BitVec 32) (master standby : BitVec 6) (hasStandby : Bool) (nmem : BitVec 6) (s : State) : Out :=
  let c := s.casc
  let better := c.epoch.toNat < epoch.toNat || (epoch = c.epoch && c.role ≠ 0 && master.toNat < c.master.toNat)
  if !better then .next s
  else
    let s : State := { s with casc := { c with
      epoch := epoch, master := master, standby := standby, hasStandby := hasStandby, nmem := nmem
      role := c.roleUnder master standby hasStandby, bars := [], seen := none } }
    .next ((s.raiseSrc 774).floodConfig.rearrive)

/-- HEARTBEAT_SEND: the master's, every 100 µs (R389). -/
def execHeartbeatSend (s : State) : Out :=
  if s.casc.role ≠ 2 then .next s
  else
    let n := s.casc.hb + 1
    .next (({ s with casc := { s.casc with hb := n } } : State).flood (.heartbeat s.casc.epoch n))

/-- HEARTBEAT_RECEIVED: flooded once (R389). -/
def execHeartbeatReceived (epoch : BitVec 32) (seq : Nat) (s : State) : Out :=
  let c := s.casc
  let fresh := match c.seen with | some n => n < seq | none => true
  if (c.role = 1 || c.role = 3) && epoch = c.epoch && fresh then
    .next (({ s with casc := { c with seen := some seq } } : State).flood (.heartbeat epoch seq))
  else .next s

/-- HEARTBEAT_TIMEOUT: the standby makes itself master (R389). -/
def execHeartbeatTimeout (s : State) : Out :=
  let c := s.casc
  if c.role ≠ 3 || s.hbto = 0 then .next s
  else
    let s : State := { s with casc := { c with
      epoch := c.epoch + 1, master := c.rank, standby := 0, hasStandby := false, role := 2, bars := [], seen := none } }
    .next ((s.raiseSrc 774).floodConfig.rearrive)

/-! ### KEYOPs of the cascade (R388, R538) -/

/-- KEYOP CASCADE: EPOCH rises by one, the configuration is flooded (R388), and what this module's own rigs wait for is reported again
(R395). -/
def State.configure (s : State) (standby nmem : Nat) : State :=
  let c := s.casc
  ({ s with casc := { c with
      epoch := c.epoch + 1, nmem := BitVec.ofNat 6 (nmem - 1), standby := BitVec.ofNat 6 standby, hasStandby := true
      master := c.rank, role := 2, bars := [] } } : State).raiseSrc 774 |>.floodConfig |>.rearrive

/-- KEYOP_CASCADE (R388). -/
def execKeyopCascade (s : State) : Out :=
  s.withLine 0xB (fun r => r.u 24 1 = 2) fun r s =>
    s.critical r (fun _ => none) fun s => (s.configure (r.u 26 1) (r.u 27 1)).conclude r finOk

/-- Set a port's pin; a port at STATE 2 or 4 attests again (R538), and the UPDATEs of one that was up end with their peer's attestation
(R399). -/
def State.setPin (s : State) (p : Nat) (pin : BitVec 256) : State :=
  let s : State := { s with sec := { s.sec with pins := tset 0 s.sec.pins p pin } }
  let k := s.port p
  if k.st = 2 then (s.setPort p { k with st := 3 }).endUpdates p else if k.st = 4 then s.setPort p { k with st := 3 } else s

/-- KEYOP_PIN (R538). -/
def execKeyopPin (s : State) : Out :=
  s.withLine 0xB (fun r => r.u 24 1 = 3) fun r s =>
    s.critical r (fun _ => none) fun s =>
      (s.setPin (r.u 25 1) (if r.u 26 1 = 1 then 0 else BitVec.ofNat 256 (r.u 32 32))).conclude r finOk

/-! ### Delays (R391) -/

/-- Half a span of ticks in ns, to the nearest. -/
def halfNs (t : Nat) : Nat := (4 * t + 5) / 10

/-- DELAY_PROBE_SEND. -/
def execDelayProbeSend (p : PortId) (t1 : Nat) (s : State) : Out :=
  let k := s.port p
  .next (if k.st = 2 then (s.setPort p { k with t1 := some t1 }).sendMsg p (.probe t1) else s)

/-- DELAY_PROBE_RECEIVED: echoed with the time this module held it. -/
def execDelayProbeReceived (p : PortId) (arrive leave : Nat) (s : State) : Out :=
  .next (if (s.port p).st = 2 then s.sendMsg p (.echo (leave - arrive)) else s)

/-- DELAY_PROBE_ECHO. -/
def execDelayProbeEcho (p : PortId) (t2 h : Nat) (s : State) : Out :=
  let k := s.port p
  match k.t1 with
  | none => .next s
  | some t1 => .next (if k.st = 2 then s.setPort p { k with t1 := none, delay := satTo 0xFFFF (halfNs (t2 - t1 - h)) } else s)

/-! ### Dispatch (R335) -/

/-- The start of an UPDATE: a REDUCE of one member runs, a BARRIER reports its arrival, the others wait for their peers
(R393, R397, R402). -/
def State.startUpdate (s0 s : State) (r : Nat) (m : Cmd) : State :=
  let l := m.r
  if l.uOp = 0 && l.uRsz = 0 then
    orWait s0 (s.applyAll l m.upd.prog (List.range l.uNblk)) fun s e =>
      s.endRunning r (match e with | some a => finUe a | none => finOk)
  else if l.uOp = 3 then
    let tag := BitVec.ofNat 8 l.uTag
    ({ s with casc := { s.casc with relTags := s.casc.relTags.filter (· ≠ tag) } } : State).arrive tag false
  else s

/-- PLAN_DISPATCH (R335). -/
def execPlanDispatch (r : RigId) (now : Nat) (s : State) : Out := .next (s.dispatchNext State.startUpdate r now)

end Sys2Proof.Machine
end

