-- ==== Sys2Proof/Machine/Rerig.lean ====
section
/-! DEFINITION. Re-rigs (R407 to R419) and completion records (R374 to R378). -/

namespace Sys2Proof.Machine

/-! ### The plan block (R412, Table 15-3) -/

/-- What a plan binds to a rig, or what a rig holds. -/
structure Bind where
  cores : BitVec 4096
  regions : BitVec 384
  ways : BitVec 64
  hbm : Nat
  stay : Nat
  pahus : Nat
  pwr : Nat
  evec : Nat
deriving DecidableEq, Repr

/-- A plan entry from its 640 bytes. -/
def bindOf (e : List Byte) : Bind :=
  { cores := BitVec.ofNat 4096 (field e 0 512), regions := BitVec.ofNat 384 (field e 512 48)
    ways := BitVec.ofNat 64 (field e 560 8), hbm := field e 568 2, stay := field e 570 2, pahus := field e 572 2
    pwr := field e 574 2, evec := field e 576 2 }

/-- The rigs of a mask, ascending. -/
def maskRigs (m : BitVec 64) : List Nat := idxs 64 fun r => m.getLsbD r
/-- RIGMASK of a plan block. -/
def planMask (p : List Byte) : BitVec 64 := BitVec.ofNat 64 (field p 0 8)
/-- Length of a plan block (R411). -/
def planLen (p : List Byte) : Nat := 64 + 640 * (maskRigs (planMask p)).length
/-- The entry of rig r in a plan block. -/
def planEntry (p : List Byte) (r : Nat) : List Byte :=
  let i := ((maskRigs (planMask p)).filter (· < r)).length
  (p.drop (64 + 640 * i)).take 640

/-- What a rig holds. -/
def Rig.bind (k : Rig) : Bind := ⟨k.cores, k.regions, k.ways, k.hbm, k.stay, k.pahus, k.share, k.evec⟩

/-- What each rig holds under a plan. -/
def State.planned (s : State) (p : List Byte) (r : Nat) : Bind :=
  if (planMask p).getLsbD r then bindOf (planEntry p r) else (s.rig r).bind

/-- Bit vectors that share no bit. -/
def disjoint {w : Nat} (xs : List (BitVec w)) : Bool :=
  (xs.foldl (fun (a : Bool × BitVec w) x => (a.1 && (a.2 &&& x == 0), a.2 ||| x)) (true, 0)).1

/-- The mode of a region once a re-rig of some rigs takes effect: a staged one when its holder is among them (R214). -/
def State.modeAfter (s : State) (mask : BitVec 64) (g : Nat) : BitVec 2 :=
  match tget none s.llc.rstage g, s.rigOfRegion g with
  | some m, some r => if mask.getLsbD r then m else s.regMode g
  | _, _ => s.regMode g

/-- The masts in which a rig must hold ways (R409). -/
def State.mastsFor (s : State) (mask : BitVec 64) (regions : BitVec 384) : List Nat :=
  if regions == 0 then []
  else if (List.range 384).any fun g => regions.getLsbD g && !(s.modeAfter mask g).getLsbD 0 then List.range 4
  else (List.range 4).filter fun m => regions &&& homedOn m != 0

/-- The logical ways lost in any slice of a mast (R493). -/
def State.lostWays (s : State) (m : Nat) : BitVec 16 :=
  (List.range 32).foldl (fun a i => a ||| tget 0 s.llc.retired (32 * m + i)) 0

/-- One rig's new binding keeps its ranges, R409 and R493. -/
def State.bindOk (s : State) (mask : BitVec 64) (b : Bind) : Bool :=
  b.hbm ≤ 256 && b.stay ≤ 256 && b.pahus ≤ 256 && b.pwr ≤ 1024 && b.evec < 2048 &&
    ((s.mastsFor mask b.regions).all fun m => b.ways.extractLsb' (16 * m) 16 != 0) &&
    (List.range 4).all fun m => b.ways.extractLsb' (16 * m) 16 &&& s.lostWays m == 0

/-- Reserved fields of a plan block are zero. -/
def planReserved (p : List Byte) : Bool :=
  field p 8 56 = 0 && (maskRigs (planMask p)).all fun r => field (planEntry p r) 578 62 = 0

/-- The checks of R413 on a plan block. DEDUCED: log entry 36. -/
def State.planOk (s : State) (p : List Byte) : Bool :=
  let mask := planMask p
  let bs := (List.range 64).map (s.planned p)
  let sum (f : Bind → Nat) : Nat := (bs.map f).foldl (· + ·) 0
  mask != 0 && planReserved p && ((maskRigs mask).all fun r => s.bindOk mask (s.planned p r)) &&
    disjoint (bs.map (·.cores)) && disjoint (bs.map (·.regions)) && disjoint (bs.map (·.ways)) &&
    sum (·.hbm) ≤ 256 && sum (·.stay) ≤ 256 && sum (·.pahus) ≤ 256 && sum (·.pwr) ≤ 1024

/-! ### Phases 1 and 2 -/

/-- Phase 2: an affected rig's commands end (Table 15-4). -/
def State.quiesce (s : State) (r : Nat) : State :=
  let s := s.setRig r { s.rig r with st := 2 }
  (s.stopRunning r 0x0C).dropWaiting r 0x0C fun _ => true

/-- A RERIG starts: the rest of phase 1, and phase 2 (R413, R414). Its record waits in the list of outcomes. -/
def State.startRerig (s : State) (r : CRec) : State :=
  match firstSome [failIf (r.u 24 8 % 64 ≠ 0 || !s.planOk r.plan) (rejRes 24 0), r.rsvField 48 63, r.line2Check] with
  | some x => s.conclude r x
  | none =>
    let s := s.setAdm { s.adm with rerig := some ⟨r, planMask r.plan, r.plan⟩ }
    (s.each (maskRigs (planMask r.plan)) State.quiesce).conclude r finOk

/-- RERIG after its authentication and its plan read (R411, R414). -/
def State.rerigAuth (s : State) (r : CRec) : Option (List Byte) → State
  | none => s.conclude r ((firstSome [s.step2 r, r.step3, r.flagCheck]).getD (rejRes 24 8))
  | some p =>
    let p := p.take (planLen p)
    if (sha384 p).take 16 ≠ (r.l1.drop 32).take 16 then s.rejAuth r 4
    else
      match firstSome [s.step2 r, r.step3, r.flagCheck] with
      | some x => s.conclude r x
      | none =>
        let r := { r with plan := p }
        if s.adm.rerig.isSome || s.adm.rerigQ ≠ [] then s.setAdm { s.adm with rerigQ := s.adm.rerigQ ++ [r] }
        else s.startRerig r

/-- The bytes a plan read returned, if they are a whole plan block. DEDUCED: log entry 36. -/
def wholePlan (p : Option (List Byte)) : Option (List Byte) :=
  p.filter fun b => decide (64 ≤ b.length) && decide (planLen b ≤ b.length)

/-- RERIG: the operand is what the reads of the plan block return, none for poison or an error completion (R411). -/
def execRerig (plan : Option (List Byte)) (s : State) : Out :=
  s.withLine 5 (fun _ => true) fun r s =>
    match s.step1 r with
    | some x => s.conclude r x
    | none =>
      if !r.crit then s.conclude r ((firstSome [s.step2 r, r.step3]).getD (rejRes 1 0))
      else
        match s.authMac r with
        | (s, some e) => s.rejAuth r e
        | (s, none) => s.rerigAuth r (wholePlan plan)

/-- RERIG_START (R414). -/
def execRerigStart (s : State) : Out :=
  match s.adm.rerig, s.adm.rerigQ with
  | none, r :: t => .next ((s.setAdm { s.adm with rerigQ := t }).startRerig r)
  | _, _ => .next s

/-! ### Phase 3: the LLC -/

/-- A staged key is installed: the re-rig includes every rig that holds ways (R213). -/
def State.installsKey (s : State) (mask : BitVec 64) : Bool :=
  s.llc.staged.isSome && (List.range 64).all fun r => mask.getLsbD r || (s.rig r).ways == 0

/-- Drop what the LLC holds of the lines and granules that satisfy p, by address, and the host's copies of those that satisfy host (Table
15-4 phase 3). -/
def Llc.forget (l : Llc) (p host : Nat → Bool) (who : Who → Bool) : Llc :=
  { l with
    fills := l.fills.filter fun f => !p (1024 * f.line)
    setW := l.setW.filter fun g => !p (4096 * g), setR := l.setR.filter fun g => !p (4096 * g)
    waiting := l.waiting.filter fun e => !p e.2.a, heldG := l.heldG.filter fun g => !p (4096 * g)
    held := l.held.filter fun q => !p q.a, reds := l.reds.filter fun e => !p e.2.a, fwd := l.fwd.filter fun e => !p e.2.a
    fwdHeld := l.fwdHeld.filter fun q => !p q.a, snoops := l.snoops.filter fun n => !host (64 * n)
    frees := l.frees.filter fun n => !host (64 * n), snHeld := l.snHeld.filter fun q => !p q.a
    trk := l.trk.filter fun t => !who t.who, dir := l.dir.filter fun e => !host (64 * e.line)
    acks := l.acks.filter fun n => !p (1024 * n), splits := l.splits.filter fun n => !p (1024 * n) }

/-- Phase 3. DEDUCED: log entry 37. -/
def State.phase3 (s : State) (key : Bool) (cores : BitVec 4096) (regions : BitVec 384) : State :=
  let mine (a : Nat) : Bool := regions.getLsbD (regionOf a)
  let s := s.evictLines fun l => key || mine (1024 * l)
  { s with llc := s.llc.forget mine (fun a => key || mine a) fun w => match w with | .core c => cores.getLsbD c.val | _ => false }

/-! ### Phase 4 (Table 15-5) -/

/-- Whether an address lies in the memory of some cores and regions. -/
def within (cores : BitVec 4096) (regions : BitVec 384) (a : Nat) : Bool :=
  match place a with
  | .hbm => regions.getLsbD (regionOf a)
  | .tile n _ => cores.getLsbD n
  | .locker n _ => cores.getLsbD n
  | _ => false

/-- What a re-rig leaves of a core. -/
def Core.rerigged (k : Core) : Core :=
  { k.clearL1s with
    acc := [], accW := 0, lku := [], liveB := false, recLive := [], recShad := [], epoch := 0, tok := 0, chHalt := 0
    q := [], run := [], posted := [], atBar := none }

/-- The rig holding the armed target is affected (R484). -/
def State.flipAffected (s : State) (cores : BitVec 4096) (regions : BitVec 384) (mask : BitVec 64) : Bool :=
  let t := s.ras.flipTgt.toNat
  let u := bits t 51 40
  match bits t 55 52 with
  | 2 => regions &&& homedOn (u / 64) != 0
  | 4 => (maskRigs mask).any fun r => s.waysOf r (u / 32) != 0
  | _ => cores.getLsbD u

/-- Phase 4. DEDUCED: log entry 37. -/
def State.phase4 (s : State) (mask : BitVec 64) (cores : BitVec 4096) (regions : BitVec 384) : State :=
  let src : BitVec 2048 := (maskRigs mask).foldl (fun b r => b ||| BitVec.twoPow 2048 (128 + r)) 0
  let s : State := { s with
    mem := tclear (within cores regions) s.mem
    errs := tclear (within cores regions) s.errs
    gran := tclear (fun g => within cores regions (4096 * g)) s.gran
    banks := tclear (fun i => cores.getLsbD (i / 16)) s.banks
    evt := { s.evt with
      pend := s.evt.pend &&& ~~~src, due := s.evt.due &&& ~~~src, sheetDue := s.evt.sheetDue &&& ~~~src
      cause := tclear (fun r => mask.getLsbD r) s.evt.cause }
    ras := if s.flipAffected cores regions mask then { s.ras with flipTgt := s.ras.flipTgt &&& ~~~(BitVec.twoPow 64 63) } else s.ras }
  let s := s.each ((s.cores.map (·.1)).filter fun c => cores.getLsbD c) fun s c => s.setCore c (s.core c).rerigged
  let s := s.each ((s.tiles.map (·.1)).filter fun c => cores.getLsbD c) fun s c =>
    s.setTile c { s.tile c with cq := [], mq := [], cpart := {}, mpart := {} }
  s.each (maskRigs mask) fun s r =>
    let s := s.dropWaiting r 0x0C fun _ => true
    s.setRig r { s.rig r with corpP := 0, corpM := 0, crig := false, fault := false, iv := [], plan := [], cq := [], deads := 0, reefs := 0 }

/-! ### Phase 5 -/

/-- The yards a re-rig includes (R418). -/
def State.includedYards (s : State) (mask : BitVec 64) (cores : BitVec 4096) : List Nat :=
  let out : BitVec 4096 := (List.range 64).foldl (fun b r => if mask.getLsbD r then b else b ||| (s.rig r).cores) 0
  allYards.filter fun y => cores.extractLsb' (16 * y) 16 != 0 && out.extractLsb' (16 * y) 16 == 0

/-- A physical way of a slice, 16 the spare, serves no more: the spare stands for the first logical way, the others are lost; a bad spare
loses the way it stood for, or stands for none from then on, which 16 says (R493). -/
def State.loseWay (s : State) (slice way : Nat) : State :=
  let l := s.llc
  let lose (w : Nat) : Llc := { l with retired := tset 0 l.retired slice (tget 0 l.retired slice ||| BitVec.twoPow 16 w) }
  { s with llc :=
    match tget none l.spareFor slice with
    | none => { l with spareFor := tset none l.spareFor slice (some way) }
    | some w => if way < 16 then (if w = way then l else lose way) else if w < 16 then lose w else l }

/-- A logical core whose position changes at a mapping has the state of core and tile cleared, bound or not (R25). -/
def State.clearMoved (s : State) (c : Nat) : State :=
  let mine (a : Nat) : Bool := coreAt a = some c
  let s := s.setCore c (s.core c).rerigged
  { s with
    mem := tclear mine s.mem
    errs := tclear mine s.errs
    gran := tclear (fun g => mine (4096 * g)) s.gran
    banks := tclear (fun i => i / 16 = c) s.banks }

/-- The mapping of an included yard, with what it moves cleared (R22, R25, R418). -/
def State.remapYard (s : State) (y : Nat) : State :=
  let old := backing (s.yard y).work
  let s := s.mapYard y
  let new := backing (s.yard y).work
  s.each ((List.range 16).filter fun j => old[j]? ≠ new[j]?) fun s j => s.clearMoved (16 * y + j)

/-- The spare way takes a failing way's number, or the way is lost, where the re-rig includes every rig that holds it
(R493). DEDUCED: log entry 38. -/
def State.replaceWay (s : State) (mask : BitVec 64) (key : Bool) (slice way : Nat) : State :=
  let held := (List.range 64).any fun r => !mask.getLsbD r && (s.waysOf r (slice / 32)).getLsbD way
  if held && !key then s
  else
    let s := s.each (((s.llc.lines.filter fun e => e.2.slice = slice && e.2.way = way)).map (·.1)) State.evict
    let b : BitVec 16 := BitVec.twoPow 16 way
    let l := s.llc
    (({ s with llc := { l with failing := tset 0 l.failing slice (tget 0 l.failing slice &&& ~~~b) } } : State).loseWay slice way).bumpGen

/-- Every failing way. -/
def State.replaceWays (s : State) (mask : BitVec 64) (key : Bool) : State :=
  s.llc.failing.foldl (fun s e => (idxs 16 fun w => e.2.getLsbD w).foldl (fun s w => s.replaceWay mask key e.1 w) s) s

/-! ### Phase 6 -/

/-- The new binding of an affected rig (R408). -/
def State.install (s : State) (p : List Byte) (rrtime r : Nat) : State :=
  let b := bindOf (planEntry p r)
  s.setRig r { s.rig r with
    cores := b.cores, regions := b.regions, ways := b.ways, hbm := b.hbm, stay := b.stay, pahus := b.pahus, pwr := b.pwr
    newPwr := none, evec := b.evec % 2048, gen := (s.rig r).gen + 1, rrtime := rrtime
    st := if b.cores == 0 && b.regions == 0 then 0 else 1 }

/-- Staged settings of the regions of affected rigs take effect (R214). -/
def State.installModes (s : State) (regions : BitVec 384) : State :=
  s.llc.rstage.foldl (fun s e =>
    match e.2 with
    | some m => if regions.getLsbD e.1 then s.setMode e.1 m else s
    | none => s) s

/-- The staged key takes effect. -/
def State.installKey (s : State) : State :=
  match s.llc.staged with
  | some k => { s with llc := { s.llc with key := k, staged := none } }
  | none => s

/-- The included yards run or furl by their new bindings (R446). -/
def State.seatYard (s : State) (y : Nat) : State :=
  if !s.yardBound y then s.furlOff y 9
  else if s.mayPowerOn y then s.wake y
  else s

/-- Phases 3 to 6 (Table 15-4); rrtime is ELAPSED in µs, rounded up. -/
def State.finishRerig (s : State) (x : Rerig) (rrtime : Nat) : State :=
  let rs := maskRigs x.mask
  let oldC : BitVec 4096 := rs.foldl (fun b r => b ||| (s.rig r).cores) 0
  let oldR : BitVec 384 := rs.foldl (fun b r => b ||| (s.rig r).regions) 0
  let cores : BitVec 4096 := rs.foldl (fun b r => b ||| (bindOf (planEntry x.plan r)).cores) oldC
  let regions : BitVec 384 := rs.foldl (fun b r => b ||| (bindOf (planEntry x.plan r)).regions) oldR
  let key := s.installsKey x.mask
  let ys := s.includedYards x.mask cores
  let s := ((s.phase3 key cores regions).phase4 x.mask cores regions)
  let s := (s.each ys State.remapYard).replaceWays x.mask key
  let s := (s.each rs fun s r => s.install x.plan rrtime r).each rs State.putFloors
  let s := if key then s.installKey else s
  let s := s.installModes oldR
  let s := s.marginPlan true ys
  let s := s.each ys State.seatYard
  let s := s.each (allYards.filter fun y => cores.extractLsb' (16 * y) 16 != 0) fun s y => s.noteBelow (yardId y) (s.isBelow y)
  (s.setAdm { s.adm with rerig := none }).settleFloors

/-! ### Completion records (R374 to R378) -/

/-- Outcome of a command that ran in a rig: what stopped it, or OK, or BOUND_MISSED (R75, R333, R378). -/
def State.outcome (s : State) (m : Cmd) : Fin' :=
  match m.fin with
  | some f => f
  | none =>
    match m.rep, m.front with
    | some (c, st), _ => ⟨causeStatus st.cause, stopDetail st.addr (some c) st.cause⟩
    | none, some cause =>
      let c := lowestOf m.cores
      let k := s.core c
      ⟨0x30, stopDetail (match k.stop with | some st => st.addr | none => k.pc.toNat) (some c) cause⟩
    | none, none => if m.r.op = 7 then ⟨0, searchDetail m.cand m.bmap⟩ else finOk

/-- A contract that ends normally at or after its deadline missed its bound (R333). -/
def Cmd.bounded (m : Cmd) (f : Fin') (now : Nat) : Fin' :=
  if f.status = 0 && m.r.contract && m.d ≤ now then ⟨0x31, BitVec.ofNat 64 (ticksNs (now - m.d))⟩ else f

/-- The 32 bytes of a record (Table 13-13). -/
def recordBytes (r : CRec) (f : Fin') (reef elapsed energy : Nat) : List Byte :=
  (r.l1.drop 16).take 8 ++ leBytes 1 f.status.toNat ++ leBytes 1 r.cls ++ leBytes 2 (satTo 0xFFFF reef) ++
    leBytes 4 (satTo 0xFFFFFFFF elapsed) ++ leBytes 8 energy ++ leBytes 8 f.detail.toNat

/-- Counts of records by status (Tables 12-11, 13-12). -/
def State.countRecord (s : State) (n : Nat) (f : Fin') : State :=
  let k := s.strm n
  let s := s.setStrm n { k with
    out := k.out - 1
    okN := if f.status = 0 then k.okN + 1 else k.okN
    otherN := if f.status = 0 then k.otherN else k.otherN + 1 }
  if f.status = 0x10 || f.status = 0x11 || f.status = 0x14 then s.setAdm { s.adm with rejects := s.adm.rejects + 1 } else s

/-- The record is in host memory, or lost with a halt of its stream (R375). -/
def State.deliverRecord (s : State) (n : Nat) (r : CRec) (f : Fin') (bs : List Byte) (acc : Bool) : State :=
  if acc then
    let s := s.toHost (s.strmCpl n + 32 * r.slot) bs
    if bit r.flags 0 || (bit r.flags 1 && f.status ≠ 0) then s.raiseSrc (512 + n) else s
  else s.haltStrm n 5

/-- A record may be written: a FENCE's once it is the last of its stream's commands outside the fetcher (R372); a
RERIG's once its affected rigs run nothing (R415). -/
def State.recordReady (s : State) (n : Nat) (d : Done) : Bool :=
  if d.r.strm ≠ n then false
  else if d.r.op = 8 then (s.strm n).out = (s.strm n).fetched.length + 1
  else
    match s.adm.rerig with
    | some x => !(x.r = d.r) || (maskRigs x.mask).all fun r => (s.rig r).running.isNone
    | none => true

/-- The rig is done with the command whose record is written. -/
def State.releaseRig (s : State) (r : Nat) : State := (s.setRig r ({ s.rig r with running := none }).refault).settleFloors

/-- Write the record of an outcome (R374 to R378). -/
def State.writeRecord (s : State) (n : Nat) (d : Done) (acc : Bool) (reef : Nat) : State :=
  let now := s.adm.now
  let elapsed := ticksNs (now - d.r.t0)
  let s := match s.adm.rerig with
    | some x => if x.r = d.r then s.finishRerig x (satTo 0xFFFF (ceilDiv elapsed 1000)) else s
    | none => s
  let (s, f, reef, energy) := match d.rig with
    | none => (s, d.fin, 0, 0)
    | some g =>
      match (s.rig g).running with
      | none => (s, d.fin, 0, 0)
      | some m => (s.releaseRig g, m.bounded (s.outcome m) now, if m.ran then (m.reef + reef) / 1024 else 0,
          (tget 0 s.energyStrm n - m.energy).toNat)
  let s := (s.countRecord n f).deliverRecord n d.r f (recordBytes d.r f reef elapsed energy) acc
  if d.r.op = 8 then s.setStrm n { s.strm n with fence := false } else s

/-- COMPLETION_RECORD_WRITE: the first outcome of a stream that may be written, at a tick; the host accepts it or not;
reef is the number of ticks in which a yard's droop detector stretched the clock at level 0, which count as level 1 (R434). No record is written once both feeds are lost (R426). -/
def execCompletionRecordWrite (n : StreamId) (now : Nat) (acc : Bool) (reef : Nat) (s : State) : Out :=
  let s := s.seeTick now
  match if s.pwr.feedA || s.pwr.feedB then s.adm.done.findIdx? (s.recordReady n) else none with
  | none => .next s
  | some i =>
    match s.adm.done[i]? with
    | none => .next s
    | some d => .next ((s.setAdm { s.adm with done := dropAt i s.adm.done }).writeRecord n d acc reef)

end Sys2Proof.Machine
end

