-- ==== Sys2Proof/Machine/TileEvents.lean ====
section
/-! DEFINITION. Events of halyards, tiles and HBM channels (09), and their repairs (R489, R495). -/

namespace Sys2Proof.Machine

/-- Failed wires of group g of a direction of a halyard. -/
def Tile.badWires (t : Tile) (dir g : Nat) : Nat :=
  (idxs 136 fun i => tget false t.wireBad (272 * dir + 136 * g + i)).length

/-- A direction keeps full width while both its groups have at most 8 failed wires (R250). -/
def Tile.dirFull (t : Tile) (dir : Nat) : Bool := t.badWires dir 0 ≤ 8 && t.badWires dir 1 ≤ 8
/-- A direction still works while one of its groups has at most 8 failed wires (R251). -/
def Tile.dirUp (t : Tile) (dir : Nat) : Bool := t.badWires dir 0 ≤ 8 || t.badWires dir 1 ≤ 8

/-- The group a direction uses at half width: the lower-numbered with at most 8 failed wires (R250). -/
def Tile.groupUsed (t : Tile) (dir : Nat) : Nat := if t.badWires dir 0 ≤ 8 then 0 else 1

/-- A wire carries beats: at half width those of the group in use alone (R250). -/
def Tile.carries (t : Tile) (dir wire : Nat) : Bool := !t.half || wire / 136 == t.groupUsed dir

/-- A halyard wire is declared failed: a spare replaces it, or the group in use or the width changes, and new accesses are held meanwhile
(R249 to R251). DEDUCED: log entry 63. -/
def State.wireFailed (s : State) (c : CoreId) (dir : Nat) (wire : Nat) : State :=
  let t0 := s.tile c
  let t := { t0 with wireBad := tset false t0.wireBad (272 * dir + wire) true, hold := true }
  let s := match s.posOf c with
    | some p => (s.setTile c t).recordFail 2 (544 * p + 272 * dir + wire)
    | none => s.setTile c t
  if !t.dirUp dir then s.markDown true c
  else if t.half || (t.dirFull 0 && t.dirFull 1) then s.faultBegin (.halyardHold c)
  else (((s.setTile c { t with half := true }).bumpGen).faultTick (.halyardHalf c)).raiseSrc 14

/-- HALYARD_CRC_RETRY: a beat with a CRC error on one wire, in window `win` of the tile controller's counter (R248).
DEDUCED: log entry 63. -/
def execHalyardCrcRetry (c : CoreId) (dir : Fin 2) (wire : Fin 272) (win : Nat) (s : State) : Out :=
  let t := s.tile c
  let errs := if t.win = win then t.wireErr else []
  let k := 272 * dir.val + wire.val
  let n := tget 0 errs k + 1
  let s := s.setTile c { t with win := win, wireErr := tset 0 errs k n }
  if n = 8 && !tget false t.wireBad k && t.carries dir wire && !(s.core c).down then .next (s.wireFailed c dir wire) else .next s

/-- TILE_REQUEST: a request of one bank reaches the core queue or the mesh queue and is served in arrival order (R253,
R263, R264, R295). -/
def execTileRequest (c : CoreId) (mesh : Bool) (off : Nat) (op : MemOp) (s : State) : Out :=
  let n := match op with | .read n => n | .write bs => bs.length
  if n = 0 || 0x8000000 < off + n || off / 0x800000 ≠ (off + n - 1) / 0x800000 || (s.core c).down then .next s
  else
    let t := s.tile c
    let t := if mesh then { t with mq := t.mq ++ reqBeats true off op } else { t with cq := t.cq ++ reqBeats false off op }
    .next ((s.setTile c t).serveTileQueues c)

/-- REFRESH_DUE: owed by a busy unit's bank (R297, R298), at most two; else it starts (R266). -/
def execRefreshDue (c : CoreId) (b : BankId) (s : State) : Out :=
  let k := s.bank c b
  if k.busy || k.slice then .next (s.setBank c b { k with owed := min 2 (k.owed + 1) })
  else .next (s.startRefresh c b)

/-- REFRESH_END: a slice boundary performs every refresh owed, then serves the held accesses, or goes idle where its command had ended;
elsewhere requests that waited proceed (R266, R297, R298). -/
def execRefreshEnd (c : CoreId) (b : BankId) (s : State) : Out :=
  let t := s.tile c
  if !t.refr.getLsbD b then .next s
  else
    let k := s.bank c b
    let s := s.setBank c b { k with owed := k.owed - 1 }
    if 2 ≤ k.owed then .next s
    else
      let s := s.setTile c { t with refr := t.refr &&& ~~~(BitVec.twoPow 16 b) }
      match k.fin with
      | some e => .next ((s.closeRun c b e).releaseBank c b)
      | none =>
        let s := s.serveHeld c b (if k.slice && !k.paused then 8 else k.held.length)
        .next ((s.setBank c b { s.bank c b with slice := false, cut := false }).serveTileQueues c)

/-- TREFI_WINDOW_END: the next window's interval by Table 9-6 from the highest sensor reading t, in tenths of a degree,
and the busy bank-unit cycles of the window, out of 8,000,000 (R267). A change ends every busy unit's slice (R299). -/
def execTrefiWindowEnd (c : CoreId) (t busy : Nat) (s : State) : Out :=
  let y := s.yard (yardOf c)
  let temp := if y.tsusp then y.tileM else t
  let eff := temp * 8000000 + 60 * min busy 8000000
  let k := s.tile c
  let fast := if k.fast then decide (830 * 8000000 < eff) else decide (850 * 8000000 < eff)
  let s' := s.setTile c { k with fast := fast }
  if fast = k.fast then .next s'
  else .next (s'.each (List.range 16) fun s b =>
    if (s.bank c b).busy then s.setBank c b { s.bank c b with cut := true } else s)

/-- HBM_TREFI_WINDOW_END: Table 9-6 with the stack's readout and U = 0 (R268). -/
def execHbmTrefiWindowEnd (ch : ChanId) (t : Nat) (s : State) : Out :=
  let k := s.chan ch
  .next (s.setChan ch { k with fast := if k.fast then decide (830 < t) else decide (850 < t) })

/-- DUTY_WINDOW_START: paused units resume (R269, R300), but for an emergency furl (R469). -/
def execDutyWindowStart (c : CoreId) (s : State) : Out :=
  let s := s.setTile c { s.tile c with dutyHit := false }
  if s.pwr.emerg then .next s else .next (s.each (List.range 16) fun s b =>
    if (s.bank c b).paused then s.setBank c b { s.bank c b with paused := false } else s)

/-- DUTY_LIMIT_REACHED: busy units pause at their next safe points; a limit of 16 is none (R269, R300). -/
def execDutyLimitReached (c : CoreId) (s : State) : Out :=
  if (s.tile c).dl < 16 then .next (s.setTile c { s.tile c with dutyHit := true }) else .next s

/-- HBM_CHANNEL_REQUEST: the controller serves a fill of the line of an address, or the reductions forwarded for it
(R239, R260, R261); none while the channel is retrained or an emergency furl holds every request (R469, R495). A write-back
is stored in the order its eviction sent it, with the eviction. -/
def execHbmChannelRequest (a : Nat) (op : ChanOp) (s : State) : Out :=
  if place a ≠ .hbm || (s.chan (chanUnit a)).training || s.pwr.emerg then .next s
  else
    match op with
    | .fill => .next (s.fillReturn (a / 1024))
    | .writeBack => .next s
    | .reduce => .next (s.forwardAck (a / 1024))

/-- HBM_PARITY_ERROR: the command or transfer is retried; the 65th retry in one window of 1 ms begins a retraining (R258,
R495). DEDUCED: log entry 31. -/
def execHbmParityError (ch : ChanId) (win : Nat) (s : State) : Out :=
  let k := s.chan ch
  let n := if k.win = win then k.retries + 1 else 1
  let s := s.setChan ch { k with win := win, retries := n, training := k.training || (n = 65 && !k.lost) }
  if n = 65 && !k.lost && !k.training then
    .next ((s.faultTick (.hbmChannel ⟨ch.val / 64, by omega⟩)).raiseSrc 260)
  else .next s

/-- HBM_CHANNEL_RETRAIN: a retraining ends; one that fails, or a second within 10 s, loses the channel (R495). -/
def execHbmChannelRetrain (ch : ChanId) (ok within10s : Bool) (s : State) : Out :=
  let k := s.chan ch
  if !k.training then .next s
  else if ok && !within10s then .next (s.setChan ch { k with training := false, retries := 0 })
  else
    let s := (s.setChan ch { k with training := false, retries := 0, lost := true }).recordFail 5 ch
    .next (((s.bumpGen).faultTick (.hbmChannel ⟨ch.val / 64, by omega⟩)).raiseSrc 260)

/-- ROW_CLOSE: 64 cycles after its last access (R253). -/
def execRowClose (c : CoreId) (b : BankId) (s : State) : Out :=
  let t := s.tile c
  .next (s.setTile c { t with openRow := tset none t.openRow b none })

/-! ### Row repair (R489) -/

/-- First address of a row of a bank (R254). -/
def rowAddr (c b row : Nat) : Nat := bankAddr c b (2048 * row)

/-- Whether the tile's log calls for the repair of a row (R489). -/
def Tile.wantsRepair (t : Tile) (a : Nat) : Bool :=
  let es := t.log.filter fun e => e.addr / 2048 = a / 2048
  2 ≤ es.length || es.any fun e => 4 ≤ e.count

/-- Whether the rig that holds a tile lets a repair run: no class A or B command in its plan, or no rig (R489). -/
def State.repairFree (s : State) (c : Nat) : Bool :=
  match s.rigOfCore c with
  | none => true
  | some r => !((s.rig r).plan.any fun m => m.r.contract) && !((s.rig r).running.any fun m => m.r.contract)

/-- A bad row of a tile enters the record under its position (R492). -/
def State.recordRow (s : State) (c b row : Nat) : State :=
  match s.posOf c with
  | some p => s.recordFail 1 (65536 * p + 4096 * b + row)
  | none => s

/-- Copy a row, corrected, into a spare row and remap it. -/
def State.repairRow (s : State) (c b row : Nat) : State :=
  let a := rowAddr c b row
  let ws := (List.range 32).map fun i => a + 64 * i
  let (s, _) := s.meetDram ws
  let s := s.each ws fun s w => match s.mark w with | .ce _ => s.setMark w .none | _ => s
  let t := s.tile c
  let s := s.setTile c { t with
    spare := tset 0 t.spare b (tget 0 t.spare b + 1)
    log := t.log.filter fun e => e.addr / 2048 ≠ a / 2048
    openRow := tset none t.openRow b none }
  let fix (e : Nat × CeEnt) : Nat × CeEnt :=
    if e.2.kind = 1 && e.2.unit = c && e.2.addr / 2048 = a / 2048 then (e.1, { e.2 with repaired := true }) else e
  ({ s with ras := { s.ras with table := s.ras.table.map fix } } : State).recordRow c b row

/-- A row due for repair: performed, or, with every spare row of the bank in use, the spares source raised (R489). -/
def State.tryRepair (s : State) (c b row : Nat) : State :=
  if !(s.tile c).wantsRepair (rowAddr c b row) then s
  else if 64 ≤ tget 0 (s.tile c).spare b then s.raiseSrc 258
  else s.repairRow c b row

/-- ROW_REPAIR (R489). -/
def execRowRepair (c : CoreId) (b : BankId) (row : Nat) (s : State) : Out :=
  if row < 4096 && s.repairFree c then .next (s.tryRepair c b row) else .next s

end Sys2Proof.Machine
end

