-- ==== Sys2Proof/Machine/Boot.lean ====
section
/-! DEFINITION. Power-on, device reset and start-up (R426, R501 to R517, R523). -/

namespace Sys2Proof.Machine

/-! ### What outlives a loss of power, and a device reset -/

/-- A yard's stored telltale samples and margin plan (R500, R512, R514). DEDUCED: log entry 49. -/
def Yard.stored (k : Yard) : Yard :=
  { base := k.base, samples := k.samples, levels := k.levels, off := k.off, ceil := k.ceil, retired := k.retired }

/-- What a device reset keeps of a yard besides: failed cells, suspect marks and supplies that stay off last until power-on (R429, R433,
R463). -/
def Yard.kept (k : Yard) : Yard := { k.stored with cells := k.cells, susp := k.susp, tsusp := k.tsusp, dark := k.dark }

/-- A tile's failed wires (R249) and spare rows, from the failure record (R509); its log lasts until power-on (R482). -/
def Tile.stored (log : Bool) (t : Tile) : Tile :=
  { half := t.half, wireBad := t.wireBad, spare := t.spare, log := if log then t.log else [] }

/-- What outlives a loss of power of a position; with `log`, what only a power-on clears. -/
def Parked.stored (log : Bool) (x : Parked) : Parked :=
  { tile := x.tile.stored log, log := if log then x.log else [], retired := log && x.retired }

/-- A channel's log (R482); a lost channel is so from the record alone (R495, R509). -/
def Hbm.stored (log : Bool) (h : Hbm) : Hbm := { log := if log then h.log else [] }

/-- Apply f to every entry of a table. -/
def tmap {α : Type} [DecidableEq α] (d : α) (f : α → α) (t : Tab α) : Tab α :=
  (t.map fun e => (e.1, f e.2)).filter fun e => e.2 ≠ d

/-- The non-volatile part of security (R520 to R523, R531). -/
def Sec.stored (k : Sec) : Sec :=
  { slotA := k.slotA, slotB := k.slotB, next := k.next, run := k.run, fuse := k.fuse, commit := k.commit, pins := k.pins }

/-- The yards of the logical cores that the model holds a part of. -/
def State.heldYards (s : State) : List Nat := (s.tiles.map fun e => yardOf e.1) ++ (s.cores.map fun e => yardOf e.1)

/-- Every halyard, tile and locker log goes back to its position. -/
def State.parkAll (s : State) : State := s.each (allYards.filter s.heldYards.contains) State.park

/-- The state with everything volatile at its reset value; `log` keeps what only a power-on clears. DESIGN CHOICE: log entry 8.
DEDUCED: log entry 49. -/
def State.volatileReset (s : State) (log : Bool) : State :=
  let s := s.parkAll
  { parked := tmap {} (Parked.stored log) s.parked
    hbm := tmap {} (Hbm.stored log) s.hbm
    yards := tmap {} (if log then Yard.kept else Yard.stored) s.yards
    net := {
      links := tmap {} (fun w => ({ bad := w.bad } : Wires)) s.net.links, half := s.net.half
      stays := tmap {} (fun w => ({ bad := w.bad } : Wires)) s.net.stays, out := s.net.out, dead := s.net.dead }
    therm := {
      small := s.therm.smallKept, large := s.therm.largeKept, smallKept := s.therm.smallKept, largeKept := s.therm.largeKept
      tripped := s.therm.tripped }
    failures := s.failures
    fuses := s.fuses
    sec := s.sec.stored
    boot := { force := s.boot.force, saved := s.boot.saved }
    hostMem := s.hostMem, free := s.free, pending := s.pending }

/-- The rails of some kinds stay up. -/
def Pwr.only (p : Pwr) (ks : List Rail) : List RailUp := p.rails.filter fun x => ks.contains x.rail

/-- Every rail but VSTBY goes off, and the module stays off until power-on (R466, R494). -/
def State.railsOff (s : State) : State :=
  let t := s.volatileReset false
  { t with
    pwr := {
      feedA := s.pwr.feedA, feedB := s.pwr.feedB, alost := s.pwr.alost, blost := s.pwr.blost, air := s.pwr.air, off := true
      rails := s.pwr.only [.vstby] }
    boot := { t.boot with ph := 0, step := 0 }
    nest := { sheet := .dead, standby := false } }

/-- Power-on with one feed good (R501): start-up begins at step 1. -/
def State.powerOn (s : State) (feedB air : Bool) : State :=
  let t := s.volatileReset false
  { t with pwr := { feedA := !feedB, feedB := feedB, air := air }, boot := { t.boot with perst := s.boot.perst } }

/-- POWER_ON: the first feed becomes good after both were lost; the AIRCAP strap is read (R473, R501). The feed is A.
DEDUCED: log entry 50. -/
def execPowerOn (air : Bool) (s : State) : Out := .next (if s.pwr.feedA || s.pwr.feedB then s else s.powerOn false air)

/-- A device reset (R503): start-up again from step 3, or from the step before it that has not ended. -/
def State.devReset (s : State) : State :=
  let t := s.volatileReset true
  { t with
    pwr := { feedA := s.pwr.feedA, feedB := s.pwr.feedB, conv := s.pwr.conv, air := s.pwr.air
             paths := tmap {} (fun k => ({ ratio := k.ratio, st := k.st } : Path)) s.pwr.paths
             rails := s.pwr.only [.vstby, .link, .step] }
    boot := { t.boot with step := if s.boot.ph = 1 && s.boot.step < 3 then s.boot.step else 3, perst := false }
    nest := { sheet := s.nest.sheet, standby := s.nest.standby, latched := s.nest.latched } }

/-- DEVICE_RESET. -/
def execDeviceReset (s : State) : Out := .next (if s.boot.ph = 0 then s else s.devReset)

/-- PERST_RELEASE (R502): start-up goes on, and its time counts from here. -/
def execPerstRelease (s : State) : Out := .next { s with boot := { s.boot with perst := false, stime := 0 } }

/-- LINK_TRAINING_END (R351, R353, R507): from the end of step 1 on. -/
def execLinkTrainingEnd (cxl : Bool) (s : State) : Out :=
  .next (if s.boot.ph = 0 || (s.boot.ph = 1 && s.boot.step < 2) then s
    else { s with boot := { s.boot with link := true, pcie := !cxl } })

/-! ### Start-up steps (Table 19-1) -/

/-- Start-up ends in FAILED (R515). -/
def State.startFailed (s : State) (cause : BitVec 8) : State := { s with boot := { s.boot with ph := 6, cause := cause } }

/-- The sheet controller runs its firmware: raises latched before are set pending (R553). -/
def State.sheetRuns (s : State) : State :=
  let l := s.nest.latched
  l.foldl (fun s n => s.raiseSrc n) { s with nest := { s.nest with sheet := .running, latched := [] } }

/-- Step 2: the slot the ROM boots (R520). -/
def Sec.boots (k : Sec) : Bool := if k.slotOk k.next || !k.slotOk (!k.next) then k.next else !k.next

/-- The rails of a step, in the order in which they come up: rail by rail, on each the masts in turn (R431, Table 19-1). With three
converters failed only the memory domains of step 4 come up (R429). -/
def State.stepRails (s : State) (step : Nat) : List (Rail × Nat) :=
  let on (r : Rail) : List (Rail × Nat) := (List.range 4).map fun m => (r, m)
  if step = 1 then (Rail.vstby, 0) :: (on .link ++ on .step)
  else if step = 4 then (if s.pwr.converters ≤ 1 then on .mem else on .mem ++ on .hbm ++ on .vin ++ on .yard)
  else []

/-- A rail is within 3 % of its setpoint (R431). -/
def RailUp.settled (x : RailUp) : Bool := 970 ≤ x.volts && x.volts ≤ 1030

/-- Rails come up one after another while the one before has settled (R431). -/
def bringUp : List (Rail × Nat) → List Nat → List RailUp
  | r :: rs, v :: vs => let x : RailUp := ⟨r.1, r.2, v⟩; x :: (if x.settled then bringUp rs vs else [])
  | _, _ => []

/-- The rails of a step come up; answers whether all have settled. -/
def State.railStep (s : State) (step : Nat) (volts : List Nat) : State × Bool :=
  let todo := s.stepRails step
  let up := bringUp todo volts
  ({ s with pwr := { s.pwr with rails := s.pwr.rails ++ up } }, up.length == todo.length && up.all RailUp.settled)

/-- Step 3: the key unit derives the identity pairs (R525); the record and the fuses say which rows are replaced (R256, R488), which
channels are lost, and which LLC ways: the slice's spare stands for the first of them, the others are lost (R493). DEDUCED: log entry
70. DEDUCED: log entry 87. -/
def State.bootFuses (s : State) : State :=
  let secret := (majority (s.fuses.map (·.secret))).getD 0
  let pair (k : Nat) : KeyPair := ⟨(Config.identityPair k secret).1, (Config.identityPair k secret).2⟩
  let s : State := { s with sec := { s.sec with rsa := pair 0, slh := pair 1 } }
  let s : State := { s with parked := tmap {} (fun x => ({ x with tile := { x.tile with spare := [] } } : Parked)) s.parked }
  let s := s.each (s.listedBad 1).dedup fun s i =>
    let pos := i / 65536
    let b := i % 65536 / 4096
    let x := tget {} s.parked pos
    { s with parked := tset {} s.parked pos { x with tile := { x.tile with spare := tset 0 x.tile.spare b (tget 0 x.tile.spare b + 1) } } }
  let s := s.each (s.listedBad 5) fun s ch => if ch < 256 then s.setChan ch { s.chan ch with lost := true } else s
  s.each (s.listedBad 4) fun s i => s.loseWay (i / 17) (i % 17)

/-- A unit trained in full removes from the record what passed its retest, unless fused (R511). -/
def State.retested (s : State) (kind per : Nat) (e : StepEnd) : State :=
  { s with failures := s.failures.filter fun x =>
      !(x.1 == kind && e.passed.contains x.2 && e.full.contains (x.2 / per) && !(s.fusedBad kind).contains x.2) }

/-- The calibration of the halyard of a position (R249 to R251, R511): its failed wires, its width, and whether it works. Trained in full,
it keeps only those the record or the fuses list. -/
def State.calibrate (s : State) (e : StepEnd) (pos : Nat) : State :=
  let x := tget {} s.parked pos
  let listed := ((s.listedBad 2).filter fun i => i / 544 = pos).map (· % 544)
  let kept := if e.full.contains pos then [] else x.tile.wireBad
  let t := { x.tile with wireBad := listed.foldl (fun w i => tset false w i true) kept }
  let half := !(t.dirFull 0 && t.dirFull 1)
  let s : State := { s with parked := tset {} s.parked pos { x with tile := { t with half := half } } }
  let s := if half && e.bad.any (fun i => i / 544 = pos) then s.raiseSrc 14 else s
  if t.dirUp 0 && t.dirUp 1 then s
  else
    let y := pos / 18
    (s.setYard y { s.yard y with bad := (s.yard y).bad ||| BitVec.twoPow 18 (pos % 18) }).recordFail 0 pos

/-- Step 5: wires that pass a retest leave the record, those that fail training enter it, and each halyard concerned takes its width
(R511). -/
def State.bootHalyards (s : State) (e : StepEnd) : State :=
  let s := s.retested 2 544 e
  let s := s.each (e.bad.filter (· < 544 * 4608)) fun s i => s.recordFail 2 i
  let touched := (e.full ++ e.bad.map (· / 544) ++ (s.listedBad 2).map (· / 544)).filter (· < 4608)
  s.each touched.dedup fun s pos => s.calibrate e pos

/-- Step 6: at most 16 post-package repairs, of the rows first recorded (R489, R505); a channel that fails training is lost (R495, R511).
DEDUCED: log entry 87. -/
def State.bootHbm (s : State) (e : StepEnd) : State :=
  let rows := (s.failures.filter fun x => x.1 = 6).take 16
  let s : State := { s with failures := s.failures.filter fun x => !rows.contains x }
  s.each (e.bad.filter (· < 256)) fun s ch => (((s.setChan ch { s.chan ch with lost := true }).recordFail 5 ch).bumpGen).raiseSrc 260

/-- The lanes of a direction of a stay that its record and fuses list. -/
def State.stayBad (s : State) (key : Nat) : List Nat := ((s.listedBad 3).filter fun i => i / 272 = key).map (· % 272)

/-- Step 7 for one stay: its lanes, and the groups with two failed lanes in a direction (R491, R511). -/
def State.trainStay (s : State) (e : StepEnd) (st : Nat) : State :=
  let dir (k : Nat) : Wires :=
    let old := if e.full.contains st then [] else (tget {} s.net.stays k).bad
    { bad := old ++ (s.stayBad k).filter fun i => !old.contains i }
  let a := dir (2 * st)
  let b := dir (2 * st + 1)
  let gone (w : Wires) (g : Nat) : Bool := 2 ≤ (w.bad.filter fun x => stayGroup x = g).length
  let out := BitVec.ofNat 16 (maskOf 16 fun g => gone a g || gone b g)
  let s : State := { s with net := { s.net with
    stays := tset {} (tset {} s.net.stays (2 * st) a) (2 * st + 1) b, out := tset 0 s.net.out st out } }
  if e.bad.any (fun i => i / 544 = st) then s.raiseSrc (776 + st) else s

/-- Step 7 (R506, R511): the stays train, and the ports learn whether a peer is present. -/
def State.bootStays (s : State) (e : StepEnd) : State :=
  let s := s.retested 3 544 e
  let s := s.each (e.bad.filter (· < 2176)) fun s i => s.recordFail 3 i
  let s := s.each (List.range 4) fun s st => s.trainStay e st
  s.each (List.range 6) fun s p => s.setPort p { s.port p with present := e.present.getLsbD p }

/-- Step 8 (R512, R513): tests, memory cleared, mappings, yards furled in the off form. DESIGN CHOICE: log entry 4. -/
def State.step8 (s : State) (failed : List Nat) : State :=
  let s := s.each (failed ++ s.listedBad 0) fun s i =>
    if i < 18 * 256 then s.setYard (i / 18) { s.yard (i / 18) with bad := (s.yard (i / 18)).bad ||| BitVec.twoPow 18 (i % 18) } else s
  let s := s.each allYards State.mapYard
  let s := s.each allYards fun s y => s.furlOff y 9
  { s with mem := [], errs := [], gran := [], banks := [] }

/-- What the end of each step leaves. -/
def State.endStep (s : State) (e : StepEnd) : State :=
  match s.boot.step with
  | 2 => ({ s with sec := { s.sec with run := s.sec.boots } } : State).sheetRuns
  | 3 => s.bootFuses
  | 5 => s.bootHalyards e
  | 6 => s.bootHbm e
  | 7 => s.bootStays e
  | 8 => s.step8 e.failed
  | _ => s

/-- The CAUSE with which a step ends: what the device itself finds (a rail off its setpoint, no image that verifies, fuses without a
majority), or what the step met (R508, R520, Table 19-5). -/
def State.stepCause (s : State) (e : StepEnd) (rails : Bool) : BitVec 8 :=
  if e.cause ≠ 0 then e.cause else if !rails then 3
  else if s.boot.step = 2 && !s.sec.slotOk false && !s.sec.slotOk true then 1 else if s.boot.step = 3 && s.fusesBad then 2 else 0

/-- The CAUSE that what a step leaves gives: every channel of a stack lost, or both stays of a mast down (Table 19-5). -/
def State.leftCause (s : State) (step : Nat) : BitVec 8 :=
  if step = 6 && (List.range 8).any fun h => (List.range 32).all fun c => (s.chan (32 * h + c)).lost then 6
  else if step = 7 && (List.range 4).any fun m => ((List.range 4).filter fun st => (stayMasts st).contains m).all s.stayDown then 4
  else 0

/-- STARTUP_STEP_END (R504, R505, R508, R511, R517, R525): the step took some ms, and some units were trained in full. Step 9 ends with
READY. A pause past 5.5 s ends start-up (Table 19-8). -/
def execStartupStepEnd (e : StepEnd) (s : State) : Out :=
  let b := s.boot
  if b.ph ≠ 1 || b.perst || (b.paused && e.cause ≠ 7) then .next s
  else
    let s : State := { s with boot := { b with stime := satTo 0xFFFF (b.stime + e.ms), nfull := satTo 0xFFFF (b.nfull + e.full.length) } }
    let (s, rails) := s.railStep b.step e.volts
    let cause := s.stepCause e rails
    if cause ≠ 0 then .next (s.startFailed cause)
    else
      let s := s.endStep e
      let left := s.leftCause b.step
      .next (if left ≠ 0 then s.startFailed left else { s with boot := { s.boot with step := min 9 (b.step + 1) } })

/-- STARTUP_PAUSE (Table 19-8). -/
def execStartupPause (begins : Bool) (s : State) : Out :=
  .next (if s.boot.ph = 1 then { s with boot := { s.boot with paused := begins } } else s)

/-! ### Ready (R514) -/

/-- Sources the sheet controller unmasks before ready (Table 21-2). -/
def bootUnmasked (n : Nat) : Bool := listedSource n && !(128 ≤ n && n ≤ 191) && !(512 ≤ n && n ≤ 767)

/-- Unmask sources: each that becomes deliverable has a message due (R541). -/
def State.unmask (s : State) (ns : List Nat) : State :=
  s.each ns fun s n =>
    if s.evt.mask.getLsbD n then
      ({ s with evt := { s.evt with mask := s.evt.mask &&& ~~~(BitVec.twoPow 2048 n) } } : State).noteDue n
    else s

/-- NEST_SEL's offset. -/
def nestSel : Nat := 0x063900

/-- A fuse raise that waited for this start-up (R523). -/
def Sec.raiseFuse (k : Sec) : Sec :=
  if k.commit && k.run = k.next then
    { k with commit := false, fuse := max k.fuse (match k.slot k.run with | some i => imageSvn i | none => 0) }
  else k

/-- READY (R514): key, margin plan, floors, boot values, availability map; then the fuse counter, and STATE is READY.
DESIGN CHOICE: log entry 9. -/
def execReady (s : State) : Out :=
  let b := s.boot
  if b.ph ≠ 1 || b.step ≠ 9 || b.perst || b.paused then .next s
  else
    let air := s.pwr.air
    let s : State := { s with
      llc := { s.llc with key := Config.drawnKey s.free }
      free := s.free + 1
      pwr := { s.pwr with cap := if air then 1100 else 3400, floor := if air then 1000 else 2400 }
      sec := s.sec.raiseFuse }
    let s := ((s.marginPlan true allYards).putAllFloors).unmask ((List.range 2048).filter bootUnmasked)
    let s := (s.setReg nestSel 0x8008800380018000).setReg (nestSel + 8) 0x8100800B800A8009
    let s := s.bumpGen
    .next { s with boot := { s.boot with ph := 5, cause := 0, fast := s.boot.nfull = 0, force := false, saved := true } }

/-- FORCE: the next start-up discards every saved setting (Table 19-5). -/
def State.forceWrite (s : State) : State := { s with boot := { s.boot with force := true } }

/-- FORCE. -/
def execForce (s : State) : Out := .next (if s.bar0On 0x000020 then s.forceWrite else s)

end Sys2Proof.Machine
end

