-- ==== Sys2Proof/Machine/Delivery.lean ====
section
/-! DEFINITION. Energy accounting (R420, R421), the rigs' power shares (R349, R410), feeds and converters (R422 to R429),
regulator cells (R433 to R436), vertical paths (R437 to R440), and powering yards on (R442 to R444). -/

namespace Sys2Proof.Machine

/-! ### Energy -/

/-- Add a part of a µJ count to a counter of whole µJ and its remainder. -/
def addPart (cnt : Tab (BitVec 64)) (rem : Tab Rat) (i : Nat) (q : Rat) : Tab (BitVec 64) × Tab Rat :=
  let t : Rat := tget (0 : Rat) rem i + q
  (tset 0 cnt i (tget 0 cnt i + BitVec.ofNat 64 t.floor.toNat), tset 0 rem i (t - (t.floor : Rat)))

/-- Energy of a rig: its counter, and the counter of the stream bound to it whose command it runs (R421). DEDUCED: log entry 67. -/
def State.addEnergy (s : State) (r : Nat) (q : Rat) : State :=
  let (c, m) := addPart s.energyRig s.pwr.attr r q
  let s : State := { s with energyRig := c, pwr := { s.pwr with attr := m } }
  match (s.rig r).running with
  | none => s
  | some x =>
    if regStrm ≤ x.r.strm || s.strmRig x.r.strm ≠ r then s
    else
      let (c, m) := addPart s.energyStrm s.pwr.attrS x.r.strm q
      { s with energyStrm := c, pwr := { s.pwr with attrS := m } }

/-- Energy divided in proportion to shares: to the rigs that hold resources, each its part; the part of no rig, and of a rig that is not
bound, is added to no counter (R420). -/
def State.share (s : State) (uj : Nat) (act : List (Option Nat × Nat)) : State :=
  let total : Nat := (act.map (·.2)).foldl (· + ·) 0
  if total = 0 then s
  else
    act.foldl (fun s e =>
      match e.1 with
      | some r => if (s.rig r).st = 0 then s else s.addEnergy r ((uj * e.2 : Nat) / (total : Rat))
      | none => s) s

/-- Energy of a memory, step, link or HBM domain, in proportion to requests served (R420). DEDUCED: log entry 67. -/
def State.attribute (s : State) (d : DomainEnergy) : State :=
  s.share d.uj (d.act.map (fun e => (some e.1.val, e.2)) ++ [(none, d.other)])

/-- Energy of a yard domain, in proportion to the activity of its cores, each for the rig that holds it (R420). DEDUCED: log entry 67. -/
def State.attributeYard (s : State) (d : YardEnergy) : State :=
  s.share d.uj (((d.act.filter fun e => yardOf e.1 = d.yard.val).map fun e => (s.rigOfCore e.1, e.2)) ++ [(none, d.idle)])

/-- ENERGY_ATTRIBUTION (R420). -/
def execEnergyAttribution (yards : List YardEnergy) (others : List DomainEnergy) (s : State) : Out :=
  .next (others.foldl State.attribute (yards.foldl State.attributeYard s))

/-- BAR0 offset of RIG_PWR_SHARE. -/
def shareOff (r : Nat) : Nat := 0x020098 + 0x100 * r

/-- RIG_PWR_SHARE_WRITE (R349, R410). -/
def execRigPwrShareWrite (r : RigId) (w : BitVec 64) (s : State) : Out :=
  .next (if s.bar0On (shareOff r) then s.writeShare r (bits w.toNat 9 0) else s)

/-! ### Feeds and converters -/

/-- FEED_LOST (R423, R424): b names feed B. -/
def execFeedLost (b : Bool) (s : State) : Out :=
  let p := s.pwr
  if !(if b then p.feedB else p.feedA) then .next s
  else
    let p := if b then { p with feedB := false, blost := true } else { p with feedA := false, alost := true }
    .next (({ s with pwr := p } : State).raiseSrc 0)

/-- FEED_GOOD (R423): with both feeds lost before, this is power-on (R426, R501). DEDUCED: log entry 50. -/
def execFeedGood (b : Bool) (s : State) : Out :=
  let p := s.pwr
  if (if b then p.feedB else p.feedA) then .next s
  else if !p.feedA && !p.feedB then .next (s.powerOn b p.air)
  else .next (({ s with pwr := if b then { p with feedB := true } else { p with feedA := true } } : State).raiseSrc 0)

/-- BOTH_FEEDS_LOST (R426): every stage turns off. -/
def execBothFeedsLost (s : State) : Out :=
  .next (if s.pwr.feedA || s.pwr.feedB then s else { s.railsOff with pwr := { s.railsOff.pwr with rails := [] } })

/-- Both supplies of a yard go off, until power-on: the cores are marked down, none of its positions works, and lockers, L1 contents and
architectural state are lost (R24, R432). DEDUCED: log entry 88. -/
def State.darken (s : State) (record : Bool) (y : Nat) : State :=
  let s := s.markYard record y
  let mine (a : Nat) : Bool := match place a with | .locker n _ => yardOf n = y | _ => false
  let s : State := { s with mem := tclear mine s.mem, errs := tclear mine s.errs }
  let s := s.each ((s.cores.map (·.1)).filter fun c => yardOf c = y) fun s c =>
    let k := s.core c
    s.setCore c { down := k.down, phase := k.phase, stop := k.stop, log := k.log, retired := k.retired, free := k.free }
  (s.setYard y { s.yard y with bad := BitVec.allOnes 18, dark := true }).furlOff y 6

/-- CONVERTER_FAILED (R427 to R429): at the third failure every yard loses both supplies, and of the domains only the memory, step and
link ones stay on, with the crow's nest's own. DEDUCED: log entry 88. -/
def execConverterFailed (k : Fin 4) (s : State) : Out :=
  if !s.pwr.conv.getLsbD k then .next s
  else
    let s := ({ s with pwr := { s.pwr with conv := s.pwr.conv &&& ~~~(BitVec.twoPow 4 k.val), clost := true } } : State).raiseSrc 1
    if s.pwr.converters ≠ 1 then .next s
    else
      let s := s.each allYards fun s y => s.darken false y
      .next { s with pwr := { s.pwr with rails := s.pwr.only [.vstby, .mem, .step, .link] } }

/-! ### Yard regulators -/

/-- REGULATOR_CELL_FAILED (R433, R435). -/
def execRegulatorCellFailed (y : YardId) (s : State) : Out :=
  let k := s.yard y
  if 8 ≤ k.cells then .next s
  else
    let s := s.setYard y { k with cells := k.cells + 1 }
    let s := (({ s with pwr := { s.pwr with chg := true } } : State).bumpGen).yardEvent y 2
    .next (if k.cells + 1 = 3 then s.darken true y else if k.cells + 1 < 3 then s.keepTop y 6 else s)

/-! ### Vertical paths -/

/-- The state a ratio gives (Table 16-7), in units of 1/256. -/
def ratioState (q : Rat) : Nat := if q ≤ 3328 / 10 then 0 else if q ≤ 4352 / 10 then 1 else 2

/-- The yards whose tiles a VDD_MEM path feeds (Table 16-6). -/
def memYards (p : Nat) : List Nat :=
  let i := p - 256
  (List.range 4).map fun j => 64 * (i / 16) + 16 * (i % 16 / 4) + 4 * (i % 4) + j

/-- The mast of a VDD_STEP, VDD_LINK or HBM4 path (Table 16-6). -/
def pathMast (p : Nat) : Nat := if p < 336 then (p - 320) / 4 else if p < 344 then (p - 336) / 2 else (p - 344) / 2

/-- A raised VDD_MEM path lowers the duty limit of its tiles, never below their floor DL (Table 16-6). -/
def State.lowerDuty (s : State) (ratio : Rat) (y : Nat) : State :=
  s.each ((List.range 16).map (· + 16 * y)) fun s c =>
    let t := s.tile c
    let d := max (s.floorDl c) (4096 / ratio).floor.toNat
    if d < t.dl then s.setTile c { t with dl := d } else s

/-- What a path's new state does to its load (Tables 16-6 and 16-8). -/
def State.pathEffect (s : State) (p : Nat) (st : BitVec 2) (ratio : Rat) : State :=
  if p < 256 then
    let s := s.yardEvent p 2
    if st = 2 then s.darken true p else s.keepTop p 6
  else
    let s := s.raiseSrc 2
    if p < 320 then
      s.each (memYards p) fun s y =>
        if st = 2 then
          let s := s.markYard false y
          s.setYard y { s.yard y with bad := BitVec.allOnes 18 }
        else s.lowerDuty ratio y
    else if st = 2 then s.markMast (pathMast p)
    else s

/-- PATH_RATIO_WINDOW_END (R438, R439): the used samples of the window, as ratios to the baseline in 1/256. During
start-up the path takes the state its ratio gives. -/
def execPathRatioWindowEnd (p : PathId) (samples : List Nat) (s : State) : Out :=
  let k := s.path p
  let ratio := if samples = [] then k.ratio else median (samples.map fun (n : Nat) => Int.ofNat n)
  let c := ratioState ratio
  let k' := { k with ratio := ratio, c1 := k.c2, c2 := BitVec.ofNat 2 c }
  let st : BitVec 2 := BitVec.ofNat 2 (max k.st.toNat (if s.boot.ph = 1 then c else min c (min k.c1.toNat k.c2.toNat)))
  let s := s.setPath p { k' with st := st }
  if st = k.st then .next s
  else .next (({ s with pwr := { s.pwr with chg := true } } : State).pathEffect p st ratio)

/-! ### Powering a yard on (R443) -/

/-- YARD_POWER_ON_REQUEST: the yard waits under step 1, and goes on to step 2 when nothing holds it. -/
def execYardPowerOnRequest (y : YardId) (s : State) : Out :=
  if !s.mayPowerOn y then .next s
  else
    let s := s.setYard y { s.yard y with ramp := .wait }
    .next ({ s with pwr := { s.pwr with waits := s.pwr.waits ++ [y.val] } } : State).settleWaits

/-- A ramp starts, at the normal slope or a quarter of it. -/
def State.startRamp (s : State) (y : Nat) (quarter : Bool) : State :=
  let s := s.setYard y { s.yard y with ramp := .ramping, quarter := quarter }
  { s with pwr := { s.pwr with waits := s.pwr.waits.filter (· ≠ y) } }

/-- A yard stands at the end of step 2 and its mast has room for a ramp. -/
def State.mayRamp (s : State) (y : Nat) : Bool := (s.yard y).ramp = .ready && decide (s.ramping (yardMast y) < 4)

/-- NEIGHBOUR_WAIT_EXPIRY: 50 µs passed with a neighbour still near its limit: a quarter slope. -/
def execNeighbourWaitExpiry (y : YardId) (s : State) : Out :=
  .next (if s.mayRamp y && (neighbours y).any s.nearLimit then s.startRamp y true else s)

/-- YARD_RAMP_START: no neighbour is near its limit: the normal slope. -/
def execYardRampStart (y : YardId) (s : State) : Out :=
  .next (if s.mayRamp y && !(neighbours y).any s.nearLimit then s.startRamp y false else s)

/-- YARD_RAMP_END: the cores leave the furl. -/
def execYardRampEnd (y : YardId) (s : State) : Out :=
  .next (if (s.yard y).ramp = .ramping then (s.wake y).settleWaits else s)

end Sys2Proof.Machine
end

