-- ==== Sys2Proof/Machine/Thermal.lean ====
section
/-! DEFINITION. Temperatures and coolant (R461 to R473): samples, the model's estimates, Table 17-4, flow, emergency furl,
trips, thermal cycles, and the sensors reported over PLDM (R471). -/

namespace Sys2Proof.Machine

/-- The sheet controller's control tasks run: ready, and its firmware is not in a takeover (R494). -/
def State.governs (s : State) : Bool := s.boot.ph = 5 && (s.nest.sheet = .running || s.nest.sheet = .waiting)

/-- The highest of some numbers. -/
def maxOf (xs : List Nat) : Nat := xs.foldl max 0

/-! ### PLDM sensors (Table 17-7) -/

/-- The state of a sensor, 0 normal, 1 warning, 2 critical; a change sends an event. DESIGN CHOICE: log entry 45. -/
def State.pldmSet (s : State) (id st : Nat) : State :=
  if tget 0 s.therm.pldm id = st then s
  else { s with therm := { s.therm with pldm := tset 0 s.therm.pldm id st, events := s.therm.events ++ [(id, st)] } }

/-- Warning and critical conditions as a state. -/
def warnState (warn crit : Bool) : Nat := if crit then 2 else if warn then 1 else 0

/-- Hottest trusted logic junction, in tenths of a degree. -/
def State.hottest (s : State) : Nat := maxOf (s.yards.map fun e => e.2.trusted)
/-- Hottest trusted tile group. -/
def State.hottestTile (s : State) : Nat := maxOf (s.yards.map fun e => e.2.tileTrusted)

/-- TJWARN. -/
def State.tjWarn (s : State) : Nat := bits (s.reg 0x040008).toNat 23 16
/-- TDWARN. -/
def State.tdWarn (s : State) : Nat := bits (s.reg 0x040008).toNat 15 8

/-- The temperature sensors. -/
def State.pldmTemps (s : State) : State :=
  let t := s.therm
  let j := s.hottest
  let d := s.hottestTile
  (((s.pldmSet 1 (warnState (400 < t.tin) (550 ≤ t.tin))).pldmSet 2 (warnState (700 < t.tout) (800 < t.tout))).pldmSet 5
    (warnState (10 * s.tjWarn ≤ j) (1050 ≤ j))).pldmSet 6 (warnState (10 * s.tdWarn ≤ d) (950 ≤ d))

/-! ### Reefing by temperature -/

/-- Reef a yard by one level for temperature, below floor down to the off form, or not below floor. -/
def State.reefHot (s : State) (below : Bool) (y : Nat) : State :=
  let k := s.yard y
  let f := if below then 7 else min 6 (s.yardFloor y)
  if k.lvl < f || (below && k.lvl = 7 && k.held) then
    let s' := s.setLevel (yardId y) (min 7 (k.lvl + 1)) false 3
    if s'.isBelow y && !s.isBelow y then { s' with therm := { s'.therm with limit := true } } else s'
  else s

/-- The yard with the highest trusted temperature among some, the lowest index among equals. -/
def State.hottestOf (s : State) (ys : List Nat) : Option Nat :=
  ys.foldl (fun m y =>
    match m with
    | none => some y
    | some x => if (s.yard x).trusted < (s.yard y).trusted then some y else m) none

/-- The yard with the lowest trusted temperature among some, the lowest index among equals. -/
def State.coolestOf (s : State) (ys : List Nat) : Option Nat :=
  ys.foldl (fun m y =>
    match m with
    | none => some y
    | some x => if (s.yard y).trusted < (s.yard x).trusted then some y else m) none

/-- Yards of a mast. -/
def mastYards (m : Nat) : List Nat := (List.range 64).map (· + 64 * m)

/-- Lower a tile's duty limit by 2, not below a bound. DESIGN CHOICE: log entry 44. -/
def State.lowerDl (s : State) (below : Bool) (c : Nat) : State :=
  let t := s.tile c
  let d := max (if below then 1 else s.floorDl c) (t.dl - 2)
  if d < t.dl then s.setTile c { t with dl := d } else s

/-- The tiles beneath a yard lose duty (Table 17-4). -/
def State.coolTiles (s : State) (below : Bool) (y : Nat) : State :=
  let was := s.isBelow y
  let s := s.each ((List.range 16).map (· + 16 * y)) fun s c => s.lowerDl below c
  let s := if s.isBelow y && !was then { s with therm := { s.therm with limit := true } } else s
  s.noteBelow (yardId y) was

/-- The duty limit that a tile's share of power gives: the derivation of R451 with CAPEFF in the place of PWR_CAP_FLOOR, never below the
floor DL (R269, R270). DEDUCED: log entry 95. -/
def State.shareDl (s : State) (c : Nat) : Nat :=
  match s.rigOfCore c with
  | some r => max (s.floorDl c) (floors s.capEff.floor.toNat (s.rig r).pwr (s.rig r).nc).dl
  | none => 16

/-- The highest duty limit a tile may have: of its share of power, and of its raised VDD_MEM path, if any (R269, Table 16-6).
DEDUCED: log entry 95. -/
def State.dlTop (s : State) (c : Nat) : Nat :=
  let k := s.path (memPath (yardOf c))
  min (s.shareDl c) (if k.st = 1 then max (s.floorDl c) (4096 / k.ratio).floor.toNat else 16)

/-- The duty limits of the tiles of every rig follow their share of power, each 50 µs; a tile that Table 17-4 holds down is not raised
(R269). DEDUCED: log entry 95. -/
def State.setDuty (s : State) : State :=
  s.each (s.rigs.flatMap fun e => idxs 4096 fun c => e.2.cores.getLsbD c) fun s c =>
    let t := s.tile c
    let d := if (s.yard (yardOf c)).tileHot then min t.dl (s.dlTop c) else s.dlTop c
    if d = t.dl then s else s.setTile c { t with dl := d }

/-- Released tiles take their duty again. -/
def State.freeTiles (s : State) (y : Nat) : State :=
  let was := s.isBelow y
  (s.each ((List.range 16).map (· + 16 * y)) fun s c => s.setTile c { s.tile c with dl := s.dlTop c }).noteBelow (yardId y) was

/-- The step-die sensors or a stack of a mast hold its yards down. -/
def State.mastHot (s : State) (m : Nat) : Bool :=
  s.therm.stepHot.getLsbD m || s.therm.hbmHot.getLsbD (2 * m) || s.therm.hbmHot.getLsbD (2 * m + 1)

/-- The actions of Table 17-4, each 50 µs. DESIGN CHOICE: log entry 44. -/
def State.table174 (s : State) : State :=
  let ys := s.yards.map (·.1)
  let s := s.each ys fun s y =>
    let t := (s.yard y).trusted
    if 1050 ≤ t then s.reefHot true y else if 1030 ≤ t then s.reefHot false y else s
  let s := s.each ys fun s y =>
    let t := (s.yard y).tileTrusted
    if 950 ≤ t then (s.coolTiles true y).reefHot true y else if 930 ≤ t then s.coolTiles false y else s
  s.each (List.range 4) fun s m =>
    let hot := 1050 ≤ tget 0 s.therm.step m || 950 ≤ tget 0 s.therm.hbm (2 * m) || 950 ≤ tget 0 s.therm.hbm (2 * m + 1)
    match s.hottestOf ((mastYards m).filter fun y => (s.yard y).lvl < 7) with
    | some y => if hot then s.reefHot true y else s
    | none => s

/-- The releases of Table 17-4: a yard reefed for temperature rises by one level per 1 ms. -/
def State.raiseCooled (s : State) : State :=
  s.each (s.yards.map (·.1)) fun s y =>
    let k := s.yard y
    if k.cause = 3 && k.lvl < 7 && !k.hot && !k.tileHot && !s.mastHot (yardMast y) && s.yardTop y < k.lvl then
      s.setLevel (yardId y) (k.lvl - 1) false 3
    else s

/-! ### Thermal cycles (R472) -/

/-- One counter of cycles: the lowest since the last count, the highest since that low, and whether one is counted. -/
def cycleStep (swing t : Nat) (low : Option Nat) (high : Nat) : Option Nat × Nat × Nat :=
  match low with
  | none => (some t, t, 0)
  | some l =>
    let h := max high t
    if swing ≤ h - l && swing ≤ h - t then (some t, t, 1)
    else if t < l then (some t, t, 0)
    else (some l, h, 0)

/-- The counts of cycles go to the non-volatile store (R472). -/
def Therm.keep (k : Therm) : Therm := { k with smallKept := k.small, largeKept := k.large }

/-- Follow the hottest trusted junction; every minute, of 6,000,000 samples, the counts are kept. -/
def Therm.cycles (k : Therm) (t : Nat) : Therm :=
  let a := cycleStep 200 t k.lowS k.highS
  let b := cycleStep 500 t k.lowL k.highL
  let k := { k with lowS := a.1, highS := a.2.1, small := k.small + a.2.2, lowL := b.1, highL := b.2.1, large := k.large + b.2.2 }
  if k.n % 6000000 = 0 then k.keep else k

/-! ### Samples -/

/-- A yard's flags of Table 17-4, with their releases. -/
def Yard.flags (k : Yard) : Yard :=
  let t := k.trusted
  let d := k.tileTrusted
  { k with
    hot := if 1030 ≤ t then true else if t < 1010 then false else k.hot
    tileHot := if 930 ≤ d then true else if d < 910 then false else k.tileHot
    boost := if 950 ≤ t then 0 else k.boost }

/-- A flag that is set from one figure on and cleared below another. -/
def latch (now : Bool) (t set clear : Nat) : Bool := if set ≤ t then true else if t < clear then false else now

/-- The readings of one sample. -/
def State.readSensors (s : State) (x : Sensors) : State :=
  let s := x.yards.foldl (fun s e => s.setYard e.yard { s.yard e.yard with own := e.core, tileT := e.tile }) s
  let t := s.therm
  let step := x.step.foldl (fun t e => tset 0 t e.1.val e.2) t.step
  let hbm := x.hbm.foldl (fun t e => tset 0 t e.1.val e.2) t.hbm
  let s : State := { s with net := { s.net with temp := x.edge.foldl (fun t e => tset 0 t e.1.val e.2) s.net.temp } }
  { s with therm := { t with
      n := t.n + 1, tin := x.inlet, tout := x.outlet, step := step, hbm := hbm
      stepHot := BitVec.ofNat 4 (maskOf 4 fun m => latch (t.stepHot.getLsbD m) (tget 0 step m) 1050 1010)
      hbmHot := BitVec.ofNat 8 (maskOf 8 fun h => latch (t.hbmHot.getLsbD h) (tget 0 hbm h) 950 910) } }

/-- The yard warning, at most once per 1 ms, and the flags of a yard. -/
def State.watchYard (s : State) (y : Nat) : State :=
  let k := s.yard y
  let f := k.flags
  let s := s.setYard y f
  let s := if k.tileHot && !f.tileHot then s.freeTiles y else s
  let due := match k.warned with | some n => n + 100 ≤ s.therm.n | none => true
  if 10 * s.tjWarn ≤ k.trusted && due then
    (s.setYard y { s.yard y with warned := some s.therm.n }).yardEvent y 1
  else s

/-- SENSOR_SAMPLE (R461, R465): every fifth sample, of 10 µs each, Table 17-4 acts; every hundredth, it raises. -/
def execSensorSample (x : Sensors) (s : State) : Out :=
  let s := s.readSensors x
  if !s.governs then .next s
  else
    let s := s.each (s.yards.map (·.1)) State.watchYard
    let s := if s.therm.n % 5 = 0 && !s.pwr.emerg then s.table174 else s
    let s := if s.therm.n % 100 = 0 && !s.pwr.emerg then s.raiseCooled else s
    .next ({ s with therm := s.therm.cycles s.hottest } : State).pldmTemps

/-- Count a difference over 6 °C; three in a row make a suspect (R463). -/
def suspect (own model cnt : Nat) : Nat := if 60 < own - model || 60 < model - own then cnt + 1 else 0

/-- MODEL_EVALUATION (R462, R463). -/
def execModelEvaluation (est : List YardTemp) (s : State) : Out :=
  .next (est.foldl (fun s e =>
    let k := s.yard e.yard
    let d := suspect k.own e.core k.diff
    let td := suspect k.tileT e.tile k.tdiff
    let new := (3 ≤ d && !k.susp) || (3 ≤ td && !k.tsusp)
    let s := s.setYard e.yard { k with
      model := e.core, tileM := e.tile, hasModel := true, diff := d, tdiff := td
      susp := k.susp || 3 ≤ d, tsusp := k.tsusp || 3 ≤ td }
    if new then s.yardEvent e.yard 1 else s) s)

/-- THERMAL_TRIP (R466). -/
def execThermalTrip (s : State) : Out :=
  if s.boot.ph = 0 || (s.boot.ph = 1 && s.boot.step < 4) then .next s
  else
    let s := s.railsOff
    .next { s with therm := { s.therm with tripped := true } }

/-! ### Emergency furl (R469, R470) -/

/-- Busy bank units pause, or paused ones go on. DEDUCED: log entry 60. -/
def State.pauseBanks (s : State) (pause : Bool) : State :=
  s.each (s.banks.map (·.1)) fun s i =>
    let k := s.bank (i / 16) (i % 16)
    if pause then (if k.busy then s.setBank (i / 16) (i % 16) { k with paused := true } else s)
    else if k.paused && !(s.tile (i / 16)).dutyHit then s.setBank (i / 16) (i % 16) { k with paused := false }
    else s

/-- Emergency furl: every yard in the off form, bank units paused, HBM requests held. DEDUCED: log entry 60. -/
def State.emergency (s : State) : State :=
  let s := (s.each allYards fun s y => s.furlOff y 8).pauseBanks true
  ({ s with pwr := { s.pwr with emerg := true }, therm := s.therm.keep } : State).raiseSrc 3

/-- EMERG cleared (R470). -/
def State.emergClear (s : State) : State :=
  let t := s.therm
  if s.pwr.emerg && s.hottest < 850 && (s.pwr.air || 10 ≤ t.okFor) then
    ({ s with pwr := { s.pwr with emerg := false } } : State).pauseBanks false
  else s

/-- EMERG_CLEAR. -/
def execEmergClear (s : State) : Out := .next (if s.bar0On 0x030020 then s.emergClear else s)

/-! ### Coolant (R467, R468) -/

/-- A pulse of the flow meter (R574); ignored with MEN clear. DEDUCED: log entry 46. -/
def execFlowMeterPulse (s : State) : Out :=
  .next (if s.meterOn then { s with therm := { s.therm with pulses := s.therm.pulses + 1 } } else s)

/-- The flow a power and a temperature rise give, in hundredths of a L/min (R467): P in W, temperatures in tenths. -/
def inferFlow (p d : Nat) : Rat := ((60000 * p : Nat) : Rat) / ((3980 * d : Nat) : Rat)

/-- The flow in use, by meter and inference; whether they differ by more than 20 %. -/
def flowInUse (men : Bool) (inf meter : Rat) : Rat × Bool :=
  if !men then (inf, false)
  else
    let d := if inf < meter then meter - inf else inf - meter
    if max inf meter / 5 < d then (min inf meter, true) else (meter, false)

/-- The inlet rules of Table 17-6, which apply in air-cooled mode too (R581). -/
def State.inletStates (s : State) (tin : Nat) : State :=
  let s : State := { s with therm := { s.therm with inhot := 400 < tin } }
  if 550 ≤ tin && !s.pwr.emerg then s.emergency else s

/-- The conditions of Table 17-6 for one evaluation. -/
def State.coolStates (s : State) (tin : Nat) : State :=
  let t := s.therm
  let warn := t.flow < ((s.warnPct * s.frated : Nat) : Rat) / 100
  let cut := t.flow < ((60 * s.frated : Nat) : Rat) / 100
  let ok := ((s.warnPct * s.frated : Nat) : Rat) / 100 ≤ t.inf
  let new := (warn && !t.warn) || (cut && !t.cut)
  let s : State := { s with therm := { t with warn := warn, cut := cut, okFor := if ok then t.okFor + 1 else 0 } }
  let s := if new then s.raiseSrc 3 else s
  (s.pldmSet 3 (warnState warn (cut || s.pwr.emerg))).inletStates tin

/-- FLOW_INFERENCE (R467, R468): 10 ms means of power in W and of the temperatures in tenths. In air-cooled mode the flow
rules do not apply (R473), the inlet rules do (R581). DEDUCED: log entry 46. -/
def execFlowInference (p tin tout : Nat) (s : State) : Out :=
  if !s.governs then .next s
  else if s.pwr.air then .next (s.inletStates tin)
  else
    let t := s.therm
    let valid := 500 ≤ p && tin + 20 ≤ tout
    let inf := if valid then inferFlow p (tout - tin) else t.inf
    let meter := if s.meterOn then 600 * t.pulses else 0
    let (f, dis) := flowInUse s.meterOn inf meter
    .next (({ s with therm := { t with
      inf := inf, flow := f, flowm := meter, invalid := !valid, mdis := t.mdis || dis, pulses := 0 } } : State).coolStates tin)

/-- PLDM_REQUEST (R471): a sensor's reading and state, or the oldest event. The answer is three bytes of reading and
one of state, or the event's sensor and state. DESIGN CHOICE: log entry 45. -/
def execPldmRequest (q : Pldm) (s : State) : Out :=
  let t := s.therm
  match q with
  | .event =>
    match t.events with
    | [] => .next { s with rsp := some ([], false) }
    | e :: es => .next { s with rsp := some (leBytes 1 e.1 ++ leBytes 1 e.2, false), therm := { t with events := es } }
  | .sensor i =>
    let v : Nat := match i.val with
      | 1 => t.tin
      | 2 => t.tout
      | 3 => t.flow.floor.toNat
      | 4 => s.pwr.sample
      | 5 => s.hottest
      | 6 => s.hottestTile
      | 7 => s.pwr.va
      | 8 => s.pwr.vb
      | _ => 0
    .next { s with rsp := some (leBytes 3 v ++ leBytes 1 (tget 0 t.pldm i.val), false) }

end Sys2Proof.Machine
end

