-- ==== Sys2Proof/Machine/Governor.lean ====
section
/-! DEFINITION. The fast guard and the governor (R453 to R460, R469). -/

namespace Sys2Proof.Machine

/-! ### Modes (Table 17-11) -/

/-- FIXED. -/
def State.fixedMode (s : State) : Bool := (s.reg 0x030020).getLsbD 0
/-- NOBOOST. -/
def State.noBoost (s : State) : Bool := (s.reg 0x030020).getLsbD 1

/-! ### Boost (R456, R500) -/

/-- The conditions under which a yard may boost. -/
def State.mayBoost (s : State) (y : Nat) : Bool :=
  let k := s.yard y
  s.effLevel y = 0 && !s.fixedMode && !s.noBoost && !s.pwr.cons && k.trusted < 950 && k.ceil = 0 &&
    decide ((s.pwr.mean1 : Rat) ≤ 9 / 10 * s.capEff)

/-- BOOST_STEP: 50 MHz more, up to 1,450 MHz, while the yard's slack is at least 30 ps. -/
def execBoostStep (y : YardId) (s : State) : Out :=
  let k := s.yard y
  .next (if s.governs && s.yardBound y && s.mayBoost y && 30 ≤ k.raw then s.setYard y { k with boost := min 200 (k.boost + 50) } else s)

/-- Boost falls at once where a condition fails. -/
def State.dropBoosts (s : State) : State :=
  s.each (s.yards.map (·.1)) fun s y =>
    if (s.yard y).boost ≠ 0 && !s.mayBoost y then s.setYard y { s.yard y with boost := 0 } else s

/-! ### Choosing yards -/

/-- The lowest performance the governor may give a yard for power: its floor; level 6 where the effective cap lies
below PWR_CAP_FLOOR (R446, R450). -/
def State.powerFloor (s : State) (y : Nat) : Nat :=
  if s.capEff < (s.pwr.floor : Rat) then 6 else min 6 (s.yardFloor y)

/-- Yards the governor may reef. DEDUCED: log entry 43. DEDUCED: log entry 96. -/
def State.reefable (s : State) (y : Nat) : Bool := s.yardBound y && (s.yard y).lvl < s.powerFloor y

/-- The reason a power reef carries: 5 where the coolant limit sets the effective cap, 2 for a rig above its share.
DEDUCED: log entry 43. -/
def State.capCause (s : State) (share : Bool) : Nat :=
  if s.coolLimit < (if s.pwr.air then min 1100 (s.pwr.cap : Rat) else (s.pwr.cap : Rat)) && s.capEff = s.coolLimit then 5 else if share then 2 else 1

/-- Reef the hottest of some yards by one level. -/
def State.reefOne (s : State) (ys : List Nat) (share : Bool) : State :=
  match s.hottestOf ys with
  | some y => s.setLevel (yardId y) ((s.yard y).lvl + 1) false (s.capCause share)
  | none => s

/-- The rigs whose attributed power exceeds their share of CAPEFF (R454); powers in W. -/
def State.overShare (s : State) (rigs : List (RigId × Nat)) : List Nat :=
  (rigs.filter fun e => decide (s.capEff * (s.rig e.1).pwr / 1024 < (e.2 : Rat))).map fun e => e.1.val

/-- Reef one yard for power (R454). -/
def State.reefPower (s : State) (rigs : List (RigId × Nat)) : State :=
  let all := (s.yards.map (·.1)).filter s.reefable
  let heavy := s.overShare rigs
  let mine := all.filter fun y => heavy.any fun r => (s.rig r).inYard y
  if heavy = [] then s.reefOne all false else s.reefOne mine true

/-- A yard the governor may raise: reefed for power, not within 1 ms of its last raise. -/
def State.raisable (s : State) (y : Nat) : Bool :=
  let k := s.yard y
  k.lvl < 7 && s.yardTop y < k.lvl && k.cause ≠ 3 &&
    (match k.raised with | some n => n + 20 ≤ s.pwr.ev | none => true)

/-- Raise one yard (R454). -/
def State.raisePower (s : State) : State :=
  match s.coolestOf ((s.yards.map (·.1)).filter s.raisable) with
  | some y =>
    let k := s.yard y
    let s := s.setYard y { k with raised := some s.pwr.ev }
    s.setLevel (yardId y) (k.lvl - 1) false k.cause
  | none => s

/-! ### Sudden loss of coolant (R469) -/

/-- A yard heats without a matching rise of its power over the last 20 evaluations. -/
def Yard.lossSign (k : Yard) : Bool :=
  match k.hist with
  | (t, p) :: _ => 20 ≤ k.hist.length && t + 20 < k.trusted && 10 * k.pow < 11 * p
  | [] => false

/-- Keep the last 20 evaluations of a yard. -/
def Yard.push (k : Yard) : Yard :=
  let h := k.hist ++ [(k.trusted, k.pow)]
  { k with hist := h.drop (h.length - 20) }

/-- Look for sudden loss, then remember this evaluation. -/
def State.suddenLoss (s : State) : State :=
  let loss := 4 ≤ (s.yards.filter fun e => e.2.lossSign).length
  let s := s.each (s.yards.map (·.1)) fun s y => s.setYard y (s.yard y).push
  if loss && !s.pwr.emerg then
    (({ s with therm := { s.therm with loss := true } } : State).emergency).pldmSet 3 2
  else s

/-! ### The evaluation -/

/-- The telemetry of an evaluation. DIFF is the difference of the means in percent of measured power. -/
def State.takeTelemetry (s : State) (t : Telemetry) : State :=
  let d := if t.est1 < t.mean1 then t.mean1 - t.est1 else t.est1 - t.mean1
  let s : State := { s with pwr := { s.pwr with
    va := t.va, vb := t.vb, ia := t.ia, ib := t.ib, sample := t.sample, mean1 := t.mean1, mean10 := t.mean10, peak := t.peak
    est1 := t.est1, diff := if t.mean1 = 0 then 0 else satTo 255 (100 * d / t.mean1), ev := s.pwr.ev + 1 } }
  t.yards.foldl (fun s e => s.setYard e.1 { s.yard e.1 with pow := e.2 }) s

/-- The power and feed sensors of Table 17-7. -/
def State.pldmPower (s : State) : State :=
  let p := s.pwr
  let feed (v : Nat) (good : Bool) : Nat := warnState (v < 550 || 620 < v) (!good)
  ((s.pldmSet 4 (warnState (decide (95 / 100 * s.capEff < (p.sample : Rat))) (decide (s.capEff < (p.mean10 : Rat))))).pldmSet 7
    (feed p.va p.feedA)).pldmSet 8 (feed p.vb p.feedB)

/-- The figure the governor controls to: CAPEFF, 90 % of it while CONS is set (R450, R458). -/
def State.target (s : State) : Rat := if s.pwr.cons then 9 / 10 * s.capEff else s.capEff

/-- The rated ceiling of a path in mA (Table 16-6). -/
def ratedMa (p : Nat) : Nat := if p < 256 then 13600 else if p < 320 then 3750 else if p < 336 then 27500 else if p < 344 then 20000 else 22000

/-- A step, link or HBM4 path above its ceiling reefs the hottest yard of its mast, by one level (R440, Table 16-6). DEDUCED: log entry 96. -/
def State.holdPaths (s : State) (paths : List (PathId × Nat)) : State :=
  paths.foldl (init := s) fun s e =>
    if e.1.val < 320 || e.2 ≤ (s.path e.1).ceiling (ratedMa e.1) then s
    else
      match s.hottestOf ((mastYards (pathMast e.1)).filter s.reefable) with
      | some y => s.setLevel (yardId y) ((s.yard y).lvl + 1) false 6
      | none => s

/-- GOVERNOR_EVALUATION (R269, R454, R456, R469). -/
def execGovernorEvaluation (t : Telemetry) (s : State) : Out :=
  let s := s.takeTelemetry t
  if !s.governs then .next s
  else
    let s := s.suddenLoss
    let s :=
      if s.pwr.emerg then s
      else if s.target < (t.mean1 : Rat) then s.reefPower t.rigs
      else if (t.mean1 : Rat) < 97 / 100 * s.target then s.raisePower
      else s
    .next (if s.pwr.emerg then s else s.holdPaths t.paths).setDuty.dropBoosts.pldmPower

/-- FAST_GUARD_ESTIMATE (R453): an estimate above the limit reefs the hottest yard of the mast above its floor; disabled
while CONS is set (R458). -/
def execFastGuardEstimate (m : MastId) (est : Nat) (s : State) : Out :=
  let s : State := { s with pwr := { s.pwr with est := est } }
  if s.boot.ph ≠ 5 || s.pwr.cons || s.pwr.emerg || !decide (min 3900 (s.capEff + 500) < (est : Rat)) then .next s
  else .next (s.reefOne ((mastYards m).filter s.reefable) false)

/-! ### Duty-cycle furling (R455) -/

/-- Yards of a rig. -/
def State.rigYards (s : State) (r : Nat) : List Nat := allYards.filter fun y => (s.rig r).inYard y

/-- DUTY_CYCLE_FURL: the rig's yards furl together in the held form, once all are at level 6, and resume at level 6. -/
def execDutyCycleFurl (r : RigId) (begins : Bool) (s : State) : Out :=
  let ys := s.rigYards r
  if begins then
    if s.governs && ys ≠ [] && ys.all (fun y => (s.yard y).lvl = 6) then
      let s := s.each ys fun s y => s.setLevel (yardId y) 7 true 7
      .next { s with pwr := { s.pwr with duty := s.pwr.duty ||| BitVec.twoPow 64 r.val } }
    else .next s
  else
    let s := s.each (ys.filter fun y => (s.yard y).held && (s.yard y).cause = 7) fun s y => s.setLevel (yardId y) 6 false 1
    .next { s with pwr := { s.pwr with duty := s.pwr.duty &&& ~~~(BitVec.twoPow 64 r.val) } }

/-! ### Measured-only control (R458) -/

/-- CONS_SET: the difference, in percent, at every evaluation for 10 ms. -/
def execConsSet (diff : Nat) (s : State) : Out :=
  if diff ≤ 15 || s.pwr.cons || !s.governs then .next s
  else .next ((({ s with pwr := { s.pwr with cons := true, diff := satTo 255 diff } } : State).raiseSrc 2).dropBoosts)

/-- Writing 1 to CONS clears it. -/
def State.consClear (s : State) : State := { s with pwr := { s.pwr with cons := false } }

/-- CONS_CLEAR. -/
def execConsClear (s : State) : Out := .next (if s.bar0On 0x030020 then s.consClear else s)

end Sys2Proof.Machine
end

