-- ==== Sys2Proof/Machine/Loops.lean ====
section
/-! DEFINITION. Loop-backs (R555 to R561). -/

namespace Sys2Proof.Machine

/-- BAR0 offset of LOOP_CTL of an interface. -/
def loopOff (i : Nat) : Nat := 0x0B0000 + 8 * i

/-- Fields of LOOP_CTL that a write stores (Table 22-4). -/
def loopFields : BitVec 64 := 0xFFFFFFF8FF0000F1

/-- DUR. -/
def loopDur (w : BitVec 64) : Nat := bits w.toNat 63 48
/-- UNIT. -/
def loopUnit (w : BitVec 64) : Nat := bits w.toNat 47 36
/-- ALLU. -/
def loopAll (w : BitVec 64) : Bool := w.getLsbD 35
/-- PAT. -/
def loopPat (w : BitVec 64) : Nat := bits w.toNat 31 24
/-- DEPTH. -/
def loopDepth (w : BitVec 64) : Nat := bits w.toNat 7 4

/-- The deepest loop-back of an interface (Table 22-2). -/
def loopDeepest (i : Nat) : Nat := if i = 0 then 4 else if i < 7 then 5 else if i < 15 then 2 else if i = 15 then 1 else 2

/-- Units of an interface (Table 22-1). -/
def loopUnits (i : Nat) : Nat := if i < 7 then 1 else if i < 15 then 32 else if i = 15 then 4096 else 16

/-- Every field is listed (R556, R560). DEDUCED: log entry 57. -/
def loopListed (i : Nat) (w : BitVec 64) : Bool :=
  let mayAll := (7 ≤ i && i < 15) || 16 ≤ i
  1 ≤ loopDepth w && loopDepth w ≤ loopDeepest i && loopPat w ≤ 3 && (mayAll || !loopAll w) &&
    ((mayAll && loopAll w) || loopUnit w < loopUnits i)

/-- No UPDATE uses a port. -/
def State.portFree (s : State) (p : Nat) : Bool :=
  (List.range 64).all fun r =>
    match (s.rig r).running with
    | some m => !(m.r.op = 0xC && m.fin.isNone && m.r.uPorts.contains p)
    | none => true

/-- The condition of Table 22-3 at entry. -/
def State.loopReady (s : State) (i : Nat) (w : BitVec 64) : Bool :=
  if i = 0 then 1 ≤ loopDur w && loopDur w ≤ 1000 && (List.range 256).all fun n => !(s.strm n).en
  else if i < 7 then if loopDepth w = 5 then (s.port (i - 1)).st = 2 else s.portFree (i - 1)
  else if i < 15 then (List.range 64).all fun r => (s.rig r).regions &&& homedOn ((i - 7) / 2) == 0
  else if i = 15 then (s.rigOfCore (loopUnit w)).isNone && !(s.core (loopUnit w)).down
  else (List.range 64).all fun r => (s.rig r).stay = 0

/-- What entry does to the interface (Table 22-3). -/
def State.loopBegin (s : State) (i : Nat) (w : BitVec 64) : State :=
  if i = 0 then { s with boot := { s.boot with link := false } }
  else if i < 7 then if loopDepth w = 5 then s else s.setPort (i - 1) { s.port (i - 1) with st := 5 }
  else if i < 15 then s.evictLines fun l => homeMast (1024 * l) = (i - 7) / 2
  else s

/-- A write of LOOP_CTL with EN 1 (R557, R560): entered, or refused. DEDUCED: log entry 57. -/
def State.loopEnter (s : State) (i : Nat) (w : BitVec 64) : State :=
  let l := s.loop i
  let w := w &&& loopFields
  if l.st = 1 || l.st = 2 || l.st = 3 then s
  else if !loopListed i w then s.setLoop i { l with ctl := w &&& ~~~1, st := 4, result := 4 }
  else if !s.loopReady i w then s.setLoop i { l with ctl := w &&& ~~~1, st := 4, result := 3 }
  else (s.loopBegin i w).setLoop i { ctl := w ||| 1, st := 2, result := 0, errs := 0, time := 0 }

/-- LOOP_ENTER. -/
def execLoopEnter (i : IfaceId) (w : BitVec 64) (s : State) : Out :=
  .next (if s.bar0On (loopOff i) && w.getLsbD 0 then s.loopEnter i w else s)

/-- A write of EN 0 starts the leave of a running loop-back (R560). -/
def State.loopLeave (s : State) (i : Nat) : State :=
  let l := s.loop i
  if l.st = 1 || l.st = 2 then s.setLoop i { l with st := 3 } else s

/-- LOOP_LEAVE. -/
def execLoopLeave (i : IfaceId) (s : State) : Out := .next (if s.bar0On (loopOff i) then s.loopLeave i else s)

/-- A loop-back has ended: EN reads 0, and a Pahus port retrains (R557, R559). -/
def State.loopEnd (s : State) (i : Nat) (result : BitVec 8) (errs time : Nat) : State :=
  let l := s.loop i
  let s := s.setLoop i { l with
    ctl := l.ctl &&& ~~~1, st := 0, result := result, errs := satTo 0xFFFFFF errs, time := satTo 0xFFFF time }
  if 1 ≤ i && i < 7 && loopDepth l.ctl ≠ 5 then
    let k := s.port (i - 1)
    s.setPort (i - 1) (if k.pen then k.train else { k with st := 0 })
  else s

/-- LOOP_DURATION_EXPIRY (R559): DUR has passed, or the leave is done; the errors counted, the running time, and whether
the pattern locked. -/
def execLoopDurationExpiry (i : IfaceId) (errs time : Nat) (locked : Bool) (s : State) : Out :=
  let l := s.loop i
  if l.st = 3 || (l.st = 2 && loopDur l.ctl ≠ 0) then
    .next (s.loopEnd i (if !locked then 2 else if errs ≠ 0 then 1 else 0) errs time)
  else .next s

/-- LOOP_FAR_END_TIMEOUT (R561). -/
def execLoopFarEndTimeout (i : IfaceId) (s : State) : Out :=
  let l := s.loop i
  let far := (i.val = 0 && loopDepth l.ctl = 4) || (1 ≤ i.val && i.val < 7 && 4 ≤ loopDepth l.ctl)
  .next (if far && (l.st = 1 || l.st = 2) then s.loopEnd i 6 l.errs l.time else s)

/-- Every running loop-back is ended by the device (R559). DEDUCED: log entry 51. -/
def State.loopsEnded (s : State) : State :=
  s.each (s.loops.map (·.1)) fun s i =>
    let l := s.loop i
    if l.st = 1 || l.st = 2 || l.st = 3 then s.loopEnd i 5 l.errs l.time else s

end Sys2Proof.Machine
end

