-- ==== Sys2Proof/Machine/Ras.lean ====
section
/-! DEFINITION. Reliability (18): the checker flip's selection (R484), the table of corrections (R483), scrubs started by
register (R485 to R487), failing ways (R493), and the sheet controller's lockstep (R494, R554). -/

namespace Sys2Proof.Machine

/-! ### Checker test and the table of corrections -/

/-- Fields of RAS_FLIPTGT that a write stores (Table 18-5a). -/
def flipFields : BitVec 64 := 0x80FFFFFFF0000000

/-- A write of RAS_FLIPTGT: FIRED is cleared by a one, the rest stored. -/
def State.flipTgtWrite (s : State) (w : BitVec 64) : State :=
  let fired := s.ras.flipTgt.getLsbD 62 && !w.getLsbD 62
  { s with ras := { s.ras with flipTgt := (w &&& flipFields) ||| (if fired then BitVec.twoPow 64 62 else 0) } }

/-- RAS_FLIPTGT_WRITE (R484). -/
def execRasFliptgtWrite (w : BitVec 64) (s : State) : Out := .next (if s.bar0On 0x050008 then s.flipTgtWrite w else s)

/-- CLR empties the table (R483). -/
def State.ceClr (s : State) : State := { s with ras := { s.ras with table := [], next := 0 } }

/-- RAS_CE_CLR. -/
def execRasCeClr (s : State) : Out := .next (if s.bar0On 0x050010 then s.ceClr else s)

/-! ### Scrubs started by register -/

/-- BASE of RAS_SCRUB_BASE. -/
def State.scrubBase (s : State) : Nat := bits (s.reg 0x050020).toNat 47 12 * 4096
/-- LEN of RAS_SCRUB_LEN. -/
def State.scrubLen (s : State) : Nat := bits (s.reg 0x050028).toNat 39 12 * 4096

/-- The command a register-started scrub is in its rig's plan: opcode 4, class C, its rig, BASE, LEN, NOFIX (Table 18-5b). -/
def scrubLine (rig base len : Nat) (nofix : Bool) (now : Nat) : CRec :=
  { strm := regStrm, t0 := now
    l1 := leBytes 8 (4 + 3 * 65536 + rig * 16777216) ++ leBytes 16 0 ++ leBytes 8 base ++ leBytes 8 len ++ leBytes 8 0 ++
      leBytes 1 (b2n nofix) ++ leBytes 15 0 }

/-- A write of GO (Table 18-7): ignored while BUSY; a range that breaks R486 ends at once; one of a bound range waits in
the rig's class C queue. -/
def State.scrubGo (s : State) (nofix : Bool) : State :=
  if s.scrub.busy then s
  else
    let s : State := { s with scrub := { s.scrub with nofix := nofix, busy := true, rig := none } }
    let a := s.scrubBase
    let n := s.scrubLen
    match s.scrubOwner a n with
    | none => (s.putSum noSum 0).regScrubEnd 0x11
    | some none => s
    | some (some g) =>
      let k := s.rig g
      ({ s with scrub := { s.scrub with rig := some g } } : State).setRig g
        { k with cq := k.cq ++ [{ r := scrubLine g a n nofix s.adm.now, moved := !k.iv.isEmpty }] }

/-- SCRUB_GO. -/
def execScrubGo (nofix : Bool) (s : State) : Out := .next (if s.bar0On 0x050030 then s.scrubGo nofix else s)

/-- The lowest rig that runs a SCRUB. DEDUCED: log entry 52. -/
def State.scrubbing (s : State) : Option Nat :=
  (List.range 64).find? fun r =>
    match (s.rig r).running with
    | some m => m.r.op = 4 && m.fin.isNone
    | none => false

/-- SCRUB_END (R485, R487): the lowest rig's scrub that runs, else the register-started scrub of a range bound to no
rig, visits its granules, writes its summary, and ends; it has not ended while a bank of its range is held (R486). DEDUCED: log entry 52. -/
def execScrubEnd (s : State) : Out :=
  match s.scrubbing with
  | some r =>
    match (s.rig r).running with
    | some m =>
      if s.scrubWaits (m.r.u 24 8) (m.r.u 32 8) then .next s
      else let (s, f) := s.doScrub m.r; .next (s.endRunning r f)
    | none => .next s
  | none =>
    if s.scrub.busy && s.scrub.rig.isNone && !s.scrubWaits s.scrubBase s.scrubLen then
      let (s, sum, whole) := s.scrubRange s.scrubBase s.scrubLen s.scrub.nofix
      .next ((s.putSum sum 0).regScrubEnd (finScrub whole).status)
    else .next s

/-! ### LLC ways -/

/-- LLC_WAY_RETIRE (R493): recorded; the way stays in use until a re-rig replaces it. -/
def execLlcWayRetire (k : SliceId) (way : Fin 16) (s : State) : Out :=
  .next (s.failWay k way)

/-! ### The sheet controller (R494, R553, R554) -/

/-- A lockstep mismatch (R494, Table 19-8): the standby takes over, or, once it has been used, every rail goes off.
During start-up the standby restarts at step 2. DEDUCED: log entry 51. -/
def State.mismatch (s : State) : State :=
  if s.boot.ph = 0 then s
  else if !s.nest.standby then s.railsOff
  else if s.boot.ph = 1 then
    { s with boot := { s.boot with step := min 2 s.boot.step, paused := false }, nest := { s.nest with sheet := .notStarted, standby := false } }
  else
    (({ s with nest := { s.nest with sheet := .takeover, standby := false } } : State).loopsEnded).raiseSrc 5

/-- LOCKSTEP_TAKEOVER (R494). -/
def execLockstepTakeover (s : State) : Out := .next s.mismatch

/-- STANDBY_TAKEOVER_DONE (R494, R553). -/
def execStandbyTakeoverDone (s : State) : Out := .next (if s.nest.sheet = .takeover then s.sheetRuns else s)

/-- WATCHDOG_EXPIRY (R554): the running sheet controller sent no heartbeat. -/
def execWatchdogExpiry (s : State) : Out := .next (if s.nest.sheet = .running then s.mismatch else s)

/-- The sheet controller is awake. -/
def State.wakeSheet (s : State) : State := if s.nest.sheet = .waiting then { s with nest := { s.nest with sheet := .running } } else s

/-- WAKE_TIMER_EXPIRY (R554): the wake timer, if set, wakes the sheet controller. DESIGN CHOICE: log entry 47. -/
def execWakeTimerExpiry (s : State) : Out :=
  .next (if s.nest.timer then ({ s with nest := { s.nest with timer := false } } : State).wakeSheet else s)

/-! ### Margin plans on request -/

/-- RECOMP (R500): a plan for every yard. -/
def execRecomp (s : State) : Out := .next (if s.bar0On ageStat then s.marginPlan false allYards else s)

end Sys2Proof.Machine
end

