-- ==== Sys2Proof/Machine/Security.lean ====
section
/-! DEFINITION. Security (20): the mailbox (R522, R524), SPDM sessions and measurements (R527 to R530), and the command
session (R533). -/

namespace Sys2Proof.Machine

/-! ### The mailbox (Table 20-5) -/

/-- ADDR. -/
def State.mboxAddr (s : State) : Nat := (s.reg 0x0A0008).toNat
/-- LEN. -/
def State.mboxLen (s : State) : Nat := bits (s.reg 0x0A0010).toNat 31 0
/-- SLOT, true for B. -/
def State.mboxSlot (s : State) : Bool := (s.reg 0x0A0018).getLsbD 0

/-- Place an image in a slot, or empty it. -/
def Sec.setSlot (k : Sec) (b : Bool) (i : Option (List Byte)) : Sec := if b then { k with slotB := i } else { k with slotA := i }

/-- An operation ends: RESULT, BUSY clear, and the security source. -/
def State.mboxEnd (s : State) (result : BitVec 8) : State :=
  ({ s with sec := { s.sec with busy := false, result := result } } : State).raiseSrc 4

/-- The ROM alone runs: FAILED with CAUSE 0x01 (R524). -/
def State.romOnly (s : State) : Bool := s.boot.ph = 6 && s.boot.cause = 1

/-- An operation that reads an image starts: its slot holds no image from here on (R522). DEDUCED: log entry 53. -/
def State.mboxStart (s : State) (op : BitVec 8) (slot : Bool) : State :=
  let s : State := { s with sec := { s.sec with busy := true, op := op } }
  if 4 * 1024 * 1024 < s.mboxLen || s.mboxAddr % 4096 ≠ 0 then s.mboxEnd 4
  else { s with sec := s.sec.setSlot slot none }

/-- A write of OP (R522, R524). -/
def State.mboxOp (s : State) (op : BitVec 8) : State :=
  if s.sec.busy then s
  else if op = 1 && !s.romOnly then (if s.mboxSlot = s.sec.next then s.mboxEnd 5 else s.mboxStart 1 s.mboxSlot)
  else if op = 2 && s.romOnly then s.mboxStart 2 false
  else s.mboxEnd 7

/-- STAGE. -/
def execStage (s : State) : Out := .next (if s.bar0On 0x0A0000 then s.mboxOp 1 else s)
/-- RECOVER. -/
def execRecover (s : State) : Out := .next (if s.bar0On 0x0A0000 then s.mboxOp 2 else s)

/-- The RESULT of an image (R519, R521). DEDUCED: log entry 53. -/
def State.imageResult (s : State) (b : List Byte) : BitVec 8 :=
  if b.length ≠ s.mboxLen || !imageFormed b then 4
  else if !Config.keysMatch b || !Config.rsaVerifies b then 1
  else if !Config.slhVerifies b then 2
  else if imageSvn b < s.sec.fuse then 3
  else 0

/-- MAILBOX_OPERATION_END: the image as read from host memory; none when a read failed. -/
def execMailboxOperationEnd (img : Option Image) (s : State) : Out :=
  if !s.sec.busy then .next s
  else
    match img with
    | none => .next (s.mboxEnd 6)
    | some i =>
      let res := s.imageResult i.bytes
      if res ≠ 0 then .next (s.mboxEnd res)
      else if s.sec.op = 2 then
        let s := ({ s with sec := { s.sec.setSlot false (some i.bytes) with next := false } } : State).mboxEnd 0
        .next { s with boot := { s.boot with ph := 1, step := 2, cause := 0 } }
      else .next (({ s with sec := s.sec.setSlot s.mboxSlot (some i.bytes) } : State).mboxEnd 0)

/-! ### SPDM (R527 to R530) -/

/-- The number of a transport. -/
def viaOf : Transport → Nat
  | .doe => 0
  | .mctp => 1
  | .pahus p => 2 + p.val

/-- The responder answers on a transport: its firmware runs, and the transport is up. -/
def State.responds (s : State) (via : Transport) : Bool :=
  (s.boot.ph = 5 || (s.boot.ph = 6 && s.boot.cause ≠ 1)) && (s.nest.sheet = .running || s.nest.sheet = .waiting) &&
    (match via with
     | .doe => s.boot.link
     | .mctp => true
     | .pahus p => (s.port p).st = 2 || (s.port p).st = 3)

/-- Answer an SPDM request. -/
def State.spdmOut (s : State) (via : Transport) (r : SpdmRsp) : State := { s with sec := { s.sec with rsp := some (viaOf via, r) } }

/-- The device's RSA signature over the transcript of an exchange. -/
def State.spdmSign (s : State) : State × BitVec 512 := ({ s with free := s.free + 1 }, Config.sign 0 s.sec.rsa.priv (leBytes 8 s.free))

/-- The lowest session number not in use. -/
def Sec.freshSess (k : Sec) : Nat := ((List.range 9).find? fun i => !(k.sess.any fun x => x.id = i)).getD 8

/-- A session with a number, on a transport. -/
def Sec.hasSess (k : Sec) (id via : Nat) : Bool := k.sess.any fun x => x.id = id && x.via = via

/-- What a measurement block covers, of the state (Table 20-3). -/
def State.measuredState (s : State) (idx : Nat) : List Nat :=
  let img := s.sec.slot s.sec.run
  match idx with
  | 2 => match img with | some i => i.map (·.toNat) | none => []
  | 3 => [s.sec.fuse, match img with | some i => imageSvn i | none => 0, match img with | some i => imageVer i | none => 0, b2n s.sec.next]
  | 4 => (majority (s.fuses.map (·.bad))).getD [] |>.flatMap fun e => [e.1, e.2]
  | 5 => [b2n s.pwr.air, b2n s.llc.staged.isSome]
  | _ => []

/-- The digest of a measurement: of the whole image for index 2 where the model holds it. -/
def State.measure (s : State) (idx : Nat) : BitVec 384 :=
  match idx, s.sec.slot s.sec.run with
  | 2, some i => BitVec.ofNat 384 (leNat (sha384 i))
  | _, _ => Config.measured idx (s.measuredState idx)

/-- The certificate chain of a slot: 0 RSA, 1 SLH-DSA (R526). -/
def State.leafOf (s : State) (slot : Nat) : List Byte :=
  Config.leaf slot (if slot = 0 then s.sec.rsa.pub else s.sec.slh.pub) Config.serial
/-- The chain of a slot, from the root to the leaf. -/
def State.chainOf (s : State) (slot : Nat) : List Byte := Config.issuers slot ++ s.leafOf slot
/-- The device's identity digest (R526). -/
def State.identity (s : State) : List Byte := sha384 (s.leafOf 0 ++ s.leafOf 1)

/-- What the responder supports (Table 20-2). -/
def spdmCaps : List SpdmCap := [.cert, .chal, .meas, .measFresh, .keyEx, .encrypt, .mac, .hbeat, .keyUpd, .mutAuth, .chunk]
/-- The algorithms it negotiates. -/
def spdmAlgs : List SpdmAlg := [.rsassa3072, .sha384, .secp384r1, .aes256gcm]

/-- SPDM_REQUEST (R526, R527, Table 20-2). DEDUCED: log entry 54. -/
def execSpdmRequest (via : Transport) (q : Spdm) (s : State) : Out :=
  if !s.responds via then .next s
  else
    match q with
    | .version => .next (s.spdmOut via (.version [(1, 2), (1, 3)]))
    | .capabilities => .next (s.spdmOut via (.capabilities spdmCaps))
    | .algorithms => .next (s.spdmOut via (.algorithms spdmAlgs))
    | .digests => .next (s.spdmOut via (.digests [sha384 (s.chainOf 0), sha384 (s.chainOf 1)]))
    | .certificate slot off len =>
      let c := s.chainOf slot
      .next (s.spdmOut via (if slot < 2 then .certificate slot ((c.drop off).take len) (c.length - off - len) else .error))
    | .keyUpdate n => .next (s.spdmOut via (if s.sec.hasSess n (viaOf via) then .ack else .error))
    | .keyExchange =>
      if 8 ≤ s.sec.sess.length then .next (s.spdmOut via .limit)
      else
        let n := s.sec.freshSess
        let (s, sig) := s.spdmSign
        .next (({ s with sec := { s.sec with sess := s.sec.sess ++ [⟨n, viaOf via⟩] } } : State).spdmOut via (.keyExchange n sig))
    | .challenge =>
      let (s, sig) := s.spdmSign
      .next (s.spdmOut via (.challenge sig))
    | .measurements idx =>
      if 1 ≤ idx && idx ≤ 5 then
        let (s, sig) := s.spdmSign
        .next (s.spdmOut via (.measurements idx (s.measure idx) sig))
      else .next (s.spdmOut via .error)
    | .heartbeat n => .next (s.spdmOut via (if s.sec.hasSess n (viaOf via) then .ack else .error))
    | .ideKm n => .next (s.spdmOut via (if via = .doe && s.sec.hasSess n 0 then .ack else .error))
    | .other => .next (s.spdmOut via .error)

/-- The last response on a transport was signed, so that SLHSIG_REQ may name its transcript (R528). -/
def Sec.signedOn (k : Sec) (via : Nat) : Bool :=
  match k.rsp with
  | some (v, r) => v = via && (match r with
    | .keyExchange _ _ => true
    | .challenge _ => true
    | .measurements _ _ _ => true
    | .slhsig _ => true
    | _ => false)
  | none => false

/-- SLHSIG_REQ (R528): the SLH-DSA signature over the named transcript. -/
def execSlhsigReq (via : Transport) (transcript : List Byte) (s : State) : Out :=
  if !s.responds via then .next s
  else .next (s.spdmOut via (if s.sec.signedOn (viaOf via) then .slhsig (Config.sign 1 s.sec.slh.priv transcript) else .error))

/-- The command key of a session's export master secret (R533). -/
def cmdKey (ems : BitVec 384) : BitVec 384 :=
  BitVec.ofNat 384 (leNat (hkdf384 (leBytes 48 ems.toNat) (("oxm critical cmd".toList).map fun c => BitVec.ofNat 8 c.toNat) 48))

/-- BIND_CMD (R533): a secured DOE session, with its export master secret, becomes the command session, and SEC_CTR is zero.
DEDUCED: log entry 55. -/
def execBindCmd (sess : Nat) (ems : BitVec 384) (s : State) : Out :=
  if !s.responds .doe then .next s
  else if s.sec.hasSess sess 0 then
    .next (({ s with sec := { s.sec with bound := some sess, key := cmdKey ems, ctr := 0 } } : State).spdmOut .doe .ack)
  else .next (s.spdmOut .doe .error)

/-- A session ends; ending the bound session unbinds it (R530, R533). -/
def Sec.endSess (k : Sec) (n : Nat) : Sec :=
  let k := { k with sess := k.sess.filter fun x => x.id ≠ n }
  if k.bound = some n then { k with bound := none, key := 0 } else k

/-- END_SESSION (R530). -/
def execEndSession (sess : Nat) (s : State) : Out := .next { s with sec := s.sec.endSess sess }
/-- SPDM_HEARTBEAT_TIMEOUT (R530). -/
def execSpdmHeartbeatTimeout (sess : Nat) (s : State) : Out := .next { s with sec := s.sec.endSess sess }

end Sys2Proof.Machine
end

