-- ==== Sys2Proof/Machine/Events.lean ====
section
/-! DEFINITION. Events and interrupts (R539 to R554): raises, masks, routes, messages under moderation, MSI-X masks, and the
crow's nest. -/

namespace Sys2Proof.Machine

/-! ### Targets of messages -/

/-- The host vector of a source routed to the host (R546). -/
def State.vecOf (s : State) (n : Nat) : Option Nat :=
  if (s.route n).getLsbD 15 then some (bits (s.route n).toNat 10 0) else none

/-- Sources with a message due to the host. -/
def State.dueSrcs (s : State) : List Nat := idxs 2048 fun n => s.evt.due.getLsbD n

/-- Sources of a vector with a message due. -/
def State.dueOf (s : State) (v : Nat) : List Nat := s.dueSrcs.filter fun n => s.vecOf n = some v

/-- Some source of a vector is deliverable. -/
def State.vecDeliverable (s : State) (v : Nat) : Bool :=
  (idxs 2048 fun n => s.evt.pend.getLsbD n).any fun n => s.deliverable n && s.vecOf n = some v

/-- A message of a vector leaves the device, or waits in the pending-bit array under an MSI-X mask (R546). -/
def State.msix (s : State) (v : Nat) : State :=
  if s.evt.fnMask || s.evt.vecMask.getLsbD v then { s with evt := { s.evt with pba := s.evt.pba ||| BitVec.twoPow 2048 v } }
  else { s with evt := { s.evt with sent := s.evt.sent ++ [v] } }

/-- HOLD of a vector. -/
def State.holdOf (s : State) (v : Nat) : Nat := (tget (0 : BitVec 8) s.evt.hold v).toNat

/-- A vector's holdoff runs at a tick. -/
def State.inHold (s : State) (v now : Nat) : Bool := decide (now < tget 0 s.evt.until_ v)

/-- IDLE of a vector's group. -/
def State.idleOf (s : State) (v : Nat) : Bool := s.evt.idle.getLsbD (v / 32)

/-- Send the merged message of a vector, if a source of it is still deliverable; the holdoff restarts, and the group's
IDLE bit clears (R549, R550). Messages due are taken either way. -/
def State.sendVec (s : State) (v now : Nat) : State :=
  let live := s.vecDeliverable v
  let gone : BitVec 2048 := (s.dueOf v).foldl (fun b n => b ||| BitVec.twoPow 2048 n) 0
  let s : State := { s with evt := { s.evt with due := s.evt.due &&& ~~~gone } }
  if !live then s
  else
    ({ s with evt := { s.evt with
      until_ := tset 0 s.evt.until_ v (if s.holdOf v = 0 then 0 else now + 1250 * s.holdOf v)
      idle := s.evt.idle &&& ~~~(BitVec.twoPow 64 (v / 32)) } } : State).msix v

/-! ### The sheet controller's messages (R546, R551) -/

/-- Post what is due and deliverable to the sheet controller's event queue. -/
def State.sendSheet (s : State) : State :=
  let ns := (idxs 2048 fun n => s.evt.sheetDue.getLsbD n).filter s.deliverable
  let s : State := { s with evt := { s.evt with sheetDue := 0 } }
  if ns = [] then s else { s with evt := { s.evt with sheetQ := s.evt.sheetQ ++ ns, sheetHold := true } }

/-- SHEET_HOLDOFF_EXPIRY. DEDUCED: log entry 56. -/
def execSheetHoldoffExpiry (s : State) : Out := .next ({ s with evt := { s.evt with sheetHold := false } } : State).sendSheet

/-- The signal controller's own counter reads a value; it never runs back (R323, R328). -/
def State.evtSee (s : State) (now : Nat) : State := { s with evt := { s.evt with now := max now s.evt.now } }

/-- EVENT_MESSAGE_SEND (R544, R549 to R551): the message due of a host vector outside its holdoff or with IDLE set; where
none is due, what is due to the sheet controller. DEDUCED: log entry 56. -/
def execEventMessageSend (v : VecId) (now : Nat) (s : State) : Out :=
  let s := s.evtSee now
  let now := s.evt.now
  if s.dueOf v ≠ [] then .next (if !s.inHold v now || s.idleOf v then s.sendVec v now else s)
  else .next (if !s.evt.sheetHold || s.nest.sheet = .waiting then s.sendSheet else s)

/-- HOLDOFF_EXPIRY (R549). -/
def execHoldoffExpiry (v : VecId) (now : Nat) (s : State) : Out :=
  let s := s.evtSee now
  let now := s.evt.now
  if s.inHold v now then .next s
  else
    let s : State := { s with evt := { s.evt with until_ := tset 0 s.evt.until_ v.val 0 } }
    .next (if s.dueOf v ≠ [] then s.sendVec v now else s)

/-- A write of EVT_IDLE_HINT: messages held in the holdoffs of a group whose bit is set are sent (R550). -/
def State.idleWrite (s : State) (w : BitVec 64) (now : Nat) : State :=
  let s : State := { s with evt := { s.evt with idle := w } }
  let vs := (s.dueSrcs.filterMap s.vecOf).dedup.filter fun v => w.getLsbD (v / 32) && s.inHold v now
  s.each vs fun s v => s.sendVec v now

/-- EVT_IDLE_HINT_WRITE. -/
def execEvtIdleHintWrite (w : BitVec 64) (now : Nat) (s : State) : Out :=
  let s := s.evtSee now
  .next (if s.bar0On 0x063800 then s.idleWrite w s.evt.now else s)

/-! ### Raises, pending and masks (Table 21-2) -/

/-- EVENT_RAISE (R541). -/
def execEventRaise (n : SourceId) (s : State) : Out := .next (s.raiseSrc n)

/-- The listed sources whose bits are set in word i. -/
def wordSources (i : Nat) (w : BitVec 64) : List Nat := ((idxs 64 fun j => w.getLsbD j).map (· + 64 * i)).filter listedSource

/-- The bits of some sources. -/
def sourceBits (ns : List Nat) : BitVec 2048 := ns.foldl (fun b n => b ||| BitVec.twoPow 2048 n) 0

/-- A write of EVT_MASK_SET. -/
def State.maskSet (s : State) (i : Nat) (w : BitVec 64) : State :=
  { s with evt := { s.evt with mask := s.evt.mask ||| sourceBits (wordSources i w) } }
/-- A write of EVT_MASK_CLR. -/
def State.maskClr (s : State) (i : Nat) (w : BitVec 64) : State := s.unmask (wordSources i w)
/-- A write of EVT_PEND_SET. -/
def State.pendSet (s : State) (i : Nat) (w : BitVec 64) : State := s.each (wordSources i w) State.raiseSrc
/-- A write of EVT_PEND_CLR. -/
def State.pendClr (s : State) (i : Nat) (w : BitVec 64) : State :=
  { s with evt := { s.evt with pend := s.evt.pend &&& ~~~sourceBits (wordSources i w) } }

/-- EVT_MASK_SET. -/
def execEvtMaskSet (i : Fin 32) (w : BitVec 64) (s : State) : Out := .next (if s.bar0On 0x060000 then s.maskSet i w else s)
/-- EVT_MASK_CLR. -/
def execEvtMaskClr (i : Fin 32) (w : BitVec 64) (s : State) : Out := .next (if s.bar0On 0x060100 then s.maskClr i w else s)
/-- EVT_PEND_SET. -/
def execEvtPendSet (i : Fin 32) (w : BitVec 64) (s : State) : Out := .next (if s.bar0On 0x060200 then s.pendSet i w else s)
/-- EVT_PEND_CLR. -/
def execEvtPendClr (i : Fin 32) (w : BitVec 64) (s : State) : Out := .next (if s.bar0On 0x060300 then s.pendClr i w else s)

/-! ### Routes (Table 21-3) -/

/-- A change of a source's route, or of its pending or mask bit, by f: a message is due when it becomes deliverable. -/
def State.rerouted (s : State) (n : Nat) (f : State → State) : State :=
  let was := s.deliverable n
  let s := f s
  if was then s else s.noteDue n

/-- A write of the low and high halves of an EVT_ROUTE entry: HOST, SHEET and VEC are stored, cause bits cleared. -/
def State.routeWrite (s : State) (n : Nat) (w : BitVec 32) : State :=
  if !listedSource n then s
  else
    let rig := 128 ≤ n && n < 192
    let old := (tfind s.evt.route n).getD (resetRoute n)
    let low : BitVec 16 := if rig then (w.truncate 16 &&& 0xC000) ||| (old &&& 0x3FFF) else w.truncate 16 &&& 0xC7FF
    let s := s.rerouted n fun s => { s with evt := { s.evt with route := tset (resetRoute n) s.evt.route n low } }
    if rig then
      { s with evt := { s.evt with cause := tset 0 s.evt.cause (n - 128) (tget (0 : BitVec 16) s.evt.cause (n - 128) &&& ~~~(w.extractLsb' 16 16)) } }
    else s

/-- An EVT_ROUTE entry as it reads. -/
def State.routeRead (s : State) (n : Nat) : Nat :=
  if !listedSource n then 0
  else (s.route n).toNat + (if 128 ≤ n && n < 192 then (tget (0 : BitVec 16) s.evt.cause (n - 128)).toNat * 65536 else 0)

/-! ### Reads (R545) -/

/-- Word i of a bit vector of sources. -/
def evtWord (b : BitVec 2048) (i : Nat) : Nat := bits b.toNat (64 * i + 63) (64 * i)

/-- An aligned 8-byte read of the EVT block at an offset within it (Tables 21-2 to 21-5). -/
def State.evtRead (s : State) (o : Nat) : Nat :=
  let i := o % 0x100 / 8
  if o < 0x200 then evtWord (s.evt.mask &&& sourceBits ((List.range 64).map (· + 64 * i) |>.filter listedSource)) i
  else if o < 0x400 then evtWord s.evt.pend i
  else if o < 0x500 then maskOf 64 fun j => s.deliverable (64 * i + j)
  else if 0x1000 ≤ o && o < 0x3000 then
    let n := (o - 0x1000) / 4
    s.routeRead n + 2 ^ 32 * s.routeRead (n + 1)
  else if 0x3000 ≤ o && o < 0x3800 then leNat ((List.range 8).map fun b => tget (0 : BitVec 8) s.evt.hold (o - 0x3000 + b))
  else if o = 0x3800 then s.evt.idle.toNat
  else if 0x3900 ≤ o && o < 0x3940 then (s.reg (0x060000 + o)).toNat
  else 0

/-- EVT_READ: an aligned 8-byte read at a BAR0 offset in the EVT block (R545). Messages that have started have been sent. -/
def execEvtRead (off : Nat) (s : State) : Out :=
  if s.bar0On 0x060000 && 0x060000 ≤ off && off < 0x070000 && off % 8 = 0 then
    .next { s with rsp := some (leBytes 8 (s.evtRead (off - 0x060000)), false) }
  else .next s

/-! ### MSI-X masks (R546) -/

/-- Messages held in the pending-bit array leave once neither mask holds them. -/
def State.releaseMsix (s : State) (vs : List Nat) : State :=
  s.each vs fun s v =>
    if s.evt.pba.getLsbD v && !s.evt.fnMask && !s.evt.vecMask.getLsbD v then
      { s with evt := { s.evt with pba := s.evt.pba &&& ~~~(BitVec.twoPow 2048 v), sent := s.evt.sent ++ [v] } }
    else s

/-- The vector masks after a write of one. -/
def Evt.withMask (e : Evt) (v : Nat) (m : Bool) : Evt :=
  { e with vecMask := if m then e.vecMask ||| BitVec.twoPow 2048 v else e.vecMask &&& ~~~(BitVec.twoPow 2048 v) }

/-- MSIX_MASK_WRITE (R352, R353, R546): the function mask, which configuration requests reach, or the mask of a vector's entry in BAR2,
alone or with its message. Before ready none is answered; in FAILED no access to BAR2 is. -/
def execMsixMaskWrite (w : MsixWrite) (m : Bool) (s : State) : Out :=
  match w with
  | .fn =>
    .next (if s.boot.link && (s.boot.ph = 5 || s.boot.ph = 6) then
      ({ s with evt := { s.evt with fnMask := m } } : State).releaseMsix (List.range 2048) else s)
  | .vec v =>
    .next (if s.boot.link && s.boot.ph = 5 then ({ s with evt := s.evt.withMask v m } : State).releaseMsix [v.val] else s)
  | .entry v addr data =>
    .next (if s.boot.link && s.boot.ph = 5 then
      ({ s with evt := { s.evt.withMask v m with msg := tset 0 s.evt.msg v.val (data ++ addr) } } : State).releaseMsix [v.val] else s)

/-! ### The crow's nest (R553) -/

/-- Entry e of NEST_SEL. -/
def State.nestEntry (s : State) (e : Nat) : Nat := bits (s.reg (nestSel + 8 * (e / 4))).toNat (16 * (e % 4) + 15) (16 * (e % 4))

/-- The crow's nest watches a source: those of entries 0 to 7, or one of an enabled entry 8 to 31 (Table 21-5). -/
def State.watched (s : State) (n : Nat) : Bool :=
  [0, 1, 3, 8, 9, 10, 11, 256].contains n ||
    (listedSource n && ((List.range 24).map (· + 8)).any fun e => bit (s.nestEntry e) 15 && bits (s.nestEntry e) 10 0 = n)

/-- CROWS_NEST_WAKE: a watched source is raised. DESIGN CHOICE: log entry 47. -/
def execCrowsNestWake (n : SourceId) (s : State) : Out :=
  if !s.watched n then .next s
  else
    match s.nest.sheet with
    | .waiting => .next s.wakeSheet
    | .takeover => .next { s with nest := { s.nest with latched := s.nest.latched ++ [n.val] } }
    | .notStarted => .next { s with nest := { s.nest with latched := s.nest.latched ++ [n.val] } }
    | _ => .next s

end Sys2Proof.Machine
end

