-- ==== Sys2Proof/Machine/Registers.lean ====
section
/-! DEFINITION. Host writes of BAR0 registers (R10, R11, R564, R565; Tables 23-2 to 23-15): the bytes an access addresses, the
fields a write stores, and the registers whose bits act. -/

namespace Sys2Proof.Machine

/-- A host access to a BAR0 register: the eight bytes it falls in, the bits it addresses, and the bits written there. -/
structure RegAcc where
  off : Nat
  be : BitVec 64
  v : BitVec 64
deriving DecidableEq, Repr

/-- The access a write makes: 4 or 8 bytes, naturally aligned; another one has no effect (R10, R11). DEDUCED: log entry 58. -/
def regAcc (off size : Nat) (val : BitVec 64) : Option RegAcc :=
  if size = 8 && off % 8 = 0 then some ⟨off, BitVec.allOnes 64, val⟩
  else if size = 4 && off % 8 = 0 then some ⟨off, 0xFFFFFFFF, val &&& 0xFFFFFFFF⟩
  else if size = 4 && off % 8 = 4 then some ⟨off - 4, 0xFFFFFFFF00000000, val <<< 32⟩
  else none

/-- The access addresses byte b. -/
def RegAcc.has (x : RegAcc) (b : Nat) : Bool := x.be.getLsbD (8 * b)
/-- A bit that is addressed and written one. -/
def RegAcc.one (x : RegAcc) (i : Nat) : Bool := x.be.getLsbD i && x.v.getLsbD i
/-- A word with the addressed bytes replaced by those written. -/
def RegAcc.merge (x : RegAcc) (old : BitVec 64) : BitVec 64 := (old &&& ~~~x.be) ||| (x.v &&& x.be)

/-- Store the fields of a mask; the others keep their value. -/
def State.putFields (s : State) (x : RegAcc) (mask : BitVec 64) : State :=
  s.setReg x.off ((s.reg x.off &&& ~~~mask) ||| (x.merge (s.reg x.off) &&& mask))

/-! ### Blocks -/

/-- DEV (Tables 19-5, 19-7). -/
def State.writeDev (s : State) (x : RegAcc) : State :=
  match x.off with
  | 0x18 => s.putFields x 0x3FF
  | 0x20 => if x.one 24 then s.forceWrite else s
  | _ => s

/-- STRM (Tables 13-3 to 13-7): while EN is 1 the ring's registers keep their values; ABORT, RESUME and EN act.
DEDUCED: log entry 35. -/
def State.writeStrm (s : State) (x : RegAcc) : State :=
  let n := (x.off - 0x010000) / 0x40
  let ring (mask : BitVec 64) : State := if (s.strm n).en then s else s.putFields x mask
  if 256 ≤ n then s
  else
    match (x.off - 0x010000) % 0x40 with
    | 0x00 => ring 0xFFFFFFFFFFFFF000
    | 0x08 => ring 0x1F
    | 0x10 => ring 0xFFFFFFFFFFFFFFC0
    | 0x18 => ring 0xFFFFFFFFFFFFF000
    | 0x28 => ring 0xFF
    | 0x20 =>
      let s := if x.one 2 && s.bar0On x.off then s.strmAbort n else s
      let s := if x.one 1 && s.bar0On x.off then s.strmResume n else s
      if x.has 0 then s.strmEn n (x.v.getLsbD 0) else s
    | _ => s

/-- RIG (Tables 15-9, 15-10): RSEL, and the power share (R349, R410). -/
def State.writeRig (s : State) (x : RegAcc) : State :=
  let r := (x.off - 0x020000) / 0x100
  if 64 ≤ r then s
  else
    match (x.off - 0x020000) % 0x100 with
    | 0x88 => s.putFields x 0x1FF
    | 0x98 =>
      if x.has 0 then s.writeShare r (bits x.v.toNat 9 0) else s
    | _ => s

/-- PWR (Tables 16-2, 16-9, 17-11, 17-12). -/
def State.writePwr (s : State) (x : RegAcc) : State :=
  match x.off with
  | 0x030020 =>
    let s := s.putFields x 0x3
    let s := if x.one 2 then s.consClear else s
    if x.one 3 then s.emergClear else s
  | 0x030028 =>
    let s := s.putFields x 0xFF
    { s with pwr := { s.pwr with below := s.pwr.below && !x.one 57 } }
  | 0x030030 =>
    { s with pwr := { s.pwr with
        alost := s.pwr.alost && !x.one 11
        blost := s.pwr.blost && !x.one 10
        clost := s.pwr.clost && !x.one 9 } }
  | 0x030038 =>
    let s := s.putFields x 0x1FF
    { s with pwr := { s.pwr with chg := s.pwr.chg && !x.one 32 } }
  | _ => s

/-- THERM (Tables 17-13, 17-15): a write that would give a limit an unlisted value is ignored. -/
def State.writeTherm (s : State) (x : RegAcc) : State :=
  match x.off with
  | 0x040000 =>
    let s := s.putFields x 0xFF
    { s with therm := { s.therm with tripped := s.therm.tripped && !x.one 13, limit := s.therm.limit && !x.one 12 } }
  | 0x040008 =>
    let w := (x.merge (s.reg x.off)).toNat
    let j := bits w 23 16
    let d := bits w 15 8
    if 70 ≤ j && j ≤ 104 && 70 ≤ d && d ≤ 94 then s.putFields x 0xFFFF00 else s
  | 0x040018 =>
    { s with therm := { s.therm with loss := s.therm.loss && !x.one 13, mdis := s.therm.mdis && !x.one 10 } }
  | 0x040020 =>
    let w := (x.merge (s.reg x.off)).toNat
    let f := bits w 43 32
    let p := bits w 15 8
    if 100 ≤ f && f ≤ 2000 && 61 ≤ p && p ≤ 95 then s.putFields x 0x00000FFF0000FF01 else s
  | _ => s

/-- RAS (Tables 18-3, 18-5a, 18-7). -/
def State.writeRas (s : State) (x : RegAcc) : State :=
  match x.off with
  | 0x050000 => { s with ras := { s.ras with flipMask := x.merge s.ras.flipMask } }
  | 0x050008 =>
    let keep := s.ras.flipTgt &&& flipFields
    s.flipTgtWrite ((x.merge keep &&& ~~~(BitVec.twoPow 64 62)) ||| (if x.one 62 then BitVec.twoPow 64 62 else 0))
  | 0x050010 =>
    let s : State := { s with ras := { s.ras with wrap := s.ras.wrap && !x.one 7 } }
    if x.one 0 then s.ceClr else s
  | 0x050018 => { s with ras := { s.ras with lost := s.ras.lost && !x.one 0 } }
  | 0x050020 => s.putFields x 0x0000FFFFFFFFF000
  | 0x050028 => s.putFields x 0x000000FFFFFFF000
  | 0x050030 =>
    let s : State := { s with scrub := { s.scrub with
      nofix := if x.has 0 then x.v.getLsbD 3 else s.scrub.nofix
      done := s.scrub.done && !x.one 2 } }
    if x.one 0 then s.scrubGo s.scrub.nofix else s
  | _ => s

/-- EVT (Tables 21-2 to 21-5): each element acts alone (R564). -/
def State.writeEvt (s : State) (x : RegAcc) : State :=
  let o := x.off - 0x060000
  let i := o % 0x100 / 8
  let w := x.v &&& x.be
  if o < 0x100 then s.maskSet i w
  else if o < 0x200 then s.maskClr i w
  else if o < 0x300 then s.pendSet i w
  else if o < 0x400 then s.pendClr i w
  else if 0x1000 ≤ o && o < 0x3000 then
    let n := (o - 0x1000) / 4
    let s := if x.has 0 then s.routeWrite n (x.v.truncate 32) else s
    if x.has 4 then s.routeWrite (n + 1) (x.v.extractLsb' 32 32) else s
  else if 0x3000 ≤ o && o < 0x3800 then
    s.each ((List.range 8).filter x.has) fun s b =>
      { s with evt := { s.evt with hold := tset 0 s.evt.hold (o - 0x3000 + b) (x.v.extractLsb' (8 * b) 8) } }
  else if o = 0x3800 then s.idleWrite (x.merge s.evt.idle) s.evt.now
  else if 0x3910 ≤ o && o < 0x3940 then s.putFields x 0x87FF87FF87FF87FF
  else s

/-- LLC (Tables 8-1, 8-2, 8-5, 8-9). -/
def State.writeLlc (s : State) (x : RegAcc) : State :=
  match x.off with
  | 0x070000 => s.hashKeyWrite (x.merge (s.llc.staged.getD s.llc.key))
  | 0x070008 => s.llcModeWrite (x.merge (s.reg x.off))
  | 0x070010 => s.putFields x 0xFF070F
  | 0x070018 => { s with hot := { s.hot with hot := s.hot.hot && !x.one 32 } }
  | _ => s

/-- NET (Tables 11-6, 11-8). -/
def State.writeNet (s : State) (x : RegAcc) : State :=
  match x.off with
  | 0x080000 => s.putFields x 0x70000FFFC
  | 0x080008 =>
    let s := s.putFields x 0xFF
    { s with net := { s.net with hot := s.net.hot && !x.one 31 } }
  | _ => s

/-- CASC (Tables 14-6, 14-7, 14-10): PEN acts on the ports, whose connectors report their peers. -/
def State.writeCasc (s : State) (x : RegAcc) : State :=
  if x.off = 0x090000 then
    let s := s.putFields x 0xFF00FF0000000000
    if x.has 0 then
      s.portEnable (x.v.truncate 6) (BitVec.ofNat 6 (maskOf 6 fun p => (s.port p).present))
    else s
  else if x.off = 0x090008 then (if x.has 0 then s.rankWrite (x.v.truncate 6) else s)
  else if 0x091000 ≤ x.off && x.off < 0x091400 then
    let i := x.off % 0x40 / 8
    if i < 4 then s.putFields x (BitVec.allOnes 64) else if i = 4 then s.putFields x 0x3 else s
  else s

/-- SEC (Table 20-5). -/
def State.writeSec (s : State) (x : RegAcc) : State :=
  let hold (mask : BitVec 64) : State := if s.sec.busy then s else s.putFields x mask
  match x.off with
  | 0x0A0000 => if x.has 0 then s.mboxOp (x.v.truncate 8) else s
  | 0x0A0008 => hold (BitVec.allOnes 64)
  | 0x0A0010 => hold 0xFFFFFFFF
  | 0x0A0018 => hold 1
  | _ => s

/-- TEST (Tables 22-4, 22-5): EN 1 enters; EN 0 leaves a running loop-back, and otherwise stores the fields. -/
def State.writeTest (s : State) (x : RegAcc) : State :=
  let i := (x.off - 0x0B0000) / 8
  if x.off = 0x0B0100 then s.putFields x 0x1F
  else if 20 ≤ i then s
  else
    let l := s.loop i
    let w := x.merge l.ctl
    if l.st = 1 || l.st = 2 || l.st = 3 then (if x.has 0 && !x.v.getLsbD 0 then s.loopLeave i else s)
    else if w.getLsbD 0 then s.loopEnter i w
    else s.setLoop i { l with ctl := w &&& loopFields }

/-- CTR (Tables 12-8, 12-9). -/
def State.writeCtr (s : State) (x : RegAcc) : State :=
  match x.off with
  | 0x0C0000 => s.putFields x 0xFFFF00FF00000003
  | 0x0C0008 => s.putFields x 0x3F
  | _ => s

/-- AGE (Table 18-11). -/
def State.writeAge (s : State) (x : RegAcc) : State :=
  if x.off = ageStat then
    let clear : BitVec 64 := (if x.one 2 then 4 else 0) ||| (if x.one 1 then 2 else 0)
    let s := s.setReg ageStat (s.reg ageStat &&& ~~~clear)
    if x.one 0 then s.marginPlan false allYards else s
  else s

/-- A write performed at a register (Table 23-1). DEDUCED: log entry 58. -/
def State.regWrite (s : State) (x : RegAcc) : State :=
  match x.off / 0x10000 with
  | 0x0 => s.writeDev x
  | 0x1 => s.writeStrm x
  | 0x2 => s.writeRig x
  | 0x3 => s.writePwr x
  | 0x4 => s.writeTherm x
  | 0x5 => s.writeRas x
  | 0x6 => s.writeEvt x
  | 0x7 => s.writeLlc x
  | 0x8 => s.writeNet x
  | 0x9 => s.writeCasc x
  | 0xA => s.writeSec x
  | 0xB => s.writeTest x
  | 0xC => s.writeCtr x
  | 0xD => s.writeAge x
  | _ => s

/-- STRM_CTL takes a write in the FAILED state too, which refuses EN (R515). -/
def regOpen (s : State) (off : Nat) : Bool :=
  s.bar0On off || (0x010000 ≤ off && off < 0x014000 && (off - 0x010000) % 0x40 = 0x20 && s.strmOn)

/-- REGISTER_WRITE (R10, R11). -/
def execRegisterWrite (off size : Nat) (val : BitVec 64) (s : State) : Out :=
  match regAcc off size val with
  | some x => .next (if regOpen s x.off then s.regWrite x else s)
  | none => .next s

end Sys2Proof.Machine
end

