-- ==== Sys2Proof/Machine/Dispatch.lean ====
section
/-! DEFINITION. The dispatcher: one arm per command, each a direct call of its meaning. -/

namespace Sys2Proof.Machine

/-- Carry out one command on everything but the queue. DESIGN CHOICE: log entry 61. -/
def exec (i : Instr) (s : State) : Host.Outcome State Fault Refusal :=
  match i with
  | .ld c f => Sys2Proof.Machine.execLd c f s
  | .st c f => Sys2Proof.Machine.execSt c f s
  | .add c f => Sys2Proof.Machine.execAdd c f s
  | .sub c f => Sys2Proof.Machine.execSub c f s
  | .mul c f => Sys2Proof.Machine.execMul c f s
  | .and c f => Sys2Proof.Machine.execAnd c f s
  | .or c f => Sys2Proof.Machine.execOr c f s
  | .xor c f => Sys2Proof.Machine.execXor c f s
  | .shl c f => Sys2Proof.Machine.execShl c f s
  | .shr c f => Sys2Proof.Machine.execShr c f s
  | .cmp c f => Sys2Proof.Machine.execCmp c f s
  | .mov c f => Sys2Proof.Machine.execMov c f s
  | .dset c f => Sys2Proof.Machine.execDset c f s
  | .br c f => Sys2Proof.Machine.execBr c f s
  | .brp c f => Sys2Proof.Machine.execBrp c f s
  | .call c f => Sys2Proof.Machine.execCall c f s
  | .ret c f => Sys2Proof.Machine.execRet c f s
  | .dmaCp c f => Sys2Proof.Machine.execDmaCp c f s
  | .dmaSkew c f => Sys2Proof.Machine.execDmaSkew c f s
  | .redLlc c f => Sys2Proof.Machine.execRedLlc c f s
  | .dead c f => Sys2Proof.Machine.execDead c f s
  | .halRd c f => Sys2Proof.Machine.execHalRd c f s
  | .halWr c f => Sys2Proof.Machine.execHalWr c f s
  | .mxload c f => Sys2Proof.Machine.execMxload c f s
  | .mma c f => Sys2Proof.Machine.execMma c f s
  | .mmaT c f => Sys2Proof.Machine.execMmaT c f s
  | .accClr c f => Sys2Proof.Machine.execAccClr c f s
  | .accRd c f => Sys2Proof.Machine.execAccRd c f s
  | .vopLd c f => Sys2Proof.Machine.execVopLd c f s
  | .vopSt c f => Sys2Proof.Machine.execVopSt c f s
  | .vopMov c f => Sys2Proof.Machine.execVopMov c f s
  | .vopBcast c f => Sys2Proof.Machine.execVopBcast c f s
  | .vopAdd c f => Sys2Proof.Machine.execVopAdd c f s
  | .vopSub c f => Sys2Proof.Machine.execVopSub c f s
  | .vopMul c f => Sys2Proof.Machine.execVopMul c f s
  | .vopFma c f => Sys2Proof.Machine.execVopFma c f s
  | .vopMax c f => Sys2Proof.Machine.execVopMax c f s
  | .vopMin c f => Sys2Proof.Machine.execVopMin c f s
  | .vopAbs c f => Sys2Proof.Machine.execVopAbs c f s
  | .vopNeg c f => Sys2Proof.Machine.execVopNeg c f s
  | .vopAnd c f => Sys2Proof.Machine.execVopAnd c f s
  | .vopOr c f => Sys2Proof.Machine.execVopOr c f s
  | .vopXor c f => Sys2Proof.Machine.execVopXor c f s
  | .vopShl c f => Sys2Proof.Machine.execVopShl c f s
  | .vopShr c f => Sys2Proof.Machine.execVopShr c f s
  | .vopCvt c f => Sys2Proof.Machine.execVopCvt c f s
  | .vopRsum c f => Sys2Proof.Machine.execVopRsum c f s
  | .vopRmax c f => Sys2Proof.Machine.execVopRmax c f s
  | .vopPerm c f => Sys2Proof.Machine.execVopPerm c f s
  | .vnormRms c f => Sys2Proof.Machine.execVnormRms c f s
  | .sfuTanh c f => Sys2Proof.Machine.execSfuTanh c f s
  | .sfuSig c f => Sys2Proof.Machine.execSfuSig c f s
  | .sfuExp2 c f => Sys2Proof.Machine.execSfuExp2 c f s
  | .sfuRsq c f => Sys2Proof.Machine.execSfuRsq c f s
  | .sfuRcp c f => Sys2Proof.Machine.execSfuRcp c f s
  | .selTopk c f => Sys2Proof.Machine.execSelTopk c f s
  | .selMerge c f => Sys2Proof.Machine.execSelMerge c f s
  | .lkuLoad c f => Sys2Proof.Machine.execLkuLoad c f s
  | .lkuSwap c f => Sys2Proof.Machine.execLkuSwap c f s
  | .lkuPq c f => Sys2Proof.Machine.execLkuPq c f s
  | .fenceL c f => Sys2Proof.Machine.execFenceL c f s
  | .fenceR c f => Sys2Proof.Machine.execFenceR c f s
  | .invL1 c f => Sys2Proof.Machine.execInvL1 c f s
  | .bar c f => Sys2Proof.Machine.execBar c f s
  | .wait c f => Sys2Proof.Machine.execWait c f s
  | .waitSignal c f => Sys2Proof.Machine.execWaitSignal c f s
  | .waitall c f => Sys2Proof.Machine.execWaitall c f s
  | .signal c f => Sys2Proof.Machine.execSignal c f s
  | .signalEv c f => Sys2Proof.Machine.execSignalEv c f s
  | .issueResume c => Sys2Proof.Machine.execIssueResume c s
  | .engineOpStart c e => Sys2Proof.Machine.execEngineOpStart c e s
  | .engineOpComplete c e n => Sys2Proof.Machine.execEngineOpComplete c e n s
  | .stopDrainDone c => Sys2Proof.Machine.execStopDrainDone c s
  | .dispatch c => Sys2Proof.Machine.execDispatch c s
  | .coreEndReport c => Sys2Proof.Machine.execCoreEndReport c s
  | .stopReport c => Sys2Proof.Machine.execStopReport c s
  | .signalOrArrival c => Sys2Proof.Machine.execSignalOrArrival c s
  | .barrierArrival c => Sys2Proof.Machine.execBarrierArrival c s
  | .barrierRelease r g => Sys2Proof.Machine.execBarrierRelease r g s
  | .coreMarkedDown c => Sys2Proof.Machine.execCoreMarkedDown c s
  | .llcRequest who cls a op => Sys2Proof.Machine.execLlcRequest who cls a op s
  | .llcFillReturn line => Sys2Proof.Machine.execLlcFillReturn line s
  | .setWritten g => Sys2Proof.Machine.execSetWritten g s
  | .setWrittenReply g => Sys2Proof.Machine.execSetWrittenReply g s
  | .streamTrackerRelease n who => Sys2Proof.Machine.execStreamTrackerRelease n who s
  | .deadDrop g => Sys2Proof.Machine.execDeadDrop g s
  | .deadMarkAck g => Sys2Proof.Machine.execDeadMarkAck g s
  | .reductionApply line => Sys2Proof.Machine.execReductionApply line s
  | .forwardAck line => Sys2Proof.Machine.execForwardAck line s
  | .hostSnoopResponse a data => Sys2Proof.Machine.execHostSnoopResponse a data s
  | .hotSliceWindowEnd n occ => Sys2Proof.Machine.execHotSliceWindowEnd n occ s
  | .l1Fill c instr a => Sys2Proof.Machine.execL1Fill c instr a s
  | .lockerRemoteAccess who c off op => Sys2Proof.Machine.execLockerRemoteAccess who c off op s
  | .halyardCrcRetry c dir wire win => Sys2Proof.Machine.execHalyardCrcRetry c dir wire win s
  | .tileRequest c mesh off op => Sys2Proof.Machine.execTileRequest c mesh off op s
  | .refreshDue c b => Sys2Proof.Machine.execRefreshDue c b s
  | .refreshEnd c b => Sys2Proof.Machine.execRefreshEnd c b s
  | .trefiWindowEnd c t busy => Sys2Proof.Machine.execTrefiWindowEnd c t busy s
  | .hbmTrefiWindowEnd ch t => Sys2Proof.Machine.execHbmTrefiWindowEnd ch t s
  | .dutyWindowStart c => Sys2Proof.Machine.execDutyWindowStart c s
  | .dutyLimitReached c => Sys2Proof.Machine.execDutyLimitReached c s
  | .hbmChannelRequest a op => Sys2Proof.Machine.execHbmChannelRequest a op s
  | .bankmodeWrite c w => Sys2Proof.Machine.execBankmodeWrite c w s
  | .bankUnitModeEffect c b => Sys2Proof.Machine.execBankUnitModeEffect c b s
  | .bankNormalModeEffect c b => Sys2Proof.Machine.execBankNormalModeEffect c b s
  | .xpop c b w => Sys2Proof.Machine.execXpop c b w s
  | .i8dot c b w => Sys2Proof.Machine.execI8dot c b w s
  | .sumred c b w => Sys2Proof.Machine.execSumred c b w s
  | .bankFill c b w => Sys2Proof.Machine.execBankFill c b w s
  | .bankCopy c b w => Sys2Proof.Machine.execBankCopy c b w s
  | .topk32 c b w => Sys2Proof.Machine.execTopk32 c b w s
  | .chain c b w => Sys2Proof.Machine.execChain c b w s
  | .bitset c b w => Sys2Proof.Machine.execBitset c b w s
  | .bankUnitAbort c b => Sys2Proof.Machine.execBankUnitAbort c b s
  | .queuedCommandStart c b => Sys2Proof.Machine.execQueuedCommandStart c b s
  | .bankUnitCommandEnd c b => Sys2Proof.Machine.execBankUnitCommandEnd c b s
  | .safePoint c b upto => Sys2Proof.Machine.execSafePoint c b upto s
  | .chainStreamArrival c b => Sys2Proof.Machine.execChainStreamArrival c b s
  | .chainBreak c b => Sys2Proof.Machine.execChainBreak c b s
  | .flitRetransmission l dir wire win => Sys2Proof.Machine.execFlitRetransmission l dir wire win s
  | .stayLaneFailed n dir lane => Sys2Proof.Machine.execStayLaneFailed n dir lane s
  | .routerWindowEnd r loads temp => Sys2Proof.Machine.execRouterWindowEnd r loads temp s
  | .corePllLoss y => Sys2Proof.Machine.execCorePllLoss y s
  | .networkPllLoss y => Sys2Proof.Machine.execNetworkPllLoss y s
  | .networkPllRelock y ok => Sys2Proof.Machine.execNetworkPllRelock y ok s
  | .spreaderReferenceLoss m => Sys2Proof.Machine.execSpreaderReferenceLoss m s
  | .tailLineSnoop n r => Sys2Proof.Machine.execTailLineSnoop n r s
  | .fetchCommandLine n l1 l2 => Sys2Proof.Machine.execFetchCommandLine n l1 l2 s
  | .linePass now => Sys2Proof.Machine.execLinePass now s
  | .run => Sys2Proof.Machine.execRun s
  | .copyCommand => Sys2Proof.Machine.execCopyCommand s
  | .fillCommand => Sys2Proof.Machine.execFillCommand s
  | .scrub => Sys2Proof.Machine.execScrub s
  | .rerig plan => Sys2Proof.Machine.execRerig plan s
  | .rerigStart => Sys2Proof.Machine.execRerigStart s
  | .setcap => Sys2Proof.Machine.execSetcap s
  | .search => Sys2Proof.Machine.execSearch s
  | .rerankerDispatch r => Sys2Proof.Machine.execRerankerDispatch r s
  | .fence => Sys2Proof.Machine.execFence s
  | .table => Sys2Proof.Machine.execTable s
  | .perf => Sys2Proof.Machine.execPerf s
  | .keyopActivate => Sys2Proof.Machine.execKeyopActivate s
  | .keyopCascade => Sys2Proof.Machine.execKeyopCascade s
  | .keyopPin => Sys2Proof.Machine.execKeyopPin s
  | .reduce => Sys2Proof.Machine.execReduce s
  | .send => Sys2Proof.Machine.execSend s
  | .recv => Sys2Proof.Machine.execRecv s
  | .barrier => Sys2Proof.Machine.execBarrier s
  | .nop => Sys2Proof.Machine.execNop s
  | .planDispatch r now => Sys2Proof.Machine.execPlanDispatch r now s
  | .abortPoint r now => Sys2Proof.Machine.execAbortPoint r now s
  | .cmaxExpiry r now => Sys2Proof.Machine.execCmaxExpiry r now s
  | .faultIntervalStart f => Sys2Proof.Machine.execFaultIntervalStart f s
  | .faultIntervalEnd f => Sys2Proof.Machine.execFaultIntervalEnd f s
  | .floorChangeEffect => Sys2Proof.Machine.execFloorChangeEffect s
  | .completionRecordWrite n now acc reef => Sys2Proof.Machine.execCompletionRecordWrite n now acc reef s
  | .hostMemRead a n => Sys2Proof.Machine.execHostMemRead a n s
  | .hostMemWrite a bs poison => Sys2Proof.Machine.execHostMemWrite a bs poison s
  | .configRequest q => Sys2Proof.Machine.execConfigRequest s q
  | .strmCtlEn n en r => Sys2Proof.Machine.execStrmCtlEn n en s r
  | .strmCtlResume n => Sys2Proof.Machine.execStrmCtlResume n s
  | .strmCtlAbort n => Sys2Proof.Machine.execStrmCtlAbort n s
  | .portEnable pen present => Sys2Proof.Machine.execPortEnable pen present s
  | .cascRankWrite r => Sys2Proof.Machine.execCascRankWrite r s
  | .pahusRetransmission p => Sys2Proof.Machine.execPahusRetransmission p s
  | .pahusLaneFailed p lane => Sys2Proof.Machine.execPahusLaneFailed p lane s
  | .portTrainingDone p => Sys2Proof.Machine.execPortTrainingDone p s
  | .peerAttestationDone p digest signed rank port => Sys2Proof.Machine.execPeerAttestationDone p digest signed rank port s
  | .configurationReceived epoch master standby hasStandby nmem => Sys2Proof.Machine.execConfigurationReceived epoch master standby hasStandby nmem s
  | .heartbeatSend => Sys2Proof.Machine.execHeartbeatSend s
  | .heartbeatReceived epoch seq => Sys2Proof.Machine.execHeartbeatReceived epoch seq s
  | .heartbeatTimeout => Sys2Proof.Machine.execHeartbeatTimeout s
  | .delayProbeSend p t1 => Sys2Proof.Machine.execDelayProbeSend p t1 s
  | .delayProbeEcho p t2 h => Sys2Proof.Machine.execDelayProbeEcho p t2 h s
  | .barrierArrivalMessage rank tag released delay => Sys2Proof.Machine.execBarrierArrivalMessage rank tag released delay s
  | .cascadeReleaseSend tag rank now => Sys2Proof.Machine.execCascadeReleaseSend tag rank now s
  | .cascadeReleaseArrival tag rank due => Sys2Proof.Machine.execCascadeReleaseArrival tag s rank due
  | .rendezvous r send peer => Sys2Proof.Machine.execRendezvous r send peer s
  | .pahusPortDown p => Sys2Proof.Machine.execPahusPortDown p s
  | .energyAttribution yards others => Sys2Proof.Machine.execEnergyAttribution yards others s
  | .rigPwrShareWrite r w => Sys2Proof.Machine.execRigPwrShareWrite r w s
  | .feedLost b => Sys2Proof.Machine.execFeedLost b s
  | .feedGood b => Sys2Proof.Machine.execFeedGood b s
  | .converterFailed k => Sys2Proof.Machine.execConverterFailed k s
  | .regulatorCellFailed y => Sys2Proof.Machine.execRegulatorCellFailed y s
  | .pathRatioWindowEnd p samples => Sys2Proof.Machine.execPathRatioWindowEnd p samples s
  | .yardPowerOnRequest y => Sys2Proof.Machine.execYardPowerOnRequest y s
  | .neighbourWaitExpiry y => Sys2Proof.Machine.execNeighbourWaitExpiry y s
  | .yardRampStart y => Sys2Proof.Machine.execYardRampStart y s
  | .yardRampEnd y => Sys2Proof.Machine.execYardRampEnd y s
  | .fastGuardEstimate m est => Sys2Proof.Machine.execFastGuardEstimate m est s
  | .governorEvaluation t => Sys2Proof.Machine.execGovernorEvaluation t s
  | .dutyCycleFurl r begins => Sys2Proof.Machine.execDutyCycleFurl r begins s
  | .boostStep y => Sys2Proof.Machine.execBoostStep y s
  | .consSet diff => Sys2Proof.Machine.execConsSet diff s
  | .sensorSample x => Sys2Proof.Machine.execSensorSample x s
  | .modelEvaluation est => Sys2Proof.Machine.execModelEvaluation est s
  | .flowInference p tin tout => Sys2Proof.Machine.execFlowInference p tin tout s
  | .rasFliptgtWrite w => Sys2Proof.Machine.execRasFliptgtWrite w s
  | .scrubGo nofix => Sys2Proof.Machine.execScrubGo nofix s
  | .rowRepair c b row => Sys2Proof.Machine.execRowRepair c b row s
  | .llcWayRetire n way => Sys2Proof.Machine.execLlcWayRetire n way s
  | .hbmChannelRetrain ch ok within10s => Sys2Proof.Machine.execHbmChannelRetrain ch ok within10s s
  | .telltaleMeasurement y t => Sys2Proof.Machine.execTelltaleMeasurement y t s
  | .telltaleGuardRaise y limit => Sys2Proof.Machine.execTelltaleGuardRaise y limit s
  | .powerOn air => Sys2Proof.Machine.execPowerOn air s
  | .startupStepEnd e => Sys2Proof.Machine.execStartupStepEnd e s
  | .startupPause begins => Sys2Proof.Machine.execStartupPause begins s
  | .spdmRequest via q => Sys2Proof.Machine.execSpdmRequest via q s
  | .slhsigReq via transcript => Sys2Proof.Machine.execSlhsigReq via transcript s
  | .bindCmd sess ems => Sys2Proof.Machine.execBindCmd sess ems s
  | .endSession sess => Sys2Proof.Machine.execEndSession sess s
  | .spdmHeartbeatTimeout sess => Sys2Proof.Machine.execSpdmHeartbeatTimeout sess s
  | .eventRaise n => Sys2Proof.Machine.execEventRaise n s
  | .eventMessageSend v now => Sys2Proof.Machine.execEventMessageSend v now s
  | .holdoffExpiry v now => Sys2Proof.Machine.execHoldoffExpiry v now s
  | .evtMaskSet n w => Sys2Proof.Machine.execEvtMaskSet n w s
  | .evtMaskClr n w => Sys2Proof.Machine.execEvtMaskClr n w s
  | .evtPendSet n w => Sys2Proof.Machine.execEvtPendSet n w s
  | .evtPendClr n w => Sys2Proof.Machine.execEvtPendClr n w s
  | .evtIdleHintWrite w now => Sys2Proof.Machine.execEvtIdleHintWrite w now s
  | .evtRead off => Sys2Proof.Machine.execEvtRead off s
  | .crowsNestWake n => Sys2Proof.Machine.execCrowsNestWake n s
  | .loopEnter n w => Sys2Proof.Machine.execLoopEnter n w s
  | .loopLeave n => Sys2Proof.Machine.execLoopLeave n s
  | .loopDurationExpiry n errs time locked => Sys2Proof.Machine.execLoopDurationExpiry n errs time locked s
  | .loopFarEndTimeout n => Sys2Proof.Machine.execLoopFarEndTimeout n s
  | .llcHashKeyWrite k => Sys2Proof.Machine.execLlcHashKeyWrite k s
  | .llcModeSet w => Sys2Proof.Machine.execLlcModeSet w s
  | .registerWrite off size val => Sys2Proof.Machine.execRegisterWrite off size val s
  | .linkTrainingEnd cxl => Sys2Proof.Machine.execLinkTrainingEnd cxl s
  | .pldmRequest q => Sys2Proof.Machine.execPldmRequest q s
  | .msixMaskWrite w m => Sys2Proof.Machine.execMsixMaskWrite w m s
  | .delayProbeReceived p arrive leave => Sys2Proof.Machine.execDelayProbeReceived p arrive leave s
  | .wireBlockArrival r data => Sys2Proof.Machine.execWireBlockArrival r data s
  | .storeAcknowledgement c => Sys2Proof.Machine.execStoreAcknowledgement c s
  | .hbmParityError ch win => Sys2Proof.Machine.execHbmParityError ch win s
  | .rowClose c b => Sys2Proof.Machine.execRowClose c b s
  | .mailboxOperationEnd img => Sys2Proof.Machine.execMailboxOperationEnd img s
  | .bothFeedsLost => Sys2Proof.Machine.execBothFeedsLost s
  | .consClear => Sys2Proof.Machine.execConsClear s
  | .thermalTrip => Sys2Proof.Machine.execThermalTrip s
  | .emergClear => Sys2Proof.Machine.execEmergClear s
  | .rasCeClr => Sys2Proof.Machine.execRasCeClr s
  | .scrubEnd => Sys2Proof.Machine.execScrubEnd s
  | .lockstepTakeover => Sys2Proof.Machine.execLockstepTakeover s
  | .marginPlan => Sys2Proof.Machine.execMarginPlan s
  | .recomp => Sys2Proof.Machine.execRecomp s
  | .deviceReset => Sys2Proof.Machine.execDeviceReset s
  | .ready => Sys2Proof.Machine.execReady s
  | .force => Sys2Proof.Machine.execForce s
  | .stage => Sys2Proof.Machine.execStage s
  | .recover => Sys2Proof.Machine.execRecover s
  | .sheetHoldoffExpiry => Sys2Proof.Machine.execSheetHoldoffExpiry s
  | .wakeTimerExpiry => Sys2Proof.Machine.execWakeTimerExpiry s
  | .watchdogExpiry => Sys2Proof.Machine.execWatchdogExpiry s
  | .perstRelease => Sys2Proof.Machine.execPerstRelease s
  | .flowMeterPulse => Sys2Proof.Machine.execFlowMeterPulse s
  | .standbyTakeoverDone => Sys2Proof.Machine.execStandbyTakeoverDone s

end Sys2Proof.Machine
end

