-- ==== Sys2Proof/Machine/Step.lean ====
section
/-! DEFINITION. One step: the command at the front of the queue is carried out on the state with the queue's rest;
with an empty queue the block idles. -/

namespace Sys2Proof.Machine

/-- Take the command at the front of the queue and carry it out; with no command waiting, idle (log entry 12).
DESIGN CHOICE: log entry 1. -/
def step (s : State) : Host.Outcome State Fault Refusal :=
  match s.pending with
  | [] => .next s
  | c :: cs => exec c { s with pending := cs }

/-- The state with the command that a word spells put at the front of the queue. DESIGN CHOICE: log entry 12. -/
def State.withFetchWord (s : State) (nbits w : Nat) : State :=
  match Sys2Proof.decodeTableWord nbits w with
  | none => s
  | some c => { s with pending := c :: s.pending }

end Sys2Proof.Machine
end

