-- ==== Sys2Proof/Machine/RegRead.lean ====
section
/-! DEFINITION. What a host reads at a BAR0 offset (R10, R11, R564, R567, R568; Tables 23-2 to 23-15): each field from the part
of the state that holds it. A read changes nothing, so no row of the table is a read of a register but EVT_READ. -/

namespace Sys2Proof.Machine

/-- A field at bit lo of n bits. -/
def fld (lo n v : Nat) : Nat := v % 2 ^ n * 2 ^ lo
/-- A signed field at bit lo of n bits. -/
def sfld (lo n : Nat) (v : Int) : Nat := (v % (2 ^ n : Nat)).toNat * 2 ^ lo
/-- A bit. -/
def flg (lo : Nat) (b : Bool) : Nat := b2n b * 2 ^ lo

/-! ### DEV -/

/-- Physical ways of a slice in service, 0 to 16 (R493, Table 19-7). -/
def Llc.waysOn (l : Llc) (slice : Nat) : Nat :=
  let lost := tget 0 l.retired slice
  let spare := tget none l.spareFor slice
  maskOf 17 fun w =>
    if w < 16 then !lost.getLsbD w && !decide (spare = some w)
    else match spare with | some i => decide (i < 16) && !lost.getLsbD i | none => false

/-- DATA of DEV_MAP for a unit (Table 19-7). -/
def State.mapData (s : State) (sel : Nat) : Nat :=
  if sel < 256 then
    let k := s.yard sel
    fld 52 4 k.cells + fld 34 18 k.work.toNat + fld 18 16 (maskOf 16 fun j => (s.tile (16 * sel + j)).half)
  else if sel < 264 then fld 24 32 (maskOf 32 fun c => !(s.chan (32 * (sel - 256) + c)).lost)
  else if sel < 268 then fld 40 16 (~~~(tget 0 s.net.out (sel - 264))).toNat
  else if sel < 274 then
    let k := s.port (sel - 268)
    fld 51 5 (popcount k.failed.toNat) + flg 50 k.present
  else if 384 ≤ sel && sel < 512 then fld 39 17 (s.llc.waysOn (sel - 384))
  else 0

/-- FW of DEV_REV: the version of the image that runs. -/
def Sec.fw (k : Sec) : Nat := match k.slot k.run with | some i => imageVer i | none => 0

/-- DEV block (Tables 19-5 to 19-7). -/
def State.readDev (s : State) (o : Nat) : Nat :=
  let b := s.boot
  match o with
  | 0x00 => fld 16 16 0x4608 + 0x0C7A
  | 0x08 => fld 24 8 Config.stepping.toNat + fld 0 24 s.sec.fw
  | 0x10 => flg 32 s.pwr.air + fld 16 16 384 + fld 0 16 4096
  | 0x18 =>
    let sel := bits (s.reg 0x18).toNat 9 0
    fld 56 8 b.gen.toNat + s.mapData sel + sel
  | 0x20 => fld 48 16 b.stime + fld 32 16 b.nfull + fld 16 8 b.cause.toNat + flg 8 b.fast + fld 4 4 b.step + fld 0 4 b.ph
  | 0x28 => Config.serial.toNat
  | _ => 0

/-! ### STRM and RIG -/

/-- STRM block (Tables 13-3 to 13-7). -/
def State.readStrm (s : State) (off : Nat) : Nat :=
  let n := (off - 0x010000) / 0x40
  let k := s.strm n
  if 256 ≤ n then 0
  else
    match (off - 0x010000) % 0x40 with
    | 0x20 => flg 0 k.en
    | 0x30 => fld 32 32 k.exp.toNat + fld 16 16 k.head.toNat + fld 8 8 k.out + fld 4 4 k.err.toNat + flg 1 k.halt + flg 0 k.act
    | 0x38 => 0
    | _ => (s.reg off).toNat

/-- Jury cores of a rig (R24). -/
def State.juryOf (s : State) (k : Rig) : Nat :=
  (idxs 4096 fun c => k.cores.getLsbD c &&
    (match s.columnOf c with | some p => (s.yard (yardOf c)).jury.contains p | none => false)).length

/-- RIG block (Tables 15-7 to 15-11). -/
def State.readRig (s : State) (off : Nat) : Nat :=
  let r := (off - 0x020000) / 0x100
  let o := (off - 0x020000) % 0x100
  let k := s.rig r
  if 64 ≤ r then 0
  else if o = 0 then fld 32 11 k.evec + fld 16 16 k.gen.toNat + fld 0 2 k.st
  else if 0x40 ≤ o && o < 0x80 then (k.cores.extractLsb' (8 * (o - 0x40)) 64).toNat
  else if o = 0x80 then k.ways.toNat
  else if o = 0x88 then
    let sel := bits (s.reg off).toNat 8 0
    fld 48 9 k.hbm + flg 40 (k.regions.getLsbD sel) + sel
  else if o = 0x90 then fld 32 9 k.pahus + fld 0 9 k.stay
  else if o = 0x98 then fld 0 10 k.pwr
  else if o = 0xA0 then
    fld 51 13 k.nc + fld 38 13 (idxs 4096 fun c => k.cores.getLsbD c && (s.core c).down).length +
      fld 29 9 (idxs 384 fun g => k.regions.getLsbD g).length + fld 16 13 (s.juryOf k) + fld 0 16 (satTo 0xFFFF k.rrtime)
  else 0

/-! ### PWR and THERM -/

/-- PWR_PATH_STAT (Table 16-9). -/
def State.readPath (s : State) : Nat :=
  let p := bits (s.reg 0x030038).toNat 8 0
  let k := s.path p
  flg 32 s.pwr.chg + p +
    (if 352 ≤ p then fld 34 2 3
     else
      fld 52 12 (satTo 0xFFF k.ratio.floor.toNat) + fld 40 12 ((if p < 256 then s.yardCeiling p else k.ceiling (ratedMa p)) / 100) +
        fld 36 4 (if p < 256 then (s.yard p).cells else 0) + fld 34 2 k.st.toNat)

/-- Reason for a yard's level (Table 17-12): 4 where a suspect layer holds it below its governed level. -/
def State.levelCause (s : State) (y : Nat) : Nat := if s.effLevel y ≠ (s.yard y).lvl then 4 else (s.yard y).cause

/-- PWR block (Tables 15-6, 16-2, 16-9, 17-8 to 17-12). -/
def State.readPwr (s : State) (off : Nat) : Nat :=
  let p := s.pwr
  let o := off - 0x030000
  match o with
  | 0x00 => fld 16 16 s.capEff.floor.toNat + fld 0 16 p.cap
  | 0x08 => fld 16 16 p.newFloor + fld 0 16 p.floor
  | 0x10 => fld 48 16 p.peak + fld 32 16 p.mean10 + fld 16 16 p.mean1 + fld 0 16 p.sample
  | 0x18 => fld 32 8 (satTo 255 p.diff) + fld 16 16 p.est1 + fld 0 16 p.est
  | 0x20 => flg 5 (p.duty != 0) + flg 4 p.air + flg 3 p.emerg + flg 2 p.cons + bits (s.reg off).toNat 1 0
  | 0x28 =>
    let y := bits (s.reg off).toNat 7 0
    flg 57 p.below + fld 48 9 ((List.range 256).filter fun i => decide (1 ≤ s.effLevel i)).length + fld 16 16 (s.yardMhz y) +
      fld 12 4 (s.levelCause y) + flg 11 ((s.yard y).lvl = 7 && (s.yard y).held) + fld 8 3 (s.effLevel y) + y
  | 0x30 =>
    fld 54 10 p.va + fld 44 10 p.vb + fld 34 10 p.ia + fld 24 10 p.ib + fld 20 4 p.conv.toNat + flg 11 p.alost + flg 10 p.blost +
      flg 9 p.clost + flg 8 p.limit + flg 5 p.feedA + flg 4 p.feedB + fld 0 3 p.converters
  | 0x38 => s.readPath
  | _ =>
    if 0x100 ≤ o && o < 0x300 then (tget 0 s.energyRig ((o - 0x100) / 8)).toNat
    else if 0x400 ≤ o && o < 0xC00 then (tget 0 s.energyStrm ((o - 0x400) / 8)).toNat
    else 0

/-- Own reading less model, in whole degrees (Table 17-14). -/
def Yard.delta (k : Yard) : Int := ((k.own : Int) - (k.model : Int)) / 10

/-- Largest difference of any yard, in degrees. -/
def State.maxDelta (s : State) : Nat := maxOf (s.yards.map fun e => if e.2.hasModel then e.2.delta.natAbs else 0)

/-- THERM block (Tables 17-13 to 17-15). -/
def State.readTherm (s : State) (off : Nat) : Nat :=
  let t := s.therm
  let y := bits (s.reg 0x040000).toNat 7 0
  let k := s.yard y
  match off - 0x040000 with
  | 0x00 =>
    fld 56 8 (s.hottest / 10) + fld 48 8 (s.hottestTile / 10) + fld 40 8 (maxOf (t.step.map (·.2)) / 10) + fld 32 8 (k.trusted / 10) +
      fld 24 8 (k.model / 10) + fld 16 8 (k.own / 10) + flg 15 k.susp + flg 14 k.tsusp + flg 13 t.tripped + flg 12 t.limit + y
  | 0x08 => (s.reg off).toNat
  | 0x10 =>
    fld 48 16 (maskOf 16 s.layerSuspect) + fld 40 8 s.maxDelta + sfld 32 8 (if k.hasModel then k.delta else 0) +
      fld 0 9 ((List.range 256).filter fun i => (s.yard i).susp).length
  | 0x18 =>
    fld 52 12 t.tin + fld 40 12 t.tout + fld 28 12 t.flow.floor.toNat + fld 16 12 (if s.meterOn then t.flowm else 0) + flg 15 t.warn +
      flg 14 t.cut + flg 13 t.loss + flg 12 t.inhot + flg 11 t.invalid + flg 10 t.mdis
  | 0x20 => (s.reg off).toNat
  | 0x28 => fld 32 32 t.large + fld 0 32 t.small
  | _ => 0

/-! ### RAS, LLC, NET, CASC, SEC, TEST, CTR, AGE -/

/-- A word of RAS_CE_TABLE (Table 18-4). -/
def CeEnt.word (e : CeEnt) (second : Bool) : Nat :=
  if second then fld 32 32 e.stamp + fld 16 16 e.count + fld 8 8 e.pos + flg 0 e.repaired
  else fld 60 4 e.kind + fld 48 12 e.unit + fld 0 48 e.addr

/-- RAS block (Tables 18-3 to 18-7, R497). DEDUCED: log entry 71. -/
def State.readRas (s : State) (off : Nat) : Nat :=
  let r := s.ras
  let c := s.scrub
  let o := off - 0x050000
  match o with
  | 0x00 => r.flipMask.toNat
  | 0x08 => r.flipTgt.toNat
  | 0x10 => fld 24 40 r.ce + fld 8 8 r.next + flg 7 r.wrap
  | 0x18 => fld 32 32 r.ue + fld 28 4 r.ueKind + fld 16 12 r.ueUnit + fld 2 7 r.lslice + flg 1 r.lostDir + flg 0 r.lost
  | 0x20 => (s.reg off).toNat
  | 0x28 => (s.reg off).toNat
  | 0x30 => fld 8 8 c.status.toNat + flg 3 c.nofix + flg 2 c.done + flg 1 c.busy
  | _ =>
    if 0x40 ≤ o && o < 0x60 then (c.sum.getD ((o - 0x40) / 8) 0).toNat
    else if 0x80 ≤ o && o < 0x280 then maskOf 64 fun j => (s.core (8 * (o - 0x80) + j)).down
    else if 0x1000 ≤ o && o < 0x2000 then
      match tfind r.table ((o - 0x1000) / 16) with | some e => e.word (o % 16 = 8) | none => 0
    else 0

/-- LLC block (Tables 8-1, 8-2, 8-4, 8-5, 8-9). -/
def State.readLlc (s : State) (off : Nat) : Nat :=
  let l := s.llc
  let o := off - 0x070000
  match o with
  | 0x08 =>
    let w := (s.reg off).toNat
    let g := bits w 8 0
    let m : BitVec 2 := if g < 384 then tget 0 l.rmode g else 0
    flg 63 l.staged.isSome + flg 25 (m.getLsbD 1) + flg 24 (m.getLsbD 0) + flg 20 (bit w 20) +
      flg 19 (g < 384 && (tget none l.rstage g).isSome) + g
  | 0x10 => (s.reg off).toNat
  | 0x18 => fld 48 16 s.hot.count + flg 32 s.hot.hot + fld 16 8 s.hot.occ + fld 0 7 s.hot.slice
  | _ =>
    if 0x100 ≤ o && o < 0x128 then (tget 0 l.hits ((o - 0x100) / 8)).toNat
    else if 0x180 ≤ o && o < 0x1A8 then (tget 0 l.misses ((o - 0x180) / 8)).toNat
    else 0

/-- The router NET_LOAD selects, if it names one (Table 11-6). -/
def loadRouter (w : Nat) : Option Router :=
  let m := bits w 14 13
  if bit w 15 then some ⟨true, 32 * m + bits w 6 2⟩
  else if bits w 6 2 < 18 then some ⟨false, 288 * (4 * m + bits w 12 11) + 18 * bits w 10 7 + bits w 6 2⟩
  else none

/-- The latest window of a router. -/
def Net.window (n : Net) (r : Option Router) : List LinkLoad × Nat :=
  match n.loads.find? fun e => some e.1 = r with | some e => e.2 | none => ([], 0)

/-- NET block (Tables 11-6, 11-8). -/
def State.readNet (s : State) (off : Nat) : Nat :=
  let w := (s.reg off).toNat
  match off - 0x080000 with
  | 0x00 =>
    let l := (s.net.window (loadRouter w)).1.find? fun l =>
      l.dir.val = bits w 34 32 && (match loadRouter w with | some r => hasDir r l.dir.val | none => false)
    w + (match l with | some l => fld 56 8 l.out + fld 48 8 l.inn + fld 40 8 l.qmax | none => 0)
  | 0x08 =>
    let e := bits w 7 0
    let x := if (edgeRouter e).isSome then s.net.window (edgeRouter e) else ([], 0)
    fld 56 8 (if (edgeRouter e).isSome then tget 0 s.net.temp e / 10 else 0) + fld 48 8 (busiest x.1) + fld 32 16 s.net.hotcnt + flg 31 s.net.hot + fld 16 8 s.net.hotsel + e
  | _ => 0

/-- CASC block (Tables 14-6 to 14-10). -/
def State.readCasc (s : State) (off : Nat) : Nat :=
  let c := s.casc
  let o := off - 0x090000
  match o with
  | 0x00 => setBits (s.reg off).toNat 5 0 (maskOf 6 fun p => (s.port p).pen)
  | 0x08 => c.rank.toNat
  | 0x10 => fld 32 32 c.epoch.toNat + fld 24 6 c.nmem.toNat + fld 16 6 c.standby.toNat + fld 8 6 c.master.toNat + fld 0 2 c.role.toNat
  | _ =>
    if 0x40 ≤ o && o < 0x70 then
      let k := s.port ((o - 0x40) / 8)
      fld 48 16 (satTo 0xFFFF k.delay) + fld 42 6 k.peerRank.toNat + fld 39 3 k.peerPort.toNat + fld 23 16 (satTo 0xFFFF k.retry) +
        fld 4 5 (popcount k.failed.toNat) + flg 3 k.spare.isSome + fld 0 3 k.st.toNat
    else if 0x1000 ≤ o && o < 0x1400 && o % 0x40 ≤ 0x20 then (s.reg off).toNat
    else 0

/-- SVN of a slot, 0x7F where it holds no image that verifies (Table 20-7). -/
def Sec.svn (k : Sec) (b : Bool) : Nat :=
  match k.slot b with | some i => if imageVerifies i then imageSvn i else 0x7F | none => 0x7F

/-- SEC block (Tables 20-5, 20-7). -/
def State.readSec (s : State) (off : Nat) : Nat :=
  let k := s.sec
  match off - 0x0A0000 with
  | 0x000 => fld 56 8 k.result.toNat + flg 8 k.busy
  | 0x008 => (s.reg off).toNat
  | 0x010 => (s.reg off).toNat
  | 0x018 => (s.reg off).toNat
  | 0x100 => k.ctr.toNat
  | 0x108 =>
    fld 57 7 k.fuse + fld 50 7 (k.svn false) + fld 43 7 (k.svn true) + flg 42 k.run + flg 41 k.next + flg 40 k.commit +
      fld 36 4 k.sess.length + flg 35 k.bound.isSome + fld 24 8 k.last.toNat + fld 8 16 k.rej + maskOf 6 fun p => tget 0 k.pins p != 0
  | _ => 0

/-- TEST block (Tables 22-4, 22-5). -/
def State.readTest (s : State) (off : Nat) : Nat :=
  let i := (off - 0x0B0000) / 8
  if off = 0x0B0100 then
    let j := bits (s.reg off).toNat 4 0
    let l := s.loop j
    if 20 ≤ j then j
    else fld 40 24 (satTo 0xFFFFFF l.errs) + fld 24 16 (satTo 0xFFFF l.time) + fld 16 8 l.result.toNat + fld 8 8 l.st.toNat + j
  else if 20 ≤ i then 0
  else
    let l := s.loop i
    setBits (l.ctl &&& loopFields).toNat 0 0 (b2n (l.st = 1 || l.st = 2 || l.st = 3))

/-- A floor change, or a change of a share, is pending (R349). -/
def State.floorPend (s : State) : Bool := s.pwr.newFloor != 0 || (List.range 64).any fun r => (s.rig r).newPwr.isSome

/-- CTR block (Tables 12-8 to 12-11): FFLOOR and SFLOOR are what admission costs with. DESIGN CHOICE: log entry 17. -/
def State.readCtr (s : State) (off : Nat) : Nat :=
  match off - 0x0C0000 with
  | 0x00 => (s.reg off).toNat
  | 0x08 =>
    let r := bits (s.reg off).toNat 5 0
    let k := s.rig r
    let f := s.admFloors r
    fld 52 12 f.ff + fld 42 10 f.sf + fld 36 6 (k.plan.length + (match k.running with | some m => b2n m.r.contract | none => 0)) +
      fld 15 21 k.corpP + fld 9 6 k.corpM + flg 8 k.fault + flg 7 k.crig + flg 6 s.floorPend + r
  | 0x10 => s.adm.admits.toNat
  | 0x18 => s.adm.rejects.toNat
  | _ => 0

/-- AGE_TELLTALE of a yard (Table 18-10). -/
def Yard.telltale (k : Yard) : Nat :=
  sfld 48 16 k.slack + sfld 32 16 k.base + fld 24 8 k.temp + fld 16 8 (satTo 255 k.low) + sfld 8 8 (k.off + k.guard)

/-- An entry of AGE_MARGIN_PLAN (Table 18-11). -/
def Yard.planEntry (k : Yard) : Nat := fld 12 4 k.planned.2 + sfld 0 8 k.planned.1

/-- AGE block (Tables 18-10, 18-11). -/
def State.readAge (s : State) (off : Nat) : Nat :=
  let o := off - 0x0D0000
  if o < 0x800 then (s.yard (o / 8)).telltale
  else if o < 0xA00 then
    let y := (o - 0x800) / 2
    (s.yard y).planEntry + 2 ^ 16 * (s.yard (y + 1)).planEntry + 2 ^ 32 * (s.yard (y + 2)).planEntry + 2 ^ 48 * (s.yard (y + 3)).planEntry
  else if off = ageStat then
    let w := (s.reg ageStat).toNat
    setBits (setBits w 47 40 (satTo 255 ((List.range 256).filter fun y => (s.yard y).ceil ≠ 0).length)) 39 32
      (satTo 255 ((List.range 256).filter fun y => (s.yard y).retired).length)
  else 0

/-! ### Reads -/

/-- The word at an 8-byte-aligned offset of BAR0 (Table 23-1); zero where the device answers nothing there (R515, R568). -/
def State.readWord (s : State) (off : Nat) : Nat :=
  if !s.bar0On off then 0
  else
    match off / 0x10000 with
    | 0x0 => s.readDev off
    | 0x1 => s.readStrm off
    | 0x2 => s.readRig off
    | 0x3 => s.readPwr off
    | 0x4 => s.readTherm off
    | 0x5 => s.readRas off
    | 0x6 => s.evtRead (off - 0x060000)
    | 0x7 => s.readLlc off
    | 0x8 => s.readNet off
    | 0x9 => s.readCasc off
    | 0xA => s.readSec off
    | 0xB => s.readTest off
    | 0xC => s.readCtr off
    | 0xD => s.readAge off
    | _ => 0

/-- A host read of BAR0: 8 bytes, or 4, naturally aligned; zero for another access (R10, R11). DESIGN CHOICE: log entry 17. -/
def State.regRead (s : State) (off size : Nat) : BitVec 64 :=
  if size = 8 && off % 8 = 0 then BitVec.ofNat 64 (s.readWord off)
  else if size = 4 && off % 4 = 0 then BitVec.ofNat 64 (bits (s.readWord (off / 8 * 8)) (8 * (off % 8) + 31) (8 * (off % 8)))
  else 0

/-! ### Sideband pins (Table 24-4) -/

/-- THERMTRIP# is low: from a trip until power-on, held on VSTBY (R572). -/
def State.thermtripLow (s : State) : Bool := s.pwr.off && s.therm.tripped && s.pwr.rails.any fun x => x.rail = .vstby
/-- SMB_ALERT# is low: a PLDM event awaits retrieval (R572). -/
def State.smbAlertLow (s : State) : Bool := s.therm.events != []
/-- VSTBY_OK is high: the crow's nest runs (R572). -/
def State.vstbyOk (s : State) : Bool := s.pwr.rails.any fun x => x.rail = .vstby
/-- The device's address on the management bus, 0x60 + ADDR, the straps as sampled at power-on (R572, R573). -/
def smbAddr : Nat := 0x60 + Config.addrStraps.toNat

/-! ### BAR2 -/

/-- A word of the MSI-X table: the message address, then the message data and the vector mask (R352). PRESUMED: log entry 92. -/
def State.msixWord (s : State) (i : Nat) : Nat :=
  let v := i / 2
  let m : BitVec 96 := tget 0 s.evt.msg v
  if i % 2 = 0 then bits m.toNat 63 0 else fld 32 1 (b2n (s.evt.vecMask.getLsbD v)) + bits m.toNat 95 64

/-- A host read of BAR2, naturally aligned, 8 bytes or 4: the table of 2,048 entries of 16 bytes at 0x0000 and the pending-bit array at
0x8000 (R352, R353). -/
def State.bar2Read (s : State) (off size : Nat) : BitVec 64 :=
  let o := off / 8 * 8
  let w := if !s.boot.link || s.boot.ph ≠ 5 then 0 else if o < 0x8000 then s.msixWord (o / 8) else if o < 0x8100 then evtWord s.evt.pba ((o - 0x8000) / 8) else 0
  if size = 8 && off % 8 = 0 then BitVec.ofNat 64 w
  else if size = 4 && off % 4 = 0 then BitVec.ofNat 64 (bits w (8 * (off % 8) + 31) (8 * (off % 8)))
  else 0

end Sys2Proof.Machine
end

