-- ==== Sys2Proof/WellFormed.lean ====
section
/-! DEFINITION. Which terms are instances of their row: fields that name the row's own operation (03, 10), and operands within
the ranges the spec gives them. -/

namespace Sys2Proof

/-- First address above HBM (Table 1-5). -/
def hbmEnd : Nat := 0x006000000000

/-- Bytes a memory request covers. -/
def MemOp.len : MemOp → Nat
  | .read n => n
  | .write bs => bs.length

/-- Bytes a request at a slice covers; a reduction its destination element or record. -/
def LlcOp.len : LlcOp → Nat
  | .read n => n
  | .write bs => bs.length
  | .red r => 4 * r.src.length

/-- A request that lies in one 1 KiB line of HBM (R55). -/
def lineSpan (a n : Nat) : Bool := 1 ≤ n && a / 1024 = (a + n - 1) / 1024 && a + n ≤ hbmEnd

/-- The number of a 1 KiB line of HBM. -/
def hbmLine (l : Nat) : Bool := 1024 * l < hbmEnd

/-- The number of a 4 KiB granule of the address space (R262). -/
def granule (g : Nat) : Bool := 4096 * g < 2 ^ 48

/-- A host access of one transfer: 1 to 64 bytes of one 64 B line below 2^48 (R355). -/
def byteSpan (a n : Nat) : Bool := 1 ≤ n && a / 64 = (a + n - 1) / 64 && a + n ≤ 2 ^ 48

/-- Percentages (Table 11-6). -/
def LinkLoad.wf (l : LinkLoad) : Bool := l.out ≤ 100 && l.inn ≤ 100 && l.qmax ≤ 100

/-- A CMD word of an opcode (Table 10-6). -/
def cmdIs (n : Nat) (w : BitVec 64) : Bool := w.toNat % 256 = n

/-- A term is an instance of its row. -/
def Instr.wf : Instr → Bool
  | .ld _ _ => true
  | .st _ _ => true
  | .add _ _ => true
  | .sub _ _ => true
  | .mul _ _ => true
  | .and _ _ => true
  | .or _ _ => true
  | .xor _ _ => true
  | .shl _ _ => true
  | .shr _ _ => true
  | .cmp _ _ => true
  | .mov _ _ => true
  | .dset _ _ => true
  | .br _ _ => true
  | .brp _ _ => true
  | .call _ _ => true
  | .ret _ _ => true
  | .dmaCp _ _ => true
  | .dmaSkew _ _ => true
  | .redLlc _ _ => true
  | .dead _ _ => true
  | .halRd _ _ => true
  | .halWr _ _ => true
  | .mxload _ _ => true
  | .mma _ _ => true
  | .mmaT _ _ => true
  | .accClr _ _ => true
  | .accRd _ _ => true
  | .vopLd _ f => f.vopc = 0x00
  | .vopSt _ f => f.vopc = 0x01
  | .vopMov _ f => f.vopc = 0x02
  | .vopBcast _ f => f.vopc = 0x03
  | .vopAdd _ f => f.vopc = 0x04
  | .vopSub _ f => f.vopc = 0x05
  | .vopMul _ f => f.vopc = 0x06
  | .vopFma _ f => f.vopc = 0x07
  | .vopMax _ f => f.vopc = 0x08
  | .vopMin _ f => f.vopc = 0x09
  | .vopAbs _ f => f.vopc = 0x0A
  | .vopNeg _ f => f.vopc = 0x0B
  | .vopAnd _ f => f.vopc = 0x0C
  | .vopOr _ f => f.vopc = 0x0D
  | .vopXor _ f => f.vopc = 0x0E
  | .vopShl _ f => f.vopc = 0x0F
  | .vopShr _ f => f.vopc = 0x10
  | .vopCvt _ f => f.vopc = 0x11
  | .vopRsum _ f => f.vopc = 0x12
  | .vopRmax _ f => f.vopc = 0x13
  | .vopPerm _ f => f.vopc = 0x14
  | .vnormRms _ _ => true
  | .sfuTanh _ _ => true
  | .sfuSig _ _ => true
  | .sfuExp2 _ _ => true
  | .sfuRsq _ _ => true
  | .sfuRcp _ _ => true
  | .selTopk _ _ => true
  | .selMerge _ _ => true
  | .lkuLoad _ _ => true
  | .lkuSwap _ _ => true
  | .lkuPq _ _ => true
  | .fenceL _ _ => true
  | .fenceR _ _ => true
  | .invL1 _ _ => true
  | .bar _ _ => true
  | .wait _ f => !f.fn.getLsbD 0
  | .waitSignal _ f => f.fn.getLsbD 0
  | .waitall _ _ => true
  | .signal _ f => !f.fn.getLsbD 0
  | .signalEv _ f => f.fn.getLsbD 0
  | .issueResume _ => true
  | .engineOpStart _ _ => true
  | .engineOpComplete _ _ _ => true
  | .stopDrainDone _ => true
  | .dispatch _ => true
  | .coreEndReport _ => true
  | .stopReport _ => true
  | .signalOrArrival _ => true
  | .barrierArrival _ => true
  | .barrierRelease _ _ => true
  | .coreMarkedDown _ => true
  | .llcRequest _ _ a op => lineSpan a op.len
  | .llcFillReturn l => hbmLine l
  | .setWritten g => granule g
  | .setWrittenReply g => granule g
  | .streamTrackerRelease _ _ => true
  | .deadDrop g => granule g
  | .deadMarkAck g => granule g
  | .reductionApply l => hbmLine l
  | .forwardAck l => hbmLine l
  | .hostSnoopResponse a _ => a < hbmEnd
  | .hotSliceWindowEnd _ occ => occ ≤ 100
  | .l1Fill _ _ a => a < 2 ^ 48
  | .lockerRemoteAccess _ _ off op => 1 ≤ op.len && off + op.len ≤ 0x140000
  | .halyardCrcRetry _ _ _ _ => true
  | .tileRequest _ _ off op => 1 ≤ op.len && off + op.len ≤ 0x8000000
  | .refreshDue _ _ => true
  | .refreshEnd _ _ => true
  | .trefiWindowEnd _ _ _ => true
  | .hbmTrefiWindowEnd _ _ => true
  | .dutyWindowStart _ => true
  | .dutyLimitReached _ => true
  | .hbmChannelRequest a _ => a < hbmEnd
  | .bankmodeWrite _ _ => true
  | .bankUnitModeEffect _ _ => true
  | .bankNormalModeEffect _ _ => true
  | .xpop _ _ w => cmdIs 1 w
  | .i8dot _ _ w => cmdIs 2 w
  | .sumred _ _ w => cmdIs 3 w
  | .bankFill _ _ w => cmdIs 4 w
  | .bankCopy _ _ w => cmdIs 5 w
  | .topk32 _ _ w => cmdIs 6 w
  | .chain _ _ w => cmdIs 7 w
  | .bitset _ _ w => cmdIs 8 w
  | .bankUnitAbort _ _ => true
  | .queuedCommandStart _ _ => true
  | .bankUnitCommandEnd _ _ => true
  | .safePoint _ _ _ => true
  | .chainStreamArrival _ _ => true
  | .chainBreak _ _ => true
  | .flitRetransmission _ _ wire _ => wire < 2056
  | .stayLaneFailed _ _ _ => true
  | .routerWindowEnd _ loads _ => loads.all LinkLoad.wf
  | .corePllLoss _ => true
  | .networkPllLoss _ => true
  | .networkPllRelock _ _ => true
  | .spreaderReferenceLoss _ => true
  | .tailLineSnoop _ _ => true
  | .fetchCommandLine _ _ _ => true
  | .linePass _ => true
  | .run => true
  | .copyCommand => true
  | .fillCommand => true
  | .scrub => true
  | .rerig _ => true
  | .rerigStart => true
  | .setcap => true
  | .search => true
  | .rerankerDispatch _ => true
  | .fence => true
  | .table => true
  | .perf => true
  | .keyopActivate => true
  | .keyopCascade => true
  | .keyopPin => true
  | .reduce => true
  | .send => true
  | .recv => true
  | .barrier => true
  | .nop => true
  | .planDispatch _ _ => true
  | .abortPoint _ _ => true
  | .cmaxExpiry _ _ => true
  | .faultIntervalStart _ => true
  | .faultIntervalEnd _ => true
  | .floorChangeEffect => true
  | .completionRecordWrite _ _ _ _ => true
  | .hostMemRead a n => byteSpan a n
  | .hostMemWrite a bs _ => byteSpan a bs.length
  | .configRequest _ => true
  | .strmCtlEn _ _ _ => true
  | .strmCtlResume _ => true
  | .strmCtlAbort _ => true
  | .portEnable _ _ => true
  | .cascRankWrite _ => true
  | .pahusRetransmission _ => true
  | .pahusLaneFailed _ _ => true
  | .portTrainingDone _ => true
  | .peerAttestationDone _ _ _ _ _ => true
  | .configurationReceived _ _ _ _ _ => true
  | .heartbeatSend => true
  | .heartbeatReceived _ _ => true
  | .heartbeatTimeout => true
  | .delayProbeSend _ _ => true
  | .delayProbeEcho _ _ _ => true
  | .barrierArrivalMessage _ _ _ _ => true
  | .cascadeReleaseSend _ _ _ => true
  | .cascadeReleaseArrival _ _ _ => true
  | .rendezvous _ _ _ => true
  | .pahusPortDown _ => true
  | .energyAttribution _ _ => true
  | .rigPwrShareWrite _ _ => true
  | .feedLost _ => true
  | .feedGood _ => true
  | .converterFailed _ => true
  | .regulatorCellFailed _ => true
  | .pathRatioWindowEnd _ _ => true
  | .yardPowerOnRequest _ => true
  | .neighbourWaitExpiry _ => true
  | .yardRampStart _ => true
  | .yardRampEnd _ => true
  | .fastGuardEstimate _ _ => true
  | .governorEvaluation _ => true
  | .dutyCycleFurl _ _ => true
  | .boostStep _ => true
  | .consSet _ => true
  | .sensorSample _ => true
  | .modelEvaluation _ => true
  | .flowInference _ _ _ => true
  | .rasFliptgtWrite _ => true
  | .scrubGo _ => true
  | .rowRepair _ _ row => row < 4096
  | .llcWayRetire _ _ => true
  | .hbmChannelRetrain _ _ _ => true
  | .telltaleMeasurement _ t => t.levels.length = 7
  | .telltaleGuardRaise _ _ => true
  | .powerOn _ => true
  | .startupStepEnd e => e.cause ≤ 7
  | .startupPause _ => true
  | .spdmRequest _ _ => true
  | .slhsigReq _ _ => true
  | .bindCmd _ _ => true
  | .endSession _ => true
  | .spdmHeartbeatTimeout _ => true
  | .eventRaise _ => true
  | .eventMessageSend _ _ => true
  | .holdoffExpiry _ _ => true
  | .evtMaskSet _ _ => true
  | .evtMaskClr _ _ => true
  | .evtPendSet _ _ => true
  | .evtPendClr _ _ => true
  | .evtIdleHintWrite _ _ => true
  | .evtRead off => off % 8 = 0
  | .crowsNestWake _ => true
  | .loopEnter _ w => w.getLsbD 0
  | .loopLeave _ => true
  | .loopDurationExpiry _ _ _ _ => true
  | .loopFarEndTimeout _ => true
  | .llcHashKeyWrite _ => true
  | .llcModeSet _ => true
  | .registerWrite _ _ _ => true
  | .linkTrainingEnd _ => true
  | .pldmRequest _ => true
  | .msixMaskWrite _ _ => true
  | .delayProbeReceived _ _ _ => true
  | .wireBlockArrival _ _ => true
  | .storeAcknowledgement _ => true
  | .hbmParityError _ _ => true
  | .rowClose _ _ => true
  | .mailboxOperationEnd _ => true
  | .bothFeedsLost => true
  | .consClear => true
  | .thermalTrip => true
  | .emergClear => true
  | .rasCeClr => true
  | .scrubEnd => true
  | .lockstepTakeover => true
  | .marginPlan => true
  | .recomp => true
  | .deviceReset => true
  | .ready => true
  | .force => true
  | .stage => true
  | .recover => true
  | .sheetHoldoffExpiry => true
  | .wakeTimerExpiry => true
  | .watchdogExpiry => true
  | .perstRelease => true
  | .flowMeterPulse => true
  | .standbyTakeoverDone => true

end Sys2Proof
end

