-- ==== Sys2Proof/Safety.lean ====
section
/-! DEFINITION. The terms the claims use: when a core issues, what it means that a command completes and leaves the rest as it
was, the canonical form of the state's memories, and the device's legal modes. -/

namespace Sys2Proof.Machine

/-! ### Issue on a core -/

/-- The word at an address is in the core's L1 instruction cache, unmarked, in an HBM region of the core's own rig (R92, R209,
R210). -/
def State.lineReady (s : State) (c a : Nat) : Bool :=
  a < 2 ^ 48 && place a = .hbm && (s.rigOfRegion (regionOf a)).isSome && s.rigOfRegion (regionOf a) = s.rigOfCore c &&
    (s.core c).l1i.contains (a / 256) && (tfind (s.core c).l1Bad (2 * (a / 256) + 1)).isNone

/-- The one or two words of the instruction at the PC are ready. -/
def State.fetchReady (s : State) (c : Nat) (long : Bool) : Bool :=
  s.lineReady c (s.core c).pc.toNat && (!long || s.lineReady c ((s.core c).pc.toNat + 8))

/-- Core c runs with its clock, its issue is free, and the instruction at its PC is ready (R41, R43, R45, R447). -/
def State.canIssue (s : State) (c : Nat) (long : Bool) : Bool :=
  let k := s.core c
  k.phase = .running && !k.down && s.clocked c && k.stall.isNone && k.atBar.isNone && s.fetchReady c long

/-- The state after the fetch of a ready instruction: its lines are the most recently used of its core's instruction cache. -/
def State.fetched (s : State) (c : Nat) (long : Bool) : State :=
  let pc := (s.core c).pc.toNat
  let t := s.setCore c { s.core c with l1i := useLine (pc / 256) (s.core c).l1i }
  if long then t.setCore c { t.core c with l1i := useLine ((pc + 8) / 256) (t.core c).l1i } else t

/-- A core whose PC has passed an instruction of one or two words, and whose issue cycles have counted (R40, R78, R81). -/
def Core.past (k : Core) (long : Bool) : Core :=
  { k with pc := k.pc + (if long then 16 else 8), cyc := k.cyc + (if long then 2 else 1), stall := none }

/-- A core whose issue has gone to a target (R98). -/
def Core.jumped (k : Core) (long : Bool) (target : BitVec 64) : Core :=
  { k with pc := target &&& ~~~7, cyc := k.cyc + (if long then 2 else 1), stall := none }

/-- A running core that a cause stops at its PC (R72, R73). -/
def Core.halted (k : Core) (cause : Nat) : Core :=
  { k with stop := if k.stop.isSome then k.stop else some ⟨cause, k.pc.toNat⟩, phase := .draining, stall := none }

/-- A core whose issue stalls on an instruction that has no request outstanding (R41, R55). -/
def Core.stalled (k : Core) (i : Instr) : Core := { k with stall := some i, stallReq := false }

/-- Decode checks of the engine instructions of format E beyond L and CH (Tables 3-9, 3-10, 3-12). -/
def fmtEBad (i : Instr) (f : FmtE) : Bool :=
  match i with
  | .redLlc _ _ => f.dc != 0 || f.ra != 0 || f.rb != 0 || 4 ≤ f.x20.toNat
  | .dead _ _ => f.da != 0 || f.db != 0 || f.dc != 0 || f.x20 != 0
  | .mxload _ _ => f.db != 0 || f.dc != 0 || f.ra != 0 || f.rb != 0 || f.x20 != 0
  | .mma _ _ => mmaBad f
  | .mmaT _ _ => mmaBad f
  | .accClr _ _ => f.da != 0 || f.db != 0 || f.dc != 0 || f.rb != 0 || f.x20 != 0 || bits f.ra.toNat 4 2 != 0
  | .accRd _ _ => accRdBad f
  | .vnormRms _ _ => f.rb != 0 || f.x20 != 0
  | .selTopk _ _ => selBad f 12
  | .selMerge _ _ => selBad f 11
  | .lkuLoad _ _ => f.db != 0 || f.dc != 0 || f.ra != 0 || f.rb != 0 || 16 ≤ f.x20.toNat
  | .lkuSwap _ _ => f.da != 0 || f.db != 0 || f.dc != 0 || f.ra != 0 || f.rb != 0 || f.x20 != 0
  | .lkuPq _ _ => f.dc != 0 || f.rb != 0 || 16 ≤ f.x20.toNat
  | _ => twoDescBad f

/-- Every engine instruction of format E: its core, engine and fields (Table 2-1). -/
def fmtEOf : Instr → Option (CoreId × Eng × FmtE)
  | .dmaCp c f => some (c, .dma, f) | .dmaSkew c f => some (c, .dma, f) | .redLlc c f => some (c, .dma, f)
  | .dead c f => some (c, .dma, f) | .halRd c f => some (c, .hal, f) | .halWr c f => some (c, .hal, f)
  | .mxload c f => some (c, .mxu, f) | .mma c f => some (c, .mxu, f) | .mmaT c f => some (c, .mxu, f)
  | .accClr c f => some (c, .mxu, f) | .accRd c f => some (c, .mxu, f) | .vnormRms c f => some (c, .vec, f)
  | .selTopk c f => some (c, .sel, f) | .selMerge c f => some (c, .sel, f) | .lkuLoad c f => some (c, .lku, f)
  | .lkuSwap c f => some (c, .lku, f) | .lkuPq c f => some (c, .lku, f)
  | _ => none

/-- Every vector and special-function instruction: its core, engine and fields (Tables 2-1, 3-11). -/
def fmtVOf : Instr → Option (CoreId × Eng × FmtV)
  | .vopLd c f => some (c, .vec, f) | .vopSt c f => some (c, .vec, f) | .vopMov c f => some (c, .vec, f)
  | .vopBcast c f => some (c, .vec, f) | .vopAdd c f => some (c, .vec, f) | .vopSub c f => some (c, .vec, f)
  | .vopMul c f => some (c, .vec, f) | .vopFma c f => some (c, .vec, f) | .vopMax c f => some (c, .vec, f)
  | .vopMin c f => some (c, .vec, f) | .vopAbs c f => some (c, .vec, f) | .vopNeg c f => some (c, .vec, f)
  | .vopAnd c f => some (c, .vec, f) | .vopOr c f => some (c, .vec, f) | .vopXor c f => some (c, .vec, f)
  | .vopShl c f => some (c, .vec, f) | .vopShr c f => some (c, .vec, f) | .vopCvt c f => some (c, .vec, f)
  | .vopRsum c f => some (c, .vec, f) | .vopRmax c f => some (c, .vec, f) | .vopPerm c f => some (c, .vec, f)
  | .sfuTanh c f => some (c, .sfu, f) | .sfuSig c f => some (c, .sfu, f) | .sfuExp2 c f => some (c, .sfu, f)
  | .sfuRsq c f => some (c, .sfu, f) | .sfuRcp c f => some (c, .sfu, f)
  | _ => none

/-- The operation an engine instruction queues: copies of its descriptors and scalars (R53, R85). -/
def engineOp (k : Core) (i : Instr) : Option Op :=
  match fmtEOf i, fmtVOf i with
  | some (_, e, f), _ => some (mkOp k i e f.k.toNat f.ch.toNat f.da.toNat f.db.toNat f.dc.toNat f.ra.toNat f.rb.toNat)
  | none, some (_, e, f) => some (mkOp k i e f.k.toNat 0 f.da.toNat 0 0 0 0)
  | none, none => none

/-- The operand checks of an engine instruction at issue (R90, Tables 3-9 to 3-12). -/
def issueOk (k : Core) (c : Nat) (i : Instr) : Bool :=
  match i with
  | .dmaCp _ f => dmaCpOk k c f
  | .dmaSkew _ f => dmaSkewOk k c f
  | .redLlc _ f => redOk k c f
  | .halRd _ f => halOk k c f
  | .halWr _ f => halOk k c f
  | .mxload _ f => mxloadOk k c f
  | .mma _ f => mmaOk k c f
  | .mmaT _ f => mmaTOk k c f
  | .accRd _ f => accRdOk k c f
  | .vnormRms _ f => vnormOk k c f
  | .selTopk _ f => selOk k c f
  | .selMerge _ f => selOk k c f
  | .lkuLoad _ f => lkuLoadOk k c f
  | .lkuPq _ f => lkuPqOk k c f
  | .vopLd _ f => vopDescOk k c f
  | .vopSt _ f => vopDescOk k c f
  | _ => true

/-- The records that change when an engine instruction issues: the stationary format of MXLOAD (R104), the table records of
LKU.LOAD and LKU.SWAP (R116). -/
def atIssue (i : Instr) (k : Core) : Core :=
  match i with
  | .mxload _ f => { k with stRec := some (BitVec.ofNat 8 (k.rd f.da.toNat).fmt) }
  | .lkuLoad _ f => { k with recShad := tset 0 k.recShad (lkuSlot f) (BitVec.ofNat 6 (k.rd f.da.toNat).e1) }
  | .lkuSwap _ _ => { k with recLive := k.recShad, recShad := k.recLive }
  | _ => k

/-- What a core instruction brings to issue: its core, whether it is long, whether a decode check of R83 fails, and its
GUARD (R83, R84); none for the other commands. -/
def coreForm (i : Instr) : Option (CoreId × Bool × Bool × BitVec 5) :=
  match i with
  | .ld c f => some (c, false, f.rsv != 0 || f.l, f.guard)
  | .st c f => some (c, false, f.rsv != 0 || f.l || f.x, f.guard)
  | .add c f => some (c, aluLong f, aluBad f (· == 0), aluGuard f)
  | .sub c f => some (c, aluLong f, aluBad f (· == 0), aluGuard f)
  | .mul c f => some (c, aluLong f, aluBad f (· ≤ 2), aluGuard f)
  | .and c f => some (c, aluLong f, aluBad f (· == 0), aluGuard f)
  | .or c f => some (c, aluLong f, aluBad f (· == 0), aluGuard f)
  | .xor c f => some (c, aluLong f, aluBad f (· == 0), aluGuard f)
  | .shl c f => some (c, aluLong f, aluBad f (· == 0), aluGuard f)
  | .shr c f => some (c, aluLong f, aluBad f (· ≤ 1), aluGuard f)
  | .cmp c f => some (c, aluLong f, aluBad f (· ≤ 5) || bits (aluRd f).toNat 4 3 == 3, aluGuard f)
  | .mov c f => some (c, f.l, movBad f, f.guard)
  | .dset c f => some (c, f.l, dsetBad f, f.guard)
  | .br c f => some (c, f.l, brBad f, 0)
  | .brp c f => some (c, f.l, brpBad f, 0)
  | .call c f => some (c, f.l, brBad f, 0)
  | .ret c f => some (c, f.l, f.rs != 0 || f.p != 0 || f.n || f.ind || f.off != 0 || f.l || f.rsv != 0, 0)
  | .fenceL c f => some (c, false, ctlBad f false false false false false, f.guard)
  | .fenceR c f => some (c, false, ctlBad f false false false false false, f.guard)
  | .invL1 c f => some (c, false, ctlBad f (f.fn.getLsbD 0) (f.fn.getLsbD 0) false false true || 2 ≤ f.fn.toNat, f.guard)
  | .bar c f => some (c, false, ctlBad f false false false true false, f.guard)
  | .wait c f => some (c, false, ctlBad f false false true false false, f.guard)
  | .waitSignal c f => some (c, false, ctlBad f true true false false true || 2 ≤ f.fn.toNat, f.guard)
  | .waitall c f => some (c, false, ctlBad f false false false false false, f.guard)
  | .signal c f => some (c, false, ctlBad f true true false false false, f.guard)
  | .signalEv c f => some (c, false, ctlBad f false true false false true || 2 ≤ f.fn.toNat, f.guard)
  | i =>
    match fmtEOf i, fmtVOf i with
    | some (c, e, f), _ => some (c, false, f.l || (e != .dma && f.ch != 0) || fmtEBad i f, f.guard)
    | none, some (c, .vec, f) => some (c, false, f.l || vopBad f, f.guard)
    | none, some (c, _, f) => some (c, false, f.l || sfuBad f, f.guard)
    | none, none => none

/-- A command of core c completes: core c is then k, the order of use of its instruction cache apart; every other core and
every other part of the device is unchanged. -/
def State.leaves (s : State) (i : Instr) (c : CoreId) (k : Core) : Prop :=
  ∃ t, exec i s = .next t ∧ { t.core c with l1i := (s.core c).l1i } = k ∧ (∀ n, n ≠ c.val → t.core n = s.core n) ∧
    { t with cores := s.cores } = s

/-- A command completes and leaves a state. -/
def completes (i : Instr) (s t : State) : Prop := exec i s = .next t

/-! ### Command lines -/

/-- The rows of passed command lines: the opcode and the form of the lines a row decides (Table 13-9). -/
def lineOf : Instr → Option (Nat × (CRec → Bool))
  | .run => some (1, fun _ => true)
  | .copyCommand => some (2, fun _ => true)
  | .fillCommand => some (3, fun _ => true)
  | .scrub => some (4, fun _ => true)
  | .rerig _ => some (5, fun _ => true)
  | .setcap => some (6, fun _ => true)
  | .search => some (7, fun _ => true)
  | .fence => some (8, fun _ => true)
  | .table => some (9, fun _ => true)
  | .perf => some (0xA, fun _ => true)
  | .keyopActivate => some (0xB, fun r => r.u 24 1 ≠ 2 && r.u 24 1 ≠ 3)
  | .keyopCascade => some (0xB, fun r => r.u 24 1 = 2)
  | .keyopPin => some (0xB, fun r => r.u 24 1 = 3)
  | .reduce => some (0xC, fun r => r.uOp = 0)
  | .send => some (0xC, fun r => r.uOp = 1)
  | .recv => some (0xC, fun r => r.uOp = 2)
  | .barrier => some (0xC, fun r => r.uOp = 3)
  | .nop => some (0xF, fun _ => true)
  | _ => none

/-- What an accepted class C command of a rig brings beside its line: the cores it uses and its program (R335, R369, R405). -/
def lineCmd (s : State) (r : CRec) : Instr → Option Cmd
  | .copyCommand => some {}
  | .fillCommand => some {}
  | .perf => some {}
  | .search => some { cores := (s.rig r.rig).cores }
  | .table => some { cores := (s.rig r.rig).cores }
  | .reduce => some { upd := { prog := s.updProg r.uProg } }
  | .send => some { upd := { prog := s.updProg r.uProg } }
  | .recv => some { upd := { prog := s.updProg r.uProg } }
  | .barrier => some { upd := { prog := s.updProg r.uProg } }
  | _ => none

/-- The state once the first passed line has its record. -/
def State.answered (s : State) (r : CRec) (f : Fin') : State :=
  s.setAdm { s.adm with passed := s.adm.passed.drop 1, done := s.adm.done ++ [{ r := r, fin := f }] }

/-! ### Canonical memory -/

/-- Every byte store of the device in canonical form: addresses strictly rising, no byte that an unlisted address reads as. -/
def State.memWf (s : State) : Bool := tabWf 0 s.mem && tabWf 0 s.hostMem

/-! ### Legal modes -/

/-- The device is off, or starting, READY or FAILED with one of the nine steps of start-up entered (R504, Table 19-5). -/
def Boot.legal (b : Boot) : Bool := b.ph = 0 || ((b.ph = 1 || b.ph = 5 || b.ph = 6) && 1 ≤ b.step && b.step ≤ 9)

end Sys2Proof.Machine
end

