-- ==== Sys2Proof/Certificates/Slice0/Obligations.lean ====
section
/-! DEFINITION. The statements about the model for the provers. Each docstring cites the rules of spec/ it formalises. -/

open Sys2Proof Sys2Proof.Machine

/-! ### The block (log entry 12) -/

/-- A step takes the command at the front of the queue and carries it out on the state with the queue's rest; with no command waiting
the block idles, which is the model's choice (log entry 12). -/
def Obligations.StepRunsFrontCommand : Prop :=
  (∀ (s : State) (i : Instr), step { s with pending := i :: s.pending } = exec i s) ∧
  (∀ s : State, s.pending = [] → step s = .next s)

/-! ### Decode checks and guards (R83, R84) -/

/-- Every core instruction with a failed decode check stops its core with cause 0x01 at its own address and does nothing else, whatever
its guard; one that passes and whose guard's predicate does not permit is squashed: the PC passes it, its issue cycles count, two for a
long form, and nothing else happens (R83, R84). -/
def Obligations.DecodeChecksAndGuards : Prop :=
  (∀ (s : State) (i : Instr) (c : CoreId) (long : Bool) (g : BitVec 5), i.wf = true → coreForm i = some (c, long, true, g) →
    s.canIssue c long = true → s.leaves i c ((s.core c).halted 1)) ∧
  (∀ (s : State) (i : Instr) (c : CoreId) (long : Bool) (g : BitVec 5), i.wf = true → coreForm i = some (c, long, false, g) →
    s.canIssue c long = true → g.getLsbD 4 = true → (s.core c).rp (g.extractLsb' 0 3).toNat = g.getLsbD 3 →
    s.leaves i c ((s.core c).past long))

/-! ### Scalar instructions (R93 to R98) -/

/-- ADD, SUB, MUL, AND, OR, XOR, SHL and SHR write RD with the result of Table 3-7 and change nothing else. -/
def Obligations.ScalarArithmeticResult : Prop :=
  ∀ (s : State) (c : CoreId) (f : Alu), s.canIssue c (aluLong f) = true → (s.core c).guardOk (aluGuard f) = true →
    let k := s.core c
    let a := aluA k f
    let b := aluB k f
    let put (x : BitVec 64) : Core := (k.wg (aluRd f).toNat x).past (aluLong f)
    (aluBad f (· == 0) = false →
      s.leaves (.add c f) c (put (a + b)) ∧ s.leaves (.sub c f) c (put (a - b)) ∧
      s.leaves (.and c f) c (put (a &&& b)) ∧ s.leaves (.or c f) c (put (a ||| b)) ∧
      s.leaves (.xor c f) c (put (a ^^^ b)) ∧ s.leaves (.shl c f) c (put (a <<< (b &&& 63)))) ∧
    (aluBad f (· ≤ 2) = false → s.leaves (.mul c f) c (put
      (if aluFn f = 0 then a * b
       else if aluFn f = 1 then (a.signExtend 128 * b.signExtend 128).extractLsb' 64 64
       else (a.zeroExtend 128 * b.zeroExtend 128).extractLsb' 64 64))) ∧
    (aluBad f (· ≤ 1) = false → s.leaves (.shr c f) c (put
      (if aluFn f = 0 then a >>> (b &&& 63) else a.sshiftRight' (b &&& 63))))

/-- A read of g0 returns zero and a write to it is discarded; a write to another scalar register is read back, and no
other register changes; lane i of a vector register holds BF16 elements 2i and 2i + 1 (R79). -/
def Obligations.RegisterFileReadsAndWrites : Prop :=
  ∀ (k : Core), k.rg 0 = 0 ∧ (∀ x, k.wg 0 x = k) ∧
    (∀ r x, r ≠ 0 → (k.wg r x).rg r = x) ∧ (∀ r n x, n ≠ r → (k.wg r x).rg n = k.rg n) ∧
    (∀ r x, { k.wg r x with g := k.g } = k) ∧
    (∀ r i, i < 64 → bfElem (k.rvs r) (2 * i) = (k.rv r i).extractLsb' 0 16 ∧
      bfElem (k.rvs r) (2 * i + 1) = (k.rv r i).extractLsb' 16 16)

/-- CMP writes predicate RD[2:0] with the condition of FN[2:0] between RS1 and the second operand, set, ANDed or ORed
by RD[4:3], and changes nothing else; the unlisted combine mode and conditions stop the core with cause 0x01 (R94). -/
def Obligations.CompareWritesPredicate : Prop :=
  ∀ (s : State) (c : CoreId) (f : Alu), s.canIssue c (aluLong f) = true →
    let k := s.core c
    let a := aluA k f
    let b := aluB k f
    let mode := ((aluRd f).extractLsb' 3 2).toNat
    let pd := ((aluRd f).extractLsb' 0 3).toNat
    let res : Bool :=
      if aluFn f = 0 then a = b else if aluFn f = 1 then a ≠ b
      else if aluFn f = 2 then a.toInt < b.toInt else if aluFn f = 3 then b.toInt ≤ a.toInt
      else if aluFn f = 4 then a.toNat < b.toNat else b.toNat ≤ a.toNat
    (aluBad f (· ≤ 5) = false → mode ≠ 3 → k.guardOk (aluGuard f) = true →
      ∃ k' : Core, s.leaves (.cmp c f) c k' ∧ { k' with p := k.p } = k.past (aluLong f) ∧
        (∀ i, i ≠ pd → k'.rp i = k.rp i) ∧
        k'.rp pd = (if mode = 0 then res else if mode = 1 then k.rp pd && res else k.rp pd || res)) ∧
    (mode = 3 ∨ 5 < aluFn f → s.leaves (.cmp c f) c (k.halted 1))

/-- MOV's six forms write their destination with the value of Table 3-8 and change nothing else; the lane forms stall while a pending
operation uses the register. A read of the cycle counter first counts the stall cycles, a free number of them (log entry 11). DSET writes word
FN[1:0] of descriptor RD[3:0] with RS1, or with the literal when FN[2] is 1, and changes nothing else; fields that break R97 stop the
core with cause 0x01. -/
def Obligations.MovesAndDescriptorSet : Prop :=
  (∀ (s : State) (c : CoreId) (f : FmtI), s.canIssue c f.l = true → (s.core c).guardOk f.guard = true → movBad f = false →
    let k := s.core c
    let rd := f.rd.toNat
    let rs := f.rs1.toNat
    let n := f.imm.toNat
    let busy (r : Nat) : Bool := k.ops.any fun o => (instrVregs o.i).contains r
    (f.fn = 0 → s.leaves (.mov c f) c ((k.wg rd (if f.l then f.lit else f.imm.signExtend 64)).past f.l)) ∧
    (f.fn = 1 → s.leaves (.mov c f) c ((k.wg rd (k.rg rs)).past false)) ∧
    (f.fn = 2 → n = 0 → let t := k.cyc + BitVec.ofNat 64 (Config.stallCycles k.free)
      s.leaves (.mov c f) c ((({ k with cyc := t, free := k.free + 1 } : Core).wg rd t).past false)) ∧
    (f.fn = 2 → n = 1 → s.leaves (.mov c f) c ((k.wg rd (k.epoch.zeroExtend 64)).past false)) ∧
    (f.fn = 2 → n = 2 → s.leaves (.mov c f) c ((k.wg rd (BitVec.ofNat 64 k.ret.length)).past false)) ∧
    (f.fn = 2 → n = 3 → s.leaves (.mov c f) c ((k.wg rd (k.p.zeroExtend 64)).past false)) ∧
    (f.fn = 3 → s.leaves (.mov c f) c
      (if busy rs then k.stalled (.mov c f) else (k.wg rd ((k.rv rs n).zeroExtend 64)).past false)) ∧
    (f.fn = 4 → s.leaves (.mov c f) c
      (if busy rd then k.stalled (.mov c f) else (k.wv rd n ((k.rg rs).truncate 32)).past false)) ∧
    (f.fn = 5 → s.leaves (.mov c f) c (({ k with p := (k.rg rs).truncate 8 } : Core).past false))) ∧
  (∀ (s : State) (c : CoreId) (f : FmtI), s.canIssue c f.l = true →
    let k := s.core c
    let good : Bool := !f.rd.getLsbD 4 && f.fn.toNat < 8 && f.imm == 0 &&
      (if f.fn.getLsbD 2 then f.l && f.rs1 == 0 else !f.l)
    (good = true → k.guardOk f.guard = true → s.leaves (.dset c f) c
      ((k.wd (f.rd.toNat % 16) (f.fn.toNat % 4) (if f.fn.getLsbD 2 then f.lit else k.rg f.rs1.toNat)).past f.l)) ∧
    (good = false → s.leaves (.dset c f) c (k.halted 1)))

/-- BR jumps; BRP jumps when its predicate, inverted by N, is true, and else passes on; CALL pushes the address of the
next instruction and jumps, or stops with cause 0x07 when the stack holds 32; RET pops and jumps, or ends the core's part
when the stack is empty. Target bits [2:0] are taken as zero (R46, R47, R98). -/
def Obligations.BranchesAndCalls : Prop :=
  ∀ (s : State) (c : CoreId) (f : FmtB), s.canIssue c f.l = true →
    let k := s.core c
    let target : BitVec 64 := if f.ind then k.rg f.rs.toNat else if f.l then f.lit else k.pc + 8 * f.off.signExtend 64
    (brBad f = false →
      s.leaves (.br c f) c (k.jumped f.l target) ∧
      (k.ret.length < 32 → s.leaves (.call c f) c
        (({ k with ret := (k.pc + (if f.l then 16 else 8)) :: k.ret } : Core).jumped f.l target)) ∧
      (32 ≤ k.ret.length → s.leaves (.call c f) c (k.halted 7))) ∧
    (brpBad f = false → s.leaves (.brp c f) c
      (if k.rp f.p.toNat != f.n then k.jumped false (k.pc + 8 * f.off.signExtend 64) else k.past false)) ∧
    (f = ⟨0, 0, false, false, 0, false, 0, f.lit⟩ →
      (∀ t ts, k.ret = t :: ts → s.leaves (.ret c f) c (({ k with ret := ts } : Core).jumped false t)) ∧
      (k.ret = [] → s.leaves (.ret c f) c { k with phase := .ending, cyc := k.cyc + 1, stall := none }))

/-- LD: a misaligned address stops the core with cause 0x06 and a disallowed one with 0x04, or 0x0B where only a core that is
down or powered off stands in the way; a ready load from the own locker or from a line of the L1 data cache writes RT with the little-endian
value, zero- or sign-extended by X; by every other path RT is written with the bytes the path answers, an uncorrectable word
stops the core with cause 0x09, and a wait for another agent stalls issue with its request outstanding (R95, R208). -/
def Obligations.LoadsByPath : Prop :=
  ∀ (s : State) (c : CoreId) (f : FmtM), s.canIssue c false = true → (s.core c).guardOk f.guard = true →
    f.rsv = 0 → f.l = false →
    let k := s.core c
    let n := 2 ^ f.sz.toNat
    let a := (k.rg f.rb.toNat + f.off.signExtend 64).toNat
    let value (bs : List Byte) : BitVec 64 :=
      if f.x then (BitVec.ofNat (8 * n) (leNat bs)).signExtend 64 else BitVec.ofNat 64 (leNat bs)
    let u := s.fetched c false
    (a % n ≠ 0 → s.leaves (.ld c f) c (k.halted 6)) ∧
    (a % n = 0 → 2 ^ 48 ≤ a ∨ s.ownAddr c a = false → s.leaves (.ld c f) c (k.halted 4)) ∧
    (a % n = 0 → a < 2 ^ 48 → s.ownAddr c a = true → s.refusedAt c a = true → s.leaves (.ld c f) c (k.halted 0x0B)) ∧
    (a % n = 0 → a < 2 ^ 48 → s.mayAddr c a = true → inLocker c a = true → s.mark (a / 8 * 8) = .none →
      s.leaves (.ld c f) c ((k.wg f.rt.toNat (value (mread s.mem a n))).past false)) ∧
    (a % n = 0 → a < 2 ^ 48 → s.mayAddr c a = true → place a = .hbm ∨ (∃ m o, place a = .tile m o) →
      k.l1d.contains (a / 256) = true → tfind k.l1Bad (2 * (a / 256)) = none →
      s.leaves (.ld c f) c
        (({ k with l1d := useLine (a / 256) k.l1d } : Core).wg f.rt.toNat (value (mread k.l1Data a n)) |>.past false)) ∧
    (a % n = 0 → a < 2 ^ 48 → s.mayAddr c a = true → k.room = true →
      match u.scalarRead c a n with
      | .ok v (bs, false) =>
        exec (.ld c f) s = .next ((v.setCore c ((v.core c).wg f.rt.toNat (value bs))).advance c false)
      | .ok v (_, true) => exec (.ld c f) s = .next (v.stopCore c 9 k.pc.toNat)
      | .fault v e => exec (.ld c f) s = .next (v.stopCore c e k.pc.toNat)
      | .wait sn => exec (.ld c f) s = .next (u.stallWait c (.ld c f) sn))

/-- ST: the alignment and address checks of LD; a store into the own locker writes the low bytes of RT there at once and no
other byte; a store elsewhere stalls while 256 requests are outstanding, else it joins the core's posted stores, after updating
the L1 line it hits, and memory is unchanged until it is performed (R55, R59, R95, R208). -/
def Obligations.StoresByPath : Prop :=
  ∀ (s : State) (c : CoreId) (f : FmtM), s.canIssue c false = true → (s.core c).guardOk f.guard = true →
    f.rsv = 0 → f.l = false → f.x = false →
    let k := s.core c
    let n := 2 ^ f.sz.toNat
    let a := (k.rg f.rb.toNat + f.off.signExtend 64).toNat
    let bs := leBytes n (k.rg f.rt.toNat).toNat
    (a % n ≠ 0 → s.leaves (.st c f) c (k.halted 6)) ∧
    (a % n = 0 → 2 ^ 48 ≤ a ∨ s.ownAddr c a = false → s.leaves (.st c f) c (k.halted 4)) ∧
    (a % n = 0 → a < 2 ^ 48 → s.ownAddr c a = true → s.refusedAt c a = true → s.leaves (.st c f) c (k.halted 0x0B)) ∧
    (a % n = 0 → a < 2 ^ 48 → s.mayAddr c a = true → inLocker c a = true → s.flipArmed 3 c = false →
      s.mark (a / 8 * 8) = .none → ∃ t, exec (.st c f) s = .next t ∧
        (∀ i, i < n → mget t.mem (a + i) = (k.rg f.rt.toNat).extractLsb' (8 * i) 8) ∧
        (∀ x, x < a ∨ a + n ≤ x → mget t.mem x = mget s.mem x) ∧ (∀ w, t.mark w = s.mark w) ∧
        { t.core c with l1i := k.l1i } = k.past false ∧ (∀ m, m ≠ c.val → t.core m = s.core m) ∧
        { t with cores := s.cores, mem := s.mem, errs := s.errs } = s) ∧
    (a % n = 0 → a < 2 ^ 48 → s.mayAddr c a = true → inLocker c a = false → 256 ≤ k.outstanding →
      s.leaves (.st c f) c (k.stalled (.st c f))) ∧
    (a % n = 0 → a < 2 ^ 48 → s.mayAddr c a = true → inLocker c a = false → k.outstanding < 256 →
      s.flipArmed 5 c = false → s.leaves (.st c f) c
        (({ k with
            posted := k.posted ++ [{ p := .store a bs, pc := k.pc.toNat }]
            l1d := if k.l1d.contains (a / 256) then useLine (a / 256) k.l1d else k.l1d
            l1Data := if k.l1d.contains (a / 256) then mwrite k.l1Data a bs else k.l1Data } : Core).past false))

/-! ### Engine operations (R41, R49, R52, R53, R90, R175) -/

/-- An engine instruction past its decode checks stalls while its token is pending, its engine's queue is full or a register it
uses belongs to a pending operation elsewhere; then a failed operand check stops the core with cause 0x08; else the operation is
queued with copies of its descriptors and scalars, its token becomes pending, and nothing else changes. -/
def Obligations.EngineIssueQueuesOperation : Prop :=
  ∀ (s : State) (i : Instr) (c : CoreId) (g : BitVec 5) (o : Op), i.wf = true → coreForm i = some (c, false, false, g) →
    engineOp (s.core c) i = some o → s.canIssue c false = true → (s.core c).guardOk g = true →
    let k := s.core c
    let waits : Bool := k.tok.getLsbD o.tok || decide (qDepth o.eng ≤ (k.q.filter fun x => x.eng == o.eng).length) ||
      k.vBusy (some o.eng) (instrVregs i) || k.aBusy (some o.eng) (instrBanks i)
    (waits = true → s.leaves i c (k.stalled i)) ∧
    (waits = false → issueOk k c i = false → s.leaves i c (k.halted 8)) ∧
    (waits = false → issueOk k c i = true → s.leaves i c
      ((atIssue i { k with q := k.q ++ [o], tok := k.tok ||| BitVec.twoPow 64 o.tok }).past false))

/-- The first queued operation of an engine leaves the queue and starts, whatever stands queued for the others: one of DMA, HAL, SEL and
SFU whatever of them runs, one of MXU, VEC and LKU where none of its engine runs or else where the operations before it permit; an
LKU.SWAP that starts exchanges the copies and advances the epoch. On a core whose clock is off nothing starts (R41, R113, R176, R447). -/
def Obligations.EngineStartsItsFirstOperation : Prop :=
  ∀ (s : State) (c : CoreId) (e : Eng) (o : Op), let k := s.core c
    k.q.find? (fun x => x.eng == e) = some o → o.fin = false → k.atAbort = false →
    (s.clocked c = false → exec (.engineOpStart c e) s = .next s) ∧
    (s.clocked c = true → k.mayStart o = false → exec (.engineOpStart c e) s = .next s) ∧
    ((∀ r ∈ k.run, (r.eng = e → e ≠ .mxu ∧ e ≠ .vec) ∧ isLoad r = false ∧ isPq r = false) → k.mayStart o = true) ∧
    (s.clocked c = true → k.mayStart o = true → (∀ r ∈ k.run, r.eng ≠ .lku) →
    (isSwap o = false → ∃ copy, exec (.engineOpStart c e) s = .next (s.setCore c
      { k with q := k.q.eraseP (fun x => x.eng == e), run := k.run ++ [{ o with copy := copy }] })) ∧
    (isSwap o = true → e = .lku → exec (.engineOpStart c e) s = .next (s.setCore c
      { k with
        q := k.q.eraseP (fun x => x.eng == e), liveB := !k.liveB, epoch := k.epoch + 1
        tok := k.tok &&& ~~~(BitVec.twoPow 64 o.tok) })))

/-- An operation that may not complete yet, or whose core's clock is off, completes nothing; one that may, on a core with room for its
requests, performs its work once the stores placed ahead of it are performed, and then leaves the engine with its token free, unless it
faults, which stops the core with the fault's cause at the operation's own address; one that waits for another agent keeps its request
outstanding (R49, R55, R61, R72). -/
def Obligations.EngineCompletesInItsOrder : Prop :=
  ∀ (s : State) (c : CoreId) (e : Eng) (n j : Nat) (o : Op), let k := s.core c
    nthIdx (fun x => x.eng == e) k.run n 0 = some j → k.run[j]? = some o → e ≠ .lku → k.stop = none → k.chHalt = 0 →
    tabWf {} s.cores = true →
    (k.mayComplete e n o = false ∨ s.clocked c = false → exec (.engineOpComplete c e n) s = .next s) ∧
    (k.mayComplete e n o = true → s.clocked c = true → k.room = true → k.posted = [] →
      match s.runOp c o with
      | .ok t _ => exec (.engineOpComplete c e n) s = .next (t.setCore c ((t.core c).finish j o)) ∧
          ((t.core c).finish j o).tok.getLsbD o.tok = false
      | .fault t cause => exec (.engineOpComplete c e n) s = .next (t.faultOp c j o cause)
      | .wait sn => exec (.engineOpComplete c e n) s =
          .next ((s.addSnoops sn).setCore c { k with run := k.run.set j { o with waits := true } }))

/-- The integer lanes of the register operations of Table 3-11: each of the 64 lanes of VD takes its result from the same lane
of VS1 and VS2; the operation leaves the engine, its token frees, and nothing else changes (R106). -/
def Obligations.VectorIntegerLanes : Prop :=
  ∀ (s : State) (c : CoreId) (o : Op) (f : FmtV) (fn : BitVec 32 → BitVec 32 → BitVec 32), let k := s.core c
    k.run = [o] → o.eng = .vec → k.posted = [] → k.stop = none → s.clocked c = true → k.budget = none → f.t = 2 →
    (f.vopc = 0x02 ∧ o.i = .vopMov c f ∧ (∀ a b, fn a b = a)) ∨
    (f.vopc = 0x04 ∧ o.i = .vopAdd c f ∧ (∀ a b, fn a b = a + b)) ∨
    (f.vopc = 0x05 ∧ o.i = .vopSub c f ∧ (∀ a b, fn a b = a - b)) ∨
    (f.vopc = 0x06 ∧ o.i = .vopMul c f ∧ (∀ a b, fn a b = a * b)) ∨
    (f.vopc = 0x08 ∧ o.i = .vopMax c f ∧ (∀ a b, fn a b = if a.toInt < b.toInt then b else a)) ∨
    (f.vopc = 0x09 ∧ o.i = .vopMin c f ∧ (∀ a b, fn a b = if a.toInt < b.toInt then a else b)) ∨
    (f.vopc = 0x0A ∧ o.i = .vopAbs c f ∧ (∀ a b, fn a b = if a.toInt < 0 then 0 - a else a)) ∨
    (f.vopc = 0x0B ∧ o.i = .vopNeg c f ∧ (∀ a b, fn a b = 0 - a)) ∨
    (f.vopc = 0x0C ∧ o.i = .vopAnd c f ∧ (∀ a b, fn a b = a &&& b)) ∨
    (f.vopc = 0x0D ∧ o.i = .vopOr c f ∧ (∀ a b, fn a b = a ||| b)) ∨
    (f.vopc = 0x0E ∧ o.i = .vopXor c f ∧ (∀ a b, fn a b = a ^^^ b)) ∨
    (f.vopc = 0x0F ∧ o.i = .vopShl c f ∧ (∀ a b, fn a b = a <<< (b &&& 31))) ∨
    (f.vopc = 0x10 ∧ o.i = .vopShr c f ∧
      (∀ a b, fn a b = if f.x10.getLsbD 0 then a.sshiftRight' (b &&& 31) else a >>> (b &&& 31))) →
    ∃ k' : Core, s.leaves (.engineOpComplete c .vec 0) c k' ∧
      (∀ l, l < 64 → k'.rv f.vd.toNat l = fn (k.rv f.vs1.toNat l) (k.rv f.vs2.toNat l)) ∧
      (∀ r l, l < 64 → r ≠ f.vd.toNat → k'.rv r l = k.rv r l) ∧
      { k' with v := k.v } = { k with run := [], tok := k.tok &&& ~~~(BitVec.twoPow 64 o.tok) }

/-- The FP32 lanes of the register operations of Table 3-11: each lane of VD takes the exact result of its operands' lanes,
rounded once to FP32; the operation leaves the engine, its token frees, and nothing else changes (R106, R140, R141). -/
def Obligations.VectorFloatLanes : Prop :=
  ∀ (s : State) (c : CoreId) (o : Op) (f : FmtV) (fn : FV → FV → FV → FV), let k := s.core c
    k.run = [o] → o.eng = .vec → k.posted = [] → k.stop = none → s.clocked c = true → k.budget = none → f.t = 0 →
    (f.vopc = 0x04 ∧ o.i = .vopAdd c f ∧ (∀ a b d, fn a b d = a.add b)) ∨
    (f.vopc = 0x05 ∧ o.i = .vopSub c f ∧ (∀ a b d, fn a b d = a.add b.neg)) ∨
    (f.vopc = 0x06 ∧ o.i = .vopMul c f ∧ (∀ a b d, fn a b d = a.mul b)) ∨
    (f.vopc = 0x07 ∧ o.i = .vopFma c f ∧ (∀ a b d, fn a b d = (a.mul b).add d)) ∨
    (f.vopc = 0x08 ∧ o.i = .vopMax c f ∧ (∀ a b d, fn a b d = a.max b)) ∨
    (f.vopc = 0x09 ∧ o.i = .vopMin c f ∧ (∀ a b d, fn a b d = a.min b)) →
    ∃ k' : Core, s.leaves (.engineOpComplete c .vec 0) c k' ∧
      (∀ l, l < 64 → k'.rv f.vd.toNat l =
        encF32 (fn (decF32 (k.rv f.vs1.toNat l)) (decF32 (k.rv f.vs2.toNat l)) (decF32 (k.rv f.vs3.toNat l)))) ∧
      (∀ r l, l < 64 → r ≠ f.vd.toNat → k'.rv r l = k.rv r l) ∧
      { k' with v := k.v } = { k with run := [], tok := k.tok &&& ~~~(BitVec.twoPow 64 o.tok) }

/-- ACC.CLR sets every element of its bank to +0 and marks it written; the other banks and every other part of the core stay
(R103, R126). -/
def Obligations.AccumulatorClear : Prop :=
  ∀ (s : State) (c : CoreId) (o : Op) (f : FmtE), let k := s.core c
    let b := f.ra.toNat % 4
    k.run = [o] → o.eng = .mxu → o.i = .accClr c f → k.posted = [] → k.stop = none → s.clocked c = true →
    ∃ k' : Core, s.leaves (.engineOpComplete c .mxu 0) c k' ∧
      (∀ r l, r < 32 → l < 32 → k'.ra b r l = 0) ∧
      (∀ n r l, n ≠ b → r < 32 → l < 32 → k'.ra n r l = k.ra n r l) ∧
      k'.accW = k.accW ||| BitVec.twoPow 4 b ∧
      { k' with acc := k.acc, accW := k.accW } = { k with run := [], tok := k.tok &&& ~~~(BitVec.twoPow 64 o.tok) }

/-! ### Synchronisation (R51, R61 to R68, R584) -/

/-- FENCE.L places the core's earlier posted writes ahead of its later requests; FENCE.R waits until no store is outstanding and no
token pending; WAIT until its token is free; WAITALL until no token is pending and nothing posted; INV.L1 drops every line of the
L1 data cache, or in its range form those that hold a byte of the range and no other; each then passes on and changes nothing
else (R51, R61 to R63). -/
def Obligations.FencesAndWaits : Prop :=
  ∀ (s : State) (c : CoreId) (f : FmtC), s.canIssue c false = true → (s.core c).guardOk f.guard = true →
    f.rsv = 0 → f.l = false →
    let k := s.core c
    let noStore : Bool := k.posted.all fun p => !p.isStore
    let none' : Prop := f.ra = 0 ∧ f.rb = 0 ∧ f.k = 0 ∧ f.grp = 0 ∧ f.fn = 0
    (none' → s.leaves (.fenceL c f) c
      (({ k with posted := k.posted.map fun p => { p with placed := true } } : Core).past false)) ∧
    (none' → k.tok = 0 → noStore = true → s.leaves (.fenceR c f) c (k.past false)) ∧
    (none' → k.tok ≠ 0 ∨ noStore = false → s.leaves (.fenceR c f) c (k.stalled (.fenceR c f))) ∧
    (none' → k.tok = 0 → k.posted = [] → s.leaves (.waitall c f) c (k.past false)) ∧
    (none' → k.tok ≠ 0 ∨ k.posted ≠ [] → s.leaves (.waitall c f) c (k.stalled (.waitall c f))) ∧
    (f.ra = 0 → f.rb = 0 → f.grp = 0 → f.fn = 0 → s.leaves (.wait c f) c
      (if k.tok.getLsbD f.k.toNat then k.stalled (.wait c f) else k.past false)) ∧
    (none' → s.leaves (.invL1 c f) c
      (({ k with l1d := [], l1Data := [], l1Bad := k.l1Bad.filter fun e => e.1 % 2 = 1 } : Core).past false)) ∧
    (f.k = 0 → f.grp = 0 → f.fn = 1 → ∃ k' : Core, s.leaves (.invL1 c f) c k' ∧
      (∀ l, l ∈ k'.l1d ↔ l ∈ k.l1d ∧ ¬ ∃ i, i < (k.rg f.rb.toNat).toNat ∧ ((k.rg f.ra.toNat).toNat + i) / 256 = l) ∧
      { k' with l1d := k.l1d, l1Data := k.l1Data, l1Bad := k.l1Bad } = k.past false)

/-- WAIT in its signal form stalls while the masked bits of the core's signal word are all zero; else it clears exactly those that are
set, writes them to its destination register and passes on. SIGNAL and SIGNAL.EV first act as a release: they stall while a store is
outstanding, a token pending, or no request can be added; then the OR is posted to the target core of the rig, or to the rig's event
vector. A target outside the rig stops the core with cause 0x04; one that is down discards the signal (R65, R66). -/
def Obligations.SignalsReleaseAndWait : Prop :=
  (∀ (s : State) (c : CoreId) (f : FmtC), s.canIssue c false = true → (s.core c).guardOk f.guard = true →
    f.rsv = 0 → f.l = false → f.k = 0 → f.grp = 0 → f.fn = 1 →
    let k := s.core c
    let a := lockerAddr c signalOff
    let w : BitVec 64 := BitVec.ofNat 64 (leNat (mread s.mem a 8))
    let m := k.rg f.ra.toNat
    s.mark a = .none → s.flipArmed 3 c = false →
    (w &&& m = 0 → s.leaves (.waitSignal c f) c (k.stalled (.waitSignal c f))) ∧
    (w &&& m ≠ 0 → ∃ t, exec (.waitSignal c f) s = .next t ∧
      mread t.mem a 8 = leBytes 8 (w &&& ~~~m).toNat ∧ (∀ x, x < a ∨ a + 8 ≤ x → mget t.mem x = mget s.mem x) ∧
      (∀ x, t.mark x = s.mark x) ∧ { t.core c with l1i := k.l1i } = (k.wg f.rb.toNat (w &&& m)).past false ∧
      (∀ n, n ≠ c.val → t.core n = s.core n) ∧ { t with cores := s.cores, mem := s.mem, errs := s.errs } = s)) ∧
  (∀ (s : State) (c : CoreId) (f : FmtC), s.canIssue c false = true → (s.core c).guardOk f.guard = true →
    f.rsv = 0 → f.l = false → f.k = 0 → f.grp = 0 →
    let k := s.core c
    let ready : Bool := k.tok == 0 && k.posted.all fun p => !p.isStore
    let v := k.rg f.rb.toNat
    let t := (k.rg f.ra.toNat).toNat
    (f.fn = 0 → 4096 ≤ t ∨ s.rigOfCore t ≠ s.rigOfCore c → s.leaves (.signal c f) c (k.halted 4)) ∧
    (f.fn = 0 → t < 4096 → s.rigOfCore t = s.rigOfCore c → (s.core t).down = true → s.leaves (.signal c f) c
      (if ready then k.past false else k.stalled (.signal c f))) ∧
    (f.fn = 0 → t < 4096 → s.rigOfCore t = s.rigOfCore c → (s.core t).down = false → s.leaves (.signal c f) c
      (if ready && decide (k.outstanding < 256)
       then ({ k with posted := k.posted ++ [{ p := .orTo (Fin.ofNat 4096 t) v, pc := k.pc.toNat }] } : Core).past false
       else k.stalled (.signal c f))) ∧
    (f.fn = 1 → f.ra = 0 → s.leaves (.signalEv c f) c
      (if ready && decide (k.outstanding < 256)
       then ({ k with posted := k.posted ++ [{ p := .event v, pc := k.pc.toNat }] } : Core).past false else k.stalled (.signalEv c f))))

/-- BAR of a group the core belongs to waits for its release and then for the group; a core outside the group, or with no
command, stops with cause 0x0E. A core waiting at a barrier arrives; once every member has arrived or ended, those that arrived go
on past their BAR and the group's arrivals are forgotten; arrivals and releases pass where no router on their way holds them, as R322
puts it (R67, R68). -/
def Obligations.BarriersArriveAndRelease : Prop :=
  (∀ (s : State) (c : CoreId) (f : FmtC), s.canIssue c false = true → (s.core c).guardOk f.guard = true →
    f.rsv = 0 → f.l = false → f.ra = 0 → f.rb = 0 → f.k = 0 → f.fn = 0 →
    let k := s.core c
    let ready : Bool := k.tok == 0 && k.posted.all fun p => !p.isStore
    (s.cmdOf c = none → s.leaves (.bar c f) c (k.halted 0x0E)) ∧
    (∀ m, s.cmdOf c = some m →
      ((m.group f.grp.toNat).getLsbD c = false → s.leaves (.bar c f) c (k.halted 0x0E)) ∧
      ((m.group f.grp.toNat).getLsbD c = true → s.leaves (.bar c f) c
        (if ready then { k with atBar := some (Fin.ofNat 16 f.grp.toNat), stall := none } else k.stalled (.bar c f))))) ∧
  (∀ (s : State) (c : CoreId) (g : Fin 16) (r : RigId) (m : Cmd), (s.core c).atBar = some g → s.rigOfCore c = some r.val →
    (s.rig r).running = some m → s.passes (s.coreNode c) .front = true → ∃ t m', exec (.barrierArrival c) s = .next t ∧ (t.rig r).running = some m' ∧
      (∀ i, i < 4096 → (tget 0 m'.arrived g).getLsbD i = ((tget 0 m.arrived g).getLsbD i || i == c.val)) ∧
      { m' with arrived := m.arrived } = m ∧ { t with rigs := s.rigs } = s ∧ (∀ n, n ≠ r.val → t.rig n = s.rig n) ∧
      { t.rig r with running := some m } = s.rig r) ∧
  (∀ (s : State) (r : RigId) (g : Fin 16) (m : Cmd), (s.rig r).running = some m →
    let grp := m.group g
    let got := tget 0 m.arrived g
    got ≠ 0 → grp ≠ 0 → (∀ i, i < 4096 → grp.getLsbD i = true → got.getLsbD i = true ∨ m.ended.getLsbD i = true) →
    tabWf {} s.cores = true → s.mcastPasses grp = true →
    ∃ t, exec (.barrierRelease r g) s = .next t ∧
      (∀ c, c < 4096 → (s.core c).atBar = some g → got.getLsbD c = true → grp.getLsbD c = true →
        t.core c = ({ s.core c with atBar := none } : Core).past false) ∧
      (∀ c, (s.core c).atBar ≠ some g ∨ got.getLsbD c = false ∨ grp.getLsbD c = false → t.core c = s.core c) ∧
      (t.rig r).running = some { m with arrived := tset 0 m.arrived g 0 } ∧ { t with cores := s.cores, rigs := s.rigs } = s)

/-! ### Core execution events (R43, R47, R59 to R65, R73 to R77) -/

/-- ISSUE_RESUME completes: a core stalled on an instruction issues it again, and a core whose issue is free fetches the words at its PC
and issues the instruction they spell; a word that spells none stops the core with cause 0x01. DISPATCH completes: a core that is not
down receives its packet and starts with the entry address as PC, g1 to g4 as Table 2-2 gives them, every other register, predicate and
descriptor zero, its accumulators unwritten, its tokens free, its cycle count at zero, its L1 caches empty and its signal word zero; a
core that is down drops it (R41, R43, R77, R83, R324). -/
def Obligations.ResumeAndDispatch : Prop :=
  (∀ (s : State) (c : CoreId) (i : Instr), (s.core c).stall = some i → (coreForm i).isSome = true → i.wf = true →
    ∃ t, exec (.issueResume c) s = .next t ∧ exec i s = .next t) ∧
  (∀ (s : State) (c : CoreId), s.canIssue c false = true → let k := s.core c
    let w := coreInstr c (BitVec.ofNat 64 (leNat (mread s.mem k.pc.toNat 8))) (BitVec.ofNat 64 (leNat (mread s.mem (k.pc.toNat + 8) 8)))
    (∀ i, w = some i → ∃ t, exec (.issueResume c) s = .next t ∧ exec i (s.fetched c false) = .next t) ∧
    (w = none → s.leaves (.issueResume c) c (k.halted 1))) ∧
  (∀ (s : State) (c : CoreId) (d : Disp), (s.core c).disp = some d → (s.core c).down = true →
    exec (.dispatch c) s = .next (s.setCore c { s.core c with disp := none })) ∧
  (∀ (s : State) (c : CoreId) (d : Disp), (s.core c).disp = some d → (s.core c).down = false →
    s.passes .front (s.coreNode c) = true → ∃ t, exec (.dispatch c) s = .next t ∧
      let k := t.core c
      k.phase = .running ∧ k.pc = BitVec.ofNat 64 d.entry ∧ k.disp = none ∧ k.stop = none ∧ k.stall = none ∧ k.atBar = none ∧
      k.rg 1 = BitVec.ofNat 64 c ∧ k.rg 2 = BitVec.ofNat 64 d.index ∧ k.rg 3 = BitVec.ofNat 64 d.count ∧
      k.rg 4 = BitVec.ofNat 64 d.opnd ∧ (∀ r, r < 32 → r = 0 ∨ 5 ≤ r → k.rg r = 0) ∧
      k.p = 0 ∧ k.d = [] ∧ k.v = [] ∧ k.acc = [] ∧ k.accW = 0 ∧ k.tok = 0 ∧ k.ret = [] ∧ k.chHalt = 0 ∧ k.q = [] ∧ k.run = [] ∧
      k.posted = [] ∧ k.l1d = [] ∧ k.l1i = [] ∧ k.cyc = 0 ∧ k.epoch = (s.core c).epoch ∧ (∀ n, n ≠ c.val → t.core n = s.core n) ∧
      (s.flipArmed 3 c = false → mread t.mem (lockerAddr c signalOff) 8 = leBytes 8 0 ∧
        (∀ x, x < lockerAddr c signalOff ∨ lockerAddr c signalOff + 8 ≤ x → mget t.mem x = mget s.mem x) ∧
        { t with cores := s.cores, mem := s.mem, errs := s.errs } = s))

/-- STOP_DRAIN_DONE completes: a stopping core whose work has drained is stopped and its DMA channels are reset; one with work left goes on
draining. CORE_END_REPORT completes: a core whose program has ended and whose work is performed has ended its part, in any rig.
CORE_MARKED_DOWN completes: a core that is down stays so when it is marked again; any other is down from then on, with nothing queued,
posted or stalled, its yard's source is raised, and where it is in a rig the rig's cause bit is set and a running command of the rig that
uses it counts it as stopped (R47, R73, R76, R77). -/
def Obligations.CoresDrainEndAndGoDown : Prop :=
  (∀ (s : State) (c : CoreId), let k := s.core c
    (k.phase = .draining → k.q = [] → k.run = [] → k.posted = [] →
      exec (.stopDrainDone c) s = .next (s.setCore c { k with phase := .stopped, chHalt := 0 })) ∧
    (k.phase ≠ .draining ∨ k.q ≠ [] ∨ k.run ≠ [] ∨ k.posted ≠ [] → exec (.stopDrainDone c) s = .next s)) ∧
  (∀ (s : State) (c : CoreId), let k := s.core c
    (k.phase = .ending → k.tok = 0 → k.posted = [] → s.passes (s.coreNode c) .front = true →
      ∃ t, exec (.coreEndReport c) s = .next t ∧
      t.core c = { k with phase := .ended } ∧ (∀ n, n ≠ c.val → t.core n = s.core n) ∧ t.mem = s.mem ∧
      (∀ r m, s.rigOfCore c = some r → (s.rig r).running = some m →
        ∃ m', (t.rig r).running = some m' ∧ m'.ended.getLsbD c = true ∧ { m' with ended := m.ended } = m))) ∧
  (∀ (s : State) (c : CoreId), (s.core c).down = true → exec (.coreMarkedDown c) s = .next s) ∧
  (∀ (s : State) (c : CoreId), (s.core c).down = false →
    ∃ t, exec (.coreMarkedDown c) s = .next t ∧ (t.core c).down = true ∧ (t.core c).q = [] ∧ (t.core c).run = [] ∧
      (t.core c).posted = [] ∧ (t.core c).stall = none ∧ (t.core c).disp = none ∧ (t.core c).phase ≠ .running ∧
      t.mem = s.mem ∧ t.evt.pend.getLsbD (1024 + 4 * (c.val / 16)) = true ∧
      (s.rigOfCore c = none → ∀ n, n ≠ c.val → t.core n = s.core n) ∧
      (∀ r, s.rigOfCore c = some r → (tget 0 t.evt.cause r).getLsbD 1 = true ∧
        ∀ m, (s.rig r).running = some m → m.stage = .running → m.onCores = true → m.cores.getLsbD c = true →
          ∃ m', (t.rig r).running = some m' ∧ m'.stopped.getLsbD c = true))

/-- The stop report of a core that a command runs on and that has stopped reaches the front end where no router on its way holds it: the
core counts as stopped; causes 0x0C and 0x0D are not kept; the first other cause is kept with its core, and of reports of one tick the
one whose status ranks higher, or of equal status the lower core's; the other running cores of the command stop (R74, R75). -/
def Obligations.StopReportsStopTheCommand : Prop :=
  ∀ (s : State) (c : CoreId) (r : RigId) (m : Cmd) (st : Stop), s.rigOfCore c = some r.val → (s.core c).stop = some st →
    (s.core c).phase = .stopped → (s.rig r).running = some m → m.cores.getLsbD c = true → m.stopped.getLsbD c = false →
    s.passes (s.coreNode c) .front = true → tabWf {} s.cores = true →
    ∃ t m', exec (.stopReport c) s = .next t ∧ (t.rig r).running = some m' ∧ m'.stopped.getLsbD c = true ∧
      (st.cause = 0x0C ∨ st.cause = 0x0D → m'.rep = m.rep) ∧
      (st.cause ≠ 0x0C → st.cause ≠ 0x0D →
        (m.rep = none → m'.rep = some (c.val, st)) ∧
        (∀ x, m.rep = some x → m.repAt ≠ s.adm.now → m'.rep = some x) ∧
        (∀ x, m.rep = some x → m.repAt = s.adm.now →
          let rank (z : Stop) : Nat := match causeStatus z.cause with | 0x21 => 4 | 0x20 => 3 | 0x22 => 2 | 0x23 => 1 | _ => 0
          m'.rep = some (if rank x.2 < rank st ∨ rank st = rank x.2 ∧ c.val < x.1 then (c.val, st) else x))) ∧
      t.core c = s.core c ∧ t.mem = s.mem ∧
      (∀ n, n < 4096 → n ≠ c.val → m.cores.getLsbD n = true → (s.core n).disp = none →
        (s.core n).phase = .running ∨ (s.core n).phase = .ending → (t.core n).phase = .draining ∧
          (t.core n).stop = (if (s.core n).stop.isSome then (s.core n).stop else some ⟨0x0C, (s.core n).pc.toNat⟩)) ∧
      (∀ n, m.cores.getLsbD n = false → t.core n = s.core n)

/-- A posted write that may be next has none before it for its destination that is not performed, and while any may be next one is. A
posted store that is next reaches the locker it names with its bytes and leaves the list; a posted signal that is next ORs its value into
the signal word of its target, and no other byte changes, or the event form sets its cause bits; it stays outstanding until it is
acknowledged (R55, R59, R65, R66, R310). -/
def Obligations.PostedWritesArrive : Prop :=
  (∀ (s : State) (c : CoreId) (f : Posted → Bool) (i : Nat), let ps := (s.core c).posted
    let ready (j : Nat) : Prop := ∃ p, ps[j]? = some p ∧ f p = true ∧
      ∀ n q, n < j → ps[n]? = some q → q.done = true ∨ s.postDest q.p ≠ s.postDest p.p
    (s.nextPost c f = some i → ready i) ∧ (ready i → s.nextPost c f ≠ none)) ∧
  (∀ (s : State) (c t' : CoreId) (i : Nat) (p : Posted) (off : Nat) (bs : List Byte), let k := s.core c
    s.furled c = false → s.nextPost c (fun p => p.isStore || p.done) = some i → k.posted[i]? = some p →
    p.p = .store (lockerAddr t' off) bs → off + bs.length ≤ lockerSize → bs ≠ [] → s.refusedAt c (lockerAddr t' off) = false →
    s.linked (.core c) (lockerAddr t' off) = true → s.flipArmed 3 t' = false → ∃ t, exec (.storeAcknowledgement c) s = .next t ∧
      mread t.mem (lockerAddr t' off) bs.length = bs ∧
      (∀ x, x < lockerAddr t' off ∨ lockerAddr t' off + bs.length ≤ x → mget t.mem x = mget s.mem x) ∧
      (t.core c).posted = k.posted.eraseIdx i) ∧
  (∀ (s : State) (c t' : CoreId) (i : Nat) (p : Posted) (v : BitVec 64), let k := s.core c
    s.furled c = false → s.nextPost c (fun p => !p.isStore && !p.done) = some i → k.posted[i]? = some p → p.p = .orTo t' v →
    s.refusedAt c (lockerAddr t' signalOff) = false → s.postPasses c p.p = true → s.flipArmed 3 t' = false →
    s.mark (lockerAddr t' signalOff) = .none → ∃ t, exec (.signalOrArrival c) s = .next t ∧
      mread t.mem (lockerAddr t' signalOff) 8 =
        leBytes 8 (BitVec.ofNat 64 (leNat (mread s.mem (lockerAddr t' signalOff) 8)) ||| v).toNat ∧
      (∀ x, x < lockerAddr t' signalOff ∨ lockerAddr t' signalOff + 8 ≤ x → mget t.mem x = mget s.mem x) ∧
      t.core c = { k with posted := k.posted.set i { p with done := true } } ∧ (∀ n, n ≠ c.val → t.core n = s.core n)) ∧
  (∀ (s : State) (c : CoreId) (r i : Nat) (p : Posted) (v : BitVec 64), let k := s.core c
    s.furled c = false → s.nextPost c (fun p => !p.isStore && !p.done) = some i → k.posted[i]? = some p → p.p = .event v →
    s.rigOfCore c = some r → s.postPasses c p.p = true → ∃ t, exec (.signalOrArrival c) s = .next t ∧
      tget 0 t.evt.cause r = tget 0 s.evt.cause r ||| BitVec.ofNat 16 (16 * (v.toNat % 4096)) ∧ t.mem = s.mem ∧
      t.core c = { k with posted := k.posted.set i { p with done := true } } ∧ (∀ n, n ≠ c.val → t.core n = s.core n)) ∧
  (∀ (s : State) (c : CoreId) (i : Nat) (p : Posted), let k := s.core c
    s.furled c = false → s.nextPost c (fun p => p.isStore || p.done) = some i → k.posted[i]? = some p → p.isStore = false →
    exec (.storeAcknowledgement c) s =
      .next (({ s with free := s.free + 1 } : State).setCore c { k with posted := k.posted.eraseIdx i }))

/-! ### The last-level cache (08) -/

/-- A read or a write whose sectors a slice holds is a hit: the read answers the bytes at the point of coherence and changes no
memory; the write replaces exactly its bytes, and is answered at once where the line's flag is set, else it sends set-written and waits
for the reply. A read that misses is recorded as a fill and changes no memory. Hits and misses are counted by class (R217, R218, R221,
R227). -/
def Obligations.LlcRequestsHitOrMiss : Prop :=
  ∀ (s : State) (who : Who) (cls : Fin 5) (a : Nat) (op : LlcOp), let r : LlcReq := { who := who, cls := cls, a := a, op := op }
    let l := a / 1024
    s.llcReqOk r = true → s.llc.heldG.contains (a / 4096) = false → (∀ f ∈ s.llc.fwd, f.1 ≠ l) → s.snoopLines r = [] →
    (∀ f ∈ s.llc.fills, f.line ≠ l) → (∀ q ∈ s.llc.reds, q.1 ≠ l) → s.ras.flipTgt.getLsbD 63 = false →
    (∀ e ∈ s.llc.lines, e.2.tag = 0) → (∀ d ∈ s.llc.dir, d.bad = 0) → s.llc.splits = [] →
    (∀ x n, op = .read n → s.line l = some x → sectorsOf a n &&& ~~~x.valid = 0 → x.bad1 = 0 → x.bad2 = 0 →
      (∀ i, i < 16 → (sectorsOf a n).getLsbD i = true → s.mark (sectorAddr l i) ≠ .ue) →
      ∃ t, exec (.llcRequest who cls a op) s = .next t ∧ t.llc.out = some (mread s.mem a n, false) ∧ t.mem = s.mem ∧
        t.gran = s.gran ∧ tget 0 t.llc.hits cls = tget 0 s.llc.hits cls + 1 ∧ t.llc.misses = s.llc.misses) ∧
    (∀ x bs, op = .write bs → s.line l = some x → sectorsOf a bs.length &&& ~~~x.valid = 0 → x.bad1 = 0 → x.bad2 = 0 →
      (s.inWay x.slice x.set x.way).length ≤ 1 → s.llc.lines.Pairwise (fun x y => x.1 < y.1) →
      ∃ t, exec (.llcRequest who cls a op) s = .next t ∧ mread t.mem a bs.length = bs ∧
        (∀ b, b < a ∨ a + bs.length ≤ b → mget t.mem b = mget s.mem b) ∧
        (x.flag = true → t.llc.out = some ([], false) ∧ t.llc.setW = s.llc.setW ∧ t.llc.acks = s.llc.acks) ∧
        (x.flag = false → t.llc.out = s.llc.out ∧ t.llc.setW.contains (a / 4096) = true ∧ t.llc.acks = s.llc.acks ++ [l]) ∧
        tget 0 t.llc.hits cls = tget 0 s.llc.hits cls + 1) ∧
    (∀ n, op = .read n → s.line l = none → s.llc.setW = [] → ∃ t way, exec (.llcRequest who cls a op) s = .next t ∧ t.mem = s.mem ∧
      t.llc.fills = s.llc.fills ++ [⟨l, way, { r with counted := true }⟩] ∧ tget 0 t.llc.misses cls = tget 0 s.llc.misses cls + 1 ∧
      t.llc.hits = s.llc.hits)

/-- A fill that returns for a waiting read, without allocation and with good words of a written granule, answers the bytes at the
point of coherence; the fill is gone and memory is unchanged. With no fill of the line nothing happens (R223, R228). -/
def Obligations.FillReturnAnswersTheReader : Prop :=
  (∀ (s : State) (l : Nat), (∀ f ∈ s.llc.fills, f.line ≠ l) → exec (.llcFillReturn l) s = .next s) ∧
  (∀ (s : State) (l n : Nat) (fs : List FillReq) (r : LlcReq), s.llc.fills = ⟨l, none, r⟩ :: fs → r.op = .read n → n ≠ 0 →
    r.a / 1024 = l → (r.a + n - 1) / 1024 = l → s.line l = none → s.llc.waiting = [] → s.llc.splits = [] → place r.a = .hbm →
    s.granAt r.a = .written → (∀ i, i < 16 → s.mark (sectorAddr l i) = .none) →
    (∀ i, i < 16 → (s.chan (chanUnit (sectorAddr l i))).lost = false) →
    ∃ t, exec (.llcFillReturn l) s = .next t ∧ t.llc.out = some (mread s.mem r.a n, false) ∧ t.llc.fills = fs ∧ t.mem = s.mem ∧
      t.llc.lines = s.llc.lines)

/-- A set-written message leaves its granule written, zero where it was not written and no slice holds the sector, and the reply sets the
flag of the granule's resident lines and of no other, and acknowledges its writes. A dead drop that finds nothing under way removes every
line of its granule without write-back, back-invalidates the host's copies and holds the granule's requests; once those copies are gone,
the dead mark makes the granule read as zero with no error, and no other byte or granule changes (R227, R229, R230, R264). -/
def Obligations.GranulesAreWrittenAndDropped : Prop :=
  (∀ (s : State) (g : Nat),
    (s.llc.setW.contains g = false → exec (.setWritten g) s = .next s) ∧
    (s.llc.setW.contains g = true → ∃ t, exec (.setWritten g) s = .next t ∧ tget .unwritten t.gran g = .written ∧
      (∀ h, h ≠ g → tget .unwritten t.gran h = tget .unwritten s.gran h) ∧ t.llc.setW.contains g = false ∧
      (∀ a, a / 4096 ≠ g ∨ tget .unwritten s.gran g = .written ∨ s.cachedWord (a / 64 * 64) = true → mget t.mem a = mget s.mem a) ∧
      (∀ a, a / 4096 = g → tget .unwritten s.gran g ≠ .written → s.cachedWord (a / 64 * 64) = false → mget t.mem a = 0) ∧
      t.llc.setR.contains g = true ∧ { t with gran := s.gran, llc := s.llc, mem := s.mem, errs := s.errs } = s) ∧
    (s.llc.setR.contains g = false → exec (.setWrittenReply g) s = .next s) ∧
    (s.llc.setR.contains g = true → ∃ t, exec (.setWrittenReply g) s = .next t ∧ t.llc.setR.contains g = false ∧
      (∀ l, t.line l = (s.line l).map fun x => if l / 4 = g then { x with flag := true } else x) ∧
      (∀ l, l / 4 = g → s.llc.splits.contains l = false → s.llc.setW.contains g = false → l ∉ t.llc.acks) ∧
      { t with llc := s.llc } = s)) ∧
  (∀ (s : State) (g : Nat),
    (place (4096 * g) = .hbm → s.llc.fills = [] → s.llc.waiting = [] → s.llc.reds = [] → s.llc.fwd = [] → s.llc.fwdHeld = [] →
      s.llc.snHeld = [] → s.llc.setW.contains g = false → s.llc.setR.contains g = false → (∀ d ∈ s.llc.dir, d.bad = 0) →
      ∃ t, exec (.deadDrop g) s = .next t ∧ (∀ e ∈ t.llc.lines, e.1 / 4 ≠ g) ∧
      (∀ e ∈ s.llc.lines, e.1 / 4 ≠ g → e ∈ t.llc.lines) ∧
      (∀ e ∈ s.llc.dir, e.line / 64 = g → t.llc.snoops.contains e.line = true ∧ t.llc.frees.contains e.line = true) ∧
      t.llc.heldG.contains g = true ∧ { t with llc := s.llc } = s) ∧
    (place (4096 * g) ≠ .hbm → exec (.deadDrop g) s = .next s) ∧
    (s.llc.heldG.contains g = false ∨ (∃ e ∈ s.llc.dir, e.line / 64 = g) → exec (.deadMarkAck g) s = .next s) ∧
    (s.llc.heldG.contains g = true → (∀ e ∈ s.llc.dir, e.line / 64 ≠ g) → (∀ r ∈ s.llc.snHeld, r.a / 4096 ≠ g) →
      (∀ r ∈ s.llc.held, r.a / 4096 ≠ g) → ∃ t, exec (.deadMarkAck g) s = .next t ∧
      t.granAt (4096 * g) = .dead ∧
      (∀ h, h ≠ g → tget .unwritten t.gran h = tget .unwritten s.gran h) ∧
      (∀ a, a / 4096 = g → mget t.mem a = 0 ∧ t.mark a = .none) ∧ (∀ a, a / 4096 ≠ g → mget t.mem a = mget s.mem a) ∧
      t.llc.heldG.contains g = false ∧ t.llc.lines = s.llc.lines))

/-- An accepted reduction of one word is applied at the slice, or at the home controller when it was forwarded, as one read,
combination and write: its word becomes the combination of Table 8-6 and no other byte changes. Integer ADD is modulo 2^32, MAX and
MIN are signed (R234, R235, R238, R239). -/
def Obligations.ReductionsCombineOneWord : Prop :=
  (∀ d x : BitVec 32, redWord 0 true d x = d + x ∧ redWord 1 true d x = (if d.toInt < x.toInt then x else d) ∧
    redWord 2 true d x = (if x.toInt < d.toInt then x else d)) ∧
  (∀ (s : State) (l : Nat) (q : LlcReq) (op : Fin 4) (int : Bool) (x : BitVec 32) (y : Line) (es : List (Nat × LlcReq)),
    let a := q.a
    let d : BitVec 32 := BitVec.ofNat 32 (leNat (mread s.mem a 4))
    s.llc.reds = (l, q) :: es → q.op = .red ⟨op, int, [x]⟩ → op ≠ 3 → s.line l = some y →
    sectorsOf a 4 &&& ~~~y.valid = 0 → y.bad1 = 0 → y.bad2 = 0 → (s.inWay y.slice y.set y.way).length ≤ 1 → s.llc.splits = [] →
    s.llc.lines.Pairwise (fun x y => x.1 < y.1) → (∀ i, i < 16 → s.mark (sectorAddr l i) ≠ .ue) → s.ras.flipTgt.getLsbD 63 = false →
    ∃ t, exec (.reductionApply l) s = .next t ∧ t.llc.reds = es ∧
      (y.flag = true → t.llc.out = some ([], false)) ∧ (y.flag = false → t.llc.acks = s.llc.acks ++ [l]) ∧
      mread t.mem a 4 = leBytes 4 (redWord op int d x).toNat ∧ (∀ b, b < a ∨ a + 4 ≤ b → mget t.mem b = mget s.mem b)) ∧
  (∀ (s : State) (l : Nat) (q : LlcReq) (op : Fin 4) (int : Bool) (x : BitVec 32),
    let a := q.a
    let d : BitVec 32 := BitVec.ofNat 32 (leNat (mread s.mem a 4))
    s.llc.fwd = [(l, q)] → q.op = .red ⟨op, int, [x]⟩ → s.llc.fwdHeld = [] → op ≠ 3 → a % 4 = 0 → place a = .hbm →
    s.granAt a = .written → s.mark (wordOf a) = .none → (s.chan (chanUnit a)).lost = false → s.ras.flipTgt.getLsbD 63 = false →
    ∃ t, exec (.forwardAck l) s = .next t ∧ t.llc.fwd = [] ∧ t.llc.out = some ([], false) ∧
      mread t.mem a 4 = leBytes 4 (redWord op int d x).toNat ∧ (∀ b, b < a ∨ a + 4 ≤ b → mget t.mem b = mget s.mem b))

/-- The host's answer to a snoop of a line it holds modified is merged at the point of coherence: exactly its 64 bytes change, and with
no write waiting the host keeps the line shared; an answer to no snoop changes nothing. A window in which a slice's queue was three
quarters full for at least half its cycles is recorded and counted and raises source 12. A stream tracker that is released is forgotten,
and no other is; with RELEASE zero none is released (R222, R242, R244, Table 8-5). -/
def Obligations.HostSnoopsHotWindowsAndTrackers : Prop :=
  (∀ (s : State) (a : Nat) (d : Option (BitVec 512)), s.llc.snoops.contains (a / 64) = false →
    exec (.hostSnoopResponse a d) s = .next s) ∧
  (∀ (s : State) (a : Nat) (d : BitVec 512) (x : Line) (e : DirEnt), s.llc.snoops.contains (a / 64) = true →
    s.llc.frees.contains (a / 64) = false → s.llc.heldG.contains (a / 4096) = false →
    s.llc.dir = [e] → e.line = a / 64 → e.modified = true → e.age ≠ 0 → s.llc.snHeld = [] → s.line (a / 1024) = some x →
    (s.inWay x.slice x.set x.way).length ≤ 1 → s.llc.lines.Pairwise (fun x y => x.1 < y.1) →
    ∃ t, exec (.hostSnoopResponse a (some d)) s = .next t ∧ mread t.mem (a / 64 * 64) 64 = leBytes 64 d.toNat ∧
      (∀ b, b < a / 64 * 64 ∨ a / 64 * 64 + 64 ≤ b → mget t.mem b = mget s.mem b) ∧ t.llc.dir = [{ e with modified := false }] ∧
      t.llc.snoops.contains (a / 64) = false) ∧
  (∀ (s : State) (k : SliceId) (occ : Nat), 50 ≤ occ → occ ≤ 100 → ∃ t, exec (.hotSliceWindowEnd k occ) s = .next t ∧
    t.hot.hot = true ∧ t.hot.slice = k ∧ t.hot.occ = occ ∧
    t.hot.count = (if s.hot.count < 0xFFFF then s.hot.count + 1 else 0xFFFF) ∧ t.evt.pend.getLsbD 12 = true ∧
    { t with hot := s.hot, evt := s.evt } = s) ∧
  (∀ (s : State) (k : SliceId) (occ : Nat), occ < 50 → exec (.hotSliceWindowEnd k occ) s = .next s) ∧
  (∀ (s : State) (k : SliceId) (who : Who), let release := (s.reg 0x070010).extractLsb' 16 8
    (release = 0 → exec (.streamTrackerRelease k who) s = .next s) ∧
    (release ≠ 0 → ∃ t, exec (.streamTrackerRelease k who) s = .next t ∧
      (∀ x ∈ t.llc.trk, ¬ (x.slice = k ∧ x.who = who)) ∧ (∀ x ∈ s.llc.trk, ¬ (x.slice = k ∧ x.who = who) → x ∈ t.llc.trk) ∧
      { t with llc := { t.llc with trk := s.llc.trk } } = s))

/-- An access to a locker through the mesh by a core of the locker's rig, by the host or by the front end reads or writes exactly its
bytes; a read of a locker whose core is down, or by a core where it is powered off, answers poison, a host read while the rig is
re-rigged zeros, and a requester of another rig reaches nothing; while routers on its way hold it nothing happens. A data line is filled
into an empty L1 with the bytes of its tile (R35, R205 to R209, R306, R322, R416). -/
def Obligations.LockerAccessAndL1Fill : Prop :=
  (∀ (s : State) (who : Who) (c : CoreId) (off n : Nat) (bs : List Byte), let a := lockerAddr c off
    let refused : Bool := match who with | .core d => s.refusedAt d a | _ => (s.core c).down
    let allowed : Prop := match who with
      | .core d => s.rigOfCore d = s.rigOfCore c ∧ (s.rigOfCore c).isSome = true ∧ s.furled d = false
      | _ => True
    let zeroed : Prop := who = .host ∧ s.rerigging a = true
    (s.linked who a = false → exec (.lockerRemoteAccess who c off (.read n)) s = .next s ∧
      exec (.lockerRemoteAccess who c off (.write bs)) s = .next s) ∧
    (s.linked who a = true → zeroed → off + n ≤ lockerSize →
      exec (.lockerRemoteAccess who c off (.read n)) s = .next { s with rsp := some (leBytes n 0, false) } ∧
      exec (.lockerRemoteAccess who c off (.write bs)) s = .next s) ∧
    (s.linked who a = true → ¬ zeroed →
      (refused = false → allowed → off + n ≤ lockerSize → (∀ w ∈ wordsOf a n, s.mark w = .none) →
        exec (.lockerRemoteAccess who c off (.read n)) s = .next { s with rsp := some (mread s.mem a n, false) }) ∧
      (refused = true → off + n ≤ lockerSize → ∃ z, exec (.lockerRemoteAccess who c off (.read n)) s =
        .next { s with rsp := some (z, true) }) ∧
      (refused = false → ¬ allowed → exec (.lockerRemoteAccess who c off (.read n)) s = .next s) ∧
      (refused = false → allowed → off + bs.length ≤ lockerSize → bs ≠ [] → s.flipArmed 3 c = false →
        ∃ t, exec (.lockerRemoteAccess who c off (.write bs)) s = .next t ∧ mread t.mem a bs.length = bs ∧
          (∀ b, b < a ∨ a + bs.length ≤ b → mget t.mem b = mget s.mem b)))) ∧
  (∀ (s : State) (c : CoreId) (a n off : Nat), let k := s.core c
    let b := a / 256 * 256
    k.down = false → s.clocked c = true → k.room = true → a < 2 ^ 48 → s.mayAddr c a = true → place a = .tile n off → k.l1d = [] →
    k.posted = [] → s.linked (.core c) b = true → s.tileOpen n (off / 256 * 256) (decide (c.val ≠ n)) = true →
    s.granAt a = .written → (∀ w ∈ wordsOf b 256, s.mark w = .none) → s.flipArmed 5 c = false →
    ∃ t, exec (.l1Fill c false a) s = .next t ∧ (t.core c).l1d = [a / 256] ∧
      mread (t.core c).l1Data b 256 = mread s.mem b 256 ∧ t.mem = s.mem ∧ (∀ m, m ≠ c.val → t.core m = s.core m))

/-! ### Tiles, refresh and HBM channels (09, 18) -/

/-- A request to a free bank of an idle tile, through either queue, opens its row and reads or writes exactly its bytes; one to a
bank under refresh waits in its queue, cut into transfers of 64 B; one to a core that is down or outside one bank reaches nothing (R253,
R254, R263, R266). -/
def Obligations.TileRequestsServeOrWait : Prop :=
  ∀ (s : State) (c : CoreId) (mesh : Bool) (off n : Nat) (bs : List Byte), let k := s.tile c
    let b := off / 0x800000
    let a := tileAddr c off
    let idle : Prop := k.cq = [] ∧ k.mq = [] ∧ k.hold = false ∧ k.cpart = {} ∧ k.mpart = {} ∧ ∀ j, j < 16 → (s.bank c j).held = []
    (n = 0 ∨ 0x8000000 < off + n ∨ b ≠ (off + n - 1) / 0x800000 ∨ (s.core c).down = true →
      exec (.tileRequest c mesh off (.read n)) s = .next s) ∧
    (n ≠ 0 → off + n ≤ 0x8000000 → b = (off + n - 1) / 0x800000 → (s.core c).down = false → idle →
      (k.refr.getLsbD b = true → ∃ t q, exec (.tileRequest c mesh off (.read n)) s = .next t ∧ t.mem = s.mem ∧
        q = (if mesh then (t.tile c).mq else (t.tile c).cq) ∧ q.length = (off + n - 1) / 64 - off / 64 + 1 ∧
        (∀ i x, q[i]? = some x → x.off = max off ((off / 64 + i) * 64) ∧ x.mesh = mesh ∧ x.last = decide (i + 1 = q.length) ∧
          x.op = .read (min (off + n) ((off / 64 + i + 1) * 64) - x.off)) ∧
        { t.tile c with mq := [], cq := [] } = k) ∧
      (k.refr.getLsbD b = false → (s.bank c b).busy = false →
        (∀ w ∈ wordsOf a n, s.granAt w = .written ∧ s.mark w = .none) →
        ∃ t, exec (.tileRequest c mesh off (.read n)) s = .next t ∧ t.mem = s.mem ∧
          tget none (t.tile c).openRow b = some ((off + n - 1) % 0x800000 / 2048) ∧
          { t.tile c with openRow := k.openRow } = { k with out := some (mread s.mem a n, false), turn := 0 })) ∧
    (bs ≠ [] → off + bs.length ≤ 0x8000000 → b = (off + bs.length - 1) / 0x800000 → (s.core c).down = false → idle →
      k.refr.getLsbD b = false → (s.bank c b).busy = false → s.ras.flipTgt.getLsbD 63 = false →
      (∀ w ∈ wordsOf a bs.length, s.granAt w = .written) →
      ∃ t, exec (.tileRequest c mesh off (.write bs)) s = .next t ∧ mread t.mem a bs.length = bs ∧
        (∀ x, x < a ∨ a + bs.length ≤ x → mget t.mem x = mget s.mem x) ∧ (t.tile c).out = some ([], false))

/-- A refresh that falls due closes the bank's row and makes the bank unavailable, unless its unit is busy or between slices, when
it is owed, two at most; its end makes the bank available again, and ends a command that waited for it. A row closed is no longer open,
and no other row changes. A tile's refresh interval doubles its rate above 85 degrees, its temperature raised by up to 6 degrees with the
units' busy time, and returns below 83; an HBM channel's by its stack's readout. The duty limit pauses until the next duty window (R253,
R266 to R269, R297, R298). -/
def Obligations.RefreshRowsAndDuty : Prop :=
  ∀ (s : State) (c : CoreId) (b : BankId) (ch : ChanId), let k := s.tile c
    let u := s.bank c b
    (u.busy = false → u.slice = false → exec (.refreshDue c b) s =
      .next (s.setTile c { k with refr := k.refr ||| BitVec.twoPow 16 b, openRow := tset none k.openRow b none })) ∧
    (u.busy = true ∨ u.slice = true → exec (.refreshDue c b) s = .next (s.setBank c b { u with owed := min 2 (u.owed + 1) })) ∧
    (k.refr.getLsbD b = false → exec (.refreshEnd c b) s = .next s) ∧
    (k.refr.getLsbD b = true → u.owed ≤ 1 → u.held = [] → k.cq = [] → k.mq = [] → u.fin = none →
      ∃ t, exec (.refreshEnd c b) s = .next t ∧
      t.tile c = { k with refr := k.refr &&& ~~~(BitVec.twoPow 16 b) } ∧ (t.bank c b).owed = 0 ∧ (t.bank c b).slice = false ∧
      t.mem = s.mem ∧ (∀ x y, x * 16 + y ≠ c.val * 16 + b.val → t.bank x y = s.bank x y)) ∧
    (∀ e r, k.refr.getLsbD b = true → u.owed ≤ 1 → u.held = [] → k.cq = [] → k.mq = [] → u.fin = some e → u.run = some r →
      ∃ t, exec (.refreshEnd c b) s = .next t ∧ (t.bank c b).run = none ∧ (t.bank c b).err = e ∧ t.mem = s.mem) ∧
    (∃ t, exec (.rowClose c b) s = .next t ∧ tget none (t.tile c).openRow b = none ∧
      (∀ j, j ≠ b.val → tget none (t.tile c).openRow j = tget none k.openRow j) ∧
      { t.tile c with openRow := k.openRow } = k ∧ { t with tiles := s.tiles } = s) ∧
    (∀ t0 busy, (s.yard (c.val / 16)).tsusp = false → busy ≤ 8000000 → ∃ t, exec (.trefiWindowEnd c t0 busy) s = .next t ∧
      (t.tile c).fast = decide ((if k.fast then 830 else 850) * 8000000 < t0 * 8000000 + 60 * busy) ∧
      { t.tile c with fast := k.fast } = k ∧ t.mem = s.mem) ∧
    (∀ t0, exec (.hbmTrefiWindowEnd ch t0) s =
      .next (s.setChan ch { s.chan ch with fast := decide ((if (s.chan ch).fast then 830 else 850) < t0) })) ∧
    (k.dl < 16 → exec (.dutyLimitReached c) s = .next (s.setTile c { k with dutyHit := true })) ∧
    (16 ≤ k.dl → exec (.dutyLimitReached c) s = .next s) ∧
    (s.pwr.emerg = false → ∃ t, exec (.dutyWindowStart c) s = .next t ∧ t.tile c = { k with dutyHit := false } ∧
      (∀ j, j < 16 → t.bank c j = { s.bank c j with paused := false }) ∧
      (∀ x y, (x * 16 + y < c.val * 16 ∨ c.val * 16 + 16 ≤ x * 16 + y) → t.bank x y = s.bank x y) ∧
      { t with tiles := s.tiles, banks := s.banks } = s)

/-- A wire of a halyard that errs fewer than eight times in a window is only counted; the eighth error fails it, and it stays failed and
new accesses are held; the core goes down when both groups of a direction have more than eight failed wires. A row whose tile's log calls
for repair, in a tile whose rig has no class A or B command, is copied into a spare row: its contents stay, its corrected words are clean,
its log entries go, and the repair is recorded; with every spare in use source 258 is raised (R248 to R251, R489). -/
def Obligations.HalyardWiresAndRowsAreRepaired : Prop :=
  (∀ (s : State) (c : CoreId) (dir : Fin 2) (wire : Fin 272) (win : Nat), let k := s.tile c
    let i := 272 * dir.val + wire.val
    let before := if k.win = win then k.wireErr else []
    (tget 0 before i + 1 < 8 → exec (.halyardCrcRetry c dir wire win) s =
      .next (s.setTile c { k with win := win, wireErr := tset 0 before i (tget 0 before i + 1) })) ∧
    (tget 0 before i + 1 = 8 → tget false k.wireBad i = false → k.carries dir wire = true → (s.core c).down = false →
      ∃ t, exec (.halyardCrcRetry c dir wire win) s = .next t ∧ tget false (t.tile c).wireBad i = true ∧
        (∀ j, j ≠ i → tget false (t.tile c).wireBad j = tget false k.wireBad j) ∧ (t.tile c).hold = true ∧ t.mem = s.mem ∧
        ((t.tile c).dirUp dir = false → (t.core c).down = true))) ∧
  (∀ (s : State) (c : CoreId) (b : BankId) (row : Nat), row < 4096 → let a := bankAddr c b (2048 * row)
    (s.repairFree c = false → exec (.rowRepair c b row) s = .next s) ∧
    (s.repairFree c = true → (s.tile c).wantsRepair a = false → exec (.rowRepair c b row) s = .next s) ∧
    (s.repairFree c = true → (s.tile c).wantsRepair a = true → 64 ≤ tget 0 (s.tile c).spare b →
      ∃ t, exec (.rowRepair c b row) s = .next t ∧ t.evt.pend.getLsbD 258 = true ∧ { t with evt := s.evt } = s) ∧
    (s.repairFree c = true → (s.tile c).wantsRepair a = true → tget 0 (s.tile c).spare b < 64 → s.failures.length < 1024 →
      ∃ t, exec (.rowRepair c b row) s = .next t ∧ t.mem = s.mem ∧
        tget 0 (t.tile c).spare b = tget 0 (s.tile c).spare b + 1 ∧ (∀ e ∈ (t.tile c).log, e.addr / 2048 ≠ a / 2048) ∧
        (∀ i, i < 32 → ∀ pos, t.mark (a + 64 * i) ≠ .ce pos) ∧
        ∀ p, s.posOf c = some p → (1, 65536 * p + 4096 * b.val + row) ∈ t.failures))

/-- A channel's retries are counted by window; the 65th begins a retraining and raises source 260. A retraining that succeeds
returns the channel; one that fails, or a second within 10 s, loses it. While a channel trains, or in an emergency furl, its
requests wait; else a fill is returned and a forwarded reduction applied (R258, R261, R469, R495). -/
def Obligations.HbmChannelsRetryRetrainAndServe : Prop :=
  ∀ (s : State) (ch : ChanId) (a : Nat), let k := s.chan ch
    (∀ win, let n := if k.win = win then k.retries + 1 else 1
      (n ≠ 65 → exec (.hbmParityError ch win) s = .next (s.setChan ch { k with win := win, retries := n })) ∧
      (n = 65 → k.lost = false → ∃ t, exec (.hbmParityError ch win) s = .next t ∧
        t.chan ch = { k with win := win, retries := 65, training := true } ∧ t.mem = s.mem ∧
        (k.training = false → t.evt.pend.getLsbD 260 = true))) ∧
    (∀ ok late, k.training = false → exec (.hbmChannelRetrain ch ok late) s = .next s) ∧
    (k.training = true → exec (.hbmChannelRetrain ch true false) s = .next (s.setChan ch { k with training := false, retries := 0 })) ∧
    (∀ ok late, k.training = true → ok = false ∨ late = true → ∃ t, exec (.hbmChannelRetrain ch ok late) s = .next t ∧
      t.chan ch = { k with training := false, retries := 0, lost := true } ∧ t.boot.gen = s.boot.gen + 1 ∧
      t.evt.pend.getLsbD 260 = true ∧ t.mem = s.mem) ∧
    (∀ op, (s.chan (chanUnit a)).training = true ∨ s.pwr.emerg = true → exec (.hbmChannelRequest a op) s = .next s) ∧
    (place a = .hbm → (s.chan (chanUnit a)).training = false → s.pwr.emerg = false →
      exec (.hbmChannelRequest a .fill) s = exec (.llcFillReturn (a / 1024)) s ∧
      exec (.hbmChannelRequest a .reduce) s = exec (.forwardAck (a / 1024)) s ∧
      exec (.hbmChannelRequest a .writeBack) s = .next s)

/-! ### Bank units (10) -/

/-- A write of BANKMODE makes a mode change pending for each selected bank and no other, and notes the transfers that wait for those
banks. It takes effect once none of the noted waits: bank-unit mode, or normal mode, in which no command is held. A tile whose core is
down takes no window access (R275, R276, R304). -/
def Obligations.BankModesChange : Prop :=
  (∀ (s : State) (c : CoreId) (w : BitVec 64), (s.core c).down = true → exec (.bankmodeWrite c w) s = .next s) ∧
  (∀ (s : State) (c : CoreId) (w : BitVec 64), (s.core c).down = false → ∃ t, exec (.bankmodeWrite c w) s = .next t ∧
    let noted (q : TileReq) : TileReq :=
      if q.off / 0x800000 < 16 ∧ w.getLsbD (16 + q.off / 0x800000) = true then { q with before := true } else q
    (∀ b, b < 16 → { t.bank c b with held := (s.bank c b).held } = { s.bank c b with
      pend := if w.getLsbD (16 + b) then some (w.getLsbD b) else (s.bank c b).pend }) ∧
    (∀ b, b < 16 → (t.bank c b).held = (if w.getLsbD (16 + b) then
      (s.bank c b).held.map fun q => if q.off / 0x800000 = b then { q with before := true } else q else (s.bank c b).held)) ∧
    t.tile c = { s.tile c with cq := (s.tile c).cq.map noted, mq := (s.tile c).mq.map noted } ∧
    (∀ x, x ≠ c.val → t.tile x = s.tile x) ∧
    (∀ x y, (x * 16 + y < c.val * 16 ∨ c.val * 16 + 16 ≤ x * 16 + y) → t.bank x y = s.bank x y) ∧
    { t with banks := s.banks, tiles := s.tiles } = s) ∧
  (∀ (s : State) (c : CoreId) (b : BankId), let k := s.bank c b
    let waiting := (s.tile c).cq ++ (s.tile c).mq ++ k.held
    (k.pend = some true → (∀ q ∈ waiting, q.off / 0x800000 = b.val → q.before = false) →
      exec (.bankUnitModeEffect c b) s = .next (s.setBank c b { k with unit := true, pend := none })) ∧
    (k.pend ≠ some true ∨ (∃ q ∈ waiting, q.off / 0x800000 = b.val ∧ q.before = true) →
      exec (.bankUnitModeEffect c b) s = .next s) ∧
    (k.pend ≠ some false → exec (.bankNormalModeEffect c b) s = .next s) ∧
    (k.pend = some false → k.held = [] → (s.tile c).cq = [] → (s.tile c).mq = [] → k.owed = 0 → k.fin = none →
      ∃ t, exec (.bankNormalModeEffect c b) s = .next t ∧ (t.bank c b).unit = false ∧ (t.bank c b).pend = none ∧
        (t.bank c b).queued = none ∧ (t.bank c b).run = none ∧
        (t.bank c b).err = (if k.run.isSome || k.queued.isSome then 4 else k.err) ∧ t.mem = s.mem))

/-- A write of CMD, for each of the eight opcodes and a gang of none: a bad word sets ERR 0x01, a bank in normal mode 0x06, a unit
that holds two commands 0x05, and nothing else; a unit that runs one queues it; an idle unit starts it with its operand words, unless
they are out of range, when it ends with 0x02. SEQ advances for each command taken; a CHAIN advances the tile's count of gang starts, a
count of the model's that tells chains apart (R274, R279, R280). -/
def Obligations.BankCommandsAreTaken : Prop :=
  ∀ (s : State) (c : CoreId) (b : BankId) (w : BitVec 64) (i : Instr), let k := s.bank c b
    let o (j : Nat) : Nat := (tget 0 k.op j).toNat
    let chain := if cOpc w = 7 then [b.val] else []
    let g := if cOpc w = 7 then (s.tile c).gangs + 1 else (s.tile c).gangs
    let s' : State := if cOpc w = 7 then s.setTile c { s.tile c with gangs := g } else s
    let r : BankRun := { w := w, src := o 0, dst := o 1, n := o 2, exb := o 3, pat := tget 0 k.op 4, cdst := o 5, fmt := o 6
                         chain := chain, id := g }
    (cOpc w = 1 ∧ i = .xpop c b w) ∨ (cOpc w = 2 ∧ i = .i8dot c b w) ∨ (cOpc w = 3 ∧ i = .sumred c b w) ∨
    (cOpc w = 4 ∧ i = .bankFill c b w) ∨ (cOpc w = 5 ∧ i = .bankCopy c b w) ∨ (cOpc w = 6 ∧ i = .topk32 c b w) ∨
    (cOpc w = 7 ∧ i = .chain c b w) ∨ (cOpc w = 8 ∧ i = .bitset c b w) →
    w.extractLsb' 48 16 = 0 → (s.core c).down = false → (k.run = none → k.queued = none) →
    (cmdBad w = true → exec i s = .next (s.setBank c b { k with err := 1 })) ∧
    (cmdBad w = false → k.unit = false → exec i s = .next (s'.setBank c b { k with err := 6 })) ∧
    (cmdBad w = false → k.unit = true → k.run.isSome = true → k.queued.isSome = true →
      exec i s = .next (s'.setBank c b { k with err := 5 })) ∧
    (cmdBad w = false → k.unit = true → k.run.isSome = true → k.queued = none →
      exec i s = .next (s'.setBank c b { k with queued := some (w, chain), qid := g, inQ := none, seq := k.seq + 1, err := 0 })) ∧
    (cmdBad w = false → k.unit = true → k.run = none → operandsOk r b = true → (r.n ≠ 0 ∨ cOpc w = 7) →
      ∃ t, exec i s = .next t ∧ (t.bank c b).run = some r ∧ (t.bank c b).seq = k.seq + 1 ∧ (t.bank c b).err = 0 ∧
        (t.bank c b).opc = BitVec.ofNat 8 (cOpc w) ∧ (t.bank c b).queued = none ∧ { t with banks := s.banks } = s' ∧
        (∀ x y, x * 16 + y ≠ c.val * 16 + b.val → t.bank x y = s.bank x y)) ∧
    (cmdBad w = false → k.unit = true → k.run = none → k.owed = 0 → operandsOk r b = false →
      ∃ t, exec i s = .next t ∧ (t.bank c b).run = none ∧ (t.bank c b).err = 2 ∧ (t.bank c b).seq = k.seq + 1 ∧
        { t with banks := s.banks } = s')

/-- The end of a FILL writes its 8-byte pattern over exactly its range; the end of an integer SUMRED leaves in RESULT the sum of its
sign-extended words modulo 2^64 and memory as it was; each unit then holds no command and its ERR is 0 (Table 10-6, R280, R287). -/
def Obligations.BankFillAndSumResults : Prop :=
  ∀ (s : State) (c : CoreId) (b : BankId) (r : BankRun), let k := s.bank c b
    let a := bankAddr c b
    k.run = some r → r.pos = 0 → r.chain = [] → r.waiting = false → r.fwd = false → s.unitGoes c b = true → k.owed = 0 → k.held = [] →
    k.queued = none → k.abort = false → k.fin = none → (s.tile c).cq = [] → (s.tile c).mq = [] → s.ras.flipTgt.getLsbD 63 = false →
    r.n ≠ 0 →
    (cOpc r.w = 4 → r.dst % 8 = 0 → r.n % 8 = 0 → r.dst + r.n ≤ 0x800000 →
      (∀ j, j < r.n → s.granAt (a (r.dst + j)) = .written) →
      ∃ t, exec (.bankUnitCommandEnd c b) s = .next t ∧
        (∀ j, j < r.n → mget t.mem (a (r.dst + j)) = r.pat.extractLsb' (8 * (j % 8)) 8) ∧
        (∀ x, x < a r.dst ∨ a (r.dst + r.n) ≤ x → mget t.mem x = mget s.mem x) ∧
        (t.bank c b).run = none ∧ (t.bank c b).err = 0) ∧
    (cOpc r.w = 3 → cmdBad r.w = false → r.fmt = 0 → r.acc = [] → r.src % 4 = 0 → r.src + 4 * r.n ≤ 0x800000 →
      (∀ j, j < 4 * r.n → s.granAt (a (r.src + j)) = .written ∧ s.mark (wordOf (a (r.src + j))) = .none) →
      ∃ t, exec (.bankUnitCommandEnd c b) s = .next t ∧ t.mem = s.mem ∧
        (t.bank c b).result = BitVec.ofInt 64
          (((List.range r.n).map fun j => (BitVec.ofNat 32 (leNat (mread s.mem (a (r.src + 4 * j)) 4))).toInt).sum) ∧
        (t.bank c b).run = none ∧ (t.bank c b).err = 0)

/-- ABORT discards the queued command and ends the running one with ERR 0x04, at once where the unit does no array work, else at its next
safe point. A queued command starts once the unit is idle. A unit that cannot go on passes no safe point; one at the duty limit pauses
there. A stream that arrives at a waiting chain member is merged with its lists and the member waits no longer; a break mark ends it with
ERR 0x07 (R280, R283, R290, R293, R300). -/
def Obligations.BankUnitsStopStartPauseAndChain : Prop :=
  ∀ (s : State) (c : CoreId) (b : BankId), let k := s.bank c b
    let quiet : Prop := k.held = [] ∧ (s.tile c).cq = [] ∧ (s.tile c).mq = [] ∧ k.owed = 0 ∧ k.fin = none
    ((s.core c).down = true → exec (.bankUnitAbort c b) s = .next s) ∧
    ((s.core c).down = false → quiet → k.busy = false → ∃ t, exec (.bankUnitAbort c b) s = .next t ∧ (t.bank c b).run = none ∧
      (t.bank c b).queued = none ∧ (t.bank c b).err = 4 ∧ t.mem = s.mem) ∧
    ((s.core c).down = false → k.busy = true → ∃ t, exec (.bankUnitAbort c b) s = .next t ∧ (t.bank c b).run = k.run ∧
      (t.bank c b).queued = none ∧ (t.bank c b).abort = true ∧ (t.bank c b).err = k.err ∧ t.mem = s.mem) ∧
    (∀ upto r, k.run = some r → s.unitGoes c b = true → upto ≤ r.pos → quiet → k.abort = true →
      ∃ t, exec (.safePoint c b upto) s = .next t ∧ (t.bank c b).run = none ∧ (t.bank c b).err = 4 ∧ t.mem = s.mem) ∧
    (∀ w, let r : BankRun := { w := w, src := (tget 0 k.op 0).toNat, dst := (tget 0 k.op 1).toNat, n := (tget 0 k.op 2).toNat
                               exb := (tget 0 k.op 3).toNat, pat := tget 0 k.op 4, cdst := (tget 0 k.op 5).toNat
                               fmt := (tget 0 k.op 6).toNat, id := k.qid }
      k.run = none → k.queued = some (w, []) → cOpc w ≠ 7 → quiet → operandsOk r b = true → r.n ≠ 0 →
      ∃ t, exec (.queuedCommandStart c b) s = .next t ∧ (t.bank c b).run = some r ∧ (t.bank c b).queued = none ∧ t.mem = s.mem) ∧
    (∀ upto, s.unitGoes c b = false → exec (.safePoint c b upto) s = .next s) ∧
    (∀ upto r, k.run = some r → s.unitGoes c b = true → upto ≤ r.pos → quiet → k.abort = false → (s.tile c).dutyHit = true →
      ∃ t, exec (.safePoint c b upto) s = .next t ∧ t.bank c b = { k with paused := true } ∧ t.mem = s.mem) ∧
    (∀ r ls, k.run = some r → k.inS = some (.lists ls) → r.waiting = true → r.chain.getLast? = some b.val → r.chain.Nodup →
      ∃ t ms, exec (.chainStreamArrival c b) s = .next t ∧ (t.bank c b).run = some { r with waiting := false } ∧
        (t.bank c b).inS = some (.lists ms) ∧ ms.length = cQ r.w ∧
        (∀ q, q < cQ r.w → (ms.getD q []).Perm (ls.getD q [] ++ tget [] k.lists q)) ∧ { t with banks := s.banks } = s) ∧
    (∀ r, k.run = some r → k.inS = some .broken → k.owed = 0 → r.chain ≠ [] → r.chain.getLast? ≠ some b.val →
      ∃ t, exec (.chainBreak c b) s = .next t ∧ (t.bank c b).run = none ∧ (t.bank c b).err = 7 ∧ t.mem = s.mem)

/-! ### Network, faults and floors (11, 12, 18) -/

/-- A flit error is counted on its wire; the eighth in a window fails the wire and records it, and the ninth failed wire of a
direction halves the link. A stay lane that fails is recorded, and the second of a group takes the group out and raises the stay's
source. A router's window of its own links is recorded; an edge whose busiest link reaches 90 percent or that reaches 95 degrees is counted and
raises source 13. A yard that loses its core clock has its cores down; lost network clocks hold the mast's network until they relock;
a lost reference is marked (R316 to R318, R322, R490, R491). -/
def Obligations.NetworkWiresAndClocks : Prop :=
  (∀ (s : State) (l : Link) (dir : Fin 2) (wire win : Nat), linkOk l = true → wire < linkWidth l.kind + 8 →
    let key := 2 * linkKey l + dir.val
    let w := tget {} s.net.links key
    let errs := if w.win = win then w.errs else []
    let n := tget 0 errs wire + 1
    let put (bad : List Nat) : Net := { s.net with links := tset {} s.net.links key ⟨win, tset 0 errs wire n, bad⟩ }
    (n ≠ 8 ∨ w.bad.contains wire = true → exec (.flitRetransmission l dir wire win) s = .next { s with net := put w.bad }) ∧
    (n = 8 → w.bad.contains wire = false → w.bad.length < 8 → s.failures.length < 1024 →
      ∃ t, exec (.flitRetransmission l dir wire win) s = .next t ∧ t.net = put (w.bad ++ [wire]) ∧
        (2, 4000000 + 4096 * key + wire) ∈ t.failures ∧ { t with net := s.net, failures := s.failures } = s) ∧
    (n = 8 → w.bad.contains wire = false → w.bad.length = 8 →
      ∃ t, exec (.flitRetransmission l dir wire win) s = .next t ∧ t.net.half.contains (linkKey l) = true ∧
        t.net.links = (put (w.bad ++ [wire])).links ∧ t.mem = s.mem ∧ t.cores = s.cores)) ∧
  (∀ (s : State) (n : StayId) (dir : Fin 2) (lane : Fin 272), let key := 2 * n.val + dir.val
    let bad := (tget {} s.net.stays key).bad
    let alike := (bad.filter fun x => stayGroup x = stayGroup lane).length
    (bad.contains lane.val = true → exec (.stayLaneFailed n dir lane) s = .next s) ∧
    (bad.contains lane.val = false → ∃ t, exec (.stayLaneFailed n dir lane) s = .next t ∧
      (tget {} t.net.stays key).bad = bad ++ [lane.val] ∧ t.mem = s.mem ∧
      (alike = 1 → (tget 0 s.net.out n).getLsbD (stayGroup lane) = false →
        tget 0 t.net.out n = tget 0 s.net.out n ||| BitVec.twoPow 16 (stayGroup lane) ∧ t.boot.gen = s.boot.gen + 1 ∧
        t.evt.pend.getLsbD (776 + n.val) = true) ∧
      (alike ≠ 1 → t.net.out = s.net.out ∧ t.boot = s.boot))) ∧
  (∀ (s : State) (r : Router) (ls : List LinkLoad) (temp : Nat), routerOk r = true →
    ((∃ l ∈ ls, hasDir r l.dir.val = false) → exec (.routerWindowEnd r ls temp) s = .next s) ∧
    ((∀ l ∈ ls, hasDir r l.dir.val = true ∧ l.out ≤ 100 ∧ l.inn ≤ 100 ∧ l.qmax ≤ 100) →
    ∃ t, exec (.routerWindowEnd r ls temp) s = .next t ∧ (r, ls, temp) ∈ t.net.loads ∧
      (∀ q, q ≠ r → ∀ x y, (q, x, y) ∈ t.net.loads ↔ (q, x, y) ∈ s.net.loads) ∧ { t with net := s.net, evt := s.evt } = s ∧
      ∀ e, edgeIndex r = some e →
        (90 ≤ busiest ls ∨ 95 ≤ temp → t.net.hot = true ∧ t.net.hotsel = e ∧
          t.net.hotcnt = (if s.net.hotcnt < 0xFFFF then s.net.hotcnt + 1 else 0xFFFF) ∧ t.evt.pend.getLsbD 13 = true) ∧
        (busiest ls < 90 → temp < 95 → { t.net with loads := s.net.loads } = s.net ∧ t.evt = s.evt))) ∧
  (∀ (s : State) (y : YardId),
    (∃ t, exec (.corePllLoss y) s = .next t ∧ (∀ j, j < 16 → (t.core (16 * y + j)).down = true) ∧ t.mem = s.mem ∧
      t.evt.pend.getLsbD (1024 + 4 * y.val) = true) ∧
    ((s.yard y).netHold = true ∨ (s.yard y).netDown = true → exec (.networkPllLoss y) s = .next s) ∧
    ((s.yard y).netHold = false → (s.yard y).netDown = false → ∃ t, exec (.networkPllLoss y) s = .next t ∧
      (t.yard y).netHold = true ∧ t.evt.pend.getLsbD (1024 + 4 * y.val) = true ∧
      ∀ r : RigId, (s.rig r).inMast (y.val / 64) = true → .netHold (yardMast' y) ∈ (t.rig r).iv) ∧
    (∀ ok, (s.yard y).netHold = false → exec (.networkPllRelock y ok) s = .next s) ∧
    ((s.yard y).netHold = true → (∀ j, j < 256 → j ≠ y.val → (s.yard j).netHold = false) →
      ∃ t, exec (.networkPllRelock y true) s = .next t ∧ (t.yard y).netHold = false ∧ (t.yard y).netDown = false ∧
        t.cores = s.cores ∧ ∀ r : RigId, .netHold (yardMast' y) ∉ (t.rig r).iv) ∧
    ((s.yard y).netHold = true → ∃ t, exec (.networkPllRelock y false) s = .next t ∧ (t.yard y).netHold = false ∧
      (t.yard y).netDown = true ∧ ∀ j, j < 16 → (t.core (16 * y + j)).down = true)) ∧
  (∀ (s : State) (m : MastId), ∃ t, exec (.spreaderReferenceLoss m) s = .next t ∧
    t.net.refLost = s.net.refLost ||| BitVec.twoPow 4 m.val ∧ t.evt.pend.getLsbD (8 + m.val) = true ∧ t.mem = s.mem ∧
    t.cores = s.cores)

/-- A hardware fault whose interval lasts marks every rig it affects as in FAULT with the interval open and moves the abort points
of its commands, and no other rig changes; one of a single tick moves them and leaves nothing open. The end of an interval closes
it, and FAULT stays while another is open or a command accepted before its end remains. A pending change of the floor or of a share
takes effect once no command waits on it; a share that would bring the sum above 1,024 is discarded (R332 to R334, R349, R410,
Table 12-2). -/
def Obligations.FaultIntervalsAndFloors : Prop :=
  (∀ (s : State) (f : HwFault) (r : RigId), let k := s.rig r
    (k.affected f = true → f ∉ k.iv → ∃ t, exec (.faultIntervalStart f) s = .next t ∧
      t.rig r = (if faultLasts f then { k.move with fault := true, iv := f :: k.iv } else ({ k.move with fault := true } : Rig).refault) ∧
      (k.cores ≠ 0 → t.evt.pend.getLsbD (128 + r.val) = true) ∧ { t with rigs := s.rigs, evt := s.evt, tiles := s.tiles } = s ∧
      (∀ c, f = .halyardHold c → (t.tile c).hold = !(s.core c).down) ∧
      ∀ n, (∀ c : CoreId, f = .halyardHold c → n ≠ c.val) → t.tile n = s.tile n) ∧
    (k.affected f = false → f ∉ k.iv → ∃ t, exec (.faultIntervalStart f) s = .next t ∧ t.rig r = k) ∧
    ((∀ c, f = .halyardHold c → (s.tile c).cq = [] ∧ (s.tile c).mq = []) →
      ∃ t, exec (.faultIntervalEnd f) s = .next t ∧ { t with rigs := s.rigs, tiles := s.tiles } = s ∧ f ∉ (t.rig r).iv ∧
      (∀ c, f = .halyardHold c → (t.tile c).hold = false) ∧
      (∀ g, g ≠ f → (g ∈ (t.rig r).iv ↔ g ∈ k.iv)) ∧ (f ∉ k.iv → t.rig r = k) ∧
      (k.iv = [f] → (∀ m ∈ k.plan, m.moved = false) → k.running = none → (t.rig r).fault = false))) ∧
  (∀ (s : State), ∃ t, exec .floorChangeEffect s = .next t ∧ t.mem = s.mem ∧ t.cores = s.cores ∧
    (s.pwr.newFloor ≠ 0 → (∀ r, r < 64 → (s.rig r).freeFloor = true) → t.pwr.floor = s.pwr.newFloor ∧ t.pwr.newFloor = 0) ∧
    ((∃ r, r < 64 ∧ (s.rig r).freeFloor = false) → t.pwr = s.pwr) ∧
    (∀ r, r < 64 → ∀ p, (s.rig r).newPwr = some p → (s.rig r).freeShare = true → (t.rig r).pwr = p ∧ (t.rig r).newPwr = none) ∧
    (∀ r, r < 64 → (s.rig r).freeShare = false → (t.rig r).pwr = (s.rig r).pwr ∧ (t.rig r).newPwr = (s.rig r).newPwr)) ∧
  (∀ (s : State) (r : RigId) (w : BitVec 64), let p := bits w.toNat 9 0
    let others := (((List.range 64).filter (· ≠ r.val)).map fun i => (s.rig i).share).sum
    (s.bar0On (shareOff r) = false → exec (.rigPwrShareWrite r w) s = .next s) ∧
    (1024 < others + p → exec (.rigPwrShareWrite r w) s = .next s) ∧
    (s.bar0On (shareOff r) = true → others + p ≤ 1024 → (s.rig r).worseAt s.pwr.floor p = false →
      ∃ t, exec (.rigPwrShareWrite r w) s = .next t ∧ (t.rig r).pwr = p ∧ (t.rig r).newPwr = none ∧ { t with rigs := s.rigs } = s ∧
        ∀ i, i ≠ r.val → t.rig i = s.rig i) ∧
    (s.bar0On (shareOff r) = true → others + p ≤ 1024 → (s.rig r).worseAt s.pwr.floor p = true → (s.rig r).plan ≠ [] →
      ∃ t, exec (.rigPwrShareWrite r w) s = .next t ∧ (t.rig r).pwr = (s.rig r).pwr ∧ (t.rig r).newPwr = some p))

/-! ### The host port and command streams (13) -/

/-- The snoop of a tail line, halted or not, that returns a TAIL within the ring makes it the stream's; one outside halts the stream with
ERR 2, a poisoned one with ERR 3. A line with the expected sequence number is fetched and HEAD advances; another halts with ERR 1. Enabling
starts a stream afresh and reads its tail line, and is refused with ERR 4 while commands are out or for an unlisted size or rig; a resume clears the halt; an
abort ends every waiting command of the stream with ABORTED and no other rig's commands. The admission unit takes the next line at
least 16 ticks after the last (R327, R356 to R364). -/
def Obligations.StreamsFetchEnableAndAbort : Prop :=
  ∀ (s : State) (n : StreamId), let k := s.strm n
    (∀ r, k.en = false → exec (.tailLineSnoop n r) s = .next s) ∧
    (∀ x, k.en = true → bits x.toNat 31 0 < s.strmSize n → exec (.tailLineSnoop n (.data x)) s =
      .next (s.setStrm n { k with act := true, tail := BitVec.ofNat 32 (bits x.toNat 31 0) })) ∧
    (∀ x, k.en = true → s.strmSize n ≤ bits x.toNat 31 0 → ∃ t, exec (.tailLineSnoop n (.data x)) s = .next t ∧
      t.strm n = { k with act := true, halt := true, err := 2 } ∧ t.evt.pend.getLsbD (512 + n.val) = true) ∧
    (k.en = true → ∃ t, exec (.tailLineSnoop n .bad) s = .next t ∧
      t.strm n = { k with act := false, halt := true, err := 3 } ∧ t.evt.pend.getLsbD (512 + n.val) = true) ∧
    (∀ x l2, let b := lineBytes x
      k.en = true → k.halt = false → k.out < 64 → s.strmReady n ≠ 0 →
      (BitVec.ofNat 32 (field b 4 4) = k.exp → bit (field b 1 1) 7 = false → exec (.fetchCommandLine n (.data x) l2) s =
        .next (s.setStrm n { k with
          fetched := k.fetched ++ [{ strm := n, slot := k.head.toNat, l1 := b }]
          head := BitVec.ofNat 16 ((k.head.toNat + 1) % s.strmSize n), exp := k.exp + 1, out := k.out + 1 })) ∧
      (BitVec.ofNat 32 (field b 4 4) ≠ k.exp → ∃ t, exec (.fetchCommandLine n (.data x) l2) s = .next t ∧
        t.strm n = { k with halt := true, err := 1 } ∧ t.evt.pend.getLsbD (512 + n.val) = true)) ∧
    (∀ l1 l2, k.en = false ∨ k.halt = true ∨ 64 ≤ k.out ∨ s.strmReady n = 0 → exec (.fetchCommandLine n l1 l2) s = .next s) ∧
    (∀ r, s.strmOn = true → exec (.strmCtlEn n false r) s = .next (s.setStrm n { k with en := false, act := false })) ∧
    (let good : Prop := k.out = 0 ∧ 6 ≤ s.strmLog2 n ∧ s.strmLog2 n ≤ 16 ∧ (s.strmRig n < 64 ∨ s.strmRig n = 0xFF) ∧
       s.boot.pcie = false ∧ s.boot.ph = 5
     let fresh : Strm := { k with
       en := true, act := false, head := 0, exp := 0, tail := 0, err := 0, halt := false, fence := false, okN := 0, otherN := 0 }
     s.strmOn = true → k.en = false →
       (good → (∀ x, bits x.toNat 31 0 < s.strmSize n → exec (.strmCtlEn n true (.data x)) s =
           .next (s.setStrm n { fresh with act := true, tail := BitVec.ofNat 32 (bits x.toNat 31 0) })) ∧
         ∀ r, exec (.strmCtlEn n true r) s = exec (.tailLineSnoop n r) (s.setStrm n fresh)) ∧
       (¬ good → ∀ r, exec (.strmCtlEn n true r) s = .next (s.setStrm n { k with err := 4 }))) ∧
    (s.bar0On 0x010000 = true → exec (.strmCtlResume n) s = .next (s.setStrm n { k with halt := false, err := 0 })) ∧
    (s.bar0On 0x010000 = true → ∃ t, exec (.strmCtlAbort n) s = .next t ∧ ∀ r : RigId,
      (∀ m, m ∈ (t.rig r).plan ↔ m ∈ (s.rig r).plan ∧ m.r.strm ≠ n) ∧ (∀ m, m ∈ (t.rig r).cq ↔ m ∈ (s.rig r).cq ∧ m.r.strm ≠ n) ∧
      ∀ m, m ∈ (s.rig r).plan ++ (s.rig r).cq → m.r.strm = n → ({ r := m.r, fin := finAborted 0x0C } : Done) ∈ t.adm.done) ∧
    (∀ now, s.nextStrm = none → exec (.linePass now) s = .next s) ∧
    (∀ now l, s.adm.last = some l → max now s.adm.now < l + 16 → exec (.linePass now) s = .next s) ∧
    (∀ now r rest, let at_ := max now s.adm.now
      s.nextStrm = some n.val → k.fetched = r :: rest → listedOp r.op = true → (∀ l, s.adm.last = some l → l + 16 ≤ at_) →
      let u := (s.setStrm n { k with fetched := rest, fence := decide (r.op = 8) }).seeTick at_
      u.adm = { s.adm with now := at_ } ∧ exec (.linePass now) s = .next (u.setAdm
        { u.adm with last := some at_, rr := (n.val + 1) % 256, passed := u.adm.passed ++ [{ r with t0 := at_ }] }))

/-- A configuration request is answered with retry status until start-up ends, and with nothing while there is no link; one sets a
decoder, and an address whose decoder is not committed with the range of Table 13-2 is not decoded. A host read of a tile's clean
written bytes answers them while nothing holds the tile; of a rig that is re-rigged, zeros; of a down core's ranges or a lost mast's HBM,
poison; of an unpopulated address, zeros; one that spans lines or comes before the device decodes memory is not taken. A host write of a tile changes exactly its bytes
and one that carries poison leaves its word uncorrectable; to a down core or an unpopulated address it is discarded (R29, R35, R350,
R351, R353 to R355). -/
def Obligations.HostReadsAndWrites : Prop :=
  (∀ (s : State) (q : ConfigReq), (s.boot.link = false → exec (.configRequest q) s = .next { s with rsp := none }) ∧
    (s.boot.link = true → s.boot.ph ≠ 5 → s.boot.ph ≠ 6 → exec (.configRequest q) s = .next { s with rsp := some ([0], false) }) ∧
    (s.boot.link = true → s.boot.ph = 5 ∨ s.boot.ph = 6 →
      (∀ i base size commit, q = .hdm i base size commit →
        exec (.configRequest q) s = .next { s.setHdm i ⟨base, size, commit⟩ with rsp := some ([1], false) }) ∧
      (∀ on, q = .ide on → exec (.configRequest q) s = .next { s with ide := on, rsp := some ([1], false) }) ∧
      (q = .readiness → exec (.configRequest q) s = .next { s with rsp := some (1 :: leBytes 4 6000, false) }) ∧
      (q = .other → exec (.configRequest q) s = .next { s with rsp := some ([1], false) }))) ∧
  (∀ (s : State) (a n : Nat) (bs : List Byte) (poison : Bool),
    (s.memOn = false ∨ s.decodes a = false ∨ hostSpan a n = false → exec (.hostMemRead a n) s = .next s) ∧
    (s.memOn = false ∨ s.decodes a = false ∨ hostSpan a bs.length = false → exec (.hostMemWrite a bs poison) s = .next s) ∧
    (s.memOn = true → s.decodes a = true → hostSpan a n = true → s.rerigging a = true →
      exec (.hostMemRead a n) s = .next { s with rsp := some (leBytes n 0, false) }) ∧
    (s.memOn = true → s.decodes a = true → s.rerigging a = false → hostSpan a n = true →
      (s.downAt a = true ∨ s.mastLost a = true → exec (.hostMemRead a n) s = .next { s with rsp := some (leBytes n 0, true) }) ∧
      (s.downAt a = false → place a = .nowhere → exec (.hostMemRead a n) s = .next { s with rsp := some (leBytes n 0, false) }) ∧
      (∀ c o, place a = .tile c o → s.downAt a = false → s.granAt a = .written → s.mark (wordOf a) = .none →
        s.linked .host a = true → s.tileOpen c o true = true → (∀ i, i < n → s.updHides false (a + i) = false) →
        exec (.hostMemRead a n) s = .next { s.openTile c o with rsp := some (mread s.mem a n, false) })) ∧
    (s.memOn = true → s.decodes a = true → hostSpan a bs.length = true →
      (s.downAt a = true ∨ s.mastLost a = true ∨ place a = .nowhere ∨ s.rerigging a = true →
        exec (.hostMemWrite a bs poison) s = .next s) ∧
      (∀ c o, place a = .tile c o → s.downAt a = false → s.rerigging a = false → s.granAt a = .written →
        s.linked .host a = true → s.tileOpen c o true = true → (∀ i, i < bs.length → s.updHides true (a + i) = false) →
        s.ras.flipTgt.getLsbD 63 = false → ∃ t, exec (.hostMemWrite a bs poison) s = .next t ∧ mread t.mem a bs.length = bs ∧
          (∀ x, x < a ∨ a + bs.length ≤ x → mget t.mem x = mget s.mem x) ∧ (poison = true → t.mark (wordOf a) = .ue) ∧
          t.rsp = s.rsp ∧ t.cores = s.cores)))

/-! ### Commands (12, 13, 20) -/

/-- A command line of another row is left for its row; one that names another rig than its stream's is rejected with REJ_RIG and
the stream's rig; a FENCE or NOP that passes the checks ends with OK. A class C command of a rig that passes every check joins the
end of its rig's queue and nothing else changes: a RUN of all the rig's cores, a SCRUB at the rig that holds its range, and the
other commands with the cores or program they take (R335, R365, R369, R372, R405, R486). -/
def Obligations.LinesAreDecidedAndJoinTheirRig : Prop :=
  (∀ (s : State) (i : Instr) (op : Nat) (p : CRec → Bool), lineOf i = some (op, p) →
    (s.adm.passed = [] → exec i s = .next s) ∧
    (∀ r rest, s.adm.passed = r :: rest → r.op ≠ op ∨ p r = false → exec i s = .next s) ∧
    (∀ r rest, s.adm.passed = r :: rest → r.op = op → p r = true → r.strm < 256 → r.rig ≠ s.strmRig r.strm →
      exec i s = .next (s.answered r ⟨0x14, BitVec.ofNat 64 (s.strmRig r.strm)⟩))) ∧
  (∀ (s : State) (i : Instr) (r : CRec) (rest : List CRec), s.adm.passed = r :: rest → r.strm < 256 → s.steps14 r = none →
    let k := s.rig r.rig
    let joined (g : Nat) (m : Cmd) : State := s.popLine.setRig g { s.rig g with
      cq := (s.rig g).cq ++ [{ m with moved := !(s.rig g).iv.isEmpty }] }
    (r.op = 8 → exec .fence s = .next (s.answered r finOk)) ∧
    (r.op = 0xF → exec .nop s = .next (s.answered r finOk)) ∧
    (∀ op p m, lineOf i = some (op, p) → r.op = op → p r = true → lineCmd s r i = some m → r.rig < 64 → r.cls = 3 →
      s.step5 r = none → s.step6 r m.cores = none → exec i s = .next (joined r.rig { m with r := r })) ∧
    (r.op = 1 → r.cls = 3 → r.u 40 8 = 0 → r.u 24 8 % 8 = 0 → s.inRig r.rig false (r.u 24 8) 8 = true → r.u 56 1 ≤ 15 →
      r.nonzero 57 63 = none → s.step5 r = none → s.step6 r k.cores = none →
      exec .run s = .next (joined r.rig { cores := k.cores, r := r })) ∧
    (∀ g, r.op = 4 → r.cls = 3 → s.scrubOwner (r.u 24 8) (r.u 32 8) = some (some g) → (r.toRig g).rig = g →
      s.step5 (r.toRig g) = none → s.step6 (r.toRig g) 0 = none → exec .scrub s = .next (joined g { r := r.toRig g })))

/-- A command of class A or B is feasible only when its bound reaches its class's minimum and it will finish by its cost before
its deadline, its bound after its tick; on a rig that nothing frees no bound is feasible. A plan stays in the order of its deadlines.
A SEARCH that passes the checks of Table 12-3 and is feasible is counted and placed in its rig's plan; one that is not is rejected
with REJ_BOUND and the earliest bound (R329, R335, R347). -/
def Obligations.ContractsAreAdmittedWhenFeasible : Prop :=
  (∀ (s : State) (r : CRec) (w free : Nat), s.feasible r (some w) = none → s.freeAt r.rig r.t0 = some free →
    let d := r.t0 + boundTicks r.bound
    let before := (s.rig r.rig).plan.filter fun x => x.d ≤ d
    classMin r.cls ≤ r.bound ∧ free + (((s.rig r.rig).plan.take before.length).map (·.w)).sum + w < d) ∧
  (∀ (s : State) (r : CRec) (w : Option Nat), s.freeAt r.rig r.t0 = none ∨ w = none →
    s.feasible r w = some ⟨0x10, BitVec.allOnes 64⟩) ∧
  (∀ (x : Cmd) (l : List Cmd), (planInsert x l).Perm (x :: l) ∧
    (l.Pairwise (fun a b => a.d ≤ b.d) → (planInsert x l).Pairwise (fun a b => a.d ≤ b.d))) ∧
  (∀ (s : State) (r : CRec) (rest : List CRec), s.adm.passed = r :: rest → r.strm < 256 → s.steps14 r = none → r.op = 7 →
    r.contract = true → s.step5 r = none → s.step6 r (s.rig r.rig).cores = none →
    let k := s.rig r.rig
    let w := (s.searchCost r).map nsTicks
    (∀ f, s.feasible r w = some f → exec .search s = .next (s.answered r f)) ∧
    (s.feasible r w = none → k.running = none → ∃ t m, exec .search s = .next t ∧ m.r = r ∧ m.cores = k.cores ∧
      m.d = r.t0 + boundTicks r.bound ∧ some m.w = w ∧ t.adm.admits = s.adm.admits + 1 ∧ t.adm.passed = rest ∧
      t.adm.done = s.adm.done ∧ t.rig r.rig = { k with plan := planInsert m k.plan, crig := true } ∧
      { t with adm := s.adm, rigs := s.rigs } = s))

/-- A critical command without a bound command session, with a MAC that is not the command key's over its line and counter, or with
a counter not above the last is rejected with REJ_AUTH reasons 1, 2 and 3; one that passes consumes its counter even when a later
check fails. An accepted SETCAP sets the cap; a cap below a floor is REJ_CAP. KEYOP sets the active slot, a cascade's configuration
with EPOCH one higher, or a port's pin (R367, R388, R448, R523, R534 to R538). -/
def Obligations.CriticalCommandsAuthenticate : Prop :=
  ∀ (s : State) (i : Instr) (op : Nat) (p : CRec → Bool) (r : CRec) (rest : List CRec), lineOf i = some (op, p) → critOp op = true →
    s.adm.passed = r :: rest → r.op = op → p r = true → r.strm < 256 → s.step1 r = none → r.crit = true →
    let rejected (n : Nat) : State := { (s.answered r ⟨0x12, BitVec.ofNat 64 n⟩) with
      sec := { s.sec with rej := if s.sec.rej < 0xFFFF then s.sec.rej + 1 else 0xFFFF, last := BitVec.ofNat 8 n } }
    let mac := (hmac384 (leBytes 48 s.sec.key.toNat) (r.l1 ++ r.l2.take 8)).take 16
    (s.sec.bound = none → exec i s = .next (rejected 1)) ∧
    (s.sec.bound.isSome = true → (r.l2.drop 8).take 16 ≠ mac → exec i s = .next (rejected 2)) ∧
    (s.sec.bound.isSome = true → (r.l2.drop 8).take 16 = mac → r.v 64 8 ≤ s.sec.ctr.toNat → exec i s = .next (rejected 3)) ∧
    (s.sec.bound.isSome = true → (r.l2.drop 8).take 16 = mac → s.sec.ctr.toNat < r.v 64 8 →
      (∃ t, exec i s = .next t ∧ t.sec.ctr = BitVec.ofNat 64 (r.v 64 8) ∧ t.adm.passed = rest) ∧
      (∀ f, s.steps24 r = some f → i = .setcap ∨ i = .keyopCascade ∨ i = .keyopPin → exec i s =
        .next { (s.answered r f) with sec := { s.sec with ctr := BitVec.ofNat 64 (r.v 64 8) } }) ∧
      (s.steps24 r = none →
        (i = .setcap → r.u 28 4 = 0 → let low := max s.pwr.floor s.pwr.newFloor
          exec i s = .next (if r.u 24 4 < low ∧ r.u 24 4 ≠ 0
            then { (s.answered r ⟨0x13, BitVec.ofNat 64 (r.u 24 4 + low * 2 ^ 32)⟩) with
                   sec := { s.sec with ctr := BitVec.ofNat 64 (r.v 64 8) } }
            else { (s.answered r finOk) with
                   sec := { s.sec with ctr := BitVec.ofNat 64 (r.v 64 8) }, pwr := { s.pwr with cap := r.u 24 4 } })) ∧
        (i = .keyopActivate → r.u 24 1 = 1 → let ok : Bool := s.sec.slotOk (r.u 25 1 = 1)
          ∃ t, exec i s = .next t ∧ t.sec.next = (if ok then decide (r.u 25 1 = 1) else s.sec.next) ∧ t.sec.run = s.sec.run ∧
            t.adm.done = s.adm.done ++ [{ r := r, fin := if ok then finOk else ⟨0x12, 5⟩ }] ∧ t.mem = s.mem) ∧
        (i = .keyopCascade → ∃ t, exec i s = .next t ∧ t.casc.epoch = s.casc.epoch + 1 ∧ t.casc.role = 2 ∧
          t.casc.master = s.casc.rank ∧ t.casc.standby = BitVec.ofNat 6 (r.u 26 1) ∧ t.casc.nmem = BitVec.ofNat 6 (r.u 27 1 - 1) ∧
          t.casc.out = s.casc.out ++ s.upPorts.map (fun q =>
            (q, .config (s.casc.epoch + 1) s.casc.rank (BitVec.ofNat 6 (r.u 26 1)) true (BitVec.ofNat 6 (r.u 27 1 - 1)))) ∧
          t.adm.done = s.adm.done ++ [{ r := r, fin := finOk }]) ∧
        (i = .keyopPin → ((s.port (r.u 25 1)).st = 2 → s.portFree (r.u 25 1) = true) → ∃ t, exec i s = .next t ∧
          tget 0 t.sec.pins (r.u 25 1) = (if r.u 26 1 = 1 then 0 else BitVec.ofNat 256 (r.u 32 32)) ∧
          (∀ q, q ≠ r.u 25 1 → tget 0 t.sec.pins q = tget 0 s.sec.pins q ∧ t.port q = s.port q) ∧
          (t.port (r.u 25 1)).st = (if (s.port (r.u 25 1)).st = 2 ∨ (s.port (r.u 25 1)).st = 4 then 3 else (s.port (r.u 25 1)).st) ∧
          t.adm.done = s.adm.done ++ [{ r := r, fin := finOk }])))

/-- An idle bound rig dispatches the first command of its plan, else of its queue: a RUN's cores each receive the entry, their index,
their number and the operand, and no other core changes; a FILL writes its pattern and a COPY the source's bytes over exactly their
range; a PERF writes its snapshot; a down core ends the command with FAULT_DOWN. A re-ranker's cores receive their dispatch once
stages 1 to 6 are done (R35, R43, R186, R335, R370, R373). -/
def Obligations.PlansDispatchTheirCommands : Prop :=
  ∀ (s : State) (r : RigId) (now : Nat), let u := s.seeTick now
    let k := u.rig r
    let at_ := max now s.adm.now
    (∀ m ms, k.plan = m :: ms → k.next = some (m, { k with plan := ms })) ∧
    (∀ m ms, k.plan = [] → k.cq = m :: ms → k.next = some (m, { k with cq := ms })) ∧
    (k.st ≠ 1 ∨ k.running.isSome = true ∨ (k.plan = [] ∧ k.cq = []) → exec (.planDispatch r now) s = .next s) ∧
    (∀ m k', k.next = some (m, k') → k.st = 1 → k.running = none → m.r.strm < 256 → m.fin = none →
      let ran (t : State) (f : Option Fin') : Prop := ∃ m', t.rig r = { k' with running := some m' } ∧
        m' = { m with stage := .running, disp := at_, energy := tget 0 s.energyStrm m.r.strm, fin := f, upd := m'.upd,
                       ran := (s.step6 m.r m.cores).isNone && m.cores != 0 } ∧
        t.adm = { s.adm with now := at_, done := s.adm.done ++ (if f.isSome then [{ r := m.r, rig := some r.val }] else []) }
      (∀ f, s.step6 m.r m.cores = some f → ∃ t f', exec (.planDispatch r now) s = .next t ∧ f'.status = 0x21 ∧ ran t (some f') ∧
        t.mem = s.mem ∧ t.cores = s.cores) ∧
      (s.step6 m.r m.cores = none →
        (m.r.op = 1 → ∃ t, exec (.planDispatch r now) s = .next t ∧ ran t none ∧ t.mem = s.mem ∧
          (∀ i c, (coreList m.cores)[i]? = some c →
            t.core c = { s.core c with disp := some ⟨m.r.u 24 8, i, (coreList m.cores).length, m.r.u 32 8⟩ }) ∧
          (∀ c, m.cores.getLsbD c = false → t.core c = s.core c)) ∧
        (∀ c o, m.r.op = 3 → let b := tileAddr c o
          let n := m.r.u 32 8
          m.r.u 24 8 = b → o % 64 = 0 → n % 64 = 0 → c < 4096 → o + n ≤ 0x8000000 → s.ras.flipTgt.getLsbD 63 = false →
          (∀ i, i < n → s.granAt (b + i) = .written ∧ s.linked .device (b + i) = true ∧ s.tileOpen c (o + i) true = true) → ∃ t, exec (.planDispatch r now) s = .next t ∧ ran t (some finOk) ∧
            (∀ i, i < n → mget t.mem (b + i) = BitVec.ofNat 8 (m.r.u 40 8 / 256 ^ (i % 8))) ∧
            (∀ x, x < b ∨ b + n ≤ x → mget t.mem x = mget s.mem x)) ∧
        (∀ c o c' o', m.r.op = 2 → let a := tileAddr c o
          let b := tileAddr c' o'
          let n := m.r.u 40 8
          m.r.u 24 8 = a → m.r.u 32 8 = b → o % 64 = 0 → o' % 64 = 0 → n % 64 = 0 → c < 4096 → c' < 4096 →
          o + n ≤ 0x8000000 → o' + n ≤ 0x8000000 → a + n ≤ b ∨ b + n ≤ a → s.ras.flipTgt.getLsbD 63 = false →
          (∀ i, i < n → s.granAt (a + i) = .written ∧ s.granAt (b + i) = .written ∧ s.mark (wordOf (a + i)) = .none ∧
            s.linked .device (a + i) = true ∧ s.linked .device (b + i) = true ∧ s.tileOpen c (o + i) true = true ∧
            s.tileOpen c' (o' + i) true = true) →
          ∃ t, exec (.planDispatch r now) s = .next t ∧ ran t (some finOk) ∧
            (∀ i, i < n → mget t.mem (b + i) = mget s.mem (a + i)) ∧
            (∀ x, x < b ∨ b + n ≤ x → mget t.mem x = mget s.mem x)) ∧
        (m.r.op = 0xA → ∃ t, exec (.planDispatch r now) s = .next t ∧ ran t (some finOk) ∧
          mread t.hostMem (m.r.u 24 8) 8 = leBytes 8 at_ ∧ t.mem = s.mem ∧
          (∀ x, x < m.r.u 24 8 ∨ m.r.u 24 8 + 64 ≤ x → mget t.hostMem x = mget s.hostMem x)))) ∧
    ((∀ m, (s.rig r).running = some m → m.stage ≠ .rerank ∨ m.fin.isSome = true) → exec (.rerankerDispatch r) s = .next s) ∧
    (∀ m u, (s.rig r).running = some m → m.stage = .rerank → m.fin = none → s.step6 m.r m.cores = none →
      s.feWrite (m.r.u 24 8 + 0xC0) (rerankBlock m) = .ok u () → u.rigs = s.rigs →
      ∃ t, exec (.rerankerDispatch r) s = .next t ∧ t.mem = u.mem ∧
        (t.rig r).running = some { m with stage := .running, ended := 0, stopped := 0 } ∧
        (∀ i c, (coreList m.cores)[i]? = some c →
          t.core c = { u.core c with disp := some ⟨m.r.u 40 8, i, (coreList m.cores).length, m.r.u 24 8⟩ }))

/-- At an abort point the waiting contracts of a rig that are past theirs leave its plan with an ABORTED record of cause 0x0D, and
no other leaves; a running contract past its abort point, or a running class C command CMAX after its dispatch in a rig that has run
contracts, has its running cores stopped with cause 0x0D; one that is not is left (R331, R333, R336). -/
def Obligations.AbortPointsAndLimits : Prop :=
  ∀ (s : State) (r : RigId) (now : Nat), let k := s.rig r
    let at_ := max now s.adm.now
    let late (m : Cmd) : Prop := m.r.contract = true ∧ m.abortAt ≤ at_
    let spent (m : Cmd) : Prop := k.crig = true ∧ s.cmax ≠ 0 ∧ m.r.contract = false ∧ m.disp + s.cmax ≤ at_
    (∃ t, exec (.abortPoint r now) s = .next t ∧ (∀ m, m ∈ (t.rig r).plan ↔ m ∈ k.plan ∧ ¬ late m) ∧
      (∀ m, m ∈ (t.rig r).cq ↔ m ∈ k.cq ∧ ¬ late m) ∧ t.mem = s.mem ∧
      (∀ m ∈ k.plan ++ k.cq, late m → m.r.strm < 256 → ({ r := m.r, fin := finAborted 0x0D } : Done) ∈ t.adm.done)) ∧
    ((∀ m, k.running = some m → ¬ spent m) → exec (.cmaxExpiry r now) s = .next (s.seeTick now)) ∧
    (∀ m i, k.running = some m → m.fin = none → m.cores ≠ 0 → m.stage = .running → tabWf {} s.cores = true →
      (late m ∧ i = .abortPoint r now) ∨ (spent m ∧ i = .cmaxExpiry r now) →
      ∃ t, exec i s = .next t ∧ t.mem = s.mem ∧ (∀ m', (t.rig r).running = some m' → m'.front.isSome = true) ∧
        (∀ c, c < 4096 → m.cores.getLsbD c = true → (s.core c).disp = none →
          (s.core c).phase = .running ∨ (s.core c).phase = .ending → (t.core c).phase = .draining ∧
            (t.core c).stop = (if (s.core c).stop.isSome then (s.core c).stop else some ⟨0x0D, (s.core c).pc.toNat⟩)) ∧
        (∀ c, m.cores.getLsbD c = false → t.core c = s.core c)) ∧
    (∀ m, k.running = some m → m.fin = none → m.cores = 0 → m.r.strm < 256 → spent m →
      ∃ t m', exec (.cmaxExpiry r now) s = .next t ∧ (t.rig r).running = some m' ∧ m'.fin = some (finAborted 0x0D) ∧
        t.adm.done = s.adm.done ++ [{ r := m.r, rig := some r.val }])

/-- A RERIG that authenticates, its plan read whole with the digest its line gives, waits behind others or starts; one whose plan was not
read whole is rejected with offset 24 and reason 8. A waiting RERIG starts only when none is in progress: its affected rigs, and no others, become re-rigging, and their waiting
commands leave. The first record of a stream that may be written goes, 32 bytes, to its slot of the completion area, its counts
advance and its rig is done with the command; one the host refuses halts the stream with ERR 5. Nothing is written once both feeds are
lost (R374, R375, R411, R413, R414, R426, Tables 13-13, 15-4). -/
def Obligations.RerigsStartAndRecordsAreWritten : Prop :=
  (∀ (s : State) (r : CRec) (rest : List CRec) (p : List Byte), s.adm.passed = r :: rest → r.op = 5 → r.strm < 256 →
    s.step1 r = none → r.crit = true → s.sec.bound.isSome = true →
    (r.l2.drop 8).take 16 = (hmac384 (leBytes 48 s.sec.key.toNat) (r.l1 ++ r.l2.take 8)).take 16 → s.sec.ctr.toNat < r.v 64 8 →
    s.step2 r = none → r.step3 = none → r.flagCheck = none →
    let sec : Sec := { s.sec with ctr := BitVec.ofNat 64 (r.v 64 8) }
    let b := p.take (planLen p)
    let whole : Prop := 64 ≤ p.length ∧ planLen p ≤ p.length
    let q : CRec := { r with plan := b }
    (exec (.rerig none) s = .next { s.answered r (rejRes 24 8) with sec := sec }) ∧
    (¬ whole → exec (.rerig (some p)) s = .next { s.answered r (rejRes 24 8) with sec := sec }) ∧
    (whole → (sha384 b).take 16 = (r.l1.drop 32).take 16 →
      (s.adm.rerig.isSome = true ∨ s.adm.rerigQ ≠ [] → exec (.rerig (some p)) s = .next { s with
        sec := sec, adm := { s.adm with passed := rest, rerigQ := s.adm.rerigQ ++ [q] } }) ∧
      (s.adm.rerig = none → s.adm.rerigQ = [] → r.u 24 8 % 64 = 0 → s.planOk b = true → r.nonzero 48 63 = none →
        r.line2Check = none → ∃ t, exec (.rerig (some p)) s = .next t ∧ t.sec = sec ∧ t.adm.passed = rest ∧
          t.adm.rerig = some ⟨q, planMask b, b⟩ ∧ t.mem = s.mem ∧
          (∀ g : RigId, (planMask b).getLsbD g = true → (t.rig g).st = 2 ∧ (t.rig g).plan = [] ∧ (t.rig g).cq = []) ∧
          ∀ g : RigId, (planMask b).getLsbD g = false → t.rig g = s.rig g))) ∧
  (∀ s : State, s.adm.rerig.isSome = true ∨ s.adm.rerigQ = [] → exec .rerigStart s = .next s) ∧
  (∀ (s : State) (r : CRec) (rest : List CRec), s.adm.rerig = none → s.adm.rerigQ = r :: rest → r.strm < 256 → r.op = 5 →
    let good : Prop := r.u 24 8 % 64 = 0 ∧ s.planOk r.plan = true ∧ r.nonzero 48 63 = none ∧ r.line2Check = none
    (¬ good → ∃ t f, exec .rerigStart s = .next t ∧ t.adm = { s.adm with rerigQ := rest, done := s.adm.done ++ [{ r := r, fin := f }] } ∧
      f.status = 0x11 ∧ { t with adm := s.adm } = s) ∧
    (good → ∃ t, exec .rerigStart s = .next t ∧ t.adm.rerig = some ⟨r, planMask r.plan, r.plan⟩ ∧ t.adm.rerigQ = rest ∧ t.mem = s.mem ∧
      ({ r := r, fin := finOk } : Done) ∈ t.adm.done ∧
      (∀ g : RigId, (planMask r.plan).getLsbD g = true → (t.rig g).st = 2 ∧ (t.rig g).plan = [] ∧ (t.rig g).cq = [] ∧
        (t.rig g).cores = (s.rig g).cores ∧ (t.rig g).regions = (s.rig g).regions) ∧
      (∀ g : RigId, (planMask r.plan).getLsbD g = false → t.rig g = s.rig g))) ∧
  (∀ (s : State) (n : StreamId) (now reef : Nat) (acc : Bool), let at_ := max now s.adm.now
    let k := s.strm n
    let u := s.seeTick now
    ((s.pwr.feedA = false ∧ s.pwr.feedB = false) ∨ s.adm.done = [] → exec (.completionRecordWrite n now acc reef) s = .next u) ∧
    (∀ d ds, s.pwr.feedA = true ∨ s.pwr.feedB = true → s.adm.done = d :: ds → s.adm.rerig = none → d.r.strm = n → d.r.op ≠ 8 →
      let a := s.strmCpl n + 32 * d.r.slot
      let took (t : State) (f : Fin') (reef energy : Nat) : Prop := t.adm.done = ds ∧ t.mem = s.mem ∧ t.cores = s.cores ∧
        (acc = true → t.hostMem = mwrite s.hostMem a (recordBytes d.r f reef (ticksNs (at_ - d.r.t0)) energy) ∧
          t.strm n = { k with out := k.out - 1, okN := k.okN + (if f.status = 0 then 1 else 0)
                              otherN := k.otherN + (if f.status = 0 then 0 else 1) } ∧
          (bit d.r.flags 0 = true → t.evt.pend.getLsbD (512 + n.val) = true)) ∧
        (acc = false → t.hostMem = s.hostMem ∧ (t.strm n).halt = true ∧ (t.strm n).err = 5 ∧
          t.evt.pend.getLsbD (512 + n.val) = true)
      (d.rig = none → ∃ t, exec (.completionRecordWrite n now acc reef) s = .next t ∧ took t d.fin 0 0 ∧ t.rigs = u.rigs) ∧
      (∀ (g : RigId) m, d.rig = some g.val → (u.rig g).running = some m →
        ∃ t, exec (.completionRecordWrite n now acc reef) s = .next t ∧ (t.rig g).running = none ∧
          took t (m.bounded (s.outcome m) at_) (if m.ran then (m.reef + reef) / 1024 else 0) (tget 0 s.energyStrm n - m.energy).toNat)))

/-- An UPDATE whose peers disagree at a rendezvous ends with ABORTED; one that agrees may send or receive. Data that arrives for a
RECV is written at its place, and the last word ends it with OK. A port that goes down is at STATE 0, raises its source and ends the
UPDATEs that use it, and no others, with FAULT_DOWN (R382, R397 to R399). -/
def Obligations.UpdatesMeetReceiveAndFail : Prop :=
  ∀ (s : State) (r : RigId), let k := s.rig r
    (∀ send peer data, k.running = none → exec (.rendezvous r send peer) s = .next s ∧ exec (.wireBlockArrival r data) s = .next s) ∧
    (∀ m peer send, k.running = some m → m.r.op = 0xC → m.fin = none → m.r.strm < 256 →
      let port := if send then m.r.uNxt else m.r.uPrv
      (s.port port).st = 2 → k.pahus ≠ 0 → complement r m.r send (s.port port).peerPort peer = true →
      (if send then m.upd.rvSend else m.upd.rvRecv) = false →
      (agree m.r send peer = false → ∃ t m', exec (.rendezvous r send peer) s = .next t ∧ (t.rig r).running = some m' ∧
        m'.fin = some (finAborted 0x0C) ∧ t.adm.done = s.adm.done ++ [{ r := m.r, rig := some r.val }] ∧ t.mem = s.mem ∧
        t.casc = s.casc) ∧
      (agree m.r send peer = true → send = false → m.r.uOp = 2 → exec (.rendezvous r send peer) s =
        .next (s.setRig r { k with running := some { m with upd := { m.upd with rvRecv := true } } })) ∧
      (∀ u, agree m.r send peer = true → send = true → m.r.uOp = 1 →
        s.sendWords r m.r ((List.range (m.r.uLen / 64)).map fun i => m.r.u 24 8 + 64 * i) = .ok u none → u.rigs = s.rigs →
        ∃ t m', exec (.rendezvous r send peer) s = .next t ∧ (t.rig r).running = some m' ∧ m'.fin = some finOk ∧
          t.casc = u.casc ∧ t.mem = u.mem)) ∧
    (∀ m data u, k.running = some m → m.r.op = 0xC → m.fin = none → m.r.strm < 256 → m.upd.rvRecv = true → m.r.uOp = 2 →
      (s.port m.r.uPrv).st = 2 → data ≠ [] → data.length % 64 = 0 → m.upd.pos + data.length ≤ m.r.uLen →
      s.feWrite (m.r.u 32 8 + m.upd.pos) data = .ok u () → u.rigs = s.rigs →
      ∃ t m', exec (.wireBlockArrival r data) s = .next t ∧ t.mem = u.mem ∧ (t.rig r).running = some m' ∧
        (m.upd.pos + data.length = m.r.uLen → m'.fin = some finOk) ∧
        (m.upd.pos + data.length < m.r.uLen → m' = { m with upd := { m.upd with pos := m.upd.pos + data.length } })) ∧
    (∀ p : PortId, ((s.port p).st = 0 → exec (.pahusPortDown p) s = .next s) ∧
      ((s.port p).st ≠ 0 → ∃ t, exec (.pahusPortDown p) s = .next t ∧ (t.port p).st = 0 ∧ t.evt.pend.getLsbD (768 + p.val) = true ∧
        t.mem = s.mem ∧ (∀ q, q ≠ p.val → t.port q = s.port q) ∧
        (∀ m, k.running = some m → m.r.op = 0xC → m.fin = none → m.r.strm < 256 → m.r.uPorts.contains p.val = true →
          ∃ m', (t.rig r).running = some m' ∧ m'.fin = some ⟨0x21, stopDetail m.unwritten none 0x0B⟩ ∧
            ({ r := m.r, rig := some r.val } : Done) ∈ t.adm.done) ∧
        ((∀ m, k.running = some m → m.r.op ≠ 0xC ∨ m.fin.isSome = true ∨ m.r.uPorts.contains p.val = false) → t.rig r = k)))

/-! ### The cascade (14) -/

/-- A port that is enabled starts training and one that is disabled goes down; trained with a peer it attests; a peer that verifies,
with the pinned digest or none and another rank, brings it to STATE 2 and pins the digest; another leaves it at STATE 4. The spare
stands for the first failed lane; with a failure in both halves the port goes down. The rank is written only while every port is
disabled (R380 to R383, R387, R506, R531). -/
def Obligations.PortsTrainAttestAndFail : Prop :=
  ∀ (s : State) (p : PortId), let k := s.port p
    (∀ pen present, s.bar0On 0x090000 = true → ∃ t, exec (.portEnable pen present) s = .next t ∧ t.mem = s.mem ∧
      (k.pen = false → pen.getLsbD p = true →
        t.port p = ({ k with pen := true, present := present.getLsbD p } : Port).train) ∧
      (k.pen = pen.getLsbD p → t.port p = { k with present := present.getLsbD p }) ∧
      (k.pen = true → pen.getLsbD p = false → k.st ≠ 0 → (t.port p).st = 0 ∧ (t.port p).pen = false ∧
        t.evt.pend.getLsbD (768 + p.val) = true)) ∧
    (∀ r, s.bar0On 0x090008 = true →
      ((∃ q, q < 6 ∧ (s.port q).pen = true) → exec (.cascRankWrite r) s = .next s) ∧
      ((∀ q, q < 6 → (s.port q).pen = false) → exec (.cascRankWrite r) s = .next { s with casc := { s.casc with rank := r } })) ∧
    (k.st ≠ 0 → k.retry < 0xFFFF → exec (.pahusRetransmission p) s = .next (s.setPort p { k with retry := k.retry + 1 })) ∧
    (∀ lane : Fin 17, k.st = 0 ∨ k.failed.getLsbD lane = true → exec (.pahusLaneFailed p lane) s = .next s) ∧
    (∀ lane : Fin 17, k.st ≠ 0 → k.failed = 0 → ∃ t, exec (.pahusLaneFailed p lane) s = .next t ∧
      t.port p = { k with failed := BitVec.twoPow 17 lane, spare := if lane.val < 16 then some lane.val else k.spare } ∧
      t.boot.gen = s.boot.gen + 1 ∧ t.evt.pend.getLsbD (768 + p.val) = true ∧ t.rigs = s.rigs) ∧
    (∀ lane : Fin 17, k.st ≠ 0 → k.failed ≠ 0 → k.failed.getLsbD lane = false →
      (∀ h, h < 2 → ({ k with failed := k.failed ||| BitVec.twoPow 17 lane } : Port).halfOk h = false) →
      ∃ t, exec (.pahusLaneFailed p lane) s = .next t ∧ (t.port p).st = 0 ∧ t.evt.pend.getLsbD (768 + p.val) = true) ∧
    (exec (.portTrainingDone p) s = .next (if k.st = 1 ∧ k.present = true then s.setPort p { k with st := 3 } else s)) ∧
    (∀ digest signed rank port, let good : Prop := signed = true ∧ (tget 0 s.sec.pins p = 0 ∨ tget 0 s.sec.pins p = digest) ∧
        rank ≠ s.casc.rank
      (k.st ≠ 3 → exec (.peerAttestationDone p digest signed rank port) s = .next s) ∧
      (k.st = 3 → good → ∃ t, exec (.peerAttestationDone p digest signed rank port) s = .next t ∧
        t.port p = { k with peerRank := rank, peerPort := port, st := 2 } ∧ tget 0 t.sec.pins p = digest ∧ t.rigs = s.rigs) ∧
      (k.st = 3 → ¬ good → ∃ t, exec (.peerAttestationDone p digest signed rank port) s = .next t ∧ (t.port p).st = 4 ∧
        t.sec = s.sec ∧ t.evt.pend.getLsbD (768 + p.val) = true))

/-- A configuration of a higher EPOCH, or of the same with a lower master, is adopted, flooded on and raises source 774; a master that
hears one becomes a member; any other is dropped. The master's heartbeat is flooded, and by each member once; a standby that hears
none for its limit makes itself master with EPOCH one higher. Delays are half the round trip less the time held. The master counts
arrivals, which other members pass on to it, marks the tick of the last, sends each release when it is due and no earlier; a release for
another module is passed on, and one for this module ends the BARRIER with its tag (R386, R388 to R395). -/
def Obligations.CascadeConfiguresAndReleases : Prop :=
  ∀ (s : State), let c := s.casc
    let sent (m : Msg) : List (Nat × Msg) := s.upPorts.map fun q => (q, m)
    (∀ epoch master standby has nmem,
      let better : Prop := c.epoch.toNat < epoch.toNat ∨ (epoch = c.epoch ∧ c.role ≠ 0 ∧ master.toNat < c.master.toNat)
      (¬ better → exec (.configurationReceived epoch master standby has nmem) s = .next s) ∧
      (better → ∃ t rest, exec (.configurationReceived epoch master standby has nmem) s = .next t ∧ t.casc.epoch = epoch ∧
        t.casc.master = master ∧ t.casc.nmem = nmem ∧ t.evt.pend.getLsbD 774 = true ∧
        t.casc.out = c.out ++ sent (.config epoch master standby has nmem) ++ rest ∧
        (c.role = 2 → t.casc.role = 1) ∧ (c.role ≠ 2 → master = c.rank → t.casc.role = 2) ∧
        (c.role ≠ 2 → master ≠ c.rank → has = true → standby = c.rank → t.casc.role = 3))) ∧
    (c.role ≠ 2 → exec .heartbeatSend s = .next s) ∧
    (c.role = 2 → exec .heartbeatSend s =
      .next { s with casc := { c with hb := c.hb + 1, out := c.out ++ sent (.heartbeat c.epoch (c.hb + 1)) } }) ∧
    (∀ seq, c.role = 1 ∨ c.role = 3 → (∀ n, c.seen = some n → n < seq) → exec (.heartbeatReceived c.epoch seq) s =
      .next { s with casc := { c with seen := some seq, out := c.out ++ sent (.heartbeat c.epoch seq) } }) ∧
    (∀ epoch seq, epoch ≠ c.epoch ∨ (∃ n, c.seen = some n ∧ seq ≤ n) → exec (.heartbeatReceived epoch seq) s = .next s) ∧
    (c.role ≠ 3 ∨ s.hbto = 0 → exec .heartbeatTimeout s = .next s) ∧
    (c.role = 3 → s.hbto ≠ 0 → ∃ t, exec .heartbeatTimeout s = .next t ∧ t.casc.epoch = c.epoch + 1 ∧ t.casc.role = 2 ∧
      t.casc.master = c.rank ∧ t.casc.hasStandby = false ∧ t.evt.pend.getLsbD 774 = true) ∧
    (∀ (p : PortId) t1 t2 h, let k := s.port p
      (k.st = 2 → exec (.delayProbeSend p t1) s = .next ((s.setPort p { k with t1 := some t1 }).sendMsg p (.probe t1))) ∧
      (k.st = 2 → exec (.delayProbeReceived p t1 t2) s = .next (s.sendMsg p (.echo (t2 - t1)))) ∧
      (k.st = 2 → k.t1 = some t1 → (4 * (t2 - t1 - h) + 5) / 10 ≤ 0xFFFF → exec (.delayProbeEcho p t2 h) s =
        .next (s.setPort p { k with t1 := none, delay := (4 * (t2 - t1 - h) + 5) / 10 })) ∧
      (k.st ≠ 2 → exec (.delayProbeSend p t1) s = .next s ∧ exec (.delayProbeReceived p t1 t2) s = .next s ∧
        exec (.delayProbeEcho p t2 h) s = .next s)) ∧
    (∀ (rank : BitVec 6) (tag : BitVec 8) delay released,
      (c.role = 0 → exec (.barrierArrivalMessage rank tag released delay) s = .next s) ∧
      (∀ q, c.role ≠ 0 → c.role ≠ 2 → s.portTo c.master.toNat = some q → exec (.barrierArrivalMessage rank tag released delay) s =
        .next (s.sendMsg q (arrivalMsg tag rank released (delay + (s.port q).delay)))) ∧
      (c.role = 2 → c.nmem ≠ 0 → (∀ b ∈ c.bars, b.tag ≠ tag) → exec (.barrierArrivalMessage rank tag false delay) s =
        .next { s with casc := { c with bars := c.bars ++
          [{ tag := tag, ranks := BitVec.twoPow 64 rank.toNat, delays := tset 0 [] rank.toNat delay }] } }) ∧
      (∀ b, c.role = 2 → c.bars = [b] → b.tag = tag → b.full = none → b.marks = 0 → b.ranks.getLsbD rank.toNat = false →
        c.nmem.toNat = popcount b.ranks.toNat → exec (.barrierArrivalMessage rank tag false delay) s =
          .next { s with casc := { c with bars := [{ b with
            ranks := b.ranks ||| BitVec.twoPow 64 rank.toNat, delays := tset 0 b.delays rank.toNat delay
            full := some s.adm.now }] } })) ∧
    (∀ (tag : BitVec 8) (rank : BitVec 6) now b full, let at_ := max now s.adm.now
      c.role = 2 → c.bars = [b] → b.tag = tag → b.full = some full → b.targets.getLsbD rank.toNat = true →
      b.sent.getLsbD rank.toNat = false →
      let due := s.dueAt b full s.stag rank.toNat
      (at_ < due → exec (.cascadeReleaseSend tag rank now) s = .next (s.seeTick now)) ∧
      (∀ q, due ≤ at_ → rank ≠ c.rank → s.portTo rank.toNat = some q →
        ∃ t, exec (.cascadeReleaseSend tag rank now) s = .next t ∧ t.adm.now = at_ ∧
          t.casc.out = c.out ++ [(q, .release tag rank due)])) ∧
    (∀ (tag : BitVec 8) (rank : BitVec 6) due, rank ≠ c.rank →
      (s.portTo rank.toNat = none → exec (.cascadeReleaseArrival tag rank due) s = .next s) ∧
      (∀ q, s.portTo rank.toNat = some q →
        exec (.cascadeReleaseArrival tag rank due) s = .next (s.sendMsg q (.release tag rank due)))) ∧
    (∀ (tag : BitVec 8) (due : Nat), let waits (r : Nat) : Prop := ∃ m, (s.rig r).running = some m ∧ m.r.op = 0xC ∧ m.r.uOp = 3 ∧ m.fin = none ∧
        m.r.uTag = tag.toNat
      ((∀ r, r < 64 → ¬ waits r) → exec (.cascadeReleaseArrival tag c.rank due) s = .next s) ∧
      (∀ (r : RigId) m, waits r → (∀ q, q < r.val → ¬ waits q) → (s.rig r).running = some m → m.r.strm < 256 →
        ∃ t m', exec (.cascadeReleaseArrival tag c.rank due) s = .next t ∧ (t.rig r).running = some m' ∧ m'.fin = some finOk ∧
          t.adm.done = s.adm.done ++ [{ r := m.r, rig := some r.val }] ∧ (∀ q, q ≠ r.val → t.rig q = s.rig q)))

/-! ### Power delivery, temperature and ageing (16 to 18) -/

/-- A domain's energy is attributed in proportion to activity, whole microjoules to the rig's counter and the rest kept; the part of no
rig is added to none. A lost feed is
marked and raises source 0; both lost turn the device off, and the first to return is a power-on. A failed converter raises source 1,
and the third takes every core down; a failed regulator cell or raised path raises the yard's source and limits the yard, and the third
cell, or a path that fails, takes its cores down. A yard powers on through a wait, a ramp of the slope its neighbours allow, and its
wake level, which is the model's choice (log entry 40) (R420 to R443). -/
def Obligations.PowerDeliveryAndYards : Prop :=
  (∀ (s : State) (uj a b other : Nat) (r q : RigId), r ≠ q → a + b + other ≠ 0 → (s.rig r).running = none →
    (s.rig q).running = none → (s.rig r).st ≠ 0 → (s.rig q).st ≠ 0 →
    ∃ t, exec (.energyAttribution [] [⟨uj, [(r, a), (q, b)], other⟩]) s = .next t ∧
      (∀ g n, (g, n) = (r, a) ∨ (g, n) = (q, b) →
        let x : Rat := tget 0 s.pwr.attr g.val + (uj * n : Nat) / ((a + b + other : Nat) : Rat)
        tget 0 t.energyRig g.val = tget 0 s.energyRig g.val + BitVec.ofNat 64 x.floor.toNat ∧
        tget 0 t.pwr.attr g.val = x - (x.floor : Rat)) ∧
      (∀ i, i ≠ r.val → i ≠ q.val → tget 0 t.energyRig i = tget 0 s.energyRig i) ∧ t.energyStrm = s.energyStrm) ∧
  (∀ (s : State) (y : YardId) (c : CoreId) (r : RigId) (uj n idle : Nat), yardOf c = y.val → s.rigOfCore c = some r.val →
    n + idle ≠ 0 → (s.rig r).running = none → (s.rig r).st ≠ 0 →
    ∃ t, exec (.energyAttribution [⟨y, uj, [(c, n)], idle⟩] []) s = .next t ∧
      (let x : Rat := tget 0 s.pwr.attr r.val + (uj * n : Nat) / ((n + idle : Nat) : Rat)
       tget 0 t.energyRig r.val = tget 0 s.energyRig r.val + BitVec.ofNat 64 x.floor.toNat ∧
       tget 0 t.pwr.attr r.val = x - (x.floor : Rat)) ∧
      (∀ i, i ≠ r.val → tget 0 t.energyRig i = tget 0 s.energyRig i) ∧ t.energyStrm = s.energyStrm) ∧
  (∀ (s : State), let p := s.pwr
    (p.feedA = true → ∃ t, exec (.feedLost false) s = .next t ∧ t.pwr = { p with feedA := false, alost := true } ∧
      t.evt.pend.getLsbD 0 = true ∧ { t with pwr := p, evt := s.evt } = s) ∧
    (p.feedB = true → ∃ t, exec (.feedLost true) s = .next t ∧ t.pwr = { p with feedB := false, blost := true } ∧
      t.evt.pend.getLsbD 0 = true ∧ { t with pwr := p, evt := s.evt } = s) ∧
    (p.feedA = false → exec (.feedLost false) s = .next s) ∧ (p.feedB = true → exec (.feedGood true) s = .next s) ∧
    (p.feedA = true → p.feedB = false → ∃ t, exec (.feedGood true) s = .next t ∧ t.pwr = { p with feedB := true } ∧
      t.evt.pend.getLsbD 0 = true) ∧
    (p.feedA = false → p.feedB = false → ∃ t, exec (.feedGood true) s = .next t ∧ t.boot.ph = 1 ∧ t.boot.step = 1 ∧
      t.pwr.feedB = true ∧ t.pwr.feedA = false ∧ t.mem = [] ∧ t.failures = s.failures) ∧
    (p.feedA = true ∨ p.feedB = true → exec .bothFeedsLost s = .next s) ∧
    (p.feedA = false → p.feedB = false → ∃ t, exec .bothFeedsLost s = .next t ∧ t.boot.ph = 0 ∧ t.pwr.off = true ∧ t.mem = [] ∧
      t.hostMem = s.hostMem ∧ t.failures = s.failures) ∧
    (∀ k : Fin 4, p.conv.getLsbD k = false → exec (.converterFailed k) s = .next s) ∧
    (∀ k : Fin 4, p.conv.getLsbD k = true → p.converters ≠ 2 → ∃ t, exec (.converterFailed k) s = .next t ∧
      t.pwr = { p with conv := p.conv &&& ~~~(BitVec.twoPow 4 k.val), clost := true } ∧ t.evt.pend.getLsbD 1 = true ∧
      t.cores = s.cores) ∧
    (∀ k : Fin 4, p.conv.getLsbD k = true → p.converters = 2 → ∃ t, exec (.converterFailed k) s = .next t ∧
      t.evt.pend.getLsbD 1 = true ∧ (∀ c, c < 4096 → (t.core c).down = true) ∧ (∀ y, y < 256 → (t.yard y).lvl = 7))) ∧
  (∀ (s : State) (y : YardId), let k := s.yard y
    (8 ≤ k.cells → exec (.regulatorCellFailed y) s = .next s) ∧
    (k.cells < 2 → ∃ t, exec (.regulatorCellFailed y) s = .next t ∧ (t.yard y).cells = k.cells + 1 ∧ t.pwr.chg = true ∧
      t.boot.gen = s.boot.gen + 1 ∧ t.evt.pend.getLsbD (1024 + 4 * y.val + 2) = true ∧ t.yardTop y ≤ (t.yard y).lvl ∧
      t.cores = s.cores ∧ ∀ x, x ≠ y.val → t.yard x = s.yard x) ∧
    (k.cells = 2 → ∃ t, exec (.regulatorCellFailed y) s = .next t ∧ (t.yard y).cells = 3 ∧ (t.yard y).lvl = 7 ∧
      (∀ j, j < 16 → (t.core (16 * y + j)).down = true) ∧ t.evt.pend.getLsbD (1024 + 4 * y.val + 2) = true) ∧
    (∀ (p : PathId) xs, let h := s.path p
      let ratio : Rat := if xs = [] then h.ratio else median (xs.map fun (n : Nat) => Int.ofNat n)
      let c := ratioState ratio
      let st := max h.st.toNat (if s.boot.ph = 1 then c else min c (min h.c1.toNat h.c2.toNat))
      ∃ t, exec (.pathRatioWindowEnd p xs) s = .next t ∧ t.path p = { ratio := ratio, st := BitVec.ofNat 2 st, c1 := h.c2, c2 := BitVec.ofNat 2 c } ∧
        (∀ x, x ≠ p.val → t.path x = s.path x) ∧ (st = h.st.toNat → t.cores = s.cores ∧ t.yards = s.yards) ∧
        (st = 2 → h.st ≠ 2 → p.val < 256 → ∀ j, j < 16 → (t.core (16 * p.val + j)).down = true)) ∧
    (s.mayPowerOn y = false → exec (.yardPowerOnRequest y) s = .next s) ∧
    (s.mayPowerOn y = true → s.pwr.waits = [] → ∃ t, exec (.yardPowerOnRequest y) s = .next t ∧
      t.yard y = { k with ramp := if s.heldBack y then .wait else .ready } ∧ t.pwr.waits = [y.val]) ∧
    (∀ i quarter, (i = .neighbourWaitExpiry y ∧ quarter = true) ∨ (i = .yardRampStart y ∧ quarter = false) →
      exec i s = .next (if k.ramp = .ready ∧ s.ramping (y.val / 64) < 4 ∧ (neighbours y).any s.nearLimit = quarter then
        { s.setYard y { k with ramp := .ramping, quarter := quarter } with
          pwr := { s.pwr with waits := s.pwr.waits.filter (· ≠ y.val) } } else s)) ∧
    (k.ramp ≠ .ramping → exec (.yardRampEnd y) s = .next s) ∧
    (k.ramp = .ramping → ∃ t, exec (.yardRampEnd y) s = .next t ∧ (t.yard y).lvl = s.wakeLevel y ∧ (t.yard y).ramp = .no ∧
      t.cores = s.cores ∧ t.mem = s.mem))

/-- The fast guard and the governor take a measurement or estimate; above the limit one yard, the hottest that may be reefed, drops one
level and no other changes, and within 3 percent below it no level changes. A rig's yards furl and resume together; boost rises by 50
MHz where it may. Measured-only control is set after a difference above 15 percent. A yard at 105 degrees is reefed at the next action; a
third reading in a row more than 6 degrees from the model makes its sensor suspect; an inlet at 55 degrees furls every yard; a trip turns
the device off (R446, R453 to R470). -/
def Obligations.GovernorTemperatureAndCoolant : Prop :=
  (∀ (s : State) (m : MastId) (est : Nat), let above : Prop := (min 3900 (s.capEff + 500) : Rat) < (est : Rat)
    (s.boot.ph ≠ 5 ∨ s.pwr.cons = true ∨ s.pwr.emerg = true ∨ ¬ above →
      exec (.fastGuardEstimate m est) s = .next { s with pwr := { s.pwr with est := est } }) ∧
    (∀ y, s.boot.ph = 5 → s.pwr.cons = false → s.pwr.emerg = false → above → s.hottestOf ((mastYards m).filter s.reefable) = some y →
      ∃ t, exec (.fastGuardEstimate m est) s = .next t ∧ (t.yard y).lvl = (s.yard y).lvl + 1 ∧
        ∀ x, x ≠ y → t.yard x = s.yard x)) ∧
  (∀ (s : State) (x : Telemetry), tabWf {} s.yards = true → x.yards = [] → x.rigs = [] → x.paths = [] → (∀ y, (s.yard y).hist.length < 20) →
    ∃ t, exec (.governorEvaluation x) s = .next t ∧ t.pwr.mean1 = x.mean1 ∧ t.pwr.sample = x.sample ∧ t.pwr.va = x.va ∧
      t.pwr.ev = s.pwr.ev + 1 ∧ t.mem = s.mem ∧ t.cores = s.cores ∧
      (s.governs = false ∨ s.pwr.emerg = true ∨ (97 / 100 * s.target ≤ (x.mean1 : Rat) ∧ (x.mean1 : Rat) ≤ s.target) →
        ∀ y, (t.yard y).lvl = (s.yard y).lvl) ∧
      (s.governs = true → s.pwr.emerg = false → s.target < (x.mean1 : Rat) → (∃ y, s.yard y ≠ {} ∧ s.reefable y = true) →
        ∃ y, s.reefable y = true ∧ (t.yard y).lvl = (s.yard y).lvl + 1 ∧ (∀ z, z ≠ y → (t.yard z).lvl = (s.yard z).lvl) ∧
          ∀ z, s.yard z ≠ {} → s.reefable z = true → (s.yard z).trusted ≤ (s.yard y).trusted)) ∧
  (∀ (s : State) (r : RigId), let ys := s.rigYards r
    (s.governs = true → ys ≠ [] → (∀ y ∈ ys, (s.yard y).lvl = 6) → ∃ t, exec (.dutyCycleFurl r true) s = .next t ∧
      t.pwr.duty.getLsbD r = true ∧ ∀ y ∈ ys, (t.yard y).lvl = 7 ∧ (t.yard y).held = true) ∧
    (s.governs = false ∨ ys = [] ∨ (∃ y ∈ ys, (s.yard y).lvl ≠ 6) → exec (.dutyCycleFurl r true) s = .next s) ∧
    (∃ t, exec (.dutyCycleFurl r false) s = .next t ∧ t.pwr.duty.getLsbD r = false ∧
      ∀ y ∈ ys, (s.yard y).held = true → (s.yard y).cause = 7 → (t.yard y).lvl = 6)) ∧
  (∀ (s : State) (y : YardId), exec (.boostStep y) s =
    .next (if s.governs = true ∧ s.yardBound y = true ∧ s.mayBoost y = true ∧ 30 ≤ (s.yard y).raw
      then s.setYard y { s.yard y with boost := min 200 ((s.yard y).boost + 50) } else s)) ∧
  (∀ (s : State) (d : Nat), (d ≤ 15 ∨ s.pwr.cons = true ∨ s.governs = false → exec (.consSet d) s = .next s) ∧
    (15 < d → s.pwr.cons = false → s.governs = true → ∃ t, exec (.consSet d) s = .next t ∧ t.pwr.cons = true ∧
      t.evt.pend.getLsbD 2 = true ∧ t.mem = s.mem)) ∧
  (∀ (s : State), exec .consClear s = .next (if s.bar0On 0x030020 then { s with pwr := { s.pwr with cons := false } } else s)) ∧
  (∀ (s : State) (x : Sensors),
    (s.governs = false → exec (.sensorSample x) s = .next (s.readSensors x)) ∧
    (∃ t, exec (.sensorSample x) s = .next t ∧ t.therm.tin = x.inlet ∧ t.therm.tout = x.outlet ∧ t.therm.n = s.therm.n + 1 ∧
      t.mem = s.mem ∧ ((s.therm.n + 1) % 5 ≠ 0 → ∀ y, (t.yard y).lvl = (s.yard y).lvl)) ∧
    (∀ (y : YardId) k c, s.governs = true → s.pwr.emerg = false → s.yards = [(y.val, k)] → k.hasModel = false → k.lvl < 7 →
      x = ⟨[⟨y, c, 0⟩], [], [], x.inlet, x.outlet, []⟩ → 1050 ≤ c → s.therm.step = [] → s.therm.hbm = [] →
      (s.therm.n + 1) % 5 = 0 → (s.therm.n + 1) % 100 ≠ 0 → ∃ t, exec (.sensorSample x) s = .next t ∧
        (t.yard y).lvl = k.lvl + 1 ∧ (t.yard y).cause = 3 ∧ (t.yard y).hot = true)) ∧
  (∀ (s : State) (y : YardId) (c d : Nat), let k := s.yard y
    let far : Prop := 60 < k.own - c ∨ 60 < c - k.own
    ∃ t, exec (.modelEvaluation [⟨y, c, d⟩]) s = .next t ∧ (t.yard y).model = c ∧ (t.yard y).tileM = d ∧
      (t.yard y).hasModel = true ∧ (¬ far → (t.yard y).diff = 0 ∧ (t.yard y).susp = k.susp) ∧
      (far → (t.yard y).diff = k.diff + 1 ∧ (2 ≤ k.diff → (t.yard y).susp = true ∧
        (k.susp = false → t.evt.pend.getLsbD (1024 + 4 * y.val + 1) = true))) ∧ { t with yards := s.yards, evt := s.evt } = s) ∧
  (∀ (s : State) (p tin tout : Nat), (s.governs = false → exec (.flowInference p tin tout) s = .next s) ∧
    (s.governs = true → s.pwr.air = true → tin < 550 → exec (.flowInference p tin tout) s =
      .next { s with therm := { s.therm with inhot := decide (400 < tin) } }) ∧
    (s.governs = true → s.pwr.air = true → 550 ≤ tin → s.pwr.emerg = false → ∃ t, exec (.flowInference p tin tout) s = .next t ∧
      t.pwr.emerg = true ∧ t.evt.pend.getLsbD 3 = true ∧ ∀ y, y < 256 → (t.yard y).lvl = 7 ∧ (t.yard y).held = false) ∧
    (s.governs = true → s.pwr.air = false → ∃ t, exec (.flowInference p tin tout) s = .next t ∧ t.mem = s.mem ∧ t.therm.pulses = 0 ∧
      (s.meterOn = false → 500 ≤ p → tin + 20 ≤ tout → t.therm.inf = inferFlow p (tout - tin) ∧ t.therm.flow = t.therm.inf) ∧
      (tin < 550 → t.yards = s.yards ∧ t.pwr = s.pwr) ∧
      (550 ≤ tin → s.pwr.emerg = false → t.pwr.emerg = true ∧ t.evt.pend.getLsbD 3 = true ∧
        ∀ y, y < 256 → (t.yard y).lvl = 7 ∧ (t.yard y).held = false))) ∧
  (∀ (s : State), exec .flowMeterPulse s =
    .next (if s.meterOn then { s with therm := { s.therm with pulses := s.therm.pulses + 1 } } else s)) ∧
  (∀ (s : State), (s.boot.ph = 0 ∨ (s.boot.ph = 1 ∧ s.boot.step < 4) → exec .thermalTrip s = .next s) ∧
    (s.boot.ph ≠ 0 → (s.boot.ph = 1 → 4 ≤ s.boot.step) → ∃ t, exec .thermalTrip s = .next t ∧ t.boot.ph = 0 ∧
      t.therm.tripped = true ∧ t.pwr.off = true ∧ t.mem = [])) ∧
  (∀ (s : State), let good : Prop := s.bar0On 0x030020 = true ∧ s.pwr.emerg = true ∧ s.hottest < 850 ∧
      (s.pwr.air = true ∨ 10 ≤ s.therm.okFor)
    (¬ good → exec .emergClear s = .next s) ∧
    (good → ∃ t, exec .emergClear s = .next t ∧ t.pwr = { s.pwr with emerg := false } ∧ t.mem = s.mem ∧ t.yards = s.yards))

/-- A telltale measurement is kept. A guard raise adds 5 mV up to +60 mV in all and raises the yard's source; at the limit for 100 us
the yard's cores are marked down. A margin plan counts itself, leaves a yard without samples as it is, and plans for another the offset
its median slack calls for and the level its telltales allow; a raise takes effect at once. Armed flips, the cleared table of
corrections, scrubs and failing ways are as their registers say; a scrub cleans every correctable word of the granules it visits and
changes no byte, and ends with FAULT_DOWN at a core that is down (R35, R483 to R487, R493, R498 to R500). -/
def Obligations.AgeingScrubsAndRepairRegisters : Prop :=
  (∀ (s : State) (y : YardId) (x : Telltale), let k := s.yard y
    (k.samples.length < sampleCap → exec (.telltaleMeasurement y x) s = .next (s.setYard y { k with
      slack := x.slack, raw := x.raw, low := satTo 255 x.low, temp := x.temp, levels := x.levels, samples := k.samples ++ [x.slack] })) ∧
    (k.off + k.guard < 60 → ∃ t, exec (.telltaleGuardRaise y false) s = .next t ∧
      t.yard y = { k with guard := min (k.guard + 5) (60 - k.off).toNat } ∧ (t.yard y).off + (t.yard y).guard ≤ 60 ∧
      t.evt.pend.getLsbD (1024 + 4 * y.val + 3) = true ∧ (t.reg ageStat).getLsbD 2 = true ∧ t.cores = s.cores) ∧
    (60 ≤ k.off + k.guard → exec (.telltaleGuardRaise y false) s = .next s ∧
      ∃ t, exec (.telltaleGuardRaise y true) s = .next t ∧ ∀ j, j < 16 → (t.core (16 * y + j)).down = true)) ∧
  (∀ (s : State) (i : Instr), i = .marginPlan ∨ (i = .recomp ∧ s.bar0On ageStat = true) → ∃ t, exec i s = .next t ∧ t.mem = s.mem ∧
    bits (t.reg ageStat).toNat 63 48 = (bits (s.reg ageStat).toNat 63 48 + 1) % 65536 ∧
    ∀ y : YardId, let k := s.yard y
      (k.samples = [] ∨ k.retired = true → t.yard y = k) ∧
      (∀ c, k.samples ≠ [] → k.retired = false → planCeil k.levels = some c → c ≤ s.yardFloor y →
        (t.yard y).planned = (planOffset (median k.samples), c) ∧ (k.off ≤ planOffset (median k.samples) →
          (t.yard y).off = planOffset (median k.samples)) ∧ (k.ceil ≤ c → (t.yard y).ceil = c ∧ c ≤ (t.yard y).lvl) ∧
        (k.planned ≠ (planOffset (median k.samples), c) → (t.reg ageStat).getLsbD 1 = true))) ∧
  (∀ (s : State), s.bar0On ageStat = false → exec .recomp s = .next s) ∧
  (∀ (s : State) (w : BitVec 64), (s.bar0On 0x050008 = true → exec (.rasFliptgtWrite w) s = .next { s with ras := { s.ras with
      flipTgt := (w &&& 0x80FFFFFFF0000000) |||
        (if s.ras.flipTgt.getLsbD 62 && !w.getLsbD 62 then BitVec.twoPow 64 62 else 0) } }) ∧
    (s.bar0On 0x050010 = true → exec .rasCeClr s = .next { s with ras := { s.ras with table := [], next := 0 } })) ∧
  (∀ (s : State) (nofix : Bool),
    (s.scrub.busy = true → exec (.scrubGo nofix) s = .next s) ∧
    (s.bar0On 0x050030 = true → s.scrub.busy = false →
      (s.scrubOwner s.scrubBase s.scrubLen = none → ∃ t, exec (.scrubGo nofix) s = .next t ∧ t.scrub.busy = false ∧
        t.scrub.done = true ∧ t.scrub.status = 0x11 ∧ t.evt.pend.getLsbD 257 = true) ∧
      (s.scrubOwner s.scrubBase s.scrubLen = some none → exec (.scrubGo nofix) s =
        .next { s with scrub := { s.scrub with nofix := nofix, busy := true, rig := none } }) ∧
      (∀ g, s.scrubOwner s.scrubBase s.scrubLen = some (some g) → ∃ t m, exec (.scrubGo nofix) s = .next t ∧
        t.scrub = { s.scrub with nofix := nofix, busy := true, rig := some g } ∧
        t.rig g = { s.rig g with cq := (s.rig g).cq ++ [m] } ∧ m.r.op = 4 ∧ m.r.cls = 3 ∧ m.r.u 24 8 = s.scrubBase ∧
        m.r.u 32 8 = s.scrubLen))) ∧
  (∀ (s : State), s.scrubbing = none → (s.scrub.busy = false ∨ s.scrub.rig.isSome = true ∨
      s.scrubWaits s.scrubBase s.scrubLen = true → exec .scrubEnd s = .next s) ∧
    (s.scrub.busy = true → s.scrub.rig = none → s.scrubWaits s.scrubBase s.scrubLen = false →
      (∃ i, i < s.scrubLen / 4096 ∧ s.downAt (s.scrubBase + 4096 * i) = true) → ∃ t, exec .scrubEnd s = .next t ∧ t.mem = s.mem ∧
        t.scrub.busy = false ∧ t.scrub.done = true ∧ t.scrub.status = 0x21 ∧ t.evt.pend.getLsbD 257 = true) ∧
    (s.scrub.busy = true → s.scrub.rig = none → s.scrubWaits s.scrubBase s.scrubLen = false →
      (∀ i, i < s.scrubLen / 4096 → s.downAt (s.scrubBase + 4096 * i) = false) → ∃ t, exec .scrubEnd s = .next t ∧ t.mem = s.mem ∧ t.gran = s.gran ∧
      t.scrub.busy = false ∧ t.scrub.done = true ∧ t.scrub.status = 0 ∧ t.evt.pend.getLsbD 257 = true ∧
      t.scrub.sum.getD 0 0 = BitVec.ofNat 64 (s.scrubLen / 4096) ∧
      (∀ w, s.mark w = .ue → t.mark w = .ue) ∧
      (∀ i, i < s.scrubLen / 64 → let w := s.scrubBase + 64 * i
        s.scrub.nofix = false → s.granAt w = .written → (∃ c o, place w = .tile c o) → ∀ pos, t.mark w ≠ .ce pos))) ∧
  (∀ (s : State) (k : SliceId) (way : Fin 16), let f := tget 0 s.llc.failing k.val
    let out := f.getLsbD way || (tget 0 s.llc.retired k.val).getLsbD way
    (out = true → exec (.llcWayRetire k way) s = .next s) ∧
    (out = false → s.failures.length < 1024 → ∃ t, exec (.llcWayRetire k way) s = .next t ∧
      tget 0 t.llc.failing k.val = f ||| BitVec.twoPow 16 way.val ∧ (4, 17 * k.val + if tget none s.llc.spareFor k.val = some way.val then 16 else way.val) ∈ t.failures ∧
      { t with llc := s.llc, failures := s.failures } = s ∧ t.llc.lines = s.llc.lines))

/-! ### Start-up, security and the crow's nest (19, 20, 21) -/

/-- Power-on begins start-up at step 1 with every volatile part at reset and what is stored kept; a device reset, at step 3 or the step
before it that has not ended. A step that ends well leads to the next: step 3 with the identity pairs, step 5 with failed wires recorded
and those that pass a retest removed, step 6 with at most 16 repairs, step 8 with memory cleared and every yard furled; one that ends
with a cause, or whose rails, slots, fuses, stacks or stays do not allow it, leaves FAILED; with step 9 done the device becomes READY with its cap, floor and key. PERST# and a pause hold start-up; the
link trains from step 2 on (R501 to R517). -/
def Obligations.StartUpReachesReady : Prop :=
  ∀ (s : State), let b := s.boot
    (∀ air, (s.pwr.feedA = true ∨ s.pwr.feedB = true → exec (.powerOn air) s = .next s) ∧
      (s.pwr.feedA = false → s.pwr.feedB = false → ∃ t, exec (.powerOn air) s = .next t ∧ t.boot.ph = 1 ∧ t.boot.step = 1 ∧
        t.pwr.air = air ∧ t.pwr.feedA = true ∧ t.mem = [] ∧ t.rigs = [] ∧ t.strms = [] ∧ t.adm = {} ∧ t.evt = {} ∧
        t.failures = s.failures ∧ t.hostMem = s.hostMem ∧ t.sec = s.sec.stored)) ∧
    (b.ph = 0 → exec .deviceReset s = .next s) ∧
    (b.ph ≠ 0 → ∃ t, exec .deviceReset s = .next t ∧ t.boot.ph = 1 ∧ t.boot.step = (if b.ph = 1 ∧ b.step < 3 then b.step else 3) ∧
      t.boot.perst = false ∧ t.boot.link = false ∧ t.mem = [] ∧ t.rigs = [] ∧ t.strms = [] ∧ t.adm = {} ∧ t.evt = {} ∧
      t.pwr.conv = s.pwr.conv ∧ t.failures = s.failures ∧ t.hostMem = s.hostMem ∧ t.sec = s.sec.stored ∧
      ∀ c, (t.core c).phase = .idle ∧ (t.core c).g = [] ∧ (t.core c).posted = []) ∧
    (∀ e, b.ph ≠ 1 ∨ b.perst = true ∨ (b.paused = true ∧ e.cause ≠ 7) → exec (.startupStepEnd e) s = .next s) ∧
    (∀ e, b.ph = 1 → b.perst = false → b.paused = false → b.stime + e.ms ≤ 0xFFFF → b.nfull + e.full.length ≤ 0xFFFF →
      let now : Boot := { b with stime := b.stime + e.ms, nfull := b.nfull + e.full.length }
      let up := s.railStep b.step e.volts
      let failed (cause : BitVec 8) : State := { s with boot := { now with ph := 6, cause := cause }, pwr := up.1.pwr }
      (e.cause ≠ 0 → exec (.startupStepEnd e) s = .next (failed e.cause)) ∧
      (e.cause = 0 → up.2 = false → exec (.startupStepEnd e) s = .next (failed 3)) ∧
      (e.cause = 0 → b.step = 2 → s.sec.slotOk false = false → s.sec.slotOk true = false →
        exec (.startupStepEnd e) s = .next (failed 1)) ∧
      (e.cause = 0 → b.step = 3 → s.fusesBad = true → exec (.startupStepEnd e) s = .next (failed 2)) ∧
      (e.cause = 0 → up.2 = true → (∀ n ∈ [2, 3, 5, 6, 7, 8], b.step ≠ n) → exec (.startupStepEnd e) s =
        .next { s with boot := { now with step := min 9 (b.step + 1) }, pwr := up.1.pwr }) ∧
      (e.cause = 0 → b.step = 2 → s.sec.slotOk false = true ∨ s.sec.slotOk true = true → ∃ t, exec (.startupStepEnd e) s = .next t ∧
        t.boot = { now with step := 3 } ∧ t.nest.sheet = .running ∧ t.nest.latched = [] ∧ t.sec.run = s.sec.boots) ∧
      (e.cause = 0 → b.step = 3 → s.fusesBad = false → ∃ t, exec (.startupStepEnd e) s = .next t ∧ t.boot = { now with step := 4 } ∧
        (∀ x, majority (s.fuses.map (·.secret)) = some x → t.sec.rsa = ⟨(Config.identityPair 0 x).1, (Config.identityPair 0 x).2⟩ ∧
          t.sec.slh = ⟨(Config.identityPair 1 x).1, (Config.identityPair 1 x).2⟩) ∧
        ∀ ch ∈ s.listedBad 5, ch < 256 → (t.chan ch).lost = true) ∧
      (e.cause = 0 → b.step = 5 → s.failures.length + e.bad.length ≤ 1024 → ∃ t, exec (.startupStepEnd e) s = .next t ∧
        t.boot = { now with step := 6 } ∧ t.mem = s.mem ∧ (∀ i ∈ e.bad, i < 2506752 → (2, i) ∈ t.failures) ∧
        ∀ i ∈ e.passed, i / 544 ∈ e.full → i ∉ s.fusedBad 2 → i ∉ e.bad → (2, i) ∉ t.failures) ∧
      (e.cause = 0 → b.step = 6 → ∃ t, exec (.startupStepEnd e) s = .next t ∧ t.mem = s.mem ∧
        (∀ ch ∈ e.bad, ch < 256 → (t.chan ch).lost = true) ∧
        (∀ x ∈ (s.failures.filter fun x => x.1 = 6).take 16, x ∉ t.failures) ∧
        let stack (h : Nat) : Prop := ∀ c, c < 32 → (t.chan (32 * h + c)).lost = true
        ((∃ h, h < 8 ∧ stack h) → t.boot.ph = 6 ∧ t.boot.cause = 6) ∧
        ((∀ h, h < 8 → ¬ stack h) → t.boot.ph = 1 ∧ t.boot.step = 7)) ∧
      (e.cause = 0 → b.step = 7 → ∃ t, exec (.startupStepEnd e) s = .next t ∧
        (∀ p, p < 6 → (t.port p).present = e.present.getLsbD p) ∧
        let alone (m : Nat) : Prop := ∀ st, st < 4 → m ∈ stayMasts st → t.stayDown st = true
        ((∃ m, m < 4 ∧ alone m) → t.boot = { now with ph := 6, cause := 4 }) ∧
        ((∀ m, m < 4 → ¬ alone m) → t.boot = { now with step := 8 })) ∧
      (e.cause = 0 → b.step = 8 → ∃ t, exec (.startupStepEnd e) s = .next t ∧ t.boot.step = 9 ∧ t.mem = [] ∧ t.gran = [] ∧
        t.errs = [] ∧ t.banks = [] ∧ ∀ y, y < 256 → (t.yard y).lvl = 7 ∧ (t.yard y).held = false)) ∧
    (∀ on, exec (.startupPause on) s = .next (if b.ph = 1 then { s with boot := { b with paused := on } } else s)) ∧
    (b.ph ≠ 1 ∨ b.step ≠ 9 ∨ b.perst = true ∨ b.paused = true → exec .ready s = .next s) ∧
    (b.ph = 1 → b.step = 9 → b.perst = false → b.paused = false → ∃ t, exec .ready s = .next t ∧ t.boot.ph = 5 ∧ t.boot.cause = 0 ∧
      t.boot.force = false ∧ t.boot.fast = decide (b.nfull = 0) ∧ t.boot.gen = b.gen + 1 ∧ t.mem = s.mem ∧
      t.pwr.cap = (if s.pwr.air then 1100 else 3400) ∧ t.pwr.floor = (if s.pwr.air then 1000 else 2400) ∧
      t.llc.key = Config.drawnKey s.free ∧ t.evt.mask.getLsbD 0 = false ∧
      (∀ n, 128 ≤ n → n ≤ 191 → t.evt.mask.getLsbD n = s.evt.mask.getLsbD n)) ∧
    (exec .force s = .next (if s.bar0On 0x000020 then { s with boot := { b with force := true } } else s)) ∧
    (exec .perstRelease s = .next { s with boot := { b with perst := false, stime := 0 } }) ∧
    (∀ cxl, exec (.linkTrainingEnd cxl) s = .next (if b.ph = 0 ∨ (b.ph = 1 ∧ b.step < 2) then s
      else { s with boot := { b with link := true, pcie := !cxl } }))

/-- A lockstep mismatch of a ready device makes the standby take over, with source 5 raised and every running loop-back ended; in
start-up the standby restarts at step 2; with the standby used the device turns off. A watchdog's expiry acts as a mismatch while the
controller runs. A takeover that is done raises what was latched. A watched source wakes a waiting controller and is latched while none
runs (R494, R553, R554). -/
def Obligations.TheSheetControllerFailsOver : Prop :=
  ∀ (s : State), let k := s.nest
    (s.boot.ph = 0 → exec .lockstepTakeover s = .next s) ∧
    (s.boot.ph ≠ 0 → k.standby = false → ∃ t, exec .lockstepTakeover s = .next t ∧ t.boot.ph = 0 ∧ t.pwr.off = true ∧
      t.nest.sheet = .dead) ∧
    (s.boot.ph = 1 → k.standby = true → exec .lockstepTakeover s = .next { s with
      boot := { s.boot with step := min 2 s.boot.step, paused := false }
      nest := { k with sheet := .notStarted, standby := false } }) ∧
    (s.boot.ph ≠ 0 → s.boot.ph ≠ 1 → k.standby = true → ∃ t, exec .lockstepTakeover s = .next t ∧
      t.nest = { k with sheet := .takeover, standby := false } ∧ t.evt.pend.getLsbD 5 = true ∧ t.mem = s.mem ∧ t.cores = s.cores ∧
      ∀ i, (s.loop i).st = 1 ∨ (s.loop i).st = 2 ∨ (s.loop i).st = 3 → (t.loop i).st = 0 ∧ (t.loop i).result = 5) ∧
    (k.sheet = .running → exec .watchdogExpiry s = exec .lockstepTakeover s) ∧
    (k.sheet ≠ .running → exec .watchdogExpiry s = .next s) ∧
    (k.sheet ≠ .takeover → exec .standbyTakeoverDone s = .next s) ∧
    (k.sheet = .takeover → ∃ t, exec .standbyTakeoverDone s = .next t ∧ t.nest = { k with sheet := .running, latched := [] } ∧
      (∀ n ∈ k.latched, listedSource n = true → n < 128 ∨ 192 ≤ n → t.evt.pend.getLsbD n = true) ∧
      { t with nest := k, evt := s.evt } = s) ∧
    (let woken : Sheet := if k.sheet = .waiting then .running else k.sheet
     exec .wakeTimerExpiry s = .next (if k.timer then { s with nest := { k with timer := false, sheet := woken } } else s)) ∧
    (∀ n : SourceId, s.watched n = false → exec (.crowsNestWake n) s = .next s) ∧
    (∀ n : SourceId, s.watched n = true → exec (.crowsNestWake n) s = .next (
      if k.sheet = .waiting then { s with nest := { k with sheet := .running } }
      else if k.sheet = .takeover ∨ k.sheet = .notStarted then { s with nest := { k with latched := k.latched ++ [n.val] } }
      else s))

/-- An SPDM request on a transport that is up is answered and one on another is not; a key exchange opens a session of a number not in
use, unless eight are open; a measurement is signed; only a secured DOE session binds a command session, with its key and a counter of
zero, and the end of a session unbinds it. A staged image leaves its slot empty until it is read; one that is formed and verifies fills
it, and RESULT says what failed else; recovery restarts start-up at step 2. A PLDM request is answered with a sensor's reading and state
or the oldest event (R471, R519 to R533). -/
def Obligations.SecurityServicesAnswer : Prop :=
  (∀ (s : State) (v : Transport), let k := s.sec
    let reply (r : SpdmRsp) : State := { s with sec := { k with rsp := some (viaOf v, r) } }
    let sig := Config.sign 0 k.rsa.priv (leBytes 8 s.free)
    let signed (r : SpdmRsp) : State := { s with sec := { k with rsp := some (viaOf v, r) }, free := s.free + 1 }
    (s.responds v = false → (∀ q, exec (.spdmRequest v q) s = .next s) ∧ ∀ b, exec (.slhsigReq v b) s = .next s) ∧
    (s.responds v = true →
      (8 ≤ k.sess.length → exec (.spdmRequest v .keyExchange) s = .next (reply .limit)) ∧
      (k.sess.length < 8 → ∃ n, (∀ x ∈ k.sess, x.id ≠ n) ∧ exec (.spdmRequest v .keyExchange) s = .next { s with
        sec := { k with sess := k.sess ++ [⟨n, viaOf v⟩], rsp := some (viaOf v, .keyExchange n sig) }, free := s.free + 1 }) ∧
      (exec (.spdmRequest v .challenge) s = .next (signed (.challenge sig))) ∧
      (∀ i, exec (.spdmRequest v (.measurements i)) s =
        .next (if 1 ≤ i ∧ i ≤ 5 then signed (.measurements i (s.measure i) sig) else reply .error)) ∧
      (∀ n, exec (.spdmRequest v (.heartbeat n)) s = .next (reply (if ⟨n, viaOf v⟩ ∈ k.sess then .ack else .error))) ∧
      (exec (.spdmRequest v .other) s = .next (reply .error)) ∧
      (∀ b, exec (.slhsigReq v b) s = .next (reply (if k.signedOn (viaOf v) then .slhsig (Config.sign 1 k.slh.priv b) else .error))))) ∧
  (∀ (s : State) (n : Nat) (key : BitVec 384), let k := s.sec
    (s.responds .doe = false → exec (.bindCmd n key) s = .next s) ∧
    (s.responds .doe = true → ⟨n, 0⟩ ∈ k.sess → exec (.bindCmd n key) s =
      .next { s with sec := { k with bound := some n, key := cmdKey key, ctr := 0, rsp := some (0, .ack) } }) ∧
    (s.responds .doe = true → ⟨n, 0⟩ ∉ k.sess → exec (.bindCmd n key) s = .next { s with sec := { k with rsp := some (0, .error) } }) ∧
    (∀ i, i = .endSession n ∨ i = .spdmHeartbeatTimeout n → exec i s = .next { s with sec := { k with
      sess := k.sess.filter fun x => x.id ≠ n
      bound := if k.bound = some n then none else k.bound, key := if k.bound = some n then 0 else k.key } })) ∧
  (∀ (s : State), let k := s.sec
    let empty (b : Bool) : Sec := if b then { k with slotB := none } else { k with slotA := none }
    (s.bar0On 0x0A0000 = true → k.busy = true → exec .stage s = .next s ∧ exec .recover s = .next s) ∧
    (s.bar0On 0x0A0000 = true → k.busy = false →
      (s.romOnly = false → s.mboxSlot ≠ k.next → s.mboxLen ≤ 4 * 1024 * 1024 → s.mboxAddr % 4096 = 0 →
        exec .stage s = .next { s with sec := { empty s.mboxSlot with busy := true, op := 1 } }) ∧
      (s.romOnly = false → s.mboxSlot = k.next → ∃ t, exec .stage s = .next t ∧ t.sec = { k with result := 5 } ∧
        t.evt.pend.getLsbD 4 = true) ∧
      (s.romOnly = true → s.mboxLen ≤ 4 * 1024 * 1024 → s.mboxAddr % 4096 = 0 →
        exec .recover s = .next { s with sec := { empty false with busy := true, op := 2 } }) ∧
      (s.romOnly = false → ∃ t, exec .recover s = .next t ∧ t.sec = { k with result := 7 } ∧ t.evt.pend.getLsbD 4 = true)) ∧
    (∀ img, k.busy = false → exec (.mailboxOperationEnd img) s = .next s) ∧
    (k.busy = true → ∃ t, exec (.mailboxOperationEnd none) s = .next t ∧ t.sec = { k with busy := false, result := 6 } ∧
      t.evt.pend.getLsbD 4 = true) ∧
    (∀ b, k.busy = true →
      let res : BitVec 8 :=
        if b.length ≠ s.mboxLen ∨ imageFormed b = false then 4
        else if Config.keysMatch b = false ∨ Config.rsaVerifies b = false then 1
        else if Config.slhVerifies b = false then 2
        else if imageSvn b < k.fuse then 3 else 0
      ∃ t, exec (.mailboxOperationEnd (some ⟨b⟩)) s = .next t ∧ t.sec.busy = false ∧ t.sec.result = res ∧
        t.evt.pend.getLsbD 4 = true ∧ t.mem = s.mem ∧
        (res ≠ 0 → t.sec.slotA = k.slotA ∧ t.sec.slotB = k.slotB ∧ t.boot = s.boot) ∧
        (res = 0 → k.op = 2 → t.sec.slotA = some b ∧ t.sec.next = false ∧ t.boot.ph = 1 ∧ t.boot.step = 2) ∧
        (res = 0 → k.op ≠ 2 → t.sec.slot s.mboxSlot = some b ∧ t.sec.next = k.next ∧ t.boot = s.boot))) ∧
  (∀ (s : State), (s.therm.events = [] → exec (.pldmRequest .event) s = .next { s with rsp := some ([], false) }) ∧
    (∀ e es, s.therm.events = e :: es → exec (.pldmRequest .event) s = .next { s with
      rsp := some (leBytes 1 e.1 ++ leBytes 1 e.2, false), therm := { s.therm with events := es } }) ∧
    (∀ i v, (i, v) ∈ [((1 : Fin 9), s.therm.tin), (2, s.therm.tout), (3, s.therm.flow.floor.toNat), (4, s.pwr.sample), (5, s.hottest),
        (6, s.hottestTile), (7, s.pwr.va), (8, s.pwr.vb)] →
      exec (.pldmRequest (.sensor i)) s = .next { s with rsp := some (leBytes 3 v ++ leBytes 1 (tget 0 s.therm.pldm i.val), false) }))

/-! ### Events, loop-backs and registers (21 to 23) -/

/-- A listed source that is raised becomes pending, and a message is due where it is unmasked and routed; a reserved source never is.
Writes of the mask and pending registers set and clear exactly the listed sources of their word. A vector whose source is deliverable
sends one message outside its holdoff, or leaves it in the pending-bit array under a mask; a vector in its holdoff waits. The sheet
controller's messages go to its queue. A read answers its word and changes nothing else (R540 to R551). -/
def Obligations.EventsArePendedMaskedAndSent : Prop :=
  (∀ (s : State) (n : SourceId), let e := s.evt
    (listedSource n = false ∨ e.pend.getLsbD n = true → exec (.eventRaise n) s = .next s) ∧
    (listedSource n = true → n.val < 128 ∨ 192 ≤ n.val ∨ (s.rig (n.val - 128)).cores ≠ 0 → ∃ t, exec (.eventRaise n) s = .next t ∧
      t.evt.pend = e.pend ||| BitVec.twoPow 2048 n.val ∧ t.evt.mask = e.mask ∧ { t with evt := e } = s ∧
      (e.pend.getLsbD n = false → e.mask.getLsbD n = false → (s.route n).getLsbD 15 = true → t.evt.due.getLsbD n = true) ∧
      (e.mask.getLsbD n = true → t.evt.due = e.due ∧ t.evt.sheetDue = e.sheetDue))) ∧
  (∀ (s : State) (i : Fin 32) (w : BitVec 64), s.boot.link = true → s.boot.ph = 5 → let e := s.evt
    let named (n : Nat) : Bool := decide (n / 64 = i.val) && w.getLsbD (n % 64) && listedSource n
    let bound (n : Nat) : Bool := decide (n < 128) || decide (192 ≤ n) || (s.rig (n - 128)).cores != 0 ||
      (s.rig (n - 128)).regions != 0 || (s.rig (n - 128)).ways != 0
    (∃ t, exec (.evtMaskSet i w) s = .next t ∧ (∀ n, n < 2048 → t.evt.mask.getLsbD n = (e.mask.getLsbD n || named n)) ∧
      { t.evt with mask := e.mask } = e ∧ { t with evt := e } = s) ∧
    (∃ t, exec (.evtMaskClr i w) s = .next t ∧ (∀ n, n < 2048 → t.evt.mask.getLsbD n = (e.mask.getLsbD n && !named n)) ∧
      t.evt.pend = e.pend ∧ { t with evt := e } = s) ∧
    (∃ t, exec (.evtPendSet i w) s = .next t ∧
      (∀ n, n < 2048 → t.evt.pend.getLsbD n = (e.pend.getLsbD n || (named n && bound n))) ∧ t.evt.mask = e.mask ∧ { t with evt := e } = s) ∧
    (∃ t, exec (.evtPendClr i w) s = .next t ∧ (∀ n, n < 2048 → t.evt.pend.getLsbD n = (e.pend.getLsbD n && !named n)) ∧
      { t.evt with pend := e.pend } = e ∧ { t with evt := e } = s)) ∧
  (∀ (s : State) (v : VecId) (now : Nat), let e := s.evt
    let at_ := max now e.now
    let seen : State := { s with evt := { e with now := at_ } }
    let sends (i : Instr) : Prop := ∃ t, exec i s = .next t ∧ { t with evt := e } = s ∧ t.dueOf v = [] ∧ t.evt.pend = e.pend ∧
      t.evt.now = at_ ∧ t.inHold v at_ = decide (s.holdOf v ≠ 0) ∧ (t.evt.idle.getLsbD (v.val / 32) = false) ∧
      (e.fnMask = false → e.vecMask.getLsbD v = false → t.evt.sent = e.sent ++ [v.val] ∧ t.evt.pba = e.pba) ∧
      (e.fnMask = true ∨ e.vecMask.getLsbD v = true → t.evt.sent = e.sent ∧ t.evt.pba = e.pba ||| BitVec.twoPow 2048 v.val)
    (s.dueOf v ≠ [] → s.inHold v at_ = true → s.idleOf v = false → exec (.eventMessageSend v now) s = .next seen) ∧
    (s.dueOf v ≠ [] → s.vecDeliverable v = true → s.inHold v at_ = false ∨ s.idleOf v = true → sends (.eventMessageSend v now)) ∧
    (s.inHold v at_ = true → exec (.holdoffExpiry v now) s = .next seen) ∧
    (s.inHold v at_ = false → s.dueOf v = [] →
      exec (.holdoffExpiry v now) s = .next { s with evt := { e with now := at_, until_ := tset 0 e.until_ v.val 0 } }) ∧
    (s.inHold v at_ = false → s.dueOf v ≠ [] → s.vecDeliverable v = true → sends (.holdoffExpiry v now)) ∧
    (s.bar0On 0x063800 = true → e.due = 0 → ∀ w, exec (.evtIdleHintWrite w now) s = .next { s with evt := { e with now := at_, idle := w } }) ∧
    (∀ off, s.bar0On 0x060000 = true → 0x060000 ≤ off → off < 0x070000 → off % 8 = 0 →
      exec (.evtRead off) s = .next { s with rsp := some (leBytes 8 (s.evtRead (off - 0x060000)), false) }) ∧
    (∀ off m, (off = 0x200 + 8 * m ∨ off = 0x300 + 8 * m) → m < 32 → s.evtRead off = bits e.pend.toNat (64 * m + 63) (64 * m)) ∧
    (∀ w m, s.boot.link = false ∨ (s.boot.ph ≠ 5 ∧ s.boot.ph ≠ 6) → exec (.msixMaskWrite w m) s = .next s) ∧
    (∀ m, s.boot.link = true → s.boot.ph = 5 → e.pba = 0 → exec (.msixMaskWrite .fn m) s =
      .next { s with evt := { e with fnMask := m } }) ∧
    (s.boot.link = true → s.boot.ph = 5 → e.pba.getLsbD v = false → ∀ m : Bool,
      let masked : Evt := { e with
        vecMask := if m then e.vecMask ||| BitVec.twoPow 2048 v.val else e.vecMask &&& ~~~(BitVec.twoPow 2048 v.val) }
      exec (.msixMaskWrite (.vec v) m) s = .next { s with evt := masked } ∧
      ∀ addr data, exec (.msixMaskWrite (.entry v addr data) m) s =
        .next { s with evt := { masked with msg := tset 0 e.msg v.val (data ++ addr) } }) ∧
    (s.boot.link = true → s.boot.ph = 5 → e.pba.getLsbD v = true → e.fnMask = false →
      ∃ t, exec (.msixMaskWrite (.vec v) false) s = .next t ∧
      t.evt.sent = e.sent ++ [v.val] ∧ t.evt.pba.getLsbD v = false) ∧
    (let ns := (idxs 2048 fun n => e.sheetDue.getLsbD n).filter s.deliverable
     ∃ t, exec .sheetHoldoffExpiry s = .next t ∧ t.evt.sheetQ = e.sheetQ ++ ns ∧ t.evt.sheetDue = 0 ∧
      t.evt.sheetHold = decide (ns ≠ []) ∧ { t with evt := e } = s))

/-- A loop-back of listed fields whose interface is ready is entered with its counts at zero; one of unlisted fields is refused with
RESULT 4 and one of an interface in use with RESULT 3, unless one runs. It ends after its duration, or a leave, with whether the pattern
locked and the errors counted; a far end that does not answer ends it with RESULT 6. A register write of another size or alignment, or
while registers do not answer, does nothing; one stores its register's fields at the bytes it addresses, and a ring's registers keep
their values while it is enabled. A hash key is staged; a region's setting waits for a re-rig while the region is bound (R10, R11, R213,
R214, R556 to R561). -/
def Obligations.LoopBacksAndRegisterWrites : Prop :=
  (∀ (s : State) (i : IfaceId) (w : BitVec 64), let l := s.loop i
    let x : BitVec 64 := w &&& loopFields
    let idle : Prop := l.st ≠ 1 ∧ l.st ≠ 2 ∧ l.st ≠ 3
    s.bar0On (loopOff i) = true →
    (w.getLsbD 0 = true → ¬ idle → exec (.loopEnter i w) s = .next s) ∧
    (w.getLsbD 0 = true → idle → loopListed i x = false →
      exec (.loopEnter i w) s = .next (s.setLoop i { l with ctl := x &&& (~~~1 : BitVec 64), st := 4, result := 4 })) ∧
    (w.getLsbD 0 = true → idle → loopListed i x = true → s.loopReady i x = false →
      exec (.loopEnter i w) s = .next (s.setLoop i { l with ctl := x &&& (~~~1 : BitVec 64), st := 4, result := 3 })) ∧
    (w.getLsbD 0 = true → idle → loopListed i x = true → s.loopReady i x = true → ∃ t, exec (.loopEnter i w) s = .next t ∧
      t.loop i = { ctl := x ||| 1, st := 2 } ∧ (s.ras.flipTgt.getLsbD 63 = false → s.llc.setW = [] → t.mem = s.mem) ∧ t.rigs = s.rigs ∧ (i.val = 0 → t.boot.link = false) ∧
      (1 ≤ i.val → i.val < 7 → loopDepth x ≠ 5 → (t.port (i.val - 1)).st = 5)) ∧
    (exec (.loopLeave i) s = .next (if l.st = 1 ∨ l.st = 2 then s.setLoop i { l with st := 3 } else s))) ∧
  (∀ (s : State) (i : IfaceId) (errs time : Nat) (locked : Bool), let l := s.loop i
    let ends : Prop := l.st = 3 ∨ (l.st = 2 ∧ loopDur l.ctl ≠ 0)
    let far : Prop := ((i.val = 0 ∧ loopDepth l.ctl = 4) ∨ (1 ≤ i.val ∧ i.val < 7 ∧ 4 ≤ loopDepth l.ctl)) ∧ (l.st = 1 ∨ l.st = 2)
    (¬ ends → exec (.loopDurationExpiry i errs time locked) s = .next s) ∧
    (ends → errs ≤ 0xFFFFFF → time ≤ 0xFFFF → ∃ t, exec (.loopDurationExpiry i errs time locked) s = .next t ∧
      t.loop i = { ctl := l.ctl &&& (~~~1 : BitVec 64), st := 0, result := if locked then (if errs = 0 then 0 else 1) else 2, errs := errs, time := time } ∧
      t.mem = s.mem ∧ (1 ≤ i.val → i.val < 7 → loopDepth l.ctl ≠ 5 → (t.port (i.val - 1)).st =
        (if (s.port (i.val - 1)).pen then 1 else 0))) ∧
    (¬ far → exec (.loopFarEndTimeout i) s = .next s) ∧
    (far → ∃ t, exec (.loopFarEndTimeout i) s = .next t ∧ (t.loop i).st = 0 ∧ (t.loop i).result = 6)) ∧
  (∀ (s : State) (off size : Nat) (val : BitVec 64),
    (size ≠ 4 ∧ size ≠ 8 ∨ off % size ≠ 0 → exec (.registerWrite off size val) s = .next s) ∧
    (s.boot.link = false → exec (.registerWrite off size val) s = .next s)) ∧
  (∀ (s : State) (val : BitVec 64), s.boot.link = true → s.boot.ph = 5 →
    (exec (.registerWrite 0x0C0000 8 val) s = .next (s.setReg 0x0C0000
      ((s.reg 0x0C0000 &&& ~~~(0xFFFF00FF00000003 : BitVec 64)) ||| (val &&& 0xFFFF00FF00000003)))) ∧
    (exec (.registerWrite 0x0C0004 4 val) s = .next (s.setReg 0x0C0000
      ((s.reg 0x0C0000 &&& ~~~(0xFFFF00FF00000000 : BitVec 64)) ||| (val <<< 32 &&& 0xFFFF00FF00000000)))) ∧
    (∀ n : StreamId, exec (.registerWrite (strmOff n 0) 8 val) s = .next (if (s.strm n).en then s else
      s.setReg (strmOff n 0) (val &&& 0xFFFFFFFFFFFFF000 ||| s.reg (strmOff n 0) &&& 0xFFF)))) ∧
  (∀ (s : State) (k : BitVec 64), s.bar0On 0x070000 = true →
    (k ≠ 0 → ∃ t, exec (.llcHashKeyWrite k) s = .next t ∧ t.llc = { s.llc with staged := some k } ∧
      { t with llc := s.llc, free := s.free } = s) ∧
    (∃ t, exec (.llcHashKeyWrite 0) s = .next t ∧ t.llc = { s.llc with staged := some (Config.drawnKey s.free) })) ∧
  (∀ (s : State) (w : BitVec 64), s.bar0On 0x070008 = true → let g := w.toNat % 512
    let m : BitVec 2 := w.extractLsb' 17 2
    (w.getLsbD 16 = false ∨ 384 ≤ g → exec (.llcModeSet w) s = .next (s.setReg 0x070008 (w &&& 0x1001FF))) ∧
    (w.getLsbD 16 = true → g < 384 → (s.rigOfRegion g).isSome = true → ∃ t, exec (.llcModeSet w) s = .next t ∧
      t.llc = { s.llc with rstage := tset none s.llc.rstage g (some m) } ∧ t.mem = s.mem) ∧
    (w.getLsbD 16 = true → g < 384 → s.rigOfRegion g = none → ∃ t, exec (.llcModeSet w) s = .next t ∧
      tget 0 t.llc.rmode g = m ∧ (s.ras.flipTgt.getLsbD 63 = false → s.llc.setW = [] → t.mem = s.mem) ∧ ∀ l, regionOf (1024 * l) = g → t.line l = none))

/-! ### The whole device -/

/-- After power-on the device is in step 1 of start-up with no link: no rig is bound, no
stream enabled, no source pending and every source masked, with the routes of R546; the configuration registers hold the reset values of
their tables. Memory is in canonical form and no command waits, which is the model's own (R501, R546, Tables 12-8, 14-6, 17-13, 17-15,
21-2). -/
def Obligations.ResetState : Prop :=
  State.reset.boot.ph = 1 ∧ State.reset.boot.step = 1 ∧ State.reset.boot.link = false ∧ State.reset.evt.pend = 0 ∧
  State.reset.evt.mask = BitVec.allOnes 2048 ∧ (∀ n, 512 ≤ n → n < 768 → State.reset.route n = BitVec.ofNat 16 (0x8000 + (n - 512))) ∧
  (∀ n, 1024 ≤ n → n < 2048 → State.reset.route n = 0x4000) ∧
  (∀ r, (State.reset.rig r).st = 0 ∧ (State.reset.rig r).cores = 0 ∧ (State.reset.rig r).regions = 0) ∧
  (∀ n, (State.reset.strm n).en = false) ∧ (∀ c, (State.reset.core c).phase = .idle ∧ (State.reset.core c).down = false) ∧
  State.reset.reg 0x0C0000 = 0x0064001000000001 ∧ State.reset.tjWarn = 100 ∧ State.reset.tdWarn = 90 ∧ State.reset.frated = 300 ∧
  State.reset.warnPct = 80 ∧ State.reset.hbto = 10 ∧ State.reset.stag = 20 ∧ State.reset.pending = [] ∧ State.reset.memWf = true ∧
  State.reset.boot.legal = true

/-- Every command that is an instance of its row completes in a next state from every state, a core's stalled instruction being one
too, and leaves the queue of waiting commands as it is. -/
def Obligations.EveryCommandCompletesAndKeepsTheQueue : Prop :=
  ∀ (s : State) (i : Instr), i.wf = true → (∀ c j, i = .issueResume c → (s.core c).stall = some j → j.wf = true) →
    ∃ t, exec i s = .next t ∧ t.pending = s.pending

/-- Every step from a state whose device and host memory are in canonical form and whose device is off or in a legal step of start-up,
READY or FAILED leads to another such state. -/
def Obligations.EveryStepKeepsTheInvariant : Prop :=
  ∀ (s t : State), s.memWf = true → s.boot.legal = true → step s = .next t → t.memWf = true ∧ t.boot.legal = true
end

