-- ==== Sys2Proof/Laws/Tab.lean ====
section
/-! SUPPORT. The laws of sparse tables and of byte memory: a read after a write, and that every operation keeps the
canonical form. -/

namespace Sys2Proof.Machine

/-! ### Reading after writing -/

section
variable {α : Type}

theorem tget_tput_self (d : α) (t : Tab α) (i : Nat) (v : α) : tget d (tput i v t) i = v := by
  induction t with
  | nil => simp [tput, tget]
  | cons e t ih =>
    obtain ⟨k, w⟩ := e
    simp only [tput]
    split
    · simp [tget]
    · split
      · simp [tget]
      · rename_i h
        simp [tget, Ne.symm h, ih]

theorem tget_tput_ne (d : α) (t : Tab α) {i j : Nat} (v : α) (h : j ≠ i) : tget d (tput i v t) j = tget d t j := by
  induction t with
  | nil => simp [tput, tget, Ne.symm h]
  | cons e t ih =>
    obtain ⟨k, w⟩ := e
    simp only [tput]
    split
    · simp [tget, Ne.symm h]
    · split
      · subst_vars; simp [tget, Ne.symm h]
      · simp [tget, ih]

theorem tget_tdel_self (d : α) (t : Tab α) (i : Nat) : tget d (tdel i t) i = d := by
  induction t with
  | nil => rfl
  | cons e t ih =>
    obtain ⟨k, w⟩ := e
    simp only [tdel]
    split
    · exact ih
    · rename_i h; simp [tget, h, ih]

theorem tget_tdel_ne (d : α) (t : Tab α) {i j : Nat} (h : j ≠ i) : tget d (tdel i t) j = tget d t j := by
  induction t with
  | nil => rfl
  | cons e t ih =>
    obtain ⟨k, w⟩ := e
    simp only [tdel]
    split
    · subst_vars; simp [tget, Ne.symm h, ih]
    · simp [tget, ih]

variable [DecidableEq α]

/-- Reading the entry just written. -/
@[simp] theorem tget_tset_self (d : α) (t : Tab α) (i : Nat) (v : α) : tget d (tset d t i v) i = v := by
  unfold tset
  split
  · subst_vars; exact tget_tdel_self v t i
  · exact tget_tput_self d t i v

/-- Reading another entry. -/
theorem tget_tset_ne (d : α) (t : Tab α) {i j : Nat} (v : α) (h : j ≠ i) : tget d (tset d t i v) j = tget d t j := by
  unfold tset
  split
  · exact tget_tdel_ne d t h
  · exact tget_tput_ne d t v h

/-! ### The canonical form -/

theorem tabWfFrom_mono {d : α} {n m : Nat} (t : Tab α) (h : m ≤ n) (w : tabWfFrom d n t = true) : tabWfFrom d m t = true := by
  cases t with
  | nil => rfl
  | cons e t =>
    obtain ⟨k, v⟩ := e
    simp only [tabWfFrom, Bool.and_eq_true, decide_eq_true_eq] at w ⊢
    exact ⟨⟨by omega, w.1.2⟩, w.2⟩

theorem tabWfFrom_tdel {d : α} {n : Nat} (t : Tab α) (i : Nat) (w : tabWfFrom d n t = true) :
    tabWfFrom d n (tdel i t) = true := by
  induction t generalizing n with
  | nil => rfl
  | cons e t ih =>
    obtain ⟨k, v⟩ := e
    simp only [tabWfFrom, Bool.and_eq_true, decide_eq_true_eq] at w
    simp only [tdel]
    split
    · exact tabWfFrom_mono _ (by omega) (ih w.2)
    · simp only [tabWfFrom, Bool.and_eq_true, decide_eq_true_eq]
      exact ⟨w.1, ih w.2⟩

theorem tabWfFrom_tput {d : α} {n : Nat} (t : Tab α) (i : Nat) (v : α) (hn : n ≤ i) (hv : v ≠ d)
    (w : tabWfFrom d n t = true) : tabWfFrom d n (tput i v t) = true := by
  induction t generalizing n with
  | nil => simp [tput, tabWfFrom, hn, hv]
  | cons e t ih =>
    obtain ⟨k, u⟩ := e
    simp only [tabWfFrom, Bool.and_eq_true, decide_eq_true_eq] at w
    simp only [tput]
    split
    · simp only [tabWfFrom, Bool.and_eq_true, decide_eq_true_eq]
      exact ⟨⟨hn, hv⟩, ⟨by omega, w.1.2⟩, w.2⟩
    · split
      · subst_vars
        simp only [tabWfFrom, Bool.and_eq_true, decide_eq_true_eq]
        exact ⟨⟨hn, hv⟩, w.2⟩
      · simp only [tabWfFrom, Bool.and_eq_true, decide_eq_true_eq]
        exact ⟨w.1, ih (by omega) w.2⟩

/-- Setting an entry keeps the canonical form. -/
theorem tabWf_tset {d : α} (t : Tab α) (i : Nat) (v : α) (w : tabWf d t = true) : tabWf d (tset d t i v) = true := by
  unfold tset
  split
  · exact tabWfFrom_tdel t i w
  · exact tabWfFrom_tput t i v (Nat.zero_le i) (by assumption) w

theorem tabWfFrom_filter {d : α} {n : Nat} (t : Tab α) (p : Nat × α → Bool) (w : tabWfFrom d n t = true) :
    tabWfFrom d n (t.filter p) = true := by
  induction t generalizing n with
  | nil => rfl
  | cons e t ih =>
    obtain ⟨k, v⟩ := e
    simp only [tabWfFrom, Bool.and_eq_true, decide_eq_true_eq] at w
    simp only [List.filter]
    split
    · simp only [tabWfFrom, Bool.and_eq_true, decide_eq_true_eq]
      exact ⟨w.1, ih w.2⟩
    · exact tabWfFrom_mono _ (by omega) (ih w.2)

/-- Dropping entries keeps the canonical form. -/
theorem tabWf_tclear {d : α} (p : Nat → Bool) (t : Tab α) (w : tabWf d t = true) : tabWf d (tclear p t) = true :=
  tabWfFrom_filter t _ w

end

/-! ### Byte memory -/

@[simp] theorem mget_mset_self (m : Mem) (a : Nat) (b : Byte) : mget (mset m a b) a = b := tget_tset_self 0 m a b

theorem mget_mset_ne (m : Mem) {a x : Nat} (b : Byte) (h : x ≠ a) : mget (mset m a b) x = mget m x :=
  tget_tset_ne 0 m b h

/-- A byte outside the bytes written reads as before. -/
theorem mget_mwrite_out (bs : List Byte) (m : Mem) (a x : Nat) (h : x < a ∨ a + bs.length ≤ x) :
    mget (mwrite m a bs) x = mget m x := by
  induction bs generalizing m a with
  | nil => rfl
  | cons b bs ih =>
    simp only [List.length_cons] at h
    simp only [mwrite]
    rw [ih _ _ (by omega), mget_mset_ne _ _ (by omega)]

/-- A byte written reads as written. -/
theorem mget_mwrite_in (bs : List Byte) (m : Mem) (a i : Nat) (h : i < bs.length) :
    mget (mwrite m a bs) (a + i) = bs[i] := by
  induction bs generalizing m a i with
  | nil => simp at h
  | cons b bs ih =>
    simp only [mwrite]
    cases i with
    | zero => rw [mget_mwrite_out _ _ _ _ (by omega)]; simp
    | succ i =>
      have := ih (mset m a b) (a + 1) i (by simpa using h)
      rw [show a + (i + 1) = a + 1 + i by omega, this]; simp

/-- Writing bytes keeps the canonical form. -/
theorem tabWf_mwrite (bs : List Byte) (m : Mem) (a : Nat) (w : tabWf 0 m = true) : tabWf 0 (mwrite m a bs) = true := by
  induction bs generalizing m a with
  | nil => exact w
  | cons b bs ih => exact ih _ _ (tabWf_tset m a b w)

@[simp] theorem mread_length (m : Mem) (a n : Nat) : (mread m a n).length = n := by
  induction n generalizing a with
  | zero => rfl
  | succ n ih => simp [mread, ih]

@[simp] theorem leBytes_length (n v : Nat) : (leBytes n v).length = n := by
  induction n generalizing v with
  | zero => rfl
  | succ n ih => simp [leBytes, ih]

/-- Bytes written read back. -/
theorem mread_mwrite (bs : List Byte) (m : Mem) (a : Nat) : mread (mwrite m a bs) a bs.length = bs := by
  induction bs generalizing m a with
  | nil => rfl
  | cons b bs ih =>
    simp only [List.length_cons, mread, mwrite]
    rw [ih, mget_mwrite_out _ _ _ _ (by omega)]; simp

/-! ### Fills and clears -/

section
variable {α : Type} [DecidableEq α]
/-- The canonical form, said of the whole list. -/
theorem tabWfFrom_iff {d : α} {n : Nat} (t : Tab α) : tabWfFrom d n t = true ↔
    t.Pairwise (fun x y => x.1 < y.1) ∧ ∀ e ∈ t, n ≤ e.1 ∧ e.2 ≠ d := by
  induction t generalizing n with
  | nil => simp [tabWfFrom]
  | cons e t ih =>
    simp only [tabWfFrom, Bool.and_eq_true, decide_eq_true_eq, ih, List.pairwise_cons, List.mem_cons, forall_eq_or_imp]
    constructor
    · rintro ⟨⟨h1, h2⟩, h3, h4⟩
      exact ⟨⟨fun a ha => (h4 a ha).1, h3⟩, ⟨h1, h2⟩, fun a ha => ⟨le_trans (by omega) (h4 a ha).1, (h4 a ha).2⟩⟩
    · rintro ⟨⟨h1, h2⟩, ⟨h3, h4⟩, h5⟩
      exact ⟨⟨h3, h4⟩, h2, fun a ha => ⟨h1 a ha, (h5 a ha).2⟩⟩
end

/-- The entries a fill puts in. -/
theorem fill_pairwise (a n : Nat) (f : Nat → Byte) :
    ((List.range n).filterMap fun i => if f i = 0 then none else some (a + i, f i)).Pairwise (fun x y => x.1 < y.1) := by
  refine List.Pairwise.filterMap (R := (· < ·)) _ ?_ List.pairwise_lt_range
  intro i j hij x hx y hy
  split at hx <;> simp_all
  rw [← hx, ← hy.2]; simp; exact hij

/-- A fill keeps the canonical form. -/
theorem tabWf_fillBytes (m : Mem) (a n : Nat) (f : Nat → Byte) (w : tabWf 0 m = true) : tabWf 0 (fillBytes m a n f) = true := by
  obtain ⟨hp, hm⟩ := (tabWfFrom_iff m).mp w
  refine (tabWfFrom_iff _).mpr ⟨?_, ?_⟩
  · refine List.pairwise_append.mpr ⟨List.pairwise_append.mpr ⟨hp.filter _, fill_pairwise a n f, ?_⟩, hp.filter _, ?_⟩
    · intro x hx y hy
      simp only [List.mem_filter, decide_eq_true_eq] at hx
      obtain ⟨i, -, hi⟩ := List.mem_filterMap.mp hy
      split at hi <;> simp_all
      rw [← hi]; simp; omega
    · intro x hx y hy
      simp only [List.mem_filter, decide_eq_true_eq] at hy
      rcases List.mem_append.mp hx with hx | hx
      · simp only [List.mem_filter, decide_eq_true_eq] at hx
        omega
      · obtain ⟨i, hr, hi⟩ := List.mem_filterMap.mp hx
        rw [List.mem_range] at hr
        split at hi <;> simp_all
        rw [← hi]; simp; omega
  · intro e he
    rcases List.mem_append.mp he with he | he
    · rcases List.mem_append.mp he with he | he
      · exact hm e (List.mem_filter.mp he).1
      · obtain ⟨i, -, hi⟩ := List.mem_filterMap.mp he
        split at hi <;> simp_all
        rw [← hi]; simp_all
    · exact hm e (List.mem_filter.mp he).1

/-- Zeroing bytes keeps the canonical form. -/
theorem tabWf_clearBytes (m : Mem) (a n : Nat) (w : tabWf 0 m = true) : tabWf 0 (clearBytes m a n) = true :=
  tabWf_tclear _ m w

/-- Dropping entries hides them and leaves the others. -/
theorem tget_tclear {α : Type} (d : α) (p : Nat → Bool) (t : Tab α) (i : Nat) : tget d (tclear p t) i = if p i then d else tget d t i := by
  induction t with
  | nil => simp [tclear, tget]
  | cons e t ih =>
    obtain ⟨k, v⟩ := e
    unfold tclear at ih ⊢
    simp only [List.filter]
    by_cases hk : k = i
    · subst hk
      by_cases hp : p k = true <;> simp_all [tget]
    · by_cases hp : p k = true <;> simp_all [tget]

/-- A zeroed byte reads zero, another as before. -/
theorem mget_clearBytes (m : Mem) (a n x : Nat) : mget (clearBytes m a n) x = if a ≤ x ∧ x < a + n then 0 else mget m x := by
  unfold mget clearBytes; rw [tget_tclear]; simp

end Sys2Proof.Machine
end

