-- ==== Sys2Proof/Laws/State.lean ====
section
/-! SUPPORT. What each named update of the state leaves: one lemma per field per update, true by unfolding the update once,
and the reading of an entry after its update. -/

namespace Sys2Proof.Machine

section
variable (s : State)

/-! ### setCore -/

@[simp] theorem State.setCore_mem (c : Nat) (k : Core) : (s.setCore c k).mem = s.mem := rfl
@[simp] theorem State.setCore_gran (c : Nat) (k : Core) : (s.setCore c k).gran = s.gran := rfl
@[simp] theorem State.setCore_errs (c : Nat) (k : Core) : (s.setCore c k).errs = s.errs := rfl
@[simp] theorem State.setCore_hostMem (c : Nat) (k : Core) : (s.setCore c k).hostMem = s.hostMem := rfl
@[simp] theorem State.setCore_llc (c : Nat) (k : Core) : (s.setCore c k).llc = s.llc := rfl
@[simp] theorem State.setCore_tiles (c : Nat) (k : Core) : (s.setCore c k).tiles = s.tiles := rfl
@[simp] theorem State.setCore_banks (c : Nat) (k : Core) : (s.setCore c k).banks = s.banks := rfl
@[simp] theorem State.setCore_hbm (c : Nat) (k : Core) : (s.setCore c k).hbm = s.hbm := rfl
@[simp] theorem State.setCore_yards (c : Nat) (k : Core) : (s.setCore c k).yards = s.yards := rfl
@[simp] theorem State.setCore_rigs (c : Nat) (k : Core) : (s.setCore c k).rigs = s.rigs := rfl
@[simp] theorem State.setCore_strms (c : Nat) (k : Core) : (s.setCore c k).strms = s.strms := rfl
@[simp] theorem State.setCore_adm (c : Nat) (k : Core) : (s.setCore c k).adm = s.adm := rfl
@[simp] theorem State.setCore_casc (c : Nat) (k : Core) : (s.setCore c k).casc = s.casc := rfl
@[simp] theorem State.setCore_pwr (c : Nat) (k : Core) : (s.setCore c k).pwr = s.pwr := rfl
@[simp] theorem State.setCore_therm (c : Nat) (k : Core) : (s.setCore c k).therm = s.therm := rfl
@[simp] theorem State.setCore_net (c : Nat) (k : Core) : (s.setCore c k).net = s.net := rfl
@[simp] theorem State.setCore_evt (c : Nat) (k : Core) : (s.setCore c k).evt = s.evt := rfl
@[simp] theorem State.setCore_ras (c : Nat) (k : Core) : (s.setCore c k).ras = s.ras := rfl
@[simp] theorem State.setCore_scrub (c : Nat) (k : Core) : (s.setCore c k).scrub = s.scrub := rfl
@[simp] theorem State.setCore_hot (c : Nat) (k : Core) : (s.setCore c k).hot = s.hot := rfl
@[simp] theorem State.setCore_failures (c : Nat) (k : Core) : (s.setCore c k).failures = s.failures := rfl
@[simp] theorem State.setCore_fuses (c : Nat) (k : Core) : (s.setCore c k).fuses = s.fuses := rfl
@[simp] theorem State.setCore_parked (c : Nat) (k : Core) : (s.setCore c k).parked = s.parked := rfl
@[simp] theorem State.setCore_boot (c : Nat) (k : Core) : (s.setCore c k).boot = s.boot := rfl
@[simp] theorem State.setCore_sec (c : Nat) (k : Core) : (s.setCore c k).sec = s.sec := rfl
@[simp] theorem State.setCore_loops (c : Nat) (k : Core) : (s.setCore c k).loops = s.loops := rfl
@[simp] theorem State.setCore_nest (c : Nat) (k : Core) : (s.setCore c k).nest = s.nest := rfl
@[simp] theorem State.setCore_energyRig (c : Nat) (k : Core) : (s.setCore c k).energyRig = s.energyRig := rfl
@[simp] theorem State.setCore_energyStrm (c : Nat) (k : Core) : (s.setCore c k).energyStrm = s.energyStrm := rfl
@[simp] theorem State.setCore_rsp (c : Nat) (k : Core) : (s.setCore c k).rsp = s.rsp := rfl
@[simp] theorem State.setCore_hdm (c : Nat) (k : Core) : (s.setCore c k).hdm = s.hdm := rfl
@[simp] theorem State.setCore_ide (c : Nat) (k : Core) : (s.setCore c k).ide = s.ide := rfl
@[simp] theorem State.setCore_bar0 (c : Nat) (k : Core) : (s.setCore c k).bar0 = s.bar0 := rfl
@[simp] theorem State.setCore_free (c : Nat) (k : Core) : (s.setCore c k).free = s.free := rfl
@[simp] theorem State.setCore_pending (c : Nat) (k : Core) : (s.setCore c k).pending = s.pending := rfl

/-! ### setTile -/

@[simp] theorem State.setTile_cores (c : Nat) (k : Tile) : (s.setTile c k).cores = s.cores := rfl
@[simp] theorem State.setTile_mem (c : Nat) (k : Tile) : (s.setTile c k).mem = s.mem := rfl
@[simp] theorem State.setTile_gran (c : Nat) (k : Tile) : (s.setTile c k).gran = s.gran := rfl
@[simp] theorem State.setTile_errs (c : Nat) (k : Tile) : (s.setTile c k).errs = s.errs := rfl
@[simp] theorem State.setTile_hostMem (c : Nat) (k : Tile) : (s.setTile c k).hostMem = s.hostMem := rfl
@[simp] theorem State.setTile_llc (c : Nat) (k : Tile) : (s.setTile c k).llc = s.llc := rfl
@[simp] theorem State.setTile_banks (c : Nat) (k : Tile) : (s.setTile c k).banks = s.banks := rfl
@[simp] theorem State.setTile_hbm (c : Nat) (k : Tile) : (s.setTile c k).hbm = s.hbm := rfl
@[simp] theorem State.setTile_yards (c : Nat) (k : Tile) : (s.setTile c k).yards = s.yards := rfl
@[simp] theorem State.setTile_rigs (c : Nat) (k : Tile) : (s.setTile c k).rigs = s.rigs := rfl
@[simp] theorem State.setTile_strms (c : Nat) (k : Tile) : (s.setTile c k).strms = s.strms := rfl
@[simp] theorem State.setTile_adm (c : Nat) (k : Tile) : (s.setTile c k).adm = s.adm := rfl
@[simp] theorem State.setTile_casc (c : Nat) (k : Tile) : (s.setTile c k).casc = s.casc := rfl
@[simp] theorem State.setTile_pwr (c : Nat) (k : Tile) : (s.setTile c k).pwr = s.pwr := rfl
@[simp] theorem State.setTile_therm (c : Nat) (k : Tile) : (s.setTile c k).therm = s.therm := rfl
@[simp] theorem State.setTile_net (c : Nat) (k : Tile) : (s.setTile c k).net = s.net := rfl
@[simp] theorem State.setTile_evt (c : Nat) (k : Tile) : (s.setTile c k).evt = s.evt := rfl
@[simp] theorem State.setTile_ras (c : Nat) (k : Tile) : (s.setTile c k).ras = s.ras := rfl
@[simp] theorem State.setTile_scrub (c : Nat) (k : Tile) : (s.setTile c k).scrub = s.scrub := rfl
@[simp] theorem State.setTile_hot (c : Nat) (k : Tile) : (s.setTile c k).hot = s.hot := rfl
@[simp] theorem State.setTile_failures (c : Nat) (k : Tile) : (s.setTile c k).failures = s.failures := rfl
@[simp] theorem State.setTile_fuses (c : Nat) (k : Tile) : (s.setTile c k).fuses = s.fuses := rfl
@[simp] theorem State.setTile_parked (c : Nat) (k : Tile) : (s.setTile c k).parked = s.parked := rfl
@[simp] theorem State.setTile_boot (c : Nat) (k : Tile) : (s.setTile c k).boot = s.boot := rfl
@[simp] theorem State.setTile_sec (c : Nat) (k : Tile) : (s.setTile c k).sec = s.sec := rfl
@[simp] theorem State.setTile_loops (c : Nat) (k : Tile) : (s.setTile c k).loops = s.loops := rfl
@[simp] theorem State.setTile_nest (c : Nat) (k : Tile) : (s.setTile c k).nest = s.nest := rfl
@[simp] theorem State.setTile_energyRig (c : Nat) (k : Tile) : (s.setTile c k).energyRig = s.energyRig := rfl
@[simp] theorem State.setTile_energyStrm (c : Nat) (k : Tile) : (s.setTile c k).energyStrm = s.energyStrm := rfl
@[simp] theorem State.setTile_rsp (c : Nat) (k : Tile) : (s.setTile c k).rsp = s.rsp := rfl
@[simp] theorem State.setTile_hdm (c : Nat) (k : Tile) : (s.setTile c k).hdm = s.hdm := rfl
@[simp] theorem State.setTile_ide (c : Nat) (k : Tile) : (s.setTile c k).ide = s.ide := rfl
@[simp] theorem State.setTile_bar0 (c : Nat) (k : Tile) : (s.setTile c k).bar0 = s.bar0 := rfl
@[simp] theorem State.setTile_free (c : Nat) (k : Tile) : (s.setTile c k).free = s.free := rfl
@[simp] theorem State.setTile_pending (c : Nat) (k : Tile) : (s.setTile c k).pending = s.pending := rfl

/-! ### setBank -/

@[simp] theorem State.setBank_cores (c b : Nat) (k : Bank) : (s.setBank c b k).cores = s.cores := rfl
@[simp] theorem State.setBank_mem (c b : Nat) (k : Bank) : (s.setBank c b k).mem = s.mem := rfl
@[simp] theorem State.setBank_gran (c b : Nat) (k : Bank) : (s.setBank c b k).gran = s.gran := rfl
@[simp] theorem State.setBank_errs (c b : Nat) (k : Bank) : (s.setBank c b k).errs = s.errs := rfl
@[simp] theorem State.setBank_hostMem (c b : Nat) (k : Bank) : (s.setBank c b k).hostMem = s.hostMem := rfl
@[simp] theorem State.setBank_llc (c b : Nat) (k : Bank) : (s.setBank c b k).llc = s.llc := rfl
@[simp] theorem State.setBank_tiles (c b : Nat) (k : Bank) : (s.setBank c b k).tiles = s.tiles := rfl
@[simp] theorem State.setBank_hbm (c b : Nat) (k : Bank) : (s.setBank c b k).hbm = s.hbm := rfl
@[simp] theorem State.setBank_yards (c b : Nat) (k : Bank) : (s.setBank c b k).yards = s.yards := rfl
@[simp] theorem State.setBank_rigs (c b : Nat) (k : Bank) : (s.setBank c b k).rigs = s.rigs := rfl
@[simp] theorem State.setBank_strms (c b : Nat) (k : Bank) : (s.setBank c b k).strms = s.strms := rfl
@[simp] theorem State.setBank_adm (c b : Nat) (k : Bank) : (s.setBank c b k).adm = s.adm := rfl
@[simp] theorem State.setBank_casc (c b : Nat) (k : Bank) : (s.setBank c b k).casc = s.casc := rfl
@[simp] theorem State.setBank_pwr (c b : Nat) (k : Bank) : (s.setBank c b k).pwr = s.pwr := rfl
@[simp] theorem State.setBank_therm (c b : Nat) (k : Bank) : (s.setBank c b k).therm = s.therm := rfl
@[simp] theorem State.setBank_net (c b : Nat) (k : Bank) : (s.setBank c b k).net = s.net := rfl
@[simp] theorem State.setBank_evt (c b : Nat) (k : Bank) : (s.setBank c b k).evt = s.evt := rfl
@[simp] theorem State.setBank_ras (c b : Nat) (k : Bank) : (s.setBank c b k).ras = s.ras := rfl
@[simp] theorem State.setBank_scrub (c b : Nat) (k : Bank) : (s.setBank c b k).scrub = s.scrub := rfl
@[simp] theorem State.setBank_hot (c b : Nat) (k : Bank) : (s.setBank c b k).hot = s.hot := rfl
@[simp] theorem State.setBank_failures (c b : Nat) (k : Bank) : (s.setBank c b k).failures = s.failures := rfl
@[simp] theorem State.setBank_fuses (c b : Nat) (k : Bank) : (s.setBank c b k).fuses = s.fuses := rfl
@[simp] theorem State.setBank_parked (c b : Nat) (k : Bank) : (s.setBank c b k).parked = s.parked := rfl
@[simp] theorem State.setBank_boot (c b : Nat) (k : Bank) : (s.setBank c b k).boot = s.boot := rfl
@[simp] theorem State.setBank_sec (c b : Nat) (k : Bank) : (s.setBank c b k).sec = s.sec := rfl
@[simp] theorem State.setBank_loops (c b : Nat) (k : Bank) : (s.setBank c b k).loops = s.loops := rfl
@[simp] theorem State.setBank_nest (c b : Nat) (k : Bank) : (s.setBank c b k).nest = s.nest := rfl
@[simp] theorem State.setBank_energyRig (c b : Nat) (k : Bank) : (s.setBank c b k).energyRig = s.energyRig := rfl
@[simp] theorem State.setBank_energyStrm (c b : Nat) (k : Bank) : (s.setBank c b k).energyStrm = s.energyStrm := rfl
@[simp] theorem State.setBank_rsp (c b : Nat) (k : Bank) : (s.setBank c b k).rsp = s.rsp := rfl
@[simp] theorem State.setBank_hdm (c b : Nat) (k : Bank) : (s.setBank c b k).hdm = s.hdm := rfl
@[simp] theorem State.setBank_ide (c b : Nat) (k : Bank) : (s.setBank c b k).ide = s.ide := rfl
@[simp] theorem State.setBank_bar0 (c b : Nat) (k : Bank) : (s.setBank c b k).bar0 = s.bar0 := rfl
@[simp] theorem State.setBank_free (c b : Nat) (k : Bank) : (s.setBank c b k).free = s.free := rfl
@[simp] theorem State.setBank_pending (c b : Nat) (k : Bank) : (s.setBank c b k).pending = s.pending := rfl

/-! ### setChan -/

@[simp] theorem State.setChan_cores (i : Nat) (k : Hbm) : (s.setChan i k).cores = s.cores := rfl
@[simp] theorem State.setChan_mem (i : Nat) (k : Hbm) : (s.setChan i k).mem = s.mem := rfl
@[simp] theorem State.setChan_gran (i : Nat) (k : Hbm) : (s.setChan i k).gran = s.gran := rfl
@[simp] theorem State.setChan_errs (i : Nat) (k : Hbm) : (s.setChan i k).errs = s.errs := rfl
@[simp] theorem State.setChan_hostMem (i : Nat) (k : Hbm) : (s.setChan i k).hostMem = s.hostMem := rfl
@[simp] theorem State.setChan_llc (i : Nat) (k : Hbm) : (s.setChan i k).llc = s.llc := rfl
@[simp] theorem State.setChan_tiles (i : Nat) (k : Hbm) : (s.setChan i k).tiles = s.tiles := rfl
@[simp] theorem State.setChan_banks (i : Nat) (k : Hbm) : (s.setChan i k).banks = s.banks := rfl
@[simp] theorem State.setChan_yards (i : Nat) (k : Hbm) : (s.setChan i k).yards = s.yards := rfl
@[simp] theorem State.setChan_rigs (i : Nat) (k : Hbm) : (s.setChan i k).rigs = s.rigs := rfl
@[simp] theorem State.setChan_strms (i : Nat) (k : Hbm) : (s.setChan i k).strms = s.strms := rfl
@[simp] theorem State.setChan_adm (i : Nat) (k : Hbm) : (s.setChan i k).adm = s.adm := rfl
@[simp] theorem State.setChan_casc (i : Nat) (k : Hbm) : (s.setChan i k).casc = s.casc := rfl
@[simp] theorem State.setChan_pwr (i : Nat) (k : Hbm) : (s.setChan i k).pwr = s.pwr := rfl
@[simp] theorem State.setChan_therm (i : Nat) (k : Hbm) : (s.setChan i k).therm = s.therm := rfl
@[simp] theorem State.setChan_net (i : Nat) (k : Hbm) : (s.setChan i k).net = s.net := rfl
@[simp] theorem State.setChan_evt (i : Nat) (k : Hbm) : (s.setChan i k).evt = s.evt := rfl
@[simp] theorem State.setChan_ras (i : Nat) (k : Hbm) : (s.setChan i k).ras = s.ras := rfl
@[simp] theorem State.setChan_scrub (i : Nat) (k : Hbm) : (s.setChan i k).scrub = s.scrub := rfl
@[simp] theorem State.setChan_hot (i : Nat) (k : Hbm) : (s.setChan i k).hot = s.hot := rfl
@[simp] theorem State.setChan_failures (i : Nat) (k : Hbm) : (s.setChan i k).failures = s.failures := rfl
@[simp] theorem State.setChan_fuses (i : Nat) (k : Hbm) : (s.setChan i k).fuses = s.fuses := rfl
@[simp] theorem State.setChan_parked (i : Nat) (k : Hbm) : (s.setChan i k).parked = s.parked := rfl
@[simp] theorem State.setChan_boot (i : Nat) (k : Hbm) : (s.setChan i k).boot = s.boot := rfl
@[simp] theorem State.setChan_sec (i : Nat) (k : Hbm) : (s.setChan i k).sec = s.sec := rfl
@[simp] theorem State.setChan_loops (i : Nat) (k : Hbm) : (s.setChan i k).loops = s.loops := rfl
@[simp] theorem State.setChan_nest (i : Nat) (k : Hbm) : (s.setChan i k).nest = s.nest := rfl
@[simp] theorem State.setChan_energyRig (i : Nat) (k : Hbm) : (s.setChan i k).energyRig = s.energyRig := rfl
@[simp] theorem State.setChan_energyStrm (i : Nat) (k : Hbm) : (s.setChan i k).energyStrm = s.energyStrm := rfl
@[simp] theorem State.setChan_rsp (i : Nat) (k : Hbm) : (s.setChan i k).rsp = s.rsp := rfl
@[simp] theorem State.setChan_hdm (i : Nat) (k : Hbm) : (s.setChan i k).hdm = s.hdm := rfl
@[simp] theorem State.setChan_ide (i : Nat) (k : Hbm) : (s.setChan i k).ide = s.ide := rfl
@[simp] theorem State.setChan_bar0 (i : Nat) (k : Hbm) : (s.setChan i k).bar0 = s.bar0 := rfl
@[simp] theorem State.setChan_free (i : Nat) (k : Hbm) : (s.setChan i k).free = s.free := rfl
@[simp] theorem State.setChan_pending (i : Nat) (k : Hbm) : (s.setChan i k).pending = s.pending := rfl

/-! ### setRig -/

@[simp] theorem State.setRig_cores (r : Nat) (k : Rig) : (s.setRig r k).cores = s.cores := rfl
@[simp] theorem State.setRig_mem (r : Nat) (k : Rig) : (s.setRig r k).mem = s.mem := rfl
@[simp] theorem State.setRig_gran (r : Nat) (k : Rig) : (s.setRig r k).gran = s.gran := rfl
@[simp] theorem State.setRig_errs (r : Nat) (k : Rig) : (s.setRig r k).errs = s.errs := rfl
@[simp] theorem State.setRig_hostMem (r : Nat) (k : Rig) : (s.setRig r k).hostMem = s.hostMem := rfl
@[simp] theorem State.setRig_llc (r : Nat) (k : Rig) : (s.setRig r k).llc = s.llc := rfl
@[simp] theorem State.setRig_tiles (r : Nat) (k : Rig) : (s.setRig r k).tiles = s.tiles := rfl
@[simp] theorem State.setRig_banks (r : Nat) (k : Rig) : (s.setRig r k).banks = s.banks := rfl
@[simp] theorem State.setRig_hbm (r : Nat) (k : Rig) : (s.setRig r k).hbm = s.hbm := rfl
@[simp] theorem State.setRig_yards (r : Nat) (k : Rig) : (s.setRig r k).yards = s.yards := rfl
@[simp] theorem State.setRig_strms (r : Nat) (k : Rig) : (s.setRig r k).strms = s.strms := rfl
@[simp] theorem State.setRig_adm (r : Nat) (k : Rig) : (s.setRig r k).adm = s.adm := rfl
@[simp] theorem State.setRig_casc (r : Nat) (k : Rig) : (s.setRig r k).casc = s.casc := rfl
@[simp] theorem State.setRig_pwr (r : Nat) (k : Rig) : (s.setRig r k).pwr = s.pwr := rfl
@[simp] theorem State.setRig_therm (r : Nat) (k : Rig) : (s.setRig r k).therm = s.therm := rfl
@[simp] theorem State.setRig_net (r : Nat) (k : Rig) : (s.setRig r k).net = s.net := rfl
@[simp] theorem State.setRig_evt (r : Nat) (k : Rig) : (s.setRig r k).evt = s.evt := rfl
@[simp] theorem State.setRig_ras (r : Nat) (k : Rig) : (s.setRig r k).ras = s.ras := rfl
@[simp] theorem State.setRig_scrub (r : Nat) (k : Rig) : (s.setRig r k).scrub = s.scrub := rfl
@[simp] theorem State.setRig_hot (r : Nat) (k : Rig) : (s.setRig r k).hot = s.hot := rfl
@[simp] theorem State.setRig_failures (r : Nat) (k : Rig) : (s.setRig r k).failures = s.failures := rfl
@[simp] theorem State.setRig_fuses (r : Nat) (k : Rig) : (s.setRig r k).fuses = s.fuses := rfl
@[simp] theorem State.setRig_parked (r : Nat) (k : Rig) : (s.setRig r k).parked = s.parked := rfl
@[simp] theorem State.setRig_boot (r : Nat) (k : Rig) : (s.setRig r k).boot = s.boot := rfl
@[simp] theorem State.setRig_sec (r : Nat) (k : Rig) : (s.setRig r k).sec = s.sec := rfl
@[simp] theorem State.setRig_loops (r : Nat) (k : Rig) : (s.setRig r k).loops = s.loops := rfl
@[simp] theorem State.setRig_nest (r : Nat) (k : Rig) : (s.setRig r k).nest = s.nest := rfl
@[simp] theorem State.setRig_energyRig (r : Nat) (k : Rig) : (s.setRig r k).energyRig = s.energyRig := rfl
@[simp] theorem State.setRig_energyStrm (r : Nat) (k : Rig) : (s.setRig r k).energyStrm = s.energyStrm := rfl
@[simp] theorem State.setRig_rsp (r : Nat) (k : Rig) : (s.setRig r k).rsp = s.rsp := rfl
@[simp] theorem State.setRig_hdm (r : Nat) (k : Rig) : (s.setRig r k).hdm = s.hdm := rfl
@[simp] theorem State.setRig_ide (r : Nat) (k : Rig) : (s.setRig r k).ide = s.ide := rfl
@[simp] theorem State.setRig_bar0 (r : Nat) (k : Rig) : (s.setRig r k).bar0 = s.bar0 := rfl
@[simp] theorem State.setRig_free (r : Nat) (k : Rig) : (s.setRig r k).free = s.free := rfl
@[simp] theorem State.setRig_pending (r : Nat) (k : Rig) : (s.setRig r k).pending = s.pending := rfl

/-! ### setReg -/

@[simp] theorem State.setReg_cores (o : Nat) (w : BitVec 64) : (s.setReg o w).cores = s.cores := rfl
@[simp] theorem State.setReg_mem (o : Nat) (w : BitVec 64) : (s.setReg o w).mem = s.mem := rfl
@[simp] theorem State.setReg_gran (o : Nat) (w : BitVec 64) : (s.setReg o w).gran = s.gran := rfl
@[simp] theorem State.setReg_errs (o : Nat) (w : BitVec 64) : (s.setReg o w).errs = s.errs := rfl
@[simp] theorem State.setReg_hostMem (o : Nat) (w : BitVec 64) : (s.setReg o w).hostMem = s.hostMem := rfl
@[simp] theorem State.setReg_llc (o : Nat) (w : BitVec 64) : (s.setReg o w).llc = s.llc := rfl
@[simp] theorem State.setReg_tiles (o : Nat) (w : BitVec 64) : (s.setReg o w).tiles = s.tiles := rfl
@[simp] theorem State.setReg_banks (o : Nat) (w : BitVec 64) : (s.setReg o w).banks = s.banks := rfl
@[simp] theorem State.setReg_hbm (o : Nat) (w : BitVec 64) : (s.setReg o w).hbm = s.hbm := rfl
@[simp] theorem State.setReg_yards (o : Nat) (w : BitVec 64) : (s.setReg o w).yards = s.yards := rfl
@[simp] theorem State.setReg_rigs (o : Nat) (w : BitVec 64) : (s.setReg o w).rigs = s.rigs := rfl
@[simp] theorem State.setReg_strms (o : Nat) (w : BitVec 64) : (s.setReg o w).strms = s.strms := rfl
@[simp] theorem State.setReg_adm (o : Nat) (w : BitVec 64) : (s.setReg o w).adm = s.adm := rfl
@[simp] theorem State.setReg_casc (o : Nat) (w : BitVec 64) : (s.setReg o w).casc = s.casc := rfl
@[simp] theorem State.setReg_pwr (o : Nat) (w : BitVec 64) : (s.setReg o w).pwr = s.pwr := rfl
@[simp] theorem State.setReg_therm (o : Nat) (w : BitVec 64) : (s.setReg o w).therm = s.therm := rfl
@[simp] theorem State.setReg_net (o : Nat) (w : BitVec 64) : (s.setReg o w).net = s.net := rfl
@[simp] theorem State.setReg_evt (o : Nat) (w : BitVec 64) : (s.setReg o w).evt = s.evt := rfl
@[simp] theorem State.setReg_ras (o : Nat) (w : BitVec 64) : (s.setReg o w).ras = s.ras := rfl
@[simp] theorem State.setReg_scrub (o : Nat) (w : BitVec 64) : (s.setReg o w).scrub = s.scrub := rfl
@[simp] theorem State.setReg_hot (o : Nat) (w : BitVec 64) : (s.setReg o w).hot = s.hot := rfl
@[simp] theorem State.setReg_failures (o : Nat) (w : BitVec 64) : (s.setReg o w).failures = s.failures := rfl
@[simp] theorem State.setReg_fuses (o : Nat) (w : BitVec 64) : (s.setReg o w).fuses = s.fuses := rfl
@[simp] theorem State.setReg_parked (o : Nat) (w : BitVec 64) : (s.setReg o w).parked = s.parked := rfl
@[simp] theorem State.setReg_boot (o : Nat) (w : BitVec 64) : (s.setReg o w).boot = s.boot := rfl
@[simp] theorem State.setReg_sec (o : Nat) (w : BitVec 64) : (s.setReg o w).sec = s.sec := rfl
@[simp] theorem State.setReg_loops (o : Nat) (w : BitVec 64) : (s.setReg o w).loops = s.loops := rfl
@[simp] theorem State.setReg_nest (o : Nat) (w : BitVec 64) : (s.setReg o w).nest = s.nest := rfl
@[simp] theorem State.setReg_energyRig (o : Nat) (w : BitVec 64) : (s.setReg o w).energyRig = s.energyRig := rfl
@[simp] theorem State.setReg_energyStrm (o : Nat) (w : BitVec 64) : (s.setReg o w).energyStrm = s.energyStrm := rfl
@[simp] theorem State.setReg_rsp (o : Nat) (w : BitVec 64) : (s.setReg o w).rsp = s.rsp := rfl
@[simp] theorem State.setReg_hdm (o : Nat) (w : BitVec 64) : (s.setReg o w).hdm = s.hdm := rfl
@[simp] theorem State.setReg_ide (o : Nat) (w : BitVec 64) : (s.setReg o w).ide = s.ide := rfl
@[simp] theorem State.setReg_free (o : Nat) (w : BitVec 64) : (s.setReg o w).free = s.free := rfl
@[simp] theorem State.setReg_pending (o : Nat) (w : BitVec 64) : (s.setReg o w).pending = s.pending := rfl

/-! ### setYard -/

@[simp] theorem State.setYard_cores (j : Nat) (k : Yard) : (s.setYard j k).cores = s.cores := rfl
@[simp] theorem State.setYard_mem (j : Nat) (k : Yard) : (s.setYard j k).mem = s.mem := rfl
@[simp] theorem State.setYard_gran (j : Nat) (k : Yard) : (s.setYard j k).gran = s.gran := rfl
@[simp] theorem State.setYard_errs (j : Nat) (k : Yard) : (s.setYard j k).errs = s.errs := rfl
@[simp] theorem State.setYard_hostMem (j : Nat) (k : Yard) : (s.setYard j k).hostMem = s.hostMem := rfl
@[simp] theorem State.setYard_llc (j : Nat) (k : Yard) : (s.setYard j k).llc = s.llc := rfl
@[simp] theorem State.setYard_tiles (j : Nat) (k : Yard) : (s.setYard j k).tiles = s.tiles := rfl
@[simp] theorem State.setYard_banks (j : Nat) (k : Yard) : (s.setYard j k).banks = s.banks := rfl
@[simp] theorem State.setYard_hbm (j : Nat) (k : Yard) : (s.setYard j k).hbm = s.hbm := rfl
@[simp] theorem State.setYard_rigs (j : Nat) (k : Yard) : (s.setYard j k).rigs = s.rigs := rfl
@[simp] theorem State.setYard_strms (j : Nat) (k : Yard) : (s.setYard j k).strms = s.strms := rfl
@[simp] theorem State.setYard_adm (j : Nat) (k : Yard) : (s.setYard j k).adm = s.adm := rfl
@[simp] theorem State.setYard_casc (j : Nat) (k : Yard) : (s.setYard j k).casc = s.casc := rfl
@[simp] theorem State.setYard_pwr (j : Nat) (k : Yard) : (s.setYard j k).pwr = s.pwr := rfl
@[simp] theorem State.setYard_therm (j : Nat) (k : Yard) : (s.setYard j k).therm = s.therm := rfl
@[simp] theorem State.setYard_net (j : Nat) (k : Yard) : (s.setYard j k).net = s.net := rfl
@[simp] theorem State.setYard_evt (j : Nat) (k : Yard) : (s.setYard j k).evt = s.evt := rfl
@[simp] theorem State.setYard_ras (j : Nat) (k : Yard) : (s.setYard j k).ras = s.ras := rfl
@[simp] theorem State.setYard_scrub (j : Nat) (k : Yard) : (s.setYard j k).scrub = s.scrub := rfl
@[simp] theorem State.setYard_hot (j : Nat) (k : Yard) : (s.setYard j k).hot = s.hot := rfl
@[simp] theorem State.setYard_failures (j : Nat) (k : Yard) : (s.setYard j k).failures = s.failures := rfl
@[simp] theorem State.setYard_fuses (j : Nat) (k : Yard) : (s.setYard j k).fuses = s.fuses := rfl
@[simp] theorem State.setYard_parked (j : Nat) (k : Yard) : (s.setYard j k).parked = s.parked := rfl
@[simp] theorem State.setYard_boot (j : Nat) (k : Yard) : (s.setYard j k).boot = s.boot := rfl
@[simp] theorem State.setYard_sec (j : Nat) (k : Yard) : (s.setYard j k).sec = s.sec := rfl
@[simp] theorem State.setYard_loops (j : Nat) (k : Yard) : (s.setYard j k).loops = s.loops := rfl
@[simp] theorem State.setYard_nest (j : Nat) (k : Yard) : (s.setYard j k).nest = s.nest := rfl
@[simp] theorem State.setYard_energyRig (j : Nat) (k : Yard) : (s.setYard j k).energyRig = s.energyRig := rfl
@[simp] theorem State.setYard_energyStrm (j : Nat) (k : Yard) : (s.setYard j k).energyStrm = s.energyStrm := rfl
@[simp] theorem State.setYard_rsp (j : Nat) (k : Yard) : (s.setYard j k).rsp = s.rsp := rfl
@[simp] theorem State.setYard_hdm (j : Nat) (k : Yard) : (s.setYard j k).hdm = s.hdm := rfl
@[simp] theorem State.setYard_ide (j : Nat) (k : Yard) : (s.setYard j k).ide = s.ide := rfl
@[simp] theorem State.setYard_bar0 (j : Nat) (k : Yard) : (s.setYard j k).bar0 = s.bar0 := rfl
@[simp] theorem State.setYard_free (j : Nat) (k : Yard) : (s.setYard j k).free = s.free := rfl
@[simp] theorem State.setYard_pending (j : Nat) (k : Yard) : (s.setYard j k).pending = s.pending := rfl

/-! ### setStrm -/

@[simp] theorem State.setStrm_cores (i : Nat) (k : Strm) : (s.setStrm i k).cores = s.cores := rfl
@[simp] theorem State.setStrm_mem (i : Nat) (k : Strm) : (s.setStrm i k).mem = s.mem := rfl
@[simp] theorem State.setStrm_gran (i : Nat) (k : Strm) : (s.setStrm i k).gran = s.gran := rfl
@[simp] theorem State.setStrm_errs (i : Nat) (k : Strm) : (s.setStrm i k).errs = s.errs := rfl
@[simp] theorem State.setStrm_hostMem (i : Nat) (k : Strm) : (s.setStrm i k).hostMem = s.hostMem := rfl
@[simp] theorem State.setStrm_llc (i : Nat) (k : Strm) : (s.setStrm i k).llc = s.llc := rfl
@[simp] theorem State.setStrm_tiles (i : Nat) (k : Strm) : (s.setStrm i k).tiles = s.tiles := rfl
@[simp] theorem State.setStrm_banks (i : Nat) (k : Strm) : (s.setStrm i k).banks = s.banks := rfl
@[simp] theorem State.setStrm_hbm (i : Nat) (k : Strm) : (s.setStrm i k).hbm = s.hbm := rfl
@[simp] theorem State.setStrm_yards (i : Nat) (k : Strm) : (s.setStrm i k).yards = s.yards := rfl
@[simp] theorem State.setStrm_rigs (i : Nat) (k : Strm) : (s.setStrm i k).rigs = s.rigs := rfl
@[simp] theorem State.setStrm_adm (i : Nat) (k : Strm) : (s.setStrm i k).adm = s.adm := rfl
@[simp] theorem State.setStrm_casc (i : Nat) (k : Strm) : (s.setStrm i k).casc = s.casc := rfl
@[simp] theorem State.setStrm_pwr (i : Nat) (k : Strm) : (s.setStrm i k).pwr = s.pwr := rfl
@[simp] theorem State.setStrm_therm (i : Nat) (k : Strm) : (s.setStrm i k).therm = s.therm := rfl
@[simp] theorem State.setStrm_net (i : Nat) (k : Strm) : (s.setStrm i k).net = s.net := rfl
@[simp] theorem State.setStrm_evt (i : Nat) (k : Strm) : (s.setStrm i k).evt = s.evt := rfl
@[simp] theorem State.setStrm_ras (i : Nat) (k : Strm) : (s.setStrm i k).ras = s.ras := rfl
@[simp] theorem State.setStrm_scrub (i : Nat) (k : Strm) : (s.setStrm i k).scrub = s.scrub := rfl
@[simp] theorem State.setStrm_hot (i : Nat) (k : Strm) : (s.setStrm i k).hot = s.hot := rfl
@[simp] theorem State.setStrm_failures (i : Nat) (k : Strm) : (s.setStrm i k).failures = s.failures := rfl
@[simp] theorem State.setStrm_fuses (i : Nat) (k : Strm) : (s.setStrm i k).fuses = s.fuses := rfl
@[simp] theorem State.setStrm_parked (i : Nat) (k : Strm) : (s.setStrm i k).parked = s.parked := rfl
@[simp] theorem State.setStrm_boot (i : Nat) (k : Strm) : (s.setStrm i k).boot = s.boot := rfl
@[simp] theorem State.setStrm_sec (i : Nat) (k : Strm) : (s.setStrm i k).sec = s.sec := rfl
@[simp] theorem State.setStrm_loops (i : Nat) (k : Strm) : (s.setStrm i k).loops = s.loops := rfl
@[simp] theorem State.setStrm_nest (i : Nat) (k : Strm) : (s.setStrm i k).nest = s.nest := rfl
@[simp] theorem State.setStrm_energyRig (i : Nat) (k : Strm) : (s.setStrm i k).energyRig = s.energyRig := rfl
@[simp] theorem State.setStrm_energyStrm (i : Nat) (k : Strm) : (s.setStrm i k).energyStrm = s.energyStrm := rfl
@[simp] theorem State.setStrm_rsp (i : Nat) (k : Strm) : (s.setStrm i k).rsp = s.rsp := rfl
@[simp] theorem State.setStrm_hdm (i : Nat) (k : Strm) : (s.setStrm i k).hdm = s.hdm := rfl
@[simp] theorem State.setStrm_ide (i : Nat) (k : Strm) : (s.setStrm i k).ide = s.ide := rfl
@[simp] theorem State.setStrm_bar0 (i : Nat) (k : Strm) : (s.setStrm i k).bar0 = s.bar0 := rfl
@[simp] theorem State.setStrm_free (i : Nat) (k : Strm) : (s.setStrm i k).free = s.free := rfl
@[simp] theorem State.setStrm_pending (i : Nat) (k : Strm) : (s.setStrm i k).pending = s.pending := rfl

/-! ### setPort -/

@[simp] theorem State.setPort_cores (p : Nat) (k : Port) : (s.setPort p k).cores = s.cores := rfl
@[simp] theorem State.setPort_mem (p : Nat) (k : Port) : (s.setPort p k).mem = s.mem := rfl
@[simp] theorem State.setPort_gran (p : Nat) (k : Port) : (s.setPort p k).gran = s.gran := rfl
@[simp] theorem State.setPort_errs (p : Nat) (k : Port) : (s.setPort p k).errs = s.errs := rfl
@[simp] theorem State.setPort_hostMem (p : Nat) (k : Port) : (s.setPort p k).hostMem = s.hostMem := rfl
@[simp] theorem State.setPort_llc (p : Nat) (k : Port) : (s.setPort p k).llc = s.llc := rfl
@[simp] theorem State.setPort_tiles (p : Nat) (k : Port) : (s.setPort p k).tiles = s.tiles := rfl
@[simp] theorem State.setPort_banks (p : Nat) (k : Port) : (s.setPort p k).banks = s.banks := rfl
@[simp] theorem State.setPort_hbm (p : Nat) (k : Port) : (s.setPort p k).hbm = s.hbm := rfl
@[simp] theorem State.setPort_yards (p : Nat) (k : Port) : (s.setPort p k).yards = s.yards := rfl
@[simp] theorem State.setPort_rigs (p : Nat) (k : Port) : (s.setPort p k).rigs = s.rigs := rfl
@[simp] theorem State.setPort_strms (p : Nat) (k : Port) : (s.setPort p k).strms = s.strms := rfl
@[simp] theorem State.setPort_adm (p : Nat) (k : Port) : (s.setPort p k).adm = s.adm := rfl
@[simp] theorem State.setPort_pwr (p : Nat) (k : Port) : (s.setPort p k).pwr = s.pwr := rfl
@[simp] theorem State.setPort_therm (p : Nat) (k : Port) : (s.setPort p k).therm = s.therm := rfl
@[simp] theorem State.setPort_net (p : Nat) (k : Port) : (s.setPort p k).net = s.net := rfl
@[simp] theorem State.setPort_evt (p : Nat) (k : Port) : (s.setPort p k).evt = s.evt := rfl
@[simp] theorem State.setPort_ras (p : Nat) (k : Port) : (s.setPort p k).ras = s.ras := rfl
@[simp] theorem State.setPort_scrub (p : Nat) (k : Port) : (s.setPort p k).scrub = s.scrub := rfl
@[simp] theorem State.setPort_hot (p : Nat) (k : Port) : (s.setPort p k).hot = s.hot := rfl
@[simp] theorem State.setPort_failures (p : Nat) (k : Port) : (s.setPort p k).failures = s.failures := rfl
@[simp] theorem State.setPort_fuses (p : Nat) (k : Port) : (s.setPort p k).fuses = s.fuses := rfl
@[simp] theorem State.setPort_parked (p : Nat) (k : Port) : (s.setPort p k).parked = s.parked := rfl
@[simp] theorem State.setPort_boot (p : Nat) (k : Port) : (s.setPort p k).boot = s.boot := rfl
@[simp] theorem State.setPort_sec (p : Nat) (k : Port) : (s.setPort p k).sec = s.sec := rfl
@[simp] theorem State.setPort_loops (p : Nat) (k : Port) : (s.setPort p k).loops = s.loops := rfl
@[simp] theorem State.setPort_nest (p : Nat) (k : Port) : (s.setPort p k).nest = s.nest := rfl
@[simp] theorem State.setPort_energyRig (p : Nat) (k : Port) : (s.setPort p k).energyRig = s.energyRig := rfl
@[simp] theorem State.setPort_energyStrm (p : Nat) (k : Port) : (s.setPort p k).energyStrm = s.energyStrm := rfl
@[simp] theorem State.setPort_rsp (p : Nat) (k : Port) : (s.setPort p k).rsp = s.rsp := rfl
@[simp] theorem State.setPort_hdm (p : Nat) (k : Port) : (s.setPort p k).hdm = s.hdm := rfl
@[simp] theorem State.setPort_ide (p : Nat) (k : Port) : (s.setPort p k).ide = s.ide := rfl
@[simp] theorem State.setPort_bar0 (p : Nat) (k : Port) : (s.setPort p k).bar0 = s.bar0 := rfl
@[simp] theorem State.setPort_free (p : Nat) (k : Port) : (s.setPort p k).free = s.free := rfl
@[simp] theorem State.setPort_pending (p : Nat) (k : Port) : (s.setPort p k).pending = s.pending := rfl

/-! ### setLoop -/

@[simp] theorem State.setLoop_cores (i : Nat) (k : Loop) : (s.setLoop i k).cores = s.cores := rfl
@[simp] theorem State.setLoop_mem (i : Nat) (k : Loop) : (s.setLoop i k).mem = s.mem := rfl
@[simp] theorem State.setLoop_gran (i : Nat) (k : Loop) : (s.setLoop i k).gran = s.gran := rfl
@[simp] theorem State.setLoop_errs (i : Nat) (k : Loop) : (s.setLoop i k).errs = s.errs := rfl
@[simp] theorem State.setLoop_hostMem (i : Nat) (k : Loop) : (s.setLoop i k).hostMem = s.hostMem := rfl
@[simp] theorem State.setLoop_llc (i : Nat) (k : Loop) : (s.setLoop i k).llc = s.llc := rfl
@[simp] theorem State.setLoop_tiles (i : Nat) (k : Loop) : (s.setLoop i k).tiles = s.tiles := rfl
@[simp] theorem State.setLoop_banks (i : Nat) (k : Loop) : (s.setLoop i k).banks = s.banks := rfl
@[simp] theorem State.setLoop_hbm (i : Nat) (k : Loop) : (s.setLoop i k).hbm = s.hbm := rfl
@[simp] theorem State.setLoop_yards (i : Nat) (k : Loop) : (s.setLoop i k).yards = s.yards := rfl
@[simp] theorem State.setLoop_rigs (i : Nat) (k : Loop) : (s.setLoop i k).rigs = s.rigs := rfl
@[simp] theorem State.setLoop_strms (i : Nat) (k : Loop) : (s.setLoop i k).strms = s.strms := rfl
@[simp] theorem State.setLoop_adm (i : Nat) (k : Loop) : (s.setLoop i k).adm = s.adm := rfl
@[simp] theorem State.setLoop_casc (i : Nat) (k : Loop) : (s.setLoop i k).casc = s.casc := rfl
@[simp] theorem State.setLoop_pwr (i : Nat) (k : Loop) : (s.setLoop i k).pwr = s.pwr := rfl
@[simp] theorem State.setLoop_therm (i : Nat) (k : Loop) : (s.setLoop i k).therm = s.therm := rfl
@[simp] theorem State.setLoop_net (i : Nat) (k : Loop) : (s.setLoop i k).net = s.net := rfl
@[simp] theorem State.setLoop_evt (i : Nat) (k : Loop) : (s.setLoop i k).evt = s.evt := rfl
@[simp] theorem State.setLoop_ras (i : Nat) (k : Loop) : (s.setLoop i k).ras = s.ras := rfl
@[simp] theorem State.setLoop_scrub (i : Nat) (k : Loop) : (s.setLoop i k).scrub = s.scrub := rfl
@[simp] theorem State.setLoop_hot (i : Nat) (k : Loop) : (s.setLoop i k).hot = s.hot := rfl
@[simp] theorem State.setLoop_failures (i : Nat) (k : Loop) : (s.setLoop i k).failures = s.failures := rfl
@[simp] theorem State.setLoop_fuses (i : Nat) (k : Loop) : (s.setLoop i k).fuses = s.fuses := rfl
@[simp] theorem State.setLoop_parked (i : Nat) (k : Loop) : (s.setLoop i k).parked = s.parked := rfl
@[simp] theorem State.setLoop_boot (i : Nat) (k : Loop) : (s.setLoop i k).boot = s.boot := rfl
@[simp] theorem State.setLoop_sec (i : Nat) (k : Loop) : (s.setLoop i k).sec = s.sec := rfl
@[simp] theorem State.setLoop_nest (i : Nat) (k : Loop) : (s.setLoop i k).nest = s.nest := rfl
@[simp] theorem State.setLoop_energyRig (i : Nat) (k : Loop) : (s.setLoop i k).energyRig = s.energyRig := rfl
@[simp] theorem State.setLoop_energyStrm (i : Nat) (k : Loop) : (s.setLoop i k).energyStrm = s.energyStrm := rfl
@[simp] theorem State.setLoop_rsp (i : Nat) (k : Loop) : (s.setLoop i k).rsp = s.rsp := rfl
@[simp] theorem State.setLoop_hdm (i : Nat) (k : Loop) : (s.setLoop i k).hdm = s.hdm := rfl
@[simp] theorem State.setLoop_ide (i : Nat) (k : Loop) : (s.setLoop i k).ide = s.ide := rfl
@[simp] theorem State.setLoop_bar0 (i : Nat) (k : Loop) : (s.setLoop i k).bar0 = s.bar0 := rfl
@[simp] theorem State.setLoop_free (i : Nat) (k : Loop) : (s.setLoop i k).free = s.free := rfl
@[simp] theorem State.setLoop_pending (i : Nat) (k : Loop) : (s.setLoop i k).pending = s.pending := rfl

/-! ### setPath -/

@[simp] theorem State.setPath_cores (i : Nat) (k : Path) : (s.setPath i k).cores = s.cores := rfl
@[simp] theorem State.setPath_mem (i : Nat) (k : Path) : (s.setPath i k).mem = s.mem := rfl
@[simp] theorem State.setPath_gran (i : Nat) (k : Path) : (s.setPath i k).gran = s.gran := rfl
@[simp] theorem State.setPath_errs (i : Nat) (k : Path) : (s.setPath i k).errs = s.errs := rfl
@[simp] theorem State.setPath_hostMem (i : Nat) (k : Path) : (s.setPath i k).hostMem = s.hostMem := rfl
@[simp] theorem State.setPath_llc (i : Nat) (k : Path) : (s.setPath i k).llc = s.llc := rfl
@[simp] theorem State.setPath_tiles (i : Nat) (k : Path) : (s.setPath i k).tiles = s.tiles := rfl
@[simp] theorem State.setPath_banks (i : Nat) (k : Path) : (s.setPath i k).banks = s.banks := rfl
@[simp] theorem State.setPath_hbm (i : Nat) (k : Path) : (s.setPath i k).hbm = s.hbm := rfl
@[simp] theorem State.setPath_yards (i : Nat) (k : Path) : (s.setPath i k).yards = s.yards := rfl
@[simp] theorem State.setPath_rigs (i : Nat) (k : Path) : (s.setPath i k).rigs = s.rigs := rfl
@[simp] theorem State.setPath_strms (i : Nat) (k : Path) : (s.setPath i k).strms = s.strms := rfl
@[simp] theorem State.setPath_adm (i : Nat) (k : Path) : (s.setPath i k).adm = s.adm := rfl
@[simp] theorem State.setPath_casc (i : Nat) (k : Path) : (s.setPath i k).casc = s.casc := rfl
@[simp] theorem State.setPath_therm (i : Nat) (k : Path) : (s.setPath i k).therm = s.therm := rfl
@[simp] theorem State.setPath_net (i : Nat) (k : Path) : (s.setPath i k).net = s.net := rfl
@[simp] theorem State.setPath_evt (i : Nat) (k : Path) : (s.setPath i k).evt = s.evt := rfl
@[simp] theorem State.setPath_ras (i : Nat) (k : Path) : (s.setPath i k).ras = s.ras := rfl
@[simp] theorem State.setPath_scrub (i : Nat) (k : Path) : (s.setPath i k).scrub = s.scrub := rfl
@[simp] theorem State.setPath_hot (i : Nat) (k : Path) : (s.setPath i k).hot = s.hot := rfl
@[simp] theorem State.setPath_failures (i : Nat) (k : Path) : (s.setPath i k).failures = s.failures := rfl
@[simp] theorem State.setPath_fuses (i : Nat) (k : Path) : (s.setPath i k).fuses = s.fuses := rfl
@[simp] theorem State.setPath_parked (i : Nat) (k : Path) : (s.setPath i k).parked = s.parked := rfl
@[simp] theorem State.setPath_boot (i : Nat) (k : Path) : (s.setPath i k).boot = s.boot := rfl
@[simp] theorem State.setPath_sec (i : Nat) (k : Path) : (s.setPath i k).sec = s.sec := rfl
@[simp] theorem State.setPath_loops (i : Nat) (k : Path) : (s.setPath i k).loops = s.loops := rfl
@[simp] theorem State.setPath_nest (i : Nat) (k : Path) : (s.setPath i k).nest = s.nest := rfl
@[simp] theorem State.setPath_energyRig (i : Nat) (k : Path) : (s.setPath i k).energyRig = s.energyRig := rfl
@[simp] theorem State.setPath_energyStrm (i : Nat) (k : Path) : (s.setPath i k).energyStrm = s.energyStrm := rfl
@[simp] theorem State.setPath_rsp (i : Nat) (k : Path) : (s.setPath i k).rsp = s.rsp := rfl
@[simp] theorem State.setPath_hdm (i : Nat) (k : Path) : (s.setPath i k).hdm = s.hdm := rfl
@[simp] theorem State.setPath_ide (i : Nat) (k : Path) : (s.setPath i k).ide = s.ide := rfl
@[simp] theorem State.setPath_bar0 (i : Nat) (k : Path) : (s.setPath i k).bar0 = s.bar0 := rfl
@[simp] theorem State.setPath_free (i : Nat) (k : Path) : (s.setPath i k).free = s.free := rfl
@[simp] theorem State.setPath_pending (i : Nat) (k : Path) : (s.setPath i k).pending = s.pending := rfl

/-! ### setAdm -/

@[simp] theorem State.setAdm_cores (a : Adm) : (s.setAdm a).cores = s.cores := rfl
@[simp] theorem State.setAdm_mem (a : Adm) : (s.setAdm a).mem = s.mem := rfl
@[simp] theorem State.setAdm_gran (a : Adm) : (s.setAdm a).gran = s.gran := rfl
@[simp] theorem State.setAdm_errs (a : Adm) : (s.setAdm a).errs = s.errs := rfl
@[simp] theorem State.setAdm_hostMem (a : Adm) : (s.setAdm a).hostMem = s.hostMem := rfl
@[simp] theorem State.setAdm_llc (a : Adm) : (s.setAdm a).llc = s.llc := rfl
@[simp] theorem State.setAdm_tiles (a : Adm) : (s.setAdm a).tiles = s.tiles := rfl
@[simp] theorem State.setAdm_banks (a : Adm) : (s.setAdm a).banks = s.banks := rfl
@[simp] theorem State.setAdm_hbm (a : Adm) : (s.setAdm a).hbm = s.hbm := rfl
@[simp] theorem State.setAdm_yards (a : Adm) : (s.setAdm a).yards = s.yards := rfl
@[simp] theorem State.setAdm_rigs (a : Adm) : (s.setAdm a).rigs = s.rigs := rfl
@[simp] theorem State.setAdm_strms (a : Adm) : (s.setAdm a).strms = s.strms := rfl
@[simp] theorem State.setAdm_casc (a : Adm) : (s.setAdm a).casc = s.casc := rfl
@[simp] theorem State.setAdm_pwr (a : Adm) : (s.setAdm a).pwr = s.pwr := rfl
@[simp] theorem State.setAdm_therm (a : Adm) : (s.setAdm a).therm = s.therm := rfl
@[simp] theorem State.setAdm_net (a : Adm) : (s.setAdm a).net = s.net := rfl
@[simp] theorem State.setAdm_evt (a : Adm) : (s.setAdm a).evt = s.evt := rfl
@[simp] theorem State.setAdm_ras (a : Adm) : (s.setAdm a).ras = s.ras := rfl
@[simp] theorem State.setAdm_scrub (a : Adm) : (s.setAdm a).scrub = s.scrub := rfl
@[simp] theorem State.setAdm_hot (a : Adm) : (s.setAdm a).hot = s.hot := rfl
@[simp] theorem State.setAdm_failures (a : Adm) : (s.setAdm a).failures = s.failures := rfl
@[simp] theorem State.setAdm_fuses (a : Adm) : (s.setAdm a).fuses = s.fuses := rfl
@[simp] theorem State.setAdm_parked (a : Adm) : (s.setAdm a).parked = s.parked := rfl
@[simp] theorem State.setAdm_boot (a : Adm) : (s.setAdm a).boot = s.boot := rfl
@[simp] theorem State.setAdm_sec (a : Adm) : (s.setAdm a).sec = s.sec := rfl
@[simp] theorem State.setAdm_loops (a : Adm) : (s.setAdm a).loops = s.loops := rfl
@[simp] theorem State.setAdm_nest (a : Adm) : (s.setAdm a).nest = s.nest := rfl
@[simp] theorem State.setAdm_energyRig (a : Adm) : (s.setAdm a).energyRig = s.energyRig := rfl
@[simp] theorem State.setAdm_energyStrm (a : Adm) : (s.setAdm a).energyStrm = s.energyStrm := rfl
@[simp] theorem State.setAdm_rsp (a : Adm) : (s.setAdm a).rsp = s.rsp := rfl
@[simp] theorem State.setAdm_hdm (a : Adm) : (s.setAdm a).hdm = s.hdm := rfl
@[simp] theorem State.setAdm_ide (a : Adm) : (s.setAdm a).ide = s.ide := rfl
@[simp] theorem State.setAdm_bar0 (a : Adm) : (s.setAdm a).bar0 = s.bar0 := rfl
@[simp] theorem State.setAdm_free (a : Adm) : (s.setAdm a).free = s.free := rfl
@[simp] theorem State.setAdm_pending (a : Adm) : (s.setAdm a).pending = s.pending := rfl

/-! ### setMark -/

@[simp] theorem State.setMark_cores (w : Nat) (e : Err) : (s.setMark w e).cores = s.cores := rfl
@[simp] theorem State.setMark_mem (w : Nat) (e : Err) : (s.setMark w e).mem = s.mem := rfl
@[simp] theorem State.setMark_gran (w : Nat) (e : Err) : (s.setMark w e).gran = s.gran := rfl
@[simp] theorem State.setMark_hostMem (w : Nat) (e : Err) : (s.setMark w e).hostMem = s.hostMem := rfl
@[simp] theorem State.setMark_llc (w : Nat) (e : Err) : (s.setMark w e).llc = s.llc := rfl
@[simp] theorem State.setMark_tiles (w : Nat) (e : Err) : (s.setMark w e).tiles = s.tiles := rfl
@[simp] theorem State.setMark_banks (w : Nat) (e : Err) : (s.setMark w e).banks = s.banks := rfl
@[simp] theorem State.setMark_hbm (w : Nat) (e : Err) : (s.setMark w e).hbm = s.hbm := rfl
@[simp] theorem State.setMark_yards (w : Nat) (e : Err) : (s.setMark w e).yards = s.yards := rfl
@[simp] theorem State.setMark_rigs (w : Nat) (e : Err) : (s.setMark w e).rigs = s.rigs := rfl
@[simp] theorem State.setMark_strms (w : Nat) (e : Err) : (s.setMark w e).strms = s.strms := rfl
@[simp] theorem State.setMark_adm (w : Nat) (e : Err) : (s.setMark w e).adm = s.adm := rfl
@[simp] theorem State.setMark_casc (w : Nat) (e : Err) : (s.setMark w e).casc = s.casc := rfl
@[simp] theorem State.setMark_pwr (w : Nat) (e : Err) : (s.setMark w e).pwr = s.pwr := rfl
@[simp] theorem State.setMark_therm (w : Nat) (e : Err) : (s.setMark w e).therm = s.therm := rfl
@[simp] theorem State.setMark_net (w : Nat) (e : Err) : (s.setMark w e).net = s.net := rfl
@[simp] theorem State.setMark_evt (w : Nat) (e : Err) : (s.setMark w e).evt = s.evt := rfl
@[simp] theorem State.setMark_ras (w : Nat) (e : Err) : (s.setMark w e).ras = s.ras := rfl
@[simp] theorem State.setMark_scrub (w : Nat) (e : Err) : (s.setMark w e).scrub = s.scrub := rfl
@[simp] theorem State.setMark_hot (w : Nat) (e : Err) : (s.setMark w e).hot = s.hot := rfl
@[simp] theorem State.setMark_failures (w : Nat) (e : Err) : (s.setMark w e).failures = s.failures := rfl
@[simp] theorem State.setMark_fuses (w : Nat) (e : Err) : (s.setMark w e).fuses = s.fuses := rfl
@[simp] theorem State.setMark_parked (w : Nat) (e : Err) : (s.setMark w e).parked = s.parked := rfl
@[simp] theorem State.setMark_boot (w : Nat) (e : Err) : (s.setMark w e).boot = s.boot := rfl
@[simp] theorem State.setMark_sec (w : Nat) (e : Err) : (s.setMark w e).sec = s.sec := rfl
@[simp] theorem State.setMark_loops (w : Nat) (e : Err) : (s.setMark w e).loops = s.loops := rfl
@[simp] theorem State.setMark_nest (w : Nat) (e : Err) : (s.setMark w e).nest = s.nest := rfl
@[simp] theorem State.setMark_energyRig (w : Nat) (e : Err) : (s.setMark w e).energyRig = s.energyRig := rfl
@[simp] theorem State.setMark_energyStrm (w : Nat) (e : Err) : (s.setMark w e).energyStrm = s.energyStrm := rfl
@[simp] theorem State.setMark_rsp (w : Nat) (e : Err) : (s.setMark w e).rsp = s.rsp := rfl
@[simp] theorem State.setMark_hdm (w : Nat) (e : Err) : (s.setMark w e).hdm = s.hdm := rfl
@[simp] theorem State.setMark_ide (w : Nat) (e : Err) : (s.setMark w e).ide = s.ide := rfl
@[simp] theorem State.setMark_bar0 (w : Nat) (e : Err) : (s.setMark w e).bar0 = s.bar0 := rfl
@[simp] theorem State.setMark_free (w : Nat) (e : Err) : (s.setMark w e).free = s.free := rfl
@[simp] theorem State.setMark_pending (w : Nat) (e : Err) : (s.setMark w e).pending = s.pending := rfl

/-! ### setGran -/

@[simp] theorem State.setGran_cores (a : Nat) (g : Gran) : (s.setGran a g).cores = s.cores := rfl
@[simp] theorem State.setGran_mem (a : Nat) (g : Gran) : (s.setGran a g).mem = s.mem := rfl
@[simp] theorem State.setGran_errs (a : Nat) (g : Gran) : (s.setGran a g).errs = s.errs := rfl
@[simp] theorem State.setGran_hostMem (a : Nat) (g : Gran) : (s.setGran a g).hostMem = s.hostMem := rfl
@[simp] theorem State.setGran_llc (a : Nat) (g : Gran) : (s.setGran a g).llc = s.llc := rfl
@[simp] theorem State.setGran_tiles (a : Nat) (g : Gran) : (s.setGran a g).tiles = s.tiles := rfl
@[simp] theorem State.setGran_banks (a : Nat) (g : Gran) : (s.setGran a g).banks = s.banks := rfl
@[simp] theorem State.setGran_hbm (a : Nat) (g : Gran) : (s.setGran a g).hbm = s.hbm := rfl
@[simp] theorem State.setGran_yards (a : Nat) (g : Gran) : (s.setGran a g).yards = s.yards := rfl
@[simp] theorem State.setGran_rigs (a : Nat) (g : Gran) : (s.setGran a g).rigs = s.rigs := rfl
@[simp] theorem State.setGran_strms (a : Nat) (g : Gran) : (s.setGran a g).strms = s.strms := rfl
@[simp] theorem State.setGran_adm (a : Nat) (g : Gran) : (s.setGran a g).adm = s.adm := rfl
@[simp] theorem State.setGran_casc (a : Nat) (g : Gran) : (s.setGran a g).casc = s.casc := rfl
@[simp] theorem State.setGran_pwr (a : Nat) (g : Gran) : (s.setGran a g).pwr = s.pwr := rfl
@[simp] theorem State.setGran_therm (a : Nat) (g : Gran) : (s.setGran a g).therm = s.therm := rfl
@[simp] theorem State.setGran_net (a : Nat) (g : Gran) : (s.setGran a g).net = s.net := rfl
@[simp] theorem State.setGran_evt (a : Nat) (g : Gran) : (s.setGran a g).evt = s.evt := rfl
@[simp] theorem State.setGran_ras (a : Nat) (g : Gran) : (s.setGran a g).ras = s.ras := rfl
@[simp] theorem State.setGran_scrub (a : Nat) (g : Gran) : (s.setGran a g).scrub = s.scrub := rfl
@[simp] theorem State.setGran_hot (a : Nat) (g : Gran) : (s.setGran a g).hot = s.hot := rfl
@[simp] theorem State.setGran_failures (a : Nat) (g : Gran) : (s.setGran a g).failures = s.failures := rfl
@[simp] theorem State.setGran_fuses (a : Nat) (g : Gran) : (s.setGran a g).fuses = s.fuses := rfl
@[simp] theorem State.setGran_parked (a : Nat) (g : Gran) : (s.setGran a g).parked = s.parked := rfl
@[simp] theorem State.setGran_boot (a : Nat) (g : Gran) : (s.setGran a g).boot = s.boot := rfl
@[simp] theorem State.setGran_sec (a : Nat) (g : Gran) : (s.setGran a g).sec = s.sec := rfl
@[simp] theorem State.setGran_loops (a : Nat) (g : Gran) : (s.setGran a g).loops = s.loops := rfl
@[simp] theorem State.setGran_nest (a : Nat) (g : Gran) : (s.setGran a g).nest = s.nest := rfl
@[simp] theorem State.setGran_energyRig (a : Nat) (g : Gran) : (s.setGran a g).energyRig = s.energyRig := rfl
@[simp] theorem State.setGran_energyStrm (a : Nat) (g : Gran) : (s.setGran a g).energyStrm = s.energyStrm := rfl
@[simp] theorem State.setGran_rsp (a : Nat) (g : Gran) : (s.setGran a g).rsp = s.rsp := rfl
@[simp] theorem State.setGran_hdm (a : Nat) (g : Gran) : (s.setGran a g).hdm = s.hdm := rfl
@[simp] theorem State.setGran_ide (a : Nat) (g : Gran) : (s.setGran a g).ide = s.ide := rfl
@[simp] theorem State.setGran_bar0 (a : Nat) (g : Gran) : (s.setGran a g).bar0 = s.bar0 := rfl
@[simp] theorem State.setGran_free (a : Nat) (g : Gran) : (s.setGran a g).free = s.free := rfl
@[simp] theorem State.setGran_pending (a : Nat) (g : Gran) : (s.setGran a g).pending = s.pending := rfl

/-! ### Reading another part after an update -/

@[simp] theorem State.setCore_tile (c : Nat) (k : Core) (x : Nat) : (s.setCore c k).tile x = s.tile x := rfl
@[simp] theorem State.setCore_bank (c : Nat) (k : Core) (x y : Nat) : (s.setCore c k).bank x y = s.bank x y := rfl
@[simp] theorem State.setCore_chan (c : Nat) (k : Core) (x : Nat) : (s.setCore c k).chan x = s.chan x := rfl
@[simp] theorem State.setCore_rig (c : Nat) (k : Core) (x : Nat) : (s.setCore c k).rig x = s.rig x := rfl
@[simp] theorem State.setCore_reg (c : Nat) (k : Core) (x : Nat) : (s.setCore c k).reg x = s.reg x := rfl
@[simp] theorem State.setCore_yard (c : Nat) (k : Core) (x : Nat) : (s.setCore c k).yard x = s.yard x := rfl
@[simp] theorem State.setCore_strm (c : Nat) (k : Core) (x : Nat) : (s.setCore c k).strm x = s.strm x := rfl
@[simp] theorem State.setCore_port (c : Nat) (k : Core) (x : Nat) : (s.setCore c k).port x = s.port x := rfl
@[simp] theorem State.setCore_loop (c : Nat) (k : Core) (x : Nat) : (s.setCore c k).loop x = s.loop x := rfl
@[simp] theorem State.setCore_path (c : Nat) (k : Core) (x : Nat) : (s.setCore c k).path x = s.path x := rfl
@[simp] theorem State.setCore_mark (c : Nat) (k : Core) (x : Nat) : (s.setCore c k).mark x = s.mark x := rfl
@[simp] theorem State.setCore_granAt (c : Nat) (k : Core) (x : Nat) : (s.setCore c k).granAt x = s.granAt x := rfl
@[simp] theorem State.setTile_core (c : Nat) (k : Tile) (x : Nat) : (s.setTile c k).core x = s.core x := rfl
@[simp] theorem State.setTile_bank (c : Nat) (k : Tile) (x y : Nat) : (s.setTile c k).bank x y = s.bank x y := rfl
@[simp] theorem State.setTile_chan (c : Nat) (k : Tile) (x : Nat) : (s.setTile c k).chan x = s.chan x := rfl
@[simp] theorem State.setTile_rig (c : Nat) (k : Tile) (x : Nat) : (s.setTile c k).rig x = s.rig x := rfl
@[simp] theorem State.setTile_reg (c : Nat) (k : Tile) (x : Nat) : (s.setTile c k).reg x = s.reg x := rfl
@[simp] theorem State.setTile_yard (c : Nat) (k : Tile) (x : Nat) : (s.setTile c k).yard x = s.yard x := rfl
@[simp] theorem State.setTile_strm (c : Nat) (k : Tile) (x : Nat) : (s.setTile c k).strm x = s.strm x := rfl
@[simp] theorem State.setTile_port (c : Nat) (k : Tile) (x : Nat) : (s.setTile c k).port x = s.port x := rfl
@[simp] theorem State.setTile_loop (c : Nat) (k : Tile) (x : Nat) : (s.setTile c k).loop x = s.loop x := rfl
@[simp] theorem State.setTile_path (c : Nat) (k : Tile) (x : Nat) : (s.setTile c k).path x = s.path x := rfl
@[simp] theorem State.setTile_mark (c : Nat) (k : Tile) (x : Nat) : (s.setTile c k).mark x = s.mark x := rfl
@[simp] theorem State.setTile_granAt (c : Nat) (k : Tile) (x : Nat) : (s.setTile c k).granAt x = s.granAt x := rfl
@[simp] theorem State.setBank_core (c b : Nat) (k : Bank) (x : Nat) : (s.setBank c b k).core x = s.core x := rfl
@[simp] theorem State.setBank_tile (c b : Nat) (k : Bank) (x : Nat) : (s.setBank c b k).tile x = s.tile x := rfl
@[simp] theorem State.setBank_chan (c b : Nat) (k : Bank) (x : Nat) : (s.setBank c b k).chan x = s.chan x := rfl
@[simp] theorem State.setBank_rig (c b : Nat) (k : Bank) (x : Nat) : (s.setBank c b k).rig x = s.rig x := rfl
@[simp] theorem State.setBank_reg (c b : Nat) (k : Bank) (x : Nat) : (s.setBank c b k).reg x = s.reg x := rfl
@[simp] theorem State.setBank_yard (c b : Nat) (k : Bank) (x : Nat) : (s.setBank c b k).yard x = s.yard x := rfl
@[simp] theorem State.setBank_strm (c b : Nat) (k : Bank) (x : Nat) : (s.setBank c b k).strm x = s.strm x := rfl
@[simp] theorem State.setBank_port (c b : Nat) (k : Bank) (x : Nat) : (s.setBank c b k).port x = s.port x := rfl
@[simp] theorem State.setBank_loop (c b : Nat) (k : Bank) (x : Nat) : (s.setBank c b k).loop x = s.loop x := rfl
@[simp] theorem State.setBank_path (c b : Nat) (k : Bank) (x : Nat) : (s.setBank c b k).path x = s.path x := rfl
@[simp] theorem State.setBank_mark (c b : Nat) (k : Bank) (x : Nat) : (s.setBank c b k).mark x = s.mark x := rfl
@[simp] theorem State.setBank_granAt (c b : Nat) (k : Bank) (x : Nat) : (s.setBank c b k).granAt x = s.granAt x := rfl
@[simp] theorem State.setChan_core (i : Nat) (k : Hbm) (x : Nat) : (s.setChan i k).core x = s.core x := rfl
@[simp] theorem State.setChan_tile (i : Nat) (k : Hbm) (x : Nat) : (s.setChan i k).tile x = s.tile x := rfl
@[simp] theorem State.setChan_bank (i : Nat) (k : Hbm) (x y : Nat) : (s.setChan i k).bank x y = s.bank x y := rfl
@[simp] theorem State.setChan_rig (i : Nat) (k : Hbm) (x : Nat) : (s.setChan i k).rig x = s.rig x := rfl
@[simp] theorem State.setChan_reg (i : Nat) (k : Hbm) (x : Nat) : (s.setChan i k).reg x = s.reg x := rfl
@[simp] theorem State.setChan_yard (i : Nat) (k : Hbm) (x : Nat) : (s.setChan i k).yard x = s.yard x := rfl
@[simp] theorem State.setChan_strm (i : Nat) (k : Hbm) (x : Nat) : (s.setChan i k).strm x = s.strm x := rfl
@[simp] theorem State.setChan_port (i : Nat) (k : Hbm) (x : Nat) : (s.setChan i k).port x = s.port x := rfl
@[simp] theorem State.setChan_loop (i : Nat) (k : Hbm) (x : Nat) : (s.setChan i k).loop x = s.loop x := rfl
@[simp] theorem State.setChan_path (i : Nat) (k : Hbm) (x : Nat) : (s.setChan i k).path x = s.path x := rfl
@[simp] theorem State.setChan_mark (i : Nat) (k : Hbm) (x : Nat) : (s.setChan i k).mark x = s.mark x := rfl
@[simp] theorem State.setChan_granAt (i : Nat) (k : Hbm) (x : Nat) : (s.setChan i k).granAt x = s.granAt x := rfl
@[simp] theorem State.setRig_core (r : Nat) (k : Rig) (x : Nat) : (s.setRig r k).core x = s.core x := rfl
@[simp] theorem State.setRig_tile (r : Nat) (k : Rig) (x : Nat) : (s.setRig r k).tile x = s.tile x := rfl
@[simp] theorem State.setRig_bank (r : Nat) (k : Rig) (x y : Nat) : (s.setRig r k).bank x y = s.bank x y := rfl
@[simp] theorem State.setRig_chan (r : Nat) (k : Rig) (x : Nat) : (s.setRig r k).chan x = s.chan x := rfl
@[simp] theorem State.setRig_reg (r : Nat) (k : Rig) (x : Nat) : (s.setRig r k).reg x = s.reg x := rfl
@[simp] theorem State.setRig_yard (r : Nat) (k : Rig) (x : Nat) : (s.setRig r k).yard x = s.yard x := rfl
@[simp] theorem State.setRig_strm (r : Nat) (k : Rig) (x : Nat) : (s.setRig r k).strm x = s.strm x := rfl
@[simp] theorem State.setRig_port (r : Nat) (k : Rig) (x : Nat) : (s.setRig r k).port x = s.port x := rfl
@[simp] theorem State.setRig_loop (r : Nat) (k : Rig) (x : Nat) : (s.setRig r k).loop x = s.loop x := rfl
@[simp] theorem State.setRig_path (r : Nat) (k : Rig) (x : Nat) : (s.setRig r k).path x = s.path x := rfl
@[simp] theorem State.setRig_mark (r : Nat) (k : Rig) (x : Nat) : (s.setRig r k).mark x = s.mark x := rfl
@[simp] theorem State.setRig_granAt (r : Nat) (k : Rig) (x : Nat) : (s.setRig r k).granAt x = s.granAt x := rfl
@[simp] theorem State.setReg_core (o : Nat) (w : BitVec 64) (x : Nat) : (s.setReg o w).core x = s.core x := rfl
@[simp] theorem State.setReg_tile (o : Nat) (w : BitVec 64) (x : Nat) : (s.setReg o w).tile x = s.tile x := rfl
@[simp] theorem State.setReg_bank (o : Nat) (w : BitVec 64) (x y : Nat) : (s.setReg o w).bank x y = s.bank x y := rfl
@[simp] theorem State.setReg_chan (o : Nat) (w : BitVec 64) (x : Nat) : (s.setReg o w).chan x = s.chan x := rfl
@[simp] theorem State.setReg_rig (o : Nat) (w : BitVec 64) (x : Nat) : (s.setReg o w).rig x = s.rig x := rfl
@[simp] theorem State.setReg_yard (o : Nat) (w : BitVec 64) (x : Nat) : (s.setReg o w).yard x = s.yard x := rfl
@[simp] theorem State.setReg_strm (o : Nat) (w : BitVec 64) (x : Nat) : (s.setReg o w).strm x = s.strm x := rfl
@[simp] theorem State.setReg_port (o : Nat) (w : BitVec 64) (x : Nat) : (s.setReg o w).port x = s.port x := rfl
@[simp] theorem State.setReg_loop (o : Nat) (w : BitVec 64) (x : Nat) : (s.setReg o w).loop x = s.loop x := rfl
@[simp] theorem State.setReg_path (o : Nat) (w : BitVec 64) (x : Nat) : (s.setReg o w).path x = s.path x := rfl
@[simp] theorem State.setReg_mark (o : Nat) (w : BitVec 64) (x : Nat) : (s.setReg o w).mark x = s.mark x := rfl
@[simp] theorem State.setReg_granAt (o : Nat) (w : BitVec 64) (x : Nat) : (s.setReg o w).granAt x = s.granAt x := rfl
@[simp] theorem State.setYard_core (j : Nat) (k : Yard) (x : Nat) : (s.setYard j k).core x = s.core x := rfl
@[simp] theorem State.setYard_tile (j : Nat) (k : Yard) (x : Nat) : (s.setYard j k).tile x = s.tile x := rfl
@[simp] theorem State.setYard_bank (j : Nat) (k : Yard) (x y : Nat) : (s.setYard j k).bank x y = s.bank x y := rfl
@[simp] theorem State.setYard_chan (j : Nat) (k : Yard) (x : Nat) : (s.setYard j k).chan x = s.chan x := rfl
@[simp] theorem State.setYard_rig (j : Nat) (k : Yard) (x : Nat) : (s.setYard j k).rig x = s.rig x := rfl
@[simp] theorem State.setYard_reg (j : Nat) (k : Yard) (x : Nat) : (s.setYard j k).reg x = s.reg x := rfl
@[simp] theorem State.setYard_strm (j : Nat) (k : Yard) (x : Nat) : (s.setYard j k).strm x = s.strm x := rfl
@[simp] theorem State.setYard_port (j : Nat) (k : Yard) (x : Nat) : (s.setYard j k).port x = s.port x := rfl
@[simp] theorem State.setYard_loop (j : Nat) (k : Yard) (x : Nat) : (s.setYard j k).loop x = s.loop x := rfl
@[simp] theorem State.setYard_path (j : Nat) (k : Yard) (x : Nat) : (s.setYard j k).path x = s.path x := rfl
@[simp] theorem State.setYard_mark (j : Nat) (k : Yard) (x : Nat) : (s.setYard j k).mark x = s.mark x := rfl
@[simp] theorem State.setYard_granAt (j : Nat) (k : Yard) (x : Nat) : (s.setYard j k).granAt x = s.granAt x := rfl
@[simp] theorem State.setStrm_core (i : Nat) (k : Strm) (x : Nat) : (s.setStrm i k).core x = s.core x := rfl
@[simp] theorem State.setStrm_tile (i : Nat) (k : Strm) (x : Nat) : (s.setStrm i k).tile x = s.tile x := rfl
@[simp] theorem State.setStrm_bank (i : Nat) (k : Strm) (x y : Nat) : (s.setStrm i k).bank x y = s.bank x y := rfl
@[simp] theorem State.setStrm_chan (i : Nat) (k : Strm) (x : Nat) : (s.setStrm i k).chan x = s.chan x := rfl
@[simp] theorem State.setStrm_rig (i : Nat) (k : Strm) (x : Nat) : (s.setStrm i k).rig x = s.rig x := rfl
@[simp] theorem State.setStrm_reg (i : Nat) (k : Strm) (x : Nat) : (s.setStrm i k).reg x = s.reg x := rfl
@[simp] theorem State.setStrm_yard (i : Nat) (k : Strm) (x : Nat) : (s.setStrm i k).yard x = s.yard x := rfl
@[simp] theorem State.setStrm_port (i : Nat) (k : Strm) (x : Nat) : (s.setStrm i k).port x = s.port x := rfl
@[simp] theorem State.setStrm_loop (i : Nat) (k : Strm) (x : Nat) : (s.setStrm i k).loop x = s.loop x := rfl
@[simp] theorem State.setStrm_path (i : Nat) (k : Strm) (x : Nat) : (s.setStrm i k).path x = s.path x := rfl
@[simp] theorem State.setStrm_mark (i : Nat) (k : Strm) (x : Nat) : (s.setStrm i k).mark x = s.mark x := rfl
@[simp] theorem State.setStrm_granAt (i : Nat) (k : Strm) (x : Nat) : (s.setStrm i k).granAt x = s.granAt x := rfl
@[simp] theorem State.setPort_core (p : Nat) (k : Port) (x : Nat) : (s.setPort p k).core x = s.core x := rfl
@[simp] theorem State.setPort_tile (p : Nat) (k : Port) (x : Nat) : (s.setPort p k).tile x = s.tile x := rfl
@[simp] theorem State.setPort_bank (p : Nat) (k : Port) (x y : Nat) : (s.setPort p k).bank x y = s.bank x y := rfl
@[simp] theorem State.setPort_chan (p : Nat) (k : Port) (x : Nat) : (s.setPort p k).chan x = s.chan x := rfl
@[simp] theorem State.setPort_rig (p : Nat) (k : Port) (x : Nat) : (s.setPort p k).rig x = s.rig x := rfl
@[simp] theorem State.setPort_reg (p : Nat) (k : Port) (x : Nat) : (s.setPort p k).reg x = s.reg x := rfl
@[simp] theorem State.setPort_yard (p : Nat) (k : Port) (x : Nat) : (s.setPort p k).yard x = s.yard x := rfl
@[simp] theorem State.setPort_strm (p : Nat) (k : Port) (x : Nat) : (s.setPort p k).strm x = s.strm x := rfl
@[simp] theorem State.setPort_loop (p : Nat) (k : Port) (x : Nat) : (s.setPort p k).loop x = s.loop x := rfl
@[simp] theorem State.setPort_path (p : Nat) (k : Port) (x : Nat) : (s.setPort p k).path x = s.path x := rfl
@[simp] theorem State.setPort_mark (p : Nat) (k : Port) (x : Nat) : (s.setPort p k).mark x = s.mark x := rfl
@[simp] theorem State.setPort_granAt (p : Nat) (k : Port) (x : Nat) : (s.setPort p k).granAt x = s.granAt x := rfl
@[simp] theorem State.setLoop_core (i : Nat) (k : Loop) (x : Nat) : (s.setLoop i k).core x = s.core x := rfl
@[simp] theorem State.setLoop_tile (i : Nat) (k : Loop) (x : Nat) : (s.setLoop i k).tile x = s.tile x := rfl
@[simp] theorem State.setLoop_bank (i : Nat) (k : Loop) (x y : Nat) : (s.setLoop i k).bank x y = s.bank x y := rfl
@[simp] theorem State.setLoop_chan (i : Nat) (k : Loop) (x : Nat) : (s.setLoop i k).chan x = s.chan x := rfl
@[simp] theorem State.setLoop_rig (i : Nat) (k : Loop) (x : Nat) : (s.setLoop i k).rig x = s.rig x := rfl
@[simp] theorem State.setLoop_reg (i : Nat) (k : Loop) (x : Nat) : (s.setLoop i k).reg x = s.reg x := rfl
@[simp] theorem State.setLoop_yard (i : Nat) (k : Loop) (x : Nat) : (s.setLoop i k).yard x = s.yard x := rfl
@[simp] theorem State.setLoop_strm (i : Nat) (k : Loop) (x : Nat) : (s.setLoop i k).strm x = s.strm x := rfl
@[simp] theorem State.setLoop_port (i : Nat) (k : Loop) (x : Nat) : (s.setLoop i k).port x = s.port x := rfl
@[simp] theorem State.setLoop_path (i : Nat) (k : Loop) (x : Nat) : (s.setLoop i k).path x = s.path x := rfl
@[simp] theorem State.setLoop_mark (i : Nat) (k : Loop) (x : Nat) : (s.setLoop i k).mark x = s.mark x := rfl
@[simp] theorem State.setLoop_granAt (i : Nat) (k : Loop) (x : Nat) : (s.setLoop i k).granAt x = s.granAt x := rfl
@[simp] theorem State.setPath_core (i : Nat) (k : Path) (x : Nat) : (s.setPath i k).core x = s.core x := rfl
@[simp] theorem State.setPath_tile (i : Nat) (k : Path) (x : Nat) : (s.setPath i k).tile x = s.tile x := rfl
@[simp] theorem State.setPath_bank (i : Nat) (k : Path) (x y : Nat) : (s.setPath i k).bank x y = s.bank x y := rfl
@[simp] theorem State.setPath_chan (i : Nat) (k : Path) (x : Nat) : (s.setPath i k).chan x = s.chan x := rfl
@[simp] theorem State.setPath_rig (i : Nat) (k : Path) (x : Nat) : (s.setPath i k).rig x = s.rig x := rfl
@[simp] theorem State.setPath_reg (i : Nat) (k : Path) (x : Nat) : (s.setPath i k).reg x = s.reg x := rfl
@[simp] theorem State.setPath_yard (i : Nat) (k : Path) (x : Nat) : (s.setPath i k).yard x = s.yard x := rfl
@[simp] theorem State.setPath_strm (i : Nat) (k : Path) (x : Nat) : (s.setPath i k).strm x = s.strm x := rfl
@[simp] theorem State.setPath_port (i : Nat) (k : Path) (x : Nat) : (s.setPath i k).port x = s.port x := rfl
@[simp] theorem State.setPath_loop (i : Nat) (k : Path) (x : Nat) : (s.setPath i k).loop x = s.loop x := rfl
@[simp] theorem State.setPath_mark (i : Nat) (k : Path) (x : Nat) : (s.setPath i k).mark x = s.mark x := rfl
@[simp] theorem State.setPath_granAt (i : Nat) (k : Path) (x : Nat) : (s.setPath i k).granAt x = s.granAt x := rfl
@[simp] theorem State.setAdm_core (a : Adm) (x : Nat) : (s.setAdm a).core x = s.core x := rfl
@[simp] theorem State.setAdm_tile (a : Adm) (x : Nat) : (s.setAdm a).tile x = s.tile x := rfl
@[simp] theorem State.setAdm_bank (a : Adm) (x y : Nat) : (s.setAdm a).bank x y = s.bank x y := rfl
@[simp] theorem State.setAdm_chan (a : Adm) (x : Nat) : (s.setAdm a).chan x = s.chan x := rfl
@[simp] theorem State.setAdm_rig (a : Adm) (x : Nat) : (s.setAdm a).rig x = s.rig x := rfl
@[simp] theorem State.setAdm_reg (a : Adm) (x : Nat) : (s.setAdm a).reg x = s.reg x := rfl
@[simp] theorem State.setAdm_yard (a : Adm) (x : Nat) : (s.setAdm a).yard x = s.yard x := rfl
@[simp] theorem State.setAdm_strm (a : Adm) (x : Nat) : (s.setAdm a).strm x = s.strm x := rfl
@[simp] theorem State.setAdm_port (a : Adm) (x : Nat) : (s.setAdm a).port x = s.port x := rfl
@[simp] theorem State.setAdm_loop (a : Adm) (x : Nat) : (s.setAdm a).loop x = s.loop x := rfl
@[simp] theorem State.setAdm_path (a : Adm) (x : Nat) : (s.setAdm a).path x = s.path x := rfl
@[simp] theorem State.setAdm_mark (a : Adm) (x : Nat) : (s.setAdm a).mark x = s.mark x := rfl
@[simp] theorem State.setAdm_granAt (a : Adm) (x : Nat) : (s.setAdm a).granAt x = s.granAt x := rfl
@[simp] theorem State.setMark_core (w : Nat) (e : Err) (x : Nat) : (s.setMark w e).core x = s.core x := rfl
@[simp] theorem State.setMark_tile (w : Nat) (e : Err) (x : Nat) : (s.setMark w e).tile x = s.tile x := rfl
@[simp] theorem State.setMark_bank (w : Nat) (e : Err) (x y : Nat) : (s.setMark w e).bank x y = s.bank x y := rfl
@[simp] theorem State.setMark_chan (w : Nat) (e : Err) (x : Nat) : (s.setMark w e).chan x = s.chan x := rfl
@[simp] theorem State.setMark_rig (w : Nat) (e : Err) (x : Nat) : (s.setMark w e).rig x = s.rig x := rfl
@[simp] theorem State.setMark_reg (w : Nat) (e : Err) (x : Nat) : (s.setMark w e).reg x = s.reg x := rfl
@[simp] theorem State.setMark_yard (w : Nat) (e : Err) (x : Nat) : (s.setMark w e).yard x = s.yard x := rfl
@[simp] theorem State.setMark_strm (w : Nat) (e : Err) (x : Nat) : (s.setMark w e).strm x = s.strm x := rfl
@[simp] theorem State.setMark_port (w : Nat) (e : Err) (x : Nat) : (s.setMark w e).port x = s.port x := rfl
@[simp] theorem State.setMark_loop (w : Nat) (e : Err) (x : Nat) : (s.setMark w e).loop x = s.loop x := rfl
@[simp] theorem State.setMark_path (w : Nat) (e : Err) (x : Nat) : (s.setMark w e).path x = s.path x := rfl
@[simp] theorem State.setMark_granAt (w : Nat) (e : Err) (x : Nat) : (s.setMark w e).granAt x = s.granAt x := rfl
@[simp] theorem State.setGran_core (a : Nat) (g : Gran) (x : Nat) : (s.setGran a g).core x = s.core x := rfl
@[simp] theorem State.setGran_tile (a : Nat) (g : Gran) (x : Nat) : (s.setGran a g).tile x = s.tile x := rfl
@[simp] theorem State.setGran_bank (a : Nat) (g : Gran) (x y : Nat) : (s.setGran a g).bank x y = s.bank x y := rfl
@[simp] theorem State.setGran_chan (a : Nat) (g : Gran) (x : Nat) : (s.setGran a g).chan x = s.chan x := rfl
@[simp] theorem State.setGran_rig (a : Nat) (g : Gran) (x : Nat) : (s.setGran a g).rig x = s.rig x := rfl
@[simp] theorem State.setGran_reg (a : Nat) (g : Gran) (x : Nat) : (s.setGran a g).reg x = s.reg x := rfl
@[simp] theorem State.setGran_yard (a : Nat) (g : Gran) (x : Nat) : (s.setGran a g).yard x = s.yard x := rfl
@[simp] theorem State.setGran_strm (a : Nat) (g : Gran) (x : Nat) : (s.setGran a g).strm x = s.strm x := rfl
@[simp] theorem State.setGran_port (a : Nat) (g : Gran) (x : Nat) : (s.setGran a g).port x = s.port x := rfl
@[simp] theorem State.setGran_loop (a : Nat) (g : Gran) (x : Nat) : (s.setGran a g).loop x = s.loop x := rfl
@[simp] theorem State.setGran_path (a : Nat) (g : Gran) (x : Nat) : (s.setGran a g).path x = s.path x := rfl
@[simp] theorem State.setGran_mark (a : Nat) (g : Gran) (x : Nat) : (s.setGran a g).mark x = s.mark x := rfl

/-! ### Reading the entry updated -/

@[simp] theorem State.core_setCore_self (n : Nat) (k : Core) : (s.setCore n k).core n = k := tget_tset_self _ _ _ _
theorem State.core_setCore_ne {m n : Nat} (k : Core) (h : m ≠ n) : (s.setCore n k).core m = s.core m := tget_tset_ne _ _ _ h
@[simp] theorem State.tile_setTile_self (n : Nat) (k : Tile) : (s.setTile n k).tile n = k := tget_tset_self _ _ _ _
theorem State.tile_setTile_ne {m n : Nat} (k : Tile) (h : m ≠ n) : (s.setTile n k).tile m = s.tile m := tget_tset_ne _ _ _ h
@[simp] theorem State.chan_setChan_self (n : Nat) (k : Hbm) : (s.setChan n k).chan n = k := tget_tset_self _ _ _ _
theorem State.chan_setChan_ne {m n : Nat} (k : Hbm) (h : m ≠ n) : (s.setChan n k).chan m = s.chan m := tget_tset_ne _ _ _ h
@[simp] theorem State.rig_setRig_self (n : Nat) (k : Rig) : (s.setRig n k).rig n = k := tget_tset_self _ _ _ _
theorem State.rig_setRig_ne {m n : Nat} (k : Rig) (h : m ≠ n) : (s.setRig n k).rig m = s.rig m := tget_tset_ne _ _ _ h
@[simp] theorem State.yard_setYard_self (n : Nat) (k : Yard) : (s.setYard n k).yard n = k := tget_tset_self _ _ _ _
theorem State.yard_setYard_ne {m n : Nat} (k : Yard) (h : m ≠ n) : (s.setYard n k).yard m = s.yard m := tget_tset_ne _ _ _ h
@[simp] theorem State.strm_setStrm_self (n : Nat) (k : Strm) : (s.setStrm n k).strm n = k := tget_tset_self _ _ _ _
theorem State.strm_setStrm_ne {m n : Nat} (k : Strm) (h : m ≠ n) : (s.setStrm n k).strm m = s.strm m := tget_tset_ne _ _ _ h
@[simp] theorem State.loop_setLoop_self (n : Nat) (k : Loop) : (s.setLoop n k).loop n = k := tget_tset_self _ _ _ _
theorem State.loop_setLoop_ne {m n : Nat} (k : Loop) (h : m ≠ n) : (s.setLoop n k).loop m = s.loop m := tget_tset_ne _ _ _ h
@[simp] theorem State.port_setPort_self (n : Nat) (k : Port) : (s.setPort n k).port n = k := tget_tset_self _ _ _ _
theorem State.port_setPort_ne {m n : Nat} (k : Port) (h : m ≠ n) : (s.setPort n k).port m = s.port m := tget_tset_ne _ _ _ h
@[simp] theorem State.path_setPath_self (n : Nat) (k : Path) : (s.setPath n k).path n = k := tget_tset_self _ _ _ _
theorem State.path_setPath_ne {m n : Nat} (k : Path) (h : m ≠ n) : (s.setPath n k).path m = s.path m := tget_tset_ne _ _ _ h
@[simp] theorem State.bank_setBank_self (c b : Nat) (k : Bank) : (s.setBank c b k).bank c b = k := tget_tset_self _ _ _ _
theorem State.bank_setBank_ne {c b x y : Nat} (k : Bank) (h : x * 16 + y ≠ c * 16 + b) : (s.setBank c b k).bank x y = s.bank x y :=
  tget_tset_ne _ _ _ h
@[simp] theorem State.mark_setMark_self (w : Nat) (e : Err) : (s.setMark w e).mark w = e := tget_tset_self _ _ _ _

/-- What holds of the state and is kept by each round of a sweep holds after the sweep. -/
theorem State.each_keeps (P : State → Prop) (f : State → Nat → State) (xs : List Nat) (h : P s)
    (hf : ∀ t n, P t → P (f t n)) : P (s.each xs f) := by
  induction xs generalizing s with
  | nil => exact h
  | cons x xs ih => exact ih (f s x) (hf s x h)

end

end Sys2Proof.Machine
end

