-- ==== Sys2Proof/Laws/Issue.lean ====
section
/-! SUPPORT. Issue on a core: what fetch does to a ready instruction, and what issue then does (R41, R83, R84). -/

namespace Sys2Proof.Machine

/-- A fetch of a ready line only makes it the most recently used. -/
theorem State.fetchLine_ready {s : State} {c a : Nat} (h : s.lineReady c a = true) :
    s.fetchLine c a = .ok (s.setCore c { s.core c with l1i := useLine (a / 256) (s.core c).l1i }) none := by
  simp only [State.lineReady, Bool.and_eq_true, decide_eq_true_eq] at h
  obtain ⟨⟨⟨⟨⟨h1, h2⟩, h3⟩, h4⟩, h5⟩, h6⟩ := h
  have hck : s.l1Check c 6 (a / 256) = s := by
    unfold State.l1Check
    simp [Option.isNone_iff_eq_none.mp h6]
  have h7 : (s.rigOfCore c).isNone = false := by rw [← h4]; simp [h3]
  unfold State.fetchLine
  simp only [hck, h5, h2, h7, h4, show ¬ (2 ^ 48 ≤ a) by omega, ne_eq, not_true_eq_false, decide_false, Bool.or_false,
    Bool.false_eq_true, if_false, if_true]

/-- A line ready stays ready when another line is used. -/
theorem State.lineReady_use {s : State} {c a : Nat} (b : Nat) (h : s.lineReady c a = true) :
    (s.setCore c { s.core c with l1i := useLine (b / 256) (s.core c).l1i }).lineReady c a = true := by
  have hc : ∀ n, (s.setCore c { s.core c with l1i := useLine (b / 256) (s.core c).l1i }).rigOfCore n = s.rigOfCore n :=
    fun _ => rfl
  have hr : ∀ n, (s.setCore c { s.core c with l1i := useLine (b / 256) (s.core c).l1i }).rigOfRegion n = s.rigOfRegion n :=
    fun _ => rfl
  simp only [State.lineReady, Bool.and_eq_true, decide_eq_true_eq, hc, hr, State.core_setCore_self] at h ⊢
  refine ⟨⟨h.1.1, ?_⟩, h.2⟩
  have := h.1.2
  by_cases e : a / 256 = b / 256
  · simp [useLine, e]
  · simpa [useLine, e] using this

/-- Fetch of the first word of a ready instruction. -/
theorem State.fetchLine_first {s : State} {c : Nat} {long : Bool} (h : s.fetchReady c long = true) :
    s.fetchLine c (s.core c).pc.toNat = .ok (s.fetched c false) none := by
  simp only [State.fetchReady, Bool.and_eq_true] at h
  rw [State.fetchLine_ready h.1]; rfl

/-- Fetch of the literal of a ready long instruction. -/
theorem State.fetchLine_literal {s : State} {c : Nat} (h : s.fetchReady c true = true) :
    (s.fetched c false).fetchLine c ((s.core c).pc.toNat + 8) = .ok (s.fetched c true) none := by
  simp only [State.fetchReady, Bool.not_true, Bool.false_or, Bool.and_eq_true] at h
  have h2 := State.lineReady_use ((s.core c).pc.toNat) h.2
  unfold State.fetched
  simp only [Bool.false_eq_true, if_false, if_true, State.fetchLine_ready h2]

/-- The fetch changes nothing of its core but the order of use of its instruction cache. -/
theorem State.fetched_core (s : State) (c : Nat) (long : Bool) :
    { (s.fetched c long).core c with l1i := (s.core c).l1i } = s.core c := by
  unfold State.fetched
  cases long <;> simp

/-- The fetch changes no other core. -/
theorem State.fetched_other (s : State) {c n : Nat} (long : Bool) (h : n ≠ c) : (s.fetched c long).core n = s.core n := by
  unfold State.fetched
  cases long <;> simp [State.core_setCore_ne _ _ h]

/-- The fetch changes nothing but the cores. -/
theorem State.fetched_rest (s : State) (c : Nat) (long : Bool) : { s.fetched c long with cores := s.cores } = s := by
  unfold State.fetched State.setCore
  cases long <;> simp

/-- Issue of a ready instruction: a failed decode check stops the core with cause 0x01, a guard that does not permit
passes it, both with the first word fetched alone, and otherwise the instruction acts, or stalls. -/
theorem State.issue_ready {s : State} {c : Nat} {i : Instr} {long bad : Bool} {g : BitVec 5} {act : State → State × Bool}
    (h : s.canIssue c long = true) :
    s.issue c i long bad g act =
      let v := s.fetched c false
      let u := s.fetched c long
      if bad then v.stopCore c 1 (s.core c).pc.toNat
      else if !(s.core c).guardOk g then v.advance c long
      else if (act u).2 then (act u).1 else (act u).1.stallOn c i := by
  simp only [State.canIssue, Bool.and_eq_true, decide_eq_true_eq, Bool.not_eq_true', Option.isNone_iff_eq_none] at h
  obtain ⟨⟨⟨⟨⟨h1, h2⟩, h6⟩, h3⟩, h4⟩, h5⟩ := h
  unfold State.issue
  simp only [h1, h2, h3, h4, h6, ne_eq, not_true_eq_false, decide_false, Option.isSome_none, Bool.false_and, Bool.or_false,
    Bool.false_eq_true, if_false, State.fetchLine_first h5, State.afterFetch, Bool.not_true]
  cases long with
  | false => simp
  | true => simp [State.fetchLine_literal h5]

/-- A core that is not running, is down, has no clock, waits at a barrier, or is stalled on another instruction issues nothing. -/
theorem State.issue_idle {s : State} {c : Nat} {i : Instr} {long bad : Bool} {g : BitVec 5} {act : State → State × Bool}
    (h : (s.core c).phase ≠ .running ∨ (s.core c).down = true ∨ s.clocked c = false ∨ (s.core c).atBar.isSome = true ∨
      ((s.core c).stall.isSome = true ∧ (s.core c).stall ≠ some i)) : s.issue c i long bad g act = s := by
  unfold State.issue
  rw [if_pos]
  rcases h with h | h | h | h | ⟨h, h'⟩ <;> simp_all

/-- Every well-formed core instruction is carried out by issue, with what `coreForm` says it brings. -/
theorem exec_coreForm {i : Instr} {c : CoreId} {long bad : Bool} {g : BitVec 5} (s : State) (hw : i.wf = true)
    (hf : coreForm i = some (c, long, bad, g)) : ∃ act, exec i s = .next (s.issue c i long bad g act) := by
  cases i <;> simp only [coreForm, fmtEOf, fmtVOf, reduceCtorEq, Option.some.injEq, Prod.mk.injEq] at hf <;>
    obtain ⟨rfl, rfl, rfl, rfl⟩ := hf <;> try exact ⟨_, rfl⟩
  all_goals simp only [Instr.wf, Bool.not_eq_true', decide_eq_true_eq] at hw
  all_goals simp only [exec, execWait, execWaitSignal, execSignal, execSignalEv, execVopLd, execVopSt,
    execVopMov, execVopBcast, execVopAdd, execVopSub, execVopMul, execVopFma, execVopMax, execVopMin, execVopAbs, execVopNeg,
    execVopAnd, execVopOr, execVopXor, execVopShl, execVopShr, execVopCvt, execVopRsum, execVopRmax, execVopPerm, State.vop, hw,
    ne_eq, if_false, Bool.not_true, Bool.false_eq_true, State.issueV]
  all_goals exact ⟨_, rfl⟩

/-! ### What a command of a core leaves -/

/-- The core after the fetch, the order of use apart. -/
theorem State.fetched_core_eq (s : State) (c : Nat) (long : Bool) :
    ∃ l, (s.fetched c long).core c = { s.core c with l1i := l } := by
  unfold State.fetched
  cases long <;> simp

/-- A command that answers the fetched state with its core replaced leaves everything else. -/
theorem State.leaves_core {s : State} {i : Instr} {c : CoreId} {k k' : Core} {long : Bool}
    (he : exec i s = .next ((s.fetched c long).setCore c k')) (hk : { k' with l1i := (s.core c).l1i } = k) : s.leaves i c k := by
  refine ⟨_, he, ?_, ?_, ?_⟩
  · simpa using hk
  · intro n hn
    rw [State.core_setCore_ne _ _ hn, State.fetched_other _ _ hn]
  · have := State.fetched_rest s c long
    simpa [State.setCore] using this

/-- The same when the core is replaced twice. -/
theorem State.leaves_core2 {s : State} {i : Instr} {c : CoreId} {k k1 k2 : Core} {long : Bool}
    (he : exec i s = .next (((s.fetched c long).setCore c k1).setCore c k2)) (hk : { k2 with l1i := (s.core c).l1i } = k) :
    s.leaves i c k := by
  refine ⟨_, he, ?_, ?_, ?_⟩
  · simpa using hk
  · intro n hn
    rw [State.core_setCore_ne _ _ hn, State.core_setCore_ne _ _ hn, State.fetched_other _ _ hn]
  · have := State.fetched_rest s c long
    simpa [State.setCore] using this

/-- A core that can issue runs. -/
theorem State.canIssue_running {s : State} {c : Nat} {long : Bool} (h : s.canIssue c long = true) :
    (s.core c).phase = .running := by
  simp only [State.canIssue, Bool.and_eq_true, decide_eq_true_eq] at h
  exact h.1.1.1.1.1

/-- A command that stops its core at its own address leaves everything else. -/
theorem State.leaves_stop {s : State} {i : Instr} {c : CoreId} {long f : Bool} {cause : Nat} (h : s.canIssue c long = true)
    (he : exec i s = .next ((s.fetched c f).stopCore c cause (s.core c).pc.toNat)) :
    s.leaves i c ((s.core c).halted cause) := by
  obtain ⟨l, hl⟩ := State.fetched_core_eq s c f
  unfold State.stopCore at he
  refine State.leaves_core he ?_
  simp [hl, Core.halted, State.canIssue_running h]

/-- A command that passes on leaves everything else. -/
theorem State.leaves_advance {s : State} {i : Instr} {c : CoreId} {long f : Bool}
    (he : exec i s = .next ((s.fetched c f).advance c long)) : s.leaves i c ((s.core c).past long) := by
  obtain ⟨l, hl⟩ := State.fetched_core_eq s c f
  unfold State.advance at he
  refine State.leaves_core he ?_
  simp [hl, Core.past]

/-- Issue of a ready instruction that passes its decode checks and its guard. -/
theorem State.issue_act {s : State} {c : Nat} {i : Instr} {long : Bool} {g : BitVec 5} {act : State → State × Bool}
    (h : s.canIssue c long = true) (hg : (s.core c).guardOk g = true) :
    s.issue c i long false g act =
      if (act (s.fetched c long)).2 then (act (s.fetched c long)).1 else (act (s.fetched c long)).1.stallOn c i := by
  rw [State.issue_ready h]
  simp [hg]

/-! ### Registers do not depend on the instruction cache -/

@[simp] theorem Core.rg_l1i (k : Core) (l : List Nat) (r : Nat) : ({ k with l1i := l } : Core).rg r = k.rg r := rfl
@[simp] theorem Core.wg_l1i (k : Core) (l : List Nat) (r : Nat) (x : BitVec 64) :
    ({ k with l1i := l } : Core).wg r x = { k.wg r x with l1i := l } := by
  unfold Core.wg
  split <;> rfl
@[simp] theorem aluA_l1i (k : Core) (l : List Nat) (f : Alu) : aluA ({ k with l1i := l } : Core) f = aluA k f := by
  cases f <;> rfl
@[simp] theorem aluB_l1i (k : Core) (l : List Nat) (f : Alu) : aluB ({ k with l1i := l } : Core) f = aluB k f := by
  cases f <;> rfl

end Sys2Proof.Machine
end

