-- ==== Sys2Proof/Laws/Ops.lean ====
section
/-! SUPPORT. What the operations that the meanings share can do: raising a source and counting an error change only their own
records, reading protected words leaves memory as it is, and writing them keeps the canonical form. -/

namespace Sys2Proof.Machine

/-! ### Raising sources and counting errors -/

/-- A message becomes due, and nothing else changes. -/
theorem State.noteDue_frame (s : State) (n : Nat) : { s.noteDue n with evt := s.evt } = s := by unfold State.noteDue; split <;> rfl

/-- Raising a source changes the event records alone (R541). -/
theorem State.raiseSrc_frame (s : State) (n : Nat) : { s.raiseSrc n with evt := s.evt } = s := by
  unfold State.raiseSrc
  split
  · rfl
  · unfold State.noteDue; split <;> rfl

@[simp] theorem State.raiseSrc_mem (s : State) (n : Nat) : (s.raiseSrc n).mem = s.mem := by
  have h := congrArg State.mem (s.raiseSrc_frame n); exact h
@[simp] theorem State.raiseSrc_hostMem (s : State) (n : Nat) : (s.raiseSrc n).hostMem = s.hostMem := by
  have h := congrArg State.hostMem (s.raiseSrc_frame n); exact h
@[simp] theorem State.raiseSrc_boot (s : State) (n : Nat) : (s.raiseSrc n).boot = s.boot := by
  have h := congrArg State.boot (s.raiseSrc_frame n); exact h
@[simp] theorem State.raiseSrc_cores (s : State) (n : Nat) : (s.raiseSrc n).cores = s.cores := by
  have h := congrArg State.cores (s.raiseSrc_frame n); exact h
@[simp] theorem State.raiseSrc_rigs (s : State) (n : Nat) : (s.raiseSrc n).rigs = s.rigs := by
  have h := congrArg State.rigs (s.raiseSrc_frame n); exact h
@[simp] theorem State.raiseSrc_pending (s : State) (n : Nat) : (s.raiseSrc n).pending = s.pending := by
  have h := congrArg State.pending (s.raiseSrc_frame n); exact h

/-- A rig's cause changes the event records alone (R548). -/
theorem State.rigCause_frame (s : State) (r : Nat) (b : BitVec 16) : { s.rigCause r b with evt := s.evt } = s := by
  unfold State.rigCause; unfold State.raiseSrc; split
  · rfl
  · unfold State.noteDue; split <;> rfl

/-- A correction is counted in the RAS records alone (R481, R483). -/
theorem State.countCe_frame (s : State) (kind unit addr pos : Nat) : { s.countCe kind unit addr pos with ras := s.ras } = s := by
  unfold State.countCe
  dsimp only
  split
  · split <;> rfl
  · rfl

/-- An uncorrectable error is counted, and its source raised (R480). -/
theorem State.countUe_frame (s : State) (kind unit : Nat) : { s.countUe kind unit with ras := s.ras, evt := s.evt } = s := by
  unfold State.countUe; unfold State.raiseSrc; split
  · rfl
  · unfold State.noteDue; split <;> rfl

/-! ### Memory under reads of protected words -/

@[simp] theorem State.countCe_mem (s : State) (k u a p : Nat) : (s.countCe k u a p).mem = s.mem := by
  have h := congrArg State.mem (s.countCe_frame k u a p); exact h
@[simp] theorem State.countCe_hostMem (s : State) (k u a p : Nat) : (s.countCe k u a p).hostMem = s.hostMem := by
  have h := congrArg State.hostMem (s.countCe_frame k u a p); exact h
@[simp] theorem State.countUe_mem (s : State) (k u : Nat) : (s.countUe k u).mem = s.mem := by
  have h := congrArg State.mem (s.countUe_frame k u); exact h
@[simp] theorem State.countUe_hostMem (s : State) (k u : Nat) : (s.countUe k u).hostMem = s.hostMem := by
  have h := congrArg State.hostMem (s.countUe_frame k u); exact h
/-- A failure entered in the record, or the source that says it is full (R492). -/
theorem State.recordFail_frame (s : State) (k i : Nat) : { s.recordFail k i with failures := s.failures, evt := s.evt } = s := by
  unfold State.recordFail
  split
  · rfl
  · split
    · rfl
    · unfold State.raiseSrc; split
      · rfl
      · unfold State.noteDue; split <;> rfl
@[simp] theorem State.recordFail_mem (s : State) (k i : Nat) : (s.recordFail k i).mem = s.mem := by
  have h := congrArg State.mem (s.recordFail_frame k i); exact h
@[simp] theorem State.recordFail_hostMem (s : State) (k i : Nat) : (s.recordFail k i).hostMem = s.hostMem := by
  have h := congrArg State.hostMem (s.recordFail_frame k i); exact h
@[simp] theorem State.ownLog_mem (s : State) (a : Nat) : (s.ownLog a).mem = s.mem := by
  unfold State.ownLog; split <;> try rfl
  dsimp only; split <;> simp
@[simp] theorem State.ownLog_hostMem (s : State) (a : Nat) : (s.ownLog a).hostMem = s.hostMem := by
  unfold State.ownLog; split <;> try rfl
  dsimp only; split <;> simp

/-- Meeting a word leaves memory as it is. -/
theorem State.meet_mem (s : State) (w : Nat) : (s.meet w).1.mem = s.mem ∧ (s.meet w).1.hostMem = s.hostMem := by
  unfold State.meet
  split
  · exact ⟨rfl, rfl⟩
  · dsimp only; split <;> simp [State.setMark]
  · simp

/-- Meeting words leaves memory as it is. -/
theorem State.meetAll_mem (ws : List Nat) (s : State) : (s.meetAll ws).1.mem = s.mem ∧ (s.meetAll ws).1.hostMem = s.hostMem := by
  induction ws generalizing s with
  | nil => exact ⟨rfl, rfl⟩
  | cons w ws ih =>
    obtain ⟨h1, h2⟩ := s.meet_mem w
    obtain ⟨h3, h4⟩ := ih (s.meet w).1
    exact ⟨h3.trans h1, h4.trans h2⟩

/-- A locker read leaves memory as it is. -/
theorem State.lockerRead_mem (s : State) (a n : Nat) : (s.lockerRead a n).1.mem = s.mem ∧ (s.lockerRead a n).1.hostMem = s.hostMem :=
  State.meetAll_mem (wordsOf a n) s

/-! ### The canonical form under writes -/

/-- Bytes written keep the canonical form. -/
theorem State.mwrite_memWf {s t : State} (a : Nat) (bs : List Byte) (h : s.memWf = true) (hm : t.mem = mwrite s.mem a bs)
    (hh : t.hostMem = s.hostMem) : t.memWf = true := by
  unfold State.memWf at *
  simp only [Bool.and_eq_true, hm, hh] at *
  exact ⟨tabWf_mwrite _ _ _ h.1, h.2⟩

/-- A change that leaves memory keeps its canonical form. -/
theorem State.same_memWf {s t : State} (h : s.memWf = true) (hm : t.mem = s.mem) (hh : t.hostMem = s.hostMem) : t.memWf = true := by
  unfold State.memWf at *; rw [hm, hh]; exact h

/-- The marks a write leaves do not touch memory. -/
theorem State.writeMark_mem (s : State) (a n w : Nat) : (s.writeMark a n w).mem = s.mem ∧ (s.writeMark a n w).hostMem = s.hostMem := by
  unfold State.writeMark
  split
  · exact ⟨rfl, rfl⟩
  · split
    · exact ⟨rfl, rfl⟩
    · exact s.meet_mem w
    · exact s.meet_mem w

theorem State.writeMarks_mem (ws : List Nat) (s : State) (a n : Nat) :
    (s.writeMarks a n ws).mem = s.mem ∧ (s.writeMarks a n ws).hostMem = s.hostMem := by
  induction ws generalizing s with
  | nil => exact ⟨rfl, rfl⟩
  | cons w ws ih =>
    obtain ⟨h1, h2⟩ := s.writeMark_mem a n w
    obtain ⟨h3, h4⟩ := ih (s.writeMark a n w)
    exact ⟨h3.trans h1, h4.trans h2⟩

/-- A checker flip keeps the canonical form (R484). -/
theorem State.flipWrite_memWf (s : State) (k u w : Nat) (h : s.memWf = true) : (s.flipWrite k u w).memWf = true := by
  unfold State.flipWrite
  split
  · split
    · exact h
    · exact h
    · exact h
    · exact s.mwrite_memWf w _ h rfl rfl
  · exact h

/-- Writing protected words keeps the canonical form. -/
theorem State.putBytes_memWf (s : State) (a : Nat) (bs : List Byte) (h : s.memWf = true) : (s.putBytes a bs).memWf = true := by
  unfold State.putBytes
  split
  · exact h
  · obtain ⟨h1, h2⟩ := State.writeMarks_mem (wordsOf a bs.length) s a bs.length
    have hw : ({ s.writeMarks a bs.length (wordsOf a bs.length) with
        mem := mwrite (s.writeMarks a bs.length (wordsOf a bs.length)).mem a bs } : State).memWf = true :=
      s.mwrite_memWf a bs h (by rw [h1]) h2
    dsimp only
    split
    · exact hw
    · exact State.flipWrite_memWf _ _ _ _ hw

/-- Emptying a granule keeps the canonical form (R262). -/
theorem State.emptyGran_memWf (s : State) (a : Nat) (g : Gran) (h : s.memWf = true) : (s.emptyGran a g).memWf = true := by
  unfold State.memWf at *
  simp only [Bool.and_eq_true] at *
  exact ⟨tabWf_clearBytes _ _ _ h.1, h.2⟩

/-- First writes of granules keep the canonical form (R264). -/
theorem State.firstWrites_memWf (ws : List Nat) (s : State) (h : s.memWf = true) : (s.firstWrites ws).memWf = true := by
  induction ws generalizing s with
  | nil => exact h
  | cons w ws ih =>
    refine ih _ ?_
    unfold State.firstWrite
    split
    · exact h
    · exact s.emptyGran_memWf w _ h

/-- A tile write keeps the canonical form (R255, R264). -/
theorem State.tileWrite_memWf (s : State) (a : Nat) (bs : List Byte) (h : s.memWf = true) : (s.tileWrite a bs).memWf = true :=
  State.putBytes_memWf _ _ _ (State.firstWrites_memWf _ s h)

/-- Bytes cleared by address keep the canonical form. -/
theorem State.tclear_memWf {s t : State} (p : Nat → Bool) (h : s.memWf = true) (hm : t.mem = tclear p s.mem)
    (hh : t.hostMem = s.hostMem) : t.memWf = true := by
  unfold State.memWf at *
  simp only [Bool.and_eq_true, hm, hh] at *
  exact ⟨tabWf_tclear p _ h.1, h.2⟩

/-- The first write to a granule of HBM keeps the canonical form (R227, R264). -/
theorem State.firstDram_memWf (s : State) (a : Nat) (h : s.memWf = true) : (s.firstDram a).memWf = true := by
  unfold State.firstDram
  split
  · exact h
  · exact State.tclear_memWf (s := s) (fun k => k / 4096 = a / 4096 && !s.cachedWord (k / 64 * 64)) h rfl rfl

/-- Sectors lost with their tag keep the canonical form (R479). -/
theorem State.loseSectors_memWf (s : State) (l : Nat) (d : BitVec 16) (h : s.memWf = true) : (s.loseSectors l d).memWf = true := by
  have step : ∀ (is : List Nat) (u : State), u.memWf = true →
      (u.each is fun u i => ({ u with mem := mwrite u.mem (sectorAddr l i) (u.freeBytes 64), free := u.free + 64 } : State).setMark
        (sectorAddr l i) .none).memWf = true := by
    intro is
    induction is with
    | nil => exact fun _ h => h
    | cons i is ih => exact fun u h => ih _ (u.mwrite_memWf (sectorAddr l i) (u.freeBytes 64) h rfl rfl)
  exact step _ s h

/-- Clearing what a re-rig moves keeps the canonical form (R25). -/
theorem State.clearMoved_memWf (s : State) (c : Nat) (h : s.memWf = true) : (s.clearMoved c).memWf = true :=
  State.tclear_memWf (s := s) (fun a => coreAt a = some c) h rfl rfl

/-- What a stopped search leaves undefined in a locker keeps the canonical form (R183). -/
theorem State.undefLocker_memWf (s : State) (c : Nat) (h : s.memWf = true) : (s.undefLocker c).memWf = true := by
  unfold State.memWf State.undefLocker at *
  simp only [Bool.and_eq_true] at *
  exact ⟨tabWf_fillBytes _ _ _ _ (tabWf_fillBytes _ _ _ _ h.1), h.2⟩

/-- Undefined outputs of a bank unit keep the canonical form (R293, R303). -/
theorem State.freeRange_memWf (s : State) (c b o n : Nat) (h : s.memWf = true) : (s.freeRange c b o n).memWf = true := by
  induction n generalizing s with
  | zero => exact h
  | succ n ih =>
    refine ih _ ?_
    split
    · exact s.mwrite_memWf (bankAddr c b (o + n)) [Config.freeByte s.free] h rfl rfl
    · exact h

/-- A write to host memory keeps the canonical form. -/
theorem State.toHost_memWf (s : State) (a : Nat) (bs : List Byte) (h : s.memWf = true) : (s.toHost a bs).memWf = true := by
  unfold State.memWf State.toHost at *
  simp only [Bool.and_eq_true] at *
  exact ⟨h.1, tabWf_mwrite _ _ _ h.2⟩

end Sys2Proof.Machine
end

