-- ==== Sys2Proof/Tests/Slice0.lean ====
section
/-! SUPPORT. Tests of the model on small states: an ill-formed term for each check of WellFormed, a witness that meets the hypotheses
of each statement, clause by clause, and the effect of the command there. The expected values are worked out from the rules cited. -/

namespace Sys2Proof.Tests

open Sys2Proof Sys2Proof.Machine

-- One theorem at a time: the evaluations together would take too many threads.
set_option Elab.async false

/-! ### Small states -/

/-- A rig of cores 0 and 1, HBM region 0 and ways 0 and 1, bound to stream 0. -/
def rig0 : Rig := { cores := 3, regions := 1, ways := 3, st := 1 }
/-- A running core at address 0 with its first line of instructions in its cache. -/
def k0 : Core := { phase := .running, l1i := [0] }
/-- Core 0 as given, in rig 0. -/
def onCore (k : Core) : State := { State.reset with rigs := [(0, rig0)], cores := [(0, k)] }
/-- A command completes and its next state passes a check. -/
def ok (i : Instr) (s : State) (p : State → Bool) : Bool := match exec i s with | .next t => p t | _ => false
/-- A command of core c completes, leaves core c as k but for the use of its instruction cache, and nothing else changed. -/
def lv (i : Instr) (s : State) (c : CoreId) (k : Core) : Bool :=
  ok i s fun t => decide ({ t.core c with l1i := (s.core c).l1i } = k) && decide ({ t with cores := s.cores } = s) &&
    decide (t.core (c + 1) = s.core (c + 1))
/-- A command completes in the state given. -/
def nx (i : Instr) (s t : State) : Bool := ok i s fun u => decide (u = t)
/-- The same state READY, its link up. -/
def rdy (s : State) : State := { s with boot := { ph := 5, step := 9, link := true, perst := false } }
/-- Sixty-four bytes with the given numbers at the given offsets. -/
def lnB (fs : List (Nat × Nat)) : List Byte := leBytes 64 (fs.foldl (fun a e => a + e.2 * 256 ^ e.1) 0)

/-! ### O1 to O7 -/

theorem wit_StepRunsFrontCommand : step { State.reset with pending := [.ready, .perstRelease] } =
    exec .ready { State.reset with pending := [.perstRelease] } ∧ step State.reset = .next State.reset := ⟨rfl, rfl⟩

def fR (fn : BitVec 8) (g : BitVec 5) : FmtR := ⟨1, 2, 3, fn, 0, false, g⟩
def fI (fn : BitVec 8) (imm : BitVec 32) (rd rs : BitVec 5) (l : Bool) (g : BitVec 5) (lit : BitVec 64) : FmtI := ⟨rd, rs, imm, fn, l, g, lit⟩
def k1 : Core := { k0 with g := [(2, 5), (3, 7)] }

theorem wit_DecodeChecks_bad : (Instr.mov 0 (fI 2 16 1 0 false 0 0)).wf = true ∧
    coreForm (.mov 0 (fI 2 16 1 0 false 0 0)) = some (0, false, true, 0) ∧ (onCore k0).canIssue 0 false = true ∧
    lv (.mov 0 (fI 2 16 1 0 false 0 0)) (onCore k0) 0 (k0.halted 1) = true := by decide +kernel
theorem wit_DecodeChecks_guard : coreForm (.add 0 (.imm (fI 0 0 1 2 true 0x15 9))) = some (0, true, false, 0x15) ∧
    (onCore k0).canIssue 0 true = true ∧ (0x15 : BitVec 5).getLsbD 4 = true ∧ k0.rp 5 = (0x15 : BitVec 5).getLsbD 3 ∧
    lv (.add 0 (.imm (fI 0 0 1 2 true 0x15 9))) (onCore k0) 0 (k0.past true) = true := by decide +kernel
/-- The edges of the decode checks: selector 3 of MOV is the last listed, 4 is not; CMP condition 5 and 6; MUL FN 2 and 3. -/
theorem test_decode_edges : movBad (fI 2 3 1 0 false 0 0) = false ∧ movBad (fI 2 4 1 0 false 0 0) = true ∧
    aluBad (.reg (fR 5 0)) (· ≤ 5) = false ∧ aluBad (.reg (fR 6 0)) (· ≤ 5) = true ∧
    aluBad (.reg (fR 2 0)) (· ≤ 2) = false ∧ aluBad (.reg (fR 3 0)) (· ≤ 2) = true := by decide +kernel

theorem wit_ScalarArithmetic : (onCore k1).canIssue 0 false = true ∧ k1.guardOk 0 = true ∧
    aluBad (.reg (fR 0 0)) (· == 0) = false ∧
    lv (.add 0 (.reg (fR 0 0))) (onCore k1) 0 ((k1.wg 1 12).past false) = true ∧
    lv (.sub 0 (.reg (fR 0 0))) (onCore k1) 0 ((k1.wg 1 (-2)).past false) = true ∧
    lv (.and 0 (.reg (fR 0 0))) (onCore k1) 0 ((k1.wg 1 5).past false) = true ∧
    lv (.or 0 (.reg (fR 0 0))) (onCore k1) 0 ((k1.wg 1 7).past false) = true ∧
    lv (.xor 0 (.reg (fR 0 0))) (onCore k1) 0 ((k1.wg 1 2).past false) = true ∧
    lv (.shl 0 (.reg (fR 0 0))) (onCore k1) 0 ((k1.wg 1 640).past false) = true := by decide +kernel
def kNeg : Core := { k0 with g := [(2, -16), (3, 3)] }
theorem wit_ScalarArithmetic_mul_shr : aluBad (.reg (fR 2 0)) (· ≤ 2) = false ∧ aluBad (.reg (fR 1 0)) (· ≤ 1) = false ∧
    lv (.mul 0 (.reg (fR 0 0))) (onCore kNeg) 0 ((kNeg.wg 1 (-48)).past false) = true ∧
    lv (.mul 0 (.reg (fR 1 0))) (onCore kNeg) 0 ((kNeg.wg 1 (-1)).past false) = true ∧
    lv (.mul 0 (.reg (fR 2 0))) (onCore kNeg) 0 ((kNeg.wg 1 2).past false) = true ∧
    lv (.shr 0 (.reg (fR 0 0))) (onCore kNeg) 0 ((kNeg.wg 1 0x1FFFFFFFFFFFFFFE).past false) = true ∧
    lv (.shr 0 (.reg (fR 1 0))) (onCore kNeg) 0 ((kNeg.wg 1 (-2)).past false) = true := by decide +kernel
/-- The long form adds its 64-bit literal and passes two words. -/
theorem test_add_long : lv (.add 0 (.imm (fI 0 0 1 2 true 0 0x100000000))) (onCore k1) 0
    { k1 with g := [(1, 0x100000005), (2, 5), (3, 7)], pc := 16, cyc := 2 } = true := by decide +kernel

theorem wit_RegisterFile : (1 : Nat) ≠ 0 ∧ (2 : Nat) ≠ 1 ∧ (k1.wg 31 9).rg 31 = 9 ∧ (k1.wg 31 9).rg 2 = 5 ∧ k1.wg 0 9 = k1 ∧ (63 : Nat) < 64 := by
  decide +kernel

theorem wit_Compare : (onCore kNeg).canIssue 0 false = true ∧ aluBad (.reg { fR 2 0 with rd := 7 }) (· ≤ 5) = false ∧
    lv (.cmp 0 (.reg { fR 2 0 with rd := 7 })) (onCore kNeg) 0 { kNeg with p := 0x80, pc := 8, cyc := 1 } = true ∧
    lv (.cmp 0 (.reg { fR 4 0 with rd := 7 })) (onCore { kNeg with p := 0xFF }) 0 { kNeg with p := 0x7F, pc := 8, cyc := 1 } = true ∧
    lv (.cmp 0 (.reg { fR 5 0 with rd := 15 })) (onCore { kNeg with p := 0 }) 0 { kNeg with p := 0, pc := 8, cyc := 1 } = true ∧
    lv (.cmp 0 (.reg { fR 1 0 with rd := 16 })) (onCore { kNeg with p := 2 }) 0 { kNeg with p := 3, pc := 8, cyc := 1 } = true ∧
    ((24 : BitVec 5).extractLsb' 3 2).toNat = 3 ∧ 5 < aluFn (.reg (fR 6 0)) ∧
    lv (.cmp 0 (.reg { fR 0 0 with rd := 24 })) (onCore kNeg) 0 (kNeg.halted 1) = true ∧
    lv (.cmp 0 (.reg (fR 6 0))) (onCore kNeg) 0 (kNeg.halted 1) = true := by decide +kernel

def opV (f : FmtV) : Op := ⟨.vopMov 0 f, .vec, 3, 0, 0, 0, 0, {}, {}, {}, {}, {}, 0, false, false⟩
def fV (vd vs1 vs2 : BitVec 5) (vopc : BitVec 8) (t : BitVec 2) : FmtV := ⟨3, vd, vs1, vs2, 4, vopc, t, 0, 0, false, 0⟩
def kMov : Core := { k1 with p := 0xA5, epoch := 6, ret := [8, 16], v := [(64 * 4 + 63, 0xFFFFFFFF)] }
theorem wit_MoveForms : (onCore kMov).canIssue 0 false = true ∧ movBad (fI 0 0x80000000 1 0 false 0 0) = false ∧
    lv (.mov 0 (fI 0 0x80000000 1 0 false 0 0)) (onCore kMov) 0 ((kMov.wg 1 0xFFFFFFFF80000000).past false) = true ∧
    lv (.mov 0 (fI 1 0 1 3 false 0 0)) (onCore kMov) 0 ((kMov.wg 1 7).past false) = true ∧
    lv (.mov 0 (fI 2 1 1 0 false 0 0)) (onCore kMov) 0 ((kMov.wg 1 6).past false) = true ∧
    lv (.mov 0 (fI 2 2 1 0 false 0 0)) (onCore kMov) 0 ((kMov.wg 1 2).past false) = true ∧
    lv (.mov 0 (fI 2 3 1 0 false 0 0)) (onCore kMov) 0 ((kMov.wg 1 0xA5).past false) = true ∧
    movBad (fI 3 63 1 4 false 0 0) = false ∧
    lv (.mov 0 (fI 3 63 1 4 false 0 0)) (onCore kMov) 0 ((kMov.wg 1 0xFFFFFFFF).past false) = true ∧
    lv (.mov 0 (fI 4 0 4 3 false 0 0)) (onCore kMov) 0 ((kMov.wv 4 0 7).past false) = true ∧
    lv (.mov 0 (fI 5 0 0 3 false 0 0)) (onCore kMov) 0 (({ kMov with p := 7 } : Core).past false) = true := by decide +kernel
theorem wit_MoveForms_busy : movBad (fI 3 0 1 1 false 0 0) = false ∧
    lv (.mov 0 (fI 3 0 1 1 false 0 0)) (onCore { k1 with run := [opV (fV 1 2 3 2 0)] }) 0
      (({ k1 with run := [opV (fV 1 2 3 2 0)] } : Core).stalled (.mov 0 (fI 3 0 1 1 false 0 0))) = true ∧
    lv (.mov 0 (fI 4 0 1 3 false 0 0)) (onCore { k1 with q := [opV (fV 1 2 3 2 0)], run := [opV (fV 1 2 3 2 0)] }) 0
      (({ k1 with q := [opV (fV 1 2 3 2 0)], run := [opV (fV 1 2 3 2 0)] } : Core).stalled (.mov 0 (fI 4 0 1 3 false 0 0))) = true ∧
    movBad (fI 2 0 1 0 false 0 0) = false := by decide +kernel
theorem wit_DescriptorSet :
    lv (.dset 0 (fI 3 0 15 2 false 0 0)) (onCore k1) 0 ((k1.wd 15 3 5).past false) = true ∧
    lv (.dset 0 (fI 7 0 15 0 true 0 0x123456789ABCDEF0)) (onCore k1) 0 ((k1.wd 15 3 0x123456789ABCDEF0).past true) = true ∧
    lv (.dset 0 (fI 3 0 16 2 false 0 0)) (onCore k1) 0 (k1.halted 1) = true ∧
    lv (.dset 0 (fI 3 0 1 2 true 0 0)) (onCore k1) 0 (k1.halted 1) = true := by decide +kernel

def fB (rs : BitVec 5) (p : BitVec 3) (n ind : Bool) (off : BitVec 40) (l : Bool) (lit : BitVec 64) : FmtB := ⟨rs, p, n, ind, off, l, 0, lit⟩
def kB : Core := { k1 with pc := 64, p := 4 }
theorem wit_Branches : (onCore kB).canIssue 0 false = true ∧ brBad (fB 0 0 false false (-3) false 0) = false ∧
    lv (.br 0 (fB 0 0 false false (-3) false 0)) (onCore kB) 0 { kB with pc := 40, cyc := 1 } = true ∧
    lv (.br 0 (fB 3 0 false true 0 false 0)) (onCore kB) 0 { kB with pc := 0, cyc := 1 } = true ∧
    lv (.call 0 (fB 0 0 false false 0 true 0x1237)) (onCore { kB with ret := List.replicate 31 8 }) 0
      { kB with pc := 0x1230, cyc := 2, ret := 80 :: List.replicate 31 8 } = true ∧
    lv (.call 0 (fB 0 0 false false 2 false 0)) (onCore { kB with ret := List.replicate 32 8 }) 0
      (({ kB with ret := List.replicate 32 8 } : Core).halted 7) = true ∧
    brpBad (fB 0 2 false false 5 false 0) = false ∧
    lv (.brp 0 (fB 0 2 false false 5 false 0)) (onCore kB) 0 { kB with pc := 104, cyc := 1 } = true ∧
    lv (.brp 0 (fB 0 2 true false 5 false 0)) (onCore kB) 0 (kB.past false) = true ∧
    lv (.ret 0 (fB 0 0 false false 0 false 0)) (onCore { kB with ret := [0x87, 8] }) 0 { kB with pc := 0x80, cyc := 1, ret := [8] } = true ∧
    lv (.ret 0 (fB 0 0 false false 0 false 0)) (onCore kB) 0 { kB with phase := .ending, cyc := 1 } = true := by decide +kernel

/-! ### O8 to O15 -/

def fM (sz : BitVec 2) (x : Bool) (off : BitVec 32) : FmtM := ⟨1, 2, off, sz, x, 0, false, 0⟩
def lkA : Nat := lockerAddr 0 0x100
/-- Core 0 with an address in g2 and a value in g1, and some bytes of its locker and its tile. -/
def kA (a : Nat) : Core := { k0 with g := [(1, 0x1122334455667788), (2, BitVec.ofNat 64 a)] }
def atAddr (a : Nat) : State := { onCore (kA a) with mem := [(tileAddr 0 256, 0x80), (tileAddr 0 257, 0xFF), (lkA, 0x80), (lkA + 1, 0xFF), (lkA + 7, 0x12)] }
theorem wit_Loads_stop : (atAddr (lkA + 1)).canIssue 0 false = true ∧ (fM 1 false 0).rsv = 0 ∧
    lv (.ld 0 (fM 1 false 0)) (atAddr (lkA + 1)) 0 ((kA (lkA + 1)).halted 6) = true ∧
    (atAddr (lockerAddr 2 0)).ownAddr 0 (lockerAddr 2 0) = false ∧
    lv (.ld 0 (fM 1 false 0)) (atAddr (lockerAddr 2 0)) 0 ((kA (lockerAddr 2 0)).halted 4) = true ∧
    lv (.ld 0 (fM 3 false 0)) (atAddr (2 ^ 48)) 0 ((kA (2 ^ 48)).halted 4) = true ∧
    lv (.st 0 (fM 3 false 0)) (atAddr (2 ^ 48)) 0 ((kA (2 ^ 48)).halted 4) = true ∧
    lv (.st 0 (fM 3 false 4)) (atAddr lkA) 0 ((kA lkA).halted 6) = true := by decide +kernel
def downState : State := { atAddr (lockerAddr 1 0) with cores := [(0, kA (lockerAddr 1 0)), (1, { down := true })] }
theorem wit_Loads_down : downState.canIssue 0 false = true ∧ downState.ownAddr 0 (lockerAddr 1 0) = true ∧ downState.downAt (lockerAddr 1 0) = true ∧
    lv (.ld 0 (fM 1 false 0)) downState 0 ((kA (lockerAddr 1 0)).halted 11) = true ∧
    lv (.st 0 (fM 1 false 0)) downState 0 ((kA (lockerAddr 1 0)).halted 11) = true := by decide +kernel
theorem wit_Loads_locker : (atAddr lkA).mayAddr 0 lkA = true ∧ inLocker 0 lkA = true ∧ (atAddr lkA).mark (lkA / 8 * 8) = .none ∧
    lv (.ld 0 (fM 0 true 0)) (atAddr lkA) 0 (((kA lkA).wg 1 0xFFFFFFFFFFFFFF80).past false) = true ∧
    lv (.ld 0 (fM 1 false 0)) (atAddr lkA) 0 (((kA lkA).wg 1 0xFF80).past false) = true ∧
    lv (.ld 0 (fM 3 false 0)) (atAddr lkA) 0 (((kA lkA).wg 1 0x120000000000FF80).past false) = true := by decide +kernel
def kHit : Core := { kA (tileAddr 0 256) with l1d := [tileAddr 0 256 / 256], l1Data := [(tileAddr 0 257, 7)] }
def hitState : State := { onCore kHit with mem := [] }
theorem wit_Loads_l1 : hitState.canIssue 0 false = true ∧ hitState.mayAddr 0 (tileAddr 0 256) = true ∧
    place (tileAddr 0 256) = .tile 0 256 ∧ kHit.l1d.contains (tileAddr 0 256 / 256) = true ∧
    tfind kHit.l1Bad (2 * (tileAddr 0 256 / 256)) = none ∧
    lv (.ld 0 (fM 1 false 0)) hitState 0 ((kHit.wg 1 0x700).past false) = true := by decide +kernel
def tileState : State := { atAddr (tileAddr 0 256) with gran := [(tileAddr 0 0 / 4096, .written)] }
theorem wit_Loads_paths : tileState.canIssue 0 false = true ∧ tileState.mayAddr 0 (tileAddr 0 256) = true ∧ (kA (tileAddr 0 256)).posted.length < 256 ∧
    (match (tileState.fetched 0 false).scalarRead 0 (tileAddr 0 256) 2 with | .ok _ (bs, false) => decide (bs = [0x80, 0xFF]) | _ => false) = true ∧
    ok (.ld 0 (fM 1 false 0)) tileState (fun t => decide ((t.core 0).rg 1 = 0xFF80) && decide ((t.core 0).pc = 8)) = true := by decide +kernel

theorem wit_Stores_locker : (atAddr lkA).flipArmed 3 0 = false ∧
    ok (.st 0 (fM 1 false 0)) (atAddr lkA) (fun t => decide (mread t.mem lkA 4 = [0x88, 0x77, 0, 0]) &&
      decide (mread t.mem (lkA + 6) 2 = [0, 0x12]) && decide ({ t.core 0 with l1i := [0] } = (kA lkA).past false) &&
      decide ({ t with cores := (atAddr lkA).cores, mem := (atAddr lkA).mem } = atAddr lkA)) = true := by decide +kernel
def kFull : Core := { kA (tileAddr 0 256) with posted := List.replicate 256 { p := .event 0 } }
theorem wit_Stores_posted : (onCore kHit).flipArmed 5 0 = false ∧ inLocker 0 (tileAddr 0 256) = false ∧
    lv (.st 0 (fM 0 false 0)) (onCore kHit) 0 (({ kHit with posted := [{ p := .store (tileAddr 0 256) [0x88] }], l1Data := [(tileAddr 0 256, 0x88), (tileAddr 0 257, 7)] } : Core).past false) = true ∧
    256 ≤ kFull.posted.length ∧ (onCore kFull).canIssue 0 false = true ∧ (onCore kFull).mayAddr 0 (tileAddr 0 256) = true ∧
    lv (.st 0 (fM 0 false 0)) (onCore kFull) 0 (kFull.stalled (.st 0 (fM 0 false 0))) = true := by decide +kernel

def iClr : Instr := .accClr 0 ⟨3, 0, 0, 0, 0, 1, 0, 0, false, 0⟩
def oClr : Op := ⟨iClr, .mxu, 3, 0, 0, 0, 0, {}, {}, {}, {}, {}, 0, false, false⟩
theorem wit_EngineIssue : iClr.wf = true ∧ coreForm iClr = some (0, false, false, 0) ∧ engineOp k0 iClr = some oClr ∧
    (onCore k0).canIssue 0 false = true ∧ k0.guardOk 0 = true ∧ issueOk k0 0 iClr = true ∧
    lv iClr (onCore k0) 0 { k0 with q := [oClr], tok := 8, pc := 8, cyc := 1 } = true ∧
    lv iClr (onCore { k0 with tok := 8 }) 0 (({ k0 with tok := 8 } : Core).stalled iClr) = true := by decide +kernel
def iMx : Instr := .mxload 0 ⟨3, 0, 1, 0, 0, 0, 0, 0, false, 0⟩
theorem wit_EngineIssue_check : iMx.wf = true ∧ coreForm iMx = some (0, false, false, 0) ∧ (engineOp k0 iMx).isSome = true ∧
    issueOk k0 0 iMx = false ∧ lv iMx (onCore k0) 0 (k0.halted 8) = true := by decide +kernel
theorem test_queue_full : lv iClr (onCore { k0 with q := List.replicate (qDepth .mxu) { oClr with tok := 5 } }) 0
    (({ k0 with q := List.replicate (qDepth .mxu) { oClr with tok := 5 } } : Core).stalled iClr) = true := by decide +kernel

def oSwap : Op := ⟨.lkuSwap 0 ⟨3, 0, 0, 0, 0, 0, 0, 0, false, 0⟩, .lku, 3, 0, 0, 0, 0, {}, {}, {}, {}, {}, 0, false, false⟩
theorem wit_EngineStart : [oSwap, oClr].find? (fun x => x.eng == .mxu) = some oClr ∧ oClr.fin = false ∧ isSwap oClr = false ∧ isSwap oSwap = true ∧
    nx (.engineOpStart 0 .mxu) (onCore { k0 with q := [oSwap, oClr] }) (onCore { k0 with q := [oSwap], run := [oClr] }) = true ∧
    nx (.engineOpStart 0 .lku) (onCore { k0 with q := [oSwap, oClr], tok := 9 }) (onCore { k0 with q := [oClr], liveB := true, epoch := 1, tok := 1 }) = true := by
  decide +kernel

theorem wit_EngineComplete : nthIdx (fun x => x.eng == .mxu) [oClr, { oClr with tok := 5 }] 1 0 = some 1 ∧ Eng.mxu ≠ Eng.lku ∧
    tabWf {} (onCore { k0 with run := [oClr, { oClr with tok := 5 }] }).cores = true ∧
    ({ k0 with run := [oClr, { oClr with tok := 5 }] } : Core).mayComplete .mxu 1 { oClr with tok := 5 } = false ∧
    nx (.engineOpComplete 0 .mxu 1) (onCore { k0 with run := [oClr, { oClr with tok := 5 }] }) (onCore { k0 with run := [oClr, { oClr with tok := 5 }] }) = true := by
  decide +kernel
theorem wit_EngineComplete_works : nthIdx (fun x => x.eng == .vec) [opV (fV 1 2 3 2 0)] 0 0 = some 0 ∧
    ({ k0 with run := [opV (fV 1 2 3 2 0)], tok := 9 } : Core).mayComplete .vec 0 (opV (fV 1 2 3 2 0)) = true ∧
    ({ k0 with run := [opV (fV 1 2 3 2 0)], tok := 9 } : Core).posted = [] := by decide +kernel

/-- The state after a vector operation of core 0 has completed, its register file apart. -/
def vecRun (i : Instr) (f : FmtV) (v : Tab (BitVec 32)) (p : Core → Bool) : Bool :=
  let k : Core := { k0 with run := [{ opV f with i := i }], tok := 9, v := v }
  ok (.engineOpComplete 0 .vec 0) (onCore k) fun t => p (t.core 0) &&
    decide ({ t.core 0 with v := [] } = { k0 with tok := 1 }) && decide ({ t with cores := [] } = { onCore k with cores := [] })
def v2 (a b : BitVec 32) : Tab (BitVec 32) := [(64 * 1 + 5, 77), (64 * 2, a), (64 * 2 + 63, a), (64 * 3, b), (64 * 3 + 63, b), (64 * 7, 9)]
def lane (i : Instr) (f : FmtV) (a b x : BitVec 32) : Bool :=
  vecRun i f (v2 a b) fun k => decide (k.rv 1 0 = x) && decide (k.rv 1 63 = x) && decide (k.rv 7 0 = 9) && decide (k.rv 3 63 = b)
theorem wit_VectorInteger : (fV 1 2 3 0x02 2).t = 2 ∧
    lane (.vopMov 0 (fV 1 2 3 0x02 2)) (fV 1 2 3 0x02 2) 0x80000000 3 0x80000000 = true ∧
    lane (.vopAdd 0 (fV 1 2 3 0x04 2)) (fV 1 2 3 0x04 2) 0xFFFFFFFF 3 2 = true ∧
    lane (.vopSub 0 (fV 1 2 3 0x05 2)) (fV 1 2 3 0x05 2) 2 3 0xFFFFFFFF = true ∧
    lane (.vopMul 0 (fV 1 2 3 0x06 2)) (fV 1 2 3 0x06 2) 0x10001 0x10001 0x20001 = true ∧
    lane (.vopMax 0 (fV 1 2 3 0x08 2)) (fV 1 2 3 0x08 2) 0xFFFFFFFF 3 3 = true ∧
    lane (.vopMin 0 (fV 1 2 3 0x09 2)) (fV 1 2 3 0x09 2) 0xFFFFFFFF 3 0xFFFFFFFF = true ∧
    lane (.vopAbs 0 (fV 1 2 3 0x0A 2)) (fV 1 2 3 0x0A 2) 0x80000000 3 0x80000000 = true := by decide +kernel
theorem wit_VectorInteger_more :
    lane (.vopNeg 0 (fV 1 2 3 0x0B 2)) (fV 1 2 3 0x0B 2) 5 3 0xFFFFFFFB = true ∧
    lane (.vopAnd 0 (fV 1 2 3 0x0C 2)) (fV 1 2 3 0x0C 2) 6 3 2 = true ∧
    lane (.vopOr 0 (fV 1 2 3 0x0D 2)) (fV 1 2 3 0x0D 2) 6 3 7 = true ∧
    lane (.vopXor 0 (fV 1 2 3 0x0E 2)) (fV 1 2 3 0x0E 2) 6 3 5 = true ∧
    lane (.vopShl 0 (fV 1 2 3 0x0F 2)) (fV 1 2 3 0x0F 2) 6 33 12 = true ∧
    lane (.vopShr 0 (fV 1 2 3 0x10 2)) (fV 1 2 3 0x10 2) 0x80000000 31 1 = true ∧
    lane (.vopShr 0 { fV 1 2 3 0x10 2 with x10 := 1 }) { fV 1 2 3 0x10 2 with x10 := 1 } 0x80000000 31 0xFFFFFFFF = true := by decide +kernel
/-- 1.5 + 2 = 3.5, 1.5 - 2 = -0.5, 1.5 * 2 = 3, 1.5 * 2 + 0 = 3 (v4 is zero), and the maximum and minimum. -/
theorem wit_VectorFloat : (fV 1 2 3 0x04 0).t = 0 ∧
    lane (.vopAdd 0 (fV 1 2 3 0x04 0)) (fV 1 2 3 0x04 0) 0x3FC00000 0x40000000 0x40600000 = true ∧
    lane (.vopSub 0 (fV 1 2 3 0x05 0)) (fV 1 2 3 0x05 0) 0x3FC00000 0x40000000 0xBF000000 = true ∧
    lane (.vopMul 0 (fV 1 2 3 0x06 0)) (fV 1 2 3 0x06 0) 0x3FC00000 0x40000000 0x40400000 = true ∧
    lane (.vopFma 0 (fV 1 2 3 0x07 0)) (fV 1 2 3 0x07 0) 0x3FC00000 0x40000000 0x40400000 = true ∧
    lane (.vopMax 0 (fV 1 2 3 0x08 0)) (fV 1 2 3 0x08 0) 0x3FC00000 0x40000000 0x40000000 = true ∧
    lane (.vopMin 0 (fV 1 2 3 0x09 0)) (fV 1 2 3 0x09 0) 0x3FC00000 0x40000000 0x3FC00000 = true := by decide +kernel
def kAcc : Core := { k0 with acc := [(1024 * 1 + 33, 5), (1024 * 2, 6)], run := [oClr], tok := 9 }
theorem wit_AccumulatorClear : oClr.i = .accClr 0 ⟨3, 0, 0, 0, 0, 1, 0, 0, false, 0⟩ ∧ kAcc.posted = [] ∧
    ok (.engineOpComplete 0 .mxu 0) (onCore kAcc) (fun t => decide ((t.core 0).ra 1 1 1 = 0) && decide ((t.core 0).ra 2 0 0 = 6) &&
      decide ((t.core 0).accW = 2) && decide ({ t.core 0 with acc := [], accW := 0 } = { k0 with tok := 1 })) = true := by decide +kernel

/-! ### O16 to O22 -/

def fC (ra rb : BitVec 5) (k : BitVec 6) (grp : BitVec 4) (fn : BitVec 3) : FmtC := ⟨ra, rb, k, grp, fn, 0, false, 0⟩
def f0 : FmtC := fC 0 0 0 0 0
def pSt : Posted := { p := .store (tileAddr 0 0) [1] }
def pEv : Posted := { p := .event 1 }
def kP (ps : List Posted) (tok : BitVec 64) : Core := { k0 with posted := ps, tok := tok }
theorem wit_Fences : (onCore (kP [pSt, pEv] 0)).canIssue 0 false = true ∧ f0.rsv = 0 ∧ f0.l = false ∧
    lv (.fenceL 0 f0) (onCore (kP [pSt, pEv] 0)) 0 ((kP [{ pSt with placed := true }, { pEv with placed := true }] 0).past false) = true ∧
    lv (.fenceR 0 f0) (onCore (kP [pEv] 0)) 0 ((kP [pEv] 0).past false) = true ∧
    lv (.fenceR 0 f0) (onCore (kP [pEv, pSt] 0)) 0 ((kP [pEv, pSt] 0).stalled (.fenceR 0 f0)) = true ∧
    lv (.fenceR 0 f0) (onCore (kP [] 1)) 0 ((kP [] 1).stalled (.fenceR 0 f0)) = true ∧
    lv (.waitall 0 f0) (onCore (kP [] 0)) 0 ((kP [] 0).past false) = true ∧
    lv (.waitall 0 f0) (onCore (kP [pEv] 0)) 0 ((kP [pEv] 0).stalled (.waitall 0 f0)) = true ∧
    lv (.wait 0 (fC 0 0 63 0 0)) (onCore (kP [] (-1))) 0 ((kP [] (-1)).stalled (.wait 0 (fC 0 0 63 0 0))) = true ∧
    lv (.wait 0 (fC 0 0 63 0 0)) (onCore (kP [pSt] 0x7FFFFFFFFFFFFFFF)) 0 ((kP [pSt] 0x7FFFFFFFFFFFFFFF).past false) = true := by decide +kernel
def kL1 : Core := { k0 with l1d := [3, 1, 2], l1Data := [(256, 5), (768, 6)], g := [(2, 511), (3, 2)] }
theorem wit_InvL1 : lv (.invL1 0 f0) (onCore kL1) 0 (({ kL1 with l1d := [], l1Data := [] } : Core).past false) = true ∧
    ok (.invL1 0 (fC 2 3 0 0 1)) (onCore kL1) (fun t => decide ((t.core 0).l1d = [3]) && decide ((t.core 0).pc = 8)) = true ∧
    ok (.invL1 0 (fC 2 0 0 0 1)) (onCore kL1) (fun t => decide ((t.core 0).l1d = [3, 1, 2])) = true := by decide +kernel

def sigA : Nat := lockerAddr 0 signalOff
def sigState (b : Byte) : State := { onCore { k0 with g := [(2, 0x0F), (3, 0x55)] } with mem := [(sigA - 1, 9), (sigA, b), (sigA + 1, 0xFF)] }
theorem wit_WaitSignal : (sigState 0x33).canIssue 0 false = true ∧ (sigState 0x33).mark sigA = .none ∧ (sigState 0x33).flipArmed 3 0 = false ∧
    ok (.waitSignal 0 (fC 2 1 0 0 1)) (sigState 0x33) (fun t => decide (t.mem = [(sigA - 1, 9), (sigA, 0x30), (sigA + 1, 0xFF)]) &&
      decide ((t.core 0).rg 1 = 3) && decide ((t.core 0).pc = 8)) = true ∧
    ok (.waitSignal 0 (fC 2 1 0 0 1)) (sigState 0xF0) (fun t => decide ((t.core 0).stall = some (.waitSignal 0 (fC 2 1 0 0 1))) &&
      decide (t.mem = (sigState 0xF0).mem)) = true := by decide +kernel
def kSig (t : BitVec 64) : Core := { k0 with g := [(2, t), (3, 0x55)] }
theorem wit_Signal : (onCore (kSig 1)).canIssue 0 false = true ∧ (onCore (kSig 1)).rigOfCore 1 = (onCore (kSig 1)).rigOfCore 0 ∧
    lv (.signal 0 (fC 2 3 0 0 0)) (onCore (kSig 1)) 0 (({ kSig 1 with posted := [{ p := .orTo 1 0x55 }] } : Core).past false) = true ∧
    lv (.signal 0 (fC 2 3 0 0 0)) (onCore { kSig 1 with tok := 1 }) 0 (({ kSig 1 with tok := 1 } : Core).stalled (.signal 0 (fC 2 3 0 0 0))) = true ∧
    lv (.signal 0 (fC 2 3 0 0 0)) (onCore (kSig 2)) 0 ((kSig 2).halted 4) = true ∧
    lv (.signal 0 (fC 2 3 0 0 0)) (onCore (kSig 4096)) 0 ((kSig 4096).halted 4) = true ∧
    lv (.signalEv 0 (fC 0 3 0 0 1)) (onCore (kSig 1)) 0 (({ kSig 1 with posted := [{ p := .event 0x55 }] } : Core).past false) = true := by decide +kernel
def sigDown : State := { onCore (kSig 1) with cores := [(0, kSig 1), (1, { down := true })] }
theorem wit_Signal_down : (sigDown.core 1).down = true ∧ sigDown.canIssue 0 false = true ∧
    lv (.signal 0 (fC 2 3 0 0 0)) sigDown 0 ((kSig 1).past false) = true := by decide +kernel

/-- A command that runs on both cores of rig 0, with group 3 of core 0 alone. -/
def cmd0 : Cmd := { stage := .running, cores := 3, groups := [(3, 1)] }
def onCmd (k : Core) (m : Cmd) : State := { onCore k with rigs := [(0, { rig0 with running := some m })] }
theorem wit_Barrier : (onCore k0).cmdOf 0 = none ∧ (onCmd k0 cmd0).cmdOf 0 = some cmd0 ∧
    (cmd0.group 15).getLsbD 0 = false ∧ (cmd0.group 3).getLsbD 0 = true ∧
    lv (.bar 0 f0) (onCore k0) 0 (k0.halted 14) = true ∧
    lv (.bar 0 (fC 0 0 0 15 0)) (onCmd k0 cmd0) 0 (k0.halted 14) = true ∧
    lv (.bar 0 (fC 0 0 0 3 0)) (onCmd k0 cmd0) 0 { k0 with atBar := some 3 } = true ∧
    lv (.bar 0 f0) (onCmd { k0 with tok := 1 } cmd0) 0 (({ k0 with tok := 1 } : Core).stalled (.bar 0 f0)) = true := by decide +kernel
def kBar : Core := { k0 with atBar := some 0 }
theorem wit_BarrierArrival : ((onCmd kBar cmd0).core 0).atBar = some 0 ∧ (onCmd kBar cmd0).rigOfCore 0 = some 0 ∧
    nx (.barrierArrival 0) (onCmd kBar cmd0) (onCmd kBar { cmd0 with arrived := [(0, 1)] }) = true := by decide +kernel
theorem wit_BarrierRelease : tget 0 ({ cmd0 with arrived := [(0, 1)], ended := 2 } : Cmd).arrived 0 ≠ 0 ∧ cmd0.group 0 ≠ 0 ∧
    tabWf {} (onCmd kBar cmd0).cores = true ∧
    nx (.barrierRelease 0 0) (onCmd kBar { cmd0 with arrived := [(0, 1)], ended := 2 }) (onCmd { k0 with pc := 8, cyc := 1 } { cmd0 with ended := 2 }) = true ∧
    nx (.barrierRelease 0 0) (onCmd kBar { cmd0 with arrived := [(0, 1)] }) (onCmd kBar { cmd0 with arrived := [(0, 1)] }) = true := by decide +kernel

theorem wit_BarrierRelease_all : ∀ i, i < 4096 → (cmd0.group 0).getLsbD i = true →
    (1 : BitVec 4096).getLsbD i = true ∨ (2 : BitVec 4096).getLsbD i = true := by
  intro i _ h
  have e : cmd0.group 0 = 1 ||| 2 := by decide +kernel
  simpa only [e, BitVec.getLsbD_or, Bool.or_eq_true] using h

theorem wit_Resume : ((onCore (kP [] 1)).core 0).stall = none ∧ (coreForm (.fenceR 0 f0)).isSome = true ∧
    nx (.issueResume 0) (onCore { k0 with stall := some (.fenceR 0 f0) }) (onCore { k0 with pc := 8, cyc := 1 }) = true := by decide +kernel
def kDisp : Core := { phase := .ended, disp := some ⟨0x1000, 1, 2, 0x2000⟩, tok := 5, cyc := 77, epoch := 3, v := [(0, 1)], l1d := [1], accW := 3, g := [(9, 9)], p := 1, ret := [8] }
def dispState : State := { onCore kDisp with mem := [(sigA - 1, 9), (sigA, 7)] }
theorem wit_Dispatch : (dispState.core 0).disp = some ⟨0x1000, 1, 2, 0x2000⟩ ∧ dispState.flipArmed 3 0 = false ∧
    ok (.dispatch 0) dispState (fun t => decide (t.mem = [(sigA - 1, 9)]) && decide (t.core 0 =
      { phase := .running, pc := 0x1000, cyc := 0, epoch := 3, g := [(2, 1), (3, 2), (4, 0x2000)] })) = true := by decide +kernel

/-- The word of FENCE.L (opcode 0x78 in bits 63:56) issues from memory; word 0, whose opcode is reserved, stops the core. -/
theorem wit_Resume_word : coreInstr 0 0x7800000000000000 0 = some (.fenceL 0 f0) ∧
    ok (.issueResume 0) { onCore k0 with mem := [(7, 0x78)] } (fun t => decide (t.core 0 = { k0 with pc := 8, cyc := 1 })) = true ∧
    (onCore k0).canIssue 0 false = true ∧ coreInstr 0 0 0 = none ∧
    ok (.issueResume 0) (onCore k0) (fun t => decide (t.core 0 = k0.halted 1)) = true := by decide +kernel
theorem wit_Drain : nx (.stopDrainDone 0) (onCore { k0 with phase := .draining, chHalt := 5 }) (onCore { k0 with phase := .stopped }) = true ∧
    nx (.stopDrainDone 0) (onCore { k0 with phase := .draining, run := [oClr] }) (onCore { k0 with phase := .draining, run := [oClr] }) = true := by
  decide +kernel
theorem wit_CoreEnd : ({ k0 with phase := .ending } : Core).tok = 0 ∧ (onCmd { k0 with phase := .ending } cmd0).rigOfCore 0 = some 0 ∧
    ok (.coreEndReport 0) (onCmd { k0 with phase := .ending } cmd0) (fun t => decide (t.core 0 = { k0 with phase := .ended }) &&
      decide ((t.rig 0).running = some { cmd0 with ended := 1 })) = true := by decide +kernel
def sDown : State := { State.reset with cores := [(17, { k0 with run := [oClr], posted := [pSt] })] }
theorem wit_MarkedDown : sDown.rigOfCore 17 = none ∧ (sDown.core 17).down = false ∧
    ok (.coreMarkedDown 17) sDown (fun t => (t.core 17).down && decide ((t.core 17).run = []) && decide ((t.core 17).posted = []) &&
      decide ((t.core 17).phase ≠ .running) && t.evt.pend.getLsbD 1028 && nx (.coreMarkedDown 17) t t) = true := by decide +kernel

def kStop : Core := { k0 with phase := .stopped, stop := some ⟨6, 0x40⟩ }
def sStop : State := { onCmd kStop cmd0 with cores := [(0, kStop), (1, { k0 with pc := 0x80 })] }
theorem wit_StopReport : sStop.rigOfCore 0 = some 0 ∧ (sStop.core 0).stop = some ⟨6, 0x40⟩ ∧ cmd0.cores.getLsbD 0 = true ∧ cmd0.stopped.getLsbD 0 = false ∧
    tabWf {} sStop.cores = true ∧ (sStop.core 1).disp = none ∧
    ok (.stopReport 0) sStop (fun t => decide ((t.rig 0).running = some { cmd0 with stopped := 1, rep := some (0, ⟨6, 0x40⟩) }) &&
      decide (t.core 1 = { k0 with pc := 0x80, phase := .draining, stop := some ⟨12, 0x80⟩ })) = true := by decide +kernel

/-- Reports of one tick: FAULT_DOWN (cause 0x0B) ranks above a fault of cause 6, and of two causes 6 the lower core's is kept; a report of a
later tick changes nothing. -/
def sRank (c : Nat) (cause : Nat) (rep : Option (Nat × Stop)) (at_ : Nat) : State :=
  { onCmd kStop { cmd0 with stopped := if c = 0 then 2 else 1, rep := rep, repAt := at_ } with cores := [(c, { kStop with stop := some ⟨cause, 0x48⟩ })] }
theorem wit_StopReport_rank :
    ok (.stopReport 1) (sRank 1 11 (some (0, ⟨6, 0x40⟩)) 0) (fun t => decide (((t.rig 0).running.bind (·.rep)) = some (1, ⟨11, 0x48⟩))) = true ∧
    ok (.stopReport 0) (sRank 0 6 (some (1, ⟨6, 0x40⟩)) 0) (fun t => decide (((t.rig 0).running.bind (·.rep)) = some (0, ⟨6, 0x48⟩))) = true ∧
    ok (.stopReport 1) (sRank 1 11 (some (0, ⟨6, 0x40⟩)) 5) (fun t => decide (((t.rig 0).running.bind (·.rep)) = some (0, ⟨6, 0x40⟩))) = true := by decide +kernel

theorem wit_PostedStore : lockerSize = 0x13FFFC + 4 ∧ (onCore k0).flipArmed 3 1 = false ∧
    ok (.storeAcknowledgement 0) (onCore (kP [{ p := .store (lockerAddr 1 0x13FFFC) [1, 2, 3, 4] }, pEv] 0)) (fun t =>
      decide (mread t.mem (lockerAddr 1 0x13FFFC) 4 = [1, 2, 3, 4]) && decide (t.mem.length = 4) && decide ((t.core 0).posted = [pEv])) = true := by decide +kernel
theorem wit_PostedSignal : (onCore k0).mark (lockerAddr 1 signalOff) = .none ∧
    ok (.signalOrArrival 0) { onCore (kP [{ p := .orTo 1 0x8005 }, { p := .orTo 1 2 }] 0) with mem := [(lockerAddr 1 signalOff, 0xF0)] } (fun t =>
      decide (t.mem = [(lockerAddr 1 signalOff, 0xF5), (lockerAddr 1 signalOff + 1, 0x80)]) && decide (t.core 0 = kP [{ p := .orTo 1 0x8005, done := true }, { p := .orTo 1 2 }] 0)) = true ∧
    ok (.storeAcknowledgement 0) (onCore (kP [{ pEv with done := true }, pEv] 0)) (fun t => decide (t.core 0 = kP [pEv] 0)) = true ∧
    ok (.signalOrArrival 0) (onCore (kP [pEv] 0)) (fun t => decide (tget 0 t.evt.cause 0 = 16) && decide ((t.core 0).posted = [{ pEv with done := true }])) = true := by
  decide +kernel
def nextState : State := onCore (kP [{ p := .store (lockerAddr 1 0) [1] }, { p := .store (lockerAddr 1 8) [2] }, { p := .store (tileAddr 0 0) [3] }] 0)
/-- Of two stores to one locker the first is next; a store to another locker may pass both. -/
theorem wit_PostedWrites_next :
    nextState.postDest (.store (lockerAddr 1 0) [1]) = nextState.postDest (.store (lockerAddr 1 8) [2]) ∧
    nextState.postDest (.store (lockerAddr 1 0) [1]) ≠ nextState.postDest (.store (tileAddr 0 0) [3]) ∧
    nextState.nextPost 0 (fun p => p.p == .store (lockerAddr 1 8) [2]) = none ∧
    nextState.nextPost 0 (fun p => p.p == .store (tileAddr 0 0) [3]) = some 2 := by decide +kernel

/-! ### O23 to O28 -/

def ln0 : Line := { slice := 0, set := 0, way := 0, valid := 0x8001, dirty := 0, flag := false }
def llcState (x : Line) : State := { onCore k0 with mem := [(0x403, 7), (0x7FF, 8)], llc := { lines := [(1, x)] } }
def rq (a : Nat) (op : LlcOp) : LlcReq := { who := .core 0, cls := 1, a := a, op := op }
theorem wit_LlcHit : (llcState ln0).llcReqOk (rq 0x7FC (.read 4)) = true ∧ (llcState ln0).snoopLines (rq 0x7FC (.read 4)) = [] ∧
    (llcState ln0).llcReqOk (rq 0x400 (.write [1, 2])) = true ∧ (llcState ln0).snoopLines (rq 0x400 (.write [1, 2])) = [] ∧
    (llcState ln0).line 1 = some ln0 ∧ sectorsOf 0x7FC 4 &&& ~~~ln0.valid = 0 ∧ sectorsOf 0x400 2 &&& ~~~ln0.valid = 0 ∧
    (llcState ln0).ras.flipTgt.getLsbD 63 = false ∧
    (∀ i : Fin 16, (llcState ln0).mark (sectorAddr 1 i) = .none) ∧
    ok (.llcRequest (.core 0) 1 0x7FC (.read 4)) (llcState ln0) (fun t => decide (t.llc.out = some ([0, 0, 0, 8], false)) &&
      decide (t.mem = (llcState ln0).mem) && decide (t.llc.hits = [(1, 1)]) && decide (t.llc.misses = [])) = true ∧
    ok (.llcRequest (.core 0) 1 0x400 (.write [1, 2])) (llcState ln0) (fun t => decide (t.llc.out = none) &&
      decide (t.mem = [(0x400, 1), (0x401, 2), (0x403, 7), (0x7FF, 8)]) && decide (t.llc.setW = [0]) && decide (t.llc.acks = [1]) && decide (t.llc.hits = [(1, 1)])) = true ∧
    ok (.llcRequest (.core 0) 1 0x400 (.write [1, 2])) (llcState { ln0 with flag := true }) (fun t => decide (t.llc.setW = []) &&
      decide (t.llc.out = some ([], false))) = true ∧
    ((llcState ln0).inWay 0 0 0).length ≤ 1 ∧ (llcState ln0).llc.dir = [] ∧ (llcState ln0).llc.splits = [] := by decide +kernel
theorem wit_LlcMiss : (llcState ln0).llcReqOk (rq 0x800 (.read 64)) = true ∧ (llcState ln0).snoopLines (rq 0x800 (.read 64)) = [] ∧
    (llcState ln0).line 2 = none ∧
    ok (.llcRequest (.core 0) 1 0x800 (.read 64)) (llcState ln0) (fun t => decide (t.llc.fills.map (fun f => (f.line, f.req)) = [(2, { rq 0x800 (.read 64) with counted := true })]) &&
      decide (t.mem = (llcState ln0).mem) && decide (t.llc.misses = [(1, 1)]) && decide (t.llc.hits = [])) = true := by decide +kernel

def fillState : State := { llcState ln0 with gran := [(0, .written)], llc := { lines := [(1, ln0)], fills := [⟨2, none, rq 0xBFF (.read 1)⟩] } }
theorem wit_FillReturn : (0xBFF + 1 - 1) / 1024 = 2 ∧ fillState.line 2 = none ∧ place 0xBFF = .hbm ∧ fillState.granAt 0xBFF = .written ∧
    (∀ i : Fin 16, fillState.mark (sectorAddr 2 i) = .none ∧ (fillState.chan (chanUnit (sectorAddr 2 i))).lost = false) ∧
    ok (.llcFillReturn 2) fillState (fun t => decide (t.llc.out = some ([0], false)) && decide (t.llc.fills = []) && decide (t.llc.lines = fillState.llc.lines)) = true ∧
    nx (.llcFillReturn 1) fillState fillState = true := by decide +kernel

def setWState : State := { llcState ln0 with llc := { lines := [(1, ln0), (4, ln0)], setW := [0], setR := [1], acks := [4] } }
theorem wit_SetWritten : setWState.llc.setW.contains 0 = true ∧ setWState.llc.setR.contains 1 = true ∧ setWState.llc.setW.contains 1 = false ∧
    ok (.setWritten 0) setWState (fun t => decide (t.gran = [(0, .written)]) && decide (t.llc.setW = []) && t.llc.setR.contains 0) = true ∧
    nx (.setWritten 1) setWState setWState = true ∧ nx (.setWrittenReply 0) setWState setWState = true ∧
    ok (.setWrittenReply 1) setWState (fun t => decide (t.llc.lines = [(1, ln0), (4, { ln0 with flag := true })]) && decide (t.llc.acks = []) && decide (t.llc.out = some ([], false)) && decide (t.llc.setR = [])) = true := by decide +kernel
def deadState : State := { llcState { ln0 with dirty := 1 } with gran := [(0, .written), (1, .written)], errs := [(0x400, .ue)], llc := { lines := [(3, ln0), (4, ln0)], dir := [⟨63, true, 1, 0⟩, ⟨64, true, 2, 0⟩] } }
theorem wit_DeadDrop : place (4096 * 0) = .hbm ∧ place (4096 * (tileAddr 0 0 / 4096)) ≠ .hbm ∧
    ok (.deadDrop 0) deadState (fun t => decide (t.llc.lines = [(4, ln0)]) && decide (t.llc.snoops = [63]) && decide (t.llc.frees = [63]) && decide (t.llc.heldG = [0]) &&
      nx (.deadMarkAck 0) t t && ok (.hostSnoopResponse 0xFC0 none) t fun t' => decide (t'.llc.dir = [⟨64, true, 2, 0⟩]) && ok (.deadMarkAck 0) t' fun u => decide (u.gran = [(0, .dead), (1, .written)]) && decide (u.mem = []) && decide (u.errs = []) && decide (u.llc.heldG = [])) = true ∧
    nx (.deadDrop (tileAddr 0 0 / 4096)) deadState deadState = true ∧ nx (.deadMarkAck 0) deadState deadState = true := by decide +kernel

def redReq (a : Nat) (op : Fin 4) (x : BitVec 32) : LlcReq := { who := .core 0, cls := 4, a := a, op := .red ⟨op, true, [x]⟩ }
def redState (op : Fin 4) (x : BitVec 32) : State := { llcState ln0 with llc := { lines := [(1, { ln0 with valid := 1 })], reds := [(1, redReq 0x400 op x)] } }
theorem wit_Reduction : (redState 0 1).line 1 = some { ln0 with valid := 1 } ∧ sectorsOf 0x400 4 &&& ~~~(1 : BitVec 16) = 0 ∧
    (∀ i : Fin 16, (redState 0 1).mark (sectorAddr 1 i) ≠ .ue) ∧ (redState 0 1).ras.flipTgt.getLsbD 63 = false ∧
    ok (.reductionApply 1) (redState 0 0xF9000000) (fun t => decide (t.mem = [(0x7FF, 8)]) && decide (t.llc.reds = [])) = true ∧
    ok (.reductionApply 1) (redState 1 0xFF000000) (fun t => decide (t.mem = [(0x403, 7), (0x7FF, 8)])) = true ∧
    ok (.reductionApply 1) (redState 2 0xFF000000) (fun t => decide (t.mem = [(0x403, 0xFF), (0x7FF, 8)])) = true := by decide +kernel
def fwdState : State := { llcState ln0 with gran := [(0, .written)], llc := { fwd := [(1, redReq 0x400 0 0x0A000005)] } }
theorem wit_ForwardAck : fwdState.granAt 0x400 = .written ∧ fwdState.mark (wordOf 0x400) = .none ∧ (fwdState.chan (chanUnit 0x400)).lost = false ∧
    ok (.forwardAck 1) fwdState (fun t => decide (t.mem = [(0x400, 5), (0x403, 17), (0x7FF, 8)]) && decide (t.llc.fwd = []) && decide (t.llc.out = some ([], false))) = true := by decide +kernel

def snoopState : State := { llcState ln0 with llc := { lines := [(1, ln0)], snoops := [16], dir := [⟨16, true, 3, 0⟩] } }
theorem wit_HostSnoop : snoopState.llc.snoops.contains (0x43F / 64) = true ∧ snoopState.llc.snoops.contains (0x440 / 64) = false ∧ snoopState.line 1 = some ln0 ∧
    ok (.hostSnoopResponse 0x43F (some 0x0201)) snoopState (fun t => decide (t.mem = [(0x400, 1), (0x401, 2), (0x7FF, 8)]) && decide (t.llc.dir = [⟨16, false, 3, 0⟩]) &&
      decide (t.llc.snoops = [])) = true ∧
    nx (.hostSnoopResponse 0x440 (some 1)) snoopState snoopState = true := by decide +kernel
theorem wit_HotWindow : ok (.hotSliceWindowEnd 127 50) { State.reset with hot := ⟨false, 0, 0xFFFF, 0⟩ } (fun t =>
      decide (t.hot = ⟨true, 127, 0xFFFF, 50⟩) && t.evt.pend.getLsbD 12) = true ∧
    nx (.hotSliceWindowEnd 127 49) State.reset State.reset = true ∧
    ok (.streamTrackerRelease 2 (.core 1)) { State.reset with llc := { trk := [⟨2, .core 1, 0, 1, false, 0⟩, ⟨3, .core 1, 0, 1, false, 0⟩] } } (fun t =>
      decide (t.llc.trk = [⟨3, .core 1, 0, 1, false, 0⟩])) = true := by decide +kernel

def lockState : State := { onCore k0 with mem := [(lockerAddr 1 0x13FFFF, 6)] }
theorem wit_LockerRemote : lockState.rigOfCore 0 = lockState.rigOfCore 1 ∧ (lockState.rigOfCore 1).isSome = true ∧ (lockState.core 1).down = false ∧
    0x13FFFF + 1 ≤ lockerSize ∧ (∀ w ∈ wordsOf (lockerAddr 1 0x13FFFF) 1, lockState.mark w = .none) ∧ lockState.flipArmed 3 1 = false ∧
    nx (.lockerRemoteAccess (.core 0) 1 0x13FFFF (.read 1)) lockState { lockState with rsp := some ([6], false) } = true ∧
    nx (.lockerRemoteAccess (.core 2) 1 0 (.read 1)) lockState lockState = true ∧
    ok (.lockerRemoteAccess .host 1 0 (.write [3])) lockState (fun t => decide (t.mem = [(lockerAddr 1 0, 3), (lockerAddr 1 0x13FFFF, 6)])) = true := by decide +kernel
theorem wit_LockerRemote_down : (downState.core 1).down = true ∧
    ok (.lockerRemoteAccess .host 1 0 (.read 4)) downState (fun t => decide (t.rsp.map (·.2) = some true)) = true := by decide +kernel
def l1State : State := { onCore k0 with mem := [(tileAddr 0 0x1FF, 3), (tileAddr 0 0x200, 4)], gran := [(tileAddr 0 0 / 4096, .written)] }
theorem wit_L1Fill : l1State.mayAddr 0 (tileAddr 0 0x180) = true ∧ place (tileAddr 0 0x180) = .tile 0 0x180 ∧ l1State.granAt (tileAddr 0 0x180) = .written ∧
    (∀ w ∈ wordsOf (tileAddr 0 0x100) 256, l1State.mark w = .none) ∧ l1State.flipArmed 5 0 = false ∧
    ok (.l1Fill 0 false (tileAddr 0 0x180)) l1State (fun t => decide ((t.core 0).l1d = [tileAddr 0 0x100 / 256]) &&
      decide ((t.core 0).l1Data = [(tileAddr 0 0x1FF, 3)]) && decide (t.mem = l1State.mem)) = true := by decide +kernel

/-! ### O29 to O36 -/

def tA (o : Nat) : Nat := tileAddr 0 o
def tileSt (t : Tile) (banks : Tab Bank) : State :=
  { onCore k0 with mem := [(tA 0x7FFFFF, 3), (tA 0x800000, 4)], gran := [(tA 0 / 4096, .written), (tA 0x7FFFFF / 4096, .written), (tA 0x800000 / 4096, .written)], tiles := [(0, t)], banks := banks }
theorem wit_TileRequest : 0x8000000 < 0x7FFFFFF + 2 ∧ 0x7FFFFF / 0x800000 ≠ (0x7FFFFF + 2 - 1) / 0x800000 ∧
    nx (.tileRequest 0 true 0x7FFFFFF (.read 2)) (tileSt { half := true } []) (tileSt { half := true } []) = true ∧
    nx (.tileRequest 0 true 0x7FFFFF (.read 2)) (tileSt { half := true } []) (tileSt { half := true } []) = true ∧
    (∀ w ∈ wordsOf (tA 0x7FFFFF) 1, (tileSt {} []).granAt w = .written ∧ (tileSt {} []).mark w = .none) ∧
    nx (.tileRequest 0 false 0x7FFFFF (.read 1)) (tileSt { half := true } []) (tileSt { half := true, out := some ([3], false), openRow := [(0, some 4095)] } []) = true ∧
    nx (.tileRequest 0 true 0x7FFFFF (.read 1)) (tileSt { refr := 1 } []) (tileSt { refr := 1, mq := [{ off := 0x7FFFFF, op := .read 1, mesh := true }] } []) = true ∧
    ok (.tileRequest 0 true 0x800000 (.write [9])) (tileSt { refr := 1 } []) (fun t => decide (t.mem = [(tA 0x7FFFFF, 3), (tA 0x800000, 9)]) &&
      decide ((t.tile 0).out = some ([], false))) = true := by decide +kernel

def bRun (w : BitVec 64) : BankRun := { w := w, src := 0, dst := 0, n := 16, exb := 0, pat := 0x0807060504030201, cdst := 0, fmt := 0 }
def busyB : Bank := { unit := true, run := some (bRun 4) }
theorem wit_Refresh : busyB.busy = true ∧ ({} : Bank).busy = false ∧
    nx (.refreshDue 0 15) (tileSt { half := true, openRow := [(15, some 2)] } []) (tileSt { half := true, refr := 0x8000 } []) = true ∧
    nx (.refreshDue 0 1) (tileSt {} [(1, { busyB with owed := 2 })]) (tileSt {} [(1, { busyB with owed := 2 })]) = true ∧
    nx (.refreshDue 0 1) (tileSt {} [(1, busyB)]) (tileSt {} [(1, { busyB with owed := 1 })]) = true ∧
    nx (.refreshEnd 0 1) (tileSt { refr := 1 } []) (tileSt { refr := 1 } []) = true ∧
    nx (.refreshEnd 0 1) (tileSt { half := true, refr := 2 } [(1, { busyB with owed := 1, slice := true })]) (tileSt { half := true } [(1, busyB)]) = true ∧
    ok (.refreshEnd 0 0) (tileSt { half := true, refr := 1 } [(0, { busyB with fin := some 0, owed := 1 })]) (fun t => decide ((t.bank 0 0).run = none) &&
      decide ((t.bank 0 0).err = 0)) = true ∧
    nx (.rowClose 0 15) (tileSt { half := true, openRow := [(14, some 1), (15, some 2)] } []) (tileSt { half := true, openRow := [(14, some 1)] } []) = true := by decide +kernel
/-- 84.0 degrees and six more for fully busy units is 90; half busy units add three. -/
theorem wit_RefreshInterval : ((tileSt {} []).yard 0).tsusp = false ∧
    ok (.trefiWindowEnd 0 840 8000000) (tileSt {} []) (fun t => (t.tile 0).fast) = true ∧
    ok (.trefiWindowEnd 0 820 4000000) (tileSt {} []) (fun t => !(t.tile 0).fast) = true ∧
    ok (.trefiWindowEnd 0 820 4000000) (tileSt { fast := true } []) (fun t => (t.tile 0).fast) = true ∧
    ok (.trefiWindowEnd 0 830 0) (tileSt { fast := true } []) (fun t => !(t.tile 0).fast) = true ∧
    ok (.hbmTrefiWindowEnd 255 850) State.reset (fun t => !(t.chan 255).fast) = true ∧
    ok (.hbmTrefiWindowEnd 255 851) State.reset (fun t => (t.chan 255).fast) = true := by decide +kernel
theorem wit_Duty : nx (.dutyLimitReached 0) (tileSt { dl := 15 } []) (tileSt { dl := 15, dutyHit := true } []) = true ∧
    nx (.dutyLimitReached 0) (tileSt { half := true } []) (tileSt { half := true } []) = true ∧
    nx (.dutyWindowStart 0) (tileSt { half := true, dutyHit := true } [(15, { busyB with paused := true }), (16, { busyB with paused := true })])
      (tileSt { half := true } [(15, busyB), (16, { busyB with paused := true })]) = true := by decide +kernel

theorem wit_HalyardWire : tget 0 ([(543, 6)] : Tab Nat) 543 + 1 < 8 ∧
    nx (.halyardCrcRetry 0 1 271 5) (tileSt { win := 5, wireErr := [(543, 6)] } []) (tileSt { win := 5, wireErr := [(543, 7)] } []) = true ∧
    nx (.halyardCrcRetry 0 1 271 6) (tileSt { win := 5, wireErr := [(543, 7)] } []) (tileSt { win := 6, wireErr := [(543, 1)] } []) = true ∧
    ok (.halyardCrcRetry 0 1 271 5) (tileSt { win := 5, wireErr := [(543, 7)] } []) (fun t => decide ((t.tile 0).wireBad = [(543, true)]) && !(t.core 0).down &&
      (t.tile 0).dirUp 1) = true := by decide +kernel
/-- With nine failed wires in one group and eight in the other, the next failure of the second group takes the core down. -/
theorem test_halyard_down : ok (.halyardCrcRetry 0 0 144 5) (tileSt { win := 5, half := true, wireErr := [(144, 7)], wireBad := (List.range 9).map (fun i => (i, true)) ++ (List.range 8).map (fun i => (136 + i, true)) } []) (fun t => (t.core 0).down) = true := by
  decide +kernel
def repSt (sp : Nat) : State := { tileSt { spare := [(1, sp)], log := [⟨bankAddr 0 1 0, 1⟩, ⟨bankAddr 0 1 64, 1⟩] } [] with errs := [(bankAddr 0 1 64, .ce 3)], yards := [(0, { work := 0xFFFF })] }
theorem wit_RowRepair : (repSt 63).posOf 0 = some 0 ∧ (repSt 63).repairFree 0 = true ∧ ((repSt 63).tile 0).wantsRepair (bankAddr 0 1 0) = true ∧
    ((repSt 63).tile 0).wantsRepair (bankAddr 0 1 (2048 * 4095)) = false ∧ tget 0 ((repSt 63).tile 0).spare 1 < 64 ∧
    64 ≤ tget 0 ((repSt 64).tile 0).spare 1 ∧
    nx (.rowRepair 0 1 4095) (repSt 63) (repSt 63) = true ∧
    ok (.rowRepair 0 1 0) (repSt 64) (fun t => t.evt.pend.getLsbD 258 && decide ({ t with evt := (repSt 64).evt } = repSt 64)) = true ∧
    ok (.rowRepair 0 1 0) (repSt 63) (fun t => decide ((t.tile 0).spare = [(1, 64)]) && decide ((t.tile 0).log = []) && decide (t.errs = []) &&
      decide (t.mem = (repSt 63).mem) && t.failures.contains (1, 4096)) = true := by decide +kernel
def planned : State := { repSt 0 with rigs := [(0, { rig0 with plan := [{ r := { l1 := [7, 0, 1] } }] })] }
theorem wit_RowRepair_busy : planned.repairFree 0 = false ∧ nx (.rowRepair 0 1 0) planned planned = true := by decide +kernel

def chSt (k : Hbm) : State := { onCore k0 with hbm := [(255, k)] }
theorem wit_Hbm : (if (5 : Nat) = 5 then 63 + 1 else 1) ≠ 65 ∧
    nx (.hbmParityError 255 5) (chSt { win := 5, retries := 63 }) (chSt { win := 5, retries := 64 }) = true ∧
    ok (.hbmParityError 255 5) (chSt { win := 5, retries := 64 }) (fun t => decide (t.chan 255 = { win := 5, retries := 65, training := true }) &&
      t.evt.pend.getLsbD 260) = true ∧
    nx (.hbmChannelRetrain 255 true false) (chSt { win := 5, training := true, retries := 65 }) (chSt { win := 5 }) = true ∧
    nx (.hbmChannelRetrain 255 true false) (chSt { win := 5, retries := 65 }) (chSt { win := 5, retries := 65 }) = true ∧
    ok (.hbmChannelRetrain 255 true true) (chSt { win := 5, training := true, retries := 65 }) (fun t => decide (t.chan 255 = { win := 5, lost := true }) &&
      decide (t.boot.gen = 1) && t.evt.pend.getLsbD 260) = true := by decide +kernel
def chF : State := { fillState with hbm := [(chanUnit 0xBFF, { training := true })] }
theorem wit_HbmRequest : (chF.chan (chanUnit 0xBFF)).training = true ∧ (fillState.chan (chanUnit 0xBFF)).training = false ∧ fillState.pwr.emerg = false ∧
    nx (.hbmChannelRequest 0xBFF .fill) chF chF = true ∧ place 0xBFF = .hbm ∧
    ok (.hbmChannelRequest 0xBFF .fill) fillState (fun t => decide (t.llc.fills = [])) = true := by decide +kernel

theorem wit_BankMode : nx (.bankmodeWrite 1 0xFFFF) downState downState = true ∧ (downState.core 1).down = true ∧
    nx (.bankmodeWrite 0 0x80010001) (tileSt { half := true, mq := [{ off := 0, op := .read 1, mesh := true }, { off := 0x800000, op := .read 1, mesh := true }] } [(15, { unit := true })])
      (tileSt { half := true, mq := [{ off := 0, op := .read 1, mesh := true, before := true }, { off := 0x800000, op := .read 1, mesh := true }] }
        [(0, { pend := some true }), (15, { unit := true, pend := some false })]) = true := by decide +kernel
theorem wit_BankModeEffect : (∀ q ∈ ([{ off := 0x800000, op := .read 1 }] : List TileReq), q.off / 0x800000 ≠ 0) ∧
    nx (.bankUnitModeEffect 0 0) (tileSt { cq := [{ off := 0x800000, op := .read 1 }] } [(0, { pend := some true })]) (tileSt { cq := [{ off := 0x800000, op := .read 1 }] } [(0, { unit := true })]) = true ∧
    nx (.bankUnitModeEffect 0 0) (tileSt { cq := [{ off := 5, op := .read 1 }] } [(0, { pend := some true })]) (tileSt { cq := [{ off := 5, op := .read 1 }] } [(0, { unit := true })]) = true ∧
    nx (.bankUnitModeEffect 0 0) (tileSt { cq := [{ off := 5, op := .read 1, before := true }] } [(0, { pend := some true })]) (tileSt { cq := [{ off := 5, op := .read 1, before := true }] } [(0, { pend := some true })]) = true ∧
    nx (.bankUnitModeEffect 0 0) (tileSt {} [(0, { pend := some false })]) (tileSt {} [(0, { pend := some false })]) = true ∧
    nx (.bankNormalModeEffect 0 0) (tileSt {} [(0, { pend := some true })]) (tileSt {} [(0, { pend := some true })]) = true ∧
    ok (.bankNormalModeEffect 0 0) (tileSt {} [(0, { busyB with pend := some false })]) (fun t => !(t.bank 0 0).unit && decide ((t.bank 0 0).run = none) &&
      decide ((t.bank 0 0).err = 4) && decide ((t.bank 0 0).pend = none)) = true ∧
    ok (.bankNormalModeEffect 0 0) (tileSt {} [(0, { unit := true, err := 7, pend := some false })]) (fun t => decide ((t.bank 0 0).err = 7)) = true := by decide +kernel

/-- The instruction of an opcode and its command word. -/
def bankI (n : Nat) (w : BitVec 64) : Instr := match n with
  | 1 => .xpop 0 0 w | 2 => .i8dot 0 0 w | 3 => .sumred 0 0 w | 4 => .bankFill 0 0 w | 5 => .bankCopy 0 0 w | 6 => .topk32 0 0 w | 7 => .chain 0 0 w | _ => .bitset 0 0 w
def ops1 : Tab (BitVec 64) := [(2, 16)]
def bankSt (k : Bank) : State := tileSt {} [(0, k)]
/-- Of each opcode, its plain word is taken: SEQ advances, the unit runs it; with the low bank mode off it is refused with 6. -/
theorem wit_BankCommands : ((List.range 8).all fun j => let w : BitVec 64 := BitVec.ofNat 64 (j + 1)
    !cmdBad w && decide (cOpc w = j + 1) && operandsOk (match j with | 6 => { (bRun w) with chain := [0] } | _ => bRun w) 0 &&
    ok (bankI (j + 1) w) (bankSt { unit := true, op := ops1, err := 3 }) (fun t => decide ((t.bank 0 0).seq = 1) && decide ((t.bank 0 0).err = 0) &&
      decide ((t.bank 0 0).run.map (fun r => (r.w, r.n)) = some (w, 16)) && decide ((t.bank 0 0).opc = BitVec.ofNat 8 (j + 1))) &&
    ok (bankI (j + 1) w) (bankSt { op := ops1 }) (fun t => decide (t.banks = [(0, { op := ops1, err := 6 })]) && decide ((t.tile 0).gangs = if j = 6 then 1 else 0)) &&
    nx (bankI (j + 1) (w ||| 0x0000800000000000)) (bankSt { unit := true, op := ops1 }) (bankSt { unit := true, op := ops1, err := 1 })) = true := by decide +kernel
theorem wit_BankCommands_queue : cmdBad 4 = false ∧ (4 : BitVec 64).extractLsb' 48 16 = 0 ∧
    nx (.bankFill 0 0 4) (bankSt { busyB with op := ops1, err := 3 }) (bankSt { busyB with op := ops1, queued := some (4, []), seq := 1 }) = true ∧
    nx (.bankFill 0 0 4) (bankSt { busyB with queued := some (3, []) }) (bankSt { busyB with queued := some (3, []), err := 5 }) = true ∧
    operandsOk { bRun 4 with n := 9 } 0 = false ∧
    ok (.bankFill 0 0 4) (bankSt { unit := true, op := [(2, 9)] }) (fun t => decide ((t.bank 0 0).run = none) && decide ((t.bank 0 0).err = 2) && decide ((t.bank 0 0).seq = 1)) = true := by
  decide +kernel

def fillR : BankRun := { bRun 4 with dst := 0x7FFFF0, n := 16 }
theorem wit_BankFill : (bankSt { busyB with run := some fillR }).unitGoes 0 0 = true ∧ fillR.dst % 8 = 0 ∧ fillR.dst + fillR.n ≤ 0x800000 ∧
    (∀ j : Fin 16, (bankSt { busyB with run := some fillR }).granAt (bankAddr 0 0 (fillR.dst + j)) = .written) ∧
    ok (.bankUnitCommandEnd 0 0) (bankSt { busyB with run := some fillR }) (fun t => decide (mread t.mem (tA 0x7FFFEF) 18 =
      [0, 1, 2, 3, 4, 5, 6, 7, 8, 1, 2, 3, 4, 5, 6, 7, 8, 4]) && decide ((t.bank 0 0).run = none) && decide ((t.bank 0 0).err = 0)) = true := by decide +kernel
def sumR : BankRun := { bRun 3 with src := 0, n := 2 }
def sumSt : State := { bankSt { busyB with run := some sumR } with mem := [(tA 0, 5), (tA 4, 0xF0), (tA 5, 0xFF), (tA 6, 0xFF), (tA 7, 0xFF)] }
theorem wit_BankSum : cmdBad sumR.w = false ∧ sumR.fmt = 0 ∧ sumR.src + 4 * sumR.n ≤ 0x800000 ∧
    (∀ j : Fin 8, sumSt.granAt (bankAddr 0 0 (sumR.src + j)) = .written ∧ sumSt.mark (wordOf (bankAddr 0 0 (sumR.src + j))) = .none) ∧
    ok (.bankUnitCommandEnd 0 0) sumSt (fun t => decide ((t.bank 0 0).result = BitVec.ofInt 64 (-11)) && decide ((t.bank 0 0).run = none) &&
      decide (t.mem = sumSt.mem)) = true := by decide +kernel

theorem wit_BankAbort : busyB.busy = true ∧ ok (.bankUnitAbort 0 0) (bankSt { busyB with queued := some (4, []) }) (fun t =>
      decide (t.bank 0 0 = { busyB with abort := true }) && ok (.safePoint 0 0 0) t fun u => decide ((u.bank 0 0).run = none) && decide ((u.bank 0 0).err = 4) &&
      decide (u.mem = (bankSt {}).mem)) = true ∧
    ok (.bankUnitAbort 0 0) (bankSt { busyB with run := some { bRun 7 with chain := [1, 0], waiting := true } }) (fun t => decide ((t.bank 0 0).run = none) &&
      decide ((t.bank 0 0).err = 4)) = true ∧
    nx (.bankUnitAbort 1 0) downState downState = true ∧
    ok (.queuedCommandStart 0 0) (bankSt { unit := true, op := ops1, queued := some (4, []) }) (fun t => decide ((t.bank 0 0).queued = none) &&
      decide ((t.bank 0 0).run = some { bRun 4 with pat := 0 })) = true := by decide +kernel
theorem wit_SafePoint : (bankSt {}).unitGoes 0 0 = false ∧ nx (.safePoint 0 0 5) (bankSt { unit := true }) (bankSt { unit := true }) = true ∧
    nx (.safePoint 0 0 0) (tileSt { dutyHit := true } [(0, busyB)]) (tileSt { dutyHit := true } [(0, { busyB with paused := true })]) = true := by decide +kernel
def chainR : BankRun := { bRun 7 with chain := [1, 0], waiting := true }
theorem wit_Chain : chainR.chain.getLast? = some 0 ∧ chainR.chain.Nodup ∧ cQ chainR.w = 1 ∧
    ok (.chainStreamArrival 0 0) (bankSt { busyB with run := some chainR, lists := [(0, [9])], inS := some (.lists [[12]]) }) (fun t =>
      decide ((t.bank 0 0).run = some { chainR with waiting := false }) &&
      decide ((t.bank 0 0).inS = some (.lists [[9, 12]]) ∨ (t.bank 0 0).inS = some (.lists [[12, 9]]))) = true ∧
    ({ chainR with chain := [0, 1] } : BankRun).chain.getLast? ≠ some 0 ∧
    ok (.chainBreak 0 0) (bankSt { busyB with run := some { chainR with chain := [0, 1] }, inS := some .broken }) (fun t => decide ((t.bank 0 0).run = none) &&
      decide ((t.bank 0 0).err = 7)) = true := by decide +kernel

/-! ### O37 to O40 -/

def row0 : Link := ⟨.row, 0⟩
def wSt (w : Wires) : State := { State.reset with net := { links := [(1, w)] } }
theorem wit_Flit : linkOk row0 = true ∧ 519 < linkWidth row0.kind + 8 ∧
    nx (.flitRetransmission row0 1 519 7) (wSt ⟨7, [(519, 6)], [3]⟩) (wSt ⟨7, [(519, 7)], [3]⟩) = true ∧
    ok (.flitRetransmission row0 1 519 7) (wSt ⟨7, [(519, 7)], [0, 1, 2, 3, 4, 5, 6]⟩) (fun t => decide (t.net = { links := [(1, ⟨7, [(519, 8)], [0, 1, 2, 3, 4, 5, 6, 519]⟩)] }) &&
      decide (t.failures = [(2, 4000000 + 4096 + 519)])) = true ∧
    ok (.flitRetransmission row0 1 519 7) (wSt ⟨7, [(519, 7)], [0, 1, 2, 3, 4, 5, 6, 8]⟩) (fun t => decide (t.net.half = [0])) = true := by decide +kernel
def lSt (l : List Nat) : State := { State.reset with net := { stays := [(1, ⟨0, [], l⟩)] } }
theorem wit_StayLane : nx (.stayLaneFailed 0 1 255) (lSt [255]) (lSt [255]) = true ∧
    ok (.stayLaneFailed 0 1 271) (lSt [255]) (fun t => decide ((tget {} t.net.stays 1).bad = [255, 271]) && decide (t.net.out = [(0, 0x8000)]) &&
      decide (t.boot.gen = 1) && t.evt.pend.getLsbD 776) = true ∧
    ok (.stayLaneFailed 0 1 239) (lSt [255]) (fun t => decide (t.net.out = []) && decide (t.boot.gen = 0)) = true := by decide +kernel
def rt0 : Router := ⟨true, 128⟩
theorem wit_RouterWindow : routerOk rt0 = true ∧ hasDir ⟨false, 864⟩ 4 = false ∧ nx (.routerWindowEnd ⟨false, 864⟩ [⟨4, 0, 0, 0⟩] 0) State.reset State.reset = true ∧ edgeIndex rt0 = some 0 ∧ busiest [⟨7, 89, 90, 100⟩] = 90 ∧
    ok (.routerWindowEnd rt0 [⟨7, 89, 90, 100⟩] 94) State.reset (fun t => t.net.hot && decide (t.net.hotcnt = 1) && t.evt.pend.getLsbD 13) = true ∧
    ok (.routerWindowEnd rt0 [⟨7, 89, 89, 100⟩] 95) State.reset (fun t => t.net.hot && decide (t.net.hotcnt = 1)) = true ∧
    ok (.routerWindowEnd rt0 [⟨7, 89, 89, 100⟩] 94) State.reset (fun t => !t.net.hot && decide (t.net.hotcnt = 0) && decide (t.net.loads = [(rt0, [⟨7, 89, 89, 100⟩], 94)])) = true := by decide +kernel
def holdSt : State := { State.reset with yards := [(255, { netHold := true })], rigs := [(3, { stay := 0xFFFFFFFF, cores := 1 <<< 4095, iv := [.netHold 3], fault := true })] }
theorem wit_Clocks : ok (.corePllLoss 255) State.reset (fun t => (List.range 16).all (fun j => (t.core (4080 + j)).down) && t.evt.pend.getLsbD 2044) = true ∧
    nx (.networkPllLoss 255) holdSt holdSt = true ∧ nx (.networkPllRelock 0 true) holdSt holdSt = true ∧
    ok (.networkPllLoss 254) { holdSt with yards := [] } (fun t => (t.yard 254).netHold && decide ((t.rig 3).iv = [.netHold 3])) = true ∧
    ok (.networkPllRelock 255 true) holdSt (fun t => !(t.yard 255).netHold && decide ((t.rig 3).iv = []) && !(t.rig 3).fault) = true ∧
    ok (.networkPllRelock 255 false) holdSt (fun t => (t.yard 255).netDown && (t.core 4095).down) = true ∧
    ok (.spreaderReferenceLoss 3) State.reset (fun t => decide (t.net.refLost = 8) && t.evt.pend.getLsbD 11) = true := by decide +kernel

def fltRig (iv : List HwFault) (f : Bool) : Rig := { rig0 with iv := iv, fault := f, plan := [{ w := 5 }] }
def fltSt (iv : List HwFault) (f : Bool) : State := { State.reset with rigs := [(0, fltRig iv f)] }
theorem wit_FaultInterval : (fltRig [] false).affected (.halyardHold 0) = true ∧ (fltRig [] false).affected (.halyardHold 2) = false ∧
    faultLasts (.halyardHold 0) = true ∧ faultLasts (.halyardHalf 0) = false ∧
    ok (.faultIntervalStart (.halyardHold 0)) (fltSt [] false) (fun t => decide (t.rig 0 = { (fltRig [] false).move with fault := true, iv := [.halyardHold 0] }) &&
      t.evt.pend.getLsbD 128) = true ∧
    ok (.faultIntervalStart (.halyardHalf 0)) (fltSt [] false) (fun t => (t.rig 0).fault && decide ((t.rig 0).iv = []) && (t.rig 0).plan.all (·.moved)) = true ∧
    ok (.faultIntervalStart (.halyardHold 2)) (fltSt [] false) (fun t => decide (t.rig 0 = (fltSt [] false).rig 0) && (t.tile 2).hold &&
      ok (.faultIntervalEnd (.halyardHold 2)) t fun u => decide (u = fltSt [] false)) = true ∧
    ok (.faultIntervalEnd (.halyardHold 0)) (fltSt [.halyardHold 1, .halyardHold 0] true) (fun t => decide ((t.rig 0).iv = [.halyardHold 1]) && (t.rig 0).fault) = true ∧
    ok (.faultIntervalEnd (.halyardHold 0)) (fltSt [.halyardHold 0] true) (fun t => decide ((t.rig 0).iv = []) && !(t.rig 0).fault) = true := by decide +kernel
def flSt (hold : Bool) : State := { fltSt [] false with rigs := [(0, { fltRig [] false with newPwr := some 7, plan := [{ hFloor := hold, hShare := hold }] })], pwr := { floor := 2000, newFloor := 1800 } }
theorem wit_FloorChange : ((flSt false).rig 0).freeFloor = true ∧ ((flSt true).rig 0).freeFloor = false ∧ (flSt false).pwr.newFloor ≠ 0 ∧
    ok .floorChangeEffect (flSt false) (fun t => decide (t.pwr.floor = 1800) && decide (t.pwr.newFloor = 0) && decide ((t.rig 0).pwr = 7) && decide ((t.rig 0).newPwr = none)) = true ∧
    ok .floorChangeEffect (flSt true) (fun t => decide (t.pwr = (flSt true).pwr) && decide ((t.rig 0).newPwr = some 7)) = true := by decide +kernel
theorem wit_FloorChange_all : ∀ r, r < 64 → ((flSt false).rig r).freeFloor = true := by decide +kernel
def shSt (n : Option Nat) : State := State.putAllFloors <| rdy { State.reset with pwr := { floor := 2400 }, rigs := [(0, { rig0 with pwr := 1000, plan := [{ r := { l1 := [7, 0, 1] } }] }), (63, { cores := 4, pwr := 1, newPwr := n })] }
theorem wit_PowerShare : (shSt none).bar0On (shareOff 63) = true ∧ ((shSt none).rig 63).worseAt 2400 24 = false ∧
    ok (.rigPwrShareWrite 63 24) (shSt none) (fun t => decide ((t.rig 63).pwr = 24) && decide (t.rig 0 = (shSt none).rig 0)) = true ∧
    nx (.rigPwrShareWrite 63 25) (shSt none) (shSt none) = true ∧ nx (.rigPwrShareWrite 63 1) { shSt none with boot := {} } { shSt none with boot := {} } = true := by decide +kernel
def wrSt : State := shSt none
theorem wit_PowerShare_worse : (wrSt.rig 0).worseAt 2400 0 = true ∧ (wrSt.rig 0).plan ≠ [] ∧ wrSt.bar0On (shareOff 0) = true ∧
    ok (.rigPwrShareWrite 0 0) wrSt (fun t => decide ((t.rig 0).pwr = 1000) && decide ((t.rig 0).newPwr = some 0)) = true := by decide +kernel

def stSt (k : Strm) : State := rdy { State.reset with rigs := [(0, rig0)], strms := [(0, k)], bar0 := [(strmOff 0 8, 6)] }
def stOn : Strm := { en := true, act := true, head := 63, exp := 9, tail := 0, out := 63 }
theorem wit_TailLine : (stSt stOn).strmSize 0 = 64 ∧
    nx (.tailLineSnoop 0 (.data 63)) (stSt {}) (stSt {}) = true ∧
    nx (.tailLineSnoop 0 (.data 63)) (stSt { stOn with act := false, halt := true }) (stSt { stOn with halt := true, tail := 63 }) = true ∧
    ok (.tailLineSnoop 0 (.data 64)) (stSt stOn) (fun t => decide (t.strm 0 = { stOn with halt := true, err := 2 }) && t.evt.pend.getLsbD 512) = true ∧
    ok (.tailLineSnoop 0 .bad) (stSt stOn) (fun t => decide (t.strm 0 = { stOn with act := false, halt := true, err := 3 }) && t.evt.pend.getLsbD 512) = true := by decide +kernel
/-- A NOP of sequence number 9 on a rig stream of rig 0. -/
def nopLine : BitVec 512 := 0x000000090003000F
theorem wit_FetchLine : (stSt stOn).strmReady 0 ≠ 0 ∧ BitVec.ofNat 32 (field (lineBytes nopLine) 4 4) = stOn.exp ∧ bit (field (lineBytes nopLine) 1 1) 7 = false ∧
    nx (.fetchCommandLine 0 (.data nopLine) .bad) (stSt stOn) (stSt { stOn with head := 0, exp := 10, out := 64, fetched := [{ slot := 63, l1 := lineBytes nopLine }] }) = true ∧
    nx (.fetchCommandLine 0 (.data nopLine) .bad) (stSt { stOn with out := 64 }) (stSt { stOn with out := 64 }) = true ∧
    ok (.fetchCommandLine 0 (.data nopLine) .bad) (stSt { stOn with exp := 8 }) (fun t => decide (t.strm 0 = { stOn with exp := 8, halt := true, err := 1 }) &&
      t.evt.pend.getLsbD 512) = true := by decide +kernel
theorem wit_StreamControl : (stSt stOn).strmOn = true ∧ (stSt {}).strmLog2 0 = 6 ∧ (stSt {}).strmRig 0 < 64 ∧
    nx (.strmCtlEn 0 false .bad) (stSt stOn) (stSt { stOn with en := false, act := false }) = true ∧
    nx (.strmCtlEn 0 true (.data 63)) (stSt { head := 5, err := 2 }) (stSt { en := true, act := true, tail := 63 }) = true ∧
    ok (.strmCtlEn 0 true (.data 64)) (stSt {}) (fun t => decide (t.strm 0 = { en := true, act := true, halt := true, err := 2 })) = true ∧
    nx (.strmCtlEn 0 true (.data 0)) (stSt { head := 5, out := 1 }) (stSt { head := 5, out := 1, err := 4 }) = true ∧
    nx (.strmCtlEn 0 true (.data 0)) { stSt {} with bar0 := [(strmOff 0 8, 17)] } { stSt { err := 4 } with bar0 := [(strmOff 0 8, 17)] } = true ∧
    nx (.strmCtlResume 0) (stSt { stOn with halt := true, err := 3 }) (stSt stOn) = true := by decide +kernel
def abSt : State := { stSt stOn with rigs := [(0, { rig0 with plan := [{ r := { strm := 1 } }, { r := { strm := 0, slot := 3 } }], cq := [{ r := { strm := 0 } }] })] }
theorem wit_StreamAbort : abSt.bar0On 0x010000 = true ∧ ok (.strmCtlAbort 0) abSt (fun t => decide ((t.rig 0).plan = [{ r := { strm := 1 } }]) &&
    decide ((t.rig 0).cq = []) && t.adm.done.contains { r := { strm := 0, slot := 3 }, fin := finAborted 0x0C }) = true := by decide +kernel
def lpSt (l : Option Nat) : State := { stSt { stOn with fetched := [{ slot := 63, l1 := lineBytes nopLine }] } with adm := { now := 20, last := l } }
theorem wit_LinePass : (lpSt (some 4)).nextStrm = some 0 ∧ (stSt stOn).nextStrm = none ∧ listedOp ({ slot := 63, l1 := lineBytes nopLine } : CRec).op = true ∧
    nx (.linePass 0) (stSt stOn) (stSt stOn) = true ∧ nx (.linePass 0) (lpSt (some 5)) (lpSt (some 5)) = true ∧
    nx (.linePass 19) (lpSt (some 4)) { stSt stOn with adm := { now := 20, last := some 20, rr := 1, passed := [{ slot := 63, l1 := lineBytes nopLine, t0 := 20 }] } } = true := by decide +kernel

/-- The four decoders committed with the ranges of Table 13-2. -/
def decs : Tab Hdm := [(0, ⟨0, 0x6000000000, true⟩), (1, ⟨0x10000000000, 0x8000000000, true⟩), (2, ⟨0x20000000000, 0x200000000, true⟩),
  (3, ⟨0x30000000000, 0x100000000, true⟩)]
def hostSt : State := rdy { downState with mem := [(tileAddr 0 7, 9)], gran := [(tileAddr 0 0 / 4096, .written)], hdm := decs }
theorem wit_HostReads : nx (.configRequest .other) hostSt { hostSt with rsp := some ([1], false) } = true ∧ nx (.configRequest .other) State.reset State.reset = true ∧
    nx (.configRequest (.hdm 3 4096 64 false)) hostSt { hostSt.setHdm 3 ⟨4096, 64, false⟩ with rsp := some ([1], false) } = true ∧
    nx (.configRequest (.ide true)) hostSt { hostSt with ide := true, rsp := some ([1], false) } = true ∧
    nx (.configRequest .readiness) hostSt { hostSt with rsp := some ([1, 0x70, 0x17, 0, 0], false) } = true ∧
    hostSt.decodes (tileAddr 0 6) = true ∧ hostSt.decodes (lockerAddr 1 0) = true ∧ ({ hostSt with hdm := [] } : State).decodes (tileAddr 0 6) = false ∧
    nx (.hostMemRead (tileAddr 0 6) 2) { hostSt with hdm := [] } { hostSt with hdm := [] } = true ∧
    hostSt.memOn = true ∧ State.reset.memOn = false ∧ hostSpan 63 2 = false ∧ hostSpan (tileAddr 0 6) 2 = true ∧ hostSt.rerigging (tileAddr 0 6) = false ∧
    hostSt.downAt (lockerAddr 1 0) = true ∧ hostSt.downAt (tileAddr 0 6) = false ∧ place 0x006000000000 = .nowhere ∧ hostSt.granAt (tileAddr 0 6) = .written ∧
    hostSt.mark (wordOf (tileAddr 0 6)) = .none ∧
    hostSt.linked .host (tileAddr 0 6) = true ∧ hostSt.tileOpen 0 6 true = true ∧ hostSt.updHides false (tileAddr 0 7) = false ∧
    nx (.hostMemRead (tileAddr 0 6) 2) hostSt { hostSt.openTile 0 6 with rsp := some ([0, 9], false) } = true ∧
    nx (.hostMemRead (tileAddr 0 6) 2) { hostSt with rigs := [(0, { rig0 with st := 2 })] } { hostSt with rigs := [(0, { rig0 with st := 2 })], rsp := some ([0, 0], false) } = true ∧
    nx (.hostMemRead (lockerAddr 1 0) 2) hostSt { hostSt with rsp := some ([0, 0], true) } = true ∧
    nx (.hostMemRead 0x006000000000 2) hostSt { hostSt with rsp := some ([0, 0], false) } = true ∧
    nx (.hostMemRead 63 2) hostSt hostSt = true := by decide +kernel
theorem wit_HostWrites : nx (.hostMemWrite (lockerAddr 1 0) [1] false) hostSt hostSt = true ∧
    nx (.hostMemWrite 0x006000000000 [1] false) hostSt hostSt = true ∧ nx (.hostMemWrite 63 [1, 2] false) hostSt hostSt = true ∧
    ok (.hostMemWrite (tileAddr 0 6) [5] true) hostSt (fun t => decide (t.mem = [(tileAddr 0 6, 5), (tileAddr 0 7, 9)]) &&
      decide (t.mark (wordOf (tileAddr 0 6)) = .ue)) = true := by decide +kernel
def lostSt : State := rdy { State.reset with hdm := decs, pwr := { paths := [(320, { st := 2 })] } }
theorem wit_HostReads_lost : lostSt.mastLost 0 = true ∧ nx (.hostMemRead 0 1) lostSt { lostSt with rsp := some ([0], true) } = true ∧
    nx (.hostMemWrite 0 [1] false) lostSt lostSt = true := by decide +kernel

/-! ### O41 to O43 -/

/-- OPCODE, CLASS, operands: 0xF 3 [] -/
def cl0 : CRec := { l1 := [15, 0, 3, 0, 0, 0, 0, 0, 0, 0, 0, 0, 0, 0, 0, 0, 0, 0, 0, 0, 0, 0, 0, 0, 0, 0, 0, 0, 0, 0, 0, 0, 0, 0, 0, 0, 0, 0, 0, 0, 0, 0, 0, 0, 0, 0, 0, 0, 0, 0, 0, 0, 0, 0, 0, 0, 0, 0, 0, 0, 0, 0, 0, 0], t0 := 100 }
/-- OPCODE, CLASS, operands: 8 3 [(3, 1)] -/
def cl1 : CRec := { l1 := [8, 0, 3, 1, 0, 0, 0, 0, 0, 0, 0, 0, 0, 0, 0, 0, 0, 0, 0, 0, 0, 0, 0, 0, 0, 0, 0, 0, 0, 0, 0, 0, 0, 0, 0, 0, 0, 0, 0, 0, 0, 0, 0, 0, 0, 0, 0, 0, 0, 0, 0, 0, 0, 0, 0, 0, 0, 0, 0, 0, 0, 0, 0, 0], t0 := 100 }
/-- OPCODE, CLASS, operands: 8 3 [] -/
def cl2 : CRec := { l1 := [8, 0, 3, 0, 0, 0, 0, 0, 0, 0, 0, 0, 0, 0, 0, 0, 0, 0, 0, 0, 0, 0, 0, 0, 0, 0, 0, 0, 0, 0, 0, 0, 0, 0, 0, 0, 0, 0, 0, 0, 0, 0, 0, 0, 0, 0, 0, 0, 0, 0, 0, 0, 0, 0, 0, 0, 0, 0, 0, 0, 0, 0, 0, 0], t0 := 100 }
/-- OPCODE, CLASS, operands: 2 3 [(24, 0x1000), (32, 0x2000), (40, 0x40)] -/
def cl3 : CRec := { l1 := [2, 0, 3, 0, 0, 0, 0, 0, 0, 0, 0, 0, 0, 0, 0, 0, 0, 0, 0, 0, 0, 0, 0, 0, 0, 16, 0, 0, 0, 0, 0, 0, 0, 32, 0, 0, 0, 0, 0, 0, 64, 0, 0, 0, 0, 0, 0, 0, 0, 0, 0, 0, 0, 0, 0, 0, 0, 0, 0, 0, 0, 0, 0, 0], t0 := 100 }
/-- OPCODE, CLASS, operands: 3 3 [(24, 0x1000), (32, 0x40)] -/
def cl4 : CRec := { l1 := [3, 0, 3, 0, 0, 0, 0, 0, 0, 0, 0, 0, 0, 0, 0, 0, 0, 0, 0, 0, 0, 0, 0, 0, 0, 16, 0, 0, 0, 0, 0, 0, 64, 0, 0, 0, 0, 0, 0, 0, 0, 0, 0, 0, 0, 0, 0, 0, 0, 0, 0, 0, 0, 0, 0, 0, 0, 0, 0, 0, 0, 0, 0, 0], t0 := 100 }
/-- OPCODE, CLASS, operands: 9 3 [(24, 0x1000), (33, 1), (34, 1)] -/
def cl5 : CRec := { l1 := [9, 0, 3, 0, 0, 0, 0, 0, 0, 0, 0, 0, 0, 0, 0, 0, 0, 0, 0, 0, 0, 0, 0, 0, 0, 16, 0, 0, 0, 0, 0, 0, 0, 1, 1, 0, 0, 0, 0, 0, 0, 0, 0, 0, 0, 0, 0, 0, 0, 0, 0, 0, 0, 0, 0, 0, 0, 0, 0, 0, 0, 0, 0, 0], t0 := 100 }
/-- OPCODE, CLASS, operands: 0xA 3 [(24, 64)] -/
def cl6 : CRec := { l1 := [10, 0, 3, 0, 0, 0, 0, 0, 0, 0, 0, 0, 0, 0, 0, 0, 0, 0, 0, 0, 0, 0, 0, 0, 64, 0, 0, 0, 0, 0, 0, 0, 0, 0, 0, 0, 0, 0, 0, 0, 0, 0, 0, 0, 0, 0, 0, 0, 0, 0, 0, 0, 0, 0, 0, 0, 0, 0, 0, 0, 0, 0, 0, 0], t0 := 100 }
/-- OPCODE, CLASS, operands: 1 3 [(24, 0x1000)] -/
def cl7 : CRec := { l1 := [1, 0, 3, 0, 0, 0, 0, 0, 0, 0, 0, 0, 0, 0, 0, 0, 0, 0, 0, 0, 0, 0, 0, 0, 0, 16, 0, 0, 0, 0, 0, 0, 0, 0, 0, 0, 0, 0, 0, 0, 0, 0, 0, 0, 0, 0, 0, 0, 0, 0, 0, 0, 0, 0, 0, 0, 0, 0, 0, 0, 0, 0, 0, 0], t0 := 100 }
/-- OPCODE, CLASS, operands: 4 3 [(24, 0x1000), (32, 0x1000)] -/
def cl8 : CRec := { l1 := [4, 0, 3, 0, 0, 0, 0, 0, 0, 0, 0, 0, 0, 0, 0, 0, 0, 0, 0, 0, 0, 0, 0, 0, 0, 16, 0, 0, 0, 0, 0, 0, 0, 16, 0, 0, 0, 0, 0, 0, 0, 0, 0, 0, 0, 0, 0, 0, 0, 0, 0, 0, 0, 0, 0, 0, 0, 0, 0, 0, 0, 0, 0, 0], t0 := 100 }
/-- OPCODE, CLASS, operands: 4 3 [] -/
def cl9 : CRec := { l1 := [4, 0, 3, 0, 0, 0, 0, 0, 0, 0, 0, 0, 0, 0, 0, 0, 0, 0, 0, 0, 0, 0, 0, 0, 0, 0, 0, 0, 0, 0, 0, 0, 0, 0, 0, 0, 0, 0, 0, 0, 0, 0, 0, 0, 0, 0, 0, 0, 0, 0, 0, 0, 0, 0, 0, 0, 0, 0, 0, 0, 0, 0, 0, 0], t0 := 100 }
/-- OPCODE, CLASS, operands: 0xC 3 [(24, 0x1000), (32, 0x2000), (48, 1)] -/
def cl10 : CRec := { l1 := [12, 0, 3, 0, 0, 0, 0, 0, 0, 0, 0, 0, 0, 0, 0, 0, 0, 0, 0, 0, 0, 0, 0, 0, 0, 16, 0, 0, 0, 0, 0, 0, 0, 32, 0, 0, 0, 0, 0, 0, 0, 0, 0, 0, 0, 0, 0, 0, 1, 0, 0, 0, 0, 0, 0, 0, 0, 0, 0, 0, 0, 0, 0, 0], t0 := 100 }
/-- OPCODE, CLASS, operands: 0xC 3 [(24, 0x1000), (40, 64), (53, 1)] -/
def cl11 : CRec := { l1 := [12, 0, 3, 0, 0, 0, 0, 0, 0, 0, 0, 0, 0, 0, 0, 0, 0, 0, 0, 0, 0, 0, 0, 0, 0, 16, 0, 0, 0, 0, 0, 0, 0, 0, 0, 0, 0, 0, 0, 0, 64, 0, 0, 0, 0, 0, 0, 0, 0, 0, 0, 0, 0, 1, 0, 0, 0, 0, 0, 0, 0, 0, 0, 0], t0 := 100 }
/-- OPCODE, CLASS, operands: 0xC 3 [(32, 0x1000), (40, 64), (53, 2)] -/
def cl12 : CRec := { l1 := [12, 0, 3, 0, 0, 0, 0, 0, 0, 0, 0, 0, 0, 0, 0, 0, 0, 0, 0, 0, 0, 0, 0, 0, 0, 0, 0, 0, 0, 0, 0, 0, 0, 16, 0, 0, 0, 0, 0, 0, 64, 0, 0, 0, 0, 0, 0, 0, 0, 0, 0, 0, 0, 2, 0, 0, 0, 0, 0, 0, 0, 0, 0, 0], t0 := 100 }
/-- OPCODE, CLASS, operands: 0xC 3 [(53, 3), (57, 9)] -/
def cl13 : CRec := { l1 := [12, 0, 3, 0, 0, 0, 0, 0, 0, 0, 0, 0, 0, 0, 0, 0, 0, 0, 0, 0, 0, 0, 0, 0, 0, 0, 0, 0, 0, 0, 0, 0, 0, 0, 0, 0, 0, 0, 0, 0, 0, 0, 0, 0, 0, 0, 0, 0, 0, 0, 0, 0, 0, 3, 0, 0, 0, 9, 0, 0, 0, 0, 0, 0], t0 := 100 }
/-- SEARCH lines of class A: BOUND 2 ms, 20 us and 19,999 ns. -/
def srR2000000 : CRec := { l1 := [7, 0, 1, 0, 0, 0, 0, 0, 128, 132, 30, 0, 0, 0, 0, 0, 0, 0, 0, 0, 0, 0, 0, 0, 0, 16, 0, 0, 0, 0, 0, 0, 0, 32, 0, 0, 0, 0, 0, 0, 0, 0, 0, 0, 0, 0, 0, 0, 0, 0, 0, 0, 0, 0, 0, 0, 0, 0, 0, 0, 0, 0, 0, 0], t0 := 100 }
def srR20000 : CRec := { l1 := [7, 0, 1, 0, 0, 0, 0, 0, 32, 78, 0, 0, 0, 0, 0, 0, 0, 0, 0, 0, 0, 0, 0, 0, 0, 16, 0, 0, 0, 0, 0, 0, 0, 32, 0, 0, 0, 0, 0, 0, 0, 0, 0, 0, 0, 0, 0, 0, 0, 0, 0, 0, 0, 0, 0, 0, 0, 0, 0, 0, 0, 0, 0, 0], t0 := 100 }
def srR19999 : CRec := { l1 := [7, 0, 1, 0, 0, 0, 0, 0, 31, 78, 0, 0, 0, 0, 0, 0, 0, 0, 0, 0, 0, 0, 0, 0, 0, 16, 0, 0, 0, 0, 0, 0, 0, 32, 0, 0, 0, 0, 0, 0, 0, 0, 0, 0, 0, 0, 0, 0, 0, 0, 0, 0, 0, 0, 0, 0, 0, 0, 0, 0, 0, 0, 0, 0], t0 := 100 }
/-- Critical lines of the management stream with a counter and the MAC of key 7 (HMAC-SHA-384, worked out outside the model). -/
def sc3000_9 : CRec := { l1 := [6, 128, 3, 255, 0, 0, 0, 0, 0, 0, 0, 0, 0, 0, 0, 0, 0, 0, 0, 0, 0, 0, 0, 0, 184, 11, 0, 0, 0, 0, 0, 0, 0, 0, 0, 0, 0, 0, 0, 0, 0, 0, 0, 0, 0, 0, 0, 0, 0, 0, 0, 0, 0, 0, 0, 0, 0, 0, 0, 0, 0, 0, 0, 0], l2 := [9, 0, 0, 0, 0, 0, 0, 0, 72, 87, 144, 234, 17, 190, 141, 110, 116, 186, 27, 198, 60, 137, 19, 122, 0, 0, 0, 0, 0, 0, 0, 0, 0, 0, 0, 0, 0, 0, 0, 0, 0, 0, 0, 0, 0, 0, 0, 0, 0, 0, 0, 0, 0, 0, 0, 0, 0, 0, 0, 0, 0, 0, 0, 0] }
def sc3000_8 : CRec := { l1 := [6, 128, 3, 255, 0, 0, 0, 0, 0, 0, 0, 0, 0, 0, 0, 0, 0, 0, 0, 0, 0, 0, 0, 0, 184, 11, 0, 0, 0, 0, 0, 0, 0, 0, 0, 0, 0, 0, 0, 0, 0, 0, 0, 0, 0, 0, 0, 0, 0, 0, 0, 0, 0, 0, 0, 0, 0, 0, 0, 0, 0, 0, 0, 0], l2 := [8, 0, 0, 0, 0, 0, 0, 0, 83, 114, 234, 92, 18, 164, 22, 12, 213, 70, 185, 66, 56, 88, 140, 37, 0, 0, 0, 0, 0, 0, 0, 0, 0, 0, 0, 0, 0, 0, 0, 0, 0, 0, 0, 0, 0, 0, 0, 0, 0, 0, 0, 0, 0, 0, 0, 0, 0, 0, 0, 0, 0, 0, 0, 0] }
def sc2400_9 : CRec := { l1 := [6, 128, 3, 255, 0, 0, 0, 0, 0, 0, 0, 0, 0, 0, 0, 0, 0, 0, 0, 0, 0, 0, 0, 0, 96, 9, 0, 0, 0, 0, 0, 0, 0, 0, 0, 0, 0, 0, 0, 0, 0, 0, 0, 0, 0, 0, 0, 0, 0, 0, 0, 0, 0, 0, 0, 0, 0, 0, 0, 0, 0, 0, 0, 0], l2 := [9, 0, 0, 0, 0, 0, 0, 0, 141, 10, 236, 74, 105, 194, 159, 56, 228, 233, 240, 125, 207, 147, 198, 17, 0, 0, 0, 0, 0, 0, 0, 0, 0, 0, 0, 0, 0, 0, 0, 0, 0, 0, 0, 0, 0, 0, 0, 0, 0, 0, 0, 0, 0, 0, 0, 0, 0, 0, 0, 0, 0, 0, 0, 0] }
def sc2399_9 : CRec := { l1 := [6, 128, 3, 255, 0, 0, 0, 0, 0, 0, 0, 0, 0, 0, 0, 0, 0, 0, 0, 0, 0, 0, 0, 0, 95, 9, 0, 0, 0, 0, 0, 0, 0, 0, 0, 0, 0, 0, 0, 0, 0, 0, 0, 0, 0, 0, 0, 0, 0, 0, 0, 0, 0, 0, 0, 0, 0, 0, 0, 0, 0, 0, 0, 0], l2 := [9, 0, 0, 0, 0, 0, 0, 0, 36, 117, 105, 215, 173, 236, 57, 211, 169, 164, 61, 68, 146, 21, 11, 213, 0, 0, 0, 0, 0, 0, 0, 0, 0, 0, 0, 0, 0, 0, 0, 0, 0, 0, 0, 0, 0, 0, 0, 0, 0, 0, 0, 0, 0, 0, 0, 0, 0, 0, 0, 0, 0, 0, 0, 0] }
def kc5 : CRec := { l1 := [11, 128, 3, 255, 0, 0, 0, 0, 0, 0, 0, 0, 0, 0, 0, 0, 0, 0, 0, 0, 0, 0, 0, 0, 2, 5, 5, 64, 0, 0, 0, 0, 0, 0, 0, 0, 0, 0, 0, 0, 0, 0, 0, 0, 0, 0, 0, 0, 0, 0, 0, 0, 0, 0, 0, 0, 0, 0, 0, 0, 0, 0, 0, 0], l2 := [9, 0, 0, 0, 0, 0, 0, 0, 180, 88, 195, 12, 62, 100, 186, 212, 4, 73, 234, 235, 222, 252, 142, 1, 0, 0, 0, 0, 0, 0, 0, 0, 0, 0, 0, 0, 0, 0, 0, 0, 0, 0, 0, 0, 0, 0, 0, 0, 0, 0, 0, 0, 0, 0, 0, 0, 0, 0, 0, 0, 0, 0, 0, 0] }
def kc6 : CRec := { l1 := [11, 128, 3, 255, 0, 0, 0, 0, 0, 0, 0, 0, 0, 0, 0, 0, 0, 0, 0, 0, 0, 0, 0, 0, 2, 5, 6, 64, 0, 0, 0, 0, 0, 0, 0, 0, 0, 0, 0, 0, 0, 0, 0, 0, 0, 0, 0, 0, 0, 0, 0, 0, 0, 0, 0, 0, 0, 0, 0, 0, 0, 0, 0, 0], l2 := [9, 0, 0, 0, 0, 0, 0, 0, 76, 234, 55, 39, 41, 156, 22, 230, 103, 122, 136, 201, 86, 47, 181, 138, 0, 0, 0, 0, 0, 0, 0, 0, 0, 0, 0, 0, 0, 0, 0, 0, 0, 0, 0, 0, 0, 0, 0, 0, 0, 0, 0, 0, 0, 0, 0, 0, 0, 0, 0, 0, 0, 0, 0, 0] }
def kp0 : CRec := { l1 := [11, 128, 3, 255, 0, 0, 0, 0, 0, 0, 0, 0, 0, 0, 0, 0, 0, 0, 0, 0, 0, 0, 0, 0, 3, 5, 0, 0, 0, 0, 0, 0, 77, 0, 0, 0, 0, 0, 0, 0, 0, 0, 0, 0, 0, 0, 0, 0, 0, 0, 0, 0, 0, 0, 0, 0, 0, 0, 0, 0, 0, 0, 0, 0], l2 := [9, 0, 0, 0, 0, 0, 0, 0, 201, 189, 63, 50, 209, 226, 183, 128, 46, 39, 205, 172, 213, 71, 179, 184, 0, 0, 0, 0, 0, 0, 0, 0, 0, 0, 0, 0, 0, 0, 0, 0, 0, 0, 0, 0, 0, 0, 0, 0, 0, 0, 0, 0, 0, 0, 0, 0, 0, 0, 0, 0, 0, 0, 0, 0] }
def kp1 : CRec := { l1 := [11, 128, 3, 255, 0, 0, 0, 0, 0, 0, 0, 0, 0, 0, 0, 0, 0, 0, 0, 0, 0, 0, 0, 0, 3, 5, 1, 0, 0, 0, 0, 0, 77, 0, 0, 0, 0, 0, 0, 0, 0, 0, 0, 0, 0, 0, 0, 0, 0, 0, 0, 0, 0, 0, 0, 0, 0, 0, 0, 0, 0, 0, 0, 0], l2 := [9, 0, 0, 0, 0, 0, 0, 0, 72, 103, 174, 106, 219, 228, 253, 146, 66, 203, 247, 39, 36, 172, 54, 92, 0, 0, 0, 0, 0, 0, 0, 0, 0, 0, 0, 0, 0, 0, 0, 0, 0, 0, 0, 0, 0, 0, 0, 0, 0, 0, 0, 0, 0, 0, 0, 0, 0, 0, 0, 0, 0, 0, 0, 0] }
def ka : CRec := { l1 := [11, 128, 3, 255, 0, 0, 0, 0, 0, 0, 0, 0, 0, 0, 0, 0, 0, 0, 0, 0, 0, 0, 0, 0, 1, 1, 0, 0, 0, 0, 0, 0, 0, 0, 0, 0, 0, 0, 0, 0, 0, 0, 0, 0, 0, 0, 0, 0, 0, 0, 0, 0, 0, 0, 0, 0, 0, 0, 0, 0, 0, 0, 0, 0], l2 := [9, 0, 0, 0, 0, 0, 0, 0, 114, 48, 207, 148, 134, 93, 227, 15, 132, 42, 205, 158, 144, 181, 100, 91, 0, 0, 0, 0, 0, 0, 0, 0, 0, 0, 0, 0, 0, 0, 0, 0, 0, 0, 0, 0, 0, 0, 0, 0, 0, 0, 0, 0, 0, 0, 0, 0, 0, 0, 0, 0, 0, 0, 0, 0] }
def pass (r : CRec) : State := rdy { State.reset with rigs := [(0, rig0)], adm := { passed := [r, cl0] } }
def joins (i : Instr) (r : CRec) (m : Cmd) : Bool :=
  decide ((pass r).steps14 r = none) && decide ((pass r).step5 r = none) && decide ((pass r).step6 r m.cores = none) && decide (r.cls = 3) &&
    nx i (pass r) { pass r with adm := { passed := [cl0] }, rigs := [(0, { rig0 with cq := [{ m with r := r }] })] }
theorem wit_Lines_left : lineOf .fence = some (8, fun _ => true) ∧ (pass cl0).adm.passed = [cl0, cl0] ∧
    nx .fence State.reset State.reset = true ∧ nx .fence (pass cl0) (pass cl0) = true ∧
    cl1.rig ≠ (pass cl1).strmRig 0 ∧
    ok .fence (pass cl1) (fun t => decide (t.adm.done.map (·.fin) = [⟨0x14, 0⟩])) = true :=
  ⟨rfl, by decide +kernel, by decide +kernel, by decide +kernel, by decide +kernel, by decide +kernel⟩
theorem wit_Lines_ended : (pass cl2).steps14 cl2 = none ∧ (pass cl0).steps14 cl0 = none ∧
    nx .fence (pass cl2) ((pass cl2).answered cl2 finOk) = true ∧
    nx .nop (pass cl0) ((pass cl0).answered cl0 finOk) = true := by decide +kernel
/-- A COPY, a FILL and a TABLE within region 0, and a PERF, join the queue; so does a RUN at address 0x1000, of both cores. -/
theorem wit_Lines_joined : joins .copyCommand cl3 {} = true ∧
    joins .fillCommand cl4 {} = true ∧
    joins .table cl5 { cores := 3 } = true ∧
    joins .perf cl6 {} = true ∧
    joins .run cl7 { cores := 3 } = true ∧ cl7.u 40 8 = 0 ∧ cl7.nonzero 57 63 = none ∧
    (pass cl7).inRig 0 false 0x1000 8 = true := by decide +kernel
theorem wit_Lines_scrub : (pass cl8).scrubOwner 0x1000 0x1000 = some (some 0) ∧
    (cl8.toRig 0).rig = 0 ∧
    nx .scrub (pass cl8) { pass cl9 with adm := { passed := [cl0] }, rigs :=
      [(0, { rig0 with cq := [{ r := cl8.toRig 0 }] })] } = true := by decide +kernel
def upRig : Rig := { rig0 with pahus := 2 }
def passU (r : CRec) : State := { pass r with rigs := [(0, upRig)], bar0 := [(0x091020, 2)] }
def joinsU (i : Instr) (r : CRec) : Bool := decide ((passU r).steps14 r = none) &&
  ok i (passU r) fun t => decide ((t.rig 0).cq = [{ r := r, upd := { prog := (passU r).updProg r.uProg } }]) && decide (t.adm.done = [])
theorem wit_Lines_updates : joinsU .reduce cl10 = true ∧
    joinsU .send cl11 = true ∧
    joinsU .recv cl12 = true ∧
    joinsU .barrier cl13 = true := by decide +kernel

def srSt (r : CRec) : State := State.putAllFloors { pass r with
  rigs := [(0, { rig0 with ways := 0x0001000100010001, corpM := 64, corpP := 64, pwr := 1000, hbm := 64 })], pwr := { floor := 2400 }, therm := {} }
theorem wit_Search : (srSt srR2000000).steps14 srR2000000 = none ∧ (srSt srR2000000).step5 srR2000000 = none ∧
    (srSt srR2000000).step6 srR2000000 3 = none ∧ (srSt srR20000).steps14 srR20000 = none ∧
    (srSt srR2000000).feasible srR2000000 (((srSt srR2000000).searchCost srR2000000).map nsTicks) = none ∧
    (((srSt srR19999).feasible srR19999 (((srSt srR19999).searchCost srR19999).map nsTicks)).isSome) = true ∧
    ok .search (srSt srR2000000) (fun t => decide ((t.rig 0).plan.map (fun m => (m.r, m.cores)) = [(srR2000000, 3)]) && decide (t.adm.admits = 1) && (t.rig 0).crig) = true ∧
    ok .search (srSt srR19999) (fun t => decide (t.adm.done.map (·.fin.status) = [0x10]) && decide (t.adm.admits = 0)) = true := by decide +kernel
def blockSt : State := { srSt srR2000000 with rigs := [(0, { (srSt srR2000000).rig 0 with running := some {} })] }
theorem wit_Feasible : blockSt.freeAt 0 100 = none ∧ blockSt.feasible srR2000000 (some 5) = some ⟨0x10, BitVec.allOnes 64⟩ ∧
    (srSt srR2000000).freeAt 0 100 = some 100 ∧ [({ d := 5 } : Cmd), { d := 5 }].Pairwise (fun a b => a.d ≤ b.d) := by decide +kernel

def mgmt (r : CRec) (sec : Sec) : State :=
  rdy { State.reset with bar0 := [(strmOff 0 0x28, 0xFF)], adm := { passed := [r] }, sec := sec, pwr := { cap := 3400, floor := 2400 }, casc := { rank := 5 } }
def secOk : Sec := { bound := some 1, key := 7, ctr := 8 }
theorem wit_Critical : lineOf .setcap = some (6, fun _ => true) ∧ critOp 6 = true ∧ (mgmt sc3000_9 secOk).step1 sc3000_9 = none ∧
    sc3000_9.crit = true ∧ (mgmt sc3000_9 secOk).steps24 sc3000_9 = none :=
  ⟨rfl, rfl, by decide +kernel, by decide +kernel, by decide +kernel⟩
def last (t : State) : List (BitVec 8 × BitVec 64) := t.adm.done.map fun d => (d.fin.status, d.fin.detail)
theorem wit_Critical_rejects : ok .setcap (mgmt sc3000_9 {}) (fun t => decide (last t = [(0x12, 1)]) && decide (t.sec.rej = 1)) = true ∧
    ok .setcap (mgmt sc3000_9 { secOk with key := 6 }) (fun t => decide (last t = [(0x12, 2)]) && decide (t.sec.ctr = 8)) = true ∧
    ok .setcap (mgmt sc3000_8 secOk) (fun t => decide (last t = [(0x12, 3)])) = true ∧
    sc3000_8.v 64 8 ≤ secOk.ctr.toNat ∧ secOk.ctr.toNat < sc3000_9.v 64 8 := by decide +kernel
theorem wit_Setcap : ok .setcap (mgmt sc2400_9 secOk) (fun t => decide (last t = [(0, 0)]) && decide (t.pwr.cap = 2400) && decide (t.sec.ctr = 9)) = true ∧
    ok .setcap (mgmt sc2399_9 secOk) (fun t => decide (last t = [(0x13, BitVec.ofNat 64 (2399 + 2400 * 2 ^ 32))]) && decide (t.pwr.cap = 3400)) = true := by decide +kernel
theorem wit_KeyopCascade : (mgmt kc6 secOk).steps24 kc6 = none ∧
    ok .keyopCascade (mgmt kc6 secOk) (fun t => decide (t.casc.epoch = 1) && decide (t.casc.role = 2) && decide (t.casc.master = 5) &&
      decide (t.casc.nmem = 63) && decide (last t = [(0, 0)])) = true ∧
    ok .keyopCascade (mgmt kc5 secOk) (fun t => decide (t.casc.epoch = 0) && decide (last t = [(0x11, 25)])) = true := by decide +kernel
theorem wit_KeyopPin : (mgmt kp0 secOk).steps24 kp0 = none ∧
    ok .keyopPin (mgmt kp0 { secOk with pins := [(0, 3)] }) (fun t => decide (t.sec.pins = [(0, 3), (5, 77)])) = true ∧
    ok .keyopPin { mgmt kp1 { secOk with pins := [(5, 3)] } with casc := { ports := [(5, { st := 4 })] } } (fun t =>
      decide (t.sec.pins = []) && decide ((t.port 5).st = 3)) = true := by decide +kernel
theorem wit_KeyopActivate : (mgmt ka secOk).steps24 ka = none ∧ ka.u 24 1 = 1 ∧
    ok .keyopActivate (mgmt ka secOk) (fun t => decide (last t = [(0x12, 5)]) && decide (t.sec.next = false)) = true := by decide +kernel

/-! ### O44 to O47 -/

def mOp (op : Nat) (fs : List (Nat × Nat)) : Cmd := { r := { l1 := lnB ((0, op) :: (2, 3) :: fs) } }
def mRun : Cmd := { mOp 1 [(24, 0x1000)] with cores := 3 }
def dsp (m : Cmd) : State := rdy { State.reset with rigs := [(0, { rig0 with cq := [m] })], adm := { now := 50 }, energyStrm := [(0, 9)], mem := [(tileAddr 0 0, 7), (tileAddr 0 63, 8), (tileAddr 1 64, 1)], gran := [(tileAddr 0 0 / 4096, .written), (tileAddr 1 0 / 4096, .written)] }
theorem wit_Dispatch_run : mRun.r.op = 1 ∧ (dsp mRun).step6 mRun.r 3 = none ∧ coreList 3 = [0, 1] ∧
    ((dsp mRun).rig 0).next = some (mRun, rig0) ∧
    nx (.planDispatch 0 7) (rdy State.reset) (rdy State.reset) = true ∧
    ok (.planDispatch 0 60) (dsp mRun) (fun t => decide (t.rig 0 = { rig0 with running := some { mRun with stage := .running, disp := 60, energy := 9, ran := true } }) &&
      decide ((t.core 1).disp = some ⟨0x1000, 1, 2, 0⟩) && decide (t.adm = { now := 60 })) = true := by decide +kernel
theorem wit_Dispatch_down : ({ dsp mRun with cores := [(1, { down := true })] } : State).step6 mRun.r 3 ≠ none ∧
    ok (.planDispatch 0 60) { dsp mRun with cores := [(1, { down := true })] } (fun t => decide (((t.rig 0).running.bind (·.fin)).map (·.status) = some 0x21)) = true := by decide +kernel
def mFill : Cmd := mOp 3 [(24, tileAddr 0 0), (32, 64), (40, 0x0807060504030201)]
theorem wit_Dispatch_fill : mFill.r.op = 3 ∧ mFill.r.u 24 8 = tileAddr 0 0 ∧ mFill.r.u 32 8 = 64 ∧ (dsp mFill).step6 mFill.r 0 = none ∧
    (∀ i : Fin 64, (dsp mFill).granAt (tileAddr 0 0 + i) = .written ∧ (dsp mFill).linked .device (tileAddr 0 0 + i) = true ∧ (dsp mFill).tileOpen 0 i true = true) ∧
    ok (.planDispatch 0 7) (dsp mFill) (fun t => decide (mread t.mem (tileAddr 0 0) 9 = [1, 2, 3, 4, 5, 6, 7, 8, 1]) && decide (mread t.mem (tileAddr 0 63) 2 = [8, 0]) &&
      decide ((t.rig 0).running.bind (·.fin) = some finOk) && decide (t.adm.done.length = 1)) = true := by decide +kernel
def mCopy : Cmd := mOp 2 [(24, tileAddr 0 0), (32, tileAddr 1 64), (40, 64)]
theorem wit_Dispatch_copy : mCopy.r.op = 2 ∧ tileAddr 0 0 + 64 ≤ tileAddr 1 64 ∧ (dsp mCopy).step6 mCopy.r 0 = none ∧
    (∀ i : Fin 64, (dsp mCopy).granAt (tileAddr 0 0 + i) = .written ∧ (dsp mCopy).granAt (tileAddr 1 64 + i) = .written ∧ (dsp mCopy).mark (wordOf (tileAddr 0 0 + i)) = .none ∧
      (dsp mCopy).linked .device (tileAddr 0 0 + i) = true ∧ (dsp mCopy).linked .device (tileAddr 1 64 + i) = true ∧ (dsp mCopy).tileOpen 0 i true = true ∧
      (dsp mCopy).tileOpen 1 (64 + i) true = true) ∧
    ok (.planDispatch 0 7) (dsp mCopy) (fun t => decide (t.mem = [(tileAddr 0 0, 7), (tileAddr 0 63, 8), (tileAddr 1 64, 7), (tileAddr 1 127, 8)])) = true := by decide +kernel
theorem wit_Dispatch_perf : (mOp 0xA [(24, 128)]).r.op = 0xA ∧ ok (.planDispatch 0 7) (dsp (mOp 0xA [(24, 128)])) (fun t => decide (mread t.hostMem 128 8 = [50, 0, 0, 0, 0, 0, 0, 0]) &&
    decide ((t.rig 0).running.bind (·.fin) = some finOk)) = true := by decide +kernel
def mRr : Cmd := { mOp 7 [(24, 0x1000), (32, 0x2000), (40, 0x3000)] with cores := 3, stage := .rerank, cand := 0x5000 }
def rrSt : State := { dsp {} with rigs := [(0, { rig0 with running := some mRr })], gran := [(1, .written)] }
theorem wit_Rerank : mRr.stage = .rerank ∧ mRr.fin = none ∧ rrSt.step6 mRr.r 3 = none ∧
    (match rrSt.feWrite (0x1000 + 0xC0) (rerankBlock mRr) with | .ok u _ => decide (u.rigs = rrSt.rigs) | _ => false) = true ∧
    ok (.rerankerDispatch 0) rrSt (fun t => decide ((t.rig 0).running = some { mRr with stage := .running }) && decide ((t.core 1).disp = some ⟨0x3000, 1, 2, 0x1000⟩)) = true ∧
    nx (.rerankerDispatch 0) (dsp mRun) (dsp mRun) = true := by decide +kernel

def mA (d w : Nat) : Cmd := { r := { l1 := [1, 0, 1] }, d := d, w := w, cores := 1, stage := .running }
def abS (run : Option Cmd) (ps : List Cmd) : State := { State.reset with rigs := [(0, { rig0 with running := run, plan := ps, crig := true })], cores := [(0, { k0 with pc := 0x40 })] }
theorem wit_AbortPoint : (mA 2875 0).abortAt = 1000 ∧ (mA 2875 0).r.contract = true ∧
    ok (.abortPoint 0 1000) (abS none [mA 2875 0, mA 2876 0]) (fun t => decide ((t.rig 0).plan = [mA 2876 0]) && decide (t.adm.done.map (·.fin) = [finAborted 0x0D])) = true ∧
    ok (.abortPoint 0 1000) (abS (some (mA 2875 0)) []) (fun t => decide ((t.core 0).phase = .draining) && decide ((t.core 0).stop = some ⟨13, 0x40⟩)) = true ∧
    ok (.abortPoint 0 999) (abS (some (mA 2875 0)) []) (fun t => decide ((t.core 0).phase = .running)) = true := by decide +kernel
def mC (dp : Nat) (cs : BitVec 4096) : Cmd := { r := { l1 := [1, 0, 3] }, disp := dp, cores := cs, stage := .running }
def cmS (m : Cmd) : State := { abS (some m) [] with bar0 := [(0x040000, 100)] }
theorem wit_Cmax : (cmS (mC 5 1)).cmax ≠ 0 ∧
    ok (.cmaxExpiry 0 (5 + (cmS (mC 5 1)).cmax)) (cmS (mC 5 1)) (fun t => decide ((t.core 0).stop = some ⟨13, 0x40⟩)) = true ∧
    ok (.cmaxExpiry 0 (4 + (cmS (mC 5 1)).cmax)) (cmS (mC 5 1)) (fun t => decide (t.core 0 = (cmS (mC 5 1)).core 0)) = true ∧
    ok (.cmaxExpiry 0 (5 + (cmS (mC 5 0)).cmax)) (cmS (mC 5 0)) (fun t => decide ((t.rig 0).running.bind (·.fin) = some (finAborted 0x0D)) && decide (t.adm.done.length = 1)) = true := by decide +kernel

def block1 : List Byte := 2 :: List.replicate 703 0
def rrRec (a : Nat) : CRec := { l1 := lnB [(0, 5), (1, 0x80), (24, a)], l2 := leBytes 64 0, plan := block1 }
def rgSt (r : CRec) : State := { State.reset with rigs := [(0, rig0), (1, { cores := 4, st := 1, cq := [mOp 0xF [(3, 1)]] })], adm := { rerigQ := [r] } }
theorem wit_Rerig : (rrRec 64).op = 5 ∧ (rgSt (rrRec 64)).planOk block1 = true ∧ (rrRec 64).nonzero 48 63 = none ∧ (rrRec 64).line2Check = none ∧ planMask block1 = 2 ∧
    nx .rerigStart State.reset State.reset = true ∧
    ok .rerigStart (rgSt (rrRec 64)) (fun t => decide (t.adm.rerig.map (·.mask) = some 2) && decide ((t.rig 1).st = 2) && decide ((t.rig 1).cq = []) && decide (t.rig 0 = rig0)) = true ∧
    ok .rerigStart (rgSt (rrRec 63)) (fun t => decide (t.adm.rerig = none) && decide (t.adm.done.map (·.fin.status) = [0x11]) && decide (t.rigs = (rgSt (rrRec 63)).rigs)) = true := by decide +kernel

/-- A RERIG line of the management stream with the digest of its plan block and the MAC of key 7 (worked out outside the model). -/
def rrC : CRec := { l1 := [5, 128, 3, 255, 0, 0, 0, 0, 0, 0, 0, 0, 0, 0, 0, 0, 0, 0, 0, 0, 0, 0, 0, 0, 64, 0, 0, 0, 0, 0, 0, 0, 56, 240, 67, 237, 99, 55, 223, 255, 186, 101, 99, 124, 244, 211, 59, 129, 0, 0, 0, 0, 0, 0, 0, 0, 0, 0, 0, 0, 0, 0, 0, 0], l2 := [9, 0, 0, 0, 0, 0, 0, 0, 189, 192, 165, 74, 167, 255, 202, 9, 7, 81, 107, 127, 86, 107, 165, 106, 0, 0, 0, 0, 0, 0, 0, 0, 0, 0, 0, 0, 0, 0, 0, 0, 0, 0, 0, 0, 0, 0, 0, 0, 0, 0, 0, 0, 0, 0, 0, 0, 0, 0, 0, 0, 0, 0, 0, 0] }
theorem wit_Rerig_line : rrC.op = 5 ∧ (mgmt rrC secOk).step1 rrC = none ∧ rrC.crit = true ∧
    (rrC.l2.drop 8).take 16 = (hmac384 (leBytes 48 secOk.key.toNat) (rrC.l1 ++ rrC.l2.take 8)).take 16 ∧ secOk.ctr.toNat < rrC.v 64 8 ∧
    (mgmt rrC secOk).step2 rrC = none ∧ rrC.step3 = none ∧ rrC.flagCheck = none ∧ planLen block1 = 704 ∧ 64 ≤ (block1 ++ [7]).length ∧
    planLen (block1 ++ [7]) ≤ (block1 ++ [7]).length ∧ (block1 ++ [7]).take 704 = block1 ∧ (sha384 block1).take 16 = (rrC.l1.drop 32).take 16 ∧
    (mgmt rrC secOk).planOk block1 = true ∧ rrC.nonzero 48 63 = none ∧ rrC.line2Check = none := by decide +kernel
theorem wit_Rerig_line_goes : ok (.rerig (some (block1 ++ [7]))) (mgmt rrC secOk) (fun t => decide (t.adm.rerig = some ⟨{ rrC with plan := block1 }, 2, block1⟩) &&
      decide ((t.rig 1).st = 2) && decide (t.sec.ctr = 9) && decide (t.adm.passed = []) && decide (t.rig 0 = (mgmt rrC secOk).rig 0)) = true ∧
    ok (.rerig none) (mgmt rrC secOk) (fun t => decide (last t = [((rejRes 24 8).status, (rejRes 24 8).detail)])) = true ∧
    ok (.rerig (some (block1.take 703))) (mgmt rrC secOk) (fun t => decide (last t = [((rejRes 24 8).status, (rejRes 24 8).detail)])) = true ∧
    ok (.rerig (some block1)) { mgmt rrC secOk with adm := { passed := [rrC], rerigQ := [rrC] } } (fun t =>
      decide (t.adm.rerigQ = [rrC, { rrC with plan := block1 }]) && decide (t.adm.rerig = none)) = true := by decide +kernel

def stSt8 : State := rdy { State.reset with strms := [(0, { en := true, act := true, out := 2 })], bar0 := [(strmOff 0 8, 6), (strmOff 0 0x18, 0x10000)] }
def doneSt (d : Done) (m : Option Cmd) : State := { stSt8 with adm := { now := 900, done := [d] }, rigs := [(0, { rig0 with running := m })] }
def dOk : Done := { r := { l1 := lnB [(0, 0xF), (1, 1), (16, 0x77)], slot := 3, t0 := 100 }, fin := finOk }
theorem wit_Record : dOk.r.op ≠ 8 ∧ bit dOk.r.flags 0 = true ∧ (doneSt dOk none).strmCpl 0 = 0x10000 ∧
    ok (.completionRecordWrite 0 900 true 0) (doneSt dOk none) (fun t => decide (t.adm.done = []) && decide ((t.strm 0).out = 1) && decide ((t.strm 0).okN = 1) &&
      decide (mget t.hostMem 0x10060 = 0x77) && t.evt.pend.getLsbD 512) = true ∧
    ok (.completionRecordWrite 0 900 false 0) (doneSt dOk none) (fun t => (t.strm 0).halt && decide ((t.strm 0).err = 5) && decide (t.hostMem = []) && t.evt.pend.getLsbD 512) = true ∧
    nx (.completionRecordWrite 0 900 true 0) { doneSt dOk none with pwr := { feedA := false, feedB := false } } { doneSt dOk none with pwr := { feedA := false, feedB := false } } = true ∧
    ok (.completionRecordWrite 0 900 true 2048) (doneSt { dOk with rig := some 0 } (some { r := dOk.r, fin := some finOk })) (fun t => decide ((t.rig 0).running = none) &&
      decide (t.adm.done = [])) = true := by decide +kernel

def sendR : CRec := { l1 := lnB [(0, 0xC), (2, 3), (24, 0x1000), (40, 64), (53, 1), (54, 2), (57, 9)] }
def recvR : CRec := { l1 := lnB [(0, 0xC), (2, 3), (32, 0x1000), (40, 128), (53, 2), (54, 16), (57, 9)] }
def peer (op : BitVec 2) (len : Nat) : Rdv := ⟨0, 9, op, len, 0, 0, 0, 0, 0, 0⟩
def upSt (r : CRec) (u : Upd) : State := rdy { State.reset with rigs := [(0, { upRig with running := some { r := r, stage := .running, upd := u } })], casc := { ports := [(2, { st := 2, pen := true, present := true })] }, gran := [(1, .written)], mem := [(0x1000, 5)] }
theorem wit_Rendezvous : recvR.op = 0xC ∧ recvR.uOp = 2 ∧ recvR.uPrv = 2 ∧ complement 0 recvR false 0 (peer 1 128) = true ∧ agree recvR false (peer 1 128) = true ∧
    agree recvR false (peer 1 64) = false ∧ complement 0 sendR true 0 (peer 2 64) = true ∧ agree sendR true (peer 2 64) = true ∧ sendR.uNxt = 2 ∧
    ok (.rendezvous 0 false (peer 1 64)) (upSt recvR {}) (fun t => decide ((t.rig 0).running.bind (·.fin) = some (finAborted 0x0C)) && decide (t.adm.done.length = 1)) = true ∧
    nx (.rendezvous 0 false (peer 1 128)) (upSt recvR {}) (upSt recvR { rvRecv := true }) = true ∧
    (match (upSt sendR {}).sendWords 0 sendR ((List.range (sendR.uLen / 64)).map fun i => sendR.u 24 8 + 64 * i) with
      | .ok u none => decide (u.rigs = (upSt sendR {}).rigs) && decide (u.casc.data.map (fun x => (x.port, x.rig, x.bytes)) = [(2, 0, 5 :: List.replicate 63 0)]) | _ => false) = true ∧
    ok (.rendezvous 0 true (peer 2 64)) (upSt sendR {}) (fun t => decide ((t.rig 0).running.bind (·.fin) = some finOk) && decide (t.casc.data.length = 1)) = true ∧
    nx (.rendezvous 0 true (peer 2 64)) State.reset State.reset = true ∧ nx (.wireBlockArrival 0 [1]) State.reset State.reset = true := by decide +kernel
def w64 : List Byte := 9 :: List.replicate 63 4
theorem wit_WireBlock : w64.length % 64 = 0 ∧
    (match (upSt recvR { rvRecv := true, pos := 64 }).feWrite (0x1000 + 64) w64 with | .ok u _ => decide (u.rigs = (upSt recvR { rvRecv := true, pos := 64 }).rigs) | _ => false) = true ∧
    ok (.wireBlockArrival 0 w64) (upSt recvR { rvRecv := true }) (fun t => decide ((t.rig 0).running = some { r := recvR, stage := .running, upd := { rvRecv := true, pos := 64 } }) &&
      decide (mread t.mem 0x1000 2 = [9, 4])) = true ∧
    ok (.wireBlockArrival 0 w64) (upSt recvR { rvRecv := true, pos := 64 }) (fun t => decide ((t.rig 0).running.bind (·.fin) = some finOk) && decide (mget t.mem 0x1040 = 9) &&
      decide (mget t.mem 0x1000 = 5)) = true := by decide +kernel
theorem wit_PortDown : nx (.pahusPortDown 3) (upSt recvR {}) (upSt recvR {}) = true ∧ recvR.uPorts.contains 2 = true ∧ recvR.uPorts.contains 5 = false ∧
    ok (.pahusPortDown 2) (upSt recvR {}) (fun t => decide ((t.port 2).st = 0) && t.evt.pend.getLsbD 770 && decide (((t.rig 0).running.bind (·.fin)).map (·.status) = some 0x21) &&
      decide (t.adm.done.length = 1)) = true ∧
    ok (.pahusPortDown 5) { upSt recvR {} with casc := { ports := [(5, { st := 4 })] } } (fun t => decide (t.rig 0 = (upSt recvR {}).rig 0) && t.evt.pend.getLsbD 773) = true := by decide +kernel

/-! ### O48 to O52 -/

def poSt (k : Port) : State := rdy { State.reset with casc := { rank := 5, ports := [(5, k)] } }
theorem wit_PortEnable : (poSt {}).bar0On 0x090000 = true ∧
    nx (.portEnable 32 32) (poSt { failed := 3 }) (poSt { st := 1, pen := true, present := true }) = true ∧
    nx (.portEnable 32 0) (poSt { st := 3, pen := true, present := true }) (poSt { st := 3, pen := true }) = true ∧
    ok (.portEnable 0 32) (poSt { st := 2, pen := true }) (fun t => decide ((t.port 5).st = 0) && !(t.port 5).pen && t.evt.pend.getLsbD 773) = true ∧
    nx (.cascRankWrite 9) (poSt { pen := true }) (poSt { pen := true }) = true ∧
    ok (.cascRankWrite 9) (poSt {}) (fun t => decide (t.casc.rank = 9)) = true := by decide +kernel
theorem wit_CascRank : ∀ q, q < 6 → ((poSt {}).port q).pen = false := by decide +kernel
theorem wit_PortLanes : nx (.pahusRetransmission 5) (poSt { st := 2, retry := 0xFFFE }) (poSt { st := 2, retry := 0xFFFF }) = true ∧
    nx (.pahusLaneFailed 5 16) (poSt { st := 2, failed := 0x10000 }) (poSt { st := 2, failed := 0x10000 }) = true ∧
    ok (.pahusLaneFailed 5 15) (poSt { st := 2 }) (fun t => decide (t.port 5 = { st := 2, failed := 0x8000, spare := some 15 }) && decide (t.boot.gen = 1) && t.evt.pend.getLsbD 773) = true ∧
    (∀ h : Fin 2, ({ st := 2, failed := 0x8101, spare := some 15 } : Port).halfOk h = false) ∧
    ok (.pahusLaneFailed 5 0) (poSt { st := 2, failed := 0x8100, spare := some 15 }) (fun t => decide ((t.port 5).st = 0) && t.evt.pend.getLsbD 773) = true ∧
    nx (.portTrainingDone 5) (poSt { st := 1, present := true }) (poSt { st := 3, present := true }) = true ∧
    nx (.portTrainingDone 5) (poSt { st := 1 }) (poSt { st := 1 }) = true := by decide +kernel
theorem wit_PeerAttests : ok (.peerAttestationDone 5 77 true 6 2) (poSt { st := 3 }) (fun t => decide (t.port 5 = { st := 2, peerRank := 6, peerPort := 2 }) &&
      decide (t.sec.pins = [(5, 77)])) = true ∧
    ok (.peerAttestationDone 5 77 true 5 2) (poSt { st := 3 }) (fun t => decide ((t.port 5).st = 4) && decide (t.sec.pins = []) && t.evt.pend.getLsbD 773) = true ∧
    ok (.peerAttestationDone 5 77 true 6 2) { poSt { st := 3 } with sec := { pins := [(5, 78)] } } (fun t => decide ((t.port 5).st = 4)) = true ∧
    nx (.peerAttestationDone 5 77 true 6 2) (poSt { st := 1 }) (poSt { st := 1 }) = true := by decide +kernel

def caSt (c : Casc) : State := { State.reset with casc := { c with rank := 5, epoch := 7, ports := [(0, { st := 2, peerRank := 6, delay := 9 }), (3, { st := 2, peerRank := 9 })] } }
/-- The same with port 0 alone up. -/
def caS1 (c : Casc) : State := { caSt c with casc := { (caSt c).casc with ports := [(0, { st := 2, peerRank := 6, delay := 9 })] } }
def heard (t : State) : List Nat := t.casc.out.map (·.1)
theorem wit_Configuration : nx (.configurationReceived 7 4 5 true 3) (caSt { role := 1, master := 4 }) (caSt { role := 1, master := 4 }) = true ∧
    ok (.configurationReceived 7 3 5 true 3) (caSt { role := 1, master := 4 }) (fun t => decide (t.casc.role = 3) && decide (t.casc.master = 3) &&
      decide (heard t = [0, 3]) && t.evt.pend.getLsbD 774) = true ∧
    ok (.configurationReceived 8 5 0 false 3) (caSt { role := 2, master := 5 }) (fun t => decide (t.casc.role = 1) && decide (t.casc.epoch = 8)) = true ∧
    ok (.configurationReceived 8 5 0 false 3) (caSt {}) (fun t => decide (t.casc.role = 2)) = true := by decide +kernel
theorem wit_Heartbeat : nx .heartbeatSend (caSt { role := 1 }) (caSt { role := 1 }) = true ∧
    nx .heartbeatSend (caSt { role := 2, hb := 3 }) (caSt { role := 2, hb := 4, out := [(0, .heartbeat 7 4), (3, .heartbeat 7 4)] }) = true ∧
    nx (.heartbeatReceived 7 4) (caSt { role := 3, seen := some 3 }) (caSt { role := 3, seen := some 4, out := [(0, .heartbeat 7 4), (3, .heartbeat 7 4)] }) = true ∧
    nx (.heartbeatReceived 7 3) (caSt { role := 3, seen := some 3 }) (caSt { role := 3, seen := some 3 }) = true ∧
    nx (.heartbeatReceived 6 4) (caSt { role := 3, seen := some 3 }) (caSt { role := 3, seen := some 3 }) = true ∧
    (caSt {}).hbto ≠ 0 ∧ nx .heartbeatTimeout (caSt { role := 1 }) (caSt { role := 1 }) = true ∧
    ok .heartbeatTimeout (caSt { role := 3, master := 4, hasStandby := true, standby := 5 }) (fun t => decide (t.casc.epoch = 8) && decide (t.casc.role = 2) &&
      decide (t.casc.master = 5) && !t.casc.hasStandby && t.evt.pend.getLsbD 774) = true := by decide +kernel
/-- A round trip of 1,000 ticks of 0.8 ns with 201 held leaves 799: half of it is 319.6, so 320 ns. -/
theorem wit_Delay : ok (.delayProbeSend 0 50) (caSt {}) (fun t => decide ((t.port 0).t1 = some 50) && decide (t.casc.out = [(0, .probe 50)])) = true ∧
    ok (.delayProbeReceived 3 10 211) (caSt {}) (fun t => decide (t.casc.out = [(3, .echo 201)])) = true ∧
    ok (.delayProbeSend 0 50) (caSt {}) (fun t => ok (.delayProbeEcho 0 1050 201) t fun u => decide ((u.port 0).delay = 320) && decide ((u.port 0).t1 = none)) = true ∧
    nx (.delayProbeSend 1 50) (caSt {}) (caSt {}) = true ∧ nx (.delayProbeReceived 1 0 5) (caSt {}) (caSt {}) = true ∧ nx (.delayProbeEcho 1 0 5) (caSt {}) (caSt {}) = true := by decide +kernel
def bar1 : Bar := { tag := 9, ranks := 0x20, delays := [] }
theorem wit_BarrierMaster : nx (.barrierArrivalMessage 6 9 false 30) (caSt {}) (caSt {}) = true ∧
    nx (.barrierArrivalMessage 4 9 false 30) (caS1 { role := 1, master := 6 }) (caS1 { role := 1, master := 6, out := [(0, .arrival 9 4 39)] }) = true ∧
    nx (.barrierArrivalMessage 6 9 false 30) (caSt { role := 2, nmem := 1 }) (caSt { role := 2, nmem := 1, bars := [{ tag := 9, ranks := 0x40, delays := [(6, 30)] }] }) = true ∧
    popcount bar1.ranks.toNat = 1 ∧
    nx (.barrierArrivalMessage 6 9 false 30) { caSt { role := 2, nmem := 1, bars := [bar1] } with adm := { now := 44 } }
      { caSt { role := 2, nmem := 1, bars := [{ tag := 9, ranks := 0x60, delays := [(6, 30)], full := some 44 }] } with adm := { now := 44 } } = true := by decide +kernel
def bar2 : Bar := { tag := 9, ranks := 0x60, delays := [(6, 30)], full := some 44 }
theorem wit_ReleaseSend : bar2.targets.getLsbD 6 = true ∧ bar2.sent.getLsbD 6 = false ∧ (caS1 {}).dueAt bar2 44 (caS1 {}).stag 6 = 44 ∧ (caS1 {}).dueAt bar2 44 (caS1 {}).stag 5 = 56 ∧
    (caS1 {}).portTo 6 = some 0 ∧
    ok (.cascadeReleaseSend 9 6 44) (caS1 { role := 2, nmem := 1, bars := [bar2] }) (fun t => decide (t.casc.out = [(0, .release 9 6 44)]) && decide (t.adm.now = 44)) = true ∧
    ok (.cascadeReleaseSend 9 6 43) (caS1 { role := 2, nmem := 1, bars := [bar2] }) (fun t => decide (t.casc = (caS1 { role := 2, nmem := 1, bars := [bar2] }).casc) && decide (t.adm.now = 43)) = true := by decide +kernel
def mBar : Cmd := { r := { l1 := lnB [(0, 0xC), (2, 3), (53, 3), (57, 9)] }, stage := .running }
theorem wit_ReleaseArrival : mBar.r.op = 0xC ∧ mBar.r.uOp = 3 ∧ mBar.r.uTag = 9 ∧
    ok (.cascadeReleaseArrival 9 0 0) { State.reset with rigs := [(0, { rig0 with running := some { stage := .running } }), (63, { upRig with running := some mBar })] } (fun t =>
      decide ((t.rig 63).running.bind (·.fin) = some finOk) && decide (t.adm.done.map (·.rig) = [some 63]) && decide ((t.rig 0).running = some { stage := .running })) = true ∧
    nx (.cascadeReleaseArrival 9 6 44) (caS1 { role := 1 }) (caS1 { role := 1, out := [(0, .release 9 6 44)] }) = true ∧ State.reset.portTo 7 = none ∧
    nx (.cascadeReleaseArrival 9 7 44) State.reset State.reset = true ∧ nx (.cascadeReleaseArrival 8 0 0) { State.reset with rigs := [(63, { upRig with running := some mBar })] } { State.reset with rigs := [(63, { upRig with running := some mBar })] } = true := by decide +kernel

theorem wit_Energy : (0 : RigId) ≠ 63 ∧ (State.reset.rig 0).running = none ∧
    ok (.energyAttribution [] [⟨20, [(0, 1), (63, 2)], 3⟩]) { onCore k0 with rigs := [(0, rig0), (63, { st := 1 })], pwr := { attr := [(0, 2 / 3)] } } (fun t =>
      decide (t.energyRig = [(0, 4), (63, 6)]) && decide (tget 0 t.pwr.attr 0 = 0) && decide (tget 0 t.pwr.attr 63 = 2 / 3)) = true ∧
    yardOf 1 = 0 ∧ (onCore k0).rigOfCore 1 = some 0 ∧
    ok (.energyAttribution [⟨0, 20, [(1, 1)], 3⟩] []) (onCore k0) (fun t => decide (t.energyRig = [(0, 5)])) = true ∧
    ok (.energyAttribution [⟨0, 20, [(2, 1)], 3⟩] []) (onCore k0) (fun t => decide (t.energyRig = [])) = true := by decide +kernel
def pw (p : Pwr) : State := { rdy State.reset with pwr := p, mem := [(4, 5)], hostMem := [(6, 7)] }
theorem wit_Feeds : ok (.feedLost false) (pw {}) (fun t => decide (t.pwr = { feedA := false, alost := true }) && t.evt.pend.getLsbD 0 && decide (t.mem = [(4, 5)])) = true ∧
    ok (.feedLost true) (pw {}) (fun t => decide (t.pwr = { feedB := false, blost := true })) = true ∧
    nx (.feedLost false) (pw { feedA := false }) (pw { feedA := false }) = true ∧ nx (.feedGood true) (pw {}) (pw {}) = true ∧
    ok (.feedGood true) (pw { feedB := false }) (fun t => t.pwr.feedB && t.evt.pend.getLsbD 0 && decide (t.mem = [(4, 5)])) = true ∧
    ok (.feedGood true) (pw { feedA := false, feedB := false, off := true }) (fun t => decide (t.boot.ph = 1) && decide (t.boot.step = 1) && t.pwr.feedB && !t.pwr.feedA && decide (t.mem = [])) = true ∧
    nx .bothFeedsLost (pw { feedA := false }) (pw { feedA := false }) = true ∧
    ok .bothFeedsLost (pw { feedA := false, feedB := false }) (fun t => decide (t.boot.ph = 0) && t.pwr.off && decide (t.mem = []) && decide (t.hostMem = [(6, 7)])) = true := by decide +kernel
theorem wit_Converters : ({ conv := 0b0110 } : Pwr).converters = 2 ∧ nx (.converterFailed 3) (pw { conv := 0b0110 }) (pw { conv := 0b0110 }) = true ∧
    ok (.converterFailed 3) (pw {}) (fun t => decide (t.pwr = { conv := 7, clost := true }) && t.evt.pend.getLsbD 1 && decide (t.cores = [])) = true ∧
    (pw { conv := 0b0110 }).pwr.conv.getLsbD 2 = true := by decide +kernel
def ya (k : Yard) : State := { rdy State.reset with yards := [(255, k)], pwr := { cap := 3400 }, rigs := [(5, { cores := 1 <<< 4080 })] }
theorem wit_Regulator : nx (.regulatorCellFailed 255) (ya { cells := 8 }) (ya { cells := 8 }) = true ∧
    ok (.regulatorCellFailed 255) (ya { cells := 1, lvl := 3 }) (fun t => decide ((t.yard 255).cells = 2) && t.pwr.chg && decide (t.boot.gen = 1) && t.evt.pend.getLsbD 2046 &&
      decide (t.yardTop 255 ≤ (t.yard 255).lvl) && decide (t.cores = [])) = true ∧
    ok (.regulatorCellFailed 255) (ya { cells := 2, lvl := 3 }) (fun t => decide ((t.yard 255).lvl = 7) && (t.core 4080).down && (t.core 4095).down && !(t.core 4079).down && t.evt.pend.getLsbD 2046) = true := by decide +kernel
theorem wit_Path : ok (.pathRatioWindowEnd 255 []) (ya {}) (fun t => decide (t.path 255 = {})) = true ∧ ratioState 256 = 0 ∧ ratioState 1000 = 2 ∧
    ok (.pathRatioWindowEnd 255 [1000]) { ya {} with pwr := { paths := [(255, { c1 := 2, c2 := 2 })] } } (fun t => decide ((t.path 255).st = 2) && (t.core 4080).down) = true ∧
    ok (.pathRatioWindowEnd 255 [1000]) (ya {}) (fun t => decide ((t.path 255).st = 0) && decide ((t.path 255).c2 = 2) && decide (t.cores = [])) = true := by decide +kernel
theorem wit_YardPowerOn : (ya { lvl := 0 }).mayPowerOn 255 = false ∧ nx (.yardPowerOnRequest 255) (ya {}) (ya {}) = true ∧
    (ya { lvl := 7 }).mayPowerOn 255 = true ∧
    ok (.yardPowerOnRequest 255) (ya { lvl := 7 }) (fun t => decide (t.yard 255 = { lvl := 7, ramp := if (ya { lvl := 7 }).heldBack 255 then .wait else .ready }) && decide (t.pwr.waits = [255])) = true ∧
    (ya { ramp := .ready }).ramping 3 < 4 ∧ (neighbours 255).any (ya { ramp := .ready }).nearLimit = false ∧
    ok (.yardRampStart 255) (ya { lvl := 7, ramp := .ready }) (fun t => decide (t.yard 255 = { lvl := 7, ramp := .ramping })) = true ∧
    nx (.neighbourWaitExpiry 255) (ya { lvl := 7, ramp := .ready }) (ya { lvl := 7, ramp := .ready }) = true ∧
    nx (.yardRampEnd 255) (ya { ramp := .ready }) (ya { ramp := .ready }) = true ∧
    ok (.yardRampEnd 255) (ya { lvl := 7, ramp := .ramping }) (fun t => decide ((t.yard 255).lvl = (ya { lvl := 7, ramp := .ramping }).wakeLevel 255) && decide ((t.yard 255).ramp = .no)) = true := by decide +kernel
def nearSt : State := { ya { lvl := 7, ramp := .ready } with yards := ((neighbours 255).take 1).map (fun n => (n, { cells := 2, pow := 1000000 })) ++ [(255, { lvl := 7, ramp := .ready })] }
theorem wit_NeighbourWait : (neighbours 255).any nearSt.nearLimit = true ∧
    ok (.neighbourWaitExpiry 255) nearSt (fun t => decide (t.yard 255 = { lvl := 7, ramp := .ramping, quarter := true })) = true ∧ nx (.yardRampStart 255) nearSt nearSt = true := by decide +kernel

/-! ### O51 and O52 -/

/-- A ready device whose controller runs, with cores 4080 and 0 bound, and some yards. -/
def gv (ys : Tab Yard) (p : Pwr) : State := { rdy State.reset with
  nest := { sheet := .running }, yards := ys, pwr := p, rigs := [(5, { cores := 1 ||| 1 <<< 4080, ff := 700, pwr := 1024 })] }
def p34 : Pwr := { cap := 3400, floor := 2400 }
theorem wit_FastGuard : (gv [] p34).capEff = 3400 ∧ ¬ (min 3900 ((gv [] p34).capEff + 500) : Rat) < ((3900 : Nat) : Rat) ∧
    nx (.fastGuardEstimate 3 3900) (gv [(255, { lvl := 1, own := 700 })] p34) (gv [(255, { lvl := 1, own := 700 })] { p34 with est := 3900 }) = true ∧
    (gv [(255, { lvl := 1, own := 700 })] p34).hottestOf ((mastYards 3).filter (gv [(255, { lvl := 1, own := 700 })] p34).reefable) = some 255 ∧
    ok (.fastGuardEstimate 3 3901) (gv [(255, { lvl := 1, own := 700 })] p34) (fun t => decide ((t.yard 255).lvl = 2)) = true ∧
    nx (.fastGuardEstimate 3 3901) (gv [(255, { lvl := 1 })] { p34 with cons := true }) (gv [(255, { lvl := 1 })] { p34 with cons := true, est := 3901 }) = true := by decide +kernel
def tel (m : Nat) : Telemetry := ⟨600, 601, 5, 6, 3001, m, 3000, 3500, m, [], [], []⟩
def two : Tab Yard := [(0, { lvl := 1, own := 600 }), (255, { lvl := 1, own := 700 })]
theorem wit_Governor : tabWf {} (gv two p34).yards = true ∧ (gv two p34).governs = true ∧ (gv two p34).target = 3400 ∧ (gv two p34).reefable 255 = true ∧
    ok (.governorEvaluation (tel 3401)) (gv two p34) (fun t => decide ((t.yard 255).lvl = 2) && decide ((t.yard 0).lvl = 1) && decide (t.pwr.mean1 = 3401) && decide (t.pwr.va = 600) && decide (t.pwr.ev = 1)) = true ∧
    ok (.governorEvaluation (tel 3400)) (gv two p34) (fun t => decide ((t.yard 255).lvl = 1) && decide ((t.yard 0).lvl = 1)) = true ∧
    (97 / 100 * (gv two p34).target ≤ ((3298 : Nat) : Rat)) ∧
    ok (.governorEvaluation (tel 3298)) (gv two p34) (fun t => decide ((t.yard 255).lvl = 1) && decide ((t.yard 0).lvl = 1)) = true := by decide +kernel
theorem wit_DutyFurl : (gv [(0, { lvl := 6 }), (255, { lvl := 6 })] p34).rigYards 5 = [0, 255] ∧
    ok (.dutyCycleFurl 5 true) (gv [(0, { lvl := 6 }), (255, { lvl := 6 })] p34) (fun t => decide ((t.yard 0).lvl = 7) && (t.yard 255).held && t.pwr.duty.getLsbD 5 &&
      ok (.dutyCycleFurl 5 false) t fun u => decide ((u.yard 255).lvl = 6) && decide (u.pwr.duty = 0)) = true ∧
    nx (.dutyCycleFurl 5 true) (gv [(0, { lvl := 5 }), (255, { lvl := 6 })] p34) (gv [(0, { lvl := 5 }), (255, { lvl := 6 })] p34) = true := by decide +kernel
theorem wit_Boost : (gv [(255, { raw := 30 })] p34).mayBoost 255 = true ∧ (gv [(255, { raw := 30 })] p34).yardBound 255 = true ∧
    nx (.boostStep 255) (gv [(255, { raw := 30, boost := 150 })] p34) (gv [(255, { raw := 30, boost := 200 })] p34) = true ∧
    nx (.boostStep 255) (gv [(255, { raw := 29, boost := 150 })] p34) (gv [(255, { raw := 29, boost := 150 })] p34) = true ∧
    nx (.consSet 15) (gv [] p34) (gv [] p34) = true ∧
    ok (.consSet 16) (gv [] p34) (fun t => t.pwr.cons && t.evt.pend.getLsbD 2 && nx .consClear { t with evt := {} } (gv [] { p34 with diff := 16 })) = true := by decide +kernel
def hotY : Yard := { lvl := 1 }
theorem wit_Sensors : ok (.sensorSample ⟨[⟨255, 1050, 0⟩], [], [], 300, 350, []⟩) { gv [(255, hotY)] p34 with therm := { n := 4 } } (fun t => decide ((t.yard 255).lvl = 2) &&
      decide ((t.yard 255).cause = 3) && (t.yard 255).hot && decide (t.therm.tin = 300) && decide (t.therm.n = 5)) = true ∧
    ok (.sensorSample ⟨[⟨255, 1050, 0⟩], [], [], 300, 350, []⟩) { gv [(255, hotY)] p34 with therm := { n := 5 } } (fun t => decide ((t.yard 255).lvl = 1) && decide (t.therm.tout = 350)) = true ∧
    State.reset.governs = false ∧ hotY.hasModel = false := by decide +kernel
theorem wit_Model : ok (.modelEvaluation [⟨255, 600, 500⟩]) (gv [(255, { own := 661, diff := 2 })] p34) (fun t => (t.yard 255).susp && decide ((t.yard 255).diff = 3) &&
      decide ((t.yard 255).model = 600) && (t.yard 255).hasModel && t.evt.pend.getLsbD 2045) = true ∧
    ok (.modelEvaluation [⟨255, 600, 500⟩]) (gv [(255, { own := 660, diff := 2 })] p34) (fun t => !(t.yard 255).susp && decide ((t.yard 255).diff = 0)) = true ∧
    ok (.modelEvaluation [⟨255, 600, 500⟩]) (gv [(255, { own := 539, diff := 1 })] p34) (fun t => !(t.yard 255).susp && decide ((t.yard 255).diff = 2)) = true := by decide +kernel
theorem wit_Flow : (gv [] p34).meterOn = false ∧ nx (.flowInference 500 300 320) State.reset State.reset = true ∧
    ok (.flowInference 500 300 320) (gv [] p34) (fun t => decide (t.therm.inf = 30000000 / 79600) && decide (t.therm.flow = t.therm.inf) && decide (t.yards = [])) = true ∧
    ok (.flowInference 500 549 570) (gv [] p34) (fun t => !t.pwr.emerg) = true ∧
    nx (.flowInference 500 401 420) (gv [] { p34 with air := true }) { gv [] { p34 with air := true } with therm := { inhot := true } } = true ∧
    nx .flowMeterPulse (gv [] p34) (gv [] p34) = true ∧
    nx .flowMeterPulse { gv [] p34 with bar0 := [(0x040020, 0x12C003C5001)] } { gv [] p34 with bar0 := [(0x040020, 0x12C003C5001)], therm := { pulses := 1 } } = true := by decide +kernel
theorem wit_Trip : nx .thermalTrip { State.reset with boot := { step := 3 } } { State.reset with boot := { step := 3 } } = true ∧
    ok .thermalTrip { gv [] p34 with mem := [(5, 5)] } (fun t => decide (t.boot.ph = 0) && t.therm.tripped && t.pwr.off && decide (t.mem = [])) = true ∧
    ok .thermalTrip { State.reset with boot := { step := 4 } } (fun t => decide (t.boot.ph = 0)) = true := by decide +kernel
def emSt (f hot : Nat) : State := { gv [(255, { own := hot })] { p34 with emerg := true } with therm := { okFor := f } }
theorem wit_EmergClear : (emSt 10 849).hottest < 850 ∧ (emSt 10 849).bar0On 0x030020 = true ∧
    nx .emergClear (emSt 10 849) { emSt 10 849 with pwr := p34 } = true ∧ nx .emergClear (emSt 9 849) (emSt 9 849) = true ∧ nx .emergClear (emSt 10 850) (emSt 10 850) = true := by decide +kernel

def tt : Telltale := ⟨20, 25, 300, 60, [50, 40]⟩
theorem wit_Telltale : nx (.telltaleMeasurement 255 tt) (gv [(255, { samples := [7] })] p34)
      (gv [(255, { samples := [7, 20], slack := 20, raw := 25, low := 255, temp := 60, levels := [50, 40] })] p34) = true ∧
    ok (.telltaleGuardRaise 255 false) (gv [(255, { off := 40, guard := 18 })] p34) (fun t => decide ((t.yard 255).guard = 20) && t.evt.pend.getLsbD 2047 && (t.reg ageStat).getLsbD 2) = true ∧
    nx (.telltaleGuardRaise 255 false) (gv [(255, { off := 40, guard := 20 })] p34) (gv [(255, { off := 40, guard := 20 })] p34) = true ∧
    ok (.telltaleGuardRaise 255 true) (gv [(255, { off := 40, guard := 20 })] p34) (fun t => (t.core 4080).down && (t.core 4095).down && !(t.core 4079).down) = true := by decide +kernel
/-- A median slack of 20 calls for +5 mV; the levels allow level 1 on, at +40 mV, where level 0 has 29. -/
def plY : Yard := { samples := [10, 20, 90], levels := [29, 30, 40, 40, 40, 40, 40] }
theorem wit_MarginPlan : median plY.samples = 20 ∧ planOffset (median plY.samples) = 5 ∧ planCeil plY.levels = some 1 ∧ 1 ≤ (gv [(255, plY)] p34).yardFloor 255 ∧
    (∀ i ∈ [Instr.marginPlan, .recomp], ok i (gv [(255, plY)] p34) (fun t => decide ((t.yard 255).planned = (5, 1)) && decide ((t.yard 255).off = 5) && decide ((t.yard 255).ceil = 1) &&
      decide ((t.yard 255).lvl = 1) && decide (bits (t.reg ageStat).toNat 63 48 = 1) && (t.reg ageStat).getLsbD 1) = true) ∧
    nx .recomp State.reset State.reset = true ∧ (gv [] p34).bar0On ageStat = true := by decide +kernel
theorem wit_RasRegisters : (gv [] p34).bar0On 0x050008 = true ∧ (gv [] p34).bar0On 0x050010 = true ∧
    ok (.rasFliptgtWrite 0x8000000000000007) (gv [] p34) (fun t => decide (t.ras.flipTgt = 0x8000000000000000)) = true ∧
    ok .rasCeClr { gv [] p34 with ras := { next := 3, table := [(0, ⟨1, 2, 3, 4, 5, 6, false⟩)] } } (fun t => decide (t.ras = {})) = true := by decide +kernel
def scSt (base len : Nat) (rigs : Tab Rig) : State := { rdy State.reset with bar0 := [(0x050020, BitVec.ofNat 64 base), (0x050028, BitVec.ofNat 64 len)], rigs := rigs, mem := [(tileAddr 0 5, 7)], gran := [(tileAddr 0 0 / 4096, .written)], errs := [(tileAddr 0 0, .ce 3), (tileAddr 0 4032, .ue)] }
theorem wit_Scrub : (scSt (tileAddr 0 0) 4096 []).scrubBase = tileAddr 0 0 ∧ (scSt (tileAddr 0 0) 4096 []).scrubLen = 4096 ∧ (scSt 0 4096 []).bar0On 0x050030 = true ∧
    (scSt (tileAddr 0 0) 4096 []).scrubOwner (tileAddr 0 0) 4096 = some none ∧ (scSt (tileAddr 0 0) 4096 [(0, rig0)]).scrubOwner (tileAddr 0 0) 4096 = some (some 0) ∧
    (scSt (tileAddr 0 0) 0 []).scrubOwner (tileAddr 0 0) 0 = none ∧
    nx (.scrubGo true) { scSt 0 0 [] with scrub := { busy := true } } { scSt 0 0 [] with scrub := { busy := true } } = true ∧
    ok (.scrubGo false) (scSt (tileAddr 0 0) 0 []) (fun t => t.scrub.done && decide (t.scrub.status = 0x11) && t.evt.pend.getLsbD 257) = true ∧
    ok (.scrubGo true) (scSt (tileAddr 0 0) 4096 []) (fun t => decide (t.scrub = { nofix := true, busy := true })) = true ∧
    ok (.scrubGo false) (scSt (tileAddr 0 0) 4096 [(0, rig0)]) (fun t => decide (t.scrub = { busy := true, rig := some 0 }) && decide ((t.rig 0).cq.map (fun m => (m.r.op, m.r.cls, m.r.u 24 8, m.r.u 32 8)) = [(4, 3, tileAddr 0 0, 4096)])) = true := by decide +kernel
def busySt : State := { scSt (tileAddr 0 0) 4096 [] with scrub := { busy := true } }
theorem wit_ScrubEnd : busySt.scrubbing = none ∧ busySt.scrubWaits busySt.scrubBase busySt.scrubLen = false ∧ busySt.downAt (tileAddr 0 0) = false ∧
    ok .scrubEnd { busySt with cores := [(0, { down := true })] } (fun t => t.scrub.done && decide (t.scrub.status = 0x21) && decide (t.errs = busySt.errs)) = true ∧ nx .scrubEnd (scSt 0 0 []) (scSt 0 0 []) = true ∧ busySt.granAt (tileAddr 0 0) = .written ∧
    ok .scrubEnd busySt (fun t => decide (t.errs = [(tileAddr 0 4032, .ue)]) && decide (t.scrub.sum.getD 0 0 = 1) && t.scrub.done && decide (t.mem = busySt.mem) && t.evt.pend.getLsbD 257) = true := by decide +kernel
theorem wit_WayRetire : ok (.llcWayRetire 127 15) State.reset (fun t => decide (t.llc.failing = [(127, 0x8000)]) && decide (t.failures = [(4, 2174)]) &&
    nx (.llcWayRetire 127 15) t t) = true := by decide +kernel

/-! ### O53 to O55 -/

/-- A device in a step of start-up, with PERST# released. -/
def bt (n : Nat) : State := { State.reset with boot := { step := n, perst := false, link := true } }
/-- A state with one of its boot record. -/
def wb (s : State) (b : Boot) : State := { s with boot := b }
/-- A state with both feeds lost and something to lose. -/
def dark : State := { State.reset with pwr := { feedA := false, feedB := false }, mem := [(5, 5)], failures := [(0, 7)], hostMem := [(9, 9)], boot := { ph := 0, step := 0 }, sec := { next := true, busy := true }, adm := { now := 4 } }
theorem wit_PowerOn : ok (.powerOn true) dark (fun t => decide (t.boot.ph = 1) && decide (t.boot.step = 1) && t.pwr.air && t.pwr.feedA && decide (t.mem = []) && decide (t.adm = {}) &&
      decide (t.failures = [(0, 7)]) && decide (t.hostMem = [(9, 9)]) && decide (t.sec = { next := true })) = true ∧
    nx (.powerOn true) State.reset State.reset = true ∧ nx .deviceReset dark dark = true := by decide +kernel
theorem wit_DeviceReset :
    ok .deviceReset { rdy (onCore k1) with mem := [(5, 5)], failures := [(0, 7)], pwr := { conv := 3, cap := 3400 } } (fun t => decide (t.boot.step = 3) && decide (t.boot.ph = 1) &&
      !t.boot.link && decide (t.pwr.conv = 3) && decide (t.pwr.cap = 0) && decide (t.mem = []) && decide (t.failures = [(0, 7)]) && decide (t.cores = [])) = true ∧
    ok .deviceReset (bt 2) (fun t => decide (t.boot.step = 2)) = true ∧ ok .deviceReset (bt 3) (fun t => decide (t.boot.step = 3)) = true ∧
    ok .deviceReset (bt 9) (fun t => decide (t.boot.step = 3)) = true := by decide +kernel
/-- A step that took 5 ms, ended with a cause, trained a unit in full and brought rails to the voltages given. -/
def se (cause : BitVec 8) (volts : List Nat) : StepEnd := ⟨5, cause, [], [1], 0, [], [], volts⟩
theorem wit_StartupStep : nx (.startupStepEnd (se 0 [])) State.reset State.reset = true ∧
    ((bt 1).railStep 1 (List.replicate 9 1000)).2 = true ∧ ((bt 4).railStep 4 (List.replicate 16 1030)).2 = true ∧ ((bt 1).railStep 1 (List.replicate 8 1000)).2 = false ∧
    ok (.startupStepEnd (se 0 (List.replicate 9 1000))) (bt 1) (fun t => decide (t.boot = { (bt 1).boot with stime := 5, nfull := 1, step := 2 }) &&
      decide (t.pwr.rails.map (·.rail) = [.vstby, .link, .link, .link, .link, .step, .step, .step, .step])) = true ∧
    ok (.startupStepEnd (se 0 [1000, 969, 1000])) (bt 1) (fun t => decide (t.boot.ph = 6) && decide (t.boot.cause = 3) && decide (t.pwr.rails.length = 2)) = true ∧
    nx (.startupStepEnd { se 0 [] with ms := 0xFFFF, full := List.range 9 }) (bt 9) (wb (bt 9) { (bt 9).boot with stime := 0xFFFF, nfull := 9 }) = true ∧
    nx (.startupStepEnd (se 4 [])) (bt 3) (wb (bt 3) { (bt 3).boot with stime := 5, nfull := 1, ph := 6, cause := 4 }) = true ∧
    nx (.startupStepEnd (se 4 [])) (wb (bt 3) { (bt 3).boot with paused := true }) (wb (bt 3) { (bt 3).boot with paused := true }) = true ∧
    nx (.startupStepEnd (se 0 [])) (bt 2) (wb (bt 2) { (bt 2).boot with stime := 5, nfull := 1, ph := 6, cause := 1 }) = true ∧
    ({ bt 3 with fuses := [{ secret := 1 }, { secret := 2 }, { secret := 3 }] } : State).fusesBad = true ∧ (bt 3).fusesBad = false ∧
    ok (.startupStepEnd (se 0 [])) { bt 3 with fuses := [{ secret := 1 }, { secret := 2 }, { secret := 3 }] } (fun t => decide (t.boot.cause = 2)) = true ∧
    nx (.startupPause true) (bt 4) (wb (bt 4) { (bt 4).boot with paused := true }) = true ∧ nx (.startupPause true) (rdy State.reset) (rdy State.reset) = true ∧
    (bt 8).llc.lines = [] := by decide +kernel
/-- An image in slot A. -/
def secA (img : List Byte) : Sec := { slotA := some img }
/-- Step 2 with an image in slot A that verifies, which is for Config's functions to say, has no cause to end in FAILED. -/
theorem wit_StartupStep_boots (img : List Byte) (h : (secA img).slotOk false = true) : ({ bt 2 with sec := secA img } : State).stepCause (se 0 []) true = 0 := by
  simp [State.stepCause, se, bt, h]
/-- Fuses of one secret and a lost channel: step 3 derives both pairs and loses the channel. -/
theorem wit_StartupStep_fuses : ok (.startupStepEnd (se 0 [])) { bt 3 with failures := [(5, 7)] } (fun t => (t.chan 7).lost && decide (t.boot.step = 4)) = true ∧
    majority ((bt 3).fuses.map (·.secret)) = some 0 ∧ ({ bt 3 with failures := [(5, 7)] } : State).listedBad 5 = [7] :=
  ⟨rfl, by decide +kernel, by decide +kernel⟩
/-- Wire 3 of position 1 passes its retest and wire 4 fails; of 17 rows recorded 16 are repaired. -/
theorem wit_StartupStep_trains : ok (.startupStepEnd { se 0 [] with passed := [547], bad := [548] }) { bt 5 with failures := [(2, 547)] } (fun t =>
      decide (t.failures = [(2, 548)]) && decide (t.boot.step = 6)) = true ∧
    ok (.startupStepEnd { se 0 [] with bad := [9] }) { bt 6 with failures := (List.range 17).map (fun i => (6, i)) } (fun t => (t.chan 9).lost &&
      decide (t.failures = [(6, 16), (5, 9)]) && decide (t.boot.step = 7)) = true ∧
    ok (.startupStepEnd { se 0 [] with present := 0b100001 }) (bt 7) (fun t => decide (t.boot.step = 8) && (t.port 0).present && !(t.port 1).present && (t.port 5).present) = true := by decide +kernel
theorem wit_Ready : nx .ready (bt 8) (bt 8) = true ∧ (bt 9).boot.ph = 1 ∧ (bt 9).boot.step = 9 ∧ (bt 9).boot.paused = false ∧
    nx .force (rdy State.reset) (wb (rdy State.reset) { (rdy State.reset).boot with force := true }) = true ∧ nx .force dark dark = true ∧
    nx .perstRelease State.reset (wb State.reset { State.reset.boot with perst := false }) = true ∧
    nx (.linkTrainingEnd true) State.reset State.reset = true ∧
    nx (.linkTrainingEnd false) (bt 2) (wb (bt 2) { (bt 2).boot with pcie := true }) = true := by decide +kernel

/-- A ready device with a loop-back that runs and a standby controller. -/
def nst (k : Nest) : State := { rdy State.reset with nest := k, loops := [(1, { ctl := 1, st := 2 })], mem := [(5, 5)] }
theorem wit_Lockstep : nx .lockstepTakeover dark dark = true ∧
    ok .lockstepTakeover (nst { sheet := .running, standby := false }) (fun t => decide (t.boot.ph = 0) && t.pwr.off && decide (t.nest.sheet = .dead)) = true ∧
    nx .lockstepTakeover { bt 7 with nest := { sheet := .running } } { wb (bt 7) { (bt 7).boot with step := 2 } with nest := { standby := false } } = true ∧
    nx .lockstepTakeover (bt 1) { bt 1 with nest := { standby := false } } = true ∧
    ok .lockstepTakeover (nst { sheet := .running }) (fun t => decide (t.nest = { sheet := .takeover, standby := false }) && t.evt.pend.getLsbD 5 && decide (t.mem = [(5, 5)]) &&
      decide ((t.loop 1).st = 0) && decide ((t.loop 1).result = 5)) = true ∧
    ok .watchdogExpiry (nst { sheet := .running }) (fun t => decide (t.nest = { sheet := .takeover, standby := false })) = true ∧
    nx .watchdogExpiry (nst { sheet := .waiting }) (nst { sheet := .waiting }) = true := by decide +kernel
theorem wit_Takeover : nx .standbyTakeoverDone (nst { sheet := .running }) (nst { sheet := .running }) = true ∧
    ok .standbyTakeoverDone (nst { sheet := .takeover, standby := false, latched := [5, 200] }) (fun t => decide (t.nest = { sheet := .running, standby := false }) && t.evt.pend.getLsbD 5) = true ∧
    nx .wakeTimerExpiry (nst { timer := true, sheet := .waiting }) (nst { sheet := .running }) = true ∧
    nx .wakeTimerExpiry (nst { timer := true, sheet := .takeover }) (nst { sheet := .takeover }) = true ∧ nx .wakeTimerExpiry (nst {}) (nst {}) = true ∧
    (nst {}).watched 2047 = false ∧ nx (.crowsNestWake 2047) (nst { sheet := .waiting }) (nst { sheet := .waiting }) = true := by decide +kernel
/-- The same with source 5 on the watch list. -/
def nst5 (k : Nest) : State := { nst k with bar0 := [(nestSel + 16, 0x8005)] }
theorem wit_CrowsNest : (nst5 {}).watched 5 = true ∧
    nx (.crowsNestWake 5) (nst5 { sheet := .waiting }) (nst5 { sheet := .running }) = true ∧
    nx (.crowsNestWake 5) (nst5 { sheet := .takeover }) (nst5 { sheet := .takeover, latched := [5] }) = true ∧
    nx (.crowsNestWake 5) (nst5 { sheet := .running }) (nst5 { sheet := .running }) = true := by decide +kernel

/-- A ready device that answers, with its security record. -/
def sq (k : Sec) : State := { rdy State.reset with nest := { sheet := .running }, sec := k }
def s8 : List Sess := (List.range 8).map fun i => ⟨i, 0⟩
theorem wit_Spdm : (sq {}).responds .doe = true ∧ State.reset.responds .doe = false ∧ (sq {}).responds (.pahus 0) = false ∧
    nx (.spdmRequest .doe .keyExchange) (sq { sess := s8 }) (sq { sess := s8, rsp := some (0, .limit) }) = true ∧
    nx (.spdmRequest .doe (.measurements 0)) (sq {}) (sq { rsp := some (0, .error) }) = true ∧
    nx (.spdmRequest .doe (.measurements 6)) (sq {}) (sq { rsp := some (0, .error) }) = true ∧
    nx (.spdmRequest .mctp (.heartbeat 3)) (sq { sess := [⟨3, 1⟩] }) (sq { sess := [⟨3, 1⟩], rsp := some (1, .ack) }) = true ∧
    nx (.spdmRequest .doe (.heartbeat 3)) (sq { sess := [⟨3, 1⟩] }) (sq { sess := [⟨3, 1⟩], rsp := some (0, .error) }) = true ∧
    nx (.slhsigReq .doe []) (sq {}) (sq { rsp := some (0, .error) }) = true ∧
    nx (.spdmRequest (.pahus 0) .other) (sq {}) (sq {}) = true ∧
    nx (.bindCmd 3 77) (sq { sess := [⟨3, 0⟩], ctr := 5 }) (sq { sess := [⟨3, 0⟩], bound := some 3, key := cmdKey 77, rsp := some (0, .ack) }) = true ∧
    nx (.bindCmd 3 77) (sq { sess := [⟨3, 1⟩] }) (sq { sess := [⟨3, 1⟩], rsp := some (0, .error) }) = true ∧
    nx (.endSession 3) (sq { sess := [⟨3, 0⟩, ⟨4, 0⟩], bound := some 3, key := 77 }) (sq { sess := [⟨4, 0⟩] }) = true ∧
    nx (.spdmHeartbeatTimeout 4) (sq { sess := [⟨3, 0⟩, ⟨4, 0⟩], bound := some 3, key := 77 }) (sq { sess := [⟨3, 0⟩], bound := some 3, key := 77 }) = true := by decide +kernel
theorem wit_SpdmSigned : exec (.spdmRequest .doe .keyExchange) (sq {}) =
      .next { sq { sess := [⟨0, 0⟩], rsp := some (0, .keyExchange 0 (Config.sign 0 0 (leBytes 8 0))) } with free := 1 } ∧
    exec (.spdmRequest .doe (.measurements 1)) (sq {}) =
      .next { sq { rsp := some (0, .measurements 1 (Config.measured 1 []) (Config.sign 0 0 (leBytes 8 0))) } with free := 1 } ∧
    exec (.slhsigReq .doe [1]) (sq { rsp := some (0, .challenge 5) }) = .next (sq { rsp := some (0, .slhsig (Config.sign 1 0 [1])) }) :=
  ⟨rfl, rfl, rfl⟩
/-- The same with the mailbox's ADDR, LEN and SLOT. -/
def mb (len slot : Nat) (k : Sec) : State := { sq k with bar0 := [(0x0A0008, 0x1000), (0x0A0010, BitVec.ofNat 64 len), (0x0A0018, BitVec.ofNat 64 slot)] }
/-- The same with the ROM alone running. -/
def rom (len : Nat) (k : Sec) : State := { mb len 0 k with boot := { ph := 6, cause := 1, step := 2, link := true } }
theorem wit_Mailbox : (mb 0x400000 1 {}).bar0On 0x0A0000 = true ∧ (rom 8 {}).bar0On 0x0A0000 = true ∧ (mb 0x400000 1 {}).mboxLen = 0x400000 ∧ (rom 8 {}).romOnly = true ∧
    nx .stage (mb 0x400000 1 { slotB := some [1] }) (mb 0x400000 1 { busy := true, op := 1 }) = true ∧
    ok .stage (mb 8 0 {}) (fun t => decide (t.sec = { result := 5 }) && t.evt.pend.getLsbD 4) = true ∧
    ok .stage (mb 0x400001 1 {}) (fun t => decide (t.sec.result = 4)) = true ∧
    nx .recover (rom 8 { slotA := some [1] }) (rom 8 { busy := true, op := 2 }) = true ∧
    ok .recover (mb 8 0 {}) (fun t => decide (t.sec = { result := 7 }) && t.evt.pend.getLsbD 4) = true ∧
    nx .stage (mb 8 1 { busy := true }) (mb 8 1 { busy := true }) = true ∧
    nx (.mailboxOperationEnd none) (mb 8 1 {}) (mb 8 1 {}) = true ∧
    ok (.mailboxOperationEnd none) (mb 8 1 { busy := true }) (fun t => decide (t.sec = { result := 6 }) && t.evt.pend.getLsbD 4) = true ∧
    ok (.mailboxOperationEnd (some ⟨[1, 2]⟩)) (mb 8 1 { busy := true, op := 1, slotA := some [7] }) (fun t => decide (t.sec = { slotA := some [7], op := 1, result := 4 })) = true := by decide +kernel
theorem wit_Pldm : nx (.pldmRequest .event) (sq {}) { sq {} with rsp := some ([], false) } = true ∧
    nx (.pldmRequest .event) { sq {} with therm := { events := [(1, 2), (3, 4)] } } { sq {} with therm := { events := [(3, 4)] }, rsp := some ([1, 2], false) } = true ∧
    nx (.pldmRequest (.sensor 1)) { sq {} with therm := { tin := 300, pldm := [(1, 2)] } } { sq {} with therm := { tin := 300, pldm := [(1, 2)] }, rsp := some ([0x2C, 1, 0, 2], false) } = true ∧
    nx (.pldmRequest (.sensor 3)) { sq {} with therm := { flow := 7 / 2 } } { sq {} with therm := { flow := 7 / 2 }, rsp := some ([3, 0, 0, 0], false) } = true := by decide +kernel

/-! ### O56 to O60 -/

/-- A ready device with its events. -/
def ev (e : Evt) : State := { rdy State.reset with evt := e }
theorem wit_EventRaise : listedSource 5 = true ∧ listedSource 100 = false ∧ (ev { mask := 0, route := [(5, 0x8007)] }).route 5 = 0x8007 ∧
    nx (.eventRaise 100) (ev {}) (ev {}) = true ∧ nx (.eventRaise 5) (ev { pend := 32 }) (ev { pend := 32 }) = true ∧
    nx (.eventRaise 5) (ev { mask := 0, route := [(5, 0x8007)] }) (ev { mask := 0, route := [(5, 0x8007)], pend := 32, due := 32 }) = true ∧
    nx (.eventRaise 5) (ev { route := [(5, 0x8007)] }) (ev { route := [(5, 0x8007)], pend := 32 }) = true ∧
    nx (.eventRaise 130) { ev {} with rigs := [(2, rig0)] } { ev { pend := BitVec.twoPow 2048 130 } with rigs := [(2, rig0)] } = true := by decide +kernel
theorem wit_EventWrites : nx (.evtMaskSet 0 0x1000000020) (ev { mask := 0 }) (ev { mask := 32 }) = true ∧
    nx (.evtMaskClr 31 (BitVec.twoPow 64 63)) (ev {}) (ev { mask := BitVec.allOnes 2048 &&& ~~~(BitVec.twoPow 2048 2047) }) = true ∧
    nx (.evtPendSet 0 0x1000000020) (ev {}) (ev { pend := 32 }) = true ∧ nx (.evtPendClr 0 0x20) (ev { pend := 48 }) (ev { pend := 16 }) = true ∧
    nx (.evtPendSet 2 4) { ev {} with rigs := [(2, rig0)] } { ev { pend := BitVec.twoPow 2048 130 } with rigs := [(2, rig0)] } = true := by decide +kernel
/-- Source 5 is due to vector 7. -/
def du (e : Evt) : State := ev { e with mask := 0, route := [(5, 0x8007)], pend := 32, due := 32 }
theorem wit_MessageSend : (du {}).dueOf 7 = [5] ∧ (du {}).vecDeliverable 7 = true ∧ (du { until_ := [(7, 100)] }).inHold 7 99 = true ∧ (du {}).inHold 7 0 = false ∧
    nx (.eventMessageSend 7 99) (du { until_ := [(7, 100)] }) (du { until_ := [(7, 100)], now := 99 }) = true ∧
    nx (.eventMessageSend 7 100) (du { until_ := [(7, 100)], hold := [(7, 2)] }) { du {} with evt := { (du {}).evt with due := 0, hold := [(7, 2)], until_ := [(7, 2600)], sent := [7], now := 100 } } = true ∧
    nx (.eventMessageSend 7 99) (du { until_ := [(7, 100)], idle := 1 }) { du {} with evt := { (du {}).evt with due := 0, sent := [7], now := 99 } } = true ∧
    nx (.eventMessageSend 7 0) (du { fnMask := true }) { du {} with evt := { (du {}).evt with due := 0, fnMask := true, pba := 128 } } = true ∧
    nx (.holdoffExpiry 7 99) (du { until_ := [(7, 100)] }) (du { until_ := [(7, 100)], now := 99 }) = true ∧
    nx (.holdoffExpiry 7 100) (du { until_ := [(7, 100)] }) { du {} with evt := { (du {}).evt with due := 0, sent := [7], now := 100 } } = true ∧
    nx (.holdoffExpiry 8 100) (du { until_ := [(8, 100)] }) (du { now := 100 }) = true := by decide +kernel
theorem wit_EventReads : (ev {}).bar0On 0x063800 = true ∧ nx (.evtIdleHintWrite 3 0) (ev {}) (ev { idle := 3 }) = true ∧
    nx (.evtRead 0x060200) (ev { pend := 48 }) { ev { pend := 48 } with rsp := some (leBytes 8 48, false) } = true ∧
    nx (.evtRead 0x0603F8) (ev { pend := BitVec.twoPow 2048 2047 }) { ev { pend := BitVec.twoPow 2048 2047 } with rsp := some (leBytes 8 (2 ^ 63), false) } = true ∧
    nx (.msixMaskWrite (.vec 7) true) (ev {}) (ev { vecMask := 128 }) = true ∧ (ev {}).evt.pba = 0 ∧
    nx (.msixMaskWrite (.entry 7 0x1000 5) false) (ev {}) (ev { msg := [(7, 0x50000000000001000)] }) = true ∧ nx (.msixMaskWrite .fn true) State.reset State.reset = true ∧
    nx (.msixMaskWrite (.vec 7) false) (ev { vecMask := 128, pba := 128 }) (ev { sent := [7] }) = true ∧
    nx .sheetHoldoffExpiry (ev { mask := 0, route := [(5, 0x4000)], pend := 32, sheetDue := 32 }) (ev { mask := 0, route := [(5, 0x4000)], pend := 32, sheetQ := [5], sheetHold := true }) = true ∧
    nx .sheetHoldoffExpiry (ev { sheetHold := true }) (ev {}) = true := by decide +kernel

/-- A ready device with one loop-back interface. -/
def lp (i : Nat) (l : Loop) : State := { rdy State.reset with loops := tset {} [] i l }
theorem wit_LoopEnter : (lp 0 {}).bar0On (loopOff 0) = true ∧
    (∀ st ∈ [(1 : BitVec 8), 2, 3], nx (.loopEnter 1 3) (lp 1 { st := st }) (lp 1 { st := st }) = true) ∧
    loopListed 0 (0xFFFF &&& loopFields) = false ∧ ok (.loopEnter 0 0xFFFF) (lp 0 {}) (fun t => decide ((t.loop 0).st = 4) && decide ((t.loop 0).result = 4)) = true := by decide +kernel
theorem wit_LoopEntered : loopListed 1 (0x40 ||| 1 &&& loopFields) = true ∧ (lp 1 {}).loopReady 1 0x41 = true ∧ (lp 1 {}).loopReady 1 0x51 = false ∧
    ok (.loopEnter 1 0x41) (lp 1 { errs := 3 }) (fun t => decide (t.loop 1 = { ctl := 0x41, st := 2 }) && decide ((t.port 0).st = 5) && decide (t.rigs = [])) = true ∧
    nx (.loopEnter 1 0x51) (lp 1 {}) (lp 1 { ctl := 0x50, st := 4, result := 3 }) = true ∧
    ok (.loopEnter 0 0x0001000000000011) (lp 0 {}) (fun t => decide ((t.loop 0).st = 2) && !t.boot.link) = true ∧
    nx (.loopEnter 0 0x03E9000000000011) (lp 0 {}) (lp 0 { ctl := 0x03E9000000000010, st := 4, result := 3 }) = true ∧
    nx (.loopLeave 1) (lp 1 { st := 2 }) (lp 1 { st := 3 }) = true ∧ nx (.loopLeave 1) (lp 1 { st := 3 }) (lp 1 { st := 3 }) = true := by decide +kernel
theorem wit_LoopEnds : nx (.loopDurationExpiry 1 0 9 true) (lp 1 { ctl := 0x41, st := 2 }) (lp 1 { ctl := 0x41, st := 2 }) = true ∧
    ok (.loopDurationExpiry 1 0xFFFFFF 0xFFFF true) (lp 1 { ctl := 0x41, st := 3 }) (fun t => decide (t.loop 1 = { ctl := 0x40, result := 1, errs := 0xFFFFFF, time := 0xFFFF }) &&
      decide ((t.port 0).st = 0)) = true ∧
    ok (.loopDurationExpiry 1 0 9 false) (lp 1 { ctl := 0x1000000000041, st := 2 }) (fun t => decide (t.loop 1 = { ctl := 0x1000000000040, result := 2, time := 9 })) = true ∧
    ok (.loopFarEndTimeout 1) (lp 1 { ctl := 0x41, st := 2 }) (fun t => decide ((t.loop 1).st = 0) && decide ((t.loop 1).result = 6)) = true ∧
    nx (.loopFarEndTimeout 1) (lp 1 { ctl := 0x31, st := 2 }) (lp 1 { ctl := 0x31, st := 2 }) = true ∧
    nx (.loopFarEndTimeout 1) (lp 1 { ctl := 0x41, st := 3 }) (lp 1 { ctl := 0x41, st := 3 }) = true := by decide +kernel
theorem wit_RegisterWrites : nx (.registerWrite 0x0C0000 2 5) (ev {}) (ev {}) = true ∧ nx (.registerWrite 0x0C0004 8 5) (ev {}) (ev {}) = true ∧
    nx (.registerWrite 0x0C0000 8 5) State.reset State.reset = true ∧
    ok (.registerWrite 0x0C0000 8 0xFFFFFFFFFFFFFFFE) (ev {}) (fun t => decide (t.reg 0x0C0000 = 0xFFFF00FF00000002)) = true ∧
    ok (.registerWrite 0x0C0004 4 0x12345678) (ev {}) (fun t => decide (t.reg 0x0C0000 = 0x1234007800000001)) = true ∧
    ok (.registerWrite (strmOff 255 0) 8 0x12345678) (ev {}) (fun t => decide (t.reg (strmOff 255 0) = 0x12345000)) = true ∧
    nx (.registerWrite (strmOff 255 0) 8 0x12345678) { ev {} with strms := [(255, { en := true })] } { ev {} with strms := [(255, { en := true })] } = true := by decide +kernel
theorem wit_LlcRegisters : (ev {}).bar0On 0x070000 = true ∧ (ev {}).bar0On 0x070008 = true ∧
    nx (.llcHashKeyWrite 5) (ev {}) { ev {} with llc := { staged := some 5 }, free := 1 } = true ∧
    ok (.llcModeSet 0x20003) (ev {}) (fun t => decide (t.reg 0x070008 = 3)) = true ∧
    ({ ev {} with rigs := [(0, rig0)] } : State).rigOfRegion 0 = some 0 ∧
    ok (.llcModeSet 0x30000) { ev {} with rigs := [(0, rig0)] } (fun t => decide (t.llc.rstage = [(0, some 1)]) && decide (t.llc.rmode = [])) = true ∧
    ok (.llcModeSet 0x3017F) { ev {} with rigs := [(0, rig0)], mem := [(5, 5)] } (fun t => decide (t.llc.rmode = [(383, 1)]) && decide (t.mem = [(5, 5)])) = true := by decide +kernel
theorem wit_HashKeyDrawn : exec (.llcHashKeyWrite 0) (ev {}) = .next { ev {} with llc := { staged := some (Config.drawnKey 0) }, free := 1 } := rfl
theorem wit_Reset : State.reset.memWf = true ∧ State.reset.boot.legal = true ∧ State.reset.pending = [] ∧ step State.reset = .next State.reset := ⟨rfl, by decide, rfl, rfl⟩
/-- A stall that an instance of its row resumes. -/
theorem wit_Completes : (Instr.issueResume 0).wf = true ∧ ({ k1 with stall := some (.mul 0 (.reg ⟨1, 2, 3, 0, 0, false, 0⟩)) } : Core).stall.all Instr.wf = true ∧
    (Instr.vopMov 0 (fV 1 2 3 2 0)).wf = true := by decide +kernel
theorem wit_StepKeeps : ({ ev {} with pending := [.force], mem := [(5, 5)], hostMem := [(2, 9)] } : State).memWf = true ∧ (ev {}).boot.legal = true ∧
    step { ev {} with pending := [.force] } = .next (wb (ev {}) { (ev {}).boot with force := true }) := ⟨rfl, rfl, rfl⟩

/-! ### Ill-formed terms are refused -/

/-- Format C with a function field. -/
def fCtl (fn : BitVec 3) : FmtC := ⟨0, 0, 3, 0, fn, 0, false, 0⟩
/-- A VOP word whose VOPC is no operation's. -/
def fX : FmtV := fV 1 2 3 0xFF 0
theorem test_illformed_vop : [Instr.vopLd 0 fX, .vopSt 0 fX, .vopMov 0 fX, .vopBcast 0 fX, .vopAdd 0 fX, .vopSub 0 fX, .vopMul 0 fX, .vopFma 0 fX,
    .vopMax 0 fX, .vopMin 0 fX, .vopAbs 0 fX, .vopNeg 0 fX, .vopAnd 0 fX, .vopOr 0 fX, .vopXor 0 fX, .vopShl 0 fX, .vopShr 0 fX, .vopCvt 0 fX,
    .vopRsum 0 fX, .vopRmax 0 fX, .vopPerm 0 fX].any Instr.wf = false ∧ (Instr.vopAdd 0 (fV 1 2 3 0x05 0)).wf = false := by decide +kernel
theorem test_illformed_signal : [Instr.wait 0 (fCtl 1), .waitSignal 0 (fCtl 0), .signal 0 (fCtl 1), .signalEv 0 (fCtl 0)].any Instr.wf = false ∧
    exec (.wait 0 (fCtl 1)) State.reset = .fault .illFormed := ⟨by decide, rfl⟩
theorem test_illformed_line : (Instr.llcRequest .host 0 0x3FF (.read 2)).wf = false ∧ (Instr.llcRequest .host 0 0 (.read 0)).wf = false ∧
    (Instr.llcRequest .host 0 hbmEnd (.read 1)).wf = false ∧ (Instr.llcRequest .host 0 0x3FD (.red ⟨0, true, [1]⟩)).wf = false ∧
    [Instr.llcFillReturn (hbmEnd / 1024), .reductionApply (hbmEnd / 1024), .forwardAck (hbmEnd / 1024), .hostSnoopResponse hbmEnd none,
      .hbmChannelRequest hbmEnd .fill].any Instr.wf = false := by decide +kernel
theorem test_illformed_granule : [Instr.setWritten (2 ^ 36), .setWrittenReply (2 ^ 36), .deadDrop (2 ^ 36), .deadMarkAck (2 ^ 36)].any Instr.wf = false := by decide +kernel
theorem test_illformed_tile : (Instr.l1Fill 0 true (2 ^ 48)).wf = false ∧ (Instr.lockerRemoteAccess .host 0 0x140000 (.read 1)).wf = false ∧
    (Instr.lockerRemoteAccess .host 0 0 (.write [])).wf = false ∧ (Instr.tileRequest 0 true 0x7FFFFFF (.read 2)).wf = false ∧
    (Instr.tileRequest 0 true 0 (.read 0)).wf = false ∧ (Instr.rowRepair 0 0 4096).wf = false := by decide +kernel
theorem test_illformed_bank : [Instr.xpop 0 0 2, .i8dot 0 0 1, .sumred 0 0 0, .bankFill 0 0 5, .bankCopy 0 0 4, .topk32 0 0 7,
    .chain 0 0 6, .bitset 0 0 9].any Instr.wf = false ∧ (Instr.bankFill 0 0 0x104).wf = true := by decide +kernel
theorem test_illformed_network : (Instr.flitRetransmission ⟨.row, 0⟩ 0 2056 0).wf = false ∧ (Instr.routerWindowEnd ⟨false, 0⟩ [⟨0, 101, 0, 0⟩] 0).wf = false ∧
    (Instr.routerWindowEnd ⟨false, 0⟩ [⟨0, 0, 101, 0⟩] 0).wf = false ∧ (Instr.routerWindowEnd ⟨false, 0⟩ [⟨0, 0, 0, 101⟩] 0).wf = false ∧
    (Instr.hotSliceWindowEnd 0 101).wf = false := by decide +kernel
theorem test_illformed_host : (Instr.hostMemRead 63 2).wf = false ∧ (Instr.hostMemRead 0 0).wf = false ∧ (Instr.hostMemWrite (2 ^ 48) [1] false).wf = false ∧
    (Instr.evtRead 0x060004).wf = false ∧ (Instr.loopEnter 0 0x10).wf = false := by decide +kernel
theorem test_illformed_startup : (Instr.startupStepEnd ⟨0, 8, [], [], 0, [], [], []⟩).wf = false ∧ (Instr.telltaleMeasurement 0 ⟨0, 0, 0, 0, [1]⟩).wf = false := by decide +kernel
/-- No row has bits, so no word spells a command and the queue stays as it is. -/
theorem test_no_word_decodes (nbits w : Nat) (s : State) : decodeTableWord nbits w = none ∧ s.withFetchWord nbits w = s := ⟨rfl, rfl⟩

end Sys2Proof.Tests
end

section
/-! PROOFS. Rules for the instructions of a core: what the fetch leaves readable, what an issued instruction answers, and the
frame of a jump and of a stall (R41, R83, R84). -/

namespace Sys2Proof.Machine

/-! ### Reading the fetched state -/

section
variable (s : State) (c : Nat) (long : Bool)

/-- A reading of a core that does not look at its instruction cache is the same after the fetch. -/
theorem State.fetched_core_read {α : Type} (read : Core → α) (h : ∀ k l, read { k with l1i := l } = read k) :
    read ((s.fetched c long).core c) = read (s.core c) := by
  obtain ⟨l, hl⟩ := s.fetched_core_eq c long
  rw [hl, h]

@[simp] theorem State.fetched_rg (r : Nat) : ((s.fetched c long).core c).rg r = (s.core c).rg r :=
  s.fetched_core_read c long (·.rg r) fun _ _ => rfl
@[simp] theorem State.fetched_rp (p : Nat) : ((s.fetched c long).core c).rp p = (s.core c).rp p :=
  s.fetched_core_read c long (·.rp p) fun _ _ => rfl
@[simp] theorem State.fetched_pc : ((s.fetched c long).core c).pc = (s.core c).pc :=
  s.fetched_core_read c long (·.pc) fun _ _ => rfl
@[simp] theorem State.fetched_ret : ((s.fetched c long).core c).ret = (s.core c).ret :=
  s.fetched_core_read c long (·.ret) fun _ _ => rfl
@[simp] theorem State.fetched_releasable : ((s.fetched c long).core c).releasable = (s.core c).releasable :=
  s.fetched_core_read c long (·.releasable) fun _ _ => rfl
@[simp] theorem State.fetched_room : ((s.fetched c long).core c).room = (s.core c).room :=
  s.fetched_core_read c long (·.room) fun _ _ => rfl
@[simp] theorem State.fetched_brTarget (f : FmtB) : brTarget ((s.fetched c long).core c) f = brTarget (s.core c) f :=
  s.fetched_core_read c long (brTarget · f) fun _ _ => rfl

@[simp] theorem State.fetched_down (n : Nat) : ((s.fetched c long).core n).down = (s.core n).down := by
  by_cases h : n = c
  · subst h
    exact s.fetched_core_read n long (·.down) fun _ _ => rfl
  · rw [s.fetched_other long h]

@[simp] theorem State.fetched_mem : (s.fetched c long).mem = s.mem := by
  have h := congrArg State.mem (s.fetched_rest c long); exact h
@[simp] theorem State.fetched_errs : (s.fetched c long).errs = s.errs := by
  have h := congrArg State.errs (s.fetched_rest c long); exact h
@[simp] theorem State.fetched_ras : (s.fetched c long).ras = s.ras := by
  have h := congrArg State.ras (s.fetched_rest c long); exact h
@[simp] theorem State.fetched_rigs : (s.fetched c long).rigs = s.rigs := by
  have h := congrArg State.rigs (s.fetched_rest c long); exact h

@[simp] theorem State.fetched_mark (w : Nat) : (s.fetched c long).mark w = s.mark w := by
  simp [State.mark]
@[simp] theorem State.fetched_flipArmed (kind unit : Nat) : (s.fetched c long).flipArmed kind unit = s.flipArmed kind unit := by
  simp [State.flipArmed]
@[simp] theorem State.fetched_rig (r : Nat) : (s.fetched c long).rig r = s.rig r := by
  simp [State.rig]
@[simp] theorem State.fetched_rigOfCore (n : Nat) : (s.fetched c long).rigOfCore n = s.rigOfCore n := by
  simp [State.rigOfCore]
@[simp] theorem State.fetched_cmdOf (n : Nat) : (s.fetched c long).cmdOf n = s.cmdOf n := by
  simp [State.cmdOf]

end

/-! ### What an issued instruction answers -/

/-- The GUARD field of an instruction without a guard permits execution (R84). -/
@[simp] theorem Core.guardOk_zero (k : Core) : k.guardOk 0 = true := rfl

section
variable {s t : State} {i : Instr} {c : CoreId} {long bad : Bool} {g : BitVec 5} {act : State → State × Bool}

/-- A ready instruction that passes its checks and acts leaves what its action leaves of the fetched state. -/
theorem exec_of_acts (h : s.canIssue c long = true) (hg : (s.core c).guardOk g = true) (hb : bad = false)
    (hx : exec i s = .next (s.issue c i long bad g act)) (ha : act (s.fetched c long) = (t, true)) : exec i s = .next t := by
  subst hb
  rw [hx, State.issue_act h hg, ha]
  rfl

/-- A ready instruction that passes its checks and cannot act yet stalls issue (R41). -/
theorem exec_of_waits (h : s.canIssue c long = true) (hg : (s.core c).guardOk g = true) (hb : bad = false)
    (hx : exec i s = .next (s.issue c i long bad g act)) (ha : act (s.fetched c long) = (t, false)) :
    exec i s = .next (t.stallOn c i) := by
  subst hb
  rw [hx, State.issue_act h hg, ha]
  rfl

/-- A command that jumps leaves everything but its core's PC and cycle count. -/
theorem State.leaves_jump {f : Bool} {target : BitVec 64} (he : exec i s = .next ((s.fetched c f).jump c long target)) :
    s.leaves i c ((s.core c).jumped long target) := by
  obtain ⟨l, hl⟩ := s.fetched_core_eq c f
  refine State.leaves_core he ?_
  simp [hl, Core.jumped]

/-- A command that changes its core and then jumps leaves the changed core jumped. -/
theorem State.leaves_set_jump {f : Bool} {k : Core} {target : BitVec 64}
    (he : exec i s = .next (((s.fetched c f).setCore c k).jump c long target)) :
    s.leaves i c (({ k with l1i := (s.core c).l1i } : Core).jumped long target) :=
  State.leaves_core2 he (by simp [Core.jumped])

/-- A command that changes its core and then passes on leaves the changed core past. -/
theorem State.leaves_set_advance {f : Bool} {k : Core}
    (he : exec i s = .next (((s.fetched c f).setCore c k).advance c long)) :
    s.leaves i c (({ k with l1i := (s.core c).l1i } : Core).past long) :=
  State.leaves_core2 he (by simp [Core.past])

/-- A command that stalls leaves everything but its core's stall. -/
theorem State.leaves_stall {f : Bool} (he : exec i s = .next ((s.fetched c f).stallOn c i)) :
    s.leaves i c ((s.core c).stalled i) := by
  obtain ⟨l, hl⟩ := s.fetched_core_eq c f
  refine State.leaves_core he ?_
  simp [hl, Core.stalled]

end

end Sys2Proof.Machine
end

section
/-! PROOFS. The branches and calls (R46, R47, R98). -/

namespace Sys2Proof.Machine

/-- The target of BR and CALL, with the offset counted in words as R98 writes it. -/
theorem brTarget_eq (k : Core) (f : FmtB) :
    brTarget k f = if f.ind then k.rg f.rs.toNat else if f.l then f.lit else k.pc + 8 * f.off.signExtend 64 := by
  rw [brTarget, BitVec.mul_comm]

section
variable {s : State} {c : CoreId} {f : FmtB}

/-- BR jumps to its target (R98). -/
theorem leaves_br (h : s.canIssue c f.l = true) (hb : brBad f = false) :
    s.leaves (.br c f) c ((s.core c).jumped f.l (brTarget (s.core c) f)) := by
  have hact := exec_of_acts (i := .br c f) h (Core.guardOk_zero _) hb rfl rfl
  rw [State.fetched_brTarget] at hact
  exact State.leaves_jump hact

/-- CALL with room on the return stack pushes the address of the next instruction and jumps (R46). -/
theorem leaves_call_push (h : s.canIssue c f.l = true) (hb : brBad f = false) (hr : (s.core c).ret.length < 32) :
    s.leaves (.call c f) c
      (({ s.core c with ret := ((s.core c).pc + (if f.l then 16 else 8)) :: (s.core c).ret } : Core).jumped f.l
        (brTarget (s.core c) f)) := by
  obtain ⟨l, hl⟩ := s.fetched_core_eq c f.l
  have hact := exec_of_acts (i := .call c f) h (Core.guardOk_zero _) hb rfl rfl
  rw [State.doCall, State.fetched_ret, if_neg (not_le.mpr hr), State.fetched_brTarget] at hact
  simpa [hl] using State.leaves_set_jump hact

/-- CALL on a full return stack stops its core with cause 0x07 (R46, Table 2-6). -/
theorem leaves_call_full (h : s.canIssue c f.l = true) (hb : brBad f = false) (hr : 32 ≤ (s.core c).ret.length) :
    s.leaves (.call c f) c ((s.core c).halted 7) := by
  have hact := exec_of_acts (i := .call c f) h (Core.guardOk_zero _) hb rfl rfl
  rw [State.doCall, State.fetched_ret, if_pos hr, State.fetched_pc] at hact
  exact State.leaves_stop h hact

/-- BRP jumps or passes on as its predicate, inverted by N, says (R98). -/
theorem leaves_brp (h : s.canIssue c f.l = true) (hb : brpBad f = false) :
    s.leaves (.brp c f) c
      (if (s.core c).rp f.p.toNat != f.n then (s.core c).jumped false ((s.core c).pc + 8 * f.off.signExtend 64)
       else (s.core c).past false) := by
  have hact := exec_of_acts (i := .brp c f) h (Core.guardOk_zero _) hb rfl rfl
  rw [State.fetched_rp, State.fetched_pc, BitVec.mul_comm] at hact
  split
  next hp =>
    rw [if_pos hp] at hact
    exact State.leaves_jump hact
  next hp =>
    rw [if_neg hp] at hact
    exact State.leaves_advance hact

/-- RET with an address on the return stack pops it and jumps there (R46). -/
theorem leaves_ret_pop {lit t : BitVec 64} {ts : List (BitVec 64)} (h : s.canIssue c false = true)
    (hr : (s.core c).ret = t :: ts) :
    s.leaves (.ret c ⟨0, 0, false, false, 0, false, 0, lit⟩) c (({ s.core c with ret := ts } : Core).jumped false t) := by
  obtain ⟨l, hl⟩ := s.fetched_core_eq c false
  have hact := exec_of_acts (i := .ret c ⟨0, 0, false, false, 0, false, 0, lit⟩) h (Core.guardOk_zero _) rfl rfl rfl
  simp only [State.doRet, State.fetched_ret, hr] at hact
  simpa [hl] using State.leaves_set_jump hact

/-- RET on an empty return stack ends the core's part (R47). -/
theorem leaves_ret_end {lit : BitVec 64} (h : s.canIssue c false = true) (hr : (s.core c).ret = []) :
    s.leaves (.ret c ⟨0, 0, false, false, 0, false, 0, lit⟩) c
      { s.core c with phase := .ending, cyc := (s.core c).cyc + 1, stall := none } := by
  obtain ⟨l, hl⟩ := s.fetched_core_eq c false
  have hact := exec_of_acts (i := .ret c ⟨0, 0, false, false, 0, false, 0, lit⟩) h (Core.guardOk_zero _) rfl rfl rfl
  simp only [State.doRet, State.fetched_ret, hr] at hact
  exact State.leaves_core hact (by simp [hl, hr])

end

/-- Settles O7: each form by its rule, the target respelt by `brTarget_eq`. -/
theorem branchesAndCalls : Obligations.BranchesAndCalls := by
  intro s c f h
  dsimp only
  rw [← brTarget_eq]
  refine ⟨fun hb => ⟨leaves_br h hb, leaves_call_push h hb, leaves_call_full h hb⟩, leaves_brp h, fun hf => ?_⟩
  rw [hf] at h ⊢
  exact ⟨fun _ _ => leaves_ret_pop h, leaves_ret_end h⟩

end Sys2Proof.Machine
end

section
/-! PROOFS. The signal word of a locker, WAIT in its signal form, SIGNAL and SIGNAL.EV (R65, R66, R207, R584). -/

namespace Sys2Proof.Machine

/-! ### One clean word of a locker -/

/-- Offset o of a core's locker lies in that locker (Table 1-5). -/
theorem place_lockerAddr (c : CoreId) {o : Nat} (ho : o < lockerSize) : place (lockerAddr c o) = .locker c o := by
  have hc := c.isLt
  unfold lockerSize at ho
  have hbase : lockerAddr c o = lockerBase + (c * 0x200000 + o) := by rw [lockerAddr, Nat.add_assoc]
  have hdiv : (lockerAddr c o - lockerBase) / 0x200000 = c := by rw [hbase, Nat.add_sub_cancel_left]; omega
  have hmod : (lockerAddr c o - lockerBase) % 0x200000 = o := by rw [hbase, Nat.add_sub_cancel_left]; omega
  have hhbm : ¬ lockerAddr c o < 0x006000000000 := by rw [hbase, lockerBase]; omega
  have htile : ¬ (tileBase ≤ lockerAddr c o ∧ lockerAddr c o < 0x018000000000) := by rw [hbase, lockerBase]; omega
  have hin : lockerBase ≤ lockerAddr c o ∧ lockerAddr c o < 0x020200000000 := by rw [hbase, lockerBase]; omega
  rw [place, if_neg hhbm, if_neg htile, if_pos hin, hmod, hdiv, lockerSize, if_pos ho]

section
variable {s : State} {c : CoreId} {a o : Nat}

/-- An aligned access of 8 bytes to a locker touches one protected word, that of its address (R207). -/
theorem wordsOf_locker_word (hp : place a = .locker c o) (ha : a % 8 = 0) : wordsOf a 8 = [a] := by
  have hw : wordSize a = 8 := by rw [wordSize, hp]
  have hn : (a + 8 - 1) / 8 - a / 8 + 1 = 1 := by omega
  have hm : a / 8 * 8 = a := by omega
  simp only [wordsOf, wordOf, hw, hn, hm]
  rfl

/-- Reading a clean word of a locker changes nothing and answers its bytes. -/
theorem State.lockerRead_clean (hp : place a = .locker c o) (ha : a % 8 = 0) (hm : s.mark a = .none) :
    s.lockerRead a 8 = (s, (mread s.mem a 8, false)) := by
  simp [State.lockerRead, wordsOf_locker_word hp ha, State.meetAll, State.meet, hm]

/-- Writing a whole word of a locker without an armed flip writes its bytes and clears its mark (R207, R477). -/
theorem State.lockerWrite_word {bs : List Byte} (hp : place a = .locker c o) (ha : a % 8 = 0) (hl : bs.length = 8)
    (hf : s.flipArmed 3 c = false) : s.lockerWrite a bs = { s.setMark a .none with mem := mwrite s.mem a bs } := by
  have hne : bs ≠ [] := by rintro rfl; simp at hl
  have hw : wordSize a = 8 := by rw [wordSize, hp]
  have hmark : s.writeMarks a 8 [a] = s.setMark a .none := by
    simp [State.writeMarks, State.writeMark, coversWord, hw]
  have hf' : ({ s.setMark a .none with mem := mwrite s.mem a bs } : State).flipArmed 3 c = false := hf
  simp only [State.lockerWrite, State.putBytes, if_neg hne, hl, wordsOf_locker_word hp ha, hmark, hp, errUnit,
    State.flipWrite, State.setMark_mem, hf', Bool.false_eq_true, if_false]

/-- Clearing the mark of a clean word leaves every mark as it is. -/
theorem State.mark_setMark_clean (hm : s.mark a = .none) (x : Nat) : (s.setMark a .none).mark x = s.mark x := by
  by_cases hx : x = a
  · rw [hx, State.mark_setMark_self, hm]
  · exact tget_tset_ne Err.none s.errs .none hx

end

/-! ### WAIT in its signal form (R66, R584) -/

/-- The signal word of a core lies in its locker (Table 2-2). -/
theorem place_signalWord (c : CoreId) : place (lockerAddr c signalOff) = .locker c signalOff :=
  place_lockerAddr c (by decide)

/-- The signal word is aligned. -/
theorem signalWord_aligned (c : Nat) : lockerAddr c signalOff % 8 = 0 := by
  unfold lockerAddr lockerBase signalOff; omega

/-- The 64-bit word at an address of a locker, little-endian. -/
def State.wordAt (s : State) (a : Nat) : BitVec 64 := BitVec.ofNat 64 (leNat (mread s.mem a 8))

/-- WAIT in its signal form once issued, on a signal word at any address (R66). -/
def State.waitSignalAt (s : State) (c : Nat) (f : FmtC) (a : Nat) : State × Bool :=
  let k := s.core c
  let (s, x) := s.lockerRead a 8
  if x.2 then (s.stopCore c 9 k.pc.toNat, true)
  else
    let w := BitVec.ofNat 64 (leNat x.1)
    let m := k.rg f.ra.toNat
    if w &&& m = 0 then (s, false)
    else
      let s := s.lockerWrite a (leBytes 8 (w &&& ~~~m).toNat)
      ((s.setCore c ((s.core c).wg f.rb.toNat (w &&& m))).advance c false, true)

/-- The model's WAIT is the one above on the core's own signal word. The kernel must not compute with that word's address, so
what follows is about a variable address. -/
theorem State.doWaitSignal_eq (s : State) (c : Nat) (f : FmtC) :
    s.doWaitSignal c f = s.waitSignalAt c f (lockerAddr c signalOff) := rfl

/-- The state once WAIT has cleared the masked bits of a clean signal word, returned those that were set, and passed on. -/
def State.signalTaken (s : State) (c : Nat) (f : FmtC) (a : Nat) : State :=
  (({ s.setMark a .none with
      mem := mwrite s.mem a (leBytes 8 (s.wordAt a &&& ~~~(s.core c).rg f.ra.toNat).toNat) } : State).setCore c
    ((s.core c).wg f.rb.toNat (s.wordAt a &&& (s.core c).rg f.ra.toNat))).advance c false

section
variable {s : State} {c : CoreId} {f : FmtC} {a o : Nat}

/-- WAIT on a clean signal word without a masked bit waits and changes nothing. -/
theorem State.waitSignalAt_waits (hp : place a = .locker c o) (ha : a % 8 = 0) (hm : s.mark a = .none)
    (hw : s.wordAt a &&& (s.core c).rg f.ra.toNat = 0) : s.waitSignalAt c f a = (s, false) := by
  rw [State.wordAt] at hw
  simp [State.waitSignalAt, State.lockerRead_clean hp ha hm, hw]

/-- WAIT on a clean signal word with a masked bit set takes the masked bits. -/
theorem State.waitSignalAt_takes (hp : place a = .locker c o) (ha : a % 8 = 0) (hm : s.mark a = .none)
    (hf : s.flipArmed 3 c = false) (hw : s.wordAt a &&& (s.core c).rg f.ra.toNat ≠ 0) :
    s.waitSignalAt c f a = (s.signalTaken c f a, true) := by
  have hwrite := fun v => State.lockerWrite_word hp ha (leBytes_length 8 v) hf
  rw [State.wordAt] at hw
  simp only [State.waitSignalAt, State.lockerRead_clean hp ha hm, hwrite, Bool.false_eq_true, if_false, if_neg hw]
  rfl

end

/-! What WAIT leaves once it has taken the masked bits. -/

section
variable (s : State) (c : Nat) (f : FmtC) (a : Nat)

theorem State.signalTaken_mem :
    (s.signalTaken c f a).mem = mwrite s.mem a (leBytes 8 (s.wordAt a &&& ~~~(s.core c).rg f.ra.toNat).toNat) := rfl

theorem State.signalTaken_core : (s.signalTaken c f a).core c =
    ((s.core c).wg f.rb.toNat (s.wordAt a &&& (s.core c).rg f.ra.toNat)).past false := by
  simp [State.signalTaken, State.advance, Core.past]

theorem State.signalTaken_other {n : Nat} (hn : n ≠ c) : (s.signalTaken c f a).core n = s.core n := by
  rw [State.signalTaken, State.advance, State.core_setCore_ne _ _ hn, State.core_setCore_ne _ _ hn]
  rfl

theorem State.signalTaken_mark (hm : s.mark a = .none) (x : Nat) : (s.signalTaken c f a).mark x = s.mark x :=
  State.mark_setMark_clean hm x

/-- The bytes of the signal word once the masked bits are taken. -/
theorem State.signalTaken_word :
    mread (s.signalTaken c f a).mem a 8 = leBytes 8 (s.wordAt a &&& ~~~(s.core c).rg f.ra.toNat).toNat := by
  have h := mread_mwrite (leBytes 8 (s.wordAt a &&& ~~~(s.core c).rg f.ra.toNat).toNat) s.mem a
  rwa [leBytes_length] at h

@[simp] theorem State.fetched_wordAt (n : Nat) (long : Bool) : (s.fetched n long).wordAt a = s.wordAt a := by
  simp [State.wordAt]

end

section
variable {s : State} {c : CoreId} {f : FmtC}

/-- WAIT in its signal form is carried out by issue (R66). -/
theorem exec_waitSignal (hfn : f.fn = 1) : exec (.waitSignal c f) s =
    .next (s.issue c (.waitSignal c f) false (ctlBad f true true false false true || 2 ≤ f.fn.toNat) f.guard fun s =>
      s.doWaitSignal c f) := by
  have h : f.fn.getLsbD 0 = true := by rw [hfn]; rfl
  show execWaitSignal c f s = _
  rw [execWaitSignal, h]
  rfl

/-- A format C word with its unlisted fields zero passes the checks of WAIT in its signal form (R83, Table 3-13). -/
theorem waitSignal_passes (hrsv : f.rsv = 0) (hl : f.l = false) (hk : f.k = 0) (hgrp : f.grp = 0) (hfn : f.fn = 1) :
    (ctlBad f true true false false true || decide (2 ≤ f.fn.toNat)) = false := by
  simp [ctlBad, hrsv, hl, hk, hgrp, hfn]

/-! ### SIGNAL and SIGNAL.EV (R65) -/

/-- SIGNAL to a core is carried out by issue (R65). -/
theorem exec_signal (hfn : f.fn = 0) : exec (.signal c f) s =
    .next (s.issue c (.signal c f) false (ctlBad f true true false false false) f.guard fun s => s.doSignal c f) := by
  have h : f.fn.getLsbD 0 = false := by rw [hfn]; rfl
  show execSignal c f s = _
  rw [execSignal, h]
  rfl

/-- A format C word with its unlisted fields zero passes the checks of SIGNAL (R83, Table 3-13). -/
theorem signal_passes (hrsv : f.rsv = 0) (hl : f.l = false) (hk : f.k = 0) (hgrp : f.grp = 0) (hfn : f.fn = 0) :
    ctlBad f true true false false false = false := by
  simp [ctlBad, hrsv, hl, hk, hgrp, hfn]

/-- SIGNAL.EV is carried out by issue (R65). -/
theorem exec_signalEv (hfn : f.fn = 1) : exec (.signalEv c f) s =
    .next (s.issue c (.signalEv c f) false (ctlBad f false true false false true || 2 ≤ f.fn.toNat) f.guard fun s =>
      s.postSignal c (.event ((s.core c).rg f.rb.toNat))) := by
  have h : f.fn.getLsbD 0 = true := by rw [hfn]; rfl
  show execSignalEv c f s = _
  rw [execSignalEv, h]
  rfl

/-- A format C word with its unlisted fields zero passes the checks of SIGNAL.EV (R83, Table 3-13). -/
theorem signalEv_passes (hrsv : f.rsv = 0) (hl : f.l = false) (hk : f.k = 0) (hgrp : f.grp = 0) (hra : f.ra = 0)
    (hfn : f.fn = 1) : (ctlBad f false true false false true || decide (2 ≤ f.fn.toNat)) = false := by
  simp [ctlBad, hrsv, hl, hk, hgrp, hra, hfn]

/-- SIGNAL to a number that is no core of the rig is an address fault. -/
theorem State.doSignal_outside
    (ht : 4096 ≤ ((s.core c).rg f.ra.toNat).toNat ∨ s.rigOfCore ((s.core c).rg f.ra.toNat).toNat ≠ s.rigOfCore c) :
    s.doSignal c f = (s.stopCore c 4 (s.core c).pc.toNat, true) := by
  dsimp only [State.doSignal]
  split
  next hlt => rw [if_pos (ht.resolve_left (by omega))]
  next => rfl

/-- SIGNAL to a core that is down is discarded once the release is complete. -/
theorem State.doSignal_down (ht : ((s.core c).rg f.ra.toNat).toNat < 4096)
    (hr : s.rigOfCore ((s.core c).rg f.ra.toNat).toNat = s.rigOfCore c)
    (hd : (s.core ((s.core c).rg f.ra.toNat).toNat).down = true) :
    s.doSignal c f = if (s.core c).releasable then (s.advance c false, true) else (s, false) := by
  simp [State.doSignal, ht, hr, hd]

/-- SIGNAL to a core of the rig that is not down posts its OR. -/
theorem State.doSignal_posts (ht : ((s.core c).rg f.ra.toNat).toNat < 4096)
    (hr : s.rigOfCore ((s.core c).rg f.ra.toNat).toNat = s.rigOfCore c)
    (hd : (s.core ((s.core c).rg f.ra.toNat).toNat).down = false) :
    s.doSignal c f = s.postSignal c (.orTo (Fin.ofNat 4096 ((s.core c).rg f.ra.toNat).toNat) ((s.core c).rg f.rb.toNat)) := by
  have hfin : (⟨_, ht⟩ : CoreId) = Fin.ofNat 4096 ((s.core c).rg f.ra.toNat).toNat := Fin.ext (Nat.mod_eq_of_lt ht).symm
  simp only [State.doSignal, dif_pos ht, hr, hd, hfin, ne_eq, not_true_eq_false, Bool.false_eq_true, if_false]

/-- A core with a signal added to its posted writes. -/
def Core.withPost (k : Core) (p : Post) : Core := { k with posted := k.posted ++ [{ p := p, pc := k.pc.toNat }] }

end

section
variable {s : State} {i : Instr} {c : CoreId} {bad : Bool} {g : BitVec 5} {act : State → State × Bool}

/-- An instruction that posts a signal first acts as a release and waits for room among the requests; then the signal is
posted and the instruction passes on (R55, R65). -/
theorem State.leaves_post {p : Post} (h : s.canIssue c false = true) (hg : (s.core c).guardOk g = true) (hb : bad = false)
    (hx : exec i s = .next (s.issue c i false bad g act)) (ha : act (s.fetched c false) = (s.fetched c false).postSignal c p) :
    s.leaves i c (if (s.core c).releasable && (s.core c).room then ((s.core c).withPost p).past false
      else (s.core c).stalled i) := by
  obtain ⟨l, hl⟩ := s.fetched_core_eq c false
  simp only [State.postSignal, State.fetched_releasable, State.fetched_room, ← Bool.not_and] at ha
  cases hready : (s.core c).releasable && (s.core c).room
  case false =>
    rw [hready] at ha
    exact State.leaves_stall (exec_of_waits h hg hb hx ha)
  case true =>
    rw [hready] at ha
    simpa [hl, Core.withPost] using State.leaves_set_advance (exec_of_acts h hg hb hx ha)

/-- An instruction that only acts as a release waits for it and passes on (R62). -/
theorem State.leaves_release (h : s.canIssue c false = true) (hg : (s.core c).guardOk g = true) (hb : bad = false)
    (hx : exec i s = .next (s.issue c i false bad g act))
    (ha : act (s.fetched c false) =
      if (s.core c).releasable then ((s.fetched c false).advance c false, true) else (s.fetched c false, false)) :
    s.leaves i c (if (s.core c).releasable then (s.core c).past false else (s.core c).stalled i) := by
  split at ha
  next hready => rw [if_pos hready]; exact State.leaves_advance (exec_of_acts h hg hb hx ha)
  next hready => rw [if_neg hready]; exact State.leaves_stall (exec_of_waits h hg hb hx ha)

end

section
variable {s : State} {c : CoreId} {f : FmtC}

section
variable {a : Nat} (ha : a = lockerAddr c signalOff) (h : s.canIssue c false = true) (hg : (s.core c).guardOk f.guard = true)
  (hrsv : f.rsv = 0) (hl : f.l = false) (hk : f.k = 0) (hgrp : f.grp = 0) (hfn : f.fn = 1) (hm : s.mark a = .none)
include ha h hg hrsv hl hk hgrp hfn hm

/-- WAIT in its signal form stalls while no masked bit of a clean signal word is set (R66). -/
theorem leaves_waitSignal_stalled (hw : s.wordAt a &&& (s.core c).rg f.ra.toNat = 0) :
    s.leaves (.waitSignal c f) c ((s.core c).stalled (.waitSignal c f)) := by
  have hp : place a = .locker c signalOff := ha ▸ place_signalWord c
  have hal : a % 8 = 0 := ha ▸ signalWord_aligned c
  have hwait := State.waitSignalAt_waits (s := s.fetched c false) (f := f) hp hal (by simpa using hm) (by simpa using hw)
  rw [ha, ← State.doWaitSignal_eq] at hwait
  exact State.leaves_stall (exec_of_waits h hg (waitSignal_passes hrsv hl hk hgrp hfn) (exec_waitSignal hfn) hwait)

/-- WAIT in its signal form takes the masked bits that are set from a clean signal word (R66). -/
theorem exec_waitSignal_takes (hf : s.flipArmed 3 c = false) (hw : s.wordAt a &&& (s.core c).rg f.ra.toNat ≠ 0) :
    exec (.waitSignal c f) s = .next ((s.fetched c false).signalTaken c f a) := by
  have hp : place a = .locker c signalOff := ha ▸ place_signalWord c
  have hal : a % 8 = 0 := ha ▸ signalWord_aligned c
  have htake := State.waitSignalAt_takes (s := s.fetched c false) (f := f) hp hal (by simpa using hm) (by simpa using hf)
    (by simpa using hw)
  refine exec_of_acts h hg (waitSignal_passes hrsv hl hk hgrp hfn) (exec_waitSignal hfn) ?_
  subst ha
  rw [State.doWaitSignal_eq, htake]

end

section
variable (s c f) (a : Nat)

/-- The signal word once WAIT has taken the masked bits. -/
theorem State.fetched_signalTaken_word : mread ((s.fetched c false).signalTaken c f a).mem a 8 =
    leBytes 8 (s.wordAt a &&& ~~~(s.core c).rg f.ra.toNat).toNat := by
  rw [State.signalTaken_word, State.fetched_wordAt, State.fetched_rg]

/-- Taking signals changes no byte outside the signal word. -/
theorem State.fetched_signalTaken_bytes {x : Nat} (hx : x < a ∨ a + 8 ≤ x) :
    mget ((s.fetched c false).signalTaken c f a).mem x = mget s.mem x := by
  rw [State.signalTaken_mem, mget_mwrite_out _ _ _ _ (by rwa [leBytes_length]), State.fetched_mem]

/-- Taking signals from a clean signal word leaves every mark. -/
theorem State.fetched_signalTaken_mark (hm : s.mark a = .none) (x : Nat) :
    ((s.fetched c false).signalTaken c f a).mark x = s.mark x := by
  rw [State.signalTaken_mark _ _ _ _ (by simpa using hm), State.fetched_mark]

/-- The core once WAIT has taken its signals, the order of use of its instruction cache apart. -/
theorem State.fetched_signalTaken_core : { ((s.fetched c false).signalTaken c f a).core c with l1i := (s.core c).l1i } =
    ((s.core c).wg f.rb.toNat (s.wordAt a &&& (s.core c).rg f.ra.toNat)).past false := by
  obtain ⟨l, hl⟩ := s.fetched_core_eq c false
  have hwg : ∀ r x, ((s.core c).wg r x).l1i = (s.core c).l1i := fun r x => by unfold Core.wg; split <;> rfl
  simp [State.signalTaken_core, hl, Core.past, hwg]

/-- Taking signals changes no other core. -/
theorem State.fetched_signalTaken_other {n : Nat} (hn : n ≠ c.val) :
    ((s.fetched c false).signalTaken c f a).core n = s.core n := by
  rw [State.signalTaken_other _ _ _ _ hn, State.fetched_other _ _ hn]

/-- Taking signals changes nothing but the cores, memory and its marks. -/
theorem State.fetched_signalTaken_frame :
    { (s.fetched c false).signalTaken c f a with cores := s.cores, mem := s.mem, errs := s.errs } = s := by
  simp [State.signalTaken, State.advance, State.setCore, State.setMark, State.fetched]

end

section
variable (h : s.canIssue c false = true) (hg : (s.core c).guardOk f.guard = true)
  (hrsv : f.rsv = 0) (hl : f.l = false) (hk : f.k = 0) (hgrp : f.grp = 0)
include h hg hrsv hl hk hgrp

/-- SIGNAL outside the rig stops the core with cause 0x04 (R65, Table 2-6). -/
theorem leaves_signal_outside (hfn : f.fn = 0)
    (ht : 4096 ≤ ((s.core c).rg f.ra.toNat).toNat ∨ s.rigOfCore ((s.core c).rg f.ra.toNat).toNat ≠ s.rigOfCore c) :
    s.leaves (.signal c f) c ((s.core c).halted 4) := by
  have hdo := State.doSignal_outside (s := s.fetched c false) (c := c) (f := f) (by simpa using ht)
  rw [State.fetched_pc] at hdo
  exact State.leaves_stop h (exec_of_acts h hg (signal_passes hrsv hl hk hgrp hfn) (exec_signal hfn) hdo)

section
variable (hfn : f.fn = 0) (ht : ((s.core c).rg f.ra.toNat).toNat < 4096)
  (hr : s.rigOfCore ((s.core c).rg f.ra.toNat).toNat = s.rigOfCore c)
include hfn ht hr

/-- SIGNAL to a core that is down passes on once the release is complete (R65). -/
theorem leaves_signal_down (hd : (s.core ((s.core c).rg f.ra.toNat).toNat).down = true) :
    s.leaves (.signal c f) c
      (if (s.core c).releasable then (s.core c).past false else (s.core c).stalled (.signal c f)) := by
  have hdo := State.doSignal_down (s := s.fetched c false) (c := c) (f := f) (by simpa using ht) (by simpa using hr)
    (by simpa using hd)
  rw [State.fetched_releasable] at hdo
  exact State.leaves_release h hg (signal_passes hrsv hl hk hgrp hfn) (exec_signal hfn) hdo

/-- SIGNAL to a core of the rig that is not down posts its OR (R65). -/
theorem leaves_signal_posts (hd : (s.core ((s.core c).rg f.ra.toNat).toNat).down = false) :
    s.leaves (.signal c f) c
      (if (s.core c).releasable && (s.core c).room then
        ((s.core c).withPost (.orTo (Fin.ofNat 4096 ((s.core c).rg f.ra.toNat).toNat) ((s.core c).rg f.rb.toNat))).past false
       else (s.core c).stalled (.signal c f)) := by
  have hdo := State.doSignal_posts (s := s.fetched c false) (c := c) (f := f) (by simpa using ht) (by simpa using hr)
    (by simpa using hd)
  rw [State.fetched_rg, State.fetched_rg] at hdo
  exact State.leaves_post h hg (signal_passes hrsv hl hk hgrp hfn) (exec_signal hfn) hdo

end

/-- SIGNAL.EV posts its OR to the rig's event vector (R65). -/
theorem leaves_signalEv (hfn : f.fn = 1) (hra : f.ra = 0) :
    s.leaves (.signalEv c f) c
      (if (s.core c).releasable && (s.core c).room then ((s.core c).withPost (.event ((s.core c).rg f.rb.toNat))).past false
       else (s.core c).stalled (.signalEv c f)) :=
  State.leaves_post h hg (signalEv_passes hrsv hl hk hgrp hra hfn) (exec_signalEv hfn) (by rw [State.fetched_rg])

end

end

/-- Settles O17: WAIT by what it leaves once it has taken its signals, SIGNAL and SIGNAL.EV by their release and their post. -/
theorem signalsReleaseAndWait : Obligations.SignalsReleaseAndWait := by
  constructor
  case left =>
    intro s c f h hg hrsv hl hk hgrp hfn k a w m hm hf
    exact ⟨leaves_waitSignal_stalled rfl h hg hrsv hl hk hgrp hfn hm, fun hw =>
      ⟨_, exec_waitSignal_takes rfl h hg hrsv hl hk hgrp hfn hm hf hw, s.fetched_signalTaken_word c f a,
        fun _ hx => s.fetched_signalTaken_bytes c f a hx, s.fetched_signalTaken_mark c f a hm,
        s.fetched_signalTaken_core c f a, fun _ hn => s.fetched_signalTaken_other c f a hn,
        s.fetched_signalTaken_frame c f a⟩⟩
  case right =>
    intro s c f h hg hrsv hl hk hgrp
    exact ⟨fun hfn => leaves_signal_outside h hg hrsv hl hk hgrp hfn,
      fun hfn => leaves_signal_down h hg hrsv hl hk hgrp hfn,
      fun hfn => leaves_signal_posts h hg hrsv hl hk hgrp hfn,
      fun hfn => leaves_signalEv h hg hrsv hl hk hgrp hfn⟩

end Sys2Proof.Machine
end

section
/-! PROOFS. Barriers: BAR, the arrival of a core and the release of a group (R67, R68, R314, R322). -/

namespace Sys2Proof.Machine

/-! ### BAR (R67, R68) -/

section
variable {s : State} {c : CoreId} {f : FmtC} {g : Fin 16}

/-- BAR of a group that the core does not belong to, or with no command, stops the core with cause 0x0E. -/
theorem State.doBar_outside (hm : ∀ m, s.cmdOf c = some m → (m.group g).getLsbD c = false) :
    s.doBar c g = (s.stopCore c 0x0E (s.core c).pc.toNat, true) := by
  cases hc : s.cmdOf c with
  | none => simp [State.doBar, hc]
  | some m => simp only [State.doBar, hc, hm m hc, Bool.not_false, if_true]

/-- BAR of a group that the core belongs to waits for its release, and then the core waits at the barrier. -/
theorem State.doBar_member {m : Cmd} (hc : s.cmdOf c = some m) (hm : (m.group g).getLsbD c = true) :
    s.doBar c g = if (s.core c).releasable then (s.setCore c { s.core c with atBar := some g, stall := none }, true)
      else (s, false) := by
  cases hr : (s.core c).releasable <;> simp [State.doBar, hc, hm, hr]

/-- The group a BAR names (Table 3-13). -/
theorem barGroup_val (f : FmtC) : (Fin.ofNat 16 f.grp.toNat).val = f.grp.toNat := Nat.mod_eq_of_lt f.grp.isLt

/-- A format C word with its unlisted fields zero passes the checks of BAR (R83, Table 3-13). -/
theorem bar_passes (hrsv : f.rsv = 0) (hl : f.l = false) (hra : f.ra = 0) (hrb : f.rb = 0) (hk : f.k = 0) (hfn : f.fn = 0) :
    ctlBad f false false false true false = false := by
  simp [ctlBad, hrsv, hl, hra, hrb, hk, hfn]

section
variable (h : s.canIssue c false = true) (hg : (s.core c).guardOk f.guard = true) (hb : ctlBad f false false false true false = false)
include h hg hb

/-- A BAR the core may not execute stops it with cause 0x0E (R68). -/
theorem leaves_bar_outside (hm : ∀ m, s.cmdOf c = some m → (m.group f.grp.toNat).getLsbD c = false) :
    s.leaves (.bar c f) c ((s.core c).halted 0x0E) := by
  have hdo := State.doBar_outside (s := s.fetched c false) (g := Fin.ofNat 16 f.grp.toNat)
    (by simpa only [State.fetched_cmdOf, barGroup_val] using hm)
  rw [State.fetched_pc] at hdo
  exact State.leaves_stop h (exec_of_acts h hg hb rfl hdo)

/-- A BAR of the core's own group waits for its release and then for the group (R67). -/
theorem leaves_bar_member {m : Cmd} (hc : s.cmdOf c = some m) (hm : (m.group f.grp.toNat).getLsbD c = true) :
    s.leaves (.bar c f) c
      (if (s.core c).releasable then { s.core c with atBar := some (Fin.ofNat 16 f.grp.toNat), stall := none }
       else (s.core c).stalled (.bar c f)) := by
  obtain ⟨l, hl⟩ := s.fetched_core_eq c false
  have hdo := State.doBar_member (s := s.fetched c false) (g := Fin.ofNat 16 f.grp.toNat) (by rwa [State.fetched_cmdOf])
    (by rwa [barGroup_val])
  rw [State.fetched_releasable] at hdo
  split at hdo
  next hready =>
    rw [if_pos hready]
    exact State.leaves_core (exec_of_acts h hg hb rfl hdo) (by simp [hl])
  next hready =>
    rw [if_neg hready]
    exact State.leaves_stall (exec_of_waits h hg hb rfl hdo)

end

end

/-! ### The running command of a rig -/

section
variable (s : State) (r : Nat) (f : Cmd → Cmd)

/-- An update of a rig's running command changes that command alone. -/
theorem State.rig_modCmd_self {m : Cmd} (h : (s.rig r).running = some m) :
    (s.modCmd r f).rig r = { s.rig r with running := some (f m) } := by
  simp [State.modCmd, h]

theorem State.rig_modCmd_ne {n : Nat} (h : n ≠ r) : (s.modCmd r f).rig n = s.rig n := State.rig_setRig_ne _ _ h

@[simp] theorem State.modCmd_core (n : Nat) : (s.modCmd r f).core n = s.core n := rfl

theorem State.modCmd_frame : { s.modCmd r f with rigs := s.rigs } = s := by
  simp [State.modCmd, State.setRig]

end

/-! ### BARRIER_ARRIVAL (R67) -/

/-- A command whose group g has seen core c arrive. -/
def Cmd.arrive (m : Cmd) (g : Fin 16) (c : Nat) : Cmd :=
  { m with arrived := tset 0 m.arrived g (tget 0 m.arrived g ||| BitVec.twoPow 4096 c) }

/-- The arrivals of a group once a core has arrived. -/
theorem Cmd.getLsbD_arrive (m : Cmd) (g : Fin 16) (c : CoreId) (i : Nat) :
    (tget 0 (m.arrive g c).arrived g).getLsbD i = ((tget 0 m.arrived g).getLsbD i || i == c.val) := by
  simp [Cmd.arrive, BitVec.getLsbD_twoPow, eq_comm, beq_eq_decide]

/-- A core waiting at a barrier arrives when its packet passes (R67, R322). -/
theorem exec_barrierArrival {s : State} {c : CoreId} {g : Fin 16} {r : Nat} (hbar : (s.core c).atBar = some g)
    (hr : s.rigOfCore c = some r) (hp : s.passes (s.coreNode c) .front = true) :
    exec (.barrierArrival c) s = .next (s.modCmd r (·.arrive g c)) := by
  show execBarrierArrival c s = _
  simp only [execBarrierArrival, hbar, hr, hp, Bool.not_true, Bool.false_eq_true, if_false]
  rfl

/-! ### BARRIER_RELEASE (R68) -/

/-- A core that waits at group g's barrier goes on past its BAR. -/
def State.passBar (g : Fin 16) (s : State) (c : Nat) : State :=
  if (s.core c).atBar = some g then (s.setCore c { s.core c with atBar := none }).advance c false else s

/-- A core once it has gone past its BAR, if it waits at the barrier of group g. -/
def Core.pastBar (k : Core) (g : Fin 16) : Core :=
  if k.atBar = some g then ({ k with atBar := none } : Core).past false else k

/-- A core past the barrier does not wait at it: passing again does nothing. -/
theorem Core.pastBar_pastBar (k : Core) (g : Fin 16) : (k.pastBar g).pastBar g = k.pastBar g := by
  by_cases h : k.atBar = some g <;> simp [Core.pastBar, Core.past, h]

section
variable (s : State) (g : Fin 16) (c : Nat)

theorem State.passBar_core_self : (s.passBar g c).core c = (s.core c).pastBar g := by
  unfold State.passBar Core.pastBar
  split <;> simp [State.advance, Core.past]

theorem State.passBar_core_ne {n : Nat} (h : n ≠ c) : (s.passBar g c).core n = s.core n := by
  unfold State.passBar
  split
  · rw [State.advance, State.core_setCore_ne _ _ h, State.core_setCore_ne _ _ h]
  · rfl

/-- Passing a barrier changes the cores alone. -/
theorem State.passBar_eq : s.passBar g c = { s with cores := (s.passBar g c).cores } := by
  unfold State.passBar
  split <;> rfl

/-- The cores of a list pass a barrier, each once however often it is listed, and the other cores are unchanged. -/
theorem State.each_passBar_core (cs : List Nat) (n : Nat) :
    (s.each cs (State.passBar g)).core n = if n ∈ cs then (s.core n).pastBar g else s.core n := by
  induction cs generalizing s with
  | nil => rfl
  | cons c cs ih =>
    show ((s.passBar g c).each cs (State.passBar g)).core n = _
    rw [ih]
    by_cases hn : n = c
    · subst hn
      simp [State.passBar_core_self, Core.pastBar_pastBar]
    · simp [State.passBar_core_ne _ _ _ hn, hn]

/-- The cores of a list passing a barrier change the cores alone. -/
theorem State.each_passBar_eq (cs : List Nat) :
    s.each cs (State.passBar g) = { s with cores := (s.each cs (State.passBar g)).cores } := by
  refine State.each_keeps s (fun t => t = { s with cores := t.cores }) (State.passBar g) cs rfl fun t n ht => ?_
  have hpass := t.passBar_eq g n
  rw [ht] at hpass
  rw [ht]
  exact hpass

end

/-- An entry that is not the default has its key in the table. -/
theorem mem_keys_of_tget_ne {α : Type} {d : α} {t : Tab α} {i : Nat} (h : tget d t i ≠ d) : i ∈ t.map (·.1) := by
  induction t with
  | nil => exact absurd rfl h
  | cons e t ih =>
    obtain ⟨k, v⟩ := e
    by_cases hk : k = i
    · simp [hk]
    · rw [tget, if_neg hk] at h
      exact List.mem_cons_of_mem _ (ih h)

/-- A core that waits at a barrier is listed among the cores. -/
theorem State.listed_of_atBar {s : State} {c : Nat} {g : Fin 16} (h : (s.core c).atBar = some g) : c ∈ s.cores.map (·.1) := by
  refine mem_keys_of_tget_ne (d := ({} : Core)) fun he => ?_
  rw [State.core, he] at h
  cases h

/-- The cores that a release of group g by a command lets go: the listed members that have arrived (R68). -/
def State.letGo (s : State) (m : Cmd) (g : Fin 16) : List Nat :=
  (s.cores.map (·.1)).filter fun c => (tget 0 m.arrived g &&& m.group g).getLsbD c

/-- A command whose group g has no arrivals. -/
def Cmd.forget (m : Cmd) (g : Fin 16) : Cmd := { m with arrived := tset 0 m.arrived g 0 }

/-- The state once a rig's group is released: the cores let go pass, and the arrivals are forgotten. -/
def State.groupReleased (s : State) (r : Nat) (m : Cmd) (g : Fin 16) : State :=
  (s.each (s.letGo m g) (State.passBar g)).modCmd r (·.forget g)

/-- Every member of a group has arrived or ended, said bit by bit. -/
theorem all_arrived {grp got ended : BitVec 4096}
    (h : ∀ i, i < 4096 → grp.getLsbD i = true → got.getLsbD i = true ∨ ended.getLsbD i = true) :
    (got ||| ended) &&& grp = grp := by
  refine BitVec.eq_of_getLsbD_eq fun i hi => ?_
  rw [BitVec.getLsbD_and, BitVec.getLsbD_or]
  cases hgrp : grp.getLsbD i
  case false => simp
  case true => simpa using h i hi hgrp

/-- BARRIER_RELEASE releases a group whose members have all arrived or ended, where the packets pass (R68, R314, R322). -/
theorem exec_barrierRelease {s : State} {r : RigId} {g : Fin 16} {m : Cmd} (hr : (s.rig r).running = some m)
    (hgot : tget 0 m.arrived g ≠ 0) (hgrp : m.group g ≠ 0)
    (hall : (tget 0 m.arrived g ||| m.ended) &&& m.group g = m.group g) (hp : s.mcastPasses (m.group g) = true) :
    exec (.barrierRelease r g) s = .next (s.groupReleased r m g) := by
  show execBarrierRelease r g s = _
  simp only [execBarrierRelease, hr, beq_eq_false_iff_ne.mpr hgrp, beq_eq_false_iff_ne.mpr hgot, hall, hp, bne_self_eq_false,
    Bool.not_true, Bool.or_self, Bool.false_eq_true, if_false]
  rfl

section
variable {s : State} {r : Nat} {m : Cmd} {g : Fin 16} {c : Nat}

/-- A core that waits at the barrier and is a member that has arrived goes on past its BAR. -/
theorem State.groupReleased_core_passes (hbar : (s.core c).atBar = some g) (hgot : (tget 0 m.arrived g).getLsbD c = true)
    (hgrp : (m.group g).getLsbD c = true) :
    (s.groupReleased r m g).core c = ({ s.core c with atBar := none } : Core).past false := by
  have hmem : c ∈ s.letGo m g := by
    rw [State.letGo, List.mem_filter, BitVec.getLsbD_and, hgot, hgrp]
    exact ⟨State.listed_of_atBar hbar, rfl⟩
  rw [State.groupReleased, State.modCmd_core, State.each_passBar_core, if_pos hmem, Core.pastBar, if_pos hbar]

/-- Every other core is unchanged. -/
theorem State.groupReleased_core_other
    (h : (s.core c).atBar ≠ some g ∨ (tget 0 m.arrived g).getLsbD c = false ∨ (m.group g).getLsbD c = false) :
    (s.groupReleased r m g).core c = s.core c := by
  rw [State.groupReleased, State.modCmd_core, State.each_passBar_core]
  by_cases hbar : (s.core c).atBar = some g
  · have hmem : c ∉ s.letGo m g := by
      rw [State.letGo, List.mem_filter, BitVec.getLsbD_and, Bool.and_eq_true]
      rintro ⟨-, hgot, hgrp⟩
      rcases h.resolve_left (not_not.mpr hbar) with hnot | hnot
      · exact Bool.false_ne_true (hnot.symm.trans hgot)
      · exact Bool.false_ne_true (hnot.symm.trans hgrp)
    rw [if_neg hmem]
  · rw [Core.pastBar, if_neg hbar, ite_self]

/-- The rig's command has forgotten the group's arrivals. -/
theorem State.groupReleased_running (hr : (s.rig r).running = some m) :
    ((s.groupReleased r m g).rig r).running = some (m.forget g) := by
  have hr' : ((s.each (s.letGo m g) (State.passBar g)).rig r).running = some m := by
    rw [State.each_passBar_eq]
    exact hr
  rw [State.groupReleased, State.rig_modCmd_self _ _ _ hr']

/-- A release changes the cores and the rig's command alone. -/
theorem State.groupReleased_frame (s : State) (r : Nat) (m : Cmd) (g : Fin 16) :
    { s.groupReleased r m g with cores := s.cores, rigs := s.rigs } = s := by
  rw [State.groupReleased, State.each_passBar_eq]
  simp [State.modCmd, State.setRig]

end

/-- Settles O18: BAR by membership, an arrival by the command it changes, a release by the cores it lets go. -/
theorem barriersArriveAndRelease : Obligations.BarriersArriveAndRelease := by
  refine ⟨?bar, ?arrival, ?release⟩
  case bar =>
    intro s c f h hg hrsv hl hra hrb hk hfn
    have hb := bar_passes hrsv hl hra hrb hk hfn
    refine ⟨fun hnone => leaves_bar_outside h hg hb (by simp [hnone]), fun m hc => ⟨fun hm => ?_, leaves_bar_member h hg hb hc⟩⟩
    exact leaves_bar_outside h hg hb fun m' hc' => by rwa [← Option.some.inj (hc.symm.trans hc')]
  case arrival =>
    intro s c g r m hbar hr hm hp
    have hrig := s.rig_modCmd_self r (·.arrive g c) hm
    refine ⟨_, m.arrive g c, exec_barrierArrival hbar hr hp, ?_, fun i _ => m.getLsbD_arrive g c i, rfl, s.modCmd_frame _ _,
      fun n hn => s.rig_modCmd_ne _ _ hn, ?_⟩
    · rw [hrig]
    · rw [hrig, ← hm]
  case release =>
    intro s r g m hr grp got hgot hgrp hall _ hp
    exact ⟨_, exec_barrierRelease hr hgot hgrp (all_arrived hall) hp, fun c _ => State.groupReleased_core_passes,
      fun c => State.groupReleased_core_other, State.groupReleased_running hr, s.groupReleased_frame r m g⟩

end Sys2Proof.Machine
end

section
/-! PROOFS. The scalar registers, the predicates and the lanes of a core, and CMP (R79, R83, R94). -/

namespace Sys2Proof.Machine

/-! ### Scalar registers (R79) -/

section
variable (k : Core) {r n i j : Nat} (x : BitVec 64) (b : Bool)

@[simp] theorem Core.rg_zero : k.rg 0 = 0 := rfl
@[simp] theorem Core.wg_zero : k.wg 0 x = k := rfl

/-- A write to a scalar register other than g0, as the table entry it sets. -/
theorem Core.wg_of_ne_zero (h : r ≠ 0) : k.wg r x = { k with g := tset 0 k.g r x } := if_neg h

/-- A scalar register other than g0 reads as written. -/
theorem Core.rg_wg_self (h : r ≠ 0) : (k.wg r x).rg r = x := by
  rw [k.wg_of_ne_zero x h, Core.rg, if_neg h, tget_tset_self]

/-- A write to a scalar register changes no other. -/
theorem Core.rg_wg_ne (h : n ≠ r) : (k.wg r x).rg n = k.rg n := by
  by_cases hr : r = 0
  · rw [hr, Core.wg_zero]
  · simp only [k.wg_of_ne_zero x hr, Core.rg, tget_tset_ne 0 k.g x h]

/-- A write to a scalar register changes the scalar registers alone. -/
theorem Core.wg_frame : { k.wg r x with g := k.g } = k := by
  unfold Core.wg
  split <;> rfl

/-! ### Predicates (R78, R94) -/

/-- A predicate reads as written. -/
theorem Core.rp_wp_self (h : i < 8) : (k.wp i b).rp i = b := by
  cases b <;> simp [Core.rp, Core.wp, h]

/-- A write to a predicate changes no other. -/
theorem Core.rp_wp_ne (h : j ≠ i) : (k.wp i b).rp j = k.rp j := by
  have hbit : (BitVec.twoPow 8 i).getLsbD j = false := by simp [BitVec.getLsbD_twoPow, h.symm]
  cases b
  case true => simp [Core.rp, Core.wp, hbit]
  case false => simpa [Core.rp, Core.wp, hbit] using BitVec.lt_of_getLsbD

/-! ### Lanes of a vector register (R79) -/

/-- Lane i of the list of a register's lanes. -/
theorem Core.rvs_getD (r : Nat) (h : i < 64) : (k.rvs r).getD i 0 = k.rv r i := by
  simp [Core.rvs, h]

end

/-- BF16 element 2i lies in bits [15:0] of lane i (R79). -/
theorem bfElem_even (ls : List (BitVec 32)) (i : Nat) : bfElem ls (2 * i) = (ls.getD i 0).extractLsb' 0 16 := by
  have hmod : 2 * i % 2 = 0 := by omega
  have hdiv : 2 * i / 2 = i := by omega
  rw [bfElem, if_pos hmod, hdiv, bfLo, BitVec.truncate_eq_setWidth, BitVec.setWidth_eq_extractLsb' (by decide)]

/-- BF16 element 2i + 1 lies in bits [31:16] of lane i (R79). -/
theorem bfElem_odd (ls : List (BitVec 32)) (i : Nat) : bfElem ls (2 * i + 1) = (ls.getD i 0).extractLsb' 16 16 := by
  have hmod : ¬ (2 * i + 1) % 2 = 0 := by omega
  have hdiv : (2 * i + 1) / 2 = i := by omega
  rw [bfElem, if_neg hmod, hdiv, bfHi]

/-- Settles O4: reads after writes of a scalar register, and the two halves of a lane. -/
theorem registerFileReadsAndWrites : Obligations.RegisterFileReadsAndWrites := by
  intro k
  refine ⟨k.rg_zero, k.wg_zero, fun r x => k.rg_wg_self x, fun r n x => k.rg_wg_ne x, fun r x => k.wg_frame x, fun r i hi => ?_⟩
  rw [bfElem_even, bfElem_odd, k.rvs_getD r hi]
  exact ⟨rfl, rfl⟩

/-! ### Failed decode checks (R83) -/

/-- A ready instruction that fails a decode check stops its core with cause 0x01, whatever its guard (R83, R84). -/
theorem State.leaves_of_bad {s : State} {i : Instr} {c : CoreId} {long bad : Bool} {g : BitVec 5}
    {act : State → State × Bool} (h : s.canIssue c long = true) (hb : bad = true)
    (hx : exec i s = .next (s.issue c i long bad g act)) : s.leaves i c ((s.core c).halted 1) := by
  subst hb
  rw [State.issue_ready h] at hx
  exact State.leaves_stop h hx

/-- An instruction of a register or immediate form that passes its decode checks has a listed FN. -/
theorem aluFn_listed {f : Alu} {listed : Nat → Bool} (h : aluBad f listed = false) : listed (aluFn f) = true := by
  cases f with
  | reg f =>
    simp only [aluBad, Bool.or_eq_false_iff, Bool.not_eq_false'] at h
    exact h.2
  | imm f =>
    simp only [aluBad, Bool.or_eq_false_iff, Bool.not_eq_false'] at h
    exact h.1

/-! ### CMP (R94) -/

/-- The condition of a listed FN between two operands: EQ, NE, LT, GE, LTU, GEU (R94). -/
def condHolds (fn : Nat) (a b : BitVec 64) : Bool :=
  if fn = 0 then a = b else if fn = 1 then a ≠ b
  else if fn = 2 then a.toInt < b.toInt else if fn = 3 then b.toInt ≤ a.toInt
  else if fn = 4 then a.toNat < b.toNat else b.toNat ≤ a.toNat

/-- The model's condition of a listed FN is the one R94 names. -/
theorem cmpCond_listed {fn : Nat} (a b : BitVec 64) (h : fn ≤ 5) : cmpCond fn a b = some (condHolds fn a b) := by
  match fn, h with
  | 0, _ => rfl
  | 1, _ => simp [cmpCond, condHolds, bne, beq_eq_decide]
  | 2, _ => rfl
  | 3, _ => exact congrArg some (BitVec.sle_eq_not_slt ..).symm
  | 4, _ => rfl
  | 5, _ => exact congrArg some (BitVec.ule_eq_not_ult ..).symm

/-- RD[2:0], the predicate of CMP. -/
def cmpPred (f : Alu) : Nat := ((aluRd f).extractLsb' 0 3).toNat
/-- RD[4:3], the combine mode of CMP. -/
def cmpMode (f : Alu) : Nat := ((aluRd f).extractLsb' 3 2).toNat

theorem cmpPred_lt (f : Alu) : cmpPred f < 8 := BitVec.isLt _
theorem bits_rd_pred (f : Alu) : bits (aluRd f).toNat 2 0 = cmpPred f := (BitVec.extractLsb'_toNat ..).symm
theorem bits_rd_mode (f : Alu) : bits (aluRd f).toNat 4 3 = cmpMode f := (BitVec.extractLsb'_toNat ..).symm

/-- The combination of a listed mode: set, AND or OR (R94). -/
theorem combinePred_eq (mode : Nat) (old res : Bool) :
    combinePred mode old res = if mode = 0 then res else if mode = 1 then old && res else old || res := by
  match mode with
  | 0 => rfl
  | 1 => rfl
  | _ + 2 => rfl

/-- The core once CMP has combined its condition into its predicate (R94). -/
def Core.compared (k : Core) (f : Alu) : Core :=
  k.wp (cmpPred f) (combinePred (cmpMode f) (k.rp (cmpPred f)) (condHolds (aluFn f) (aluA k f) (aluB k f)))

theorem Core.compared_l1i (k : Core) (l : List Nat) (f : Alu) :
    ({ k with l1i := l } : Core).compared f = { k.compared f with l1i := l } := by
  simp only [Core.compared, aluA_l1i, aluB_l1i]
  rfl

/-- CMP with a listed condition, once issued: its core is compared and passes on. -/
theorem State.doCmp_listed (s : State) (c : Nat) {f : Alu} (h : aluFn f ≤ 5) :
    s.doCmp c f = (s.setCore c ((s.core c).compared f)).advance c (aluLong f) := by
  simp only [State.doCmp, cmpCond_listed _ _ h, bits_rd_pred, bits_rd_mode]
  rfl

section
variable {s : State} {c : CoreId} {f : Alu}

/-- A permitted CMP with a listed condition and mode writes its predicate and passes on (R94). -/
theorem leaves_cmp (h : s.canIssue c (aluLong f) = true) (hg : (s.core c).guardOk (aluGuard f) = true)
    (hb : aluBad f (· ≤ 5) = false) (hm : cmpMode f ≠ 3) :
    s.leaves (.cmp c f) c (((s.core c).compared f).past (aluLong f)) := by
  obtain ⟨l, hl⟩ := s.fetched_core_eq c (aluLong f)
  have hbad : (aluBad f (· ≤ 5) || bits (aluRd f).toNat 4 3 == 3) = false := by
    rw [hb, bits_rd_mode, Bool.false_or, beq_eq_false_iff_ne]
    exact hm
  have hact := exec_of_acts (i := .cmp c f) h hg hbad rfl rfl
  rw [State.doCmp_listed _ _ (of_decide_eq_true (aluFn_listed hb)), hl, Core.compared_l1i] at hact
  exact State.leaves_set_advance hact

/-- CMP with an unlisted mode or condition stops its core with cause 0x01 (R83, R94). -/
theorem leaves_cmp_unlisted (h : s.canIssue c (aluLong f) = true) (hu : cmpMode f = 3 ∨ 5 < aluFn f) :
    s.leaves (.cmp c f) c ((s.core c).halted 1) := by
  refine State.leaves_of_bad h ?_ rfl
  rw [bits_rd_mode, Bool.or_eq_true, beq_iff_eq]
  rcases hu with hmode | hfn
  · exact .inr hmode
  · refine .inl (Bool.of_not_eq_false fun hb => ?_)
    exact absurd (of_decide_eq_true (aluFn_listed hb)) (not_le.mpr hfn)

end

/-- Settles O5: the core that CMP leaves is its own with one predicate written, by `leaves_cmp`. -/
theorem compareWritesPredicate : Obligations.CompareWritesPredicate := by
  intro s c f h
  refine ⟨fun hb hm hg => ⟨_, leaves_cmp h hg hb hm, rfl, fun i hi => ?_, ?_⟩, leaves_cmp_unlisted h⟩
  · exact Core.rp_wp_ne _ _ hi
  · exact (Core.rp_wp_self _ _ (cmpPred_lt f)).trans (combinePred_eq ..)

end Sys2Proof.Machine
end

section
/-! PROOFS. What every command keeps (O59, O60): the parts of the state, checked words and the L1 caches. -/

namespace Sys2Proof.Machine

-- One theorem at a time, as in the tests: the proofs together take too many threads.
set_option Elab.async false

/-- What every command keeps from a state z: the waiting commands, and, where z has them, the canonical memories and a legal phase of
start-up. -/
structure State.Keeps (z s : State) : Prop where
  pending : s.pending = z.pending
  mem : z.memWf = true → s.memWf = true
  boot : z.boot.legal = true → s.boot.legal = true

/-- The same said of the four parts it looks at. -/
def KeepsParts (z : State) (mem hostMem : Mem) (boot : Boot) (pending : List Instr) : Prop :=
  pending = z.pending ∧ (z.memWf = true → (tabWf 0 mem && tabWf 0 hostMem) = true) ∧ (z.boot.legal = true → boot.legal = true)

section
variable {z s t : State}

theorem State.Keeps.refl (s : State) : s.Keeps s := ⟨rfl, id, id⟩

theorem keepsParts_state : KeepsParts z s.mem s.hostMem s.boot s.pending ↔ z.Keeps s :=
  ⟨fun h => ⟨h.1, h.2.1, h.2.2⟩, fun h => ⟨h.1, h.2, h.3⟩⟩

/-- Bytes written keep the canonical form of memory. -/
theorem keepsParts_mwrite {m m' : Mem} {b : Boot} {p : List Instr} (a : Nat) (bs : List Byte) (h : KeepsParts z m m' b p) :
    KeepsParts z (mwrite m a bs) m' b p := by
  refine ⟨h.1, fun w => ?_, h.2.2⟩
  have hm := h.2.1 w
  rw [Bool.and_eq_true] at hm ⊢
  exact ⟨tabWf_mwrite _ _ _ hm.1, hm.2⟩

/-- Entries dropped keep the canonical form of memory. -/
theorem keepsParts_tclear {m m' : Mem} {b : Boot} {p : List Instr} (f : Nat → Bool) (h : KeepsParts z m m' b p) :
    KeepsParts z (tclear f m) m' b p := by
  refine ⟨h.1, fun w => ?_, h.2.2⟩
  have hm := h.2.1 w
  rw [Bool.and_eq_true] at hm ⊢
  exact ⟨tabWf_tclear _ _ hm.1, hm.2⟩

/-- An update of the record keeps what its four parts keep. -/
theorem State.keeps_mk (cores : Tab Core) (mem : Mem) (gran : Tab Gran) (errs : Tab Err) (hostMem : Mem) (llc : Llc) (tiles : Tab Tile)
    (banks : Tab Bank) (hbm : Tab Hbm) (yards : Tab Yard) (rigs : Tab Rig) (strms : Tab Strm) (adm : Adm) (casc : Casc) (pwr : Pwr)
    (therm : Therm) (net : Net) (evt : Evt) (ras : Ras) (scrub : Scrub) (hot : Hot) (failures : List (Nat × Nat)) (fuses : List Fuses)
    (parked : Tab Parked) (boot : Boot) (sec : Sec) (loops : Tab Loop) (nest : Nest) (energyRig energyStrm : Tab (BitVec 64))
    (rsp : Option (List Byte × Bool)) (hdm : Tab Hdm) (ide : Bool) (bar0 : Tab (BitVec 64)) (free : Nat) (pending : List Instr) :
    z.Keeps ⟨cores, mem, gran, errs, hostMem, llc, tiles, banks, hbm, yards, rigs, strms, adm, casc, pwr, therm, net, evt, ras, scrub,
      hot, failures, fuses, parked, boot, sec, loops, nest, energyRig, energyStrm, rsp, hdm, ide, bar0, free, pending⟩ ↔
    KeepsParts z mem hostMem boot pending :=
  ⟨fun h => ⟨h.1, h.2, h.3⟩, fun h => ⟨h.1, h.2.1, h.2.2⟩⟩

/-- A change of other parts keeps them. -/
theorem State.Keeps.same (h : z.Keeps s) (hm : t.mem = s.mem) (hh : t.hostMem = s.hostMem) (hb : t.boot = s.boot)
    (hp : t.pending = s.pending) : z.Keeps t :=
  ⟨hp.trans h.pending, fun w => s.same_memWf (h.mem w) hm hh, fun w => hb ▸ h.boot w⟩

/-- A change of memory that keeps the canonical form keeps them. -/
theorem State.Keeps.ofMem (h : z.Keeps s) (hm : s.memWf = true → t.memWf = true) (hb : t.boot = s.boot) (hp : t.pending = s.pending) :
    z.Keeps t :=
  ⟨hp.trans h.pending, fun w => hm (h.mem w), fun w => hb ▸ h.boot w⟩

theorem State.Keeps.llc (h : z.Keeps s) (k : Llc) : z.Keeps { s with llc := k } := h.same rfl rfl rfl rfl

theorem State.Keeps.free (h : z.Keeps s) (n : Nat) : z.Keeps { s with free := n } := h.same rfl rfl rfl rfl

theorem State.Keeps.mwrite (h : z.Keeps s) (a : Nat) (bs : List Byte) : z.Keeps { s with mem := mwrite s.mem a bs } :=
  h.ofMem (fun m => s.mwrite_memWf a bs m rfl rfl) rfl rfl

theorem State.Keeps.ite {p : Prop} {_ : Decidable p} (hs : z.Keeps s) (ht : z.Keeps t) : z.Keeps (if p then s else t) := by
  split
  · exact hs
  · exact ht

/-- A pair whose state keeps them, taken apart. -/
theorem State.Keeps.pair {α : Type} {p : State × α} {x : α} (h : z.Keeps p.1) (he : p = (t, x)) : z.Keeps t := by
  rw [he] at h
  exact h

/-- A loop whose every turn keeps them keeps them. -/
theorem State.Keeps.foldl {α : Type} {f : State → α → State} (hf : ∀ u x, z.Keeps u → z.Keeps (f u x)) (xs : List α) (h : z.Keeps s) :
    z.Keeps (xs.foldl f s) := by
  induction xs generalizing s with
  | nil => exact h
  | cons x xs ih => exact ih (hf s x h)

theorem State.Keeps.each {f : State → Nat → State} (hf : ∀ u x, z.Keeps u → z.Keeps (f u x)) (xs : List Nat) (h : z.Keeps s) :
    z.Keeps (s.each xs f) := h.foldl hf xs

/-- A result of an access keeps them: the state it leaves does, done or ended by a stop cause. -/
def Res.Keeps {α : Type} (z : State) : Res α → Prop
  | .ok s _ => z.Keeps s
  | .fault s _ => z.Keeps s
  | .wait _ => True

theorem Res.Keeps.ok_eq {α : Type} {r : Res α} {x : α} (h : r.Keeps z) (he : r = .ok t x) : z.Keeps t := by
  rw [he] at h
  exact h

theorem Res.Keeps.fault_eq {α : Type} {r : Res α} {e : Nat} (h : r.Keeps z) (he : r = .fault t e) : z.Keeps t := by
  rw [he] at h
  exact h

theorem Res.Keeps.ite {α : Type} {r r' : Res α} {p : Prop} {_ : Decidable p} (h : r.Keeps z) (h' : r'.Keeps z) :
    (if p then r else r').Keeps z := by
  split
  · exact h
  · exact h'

/-- A result with which every continuation keeps them. -/
theorem Res.Keeps.andThen {α β : Type} {r : Res α} {f : State → α → Res β} (h : r.Keeps z)
    (hf : ∀ u x, z.Keeps u → (f u x).Keeps z) : (r.andThen f).Keeps z := by
  cases r with
  | ok s x => exact hf s x h
  | fault s c => exact h
  | wait sn => trivial

theorem State.Keeps.resList {α β : Type} {f : State → α → Res β} (hf : ∀ u x, z.Keeps u → (f u x).Keeps z) (xs : List α) (h : z.Keeps s) :
    (resList f s xs).Keeps z := by
  induction xs generalizing s with
  | nil => exact h
  | cons x xs ih => exact (hf s x h).andThen fun u y hu => (ih hu).andThen fun v ys hv => hv

/-- A command completes, and what it leaves keeps them. -/
def Completes (z : State) (o : Out) : Prop := ∃ t, o = .next t ∧ z.Keeps t

/-- An item of a bank unit's command keeps them. -/
def ItemOut.Keeps (z : State) (x : ItemOut) : Prop := z.Keeps x.s

theorem Completes.of_eq {o : Out} (h : z.Keeps t) (he : o = .next t) : Completes z o := ⟨t, he, h⟩

theorem State.Keeps.setCore (h : z.Keeps s) (c : Nat) (k : Core) :
    z.Keeps (s.setCore c k) := h.same rfl rfl rfl rfl

theorem State.Keeps.setTile (h : z.Keeps s) (c : Nat) (t : Tile) :
    z.Keeps (s.setTile c t) := h.same rfl rfl rfl rfl

theorem State.Keeps.setBank (h : z.Keeps s) (c b : Nat) (k : Bank) :
    z.Keeps (s.setBank c b k) := h.same rfl rfl rfl rfl

theorem State.Keeps.setChan (h : z.Keeps s) (i : Nat) (h : Hbm) :
    z.Keeps (s.setChan i h) := by
  grind [State.setChan, State.keeps_mk, keepsParts_state]

theorem State.Keeps.setRig (h : z.Keeps s) (r : Nat) (k : Rig) :
    z.Keeps (s.setRig r k) := h.same rfl rfl rfl rfl

theorem State.Keeps.setYard (h : z.Keeps s) (y : Nat) (k : Yard) :
    z.Keeps (s.setYard y k) := h.same rfl rfl rfl rfl

theorem State.Keeps.setReg (h : z.Keeps s) (off : Nat) (w : BitVec 64) :
    z.Keeps (s.setReg off w) := h.same rfl rfl rfl rfl

theorem State.Keeps.noteDue (h : z.Keeps s) (n : Nat) :
    z.Keeps (s.noteDue n) := by
  grind [State.noteDue, State.keeps_mk, keepsParts_state]

theorem State.Keeps.raiseSrc (h : z.Keeps s) (n : Nat) :
    z.Keeps (s.raiseSrc n) := by
  grind [State.raiseSrc, State.keeps_mk, keepsParts_state, State.Keeps.noteDue]

theorem State.Keeps.rigCause (h : z.Keeps s) (r : Nat) (bitsSet : BitVec 16) :
    z.Keeps (s.rigCause r bitsSet) := by
  grind [State.rigCause, State.keeps_mk, keepsParts_state, State.Keeps.raiseSrc]

theorem State.Keeps.deadRead (h : z.Keeps s) (a : Nat) :
    z.Keeps (s.deadRead a) := by
  grind [State.deadRead, State.keeps_mk, keepsParts_state, State.Keeps.setRig, State.Keeps.rigCause]

theorem State.Keeps.countCe (h : z.Keeps s) (kind unit addr pos : Nat) :
    z.Keeps (s.countCe kind unit addr pos) := by
  grind [State.countCe, State.keeps_mk, keepsParts_state]

theorem State.Keeps.countUe (h : z.Keeps s) (kind unit : Nat) :
    z.Keeps (s.countUe kind unit) := by
  grind [State.countUe, State.keeps_mk, keepsParts_state, State.Keeps.raiseSrc]

theorem State.Keeps.recordFail (h : z.Keeps s) (kind item : Nat) :
    z.Keeps (s.recordFail kind item) := by
  grind [State.recordFail, State.keeps_mk, keepsParts_state, State.Keeps.raiseSrc]

theorem State.Keeps.setMark (h : z.Keeps s) (w : Nat) (e : Err) :
    z.Keeps (s.setMark w e) := h.same rfl rfl rfl rfl

theorem State.Keeps.setGran (h : z.Keeps s) (a : Nat) (g : Gran) :
    z.Keeps (s.setGran a g) := h.same rfl rfl rfl rfl

theorem State.Keeps.emptyGran (h : z.Keeps s) (a : Nat) (g : Gran) : z.Keeps (s.emptyGran a g) :=
  h.ofMem (s.emptyGran_memWf a g) rfl rfl

theorem State.Keeps.ownLog (h : z.Keeps s) (a : Nat) :
    z.Keeps (s.ownLog a) := by
  grind [State.ownLog, State.keeps_mk, keepsParts_state, State.Keeps.setCore, State.Keeps.setTile, State.Keeps.setChan,
    State.Keeps.recordFail]

theorem State.Keeps.meet (h : z.Keeps s) (w : Nat) :
    z.Keeps (s.meet w).1 := by
  grind [State.meet, State.Keeps.countCe, State.Keeps.countUe, State.Keeps.setMark, State.Keeps.ownLog]

theorem State.Keeps.meetAll (h : z.Keeps s) (xs : List Nat) :
    z.Keeps (s.meetAll xs).1 := by
  induction xs generalizing s with
  | nil => exact h
  | cons x xs ih => grind [State.meetAll, State.Keeps.meet]

theorem State.Keeps.flipFired (h : z.Keeps s) :
    z.Keeps (s.flipFired) := h.same rfl rfl rfl rfl

theorem State.Keeps.flipWrite (h : z.Keeps s) (kind unit w : Nat) : z.Keeps (s.flipWrite kind unit w) := by
  unfold State.flipWrite
  split
  · split
    · exact h.flipFired
    · exact h.flipFired.setMark w _
    · exact h.flipFired.setMark w _
    · exact h.ofMem (fun m => s.mwrite_memWf w _ m rfl rfl) rfl rfl
  · exact h

theorem State.Keeps.writeMark (h : z.Keeps s) (a n w : Nat) :
    z.Keeps (s.writeMark a n w) := by
  grind [State.writeMark, State.Keeps.setMark, State.Keeps.meet]

theorem State.Keeps.writeMarks (h : z.Keeps s) (a n : Nat) (xs : List Nat) :
    z.Keeps (s.writeMarks a n xs) := by
  induction xs generalizing s with
  | nil => exact h
  | cons x xs ih => grind [State.writeMarks, State.Keeps.writeMark]

theorem State.Keeps.putBytes (h : z.Keeps s) (a : Nat) (bs : List Byte) :
    z.Keeps (s.putBytes a bs) := by
  grind [State.putBytes, State.keeps_mk, keepsParts_state, keepsParts_mwrite, State.Keeps.flipWrite, State.Keeps.writeMarks]

theorem State.Keeps.lockerRead (h : z.Keeps s) (a n : Nat) :
    z.Keeps (s.lockerRead a n).1 := by
  grind [State.lockerRead, State.Keeps.meetAll]

theorem State.Keeps.lockerWrite (h : z.Keeps s) (a : Nat) (bs : List Byte) :
    z.Keeps (s.lockerWrite a bs) := by
  grind [State.lockerWrite, State.Keeps.putBytes]

theorem State.Keeps.meetDram (h : z.Keeps s) (xs : List Nat) :
    z.Keeps (s.meetDram xs).1 := by
  induction xs generalizing s with
  | nil => exact h
  | cons x xs ih => grind [State.meetDram, State.Keeps.countUe, State.Keeps.meet]

theorem State.Keeps.tileRead (h : z.Keeps s) (a n : Nat) :
    z.Keeps (s.tileRead a n).1 := by
  grind [State.tileRead, State.Keeps.deadRead, State.Keeps.meetDram]

theorem State.Keeps.firstWrite (h : z.Keeps s) (a : Nat) :
    z.Keeps (s.firstWrite a) := by
  grind [State.firstWrite, State.Keeps.emptyGran]

theorem State.Keeps.firstWrites (h : z.Keeps s) (xs : List Nat) :
    z.Keeps (s.firstWrites xs) := by
  induction xs generalizing s with
  | nil => exact h
  | cons x xs ih => grind [State.firstWrites, State.Keeps.firstWrite]

theorem State.Keeps.tileWrite (h : z.Keeps s) (a : Nat) (bs : List Byte) :
    z.Keeps (s.tileWrite a bs) := by
  grind [State.tileWrite, State.Keeps.putBytes, State.Keeps.firstWrites]
end

end Sys2Proof.Machine
end

section
/-! PROOFS. What every command keeps (O59, O60): the caches, the tiles and the lockers. -/

namespace Sys2Proof.Machine

-- One theorem at a time, as in the tests: the proofs together take too many threads.
set_option Elab.async false

section
variable {z s t : State}

theorem State.Keeps.openTile (h : z.Keeps s) (c off : Nat) :
    z.Keeps (s.openTile c off) := h.same rfl rfl rfl rfl

theorem State.Keeps.serveTile (h : z.Keeps s) (c : Nat) (q : TileReq) :
    z.Keeps (s.serveTile c q) := by
  grind [State.serveTile, State.keeps_mk, keepsParts_state, State.Keeps.setTile, State.Keeps.deadRead, State.Keeps.meetDram,
    State.Keeps.tileWrite, State.Keeps.openTile]

theorem State.Keeps.serveBeats (h : z.Keeps s) (c : Nat) (n : Nat) :
    z.Keeps (s.serveBeats c n) := by
  induction n generalizing s with
  | zero => exact h
  | succ n ih => grind [State.serveBeats, State.keeps_mk, keepsParts_state, State.Keeps.setTile, State.Keeps.setBank,
    State.Keeps.serveTile]

theorem State.Keeps.serveTileQueues (h : z.Keeps s) (c : Nat) :
    z.Keeps (s.serveTileQueues c) := by
  grind [State.serveTileQueues, State.Keeps.serveBeats]

theorem State.Keeps.serveHeld (h : z.Keeps s) (c b n : Nat) :
    z.Keeps (s.serveHeld c b n) := by
  grind [State.serveHeld, State.keeps_mk, keepsParts_state, State.Keeps.foldl, State.Keeps.setBank, State.Keeps.serveTile]

theorem State.Keeps.releaseBank (h : z.Keeps s) (c b : Nat) :
    z.Keeps (s.releaseBank c b) := by
  grind [State.releaseBank, State.Keeps.serveTileQueues, State.Keeps.serveHeld]

theorem State.Keeps.startRefresh (h : z.Keeps s) (c b : Nat) :
    z.Keeps (s.startRefresh c b) := h.same rfl rfl rfl rfl

theorem State.Keeps.deliver (h : z.Keeps s) (c : Nat) (m : Option Nat) (id : Nat) (x : ChainIn) :
    z.Keeps (s.deliver c m id x) := by
  unfold State.deliver
  split <;> grind [State.deliver, State.keeps_mk, keepsParts_state, State.Keeps.setBank]

theorem State.Keeps.closeRun (h : z.Keeps s) (c b : Nat) (err : BitVec 8) :
    z.Keeps (s.closeRun c b err) := by
  grind [State.closeRun, State.keeps_mk, keepsParts_state, State.Keeps.setBank, State.Keeps.deliver]

theorem State.Keeps.endRun (h : z.Keeps s) (c b : Nat) (err : BitVec 8) :
    z.Keeps (s.endRun c b err) := by
  grind [State.endRun, State.keeps_mk, keepsParts_state, State.Keeps.setBank, State.Keeps.startRefresh, State.Keeps.closeRun]

theorem State.Keeps.startRun (h : z.Keeps s) (c b : Nat) (w : BitVec 64) (chain : List Nat) (id : Nat) :
    z.Keeps (s.startRun c b w chain id) := by
  grind [State.startRun, State.keeps_mk, keepsParts_state, State.Keeps.setBank, State.Keeps.deliver, State.Keeps.endRun]

theorem State.Keeps.settleBank (h : z.Keeps s) (c b : Nat) :
    z.Keeps (s.settleBank c b) := by
  grind [State.settleBank, State.keeps_mk, keepsParts_state, State.Keeps.setBank, State.Keeps.startRun]

theorem State.Keeps.giveCmd (h : z.Keeps s) (c b : Nat) (w : BitVec 64) (chain : List Nat) :
    z.Keeps (s.giveCmd c b w chain) := by
  grind [State.giveCmd, State.keeps_mk, keepsParts_state, State.Keeps.setBank, State.Keeps.startRun, State.Keeps.settleBank]

theorem State.Keeps.gangCopy (h : z.Keeps s) (c src dst : Nat) :
    z.Keeps (s.gangCopy c src dst) := h.same rfl rfl rfl rfl

theorem State.Keeps.bankCmd (h : z.Keeps s) (c b : Nat) (w : BitVec 64) :
    z.Keeps (s.bankCmd c b w) := by
  grind [State.bankCmd, State.keeps_mk, keepsParts_state, State.Keeps.foldl, State.Keeps.setTile, State.Keeps.setBank,
    State.Keeps.deliver, State.Keeps.settleBank, State.Keeps.giveCmd, State.Keeps.gangCopy]

theorem State.Keeps.freeLists (h : z.Keeps s) (c b : Nat) (w : BitVec 64) :
    z.Keeps (s.freeLists c b w) := by
  grind [State.freeLists, State.keeps_mk, keepsParts_state, State.Keeps.foldl, State.Keeps.setBank]

theorem State.Keeps.dropQueued (h : z.Keeps s) (c b : Nat) :
    z.Keeps (s.dropQueued c b) := by
  grind [State.dropQueued, State.keeps_mk, keepsParts_state, State.Keeps.setBank, State.Keeps.deliver]

theorem State.Keeps.stopRun (h : z.Keeps s) (c b : Nat) :
    z.Keeps (s.stopRun c b) := by
  grind [State.stopRun, State.keeps_mk, keepsParts_state, State.Keeps.setBank, State.Keeps.endRun, State.Keeps.freeLists]

theorem State.Keeps.abortBank (h : z.Keeps s) (c b : Nat) :
    z.Keeps (s.abortBank c b) := by
  grind [State.abortBank, State.keeps_mk, keepsParts_state, State.Keeps.setBank, State.Keeps.dropQueued, State.Keeps.stopRun]

theorem State.Keeps.pendMode (h : z.Keeps s) (c b : Nat) (unit : Bool) :
    z.Keeps (s.pendMode c b unit) := h.same rfl rfl rfl rfl

theorem State.Keeps.bankModeWrite (h : z.Keeps s) (c : Nat) (w : BitVec 64) :
    z.Keeps (s.bankModeWrite c w) := by
  grind [State.bankModeWrite, State.Keeps.foldl, State.Keeps.pendMode]

theorem State.Keeps.windowWrite (h : z.Keeps s) (c b off : Nat) (bs : List Byte) :
    z.Keeps (s.windowWrite c b off bs) := by
  grind [State.windowWrite, State.keeps_mk, keepsParts_state, keepsParts_mwrite, State.Keeps.setBank, State.Keeps.releaseBank,
    State.Keeps.bankCmd, State.Keeps.abortBank, State.Keeps.bankModeWrite]

theorem State.Keeps.unitRead (h : z.Keeps s) (c b : Nat) (r : BankRun) (o n : Nat) : z.Keeps (s.unitRead c b r o n).1 := by
  unfold State.unitRead
  extract_lets a g dead t r'
  have ht : z.Keeps t := (h.deadRead a).ite h
  split
  next heq =>
    have hu := (ht.meetDram _).pair heq
    dsimp only
    split
    · exact hu.free _
    · exact hu

theorem State.Keeps.unitWrite (h : z.Keeps s) (c b : Nat) (r : BankRun) (o : Nat) (bs : List Byte) :
    z.Keeps (s.unitWrite c b r o bs) := by
  grind [State.unitWrite, State.keeps_mk, keepsParts_state, State.Keeps.tileWrite]

theorem State.Keeps.readExcl (h : z.Keeps s) (c b : Nat) (r : BankRun) (j : Nat) : z.Keeps (s.readExcl c b r j).1 := by
  unfold State.readExcl
  split
  · split
    next heq => exact (h.unitRead c b _ _ 1).pair heq
  · exact h

theorem State.Keeps.xpopElem (h : z.Keeps s) (c b : Nat) (r : BankRun) (j : Nat) (sk : List Byte) :
    z.Keeps (s.xpopElem c b r j sk) := by
  grind [State.xpopElem, State.Keeps.foldl, State.Keeps.setBank, State.Keeps.unitWrite]

theorem State.Keeps.dotElem (h : z.Keeps s) (c b : Nat) (r : BankRun) (j : Nat) (row : List Byte) :
    z.Keeps (s.dotElem c b r j row) := by
  grind [State.dotElem, State.Keeps.foldl, State.Keeps.setBank, State.Keeps.unitWrite]

theorem State.Keeps.topElem (h : z.Keeps s) (c b : Nat) (r : BankRun) (i key : Nat) :
    z.Keeps (s.topElem c b r i key) := by
  grind [State.topElem, State.Keeps.setBank]

theorem State.Keeps.bitsetElem (h : z.Keeps s) (c b : Nat) (r : BankRun) (p : Nat) : (s.bitsetElem c b r p).Keeps z := by
  unfold State.bitsetElem
  extract_lets o
  split
  · exact h
  · split
    next heq =>
      have hu := (h.unitRead c b r o 1).pair heq
      split
      · exact hu
      · extract_lets own old new flipped t
        have ht : z.Keeps t := (hu.free _).ite hu
        have hw := ht.tileWrite (bankAddr c b o) [BitVec.ofNat 8 new]
        exact hw

theorem State.Keeps.bitsetItem (h : z.Keeps s) (c b : Nat) (r : BankRun) (o : Nat) (ps : List Nat) :
    (s.bitsetItem c b r o ps).Keeps z := by
  induction ps generalizing s r o with
  | nil => exact h
  | cons p ps ih =>
    unfold State.bitsetItem
    extract_lets lap p' t x
    have ht : z.Keeps t := (h.free _).ite h
    split
    · exact ht.bitsetElem c b r p'
    · exact ih (ht.bitsetElem c b r p') _ _

theorem State.Keeps.readExcls (h : z.Keeps s) (c b : Nat) (r : BankRun) (js : List Nat) : z.Keeps (s.readExcls c b r js).1 := by
  induction js generalizing s r with
  | nil => exact h
  | cons j js ih =>
    unfold State.readExcls
    split
    next heq => exact (h.readExcl c b r j).pair heq
    next heq => exact ih ((h.readExcl c b r j).pair heq) _

theorem State.Keeps.bankItem (h : z.Keeps s) (c b : Nat) (r : BankRun) (i : Nat) : (s.bankItem c b r i).Keeps z := by
  unfold State.bankItem
  dsimp only
  split
  · split
    · exact h.tileWrite _ _
    · exact h
  · split
    · exact h.unitWrite c b r _ _
    · split
      · exact h.readExcls c b r _
      · split
        next heq =>
          exact ((h.readExcls c b r _).unitRead c b _ _ _).pair heq
        next t r' bs heq =>
          have hu := ((h.readExcls c b r _).unitRead c b _ _ _).pair heq
          split
          · exact hu.foldl (fun u k hk => hk.xpopElem c b r' _ _) _
          · exact hu.foldl (fun u k hk => hk.dotElem c b r' _ _) _
          · exact hu
          · exact hu.unitWrite c b r' _ _
          · exact hu.foldl (fun u k hk => hk.topElem c b r' _ _) _
          · exact hu.bitsetItem c b r' _ _
          · exact hu

theorem State.Keeps.freeRange (h : z.Keeps s) (c b o n : Nat) : z.Keeps (s.freeRange c b o n) := by
  induction n generalizing s with
  | zero => exact h
  | succ n ih =>
    refine ih ?_
    split
    · exact (h.mwrite _ [Config.freeByte s.free]).free _
    · exact h

theorem State.Keeps.freeOutputs (h : z.Keeps s) (c b : Nat) (r : BankRun) :
    z.Keeps (s.freeOutputs c b r) := by
  grind [State.freeOutputs, State.keeps_mk, keepsParts_state, State.Keeps.foldl, State.Keeps.setBank, State.Keeps.freeRange]

theorem State.Keeps.bankWork (h : z.Keeps s) (c b n : Nat) : z.Keeps (s.bankWork c b n) := by
  induction n generalizing s with
  | zero => exact h
  | succ n ih =>
    unfold State.bankWork
    split
    · exact h
    next r _ =>
      split
      · exact h
      · have hi : z.Keeps (s.bankItem c b r r.pos).s := h.bankItem c b r r.pos
        dsimp only
        split
        · exact ((((hi.setBank c b _).setBank c b _).freeLists c b _).freeOutputs c b _).endRun c b _
        · split
          · exact ((hi.setBank c b _).setBank c b _).endRun c b _
          · exact ih (hi.setBank c b _)

theorem State.Keeps.bankFinish (h : z.Keeps s) (c b : Nat) :
    z.Keeps (s.bankFinish c b) := by
  grind [State.bankFinish, State.keeps_mk, keepsParts_state, State.Keeps.setBank, State.Keeps.endRun, State.Keeps.stopRun,
    State.Keeps.bankWork]

theorem State.Keeps.chainArrive (h : z.Keeps s) (c b : Nat) :
    z.Keeps (s.chainArrive c b) := by
  grind [State.chainArrive, State.keeps_mk, keepsParts_state, State.Keeps.setBank, State.Keeps.deliver]

theorem State.Keeps.chainBroken (h : z.Keeps s) (c b : Nat) :
    z.Keeps (s.chainBroken c b) := by
  grind [State.chainBroken, State.Keeps.endRun, State.Keeps.freeRange]

theorem State.Keeps.setLine (h : z.Keeps s) (l : Nat) (x : Line) :
    z.Keeps (s.setLine l x) := h.same rfl rfl rfl rfl

theorem State.Keeps.dropLine (h : z.Keeps s) (l : Nat) :
    z.Keeps (s.dropLine l) := h.same rfl rfl rfl rfl

theorem State.Keeps.lineErrors (h : z.Keeps s) (l : Nat) (need : BitVec 16) :
    z.Keeps (s.lineErrors l need) := by
  grind [State.lineErrors, State.keeps_mk, keepsParts_state, State.Keeps.foldl, State.Keeps.countCe, State.Keeps.setMark,
    State.Keeps.setLine]

theorem State.Keeps.lostEntry (h : z.Keeps s) (dir : Bool) (slice : Nat) :
    z.Keeps (s.lostEntry dir slice) := by
  grind [State.lostEntry, State.keeps_mk, keepsParts_state, State.Keeps.countUe]

theorem State.Keeps.loseSectors (h : z.Keeps s) (l : Nat) (d : BitVec 16) :
    z.Keeps (s.loseSectors l d) := by
  grind [State.loseSectors, State.keeps_mk, keepsParts_state, keepsParts_mwrite, State.Keeps.each, State.Keeps.setMark]

theorem State.Keeps.failWay (h : z.Keeps s) (slice way : Nat) :
    z.Keeps (s.failWay slice way) := by
  grind [State.failWay, State.keeps_mk, keepsParts_state, State.Keeps.recordFail]

theorem State.Keeps.meetTag (h : z.Keeps s) (l : Nat) (x : Line) :
    z.Keeps (s.meetTag l x) := by
  grind [State.meetTag, State.keeps_mk, keepsParts_state, State.Keeps.countCe, State.Keeps.setLine, State.Keeps.dropLine,
    State.Keeps.lostEntry, State.Keeps.loseSectors, State.Keeps.failWay]

theorem State.Keeps.meetTags (h : z.Keeps s) (l : Nat) :
    z.Keeps (s.meetTags l) := by
  grind [State.meetTags, State.Keeps.foldl, State.Keeps.meetTag]

theorem State.Keeps.meetDir (h : z.Keeps s) (e : DirEnt) :
    z.Keeps (s.meetDir e) := by
  grind [State.meetDir, State.keeps_mk, keepsParts_state, State.Keeps.lostEntry]

theorem State.Keeps.meetDirs (h : z.Keeps s) (a n : Nat) :
    z.Keeps (s.meetDirs a n) := by
  grind [State.meetDirs, State.Keeps.foldl, State.Keeps.meetDir]

theorem State.Keeps.firstDram (h : z.Keeps s) (a : Nat) :
    z.Keeps (s.firstDram a) := by
  grind [State.firstDram, State.keeps_mk, keepsParts_state, keepsParts_tclear, State.Keeps.setGran]

theorem State.Keeps.setWritten (h : z.Keeps s) (g : Nat) :
    z.Keeps (s.setWritten g) := by
  grind [State.setWritten, State.keeps_mk, keepsParts_state, State.Keeps.firstDram]

theorem State.Keeps.llcOut (h : z.Keeps s) (bs : List Byte) (ue : Bool) :
    z.Keeps (s.llcOut bs ue) := h.same rfl rfl rfl rfl

theorem State.Keeps.ackWrites (h : z.Keeps s) :
    z.Keeps (s.ackWrites) := by
  grind [State.ackWrites, State.keeps_mk, keepsParts_state, State.Keeps.llcOut]

theorem State.Keeps.setWrittenReply (h : z.Keeps s) (g : Nat) :
    z.Keeps (s.setWrittenReply g) := by
  grind [State.setWrittenReply, State.keeps_mk, keepsParts_state, State.Keeps.ackWrites]

theorem State.Keeps.settleWrite (h : z.Keeps s) (g : Nat) :
    z.Keeps (s.settleWrite g) := by
  grind [State.settleWrite, State.Keeps.setWritten, State.Keeps.setWrittenReply]

theorem State.Keeps.backSector (h : z.Keeps s) (a : Nat) :
    z.Keeps (s.backSector a) := by
  grind [State.backSector, State.Keeps.countUe, State.Keeps.setMark, State.Keeps.flipWrite]

theorem State.Keeps.backSectors (h : z.Keeps s) (l : Nat) (d : BitVec 16) :
    z.Keeps (s.backSectors l d) := by
  grind [State.backSectors, State.Keeps.foldl, State.Keeps.lineErrors, State.Keeps.setWritten, State.Keeps.backSector]

theorem State.Keeps.evict (h : z.Keeps s) (l : Nat) :
    z.Keeps (s.evict l) := by
  grind [State.evict, State.Keeps.dropLine, State.Keeps.backSectors]

theorem State.Keeps.evictWay (h : z.Keeps s) (slice set way : Nat) :
    z.Keeps (s.evictWay slice set way) := by
  grind [State.evictWay, State.Keeps.foldl, State.Keeps.evict]

theorem State.Keeps.tickLlc (h : z.Keeps s) :
    z.Keeps (s.tickLlc) := h.same rfl rfl rfl rfl

theorem State.Keeps.placeLine (h : z.Keeps s) (l way : Nat) (share : Bool) (x : Line) :
    z.Keeps (s.placeLine l way share x) := by
  grind [State.placeLine, State.keeps_mk, keepsParts_state, State.Keeps.setLine, State.Keeps.evictWay]

theorem State.Keeps.allocate (h : z.Keeps s) (l way : Nat) (valid : BitVec 16) (flag : Bool) :
    z.Keeps (s.allocate l way valid flag) := by
  grind [State.allocate, State.Keeps.tickLlc, State.Keeps.placeLine]

theorem State.Keeps.splitPair (h : z.Keeps s) (l : Nat) :
    z.Keeps (s.splitPair l) := by
  grind [State.splitPair, State.keeps_mk, keepsParts_state, State.Keeps.dropLine, State.Keeps.placeLine]

theorem State.Keeps.splitAgain (h : z.Keeps s) :
    z.Keeps (s.splitAgain) := by
  grind [State.splitAgain, State.keeps_mk, keepsParts_state, State.Keeps.each, State.Keeps.ackWrites, State.Keeps.splitPair]

theorem State.Keeps.countLlc (h : z.Keeps s) (cls : Fin 5) (hit : Bool) :
    z.Keeps (s.countLlc cls hit) := h.same rfl rfl rfl rfl

theorem State.Keeps.trackMiss (h : z.Keeps s) (slice : Nat) (who : Who) (cls : Fin 5) (l : Nat) :
    z.Keeps (s.trackMiss slice who cls l) := by
  grind [State.trackMiss, State.keeps_mk, keepsParts_state, State.Keeps.foldl, State.Keeps.tickLlc]

theorem State.Keeps.trackHit (h : z.Keeps s) (slice : Nat) (who : Who) :
    z.Keeps (s.trackHit slice who) := h.same rfl rfl rfl rfl

theorem State.Keeps.needSetWritten (h : z.Keeps s) (g : Nat) :
    z.Keeps (s.needSetWritten g) := by
  grind [State.needSetWritten, State.keeps_mk, keepsParts_state]

theorem State.Keeps.sectorMarks (h : z.Keeps s) (present : BitVec 16) (a n : Nat) (xs : List Nat) :
    z.Keeps (s.sectorMarks present a n xs) := by
  induction xs generalizing s with
  | nil => exact h
  | cons x xs ih => grind [State.sectorMarks, State.Keeps.countUe, State.Keeps.setMark]

theorem State.Keeps.flipLine (h : z.Keeps s) (l a : Nat) : z.Keeps (s.flipLine l a) := by
  unfold State.flipLine
  dsimp only
  split
  · exact h
  · refine State.Keeps.ite ?_ h
    split
    · exact h.flipFired
    · exact h.flipFired.setLine l _
    · exact h.flipFired.setLine l _
    · exact h.ofMem (fun m => s.mwrite_memWf _ _ m rfl rfl) rfl rfl

theorem State.Keeps.readSectors (h : z.Keeps s) (l : Nat) (xs : List Nat) :
    z.Keeps (s.readSectors l xs).1 := by
  induction xs generalizing s with
  | nil => exact h
  | cons x xs ih => grind [State.readSectors, State.Keeps.countUe]

theorem State.Keeps.unpin (h : z.Keeps s) (l : Nat) :
    z.Keeps (s.unpin l) := by
  grind [State.unpin, State.keeps_mk, keepsParts_state, State.Keeps.setLine]

theorem State.Keeps.wrote (h : z.Keeps s) (l : Nat) (flag : Bool) :
    z.Keeps (s.wrote l flag) := by
  grind [State.wrote, State.keeps_mk, keepsParts_state, State.Keeps.llcOut, State.Keeps.splitPair, State.Keeps.needSetWritten]

theorem State.Keeps.fetchSectors (h : z.Keeps s) (l : Nat) (xs : List Nat) :
    z.Keeps (s.fetchSectors l xs).1 := by
  induction xs generalizing s with
  | nil => exact h
  | cons x xs ih => grind [State.fetchSectors, State.Keeps.countUe, State.Keeps.meetDram]

theorem State.Keeps.reductionApply (h : z.Keeps s) (l : Nat) : z.Keeps (s.reductionApply l) := by
  unfold State.reductionApply
  split
  · exact h
  · dsimp only
    split
    · split
      · exact (((((h.llc _).unpin l).lineErrors l _).fetchSectors l _).readSectors l _).splitAgain.llcOut _ _
      · exact (((((((((h.llc _).unpin l).lineErrors l _).fetchSectors l _).readSectors l _).mwrite _ _).setLine l _).flipLine l
          _).splitAgain).wrote l _
    · exact ((h.llc _).unpin l).lineErrors l _

theorem State.Keeps.applyReds (h : z.Keeps s) (l : Nat) :
    z.Keeps (s.applyReds l) := by
  grind [State.applyReds, State.keeps_mk, keepsParts_state, State.Keeps.each, State.Keeps.reductionApply]

theorem State.Keeps.perform (h : z.Keeps s) (r : LlcReq) : z.Keeps (s.perform r) := by
  unfold State.perform
  dsimp only
  split
  · exact h.tickLlc
  · split
    · exact ((h.tickLlc.setLine _ _).readSectors _ _).llcOut _ _
    · exact ((((h.tickLlc.sectorMarks _ _ _ _).mwrite _ _).setLine _ _).flipLine _ _).wrote _ _
    · exact (h.tickLlc.setLine _ _).llc _

theorem State.Keeps.missed (h : z.Keeps s) (r : LlcReq) :
    z.Keeps (s.missed r) := by
  grind [State.missed, State.Keeps.countLlc, State.Keeps.trackMiss]

theorem State.Keeps.hit (h : z.Keeps s) (r : LlcReq) :
    z.Keeps (s.hit r) := by
  grind [State.hit, State.Keeps.countLlc, State.Keeps.trackHit]

theorem State.Keeps.waitFill (h : z.Keeps s) (r : LlcReq) (way : Option Nat) :
    z.Keeps (s.waitFill r way) := h.same rfl rfl rfl rfl

theorem State.Keeps.miss (h : z.Keeps s) (r : LlcReq) (have_ : BitVec 16) :
    z.Keeps (s.miss r have_) := by
  grind [State.miss, State.keeps_mk, keepsParts_state, keepsParts_mwrite, State.Keeps.evictWay, State.Keeps.tickLlc,
    State.Keeps.placeLine, State.Keeps.perform, State.Keeps.missed, State.Keeps.waitFill]

theorem State.Keeps.atSlice (h : z.Keeps s) (r : LlcReq) :
    z.Keeps (s.atSlice r) := by
  grind [State.atSlice, State.Keeps.lineErrors, State.Keeps.meetTags, State.Keeps.applyReds, State.Keeps.perform, State.Keeps.hit,
    State.Keeps.miss]

theorem State.Keeps.llcServe (h : z.Keeps s) (r : LlcReq) :
    z.Keeps (s.llcServe r) := by
  grind [State.llcServe, State.keeps_mk, keepsParts_state, State.Keeps.meetDirs, State.Keeps.missed, State.Keeps.atSlice]

theorem State.Keeps.llcRequest (h : z.Keeps s) (r : LlcReq) :
    z.Keeps (s.llcRequest r) := by
  grind [State.llcRequest, State.keeps_mk, keepsParts_state, State.Keeps.llcServe]

theorem State.Keeps.firstDrams (h : z.Keeps s) (xs : List Nat) :
    z.Keeps (s.firstDrams xs) := by
  induction xs generalizing s with
  | nil => exact h
  | cons x xs ih => grind [State.firstDrams, State.Keeps.firstDram]

theorem State.Keeps.dramWrite (h : z.Keeps s) (a : Nat) (bs : List Byte) :
    z.Keeps (s.dramWrite a bs) := by
  grind [State.dramWrite, State.Keeps.flipWrite, State.Keeps.putBytes, State.Keeps.firstDrams]

theorem State.Keeps.resend (h : z.Keeps s) (rs : List LlcReq) :
    z.Keeps (s.resend rs) := by
  grind [State.resend, State.Keeps.foldl, State.Keeps.llcRequest]

/-- A read of a dead granule is counted before the fill's sectors are fetched (R231). -/
theorem State.Keeps.deadFill (h : z.Keeps s) (a : Nat) (op : LlcOp) :
    z.Keeps (match op with | .write _ => s | _ => if s.granAt a = .dead then s.deadRead a else s) := by
  split
  · exact h
  · exact (h.deadRead a).ite h

/-- The sectors a fill brings go to its line, or to a new one in the way kept for it. -/
theorem State.Keeps.fillLine (h : z.Keeps s) (l a : Nat) (good : BitVec 16) (flag : Bool) (line : Option Line) (way : Option Nat) :
    z.Keeps (match line, way with
      | some x, _ => s.setLine l { x with valid := x.valid ||| good, flag := flag }
      | none, some w => (s.allocate l w good flag).flipLine l a
      | none, none => s) := by
  split
  · exact h.setLine l _
  · exact (h.allocate l _ good flag).flipLine l a
  · exact h

theorem State.Keeps.fillReturn (h : z.Keeps s) (l : Nat) : z.Keeps (s.fillReturn l) := by
  unfold State.fillReturn
  split
  · exact h
  next f _ =>
    dsimp only
    refine (((?_ : z.Keeps _).llc _).resend _).splitAgain
    have hs := h.llc { s.llc with fills := dropFirst (fun x => decide (x.line = l)) s.llc.fills }
    refine State.Keeps.ite ?_ ?_
    · split
      · exact (hs.dramWrite _ _).llcOut _ _
      · exact hs
    · have hf := fun ws good flag line => ((hs.deadFill (1024 * l) f.req.op).fetchSectors l ws).fillLine l f.req.a good flag line f.way
      split
      · exact ((hf _ _ _ _).perform _).ite ((hf _ _ _ _).llcOut _ _)
      · exact ((hf _ _ _ _).perform _).ite (((hf _ _ _ _).dramWrite _ _).llcOut _ _)
      · exact ((hf _ _ _ _).perform _).ite ((hf _ _ _ _).llc _)

theorem State.Keeps.forwardApply (h : z.Keeps s) (l : Nat) :
    z.Keeps (s.forwardApply l) := by
  unfold State.forwardApply
  split <;> grind [State.forwardApply, State.keeps_mk, keepsParts_state, State.Keeps.countUe, State.Keeps.meetDram, State.Keeps.llcOut,
    State.Keeps.dramWrite]

theorem State.Keeps.forwardAck (h : z.Keeps s) (l : Nat) :
    z.Keeps (s.forwardAck l) := by
  grind [State.forwardAck, State.keeps_mk, keepsParts_state, State.Keeps.each, State.Keeps.resend, State.Keeps.forwardApply]

theorem State.Keeps.finishLine (h : z.Keeps s) (l : Nat) :
    z.Keeps (s.finishLine l) := by
  grind [State.finishLine, State.Keeps.each, State.Keeps.applyReds, State.Keeps.fillReturn, State.Keeps.forwardAck]

theorem State.Keeps.dropGran (h : z.Keeps s) (g : Nat) :
    z.Keeps (s.dropGran g) := by
  grind [State.dropGran, State.keeps_mk, keepsParts_state, State.Keeps.meetDirs, State.Keeps.ackWrites]

theorem State.Keeps.deadDrop (h : z.Keeps s) (g : Nat) :
    z.Keeps (s.deadDrop g) := by
  grind [State.deadDrop, State.keeps_mk, keepsParts_state, State.Keeps.each, State.Keeps.settleWrite, State.Keeps.countLlc,
    State.Keeps.finishLine, State.Keeps.dropGran]

theorem State.Keeps.deadAck (h : z.Keeps s) (g : Nat) :
    z.Keeps (s.deadAck g) := by
  grind [State.deadAck, State.keeps_mk, keepsParts_state, State.Keeps.emptyGran, State.Keeps.resend]

theorem State.Keeps.llcDo (h : z.Keeps s) (r : LlcReq) : (s.llcDo r).Keeps z := by
  unfold State.llcDo
  extract_lets l k s1 s2
  have h1 : z.Keeps s1 := (h.llc { s.llc with out := none }).llcRequest r
  have h2 : z.Keeps s2 := (h1.fillReturn l).ite h1
  split
  · exact h2
  · split
    · exact h2.settleWrite _
    · trivial

theorem State.Keeps.addSnoops (h : z.Keeps s) (sn : List (Nat × Bool)) :
    z.Keeps (s.addSnoops sn) := h.same rfl rfl rfl rfl

theorem State.Keeps.readAt (h : z.Keeps s) (who : Who) (cls : Fin 5) (a n : Nat) :
    (s.readAt who cls a n).Keeps z := by
  grind [State.readAt, Res.Keeps, State.Keeps.lockerRead, State.Keeps.tileRead, State.Keeps.openTile, State.Keeps.llcDo]

theorem State.Keeps.writeAt (h : z.Keeps s) (who : Who) (cls : Fin 5) (a : Nat) (bs : List Byte) :
    (s.writeAt who cls a bs).Keeps z := by
  grind [State.writeAt, Res.Keeps, State.Keeps.lockerWrite, State.Keeps.tileWrite, State.Keeps.openTile, State.Keeps.windowWrite,
    Res.Keeps.andThen, State.Keeps.llcDo]

theorem State.Keeps.stopCore (h : z.Keeps s) (c : Nat) (cause addr : Nat) :
    z.Keeps (s.stopCore c cause addr) := h.same rfl rfl rfl rfl

theorem State.Keeps.stopDown (h : z.Keeps s) (c pc : Nat) :
    z.Keeps (s.stopDown c pc) := h.same rfl rfl rfl rfl

theorem State.Keeps.flipL1 (h : z.Keeps s) (c kind l : Nat) :
    z.Keeps (s.flipL1 c kind l) := by
  grind [State.flipL1, State.keeps_mk, keepsParts_state, keepsParts_mwrite, State.Keeps.setCore, State.Keeps.flipFired]

theorem State.Keeps.l1Check (h : z.Keeps s) (c kind l : Nat) :
    z.Keeps (s.l1Check c kind l) := by
  grind [State.l1Check, State.keeps_mk, keepsParts_state, State.Keeps.setCore, State.Keeps.countCe]

theorem State.Keeps.l1Fetch (h : z.Keeps s) (c a n : Nat) :
    (s.l1Fetch c a n).Keeps z := by
  grind [State.l1Fetch, State.keeps_mk, keepsParts_state, keepsParts_mwrite, Res.Keeps, State.Keeps.setCore, Res.Keeps.andThen,
    State.Keeps.readAt, State.Keeps.flipL1]

theorem State.Keeps.l1Load (h : z.Keeps s) (c a n : Nat) :
    (s.l1Load c a n).Keeps z := by
  grind [State.l1Load, State.keeps_mk, keepsParts_state, Res.Keeps, State.Keeps.setCore, State.Keeps.l1Check, State.Keeps.l1Fetch]

theorem State.Keeps.l1Store (h : z.Keeps s) (c a : Nat) (bs : List Byte) :
    z.Keeps (s.l1Store c a bs) := by
  grind [State.l1Store, State.keeps_mk, keepsParts_state, keepsParts_mwrite, State.Keeps.setCore, State.Keeps.flipL1]

theorem State.Keeps.performStore (h : z.Keeps s) (c pc a : Nat) (bs : List Byte) :
    (s.performStore c pc a bs).Keeps z := by
  grind [State.performStore, Res.Keeps, State.Keeps.writeAt, State.Keeps.stopDown]

theorem State.Keeps.signalArrive (h : z.Keeps s) (c : Nat) (p : Post) : z.Keeps (s.signalArrive c p) := by
  unfold State.signalArrive
  split
  · exact h
  next t v =>
    dsimp only
    split
    · exact h
    · split
      next heq => exact (h.meet _).pair heq
      next heq => exact ((h.meet _).pair heq).lockerWrite _ _
  · split
    · exact h.rigCause _ _
    · exact h

theorem State.Keeps.performPost (h : z.Keeps s) (c : Nat) (p : Posted) :
    (s.performPost c p).Keeps z := by
  grind [State.performPost, Res.Keeps, State.Keeps.performStore, State.Keeps.signalArrive]

theorem State.Keeps.performPosts (h : z.Keeps s) (c : Nat) (xs : List Posted) :
    (s.performPosts c xs).Keeps z := by
  induction xs generalizing s with
  | nil => grind [State.performPosts, Res.Keeps, Res.Keeps.andThen, State.Keeps.performPost]
  | cons x xs ih => grind [State.performPosts, Res.Keeps, Res.Keeps.andThen, State.Keeps.performPost]

theorem State.Keeps.flush (h : z.Keeps s) (c : Nat) (f : Posted → Bool) :
    (s.flush c f).Keeps z := by
  grind [State.flush, State.keeps_mk, keepsParts_state, Res.Keeps, State.Keeps.setCore, Res.Keeps.andThen, State.Keeps.performPosts]

theorem State.Keeps.flushPlaced (h : z.Keeps s) (c : Nat) :
    (s.flushPlaced c).Keeps z := by
  grind [State.flushPlaced, Res.Keeps, State.Keeps.flush]

theorem State.Keeps.flushDest (h : z.Keeps s) (c d : Nat) :
    (s.flushDest c d).Keeps z := by
  grind [State.flushDest, Res.Keeps, State.Keeps.flush]

theorem State.Keeps.fetchLine (h : z.Keeps s) (c a : Nat) :
    (s.fetchLine c a).Keeps z := by
  grind [State.fetchLine, State.keeps_mk, keepsParts_state, Res.Keeps, State.Keeps.setCore, Res.Keeps.andThen, State.Keeps.readAt,
    State.Keeps.flipL1, State.Keeps.l1Check]

theorem State.Keeps.advance (h : z.Keeps s) (c : Nat) (long : Bool) :
    z.Keeps (s.advance c long) := h.same rfl rfl rfl rfl

theorem State.Keeps.jump (h : z.Keeps s) (c : Nat) (long : Bool) (target : BitVec 64) :
    z.Keeps (s.jump c long target) := h.same rfl rfl rfl rfl

theorem State.Keeps.stallFor (h : z.Keeps s) (c : Nat) (i : Instr) (req : Bool) :
    z.Keeps (s.stallFor c i req) := h.same rfl rfl rfl rfl

theorem State.Keeps.stallOn (h : z.Keeps s) (c : Nat) (i : Instr) :
    z.Keeps (s.stallOn c i) := h.same rfl rfl rfl rfl

theorem State.Keeps.stallWait (h : z.Keeps s) (c : Nat) (i : Instr) (sn : List (Nat × Bool)) :
    z.Keeps (s.stallWait c i sn) := h.same rfl rfl rfl rfl

theorem State.Keeps.afterFetch {r : Res (Option Nat)} {f : State → State} (h : z.Keeps s) (c : Nat) (i : Instr) (hr : r.Keeps z)
    (hf : ∀ u, z.Keeps u → z.Keeps (f u)) : z.Keeps (s.afterFetch c i r f) := by
  unfold State.afterFetch
  split
  · exact h.stallWait c i _
  · exact State.Keeps.stopCore hr c _ _
  · exact State.Keeps.stallOn hr c i
  · exact State.Keeps.stopCore hr c _ _
  · exact hf _ hr

/-- An instruction whose action keeps them keeps them when it issues. -/
theorem State.Keeps.issue {act : State → State × Bool} (h : z.Keeps s) (c : Nat) (i : Instr) (long bad : Bool) (g : BitVec 5)
    (ha : ∀ u, z.Keeps u → z.Keeps (act u).1) : z.Keeps (s.issue c i long bad g act) := by
  unfold State.issue
  dsimp only
  split
  · exact h
  · refine h.afterFetch c i (h.fetchLine c _) fun u hu => ?_
    split
    · exact hu.stopCore c _ _
    · split
      · exact hu.advance c _
      · refine hu.afterFetch c i ?_ fun v hv => ?_
        · split
          · exact hu.fetchLine c _
          · exact hu
        · split
          · exact ha v hv
          · exact (ha v hv).stallOn c i
end

end Sys2Proof.Machine
end

section
/-! PROOFS. What every command keeps (O59, O60): engines, host commands and the governor. -/

namespace Sys2Proof.Machine

-- One theorem at a time, as in the tests: the proofs together take too many threads.
set_option Elab.async false

section
variable {z s t : State}

theorem State.Keeps.redDo (h : z.Keeps s) (q : LlcReq) :
    (s.redDo q).Keeps z := by
  grind [State.redDo, State.keeps_mk, keepsParts_state, Res.Keeps, State.Keeps.each, State.Keeps.settleWrite, State.Keeps.reductionApply,
    State.Keeps.llcRequest, State.Keeps.fillReturn, State.Keeps.forwardApply, State.Keeps.forwardAck]

theorem State.Keeps.pushOp (h : z.Keeps s) (c : Nat) (o : Op) (ok : Bool) (upd : Core → Core) :
    z.Keeps (s.pushOp c o ok upd).1 := by
  grind [State.pushOp, State.Keeps.setCore, State.Keeps.stopCore, State.Keeps.advance]

theorem State.Keeps.issueE (h : z.Keeps s) (c : CoreId) (i : Instr) (e : Eng) (f : FmtE) (bad : Bool) (ok : Core → Bool) (upd : Core →
    Core) :
    z.Keeps (s.issueE c i e f bad ok upd) := by
  grind [State.issueE, State.Keeps.issue, State.Keeps.pushOp]

theorem State.Keeps.issueV (h : z.Keeps s) (c : CoreId) (i : Instr) (e : Eng) (f : FmtV) (bad : Bool) (ok : Core → Bool) :
    z.Keeps (s.issueV c i e f bad ok) := by
  grind [State.issueV, State.Keeps.issue, State.Keeps.pushOp]

theorem State.Keeps.readPieces (h : z.Keeps s) (c : Nat) (cls : Fin 5) (a n : Nat) :
    (s.readPieces c cls a n).Keeps z := by
  grind [State.readPieces, Res.Keeps, Res.Keeps.andThen, State.Keeps.resList, State.Keeps.readAt]

theorem State.Keeps.writePieces (h : z.Keeps s) (c : Nat) (cls : Fin 5) (a : Nat) (bs : List Byte) :
    (s.writePieces c cls a bs).Keeps z := by
  grind [State.writePieces, Res.Keeps, State.Keeps.setCore, Res.Keeps.andThen, State.Keeps.resList, State.Keeps.writeAt]

theorem State.Keeps.spend (h : z.Keeps s) {c : Nat} (he : s.spend c = some t) : z.Keeps t := by
  unfold State.spend at he
  split at he
  · cases he; exact h
  · cases he
  · cases he; exact h.setCore c _

theorem State.Keeps.spending {α : Type} {f : State → Res α} (h : z.Keeps s) (c : Nat) (hf : ∀ u, z.Keeps u → (f u).Keeps z) :
    (s.spending c f).Keeps z := by
  unfold State.spending
  split
  · exact h
  next he => exact hf _ (h.spend he)

theorem State.Keeps.readElem (h : z.Keeps s) (c : Nat) (d : Side) (cls : Fin 5) (cause : Nat) (e : Elem) :
    (s.readElem c d cls cause e).Keeps z := by
  grind [State.readElem, Res.Keeps, Res.Keeps.andThen, State.Keeps.readPieces, State.Keeps.spending]

theorem State.Keeps.writeElem (h : z.Keeps s) (c : Nat) (d : Side) (cls : Fin 5) (e : Elem) (v : Nat) :
    (s.writeElem c d cls e v).Keeps z := by
  grind [State.writeElem, Res.Keeps, State.Keeps.writePieces, State.Keeps.spending]

theorem State.Keeps.copyEach (h : z.Keeps s) (c : Nat) (ds dd : Side) (cause : Nat) (xs : List (Elem × Elem)) :
    (s.copyEach c ds dd cause xs).Keeps z := by
  induction xs generalizing s with
  | nil => grind [State.copyEach, Res.Keeps, Res.Keeps.andThen, State.Keeps.readElem, State.Keeps.writeElem]
  | cons x xs ih => grind [State.copyEach, Res.Keeps, Res.Keeps.andThen, State.Keeps.readElem, State.Keeps.writeElem]

theorem State.Keeps.readElems (h : z.Keeps s) (c : Nat) (d : Side) (cause : Nat) (es : List Elem) :
    (s.readElems c d cause es).Keeps z := by
  grind [State.readElems, Res.Keeps, State.Keeps.resList, State.Keeps.readElem]

theorem State.Keeps.readTo (h : z.Keeps s) (c : Nat) (d : Side) (cause : Nat) (es : List Elem) : (s.readTo c d cause es).Keeps z := by
  induction es generalizing s with
  | nil => exact h
  | cons e es ih =>
    have he := h.readElem c d 0 cause e
    unfold State.readTo
    split
    next heq => exact (ih (he.ok_eq heq)).andThen fun u x hu => hu
    next heq => exact he.fault_eq heq
    · trivial

theorem State.Keeps.readRun (h : z.Keeps s) (c : Nat) (cls : Fin 5) (es : List Elem) :
    (s.readRun c cls es).Keeps z := by
  grind [State.readRun, Res.Keeps, Res.Keeps.andThen, State.Keeps.readPieces]

theorem State.Keeps.writeRun (h : z.Keeps s) (c : Nat) (cls : Fin 5) (es : List (Elem × Nat)) :
    (s.writeRun c cls es).Keeps z := by
  grind [State.writeRun, Res.Keeps, State.Keeps.foldl, State.Keeps.writePieces]

theorem State.Keeps.readRuns (h : z.Keeps s) (c : Nat) (d : Side) (cause : Nat) (gs : List (List Elem)) :
    (s.readRuns c d cause gs).Keeps z := by
  induction gs generalizing s with
  | nil => exact h
  | cons g gs ih =>
    unfold State.readRuns
    extract_lets each r
    have he : each.Keeps z := h.readTo c d cause g
    have hr : r.Keeps z := by
      refine Res.Keeps.ite ?_ he
      split
      next heq => exact (h.readRun c 0 g).ok_eq heq
      · exact he
      · exact he
      · trivial
    refine hr.andThen fun u x hu => Res.Keeps.ite hu ((ih hu).andThen fun v y hv => hv)

theorem State.Keeps.readFrom (h : z.Keeps s) (c : Nat) (d : Side) (cause : Nat) (es : List Elem) :
    (s.readFrom c d cause es).Keeps z := by
  grind [State.readFrom, Res.Keeps, State.Keeps.readRuns]

theorem State.Keeps.copyRuns (h : z.Keeps s) (c : Nat) (ds dd : Side) (cause : Nat) (gs : List (List (Elem × Elem))) :
    (s.copyRuns c ds dd cause gs).Keeps z := by
  induction gs generalizing s with
  | nil => exact h
  | cons g gs ih =>
    unfold State.copyRuns
    extract_lets xs ys each r
    have he : each.Keeps z := h.copyEach c ds dd cause g
    have hr : r.Keeps z := by
      refine Res.Keeps.ite ?_ he
      split
      next heq => exact ((h.readRun c 0 xs).ok_eq heq).writeRun c 0 _
      · exact he
      · exact he
      · trivial
    exact hr.andThen fun u x hu => ih hu

theorem State.Keeps.copyElems (h : z.Keeps s) (c : Nat) (ds dd : Side) (cause : Nat) (ps : List (Elem × Elem)) :
    (s.copyElems c ds dd cause ps).Keeps z := by
  grind [State.copyElems, Res.Keeps, State.Keeps.copyRuns]

theorem State.Keeps.orFault (h : z.Keeps s) (e : Option Nat) :
    (s.orFault e).Keeps z := by
  unfold State.orFault
  split <;> grind [State.orFault, Res.Keeps]

theorem State.Keeps.writeElems (h : z.Keeps s) (c : Nat) (d : Side) (xs : List (Elem × Nat)) :
    (s.writeElems c d xs).Keeps z := by
  induction xs generalizing s with
  | nil => grind [State.writeElems, Res.Keeps, Res.Keeps.andThen, State.Keeps.writeElem]
  | cons x xs ih => grind [State.writeElems, Res.Keeps, Res.Keeps.andThen, State.Keeps.writeElem]

theorem State.Keeps.setStrm (h : z.Keeps s) (n : Nat) (k : Strm) :
    z.Keeps (s.setStrm n k) := h.same rfl rfl rfl rfl

theorem State.Keeps.setPort (h : z.Keeps s) (p : Nat) (k : Port) :
    z.Keeps (s.setPort p k) := h.same rfl rfl rfl rfl

theorem State.Keeps.setLoop (h : z.Keeps s) (i : Nat) (k : Loop) :
    z.Keeps (s.setLoop i k) := h.same rfl rfl rfl rfl

theorem State.Keeps.setPath (h : z.Keeps s) (i : Nat) (k : Path) :
    z.Keeps (s.setPath i k) := h.same rfl rfl rfl rfl

theorem State.Keeps.setAdm (h : z.Keeps s) (a : Adm) :
    z.Keeps (s.setAdm a) := h.same rfl rfl rfl rfl

theorem State.Keeps.yardEvent (h : z.Keeps s) (y k : Nat) :
    z.Keeps (s.yardEvent y k) := by
  grind [State.yardEvent, State.Keeps.raiseSrc]

theorem State.Keeps.bumpGen (h : z.Keeps s) : z.Keeps s.bumpGen := ⟨h.pending, h.mem, h.boot⟩

theorem State.Keeps.faultBegin (h : z.Keeps s) (f : HwFault) :
    z.Keeps (s.faultBegin f) := by
  grind [State.faultBegin, State.keeps_mk, keepsParts_state, State.Keeps.each, State.Keeps.setRig, State.Keeps.rigCause]

theorem State.Keeps.faultEnd (h : z.Keeps s) (f : HwFault) :
    z.Keeps (s.faultEnd f) := by
  grind [State.faultEnd, State.keeps_mk, keepsParts_state, State.Keeps.each, State.Keeps.setRig]

theorem State.Keeps.faultTick (h : z.Keeps s) (f : HwFault) :
    z.Keeps (s.faultTick f) := by
  grind [State.faultTick, State.Keeps.faultBegin, State.Keeps.faultEnd]

theorem State.Keeps.settle (h : z.Keeps s) (r : Nat) :
    z.Keeps (s.settle r) := by
  grind [State.settle, State.keeps_mk, keepsParts_state, State.Keeps.setAdm]

theorem State.Keeps.modCmd (h : z.Keeps s) (r : Nat) (f : Cmd → Cmd) :
    z.Keeps (s.modCmd r f) := h.same rfl rfl rfl rfl

theorem State.Keeps.stopCores (h : z.Keeps s) (r : Nat) (except : Option Nat) (cause : Nat) :
    z.Keeps (s.stopCores r except cause) := by
  unfold State.stopCores
  split <;> grind [State.stopCores, State.keeps_mk, keepsParts_state, State.Keeps.each, State.Keeps.setCore, State.Keeps.stopCore,
    State.Keeps.settle, State.Keeps.modCmd]

theorem State.Keeps.report (h : z.Keeps s) (r c : Nat) (st : Stop) :
    z.Keeps (s.report r c st) := by
  grind [State.report, State.keeps_mk, keepsParts_state, State.Keeps.modCmd, State.Keeps.stopCores]

theorem State.Keeps.stopTile (h : z.Keeps s) (c : Nat) : z.Keeps (s.stopTile c) := by
  unfold State.stopTile
  exact (h.each (fun u b hu => hu.ite (hu.setBank c b _)) _).setTile c _

theorem State.Keeps.markDown (h : z.Keeps s) (record : Bool) (c : Nat) : z.Keeps (s.markDown record c) := by
  unfold State.markDown
  extract_lets k y yd s1 busy s2 s3
  have h1 : z.Keeps s1 := by
    unfold s1
    split
    · exact ((h.setYard y _).recordFail 0 _).ite (h.setYard y _)
    · exact h
  have h3 : z.Keeps s3 := ((h1.setCore c _).stopTile c).yardEvent y 0
  refine State.Keeps.ite h ?_
  split
  · exact h3
  next r _ =>
    extract_lets s4
    have h4 : z.Keeps s4 := h3.rigCause r causeDown
    split
    · exact (h4.report r c _).ite h4
    · exact h4

theorem State.Keeps.markYard (h : z.Keeps s) (record : Bool) (y : Nat) :
    z.Keeps (s.markYard record y) := by
  grind [State.markYard, State.Keeps.each, State.Keeps.markDown]

theorem State.Keeps.markMast (h : z.Keeps s) (m : Nat) :
    z.Keeps (s.markMast m) := by
  grind [State.markMast, State.Keeps.each, State.Keeps.markDown]

theorem State.Keeps.park (h : z.Keeps s) (y : Nat) :
    z.Keeps (s.park y) := by
  grind [State.park, State.keeps_mk, keepsParts_state, State.Keeps.each, State.Keeps.setCore, State.Keeps.setTile]

theorem State.Keeps.unpark (h : z.Keeps s) (c : Nat) (pos : Option Nat) :
    z.Keeps (s.unpark c pos) := by
  unfold State.unpark
  split <;> grind [State.unpark, State.keeps_mk, keepsParts_state, State.Keeps.setCore, State.Keeps.setTile]

theorem State.Keeps.mapYard (h : z.Keeps s) (y : Nat) :
    z.Keeps (s.mapYard y) := by
  grind [State.mapYard, State.keeps_mk, keepsParts_state, State.Keeps.each, State.Keeps.setYard, State.Keeps.bumpGen, State.Keeps.park,
    State.Keeps.unpark]

theorem State.Keeps.putFloors (h : z.Keeps s) (r : Nat) :
    z.Keeps (s.putFloors r) := by
  grind [State.putFloors, State.keeps_mk, keepsParts_state, State.Keeps.setRig]

theorem State.Keeps.putAllFloors (h : z.Keeps s) :
    z.Keeps (s.putAllFloors) := by
  grind [State.putAllFloors, State.Keeps.each, State.Keeps.putFloors]

theorem State.Keeps.settleFloors (h : z.Keeps s) :
    z.Keeps (s.settleFloors) := by
  grind [State.settleFloors, State.keeps_mk, keepsParts_state, State.Keeps.each, State.Keeps.setRig, State.Keeps.putAllFloors]

theorem State.Keeps.writeFloor (h : z.Keeps s) (f : Nat) :
    z.Keeps (s.writeFloor f) := by
  grind [State.writeFloor, State.keeps_mk, keepsParts_state, State.Keeps.each, State.Keeps.setRig, State.Keeps.putAllFloors,
    State.Keeps.settleFloors]

theorem State.Keeps.writeShare (h : z.Keeps s) (r p : Nat) :
    z.Keeps (s.writeShare r p) := by
  grind [State.writeShare, State.keeps_mk, keepsParts_state, State.Keeps.foldl, State.Keeps.setRig, State.Keeps.putFloors,
    State.Keeps.settleFloors]

theorem State.Keeps.mergeHost (h : z.Keeps s) (a : Nat) (bs : List Byte) : z.Keeps (s.mergeHost a bs) := by
  unfold State.mergeHost
  dsimp only
  split
  · have hl := fun v m p x => (((h.sectorMarks v a m p).mwrite a bs).setLine (a / 1024) x)
    exact State.Keeps.splitPair (State.Keeps.ite (hl _ _ _ _) ((hl _ _ _ _).needSetWritten _)) _
  · exact h.dramWrite a bs

theorem State.Keeps.evictLines (h : z.Keeps s) (p : Nat → Bool) :
    z.Keeps (s.evictLines p) := by
  grind [State.evictLines, State.Keeps.each, State.Keeps.evict]

theorem State.Keeps.setMode (h : z.Keeps s) (g : Nat) (m : BitVec 2) :
    z.Keeps (s.setMode g m) := by
  grind [State.setMode, State.keeps_mk, keepsParts_state, State.Keeps.evictLines]

theorem State.Keeps.llcModeWrite (h : z.Keeps s) (w : BitVec 64) :
    z.Keeps (s.llcModeWrite w) := by
  grind [State.llcModeWrite, State.keeps_mk, keepsParts_state, State.Keeps.setReg, State.Keeps.setMode]

theorem State.Keeps.hashKeyWrite (h : z.Keeps s) (k : BitVec 64) :
    z.Keeps (s.hashKeyWrite k) := h.same rfl rfl rfl rfl

theorem State.Keeps.haltStrm (h : z.Keeps s) (n : Nat) (err : BitVec 4) :
    z.Keeps (s.haltStrm n err) := by
  grind [State.haltStrm, State.keeps_mk, keepsParts_state, State.Keeps.raiseSrc, State.Keeps.setStrm]

theorem State.Keeps.takeTail (h : z.Keeps s) (n : Nat) (r : HostRead) :
    z.Keeps (s.takeTail n r) := by
  unfold State.takeTail
  split <;> grind [State.takeTail, State.keeps_mk, keepsParts_state, State.Keeps.setStrm, State.Keeps.haltStrm]

theorem State.Keeps.strmEn (h : z.Keeps s) (n : Nat) (en : Bool) :
    z.Keeps (s.strmEn n en) := by
  grind [State.strmEn, State.keeps_mk, keepsParts_state, State.Keeps.setStrm]

theorem State.Keeps.strmResume (h : z.Keeps s) (n : Nat) :
    z.Keeps (s.strmResume n) := h.same rfl rfl rfl rfl

theorem State.Keeps.setHdm (h : z.Keeps s) (i : Nat) (h : Hdm) :
    z.Keeps (s.setHdm i h) := by
  grind [State.setHdm, State.keeps_mk, keepsParts_state]

theorem State.Keeps.configured (h : z.Keeps s) (q : ConfigReq) :
    z.Keeps (s.configured q).1 := by
  unfold State.configured
  split <;> grind [State.configured, State.keeps_mk, keepsParts_state, State.Keeps.setHdm]

theorem State.Keeps.hostOut (h : z.Keeps s) (bs : List Byte) (poison : Bool) :
    z.Keeps (s.hostOut bs poison) := h.same rfl rfl rfl rfl

theorem State.Keeps.trackHost (h : z.Keeps s) (a : Nat) :
    z.Keeps (s.trackHost a) := by
  grind [State.trackHost, State.keeps_mk, keepsParts_state, State.Keeps.foldl, State.Keeps.meetDirs, State.Keeps.addSnoops]

theorem State.Keeps.hideUpd (h : z.Keeps s) (write : Bool) (a : Nat) (bs : List Byte) :
    z.Keeps (s.hideUpd write a bs).1 := by
  grind [State.hideUpd, State.keeps_mk, keepsParts_state]

theorem State.Keeps.poisonWords (h : z.Keeps s) (a n : Nat) :
    z.Keeps (s.poisonWords a n) := by
  grind [State.poisonWords, State.Keeps.each, State.Keeps.setMark]

/-- Bytes written to host memory keep them. -/
theorem State.Keeps.toHost (h : z.Keeps s) (a : Nat) (bs : List Byte) : z.Keeps (s.toHost a bs) :=
  h.ofMem (s.toHost_memWf a bs) rfl rfl

theorem State.Keeps.putSum (h : z.Keeps s) (sum : List (BitVec 64)) (host : Nat) : z.Keeps (s.putSum sum host) := by
  have hs : z.Keeps { s with scrub := { s.scrub with sum := sum } } := h.same rfl rfl rfl rfl
  exact hs.ite (hs.toHost host _)

theorem State.Keeps.regScrubEnd (h : z.Keeps s) (status : BitVec 8) :
    z.Keeps (s.regScrubEnd status) := by
  grind [State.regScrubEnd, State.keeps_mk, keepsParts_state, State.Keeps.raiseSrc]

theorem State.Keeps.conclude (h : z.Keeps s) (r : CRec) (f : Fin') :
    z.Keeps (s.conclude r f) := by
  grind [State.conclude, State.keeps_mk, keepsParts_state, State.Keeps.setAdm, State.Keeps.putSum, State.Keeps.regScrubEnd]

theorem State.Keeps.endRunning (h : z.Keeps s) (r : Nat) (f : Fin') :
    z.Keeps (s.endRunning r f) := by
  grind [State.endRunning, State.keeps_mk, keepsParts_state, State.Keeps.setRig, State.Keeps.setAdm, State.Keeps.modCmd,
    State.Keeps.putSum, State.Keeps.regScrubEnd]

theorem State.Keeps.stopRunning (h : z.Keeps s) (r cause : Nat) :
    z.Keeps (s.stopRunning r cause) := by
  grind [State.stopRunning, State.keeps_mk, keepsParts_state, State.Keeps.modCmd, State.Keeps.stopCores, State.Keeps.endRunning]

theorem State.Keeps.feRead (h : z.Keeps s) (a n : Nat) :
    (s.feRead a n).Keeps z := by
  grind [State.feRead, Res.Keeps, Res.Keeps.andThen, State.Keeps.resList, State.Keeps.readAt]

theorem State.Keeps.feWrite (h : z.Keeps s) (a : Nat) (bs : List Byte) :
    (s.feWrite a bs).Keeps z := by
  grind [State.feWrite, Res.Keeps, Res.Keeps.andThen, State.Keeps.resList, State.Keeps.writeAt]

theorem State.Keeps.orWait {α : Type} {r : Res α} {f : State → α → State} (h : z.Keeps s) (hr : r.Keeps z)
    (hf : ∀ u x, z.Keeps u → z.Keeps (f u x)) : z.Keeps (orWait s r f) := by
  cases r with
  | ok u x => exact hf u x hr
  | fault u e => exact hr
  | wait sn => exact h.addSnoops sn

theorem State.Keeps.noteBelow (h : z.Keeps s) (y : YardId) (was : Bool) :
    z.Keeps (s.noteBelow y was) := by
  grind [State.noteBelow, State.keeps_mk, keepsParts_state, State.Keeps.faultBegin, State.Keeps.faultEnd]

theorem State.Keeps.setLevel (h : z.Keeps s) (y : YardId) (lvl : Nat) (held : Bool) (cause : Nat) :
    z.Keeps (s.setLevel y lvl held cause) := by
  grind [State.setLevel, State.keeps_mk, keepsParts_state, State.Keeps.setYard, State.Keeps.noteBelow]

theorem State.Keeps.furlOff (h : z.Keeps s) (y : Nat) (cause : Nat) :
    z.Keeps (s.furlOff y cause) := by
  grind [State.furlOff, State.Keeps.setLevel]

theorem State.Keeps.wake (h : z.Keeps s) (y : Nat) :
    z.Keeps (s.wake y) := by
  grind [State.wake, State.Keeps.setLevel]

theorem State.Keeps.keepTop (h : z.Keeps s) (y : Nat) (cause : Nat) :
    z.Keeps (s.keepTop y cause) := by
  grind [State.keepTop, State.Keeps.setLevel]

theorem State.Keeps.seeTick (h : z.Keeps s) (now : Nat) :
    z.Keeps (s.seeTick now) := by
  grind [State.seeTick, State.keeps_mk, keepsParts_state, State.Keeps.each, State.Keeps.setRig, State.Keeps.setAdm]

theorem State.Keeps.settleWaits (h : z.Keeps s) :
    z.Keeps (s.settleWaits) := by
  grind [State.settleWaits, State.keeps_mk, keepsParts_state, State.Keeps.each, State.Keeps.setYard]

theorem State.Keeps.runCset (h : z.Keeps s) (r : CRec) :
    (s.runCset r).Keeps z := by
  grind [State.runCset, Res.Keeps, Res.Keeps.andThen, State.Keeps.feRead]

theorem State.Keeps.runDecl (h : z.Keeps s) (r : CRec) (p : RunPlan) :
    (s.runDecl r p).Keeps z := by
  grind [State.runDecl, State.keeps_mk, keepsParts_state, Res.Keeps, Res.Keeps.andThen, State.Keeps.feRead]

theorem State.Keeps.runCheck (h : z.Keeps s) (r : CRec) :
    (s.runCheck r).Keeps z := by
  grind [State.runCheck, State.keeps_mk, keepsParts_state, Res.Keeps, Res.Keeps.andThen, State.Keeps.runCset, State.Keeps.runDecl]

theorem State.Keeps.enqueue (h : z.Keeps s) (r : CRec) (m : Cmd) :
    z.Keeps (s.enqueue r m) := by
  grind [State.enqueue, State.keeps_mk, keepsParts_state, State.Keeps.setRig, State.Keeps.setAdm, State.Keeps.stopRunning]

theorem State.Keeps.admitTo (h : z.Keeps s) (r : CRec) (m : Cmd) (w : Option Rat) :
    z.Keeps (s.admitTo r m w) := by
  grind [State.admitTo, State.keeps_mk, keepsParts_state, State.Keeps.conclude, State.Keeps.enqueue]

theorem State.Keeps.popLine (h : z.Keeps s) :
    z.Keeps (s.popLine) := h.same rfl rfl rfl rfl

theorem State.Keeps.ageBit (h : z.Keeps s) (i : Nat) :
    z.Keeps (s.ageBit i) := h.same rfl rfl rfl rfl

theorem State.Keeps.retireYard (h : z.Keeps s) (y : Nat) :
    z.Keeps (s.retireYard y) := by
  grind [State.retireYard, State.keeps_mk, keepsParts_state, State.Keeps.setYard, State.Keeps.setLevel]

theorem State.Keeps.planYard (h : z.Keeps s) (included : Bool) (y : Nat) :
    z.Keeps (s.planYard included y) := by
  grind [State.planYard, State.Keeps.setYard, State.Keeps.keepTop, State.Keeps.ageBit, State.Keeps.retireYard]

theorem State.Keeps.marginPlan (h : z.Keeps s) (included : Bool) (ys : List Nat) :
    z.Keeps (s.marginPlan included ys) := by
  grind [State.marginPlan, State.Keeps.each, State.Keeps.setReg, State.Keeps.planYard]

theorem State.Keeps.atSafePoint (h : z.Keeps s) (c b : Nat) :
    z.Keeps (s.atSafePoint c b) := by
  grind [State.atSafePoint, State.keeps_mk, keepsParts_state, State.Keeps.setBank, State.Keeps.serveTileQueues, State.Keeps.serveHeld,
    State.Keeps.releaseBank, State.Keeps.startRefresh, State.Keeps.stopRun]

theorem State.Keeps.linkHalf (h : z.Keeps s) (l : Link) :
    z.Keeps (s.linkHalf l) := by
  grind [State.linkHalf, State.keeps_mk, keepsParts_state, State.Keeps.faultTick]
end

end Sys2Proof.Machine
end

section
/-! PROOFS. What every command keeps (O59, O60): the scalar and control instructions. -/

namespace Sys2Proof.Machine

-- One theorem at a time, as in the tests: the proofs together take too many threads.
set_option Elab.async false

section
variable {z s t : State}

theorem State.Keeps.runDmaCp (h : z.Keeps s) (c : Nat) (o : Op) :
    (s.runDmaCp c o).Keeps z := by
  grind [State.runDmaCp, Res.Keeps, State.Keeps.copyElems]

theorem State.Keeps.runDmaSkew (h : z.Keeps s) (c : Nat) (o : Op) :
    (s.runDmaSkew c o).Keeps z := by
  unfold State.runDmaSkew
  split <;> grind [State.runDmaSkew, Res.Keeps, Res.Keeps.andThen, State.Keeps.writePieces, State.Keeps.readFrom, State.Keeps.copyElems,
    State.Keeps.writeElems]

theorem State.Keeps.reduceAt (h : z.Keeps s) (c a : Nat) (r : Red) :
    (s.reduceAt c a r).Keeps z := by
  grind [State.reduceAt, Res.Keeps, State.Keeps.setCore, Res.Keeps.andThen, State.Keeps.redDo]

theorem State.Keeps.redValues (h : z.Keeps s) (c : Nat) (op : Fin 4) (int : Bool) (xs : List (Elem × Nat)) :
    (s.redValues c op int xs).Keeps z := by
  induction xs generalizing s c op int with
  | nil => grind [State.redValues, Res.Keeps, Res.Keeps.andThen, State.Keeps.reduceAt]
  | cons x xs ih => grind [State.redValues, Res.Keeps, Res.Keeps.andThen, State.Keeps.reduceAt]

theorem State.Keeps.redElems (h : z.Keeps s) (c : Nat) (op : Fin 4) (int : Bool) (xs : List (List (Elem × Elem))) :
    (s.redElems c op int xs).Keeps z := by
  induction xs generalizing s c op int with
  | nil => grind [State.redElems, Res.Keeps, Res.Keeps.andThen, State.Keeps.resList, State.Keeps.readElem, State.Keeps.readFrom,
    State.Keeps.orFault, State.Keeps.redValues]
  | cons x xs ih => grind [State.redElems, Res.Keeps, Res.Keeps.andThen, State.Keeps.resList, State.Keeps.readElem, State.Keeps.readFrom,
    State.Keeps.orFault, State.Keeps.redValues]

theorem State.Keeps.redGather (h : z.Keeps s) (c : Nat) (r : Red) (ys : List Elem) :
    (s.redGather c r ys).Keeps z := by
  grind [State.redGather, Res.Keeps, Res.Keeps.andThen, State.Keeps.resList, State.Keeps.readElem, State.Keeps.writeElems]

theorem State.Keeps.redRows (h : z.Keeps s) (c : Nat) (o : Op) (row n : Nat) : (s.redRows c o row n).Keeps z := by
  induction n generalizing s row with
  | zero => exact h
  | succ n ih => grind [State.redRows, Res.Keeps, Res.Keeps.andThen, State.Keeps.readElems, State.Keeps.reduceAt, State.Keeps.redGather]

theorem State.Keeps.runRed (h : z.Keeps s) (c : Nat) (o : Op) (op : Fin 4) :
    (s.runRed c o op).Keeps z := by
  grind [State.runRed, Res.Keeps, State.Keeps.redElems, State.Keeps.redRows]

theorem State.Keeps.deadGrans (h : z.Keeps s) (c g n : Nat) : (s.deadGrans c g n).Keeps z := by
  induction n generalizing s g with
  | zero => exact h
  | succ n ih =>
    unfold State.deadGrans
    refine h.spending c fun u hu => ?_
    extract_lets a v sn w
    refine Res.Keeps.ite hu ?_
    split
    · have hw : z.Keeps w := ((hu.meetDirs a 4096).deadDrop g).deadAck g
      exact Res.Keeps.ite trivial (ih (hw.setCore c _) _)
    · exact Res.Keeps.ite hu (Res.Keeps.ite trivial (ih ((hu.emptyGran a _).setCore c _) _))
    · exact hu

theorem State.Keeps.runDead (h : z.Keeps s) (c : Nat) (o : Op) :
    (s.runDead c o).Keeps z := by
  grind [State.runDead, Res.Keeps, State.Keeps.deadGrans]

theorem State.Keeps.runHalRd (h : z.Keeps s) (c : Nat) (o : Op) :
    (s.runHalRd c o).Keeps z := by
  grind [State.runHalRd, Res.Keeps, State.Keeps.copyElems]

theorem State.Keeps.runHalWr (h : z.Keeps s) (c : Nat) (o : Op) :
    (s.runHalWr c o).Keeps z := by
  grind [State.runHalWr, Res.Keeps, State.Keeps.copyElems]

theorem State.Keeps.readBank (h : z.Keeps s) (c n : Nat) :
    z.Keeps (s.readBank c n) := by
  grind [State.readBank, State.Keeps.setCore, State.Keeps.rigCause]

theorem State.Keeps.openBank (h : z.Keeps s) (c n : Nat) (clr : Bool) :
    z.Keeps (s.openBank c n clr) := by
  grind [State.openBank, State.Keeps.setCore, State.Keeps.readBank]

theorem State.Keeps.loadStore (h : z.Keeps s) (c : Nat) (d : Desc) (xs : List Nat) :
    (s.loadStore c d xs).Keeps z := by
  induction xs generalizing s c d with
  | nil => grind [State.loadStore, State.keeps_mk, keepsParts_state, Res.Keeps, State.Keeps.setCore, Res.Keeps.andThen,
    State.Keeps.readElem]
  | cons x xs ih => grind [State.loadStore, State.keeps_mk, keepsParts_state, Res.Keeps, State.Keeps.setCore, Res.Keeps.andThen,
    State.Keeps.readElem]

theorem State.Keeps.loadScales (h : z.Keeps s) (c per : Nat) (xs : List (Nat × Elem)) :
    (s.loadScales c per xs).Keeps z := by
  induction xs generalizing s per with
  | nil => grind [State.loadScales, State.keeps_mk, keepsParts_state, Res.Keeps, State.Keeps.setCore, Res.Keeps.andThen,
    State.Keeps.readElem]
  | cons x xs ih => grind [State.loadScales, State.keeps_mk, keepsParts_state, Res.Keeps, State.Keeps.setCore, Res.Keeps.andThen,
    State.Keeps.readElem]

theorem State.Keeps.runMxload (h : z.Keeps s) (c : Nat) (o : Op) :
    (s.runMxload c o).Keeps z := by
  grind [State.runMxload, State.keeps_mk, keepsParts_state, Res.Keeps, State.Keeps.setCore, Res.Keeps.andThen, State.Keeps.loadStore,
    State.Keeps.loadScales]

theorem State.Keeps.mmaRows (h : z.Keeps s) (c : Nat) (o : Op) (f : FmtE) (sh : Shape) (xs : List Nat) :
    (s.mmaRows c o f sh xs).Keeps z := by
  induction xs generalizing s c o f sh with
  | nil => grind [State.mmaRows, Res.Keeps, State.Keeps.setCore, Res.Keeps.andThen, State.Keeps.readTo]
  | cons x xs ih => grind [State.mmaRows, Res.Keeps, State.Keeps.setCore, Res.Keeps.andThen, State.Keeps.readTo]

theorem State.Keeps.runMma (h : z.Keeps s) (c : Nat) (o : Op) (f : FmtE) :
    (s.runMma c o f).Keeps z := by
  grind [State.runMma, State.keeps_mk, keepsParts_state, Res.Keeps, State.Keeps.setCore, State.Keeps.openBank, State.Keeps.mmaRows]

theorem State.Keeps.mmaTRows (h : z.Keeps s) (c : Nat) (o : Op) (f : FmtE) (sh : Shape) (xs : List Nat) :
    (s.mmaTRows c o f sh xs).Keeps z := by
  induction xs generalizing s c o f sh with
  | nil => grind [State.mmaTRows, Res.Keeps, State.Keeps.setCore, Res.Keeps.andThen, State.Keeps.readTo]
  | cons x xs ih => grind [State.mmaTRows, Res.Keeps, State.Keeps.setCore, Res.Keeps.andThen, State.Keeps.readTo]

theorem State.Keeps.runMmaT (h : z.Keeps s) (c : Nat) (o : Op) (f : FmtE) :
    (s.runMmaT c o f).Keeps z := by
  grind [State.runMmaT, State.keeps_mk, keepsParts_state, Res.Keeps, State.Keeps.each, State.Keeps.setCore, State.Keeps.openBank,
    State.Keeps.mmaTRows]

theorem State.Keeps.runAccClr (h : z.Keeps s) (c : Nat) (f : FmtE) :
    (s.runAccClr c f).Keeps z := h.same rfl rfl rfl rfl

theorem State.Keeps.runAccRd (h : z.Keeps s) (c : Nat) (o : Op) (f : FmtE) :
    (s.runAccRd c o f).Keeps z := by
  grind [State.runAccRd, Res.Keeps, State.Keeps.foldl, State.Keeps.setCore, State.Keeps.writeElems, State.Keeps.readBank]

theorem State.Keeps.scalarRead (h : z.Keeps s) (c a n : Nat) :
    (s.scalarRead c a n).Keeps z := by
  grind [State.scalarRead, Res.Keeps, Res.Keeps.andThen, State.Keeps.readAt, State.Keeps.l1Load, State.Keeps.flushDest]

theorem State.Keeps.doLoad (h : z.Keeps s) (c : Nat) (f : FmtM) : z.Keeps (s.doLoad c f).1 := by
  unfold State.doLoad
  extract_lets k a n
  have hr := h.scalarRead c a n
  split
  · exact h.stopCore c _ _
  · split
    · exact h.stopCore c _ _
    · split
      · exact h
      · split
        · exact h.stallWait c _ _
        next heq => exact (hr.fault_eq heq).stopCore c _ _
        next heq =>
          have hu := hr.ok_eq heq
          split
          · exact hu.stopCore c _ _
          · exact (hu.setCore c _).advance c _

theorem State.Keeps.postStore (h : z.Keeps s) (c a : Nat) (bs : List Byte) :
    z.Keeps (s.postStore c a bs) := by
  grind [State.postStore, State.keeps_mk, keepsParts_state, State.Keeps.setCore, State.Keeps.lockerWrite, State.Keeps.l1Store]

theorem State.Keeps.doStore (h : z.Keeps s) (c : Nat) (f : FmtM) :
    z.Keeps (s.doStore c f).1 := by
  grind [State.doStore, State.Keeps.stopCore, State.Keeps.advance, State.Keeps.postStore]

theorem State.Keeps.aluWrite (h : z.Keeps s) (c : Nat) (f : Alu) (op : Nat → BitVec 64 → BitVec 64 → BitVec 64) :
    z.Keeps (s.aluWrite c f op) := h.same rfl rfl rfl rfl

theorem State.Keeps.alu (h : z.Keeps s) (c : CoreId) (i : Instr) (f : Alu) (listed : Nat → Bool) (op : Nat → BitVec 64 → BitVec 64 →
    BitVec 64) :
    z.Keeps (s.alu c i f listed op) := by
  grind [State.alu, State.Keeps.issue, State.Keeps.aluWrite]

theorem State.Keeps.doCmp (h : z.Keeps s) (c : Nat) (f : Alu) :
    z.Keeps (s.doCmp c f) := by
  grind [State.doCmp, State.Keeps.setCore, State.Keeps.advance]

theorem State.Keeps.doMov (h : z.Keeps s) (c : Nat) (f : FmtI) :
    z.Keeps (s.doMov c f).1 := by
  grind [State.doMov, State.keeps_mk, keepsParts_state, State.Keeps.setCore, State.Keeps.advance]

theorem State.Keeps.doDset (h : z.Keeps s) (c : Nat) (f : FmtI) :
    z.Keeps (s.doDset c f) := h.same rfl rfl rfl rfl

theorem State.Keeps.doCall (h : z.Keeps s) (c : Nat) (f : FmtB) :
    z.Keeps (s.doCall c f) := by
  grind [State.doCall, State.keeps_mk, keepsParts_state, State.Keeps.setCore, State.Keeps.stopCore, State.Keeps.jump]

theorem State.Keeps.doRet (h : z.Keeps s) (c : Nat) :
    z.Keeps (s.doRet c) := by
  grind [State.doRet, State.keeps_mk, keepsParts_state, State.Keeps.setCore, State.Keeps.jump]

theorem State.Keeps.runTopk (h : z.Keeps s) (c : Nat) (o : Op) (f : FmtE) :
    (s.runTopk c o f).Keeps z := by
  grind [State.runTopk, Res.Keeps, Res.Keeps.andThen, State.Keeps.readElems, State.Keeps.writeElems]

theorem State.Keeps.runMerge (h : z.Keeps s) (c : Nat) (o : Op) (f : FmtE) :
    (s.runMerge c o f).Keeps z := by
  grind [State.runMerge, State.keeps_mk, keepsParts_state, Res.Keeps, Res.Keeps.andThen, State.Keeps.readElems, State.Keeps.writeElems]

theorem State.Keeps.undefEntries (h : z.Keeps s) (c copy slot : Nat) (ns : List Nat) :
    z.Keeps (s.undefEntries c copy slot ns) := by
  grind [State.undefEntries, State.keeps_mk, keepsParts_state, State.Keeps.foldl, State.Keeps.setCore]

theorem State.Keeps.loadEntries (h : z.Keeps s) (c copy slot : Nat) (es : List Elem) :
    (s.loadEntries c copy slot es).Keeps z := by
  grind [State.loadEntries, Res.Keeps, State.Keeps.foldl, State.Keeps.setCore, Res.Keeps.andThen, State.Keeps.readFrom,
    State.Keeps.undefEntries]

theorem State.Keeps.runLkuLoad (h : z.Keeps s) (c : Nat) (o : Op) (f : FmtE) :
    (s.runLkuLoad c o f).Keeps z := by
  grind [State.runLkuLoad, Res.Keeps, Res.Keeps.andThen, State.Keeps.orFault, State.Keeps.loadEntries]

theorem State.Keeps.pqFrom (h : z.Keeps s) (c : Nat) (o : Op) (slot j n : Nat) : (s.pqFrom c o slot j n).Keeps z := by
  induction n generalizing s j with
  | zero => exact h
  | succ n ih => exact (h.readElems c _ _ _).andThen fun u x hu => (hu.writeElem c _ _ _ _).andThen fun v y hv => ih hv _

theorem State.Keeps.runLkuPq (h : z.Keeps s) (c : Nat) (o : Op) (f : FmtE) :
    (s.runLkuPq c o f).Keeps z := by
  grind [State.runLkuPq, Res.Keeps, State.Keeps.pqFrom]

theorem State.Keeps.doBar (h : z.Keeps s) (c : Nat) (g : Fin 16) :
    z.Keeps (s.doBar c g).1 := by
  grind [State.doBar, State.keeps_mk, keepsParts_state, State.Keeps.setCore, State.Keeps.stopCore]

theorem State.Keeps.waitSignalAt (h : z.Keeps s) (c : Nat) (f : FmtC) (a : Nat) : z.Keeps (s.waitSignalAt c f a).1 := by
  have ht := h.lockerRead a 8
  unfold State.waitSignalAt
  dsimp only
  split
  · exact ht.stopCore c _ _
  · split
    · exact ht
    · exact ((ht.lockerWrite _ _).setCore c _).advance c _

theorem State.Keeps.doWaitSignal (h : z.Keeps s) (c : Nat) (f : FmtC) : z.Keeps (s.doWaitSignal c f).1 := by
  rw [State.doWaitSignal_eq]
  exact h.waitSignalAt c f _

theorem State.Keeps.postSignal (h : z.Keeps s) (c : Nat) (p : Post) :
    z.Keeps (s.postSignal c p).1 := by
  grind [State.postSignal, State.keeps_mk, keepsParts_state, State.Keeps.setCore, State.Keeps.advance]

theorem State.Keeps.doSignal (h : z.Keeps s) (c : Nat) (f : FmtC) :
    z.Keeps (s.doSignal c f).1 := by
  grind [State.doSignal, State.Keeps.stopCore, State.Keeps.advance, State.Keeps.postSignal]

theorem State.Keeps.vloadElems (h : z.Keeps s) (c : Nat) (d : Desc) (t : VT) (vd : Nat) (xs : List Nat) :
    (s.vloadElems c d t vd xs).Keeps z := by
  induction xs generalizing s c d t vd with
  | nil => grind [State.vloadElems, Res.Keeps, State.Keeps.setCore, Res.Keeps.andThen, State.Keeps.readElem]
  | cons x xs ih => grind [State.vloadElems, Res.Keeps, State.Keeps.setCore, Res.Keeps.andThen, State.Keeps.readElem]

theorem State.Keeps.runVopLd (h : z.Keeps s) (c : Nat) (o : Op) (f : FmtV) :
    (s.runVopLd c o f).Keeps z := by
  grind [State.runVopLd, Res.Keeps, State.Keeps.vloadElems]

theorem State.Keeps.runVopSt (h : z.Keeps s) (c : Nat) (o : Op) (f : FmtV) :
    (s.runVopSt c o f).Keeps z := by
  grind [State.runVopSt, Res.Keeps, State.Keeps.writeElems]

theorem State.Keeps.rmsValues (h : z.Keeps s) (o : Op) (n : Nat) (vs : List Nat) :
    z.Keeps (s.rmsValues o n vs).1 := by
  grind [State.rmsValues, State.keeps_mk, keepsParts_state]

theorem State.Keeps.rmsAgain (h : z.Keeps s) (c : Nat) (o : Op) (r : BitVec 32) (n : Nat) (xs : List Nat) :
    (s.rmsAgain c o r n xs).Keeps z := by
  induction xs generalizing s c o r n with
  | nil => grind [State.rmsAgain, Res.Keeps, Res.Keeps.andThen, State.Keeps.readTo]
  | cons x xs ih => grind [State.rmsAgain, Res.Keeps, Res.Keeps.andThen, State.Keeps.readTo]

theorem State.Keeps.rmsRead (h : z.Keeps s) (c : Nat) (o : Op) (gain : List Nat) (n : Nat) :
    (s.rmsRead c o gain n).Keeps z := by
  grind [State.rmsRead, Res.Keeps, Res.Keeps.andThen, State.Keeps.readTo, State.Keeps.rmsAgain]

theorem State.Keeps.rmsWrite (h : z.Keeps s) (c : Nat) (o : Op) (n : Nat) (vs : List Nat) :
    (s.rmsWrite c o n vs).Keeps z := by
  grind [State.rmsWrite, Res.Keeps, State.Keeps.writeElems, State.Keeps.rmsValues]

theorem State.Keeps.rmsRows (h : z.Keeps s) (c : Nat) (o : Op) (gain : List Nat) (xs : List Nat) :
    (s.rmsRows c o gain xs).Keeps z := by
  induction xs generalizing s c o gain with
  | nil => grind [State.rmsRows, Res.Keeps, Res.Keeps.andThen, State.Keeps.orFault, State.Keeps.rmsRead, State.Keeps.rmsWrite]
  | cons x xs ih => grind [State.rmsRows, Res.Keeps, Res.Keeps.andThen, State.Keeps.orFault, State.Keeps.rmsRead, State.Keeps.rmsWrite]

theorem State.Keeps.rmsReadAll (h : z.Keeps s) (c : Nat) (o : Op) (gain : List Nat) (xs : List Nat) :
    (s.rmsReadAll c o gain xs).Keeps z := by
  induction xs generalizing s c o gain with
  | nil => grind [State.rmsReadAll, Res.Keeps, Res.Keeps.andThen, State.Keeps.rmsRead]
  | cons x xs ih => grind [State.rmsReadAll, Res.Keeps, Res.Keeps.andThen, State.Keeps.rmsRead]

theorem State.Keeps.rmsWriteAll (h : z.Keeps s) (c : Nat) (o : Op) (xs : List (Nat × List Nat)) :
    (s.rmsWriteAll c o xs).Keeps z := by
  induction xs generalizing s c o with
  | nil => grind [State.rmsWriteAll, Res.Keeps, Res.Keeps.andThen, State.Keeps.rmsWrite]
  | cons x xs ih => grind [State.rmsWriteAll, Res.Keeps, Res.Keeps.andThen, State.Keeps.rmsWrite]

theorem State.Keeps.runVnorm (h : z.Keeps s) (c : Nat) (o : Op) :
    (s.runVnorm c o).Keeps z := by
  grind [State.runVnorm, Res.Keeps, Res.Keeps.andThen, State.Keeps.readTo, State.Keeps.orFault, State.Keeps.rmsRows,
    State.Keeps.rmsReadAll, State.Keeps.rmsWriteAll]

theorem State.Keeps.endOp (h : z.Keeps s) (c : Nat) (o : Op) :
    z.Keeps (s.endOp c o) := by
  grind [State.endOp, State.Keeps.setCore, State.Keeps.undefEntries]

theorem State.Keeps.runOp (h : z.Keeps s) (c : Nat) (o : Op) :
    (s.runOp c o).Keeps z := by
  grind [State.runOp, Res.Keeps, State.Keeps.setCore, State.Keeps.spending, State.Keeps.runDmaCp, State.Keeps.runDmaSkew,
    State.Keeps.runRed, State.Keeps.runDead, State.Keeps.runHalRd, State.Keeps.runHalWr, State.Keeps.runMxload, State.Keeps.runMma,
    State.Keeps.runMmaT, State.Keeps.runAccClr, State.Keeps.runAccRd, State.Keeps.runTopk, State.Keeps.runMerge, State.Keeps.runLkuLoad,
    State.Keeps.runLkuPq, State.Keeps.runVopLd, State.Keeps.runVopSt, State.Keeps.runVnorm]

theorem State.Keeps.faultOp (h : z.Keeps s) (c j : Nat) (o : Op) (cause : Nat) :
    z.Keeps (s.faultOp c j o cause) := h.same rfl rfl rfl rfl

theorem State.Keeps.finishOp (h : z.Keeps s) (c j : Nat) (o : Op) : z.Keeps (s.finishOp c j o) := by
  have hr := (h.flushPlaced c).andThen fun u _ hu => hu.runOp c o
  unfold State.finishOp
  split
  next heq => exact (hr.ok_eq heq).setCore c _
  next heq => exact (hr.fault_eq heq).faultOp c j o _
  · exact (h.addSnoops _).setCore c _

theorem State.Keeps.cutOp (h : z.Keeps s) (c j : Nat) (o : Op) : z.Keeps (s.cutOp c j o) :=
  (((h.free _).setCore c _).finishOp c j o).setCore c _
end

end Sys2Proof.Machine
end

section
/-! PROOFS. What every command keeps (O59, O60): commands of the admission unit. -/

namespace Sys2Proof.Machine

-- One theorem at a time, as in the tests: the proofs together take too many threads.
set_option Elab.async false

section
variable {z s t : State}

theorem State.Keeps.wordsRead (h : z.Keeps s) (a : Nat) (n : Nat) :
    (s.wordsRead a n).Keeps z := by
  induction n generalizing s a with
  | zero => grind [State.wordsRead, Res.Keeps, Res.Keeps.andThen, State.Keeps.readAt]
  | succ n ih => grind [State.wordsRead, Res.Keeps, Res.Keeps.andThen, State.Keeps.readAt]

theorem State.Keeps.wordsWrite (h : z.Keeps s) (a : Nat) (xs : List (List Byte)) :
    (s.wordsWrite a xs).Keeps z := by
  induction xs generalizing s a with
  | nil => grind [State.wordsWrite, Res.Keeps, Res.Keeps.andThen, State.Keeps.writeAt]
  | cons x xs ih => grind [State.wordsWrite, Res.Keeps, Res.Keeps.andThen, State.Keeps.writeAt]

theorem State.Keeps.doCopy (h : z.Keeps s) (r : CRec) :
    (s.doCopy r).Keeps z := by
  grind [State.doCopy, State.keeps_mk, keepsParts_state, Res.Keeps, Res.Keeps.andThen, State.Keeps.wordsRead, State.Keeps.wordsWrite]

theorem State.Keeps.doFill (h : z.Keeps s) (r : CRec) :
    (s.doFill r).Keeps z := by
  grind [State.doFill, Res.Keeps, Res.Keeps.andThen, State.Keeps.wordsWrite]

theorem State.Keeps.scrubWord {x : State × Nat × Nat × Option Nat} (h : z.Keeps x.1) (nofix : Bool) (w : Nat) :
    z.Keeps (scrubWord nofix x w).1 := by
  unfold Machine.scrubWord
  dsimp only
  split
  · exact h.countUe _ _
  · split
    · exact h
    · exact (h.meet w).ite ((h.meet w).setMark w _)
    · exact h.meet w

theorem State.Keeps.scrubGran {x : State × Nat × Nat × Option Nat} (h : z.Keeps x.1) (nofix : Bool) (g : Nat) :
    z.Keeps (scrubGran nofix x g).1 := by
  unfold Machine.scrubGran
  split
  · exact List.foldlRecOn (motive := fun (x : State × Nat × Nat × Option Nat) => z.Keeps x.1) _ _ h fun y hy w _ => hy.scrubWord nofix w
  · exact h

theorem State.Keeps.scrubRange (h : z.Keeps s) (a n : Nat) (nofix : Bool) : z.Keeps (s.scrubRange a n nofix).1 :=
  List.foldlRecOn (motive := fun (x : State × Nat × Nat × Option Nat) => z.Keeps x.1) _ (Machine.scrubGran nofix) (b := (s, 0, 0, none)) h
    fun _ hy g _ => hy.scrubGran nofix g

theorem State.Keeps.doScrub (h : z.Keeps s) (r : CRec) :
    z.Keeps (s.doScrub r).1 := by
  grind [State.doScrub, State.Keeps.putSum, State.Keeps.scrubRange]

theorem State.Keeps.doPerf (h : z.Keeps s) (r : CRec) :
    z.Keeps (s.doPerf r) := by
  grind [State.doPerf, State.Keeps.toHost]

theorem State.Keeps.loadTable (h : z.Keeps s) (c slot a m : Nat) :
    (s.loadTable c slot a m).Keeps z := by
  grind [State.loadTable, State.keeps_mk, keepsParts_state, Res.Keeps, State.Keeps.setCore, Res.Keeps.andThen, State.Keeps.loadEntries]

theorem State.Keeps.untilStop (h : z.Keeps s) {f : State → Nat → Res (Option Stopped)} (hf : ∀ u y, z.Keeps u → (f u y).Keeps z) (xs :
    List Nat) :
    (untilStop f s xs).Keeps z := by
  induction xs generalizing s with
  | nil => grind [untilStop, Res.Keeps, Res.Keeps.andThen]
  | cons x xs ih => grind [untilStop, Res.Keeps, Res.Keeps.andThen]

theorem State.Keeps.swapTables (h : z.Keeps s) (c : Nat) :
    z.Keeps (s.swapTables c) := h.same rfl rfl rfl rfl

theorem State.Keeps.doTable (h : z.Keeps s) (r : CRec) (cores : List Nat) :
    (s.doTable r cores).Keeps z := by
  grind [State.doTable, Res.Keeps, Res.Keeps.andThen, State.Keeps.loadTable, State.Keeps.untilStop, State.Keeps.swapTables]

theorem State.Keeps.raiseCorpus (h : z.Keeps s) (r p m : Nat) :
    z.Keeps (s.raiseCorpus r p m) := h.same rfl rfl rfl rfl

theorem State.Keeps.readCorpus (h : z.Keeps s) (r : CRec) :
    (s.readCorpus r).Keeps z := by
  grind [State.readCorpus, Res.Keeps, Res.Keeps.andThen, State.Keeps.feRead, State.Keeps.raiseCorpus]

theorem State.Keeps.readCounts (h : z.Keeps s) (x : Corpus) (c : Nat) :
    (s.readCounts x c).Keeps z := by
  grind [State.readCounts, Res.Keeps, Res.Keeps.andThen, State.Keeps.feRead]

theorem State.Keeps.sketchWords (h : z.Keeps s) (c b : Nat) (r : BankRun) (o n : Nat) : z.Keeps (s.sketchWords c b r o n).1 := by
  induction n using Nat.strong_induction_on generalizing s r o with
  | _ n ih =>
    unfold State.sketchWords
    split
    · exact h
    next n =>
      split
      next heq => exact (h.unitRead c b r o _).pair heq
      next heq => exact ih (n + 1 - 8) (by omega) ((h.unitRead c b r o _).pair heq) _ _

theorem State.Keeps.survivors (h : z.Keeps s) (x : Corpus) (c dmax : Nat) (ps : List Nat) :
    z.Keeps (s.survivors x c dmax ps).1 := by
  unfold State.survivors
  refine List.foldlRecOn (motive := fun (y : State × Option (List (List Nat))) => z.Keeps y.1) _ _ h fun y hy e _ => ?_
  split
  · exact hy
  next t ls =>
    dsimp only
    split
    next heq => exact (State.Keeps.sketchWords hy c _ _ _ _).pair heq
    next heq => exact (State.Keeps.sketchWords hy c _ _ _ _).pair heq

theorem State.Keeps.scorePasses (h : z.Keeps s) (x : Corpus) (c slot : Nat) (xs : List Pass) :
    z.Keeps (s.scorePasses x c slot xs).1 := by
  induction xs generalizing s x slot with
  | nil => exact h
  | cons x xs ih => grind [State.scorePasses, State.Keeps.tileRead]

/-- The kernel must not compute with the address of an ID, nor with the place of a passage: the induction is about variable ones. -/
theorem State.Keeps.putIds (h : z.Keeps s) (x : Corpus) (c : Nat) (ps rs : List Nat) : z.Keeps (s.putIds x c ps rs).1 := by
  delta State.putIds State.putIds._f
  generalize bankAddr = addr
  generalize locate = loc
  revert addr loc
  refine id fun addr loc => ?_
  induction rs generalizing s with
  | nil => exact h
  | cons r rs ih =>
    change z.Keeps (Prod.fst (if recIndex r = 2 ^ 64 - 1 then _ else _))
    split
    · exact ih h
    · dsimp only
      split
      next heq => exact (h.tileRead _ _).pair heq
      next heq => exact ih ((h.tileRead _ _).pair heq)

theorem State.Keeps.oneQuery (h : z.Keeps s) (x : Corpus) (r : CRec) (c : Nat) (ps : List Nat) (cand : List Pass) (q : Nat) :
    z.Keeps (s.oneQuery x r c ps cand q).1 := by
  grind [State.oneQuery, State.Keeps.scorePasses, State.Keeps.putIds]

theorem State.Keeps.queries (h : z.Keeps s) (x : Corpus) (r : CRec) (c : Nat) (ps : List Nat) (q : Nat) (cs : List (List Pass)) :
    z.Keeps (s.queries x r c ps q cs).1 := by
  induction cs generalizing s q with
  | nil => exact h
  | cons cand t ih =>
    unfold State.queries
    split
    next heq => exact (h.oneQuery x r c ps cand q).pair heq
    next heq => exact ih ((h.oneQuery x r c ps cand q).pair heq) _

theorem State.Keeps.searchCore (h : z.Keeps s) (x : Corpus) (r : CRec) (c : Nat) (ps : List Nat) :
    z.Keeps (s.searchCore x r c ps).1 := by
  grind [State.searchCore, State.Keeps.survivors, State.Keeps.queries]

theorem State.Keeps.writeRecs (h : z.Keeps s) (a : Nat) (xs : List Nat) :
    (s.writeRecs a xs).Keeps z := by
  induction xs generalizing s a with
  | nil => grind [State.writeRecs, Res.Keeps, Res.Keeps.andThen, State.Keeps.feWrite]
  | cons x xs ih => grind [State.writeRecs, Res.Keeps, Res.Keeps.andThen, State.Keeps.feWrite]

theorem State.Keeps.writeResults (h : z.Keeps s) (r : CRec) (dir : Nat) (parts : List Part) (n : Nat) (m : Nat) :
    (s.writeResults r dir parts n m).Keeps z := by
  induction m generalizing s r dir parts n with
  | zero => grind [State.writeResults, State.keeps_mk, keepsParts_state, Res.Keeps, Res.Keeps.andThen, State.Keeps.writeRecs]
  | succ m ih => grind [State.writeResults, State.keeps_mk, keepsParts_state, Res.Keeps, Res.Keeps.andThen, State.Keeps.writeRecs]

theorem State.Keeps.undefBank (h : z.Keeps s) (c b : Nat) :
    z.Keeps (s.undefBank c b) := h.same rfl rfl rfl rfl

theorem State.Keeps.undefLocker (h : z.Keeps s) (c : Nat) : z.Keeps (s.undefLocker c) := h.ofMem (s.undefLocker_memWf c) rfl rfl

theorem State.Keeps.undefSearch (h : z.Keeps s) (c : Nat) :
    z.Keeps (s.undefSearch c) := by
  grind [State.undefSearch, State.Keeps.each, State.Keeps.undefBank, State.Keeps.undefLocker]

theorem State.Keeps.searchTables (h : z.Keeps s) (r : CRec) (x : Corpus) (c : Nat) :
    (s.searchTables r x c).Keeps z := by
  grind [State.searchTables, Res.Keeps, Res.Keeps.andThen, State.Keeps.loadTable, State.Keeps.untilStop, State.Keeps.swapTables]

theorem State.Keeps.searchParts (h : z.Keeps s) (r : CRec) (x : Corpus) (cs : List Nat) : (s.searchParts r x cs).Keeps z := by
  induction cs generalizing s with
  | nil => exact h
  | cons c cs ih =>
    refine (h.searchTables r x c).andThen fun u y hu => ?_
    split
    · exact hu
    · refine (hu.readCounts x c).andThen fun v ps hv => ?_
      split
      · exact hv
      next ps =>
        have hc := (hv.raiseCorpus r.rig (ps.foldl max 0) x.m).searchCore x r c ps
        exact Res.Keeps.ite hc ((ih hc).andThen fun w l hw => hw)

theorem State.Keeps.doSearch (h : z.Keeps s) (r : CRec) (cores : List Nat) :
    (s.doSearch r cores).Keeps z := by
  grind [State.doSearch, Res.Keeps, State.Keeps.each, State.Keeps.foldl, Res.Keeps.andThen, State.Keeps.readCorpus,
    State.Keeps.writeResults, State.Keeps.undefSearch, State.Keeps.searchParts]

theorem State.Keeps.authMac (h : z.Keeps s) (r : CRec) :
    z.Keeps (s.authMac r).1 := by
  grind [State.authMac, State.keeps_mk, keepsParts_state]

theorem State.Keeps.rejAuth (h : z.Keeps s) (r : CRec) (reason : Nat) :
    z.Keeps (s.rejAuth r reason) := by
  grind [State.rejAuth, State.keeps_mk, keepsParts_state, State.Keeps.conclude]

theorem State.Keeps.critical (h : z.Keeps s) (r : CRec) (more : State → Option Nat) {f : State → State} (hf : ∀ u, z.Keeps u → z.Keeps
    (f u)) :
    z.Keeps (s.critical r more f) := by
  grind [State.critical, State.Keeps.conclude, State.Keeps.authMac, State.Keeps.rejAuth]

theorem State.Keeps.setcap (h : z.Keeps s) (r : CRec) :
    z.Keeps (s.setcap r) := by
  grind [State.setcap, State.keeps_mk, keepsParts_state, State.Keeps.writeFloor, State.Keeps.conclude]

theorem State.Keeps.activate (h : z.Keeps s) (b commit : Bool) :
    z.Keeps (s.activate b commit) := h.same rfl rfl rfl rfl

theorem State.Keeps.sendData (h : z.Keeps s) (p r : Nat) (bs : List Byte) :
    z.Keeps (s.sendData p r bs) := by
  grind [State.sendData, State.keeps_mk, keepsParts_state]

theorem State.Keeps.sendMsg (h : z.Keeps s) (p : Nat) (m : Msg) :
    z.Keeps (s.sendMsg p m) := h.same rfl rfl rfl rfl

theorem State.Keeps.flood (h : z.Keeps s) (m : Msg) :
    z.Keeps (s.flood m) := by
  grind [State.flood, State.Keeps.each, State.Keeps.sendMsg]

theorem State.Keeps.floodConfig (h : z.Keeps s) :
    z.Keeps (s.floodConfig) := by
  grind [State.floodConfig, State.Keeps.flood]

theorem State.Keeps.checked (h : z.Keeps s) (r : CRec) {f : State → State} (hf : ∀ u, z.Keeps u → z.Keeps (f u)) :
    z.Keeps (s.checked r f) := by
  grind [State.checked, State.Keeps.conclude]

theorem State.Keeps.runLine (h : z.Keeps s) {s0 : State} (h0 : z.Keeps s0) (r : CRec) :
    z.Keeps (State.runLine s0 s r) := by
  grind [State.runLine, Res.Keeps, State.Keeps.conclude, State.Keeps.orWait, State.Keeps.runCheck, State.Keeps.admitTo]

theorem State.Keeps.placeScrub (h : z.Keeps s) (r : CRec) :
    z.Keeps (s.placeScrub r) := by
  grind [State.placeScrub, State.Keeps.conclude, State.Keeps.admitTo, State.Keeps.doScrub]

theorem State.Keeps.startCores (h : z.Keeps s) (cores : List Nat) (entry opnd : Nat) :
    z.Keeps (s.startCores cores entry opnd) := by
  grind [State.startCores, State.keeps_mk, keepsParts_state, State.Keeps.each, State.Keeps.setCore]

theorem State.Keeps.launchSearch (h : z.Keeps s) {s0 : State} (h0 : z.Keeps s0) (r : Nat) (m : Cmd) :
    z.Keeps (State.launchSearch s0 s r m) := by
  grind [State.launchSearch, State.keeps_mk, keepsParts_state, Res.Keeps, State.Keeps.modCmd, State.Keeps.endRunning, State.Keeps.orWait,
    State.Keeps.doSearch]

theorem State.Keeps.launch (h : z.Keeps s) {upd : State → State → Nat → Cmd → State} (hupd : ∀ u v a b, z.Keeps u → z.Keeps v → z.Keeps
    (upd u v a b)) {s0 : State} (h0 : z.Keeps s0) (r : Nat) (m : Cmd) :
    z.Keeps (State.launch upd s0 s r m) := by
  grind [State.launch, Res.Keeps, State.Keeps.endRunning, State.Keeps.orWait, State.Keeps.doCopy, State.Keeps.doFill, State.Keeps.doPerf,
    State.Keeps.doTable, State.Keeps.startCores, State.Keeps.launchSearch]

theorem State.Keeps.dispatchNext (h : z.Keeps s) {upd : State → State → Nat → Cmd → State} (hupd : ∀ u v a b, z.Keeps u → z.Keeps v →
    z.Keeps (upd u v a b)) (r now : Nat) :
    z.Keeps (State.dispatchNext upd s r now) := by
  grind [State.dispatchNext, State.keeps_mk, keepsParts_state, State.Keeps.setRig, State.Keeps.endRunning, State.Keeps.seeTick,
    State.Keeps.launch]

theorem State.Keeps.dropWaiting (h : z.Keeps s) (r : Nat) (cause : Nat) (p : Cmd → Bool) :
    z.Keeps (s.dropWaiting r cause p) := by
  grind [State.dropWaiting, State.keeps_mk, keepsParts_state, State.Keeps.foldl, State.Keeps.setRig, State.Keeps.conclude]

theorem State.Keeps.holdHalyard (h : z.Keeps s) (f : HwFault) (on : Bool) :
    z.Keeps (s.holdHalyard f on) := by
  unfold State.holdHalyard
  split <;> grind [State.holdHalyard, State.keeps_mk, keepsParts_state, State.Keeps.setTile, State.Keeps.serveTileQueues]

theorem State.Keeps.dropRerig (h : z.Keeps s) (n : Nat) :
    z.Keeps (s.dropRerig n) := by
  grind [State.dropRerig, State.keeps_mk, keepsParts_state, State.Keeps.each, State.Keeps.setRig, State.Keeps.setAdm]

theorem State.Keeps.strmAbort (h : z.Keeps s) (n : Nat) :
    z.Keeps (s.strmAbort n) := by
  grind [State.strmAbort, State.keeps_mk, keepsParts_state, State.Keeps.each, State.Keeps.foldl, State.Keeps.setAdm, State.Keeps.modCmd,
    State.Keeps.conclude, State.Keeps.stopRunning, State.Keeps.dropWaiting, State.Keeps.dropRerig]

theorem State.Keeps.updLine (h : z.Keeps s) (r : CRec) :
    z.Keeps (s.updLine r) := by
  grind [State.updLine, State.Keeps.admitTo, State.Keeps.checked]

theorem State.Keeps.readBlock (h : z.Keeps s) (base b : Nat) :
    (s.readBlock base b).Keeps z := by
  grind [State.readBlock, Res.Keeps, Res.Keeps.andThen, State.Keeps.feRead]

theorem State.Keeps.writeWeights (h : z.Keeps s) (r : CRec) (b : Nat) (ws : List (BitVec 32)) :
    (s.writeWeights r b ws).Keeps z := by
  grind [State.writeWeights, Res.Keeps, Res.Keeps.andThen, State.Keeps.feWrite]

theorem State.Keeps.writeMoments (h : z.Keeps s) (r : CRec) (b : Nat) (ms : List (BitVec 32)) :
    (s.writeMoments r b ms).Keeps z := by
  grind [State.writeMoments, Res.Keeps, State.Keeps.feWrite]

theorem State.Keeps.applyBlock (h : z.Keeps s) (r : CRec) (prog : List (BitVec 64)) (b : Nat) (g : List (BitVec 32)) :
    (s.applyBlock r prog b g).Keeps z := by
  refine (h.readBlock _ b).andThen fun u w hu => ?_
  split
  · exact hu
  · refine Res.Keeps.andThen (Res.Keeps.ite hu (hu.readBlock _ b)) fun v m hv => ?_
    split
    · exact hv
    · exact (hv.writeWeights r b _).andThen fun x _ hx => (hx.writeMoments r b _).andThen fun y _ hy => hy

theorem State.Keeps.applyAll (h : z.Keeps s) (r : CRec) (prog : List (BitVec 64)) (xs : List Nat) :
    (s.applyAll r prog xs).Keeps z := by
  induction xs generalizing s r prog with
  | nil => grind [State.applyAll, Res.Keeps, Res.Keeps.andThen, State.Keeps.readBlock, State.Keeps.applyBlock]
  | cons x xs ih => grind [State.applyAll, Res.Keeps, Res.Keeps.andThen, State.Keeps.readBlock, State.Keeps.applyBlock]

theorem State.Keeps.emit (h : z.Keeps s) (r : Nat) (bs : List Byte) :
    z.Keeps (s.emit r bs) := by
  grind [State.emit, State.keeps_mk, keepsParts_state, State.Keeps.modCmd, State.Keeps.sendData]

theorem State.Keeps.ringDone (h : z.Keeps s) (r : Nat) :
    z.Keeps (s.ringDone r) := by
  grind [State.ringDone, State.Keeps.endRunning]

theorem State.Keeps.sendOwn (h : z.Keeps s) (r : Nat) (l : CRec) (xs : List Nat) :
    (s.sendOwn r l xs).Keeps z := by
  induction xs generalizing s r l with
  | nil => grind [State.sendOwn, Res.Keeps, Res.Keeps.andThen, State.Keeps.sendData, State.Keeps.readBlock]
  | cons x xs ih => grind [State.sendOwn, Res.Keeps, Res.Keeps.andThen, State.Keeps.sendData, State.Keeps.readBlock]

theorem State.Keeps.sendWords (h : z.Keeps s) (r : Nat) (l : CRec) (xs : List Nat) :
    (s.sendWords r l xs).Keeps z := by
  induction xs generalizing s r l with
  | nil => grind [State.sendWords, Res.Keeps, Res.Keeps.andThen, State.Keeps.readAt, State.Keeps.sendData]
  | cons x xs ih => grind [State.sendWords, Res.Keeps, Res.Keeps.andThen, State.Keeps.readAt, State.Keeps.sendData]

theorem State.Keeps.startSend (h : z.Keeps s) {s0 : State} (h0 : z.Keeps s0) (r : Nat) (l : CRec) :
    z.Keeps (State.startSend s0 s r l) := by
  unfold State.startSend
  split <;> grind [State.startSend, State.keeps_mk, keepsParts_state, Res.Keeps, State.Keeps.foldl, State.Keeps.modCmd,
    State.Keeps.endRunning, State.Keeps.orWait, State.Keeps.sendData, State.Keeps.ringDone, State.Keeps.sendOwn, State.Keeps.sendWords]

theorem State.Keeps.nextPlace (h : z.Keeps s) (r n : Nat) :
    z.Keeps (s.nextPlace r n) := h.same rfl rfl rfl rfl

theorem State.Keeps.reduceBlock (h : z.Keeps s) (r : Nat) (m : Cmd) (step b : Nat) (data : List Byte) :
    (s.reduceBlock r m step b data).Keeps z := by
  refine (h.readBlock _ b).andThen fun u own hu => ?_
  split
  · exact hu
  · refine Res.Keeps.ite (hu.emit r _) ((hu.applyBlock _ _ b _).andThen fun v x hv => ?_)
    split
    · exact hv
    · exact hv.emit r _

theorem State.Keeps.gatherBlock (h : z.Keeps s) (r : Nat) (m : Cmd) (step b : Nat) (data : List Byte) :
    (s.gatherBlock r m step b data).Keeps z := by
  grind [State.gatherBlock, Res.Keeps, Res.Keeps.andThen, State.Keeps.writeWeights, State.Keeps.emit]

theorem State.Keeps.recvWords (h : z.Keeps s) {s0 : State} (h0 : z.Keeps s0) (r : Nat) (m : Cmd) (data : List Byte) :
    z.Keeps (State.recvWords s0 s r m data) := by
  grind [State.recvWords, Res.Keeps, State.Keeps.endRunning, State.Keeps.feWrite, State.Keeps.orWait, State.Keeps.nextPlace]

theorem State.Keeps.recvBlock (h : z.Keeps s) (r : Nat) (m : Cmd) (data : List Byte) :
    z.Keeps (s.recvBlock r m data) := by
  grind [State.recvBlock, Res.Keeps, State.Keeps.endRunning, State.Keeps.orWait, State.Keeps.ringDone, State.Keeps.nextPlace,
    State.Keeps.reduceBlock, State.Keeps.gatherBlock]

theorem State.Keeps.endUpdates (h : z.Keeps s) (p : Nat) :
    z.Keeps (s.endUpdates p) := by
  grind [State.endUpdates, State.Keeps.each, State.Keeps.endRunning]
end

end Sys2Proof.Machine
end

section
/-! PROOFS. What every command keeps (O59, O60): update commands, the cascade, re-rigs and repair. -/

namespace Sys2Proof.Machine

-- One theorem at a time, as in the tests: the proofs together take too many threads.
set_option Elab.async false

section
variable {z s t : State}

theorem State.Keeps.portDown (h : z.Keeps s) (p : Nat) :
    z.Keeps (s.portDown p) := by
  grind [State.portDown, State.keeps_mk, keepsParts_state, State.Keeps.raiseSrc, State.Keeps.setPort, State.Keeps.endUpdates]

theorem State.Keeps.portEnable (h : z.Keeps s) (pen present : BitVec 6) :
    z.Keeps (s.portEnable pen present) := by
  grind [State.portEnable, State.keeps_mk, keepsParts_state, State.Keeps.each, State.Keeps.setPort, State.Keeps.portDown]

theorem State.Keeps.rankWrite (h : z.Keeps s) (r : BitVec 6) :
    z.Keeps (s.rankWrite r) := by
  grind [State.rankWrite, State.keeps_mk, keepsParts_state]

theorem State.Keeps.sendTo (h : z.Keeps s) (rank : Nat) (m : Msg) :
    z.Keeps (s.sendTo rank m) := by
  grind [State.sendTo, State.Keeps.sendMsg]

theorem State.Keeps.setBar (h : z.Keeps s) (tag : BitVec 8) (b : Option Bar) :
    z.Keeps (s.setBar tag b) := h.same rfl rfl rfl rfl

theorem State.Keeps.sendUp (h : z.Keeps s) (m : Nat → Msg) (delay : Nat) :
    z.Keeps (s.sendUp m delay) := by
  grind [State.sendUp, State.Keeps.sendMsg]

theorem State.Keeps.reopen (h : z.Keeps s) (tag : BitVec 8) (xs : List (Nat × Nat)) :
    z.Keeps (s.reopen tag xs) := by
  grind [State.reopen, State.Keeps.foldl, State.Keeps.setBar]

theorem State.Keeps.countArrival (h : z.Keeps s) (rank : Nat) (tag : BitVec 8) (released : Bool) (delay : Nat) :
    z.Keeps (s.countArrival rank tag released delay) := by
  grind [State.countArrival, State.keeps_mk, keepsParts_state, State.Keeps.setBar, State.Keeps.reopen]

theorem State.Keeps.released (h : z.Keeps s) (tag : BitVec 8) :
    z.Keeps (s.released tag) := by
  grind [State.released, State.keeps_mk, keepsParts_state, State.Keeps.endRunning]

theorem State.Keeps.arrive (h : z.Keeps s) (tag : BitVec 8) (released : Bool) :
    z.Keeps (s.arrive tag released) := by
  grind [State.arrive, State.Keeps.sendUp, State.Keeps.countArrival, State.Keeps.released]

theorem State.Keeps.rearrive (h : z.Keeps s) :
    z.Keeps (s.rearrive) := by
  grind [State.rearrive, State.Keeps.foldl, State.Keeps.arrive]

theorem State.Keeps.configure (h : z.Keeps s) (standby nmem : Nat) :
    z.Keeps (s.configure standby nmem) := by
  grind [State.configure, State.keeps_mk, keepsParts_state, State.Keeps.raiseSrc, State.Keeps.floodConfig, State.Keeps.rearrive]

theorem State.Keeps.setPin (h : z.Keeps s) (p : Nat) (pin : BitVec 256) :
    z.Keeps (s.setPin p pin) := by
  grind [State.setPin, State.keeps_mk, keepsParts_state, State.Keeps.setPort, State.Keeps.endUpdates]

theorem State.Keeps.startUpdate (h : z.Keeps s) {s0 : State} (h0 : z.Keeps s0) (r : Nat) (m : Cmd) :
    z.Keeps (State.startUpdate s0 s r m) := by
  grind [State.startUpdate, State.keeps_mk, keepsParts_state, Res.Keeps, State.Keeps.endRunning, State.Keeps.orWait,
    State.Keeps.applyAll, State.Keeps.arrive]

theorem State.Keeps.quiesce (h : z.Keeps s) (r : Nat) :
    z.Keeps (s.quiesce r) := by
  grind [State.quiesce, State.keeps_mk, keepsParts_state, State.Keeps.setRig, State.Keeps.stopRunning, State.Keeps.dropWaiting]

theorem State.Keeps.startRerig (h : z.Keeps s) (r : CRec) :
    z.Keeps (s.startRerig r) := by
  grind [State.startRerig, State.keeps_mk, keepsParts_state, State.Keeps.each, State.Keeps.setAdm, State.Keeps.conclude,
    State.Keeps.quiesce]

theorem State.Keeps.rerigAuth (h : z.Keeps s) (r : CRec) (xs : Option (List Byte)) :
    z.Keeps (s.rerigAuth r xs) := by
  unfold State.rerigAuth
  split <;> grind [State.rerigAuth, State.keeps_mk, keepsParts_state, State.Keeps.setAdm, State.Keeps.conclude, State.Keeps.rejAuth,
    State.Keeps.startRerig]

theorem State.Keeps.phase3 (h : z.Keeps s) (key : Bool) (cores : BitVec 4096) (regions : BitVec 384) :
    z.Keeps (s.phase3 key cores regions) := by
  grind [State.phase3, State.keeps_mk, keepsParts_state, State.Keeps.evictLines]

theorem State.Keeps.phase4 (h : z.Keeps s) (mask : BitVec 64) (cores : BitVec 4096) (regions : BitVec 384) :
    z.Keeps (s.phase4 mask cores regions) := by
  grind [State.phase4, State.keeps_mk, keepsParts_state, keepsParts_tclear, State.Keeps.each, State.Keeps.foldl, State.Keeps.setCore,
    State.Keeps.setTile, State.Keeps.setRig, State.Keeps.dropWaiting]

theorem State.Keeps.loseWay (h : z.Keeps s) (slice way : Nat) :
    z.Keeps (s.loseWay slice way) := h.same rfl rfl rfl rfl

theorem State.Keeps.clearMoved (h : z.Keeps s) (c : Nat) :
    z.Keeps (s.clearMoved c) := by
  grind [State.clearMoved, State.keeps_mk, keepsParts_state, keepsParts_tclear, State.Keeps.setCore]

theorem State.Keeps.remapYard (h : z.Keeps s) (y : Nat) :
    z.Keeps (s.remapYard y) := by
  grind [State.remapYard, State.Keeps.each, State.Keeps.mapYard, State.Keeps.clearMoved]

theorem State.Keeps.replaceWay (h : z.Keeps s) (mask : BitVec 64) (key : Bool) (slice way : Nat) :
    z.Keeps (s.replaceWay mask key slice way) := by
  grind [State.replaceWay, State.keeps_mk, keepsParts_state, State.Keeps.each, State.Keeps.evict, State.Keeps.bumpGen,
    State.Keeps.loseWay]

theorem State.Keeps.replaceWays (h : z.Keeps s) (mask : BitVec 64) (key : Bool) :
    z.Keeps (s.replaceWays mask key) := by
  grind [State.replaceWays, State.Keeps.foldl, State.Keeps.replaceWay]

theorem State.Keeps.install (h : z.Keeps s) (p : List Byte) (rrtime r : Nat) :
    z.Keeps (s.install p rrtime r) := h.same rfl rfl rfl rfl

theorem State.Keeps.installModes (h : z.Keeps s) (regions : BitVec 384) :
    z.Keeps (s.installModes regions) := by
  grind [State.installModes, State.Keeps.foldl, State.Keeps.setMode]

theorem State.Keeps.installKey (h : z.Keeps s) :
    z.Keeps (s.installKey) := by
  grind [State.installKey, State.keeps_mk, keepsParts_state]

theorem State.Keeps.seatYard (h : z.Keeps s) (y : Nat) :
    z.Keeps (s.seatYard y) := by
  grind [State.seatYard, State.Keeps.furlOff, State.Keeps.wake]

theorem State.Keeps.finishRerig (h : z.Keeps s) (x : Rerig) (rrtime : Nat) :
    z.Keeps (s.finishRerig x rrtime) := by
  unfold State.finishRerig
  extract_lets rs oldC oldR cores regions key ys s1 s2 s3 s4 s5 s6 s7 s8
  have h2 : z.Keeps s2 :=
    (State.Keeps.each (fun _ y hu => hu.remapYard y) ys ((h.phase3 key cores regions).phase4 x.mask cores regions)).replaceWays x.mask key
  have h3 : z.Keeps s3 :=
    State.Keeps.each (fun _ r hu => hu.putFloors r) rs (State.Keeps.each (fun _ r hu => hu.install x.plan rrtime r) rs h2)
  have h4 : z.Keeps s4 := State.Keeps.ite h3.installKey h3
  have h6 : z.Keeps s6 := (h4.installModes oldR).marginPlan true ys
  have h7 : z.Keeps s7 := State.Keeps.each (fun _ y hu => hu.seatYard y) ys h6
  have h8 : z.Keeps s8 := State.Keeps.each (fun _ y hu => hu.noteBelow (yardId y) _) _ h7
  exact (h8.setAdm _).settleFloors

theorem State.Keeps.countRecord (h : z.Keeps s) (n : Nat) (f : Fin') :
    z.Keeps (s.countRecord n f) := by
  grind [State.countRecord, State.keeps_mk, keepsParts_state, State.Keeps.setStrm, State.Keeps.setAdm]

theorem State.Keeps.deliverRecord (h : z.Keeps s) (n : Nat) (r : CRec) (f : Fin') (bs : List Byte) (acc : Bool) :
    z.Keeps (s.deliverRecord n r f bs acc) := by
  grind [State.deliverRecord, State.Keeps.raiseSrc, State.Keeps.haltStrm, State.Keeps.toHost]

theorem State.Keeps.releaseRig (h : z.Keeps s) (r : Nat) :
    z.Keeps (s.releaseRig r) := by
  grind [State.releaseRig, State.keeps_mk, keepsParts_state, State.Keeps.setRig, State.Keeps.settleFloors]

theorem State.Keeps.writeRecord (h : z.Keeps s) (n : Nat) (d : Done) (acc : Bool) (reef : Nat) :
    z.Keeps (s.writeRecord n d acc reef) := by
  grind [State.writeRecord, State.keeps_mk, keepsParts_state, State.Keeps.setStrm, State.Keeps.finishRerig, State.Keeps.countRecord,
    State.Keeps.deliverRecord, State.Keeps.releaseRig]

theorem State.Keeps.wireFailed (h : z.Keeps s) (c : CoreId) (dir : Nat) (wire : Nat) :
    z.Keeps (s.wireFailed c dir wire) := by
  grind [State.wireFailed, State.keeps_mk, keepsParts_state, State.Keeps.setTile, State.Keeps.raiseSrc, State.Keeps.recordFail,
    State.Keeps.bumpGen, State.Keeps.faultBegin, State.Keeps.faultTick, State.Keeps.markDown]

theorem State.Keeps.recordRow (h : z.Keeps s) (c b row : Nat) :
    z.Keeps (s.recordRow c b row) := by
  grind [State.recordRow, State.Keeps.recordFail]

theorem State.Keeps.repairRow (h : z.Keeps s) (c b row : Nat) :
    z.Keeps (s.repairRow c b row) := by
  unfold State.repairRow
  extract_lets a ws fix
  split
  next s1 _ heq =>
    have h1 : z.Keeps s1 := (h.meetDram ws).pair heq
    extract_lets s2 t s3
    have h2 : z.Keeps s2 := State.Keeps.each (fun u w hu => by
      split
      · exact hu.setMark w .none
      · exact hu) ws h1
    have h3 : z.Keeps s3 := h2.setTile c _
    clear_value s3 s2 a
    have h4 : z.Keeps ({ s3 with ras := { s3.ras with table := s3.ras.table.map fix } } : State) := h3.same rfl rfl rfl rfl
    exact h4.recordRow c b row

theorem State.Keeps.tryRepair (h : z.Keeps s) (c b row : Nat) :
    z.Keeps (s.tryRepair c b row) := by
  grind [State.tryRepair, State.Keeps.raiseSrc, State.Keeps.repairRow]
end

end Sys2Proof.Machine
end

section
/-! PROOFS. What every command keeps (O59, O60): start-up, power, temperature, security, events and registers. -/

namespace Sys2Proof.Machine

-- One theorem at a time, as in the tests: the proofs together take too many threads.
set_option Elab.async false

section
variable {z s t : State}

theorem State.Keeps.parkAll (h : z.Keeps s) :
    z.Keeps (s.parkAll) := by
  grind [State.parkAll, State.Keeps.each, State.Keeps.park]

theorem State.Keeps.volatileReset (h : z.Keeps s) (log : Bool) : z.Keeps (s.volatileReset log) := by
  have hp := h.parkAll
  refine ⟨hp.pending, fun w => ?_, fun _ => rfl⟩
  have hm := hp.mem w
  unfold State.memWf at hm ⊢
  rw [Bool.and_eq_true] at hm ⊢
  exact ⟨rfl, hm.2⟩

theorem State.Keeps.railsOff (h : z.Keeps s) : z.Keeps s.railsOff :=
  have hv := h.volatileReset false
  ⟨hv.pending, hv.mem, fun _ => rfl⟩

theorem State.Keeps.powerOn (h : z.Keeps s) (feedB air : Bool) : z.Keeps (s.powerOn feedB air) :=
  have hv := h.volatileReset false
  ⟨hv.pending, hv.mem, fun _ => rfl⟩

theorem State.Keeps.devReset (h : z.Keeps s) (hp : s.boot.ph ≠ 0) : z.Keeps s.devReset := by
  have hv := h.volatileReset true
  refine ⟨hv.pending, hv.mem, fun w => ?_⟩
  have hb := h.boot w
  have h1 : s.devReset.boot.ph = 1 := rfl
  have h2 : s.devReset.boot.step = if s.boot.ph = 1 && s.boot.step < 3 then s.boot.step else 3 := rfl
  unfold Boot.legal at hb ⊢
  rw [h1, h2]
  grind

theorem State.Keeps.startFailed (h : z.Keeps s) (cause : BitVec 8) (hp : s.boot.ph ≠ 0) : z.Keeps (s.startFailed cause) := by
  refine ⟨h.pending, h.mem, fun w => ?_⟩
  have hb := h.boot w
  have h1 : (s.startFailed cause).boot.ph = 6 := rfl
  have h2 : (s.startFailed cause).boot.step = s.boot.step := rfl
  unfold Boot.legal at hb ⊢
  rw [h1, h2]
  grind

theorem State.Keeps.sheetRuns (h : z.Keeps s) :
    z.Keeps (s.sheetRuns) := by
  grind [State.sheetRuns, State.keeps_mk, keepsParts_state, State.Keeps.foldl, State.Keeps.raiseSrc]

theorem State.Keeps.railStep (h : z.Keeps s) (step : Nat) (volts : List Nat) :
    z.Keeps (s.railStep step volts).1 := h.same rfl rfl rfl rfl

theorem State.Keeps.bootFuses (h : z.Keeps s) :
    z.Keeps (s.bootFuses) := by
  grind [State.bootFuses, State.keeps_mk, keepsParts_state, State.Keeps.each, State.Keeps.setChan, State.Keeps.loseWay]

theorem State.Keeps.retested (h : z.Keeps s) (kind per : Nat) (e : StepEnd) :
    z.Keeps (s.retested kind per e) := h.same rfl rfl rfl rfl

theorem State.Keeps.calibrate (h : z.Keeps s) (e : StepEnd) (pos : Nat) :
    z.Keeps (s.calibrate e pos) := by
  grind [State.calibrate, State.keeps_mk, keepsParts_state, State.Keeps.foldl, State.Keeps.setYard, State.Keeps.raiseSrc,
    State.Keeps.recordFail]

theorem State.Keeps.bootHalyards (h : z.Keeps s) (e : StepEnd) :
    z.Keeps (s.bootHalyards e) := by
  grind [State.bootHalyards, State.Keeps.each, State.Keeps.recordFail, State.Keeps.retested, State.Keeps.calibrate]

theorem State.Keeps.bootHbm (h : z.Keeps s) (e : StepEnd) :
    z.Keeps (s.bootHbm e) := by
  grind [State.bootHbm, State.keeps_mk, keepsParts_state, State.Keeps.each, State.Keeps.setChan, State.Keeps.raiseSrc,
    State.Keeps.recordFail, State.Keeps.bumpGen]

theorem State.Keeps.trainStay (h : z.Keeps s) (e : StepEnd) (st : Nat) :
    z.Keeps (s.trainStay e st) := by
  grind [State.trainStay, State.keeps_mk, keepsParts_state, State.Keeps.raiseSrc]

theorem State.Keeps.bootStays (h : z.Keeps s) (e : StepEnd) :
    z.Keeps (s.bootStays e) := by
  grind [State.bootStays, State.keeps_mk, keepsParts_state, State.Keeps.each, State.Keeps.recordFail, State.Keeps.setPort,
    State.Keeps.retested, State.Keeps.trainStay]

theorem State.Keeps.memCleared (h : z.Keeps s) : z.Keeps { s with mem := [], errs := [], gran := [], banks := [] } := by
  refine ⟨h.pending, fun w => ?_, h.boot⟩
  have hm := h.mem w
  unfold State.memWf at hm ⊢
  rw [Bool.and_eq_true] at hm ⊢
  exact ⟨rfl, hm.2⟩

theorem State.Keeps.markBad (h : z.Keeps s) (i : Nat) :
    z.Keeps (if i < 18 * 256 then
      s.setYard (i / 18) { s.yard (i / 18) with bad := (s.yard (i / 18)).bad ||| BitVec.twoPow 18 (i % 18) } else s) :=
  State.Keeps.ite (h.setYard _ _) h

theorem State.Keeps.mapAndFurl (h : z.Keeps s) :
    z.Keeps ((s.each allYards State.mapYard).each allYards fun s y => s.furlOff y 9) :=
  State.Keeps.each (fun _ y hu => hu.furlOff y 9) allYards (State.Keeps.each (fun _ y hu => hu.mapYard y) allYards h)

theorem State.Keeps.step8 (h : z.Keeps s) (failed : List Nat) : z.Keeps (s.step8 failed) :=
  (State.Keeps.each (fun _ i hu => hu.markBad i) _ h).mapAndFurl.memCleared

theorem State.Keeps.endStep (h : z.Keeps s) (e : StepEnd) :
    z.Keeps (s.endStep e) := by
  grind [State.endStep, State.keeps_mk, keepsParts_state, State.Keeps.sheetRuns, State.Keeps.bootFuses, State.Keeps.bootHalyards,
    State.Keeps.bootHbm, State.Keeps.bootStays, State.Keeps.step8]

theorem State.Keeps.unmask (h : z.Keeps s) (ns : List Nat) :
    z.Keeps (s.unmask ns) := by
  grind [State.unmask, State.keeps_mk, keepsParts_state, State.Keeps.each, State.Keeps.noteDue]

theorem State.Keeps.forceWrite (h : z.Keeps s) : z.Keeps s.forceWrite := ⟨h.pending, h.mem, h.boot⟩

theorem State.Keeps.addEnergy (h : z.Keeps s) (r : Nat) (q : Rat) :
    z.Keeps (s.addEnergy r q) := by
  grind [State.addEnergy, State.keeps_mk, keepsParts_state]

theorem State.Keeps.share (h : z.Keeps s) (uj : Nat) (act : List (Option Nat × Nat)) :
    z.Keeps (s.share uj act) := by
  grind [State.share, State.Keeps.foldl, State.Keeps.addEnergy]

/-- A domain's energy is divided among its rigs. -/
def State.shareDomain (s : State) (d : DomainEnergy) : State :=
  s.share d.uj (d.act.map (fun e => (some e.1.val, e.2)) ++ [(none, d.other)])

theorem execEnergyAttribution_eq (yards : List YardEnergy) (others : List DomainEnergy) (s : State) :
    execEnergyAttribution yards others s = .next (others.foldl State.shareDomain (yards.foldl State.attributeYard s)) := by
  unfold execEnergyAttribution
  rfl

theorem State.Keeps.shareDomain (h : z.Keeps s) (d : DomainEnergy) : z.Keeps (s.shareDomain d) := h.share _ _

theorem State.Keeps.attributeYard (h : z.Keeps s) (d : YardEnergy) :
    z.Keeps (s.attributeYard d) := by
  grind [State.attributeYard, State.Keeps.share]

theorem State.Keeps.darken (h : z.Keeps s) (record : Bool) (y : Nat) :
    z.Keeps (s.darken record y) := by
  grind [State.darken, State.keeps_mk, keepsParts_state, keepsParts_tclear, State.Keeps.each, State.Keeps.setCore, State.Keeps.setYard,
    State.Keeps.markYard, State.Keeps.furlOff]

theorem State.Keeps.lowerDuty (h : z.Keeps s) (ratio : Rat) (y : Nat) :
    z.Keeps (s.lowerDuty ratio y) := by
  grind [State.lowerDuty, State.keeps_mk, keepsParts_state, State.Keeps.each, State.Keeps.setTile]

theorem State.Keeps.pathEffect (h : z.Keeps s) (p : Nat) (st : BitVec 2) (ratio : Rat) :
    z.Keeps (s.pathEffect p st ratio) := by
  grind [State.pathEffect, State.keeps_mk, keepsParts_state, State.Keeps.each, State.Keeps.setYard, State.Keeps.raiseSrc,
    State.Keeps.yardEvent, State.Keeps.markYard, State.Keeps.markMast, State.Keeps.keepTop, State.Keeps.darken, State.Keeps.lowerDuty]

theorem State.Keeps.startRamp (h : z.Keeps s) (y : Nat) (quarter : Bool) :
    z.Keeps (s.startRamp y quarter) := h.same rfl rfl rfl rfl

theorem State.Keeps.pldmSet (h : z.Keeps s) (id st : Nat) :
    z.Keeps (s.pldmSet id st) := by
  grind [State.pldmSet, State.keeps_mk, keepsParts_state]

theorem State.Keeps.pldmTemps (h : z.Keeps s) :
    z.Keeps (s.pldmTemps) := by
  grind [State.pldmTemps, State.Keeps.pldmSet]

theorem State.Keeps.reefHot (h : z.Keeps s) (below : Bool) (y : Nat) : z.Keeps (s.reefHot below y) := by
  unfold State.reefHot
  extract_lets k f s1
  have h1 : z.Keeps s1 := h.setLevel (yardId y) (min 7 (k.lvl + 1)) false 3
  refine State.Keeps.ite (State.Keeps.ite (h1.same rfl rfl rfl rfl) h1) h

theorem State.Keeps.lowerDl (h : z.Keeps s) (below : Bool) (c : Nat) :
    z.Keeps (s.lowerDl below c) := by
  grind [State.lowerDl, State.keeps_mk, keepsParts_state, State.Keeps.setTile]

theorem State.Keeps.coolTiles (h : z.Keeps s) (below : Bool) (y : Nat) :
    z.Keeps (s.coolTiles below y) := by
  grind [State.coolTiles, State.keeps_mk, keepsParts_state, State.Keeps.each, State.Keeps.noteBelow, State.Keeps.lowerDl]

theorem State.Keeps.setDuty (h : z.Keeps s) :
    z.Keeps (s.setDuty) := by
  grind [State.setDuty, State.keeps_mk, keepsParts_state, State.Keeps.each, State.Keeps.setTile]

theorem State.Keeps.freeTiles (h : z.Keeps s) (y : Nat) :
    z.Keeps (s.freeTiles y) := by
  grind [State.freeTiles, State.keeps_mk, keepsParts_state, State.Keeps.each, State.Keeps.setTile, State.Keeps.noteBelow]

theorem State.Keeps.table174 (h : z.Keeps s) :
    z.Keeps (s.table174) := by
  grind [State.table174, State.Keeps.each, State.Keeps.reefHot, State.Keeps.coolTiles]

theorem State.Keeps.raiseCooled (h : z.Keeps s) :
    z.Keeps (s.raiseCooled) := by
  grind [State.raiseCooled, State.Keeps.each, State.Keeps.setLevel]

theorem State.Keeps.readSensors (h : z.Keeps s) (x : Sensors) :
    z.Keeps (s.readSensors x) := by
  grind [State.readSensors, State.keeps_mk, keepsParts_state, State.Keeps.foldl, State.Keeps.setYard]

theorem State.Keeps.watchYard (h : z.Keeps s) (y : Nat) :
    z.Keeps (s.watchYard y) := by
  grind [State.watchYard, State.keeps_mk, keepsParts_state, State.Keeps.setYard, State.Keeps.yardEvent, State.Keeps.freeTiles]

theorem State.Keeps.pauseBanks (h : z.Keeps s) (pause : Bool) :
    z.Keeps (s.pauseBanks pause) := by
  grind [State.pauseBanks, State.keeps_mk, keepsParts_state, State.Keeps.each, State.Keeps.setBank]

theorem State.Keeps.emerg (h : z.Keeps s) :
    z.Keeps (({ s with pwr := { s.pwr with emerg := true }, therm := s.therm.keep } : State).raiseSrc 3) :=
  have h1 : z.Keeps ({ s with pwr := { s.pwr with emerg := true }, therm := s.therm.keep } : State) := h.same rfl rfl rfl rfl
  h1.raiseSrc 3

theorem State.Keeps.emergency (h : z.Keeps s) : z.Keeps s.emergency :=
  have h1 : z.Keeps (s.each allYards fun s y => s.furlOff y 8) := State.Keeps.each (fun _ y hu => hu.furlOff y 8) allYards h
  (h1.pauseBanks true).emerg

theorem State.Keeps.emergClear (h : z.Keeps s) :
    z.Keeps (s.emergClear) := by
  grind [State.emergClear, State.keeps_mk, keepsParts_state, State.Keeps.pauseBanks]

theorem State.Keeps.inletStates (h : z.Keeps s) (tin : Nat) :
    z.Keeps (s.inletStates tin) := by
  grind [State.inletStates, State.keeps_mk, keepsParts_state, State.Keeps.emergency]

theorem State.Keeps.coolStates (h : z.Keeps s) (tin : Nat) :
    z.Keeps (s.coolStates tin) := by
  grind [State.coolStates, State.keeps_mk, keepsParts_state, State.Keeps.raiseSrc, State.Keeps.pldmSet, State.Keeps.inletStates]

theorem State.Keeps.dropBoosts (h : z.Keeps s) :
    z.Keeps (s.dropBoosts) := by
  grind [State.dropBoosts, State.keeps_mk, keepsParts_state, State.Keeps.each, State.Keeps.setYard]

theorem State.Keeps.reefOne (h : z.Keeps s) (ys : List Nat) (share : Bool) :
    z.Keeps (s.reefOne ys share) := by
  grind [State.reefOne, State.Keeps.setLevel, State.Keeps.share]

theorem State.Keeps.reefPower (h : z.Keeps s) (rigs : List (RigId × Nat)) :
    z.Keeps (s.reefPower rigs) := by
  grind [State.reefPower, State.Keeps.reefOne]

theorem State.Keeps.raisePower (h : z.Keeps s) :
    z.Keeps (s.raisePower) := by
  grind [State.raisePower, State.keeps_mk, keepsParts_state, State.Keeps.setYard, State.Keeps.setLevel]

theorem State.Keeps.suddenLoss (h : z.Keeps s) :
    z.Keeps (s.suddenLoss) := by
  grind [State.suddenLoss, State.keeps_mk, keepsParts_state, State.Keeps.each, State.Keeps.setYard, State.Keeps.pldmSet,
    State.Keeps.emergency]

theorem State.Keeps.takeTelemetry (h : z.Keeps s) (t : Telemetry) :
    z.Keeps (s.takeTelemetry t) := by
  grind [State.takeTelemetry, State.keeps_mk, keepsParts_state, State.Keeps.foldl, State.Keeps.setYard]

theorem State.Keeps.pldmPower (h : z.Keeps s) :
    z.Keeps (s.pldmPower) := by
  grind [State.pldmPower, State.Keeps.pldmSet]

theorem State.Keeps.holdPaths (h : z.Keeps s) (paths : List (PathId × Nat)) :
    z.Keeps (s.holdPaths paths) := by
  grind [State.holdPaths, State.Keeps.foldl, State.Keeps.setLevel]

theorem State.Keeps.consClear (h : z.Keeps s) :
    z.Keeps (s.consClear) := h.same rfl rfl rfl rfl

theorem State.Keeps.loopBegin (h : z.Keeps s) (i : Nat) (w : BitVec 64) : z.Keeps (s.loopBegin i w) := by
  unfold State.loopBegin
  have hl : z.Keeps { s with boot := { s.boot with link := false } } := ⟨h.pending, h.mem, h.boot⟩
  grind [State.Keeps.setPort, State.Keeps.evictLines]

theorem State.Keeps.loopEnter (h : z.Keeps s) (i : Nat) (w : BitVec 64) :
    z.Keeps (s.loopEnter i w) := by
  grind [State.loopEnter, State.keeps_mk, keepsParts_state, State.Keeps.setLoop, State.Keeps.loopBegin]

theorem State.Keeps.loopLeave (h : z.Keeps s) (i : Nat) :
    z.Keeps (s.loopLeave i) := by
  grind [State.loopLeave, State.keeps_mk, keepsParts_state, State.Keeps.setLoop]

theorem State.Keeps.loopEnd (h : z.Keeps s) (i : Nat) (result : BitVec 8) (errs time : Nat) :
    z.Keeps (s.loopEnd i result errs time) := by
  grind [State.loopEnd, State.keeps_mk, keepsParts_state, State.Keeps.setPort, State.Keeps.setLoop]

theorem State.Keeps.loopsEnded (h : z.Keeps s) :
    z.Keeps (s.loopsEnded) := by
  grind [State.loopsEnded, State.Keeps.each, State.Keeps.loopEnd]

theorem State.Keeps.flipTgtWrite (h : z.Keeps s) (w : BitVec 64) :
    z.Keeps (s.flipTgtWrite w) := h.same rfl rfl rfl rfl

theorem State.Keeps.ceClr (h : z.Keeps s) :
    z.Keeps (s.ceClr) := h.same rfl rfl rfl rfl

theorem State.Keeps.scrubGo (h : z.Keeps s) (nofix : Bool) :
    z.Keeps (s.scrubGo nofix) := by
  grind [State.scrubGo, State.keeps_mk, keepsParts_state, State.Keeps.setRig, State.Keeps.putSum, State.Keeps.regScrubEnd]

theorem State.Keeps.mismatch (h : z.Keeps s) : z.Keeps s.mismatch := by
  unfold State.mismatch
  refine State.Keeps.ite h ?_
  refine State.Keeps.ite h.railsOff ?_
  split
  case isTrue hp =>
    refine ⟨h.pending, h.mem, fun w => ?_⟩
    have hb := h.boot w
    unfold Boot.legal at hb
    show (_ || (_ && (1 ≤ min 2 s.boot.step : Bool) && (min 2 s.boot.step ≤ 9 : Bool))) = true
    grind
  case isFalse =>
    have h1 : z.Keeps ({ s with nest := { s.nest with sheet := .takeover, standby := false } } : State) := h.same rfl rfl rfl rfl
    exact h1.loopsEnded.raiseSrc 5

theorem State.Keeps.wakeSheet (h : z.Keeps s) :
    z.Keeps (s.wakeSheet) := by
  grind [State.wakeSheet, State.keeps_mk, keepsParts_state]

theorem State.Keeps.mboxEnd (h : z.Keeps s) (result : BitVec 8) :
    z.Keeps (s.mboxEnd result) := by
  grind [State.mboxEnd, State.keeps_mk, keepsParts_state, State.Keeps.raiseSrc]

theorem State.Keeps.mboxStart (h : z.Keeps s) (op : BitVec 8) (slot : Bool) :
    z.Keeps (s.mboxStart op slot) := by
  grind [State.mboxStart, State.keeps_mk, keepsParts_state, State.Keeps.mboxEnd]

theorem State.Keeps.mboxOp (h : z.Keeps s) (op : BitVec 8) :
    z.Keeps (s.mboxOp op) := by
  grind [State.mboxOp, State.Keeps.mboxEnd, State.Keeps.mboxStart]

theorem State.Keeps.spdmOut (h : z.Keeps s) (via : Transport) (r : SpdmRsp) :
    z.Keeps (s.spdmOut via r) := h.same rfl rfl rfl rfl

theorem State.Keeps.spdmSign (h : z.Keeps s) :
    z.Keeps (s.spdmSign).1 := h.same rfl rfl rfl rfl

theorem State.Keeps.msix (h : z.Keeps s) (v : Nat) :
    z.Keeps (s.msix v) := by
  grind [State.msix, State.keeps_mk, keepsParts_state]

theorem State.Keeps.sendVec (h : z.Keeps s) (v now : Nat) :
    z.Keeps (s.sendVec v now) := by
  grind [State.sendVec, State.keeps_mk, keepsParts_state, State.Keeps.foldl, State.Keeps.msix]

theorem State.Keeps.sendSheet (h : z.Keeps s) :
    z.Keeps (s.sendSheet) := by
  grind [State.sendSheet, State.keeps_mk, keepsParts_state]

theorem State.Keeps.evtSee (h : z.Keeps s) (now : Nat) :
    z.Keeps (s.evtSee now) := h.same rfl rfl rfl rfl

theorem State.Keeps.idleWrite (h : z.Keeps s) (w : BitVec 64) (now : Nat) :
    z.Keeps (s.idleWrite w now) := by
  grind [State.idleWrite, State.keeps_mk, keepsParts_state, State.Keeps.each, State.Keeps.sendVec]

theorem State.Keeps.maskSet (h : z.Keeps s) (i : Nat) (w : BitVec 64) :
    z.Keeps (s.maskSet i w) := h.same rfl rfl rfl rfl

theorem State.Keeps.maskClr (h : z.Keeps s) (i : Nat) (w : BitVec 64) :
    z.Keeps (s.maskClr i w) := by
  grind [State.maskClr, State.Keeps.unmask]

theorem State.Keeps.pendSet (h : z.Keeps s) (i : Nat) (w : BitVec 64) :
    z.Keeps (s.pendSet i w) := by
  grind [State.pendSet, State.Keeps.each, State.Keeps.raiseSrc]

theorem State.Keeps.pendClr (h : z.Keeps s) (i : Nat) (w : BitVec 64) :
    z.Keeps (s.pendClr i w) := h.same rfl rfl rfl rfl

theorem State.Keeps.rerouted (h : z.Keeps s) (n : Nat) {f : State → State} (hf : ∀ u, z.Keeps u → z.Keeps (f u)) :
    z.Keeps (s.rerouted n f) := by
  grind [State.rerouted, State.Keeps.noteDue]

theorem State.Keeps.routeWrite (h : z.Keeps s) (n : Nat) (w : BitVec 32) :
    z.Keeps (s.routeWrite n w) := by
  grind [State.routeWrite, State.keeps_mk, keepsParts_state, State.Keeps.rerouted]

theorem State.Keeps.releaseMsix (h : z.Keeps s) (vs : List Nat) :
    z.Keeps (s.releaseMsix vs) := by
  grind [State.releaseMsix, State.keeps_mk, keepsParts_state, State.Keeps.each]

theorem State.Keeps.putFields (h : z.Keeps s) (x : RegAcc) (mask : BitVec 64) :
    z.Keeps (s.putFields x mask) := h.same rfl rfl rfl rfl

theorem State.Keeps.writeDev (h : z.Keeps s) (x : RegAcc) :
    z.Keeps (s.writeDev x) := by
  grind [State.writeDev, State.Keeps.forceWrite, State.Keeps.putFields]

theorem State.Keeps.strmRing (h : z.Keeps s) (n : Nat) (x : RegAcc) (mask : BitVec 64) :
    z.Keeps (if (s.strm n).en then s else s.putFields x mask) := State.Keeps.ite h (h.putFields x mask)

theorem State.Keeps.strmCtl (h : z.Keeps s) (n : Nat) (x : RegAcc) :
    z.Keeps (
      let s := if x.one 2 && s.bar0On x.off then s.strmAbort n else s
      let s := if x.one 1 && s.bar0On x.off then s.strmResume n else s
      if x.has 0 then s.strmEn n (x.v.getLsbD 0) else s) := by
  extract_lets s1 s2
  have h1 : z.Keeps s1 := State.Keeps.ite (h.strmAbort n) h
  have h2 : z.Keeps s2 := State.Keeps.ite (h1.strmResume n) h1
  exact State.Keeps.ite (h2.strmEn n _) h2

theorem State.Keeps.writeStrm (h : z.Keeps s) (x : RegAcc) : z.Keeps (s.writeStrm x) := by
  unfold State.writeStrm
  generalize x.off - 0x010000 = o
  revert o
  refine id fun o => State.Keeps.ite h ?_
  split
  any_goals exact h.strmRing (o / 0x40) x _
  · exact h.strmCtl (o / 0x40) x
  · exact h

theorem State.Keeps.writeRig (h : z.Keeps s) (x : RegAcc) : z.Keeps (s.writeRig x) := by
  unfold State.writeRig
  extract_lets r
  refine State.Keeps.ite h ?_
  split
  · exact h.putFields x _
  · exact State.Keeps.ite (h.writeShare r _) h
  · exact h

theorem State.Keeps.writePwr (h : z.Keeps s) (x : RegAcc) :
    z.Keeps (s.writePwr x) := by
  grind [State.writePwr, State.keeps_mk, keepsParts_state, State.Keeps.emergClear, State.Keeps.consClear, State.Keeps.putFields]

theorem State.Keeps.writeTherm (h : z.Keeps s) (x : RegAcc) :
    z.Keeps (s.writeTherm x) := by
  grind [State.writeTherm, State.keeps_mk, keepsParts_state, State.Keeps.putFields]

theorem State.Keeps.writeRas (h : z.Keeps s) (x : RegAcc) :
    z.Keeps (s.writeRas x) := by
  grind [State.writeRas, State.keeps_mk, keepsParts_state, State.Keeps.flipTgtWrite, State.Keeps.ceClr, State.Keeps.scrubGo,
    State.Keeps.putFields]

theorem State.Keeps.writeEvt (h : z.Keeps s) (x : RegAcc) : z.Keeps (s.writeEvt x) := by
  unfold State.writeEvt
  extract_lets o i w n s1
  clear_value o i w n
  refine State.Keeps.ite (h.maskSet i w) (State.Keeps.ite (h.maskClr i w) (State.Keeps.ite (h.pendSet i w)
    (State.Keeps.ite (h.pendClr i w) (State.Keeps.ite ?_ (State.Keeps.ite ?_ (State.Keeps.ite ?_ ?_))))))
  · have h1 : z.Keeps s1 := State.Keeps.ite (h.routeWrite n _) h
    exact State.Keeps.ite (h1.routeWrite _ _) h1
  · refine State.Keeps.each (fun u b hu => ?_) _ h
    exact hu.same rfl rfl rfl rfl
  · exact h.idleWrite _ _
  · exact State.Keeps.ite (h.putFields x _) h

theorem State.Keeps.writeLlc (h : z.Keeps s) (x : RegAcc) :
    z.Keeps (s.writeLlc x) := by
  grind [State.writeLlc, State.keeps_mk, keepsParts_state, State.Keeps.llcModeWrite, State.Keeps.hashKeyWrite, State.Keeps.putFields]

theorem State.Keeps.writeNet (h : z.Keeps s) (x : RegAcc) :
    z.Keeps (s.writeNet x) := by
  grind [State.writeNet, State.keeps_mk, keepsParts_state, State.Keeps.putFields]

theorem State.Keeps.writeCasc (h : z.Keeps s) (x : RegAcc) :
    z.Keeps (s.writeCasc x) := by
  grind [State.writeCasc, State.Keeps.portEnable, State.Keeps.rankWrite, State.Keeps.putFields]

theorem State.Keeps.writeSec (h : z.Keeps s) (x : RegAcc) :
    z.Keeps (s.writeSec x) := by
  grind [State.writeSec, State.Keeps.mboxOp, State.Keeps.putFields]

theorem State.Keeps.writeTest (h : z.Keeps s) (x : RegAcc) : z.Keeps (s.writeTest x) := by
  unfold State.writeTest
  extract_lets i l w
  clear_value i
  exact State.Keeps.ite (h.putFields x _) (State.Keeps.ite h (State.Keeps.ite (State.Keeps.ite (h.loopLeave i) h)
    (State.Keeps.ite (h.loopEnter i w) (h.setLoop i _))))

theorem State.Keeps.writeCtr (h : z.Keeps s) (x : RegAcc) :
    z.Keeps (s.writeCtr x) := by
  grind [State.writeCtr, State.Keeps.putFields]

theorem State.Keeps.writeAge (h : z.Keeps s) (x : RegAcc) :
    z.Keeps (s.writeAge x) := by
  grind [State.writeAge, State.Keeps.setReg, State.Keeps.marginPlan]

theorem State.Keeps.regWrite (h : z.Keeps s) (x : RegAcc) :
    z.Keeps (s.regWrite x) := by
  grind [State.regWrite, State.Keeps.writeDev, State.Keeps.writeStrm, State.Keeps.writeRig, State.Keeps.writePwr, State.Keeps.writeTherm,
    State.Keeps.writeRas, State.Keeps.writeEvt, State.Keeps.writeLlc, State.Keeps.writeNet, State.Keeps.writeCasc, State.Keeps.writeSec,
    State.Keeps.writeTest, State.Keeps.writeCtr, State.Keeps.writeAge]
end

end Sys2Proof.Machine
end

section
/-! PROOFS. Start-up stays where it is while a step of it ends. -/

namespace Sys2Proof.Machine

-- One theorem at a time, as in the tests: the proofs together take too many threads.
set_option Elab.async false

/-- Start-up is where it was in z: only GEN of the boot registers may have moved. -/
structure State.BootKept (z s : State) : Prop where
  eq : s.boot = { z.boot with gen := s.boot.gen }

/-- The same said of the boot registers alone. -/
def BootKeptParts (z : State) (boot : Boot) : Prop := boot = { z.boot with gen := boot.gen }
section
variable {z s t : State}
theorem State.BootKept.refl (s : State) : s.BootKept s := ⟨rfl⟩

theorem bootKeptParts_state : BootKeptParts z s.boot ↔ z.BootKept s := ⟨fun h => ⟨h⟩, fun h => h.1⟩

theorem State.bootKept_mk (cores : Tab Core) (mem : Mem) (gran : Tab Gran) (errs : Tab Err) (hostMem : Mem) (llc : Llc) (tiles : Tab Tile)
    (banks : Tab Bank) (hbm : Tab Hbm) (yards : Tab Yard) (rigs : Tab Rig) (strms : Tab Strm) (adm : Adm) (casc : Casc) (pwr : Pwr)
    (therm : Therm) (net : Net) (evt : Evt) (ras : Ras) (scrub : Scrub) (hot : Hot) (failures : List (Nat × Nat)) (fuses : List Fuses)
    (parked : Tab Parked) (boot : Boot) (sec : Sec) (loops : Tab Loop) (nest : Nest) (energyRig energyStrm : Tab (BitVec 64))
    (rsp : Option (List Byte × Bool)) (hdm : Tab Hdm) (ide : Bool) (bar0 : Tab (BitVec 64)) (free : Nat) (pending : List Instr) :
    z.BootKept ⟨cores, mem, gran, errs, hostMem, llc, tiles, banks, hbm, yards, rigs, strms, adm, casc, pwr, therm, net, evt, ras, scrub,
      hot, failures, fuses, parked, boot, sec, loops, nest, energyRig, energyStrm, rsp, hdm, ide, bar0, free, pending⟩ ↔
    BootKeptParts z boot := ⟨fun h => h.1, fun h => ⟨h⟩⟩

/-- A change of other parts keeps start-up where it is. -/
theorem State.BootKept.same (h : z.BootKept s) (hb : t.boot = s.boot) : z.BootKept t := ⟨by rw [hb]; exact h.eq⟩

theorem State.BootKept.ite {p : Prop} {_ : Decidable p} (hs : z.BootKept s) (ht : z.BootKept t) : z.BootKept (if p then s else t) := by
  split
  · exact hs
  · exact ht

theorem State.BootKept.pair {α : Type} {p : State × α} {x : α} (h : z.BootKept p.1) (he : p = (t, x)) : z.BootKept t := by
  rw [he] at h
  exact h

theorem State.BootKept.foldl {α : Type} {f : State → α → State} (hf : ∀ u x, z.BootKept u → z.BootKept (f u x)) (xs : List α)
    (h : z.BootKept s) : z.BootKept (xs.foldl f s) := by
  induction xs generalizing s with
  | nil => exact h
  | cons x xs ih => exact ih (hf s x h)

theorem State.BootKept.each {f : State → Nat → State} (hf : ∀ u x, z.BootKept u → z.BootKept (f u x)) (xs : List Nat) (h : z.BootKept s) :
    z.BootKept (s.each xs f) := h.foldl hf xs

theorem State.BootKept.setCore (h : z.BootKept s) (c : Nat) (k : Core) :
    z.BootKept (s.setCore c k) := h.same rfl

theorem State.BootKept.setTile (h : z.BootKept s) (c : Nat) (t : Tile) :
    z.BootKept (s.setTile c t) := h.same rfl

theorem State.BootKept.setChan (h : z.BootKept s) (i : Nat) (h : Hbm) :
    z.BootKept (s.setChan i h) := by
  grind [State.setChan, State.bootKept_mk, bootKeptParts_state]

theorem State.BootKept.setRig (h : z.BootKept s) (r : Nat) (k : Rig) :
    z.BootKept (s.setRig r k) := h.same rfl

theorem State.BootKept.setYard (h : z.BootKept s) (y : Nat) (k : Yard) :
    z.BootKept (s.setYard y k) := h.same rfl

theorem State.BootKept.setReg (h : z.BootKept s) (off : Nat) (w : BitVec 64) :
    z.BootKept (s.setReg off w) := h.same rfl

theorem State.BootKept.noteDue (h : z.BootKept s) (n : Nat) :
    z.BootKept (s.noteDue n) := by
  grind [State.noteDue, State.bootKept_mk, bootKeptParts_state]

theorem State.BootKept.raiseSrc (h : z.BootKept s) (n : Nat) :
    z.BootKept (s.raiseSrc n) := by
  grind [State.raiseSrc, State.bootKept_mk, bootKeptParts_state, State.BootKept.noteDue]

theorem State.BootKept.rigCause (h : z.BootKept s) (r : Nat) (bitsSet : BitVec 16) :
    z.BootKept (s.rigCause r bitsSet) := by
  grind [State.rigCause, State.bootKept_mk, bootKeptParts_state, State.BootKept.raiseSrc]

theorem State.BootKept.recordFail (h : z.BootKept s) (kind item : Nat) :
    z.BootKept (s.recordFail kind item) := by
  grind [State.recordFail, State.bootKept_mk, bootKeptParts_state, State.BootKept.raiseSrc]

theorem State.BootKept.setPort (h : z.BootKept s) (p : Nat) (k : Port) :
    z.BootKept (s.setPort p k) := h.same rfl

theorem State.BootKept.bumpGen (h : z.BootKept s) : z.BootKept s.bumpGen :=
  ⟨congrArg (fun b : Boot => { b with gen := s.boot.gen + 1 }) h.eq⟩

theorem State.BootKept.faultBegin (h : z.BootKept s) (f : HwFault) :
    z.BootKept (s.faultBegin f) := by
  grind [State.faultBegin, State.bootKept_mk, bootKeptParts_state, State.BootKept.each, State.BootKept.setRig, State.BootKept.rigCause]

theorem State.BootKept.faultEnd (h : z.BootKept s) (f : HwFault) :
    z.BootKept (s.faultEnd f) := by
  grind [State.faultEnd, State.bootKept_mk, bootKeptParts_state, State.BootKept.each, State.BootKept.setRig]

theorem State.BootKept.park (h : z.BootKept s) (y : Nat) :
    z.BootKept (s.park y) := by
  grind [State.park, State.bootKept_mk, bootKeptParts_state, State.BootKept.each, State.BootKept.setCore, State.BootKept.setTile]

theorem State.BootKept.unpark (h : z.BootKept s) (c : Nat) (pos : Option Nat) :
    z.BootKept (s.unpark c pos) := by
  unfold State.unpark
  split <;> grind [State.unpark, State.bootKept_mk, bootKeptParts_state, State.BootKept.setCore, State.BootKept.setTile]

theorem State.BootKept.mapYard (h : z.BootKept s) (y : Nat) :
    z.BootKept (s.mapYard y) := by
  grind [State.mapYard, State.bootKept_mk, bootKeptParts_state, State.BootKept.each, State.BootKept.setYard, State.BootKept.bumpGen,
    State.BootKept.park,
    State.BootKept.unpark]

theorem State.BootKept.putFloors (h : z.BootKept s) (r : Nat) :
    z.BootKept (s.putFloors r) := by
  grind [State.putFloors, State.bootKept_mk, bootKeptParts_state, State.BootKept.setRig]

theorem State.BootKept.putAllFloors (h : z.BootKept s) :
    z.BootKept (s.putAllFloors) := by
  grind [State.putAllFloors, State.BootKept.each, State.BootKept.putFloors]

theorem State.BootKept.noteBelow (h : z.BootKept s) (y : YardId) (was : Bool) :
    z.BootKept (s.noteBelow y was) := by
  grind [State.noteBelow, State.bootKept_mk, bootKeptParts_state, State.BootKept.faultBegin, State.BootKept.faultEnd]

theorem State.BootKept.setLevel (h : z.BootKept s) (y : YardId) (lvl : Nat) (held : Bool) (cause : Nat) :
    z.BootKept (s.setLevel y lvl held cause) := by
  grind [State.setLevel, State.bootKept_mk, bootKeptParts_state, State.BootKept.setYard, State.BootKept.noteBelow]

theorem State.BootKept.furlOff (h : z.BootKept s) (y : Nat) (cause : Nat) :
    z.BootKept (s.furlOff y cause) := by
  grind [State.furlOff, State.BootKept.setLevel]

theorem State.BootKept.keepTop (h : z.BootKept s) (y : Nat) (cause : Nat) :
    z.BootKept (s.keepTop y cause) := by
  grind [State.keepTop, State.BootKept.setLevel]

theorem State.BootKept.ageBit (h : z.BootKept s) (i : Nat) :
    z.BootKept (s.ageBit i) := h.same rfl

theorem State.BootKept.retireYard (h : z.BootKept s) (y : Nat) :
    z.BootKept (s.retireYard y) := by
  grind [State.retireYard, State.bootKept_mk, bootKeptParts_state, State.BootKept.setYard, State.BootKept.setLevel]

theorem State.BootKept.planYard (h : z.BootKept s) (included : Bool) (y : Nat) :
    z.BootKept (s.planYard included y) := by
  grind [State.planYard, State.BootKept.setYard, State.BootKept.keepTop, State.BootKept.ageBit, State.BootKept.retireYard]

theorem State.BootKept.marginPlan (h : z.BootKept s) (included : Bool) (ys : List Nat) :
    z.BootKept (s.marginPlan included ys) := by
  grind [State.marginPlan, State.BootKept.each, State.BootKept.setReg, State.BootKept.planYard]

theorem State.BootKept.loseWay (h : z.BootKept s) (slice way : Nat) :
    z.BootKept (s.loseWay slice way) := h.same rfl

theorem State.BootKept.sheetRuns (h : z.BootKept s) :
    z.BootKept (s.sheetRuns) := by
  grind [State.sheetRuns, State.bootKept_mk, bootKeptParts_state, State.BootKept.foldl, State.BootKept.raiseSrc]

theorem State.BootKept.railStep (h : z.BootKept s) (step : Nat) (volts : List Nat) :
    z.BootKept (s.railStep step volts).1 := h.same rfl

theorem State.BootKept.bootFuses (h : z.BootKept s) :
    z.BootKept (s.bootFuses) := by
  grind [State.bootFuses, State.bootKept_mk, bootKeptParts_state, State.BootKept.each, State.BootKept.setChan, State.BootKept.loseWay]

theorem State.BootKept.retested (h : z.BootKept s) (kind per : Nat) (e : StepEnd) :
    z.BootKept (s.retested kind per e) := h.same rfl

theorem State.BootKept.calibrate (h : z.BootKept s) (e : StepEnd) (pos : Nat) :
    z.BootKept (s.calibrate e pos) := by
  grind [State.calibrate, State.bootKept_mk, bootKeptParts_state, State.BootKept.foldl, State.BootKept.setYard, State.BootKept.raiseSrc,
    State.BootKept.recordFail]

theorem State.BootKept.bootHalyards (h : z.BootKept s) (e : StepEnd) :
    z.BootKept (s.bootHalyards e) := by
  grind [State.bootHalyards, State.BootKept.each, State.BootKept.recordFail, State.BootKept.retested, State.BootKept.calibrate]

theorem State.BootKept.bootHbm (h : z.BootKept s) (e : StepEnd) :
    z.BootKept (s.bootHbm e) := by
  grind [State.bootHbm, State.bootKept_mk, bootKeptParts_state, State.BootKept.each, State.BootKept.setChan, State.BootKept.raiseSrc,
    State.BootKept.recordFail, State.BootKept.bumpGen]

theorem State.BootKept.trainStay (h : z.BootKept s) (e : StepEnd) (st : Nat) :
    z.BootKept (s.trainStay e st) := by
  grind [State.trainStay, State.bootKept_mk, bootKeptParts_state, State.BootKept.raiseSrc]

theorem State.BootKept.bootStays (h : z.BootKept s) (e : StepEnd) :
    z.BootKept (s.bootStays e) := by
  grind [State.bootStays, State.bootKept_mk, bootKeptParts_state, State.BootKept.each, State.BootKept.recordFail, State.BootKept.setPort,
    State.BootKept.retested, State.BootKept.trainStay]

theorem State.BootKept.memCleared (h : z.BootKept s) : z.BootKept { s with mem := [], errs := [], gran := [], banks := [] } := h.same rfl

theorem State.BootKept.markBad (h : z.BootKept s) (i : Nat) :
    z.BootKept (if i < 18 * 256 then
      s.setYard (i / 18) { s.yard (i / 18) with bad := (s.yard (i / 18)).bad ||| BitVec.twoPow 18 (i % 18) } else s) :=
  State.BootKept.ite (h.setYard _ _) h

theorem State.BootKept.mapAndFurl (h : z.BootKept s) :
    z.BootKept ((s.each allYards State.mapYard).each allYards fun s y => s.furlOff y 9) :=
  State.BootKept.each (fun _ y hu => hu.furlOff y 9) allYards (State.BootKept.each (fun _ y hu => hu.mapYard y) allYards h)

theorem State.BootKept.step8 (h : z.BootKept s) (failed : List Nat) : z.BootKept (s.step8 failed) :=
  (State.BootKept.each (fun _ i hu => hu.markBad i) _ h).mapAndFurl.memCleared

theorem State.BootKept.endStep (h : z.BootKept s) (e : StepEnd) :
    z.BootKept (s.endStep e) := by
  grind [State.endStep, State.bootKept_mk, bootKeptParts_state, State.BootKept.sheetRuns, State.BootKept.bootFuses,
    State.BootKept.bootHalyards,
    State.BootKept.bootHbm, State.BootKept.bootStays, State.BootKept.step8]

theorem State.BootKept.unmask (h : z.BootKept s) (ns : List Nat) :
    z.BootKept (s.unmask ns) := by
  grind [State.unmask, State.bootKept_mk, bootKeptParts_state, State.BootKept.each, State.BootKept.noteDue]
end

end Sys2Proof.Machine
end

section
/-! PROOFS. What every command keeps (O59, O60): the commands of the caches, the host, the bank units and the cores. -/

namespace Sys2Proof.Machine

-- One theorem at a time, as in the tests: the proofs together take too many threads.
set_option Elab.async false

section
variable {z s t : State}
theorem Completes.next (h : z.Keeps t) : Completes z (.next t) := ⟨t, rfl, h⟩

theorem Completes.ite {o o' : Out} {p : Prop} {_ : Decidable p} (h : Completes z o) (h' : Completes z o') :
    Completes z (if p then o else o') := by
  split
  · exact h
  · exact h'

/-- A command completes when p holds, and whatever it leaves keeps them: an arm that faults on a term that is none of its row. -/
structure CompletesWhen (z : State) (p : Bool) (o : Out) : Prop where
  completes : p = true → Completes z o
  keeps : ∀ t, o = .next t → z.Keeps t

theorem Completes.when {o : Out} (h : Completes z o) (p : Bool) : CompletesWhen z p o := by
  refine ⟨fun _ => h, fun t he => ?_⟩
  obtain ⟨u, hu, hk⟩ := h
  rw [hu] at he
  exact Host.Outcome.next.inj he ▸ hk

/-- A fault taken only where p fails. -/
theorem CompletesWhen.fault {o : Out} {p : Bool} {c : Prop} {_ : Decidable c} {e : Fault} (h : Completes z o) (hc : c → p = false) :
    CompletesWhen z p (if c then .fault e else o) := by
  split
  case isTrue hp =>
    refine ⟨fun h1 => ?_, fun t he => ?_⟩
    · rw [hc hp] at h1
      cases h1
    · cases he
  case isFalse => exact h.when p

/-- The same with the fault in the other branch. -/
theorem CompletesWhen.fault_else {o : Out} {p : Bool} {c : Prop} {_ : Decidable c} {e : Fault} (h : Completes z o)
    (hc : p = true → c) : CompletesWhen z p (if c then o else .fault e) := by
  rw [← ite_not]
  exact CompletesWhen.fault h fun hn => Bool.eq_false_iff.2 fun hp => hn (hc hp)

theorem execLlcRequest_completes (h : z.Keeps s) (who : Who) (cls : Fin 5) (a : Nat) (op : LlcOp) :
    Completes z (execLlcRequest who cls a op s) := by
  grind [execLlcRequest, Completes.next, State.Keeps.llcRequest]

theorem execLlcFillReturn_completes (h : z.Keeps s) (line : Nat) :
    Completes z (execLlcFillReturn line s) := by
  grind [execLlcFillReturn, Completes.next, State.Keeps.fillReturn]

theorem execSetWritten_completes (h : z.Keeps s) (g : Nat) :
    Completes z (execSetWritten g s) := by
  grind [execSetWritten, Completes.next, State.Keeps.setWritten]

theorem execSetWrittenReply_completes (h : z.Keeps s) (g : Nat) :
    Completes z (execSetWrittenReply g s) := by
  grind [execSetWrittenReply, Completes.next, State.Keeps.setWrittenReply]

theorem execStreamTrackerRelease_completes (h : z.Keeps s) (k : SliceId) (who : Who) :
    Completes z (execStreamTrackerRelease k who s) := by
  grind [execStreamTrackerRelease, Completes.next, State.Keeps.trackHit]

theorem execDeadDrop_completes (h : z.Keeps s) (g : Nat) :
    Completes z (execDeadDrop g s) := by
  grind [execDeadDrop, Completes.next, State.Keeps.deadDrop]

theorem execDeadMarkAck_completes (h : z.Keeps s) (g : Nat) :
    Completes z (execDeadMarkAck g s) := by
  grind [execDeadMarkAck, Completes.next, State.Keeps.deadAck]

theorem execReductionApply_completes (h : z.Keeps s) (line : Nat) :
    Completes z (execReductionApply line s) := by
  grind [execReductionApply, Completes.next, State.Keeps.reductionApply]

theorem execForwardAck_completes (h : z.Keeps s) (line : Nat) :
    Completes z (execForwardAck line s) := by
  grind [execForwardAck, Completes.next, State.Keeps.forwardAck]

theorem State.Keeps.snoopDone (h : z.Keeps s) (dir : List DirEnt) (sn fr : List Nat) (rs : List LlcReq) (p : State → Bool) (g : Nat) :
    z.Keeps (
      let s : State := { s with llc := { s.llc with dir := dir, snoops := sn, frees := fr, snHeld := [] } }
      let s := rs.foldl (fun s r => s.llcServe r) s
      if p s then s.dropGran g else s) := by
  extract_lets k s1 s2
  have h1 : z.Keeps s1 := h.same rfl rfl rfl rfl
  have h2 : z.Keeps s2 := State.Keeps.foldl (fun u r hu => hu.llcServe r) rs h1
  exact State.Keeps.ite (h2.dropGran g) h2

theorem execHostSnoopResponse_completes (h : z.Keeps s) (a : Nat) (data : Option (BitVec 512)) :
    Completes z (execHostSnoopResponse a data s) := by
  unfold execHostSnoopResponse
  refine Completes.ite (.next h) (.next (State.Keeps.snoopDone ?_ _ _ _ _
    (fun s => s.llc.heldG.contains (a / 4096) && !s.snoopedFirst (a / 4096)) _))
  split
  · exact State.Keeps.ite (h.mergeHost _ _) h
  · exact h

theorem execHotSliceWindowEnd_completes (h : z.Keeps s) (k : SliceId) (occ : Nat) :
    Completes z (execHotSliceWindowEnd k occ s) := by
  grind [execHotSliceWindowEnd, Completes.next, State.keeps_mk, keepsParts_state, State.Keeps.raiseSrc]

theorem execLlcModeSet_completes (h : z.Keeps s) (w : BitVec 64) :
    Completes z (execLlcModeSet w s) := by
  grind [execLlcModeSet, Completes.next, State.Keeps.llcModeWrite]

theorem execLlcHashKeyWrite_completes (h : z.Keeps s) (k : BitVec 64) :
    Completes z (execLlcHashKeyWrite k s) := by
  grind [execLlcHashKeyWrite, Completes.next, State.Keeps.hashKeyWrite]

theorem execTailLineSnoop_completes (h : z.Keeps s) (n : StreamId) (r : HostRead) :
    Completes z (execTailLineSnoop n r s) := by
  grind [execTailLineSnoop, Completes.next, State.Keeps.takeTail]

theorem execFetchCommandLine_completes (h : z.Keeps s) (n : StreamId) (l1 l2 : HostRead) :
    Completes z (execFetchCommandLine n l1 l2 s) := by
  grind [execFetchCommandLine, Completes.next, State.keeps_mk, keepsParts_state, State.Keeps.setStrm, State.Keeps.haltStrm]

theorem execStrmCtlEn_completes (h : z.Keeps s) (n : StreamId) (en : Bool) (r : HostRead := .bad) :
    Completes z (execStrmCtlEn n en s r) := by
  grind [execStrmCtlEn, Completes.next, State.Keeps.takeTail, State.Keeps.strmEn]

theorem execStrmCtlResume_completes (h : z.Keeps s) (n : StreamId) :
    Completes z (execStrmCtlResume n s) := by
  grind [execStrmCtlResume, Completes.next, State.Keeps.strmResume]

theorem execConfigRequest_completes (h : z.Keeps s) (q : ConfigReq := .other) :
    Completes z (execConfigRequest s q) := by
  grind [execConfigRequest, Completes.next, State.keeps_mk, keepsParts_state, State.Keeps.configured]

theorem execHostMemRead_completes (h : z.Keeps s) (a n : Nat) : Completes z (execHostMemRead a n s) := by
  unfold execHostMemRead
  refine .ite (.next h) (.ite (.next (h.hostOut _ _)) (.ite (.next (h.hostOut _ _)) (.ite (.next (h.hostOut _ _)) ?_)))
  have hr := h.readAt .host 2 a n
  split
  next u x heq =>
    have hu : z.Keeps u := hr.ok_eq heq
    split
    next v bs he =>
      have hv : z.Keeps v := (hu.hideUpd false a x.1).pair he
      refine .next (State.Keeps.hostOut ?_ _ _)
      split
      · exact hv.trackHost a
      · exact hv
  next u _ heq => exact .next (hr.fault_eq heq)
  · exact .next (h.addSnoops _)

theorem execHostMemWrite_completes (h : z.Keeps s) (a : Nat) (bs : List Byte) (poison : Bool) :
    Completes z (execHostMemWrite a bs poison s) := by
  unfold execHostMemWrite
  refine .ite (.next h) (.ite (.next h) ?_)
  split
  next v ys he =>
    have hv : z.Keeps v := (h.hideUpd true a bs).pair he
    have hr := hv.writeAt .host 2 a ys
    split
    next u x heq =>
      have hu : z.Keeps u := hr.ok_eq heq
      exact .next (State.Keeps.ite (hu.poisonWords a _) hu)
    next u _ heq => exact .next (hr.fault_eq heq)
    · exact .next (hv.addSnoops _)

theorem State.withLine_completes (h : z.Keeps s) (op : Nat) (p : CRec → Bool) {f : CRec → State → State}
    (hf : ∀ r u, z.Keeps u → z.Keeps (f r u)) : Completes z (s.withLine op p f) := by
  grind [State.withLine, Completes.next, State.Keeps.popLine]

theorem execLinePass_completes (h : z.Keeps s) (now : Nat) : Completes z (execLinePass now s) := by
  unfold execLinePass
  extract_lets now' ok
  clear_value ok
  split
  · exact .next h
  next n _ =>
    refine .ite (.next h) ?_
    extract_lets k
    split
    · exact .next h
    next r rest _ =>
      have h1 := ((h.setStrm n { s.strm n with fetched := rest, fence := r.op = 8 }).seeTick now')
      refine .ite (.next ((h1.setAdm _).setAdm _)) ?_
      split
      · exact .next ((h1.setAdm _).conclude _ _)
      · exact .next (h1.setAdm _)

theorem execTelltaleMeasurement_completes (h : z.Keeps s) (y : YardId) (t : Telltale) :
    Completes z (execTelltaleMeasurement y t s) := by
  grind [execTelltaleMeasurement, Completes.next, State.keeps_mk, keepsParts_state, State.Keeps.setYard]

theorem execMarginPlan_completes (h : z.Keeps s) :
    Completes z (execMarginPlan s) := by
  grind [execMarginPlan, Completes.next, State.Keeps.marginPlan]

theorem execTelltaleGuardRaise_completes (h : z.Keeps s) (y : YardId) (limit : Bool) :
    Completes z (execTelltaleGuardRaise y limit s) := by
  grind [execTelltaleGuardRaise, Completes.next, State.keeps_mk, keepsParts_state, State.Keeps.setYard, State.Keeps.yardEvent,
    State.Keeps.markYard, State.Keeps.ageBit]

theorem State.onWindow_completes (h : z.Keeps s) (c : Nat) {f : State → State} (hf : z.Keeps (f s)) : Completes z (s.onWindow c f) :=
  .next (State.Keeps.ite h hf)

theorem execBankmodeWrite_completes (h : z.Keeps s) (c : CoreId) (w : BitVec 64) : Completes z (execBankmodeWrite c w s) :=
  State.onWindow_completes h c (h.bankModeWrite c w)

theorem execBankUnitModeEffect_completes (h : z.Keeps s) (c : CoreId) (b : BankId) :
    Completes z (execBankUnitModeEffect c b s) := by
  grind [execBankUnitModeEffect, Completes.next, State.keeps_mk, keepsParts_state, State.Keeps.setBank]

theorem execBankNormalModeEffect_completes (h : z.Keeps s) (c : CoreId) (b : BankId) :
    Completes z (execBankNormalModeEffect c b s) := by
  grind [execBankNormalModeEffect, Completes.next, State.keeps_mk, keepsParts_state, State.Keeps.setBank, State.Keeps.releaseBank,
    State.Keeps.dropQueued, State.Keeps.stopRun]

theorem execBankUnitAbort_completes (h : z.Keeps s) (c : CoreId) (b : BankId) : Completes z (execBankUnitAbort c b s) :=
  State.onWindow_completes h c ((h.abortBank c b).releaseBank c b)

theorem execQueuedCommandStart_completes (h : z.Keeps s) (c : CoreId) (b : BankId) :
    Completes z (execQueuedCommandStart c b s) := by
  grind [execQueuedCommandStart, Completes.next, State.Keeps.releaseBank, State.Keeps.settleBank]

theorem execBankUnitCommandEnd_completes (h : z.Keeps s) (c : CoreId) (b : BankId) :
    Completes z (execBankUnitCommandEnd c b s) := by
  grind [execBankUnitCommandEnd, Completes.next, State.Keeps.releaseBank, State.Keeps.bankFinish]

theorem execSafePoint_completes (h : z.Keeps s) (c : CoreId) (b : BankId) (upto : Nat) :
    Completes z (execSafePoint c b upto s) := by
  grind [execSafePoint, Completes.next, State.Keeps.bankWork, State.Keeps.atSafePoint]

theorem execChainStreamArrival_completes (h : z.Keeps s) (c : CoreId) (b : BankId) :
    Completes z (execChainStreamArrival c b s) := by
  grind [execChainStreamArrival, Completes.next, State.Keeps.chainArrive]

theorem execChainBreak_completes (h : z.Keeps s) (c : CoreId) (b : BankId) :
    Completes z (execChainBreak c b s) := by
  grind [execChainBreak, Completes.next, State.Keeps.chainBroken]

theorem State.Keeps.masterDown (h : z.Keeps s) (m : Nat) :
    z.Keeps (({ s with net := { s.net with dead := s.net.dead ||| BitVec.twoPow 4 m } } : State).markMast m) :=
  have h1 : z.Keeps ({ s with net := { s.net with dead := s.net.dead ||| BitVec.twoPow 4 m } } : State) := h.same rfl rfl rfl rfl
  h1.markMast m

theorem execFlitRetransmission_completes (h : z.Keeps s) (l : Link) (dir : Fin 2) (wire win : Nat) :
    Completes z (execFlitRetransmission l dir wire win s) := by
  unfold execFlitRetransmission
  refine .ite (.next h) ?_
  extract_lets key w errs n fails bad s0 s1 s2 s3
  have h1 : z.Keeps s1 := h.same rfl rfl rfl rfl
  have h2 : z.Keeps s2 := h1.recordFail 2 _
  exact .ite (.next h1) (.ite (.next h2) (.ite (.next (h2.linkHalf l)) (.next ((h2.linkHalf l).masterDown _))))

theorem execStayLaneFailed_completes (h : z.Keeps s) (st : StayId) (dir : Fin 2) (lane : Fin 272) :
    Completes z (execStayLaneFailed st dir lane s) := by
  unfold execStayLaneFailed
  extract_lets key w bad g out s0 s1 n2 s2
  have h0 : z.Keeps ({ s with net := { s.net with stays := tset {} s.net.stays key { w with bad := bad } } } : State) :=
    h.same rfl rfl rfl rfl
  have h1 : z.Keeps s1 := h0.recordFail 3 _
  have h2 : z.Keeps s2 := h1.same rfl rfl rfl rfl
  exact .ite (.next h) (.ite (.next ((h2.bumpGen.faultTick .stayLanes).raiseSrc _)) (.next h1))

theorem execRouterWindowEnd_completes (h : z.Keeps s) (r : Router) (loads : List LinkLoad) (temp : Nat) :
    Completes z (execRouterWindowEnd r loads temp s) := by
  grind [execRouterWindowEnd, Completes.next, State.keeps_mk, keepsParts_state, State.Keeps.raiseSrc]

theorem execCorePllLoss_completes (h : z.Keeps s) (y : YardId) :
    Completes z (execCorePllLoss y s) := by
  grind [execCorePllLoss, Completes.next, State.Keeps.yardEvent, State.Keeps.markYard]

theorem execNetworkPllLoss_completes (h : z.Keeps s) (y : YardId) :
    Completes z (execNetworkPllLoss y s) := by
  grind [execNetworkPllLoss, Completes.next, State.keeps_mk, keepsParts_state, State.Keeps.setYard, State.Keeps.yardEvent,
    State.Keeps.faultBegin]

theorem execNetworkPllRelock_completes (h : z.Keeps s) (y : YardId) (ok : Bool) :
    Completes z (execNetworkPllRelock y ok s) := by
  grind [execNetworkPllRelock, Completes.next, State.keeps_mk, keepsParts_state, State.Keeps.setYard, State.Keeps.faultEnd,
    State.Keeps.faultTick, State.Keeps.markYard]

theorem execSpreaderReferenceLoss_completes (h : z.Keeps s) (m : MastId) :
    Completes z (execSpreaderReferenceLoss m s) := by
  unfold execSpreaderReferenceLoss
  grind [execSpreaderReferenceLoss, Completes.next, State.keeps_mk, keepsParts_state, State.Keeps.raiseSrc, State.Keeps.faultTick]

theorem execDmaCp_completes (h : z.Keeps s) (c : CoreId) (f : FmtE) :
    Completes z (execDmaCp c f s) := by
  grind [execDmaCp, Completes.next, State.Keeps.issueE]

theorem execDmaSkew_completes (h : z.Keeps s) (c : CoreId) (f : FmtE) :
    Completes z (execDmaSkew c f s) := by
  grind [execDmaSkew, Completes.next, State.Keeps.issueE]

theorem execRedLlc_completes (h : z.Keeps s) (c : CoreId) (f : FmtE) :
    Completes z (execRedLlc c f s) := by
  grind [execRedLlc, Completes.next, State.Keeps.issueE]

theorem execDead_completes (h : z.Keeps s) (c : CoreId) (f : FmtE) :
    Completes z (execDead c f s) := by
  grind [execDead, Completes.next, State.Keeps.issueE]

theorem execHalRd_completes (h : z.Keeps s) (c : CoreId) (f : FmtE) :
    Completes z (execHalRd c f s) := by
  grind [execHalRd, Completes.next, State.Keeps.issueE]

theorem execHalWr_completes (h : z.Keeps s) (c : CoreId) (f : FmtE) :
    Completes z (execHalWr c f s) := by
  grind [execHalWr, Completes.next, State.Keeps.issueE]

theorem execMxload_completes (h : z.Keeps s) (c : CoreId) (f : FmtE) :
    Completes z (execMxload c f s) := by
  grind [execMxload, Completes.next, State.keeps_mk, keepsParts_state, State.Keeps.issueE]

theorem execMma_completes (h : z.Keeps s) (c : CoreId) (f : FmtE) :
    Completes z (execMma c f s) := by
  grind [execMma, Completes.next, State.Keeps.issueE]

theorem execMmaT_completes (h : z.Keeps s) (c : CoreId) (f : FmtE) :
    Completes z (execMmaT c f s) := by
  grind [execMmaT, Completes.next, State.Keeps.issueE]

theorem execAccClr_completes (h : z.Keeps s) (c : CoreId) (f : FmtE) :
    Completes z (execAccClr c f s) := by
  grind [execAccClr, Completes.next, State.Keeps.issueE]

theorem execAccRd_completes (h : z.Keeps s) (c : CoreId) (f : FmtE) :
    Completes z (execAccRd c f s) := by
  grind [execAccRd, Completes.next, State.Keeps.issueE]

theorem execLd_completes (h : z.Keeps s) (c : CoreId) (f : FmtM) :
    Completes z (execLd c f s) := by
  grind [execLd, Completes.next, State.Keeps.issue, State.Keeps.doLoad]

theorem execSt_completes (h : z.Keeps s) (c : CoreId) (f : FmtM) :
    Completes z (execSt c f s) := by
  grind [execSt, Completes.next, State.Keeps.issue, State.Keeps.doStore]

theorem execAdd_completes (h : z.Keeps s) (c : CoreId) (f : Alu) :
    Completes z (execAdd c f s) := by
  grind [execAdd, Completes.next, State.Keeps.alu]

theorem execSub_completes (h : z.Keeps s) (c : CoreId) (f : Alu) :
    Completes z (execSub c f s) := by
  grind [execSub, Completes.next, State.Keeps.alu]

theorem execMul_completes (h : z.Keeps s) (c : CoreId) (f : Alu) :
    Completes z (execMul c f s) := by
  grind [execMul, Completes.next, State.Keeps.alu]

theorem execAnd_completes (h : z.Keeps s) (c : CoreId) (f : Alu) :
    Completes z (execAnd c f s) := by
  grind [execAnd, Completes.next, State.Keeps.alu]

theorem execOr_completes (h : z.Keeps s) (c : CoreId) (f : Alu) :
    Completes z (execOr c f s) := by
  grind [execOr, Completes.next, State.Keeps.alu]

theorem execXor_completes (h : z.Keeps s) (c : CoreId) (f : Alu) :
    Completes z (execXor c f s) := by
  grind [execXor, Completes.next, State.Keeps.alu]

theorem execShl_completes (h : z.Keeps s) (c : CoreId) (f : Alu) :
    Completes z (execShl c f s) := by
  grind [execShl, Completes.next, State.Keeps.alu]

theorem execShr_completes (h : z.Keeps s) (c : CoreId) (f : Alu) :
    Completes z (execShr c f s) := by
  grind [execShr, Completes.next, State.Keeps.alu]

theorem execCmp_completes (h : z.Keeps s) (c : CoreId) (f : Alu) :
    Completes z (execCmp c f s) := by
  grind [execCmp, Completes.next, State.Keeps.issue, State.Keeps.doCmp]

theorem execMov_completes (h : z.Keeps s) (c : CoreId) (f : FmtI) :
    Completes z (execMov c f s) := by
  grind [execMov, Completes.next, State.Keeps.issue, State.Keeps.doMov]

theorem execDset_completes (h : z.Keeps s) (c : CoreId) (f : FmtI) :
    Completes z (execDset c f s) := by
  grind [execDset, Completes.next, State.Keeps.issue, State.Keeps.doDset]

theorem execBr_completes (h : z.Keeps s) (c : CoreId) (f : FmtB) :
    Completes z (execBr c f s) := by
  grind [execBr, Completes.next, State.Keeps.jump, State.Keeps.issue]

theorem execBrp_completes (h : z.Keeps s) (c : CoreId) (f : FmtB) :
    Completes z (execBrp c f s) := by
  grind [execBrp, Completes.next, State.Keeps.advance, State.Keeps.jump, State.Keeps.issue]

theorem execCall_completes (h : z.Keeps s) (c : CoreId) (f : FmtB) :
    Completes z (execCall c f s) := by
  grind [execCall, Completes.next, State.Keeps.issue, State.Keeps.doCall]

theorem execRet_completes (h : z.Keeps s) (c : CoreId) (f : FmtB) :
    Completes z (execRet c f s) := by
  grind [execRet, Completes.next, State.Keeps.issue, State.Keeps.doRet]

theorem execSelTopk_completes (h : z.Keeps s) (c : CoreId) (f : FmtE) :
    Completes z (execSelTopk c f s) := by
  grind [execSelTopk, Completes.next, State.Keeps.issueE]

theorem execSelMerge_completes (h : z.Keeps s) (c : CoreId) (f : FmtE) :
    Completes z (execSelMerge c f s) := by
  grind [execSelMerge, Completes.next, State.Keeps.issueE]

theorem execLkuLoad_completes (h : z.Keeps s) (c : CoreId) (f : FmtE) :
    Completes z (execLkuLoad c f s) := by
  grind [execLkuLoad, Completes.next, State.keeps_mk, keepsParts_state, State.Keeps.issueE]

theorem execLkuSwap_completes (h : z.Keeps s) (c : CoreId) (f : FmtE) :
    Completes z (execLkuSwap c f s) := by
  grind [execLkuSwap, Completes.next, State.keeps_mk, keepsParts_state, State.Keeps.issueE]

theorem execLkuPq_completes (h : z.Keeps s) (c : CoreId) (f : FmtE) :
    Completes z (execLkuPq c f s) := by
  grind [execLkuPq, Completes.next, State.Keeps.issueE]

theorem execFenceL_completes (h : z.Keeps s) (c : CoreId) (f : FmtC) :
    Completes z (execFenceL c f s) := by
  grind [execFenceL, Completes.next, State.Keeps.setCore, State.Keeps.advance, State.Keeps.issue]

theorem execFenceR_completes (h : z.Keeps s) (c : CoreId) (f : FmtC) :
    Completes z (execFenceR c f s) := by
  grind [execFenceR, Completes.next, State.Keeps.advance, State.Keeps.issue]

theorem execInvL1_completes (h : z.Keeps s) (c : CoreId) (f : FmtC) :
    Completes z (execInvL1 c f s) := by
  grind [execInvL1, Completes.next, State.Keeps.setCore, State.Keeps.advance, State.Keeps.issue]

theorem execBar_completes (h : z.Keeps s) (c : CoreId) (f : FmtC) :
    Completes z (execBar c f s) := by
  grind [execBar, Completes.next, State.Keeps.issue, State.Keeps.doBar]

theorem execWait_completes (h : z.Keeps s) (c : CoreId) (f : FmtC) :
    CompletesWhen z (!f.fn.getLsbD 0) (execWait c f s) :=
  .fault (.next (h.issue _ _ _ _ _ fun u hu => by grind [State.Keeps.advance])) fun hp => by rw [hp]; rfl

theorem State.Keeps.issueWaitSignalAt (h : z.Keeps s) (c : Nat) (f : FmtC) (i : Instr) (long bad : Bool) (g : BitVec 5) (a : Nat) :
    z.Keeps (s.issue c i long bad g fun s => s.waitSignalAt c f a) := h.issue _ _ _ _ _ fun _ hu => hu.waitSignalAt c f a

theorem State.doWaitSignal_fun (c : Nat) (f : FmtC) :
    (fun s : State => s.doWaitSignal c f) = fun s => s.waitSignalAt c f (lockerAddr c signalOff) :=
  funext fun u => u.doWaitSignal_eq c f

theorem State.Keeps.issueWaitSignal (h : z.Keeps s) (c : Nat) (f : FmtC) (i : Instr) (long bad : Bool) (g : BitVec 5) :
    z.Keeps (s.issue c i long bad g fun s => s.doWaitSignal c f) := by
  rw [State.doWaitSignal_fun]
  exact h.issueWaitSignalAt c f i long bad g _

theorem execWaitSignal_completes (h : z.Keeps s) (c : CoreId) (f : FmtC) :
    CompletesWhen z (f.fn.getLsbD 0) (execWaitSignal c f s) :=
  .fault (.next (h.issueWaitSignal c f _ _ _ _)) fun hp => by rwa [Bool.not_eq_true'] at hp

theorem execWaitall_completes (h : z.Keeps s) (c : CoreId) (f : FmtC) :
    Completes z (execWaitall c f s) := by
  grind [execWaitall, Completes.next, State.Keeps.advance, State.Keeps.issue]

theorem execSignal_completes (h : z.Keeps s) (c : CoreId) (f : FmtC) :
    CompletesWhen z (!f.fn.getLsbD 0) (execSignal c f s) :=
  .fault (.next (h.issue _ _ _ _ _ fun u hu => hu.doSignal c f)) fun hp => by rw [hp]; rfl

theorem execSignalEv_completes (h : z.Keeps s) (c : CoreId) (f : FmtC) :
    CompletesWhen z (f.fn.getLsbD 0) (execSignalEv c f s) :=
  .fault (.next (h.issue _ _ _ _ _ fun u hu => hu.postSignal c _)) fun hp => by rwa [Bool.not_eq_true'] at hp

theorem execVnormRms_completes (h : z.Keeps s) (c : CoreId) (f : FmtE) :
    Completes z (execVnormRms c f s) := by
  grind [execVnormRms, Completes.next, State.Keeps.issueE]

theorem execSfuTanh_completes (h : z.Keeps s) (c : CoreId) (f : FmtV) :
    Completes z (execSfuTanh c f s) := by
  grind [execSfuTanh, Completes.next, State.Keeps.issueV]

theorem execSfuSig_completes (h : z.Keeps s) (c : CoreId) (f : FmtV) :
    Completes z (execSfuSig c f s) := by
  grind [execSfuSig, Completes.next, State.Keeps.issueV]

theorem execSfuExp2_completes (h : z.Keeps s) (c : CoreId) (f : FmtV) :
    Completes z (execSfuExp2 c f s) := by
  grind [execSfuExp2, Completes.next, State.Keeps.issueV]

theorem execSfuRsq_completes (h : z.Keeps s) (c : CoreId) (f : FmtV) :
    Completes z (execSfuRsq c f s) := by
  grind [execSfuRsq, Completes.next, State.Keeps.issueV]

theorem execSfuRcp_completes (h : z.Keeps s) (c : CoreId) (f : FmtV) :
    Completes z (execSfuRcp c f s) := by
  grind [execSfuRcp, Completes.next, State.Keeps.issueV]
end

end Sys2Proof.Machine
end

section
/-! PROOFS. What every command keeps (O59, O60): the commands of the engines, the rigs and the device. -/

namespace Sys2Proof.Machine

-- One theorem at a time, as in the tests: the proofs together take too many threads.
set_option Elab.async false

section
variable {z s t : State}

theorem execEngineOpStart_completes (h : z.Keeps s) (c : CoreId) (e : Eng) :
    Completes z (execEngineOpStart c e s) := by
  grind [execEngineOpStart, Completes.next, State.keeps_mk, keepsParts_state, State.Keeps.setCore, State.Keeps.endOp]

theorem execEngineOpComplete_completes (h : z.Keeps s) (c : CoreId) (e : Eng) (i : Nat) :
    Completes z (execEngineOpComplete c e i s) := by
  grind [execEngineOpComplete, Completes.next, State.Keeps.setCore, State.Keeps.finishOp, State.Keeps.cutOp]

theorem execStopDrainDone_completes (h : z.Keeps s) (c : CoreId) :
    Completes z (execStopDrainDone c s) := by
  grind [execStopDrainDone, Completes.next, State.keeps_mk, keepsParts_state, State.Keeps.setCore]

theorem execStopReport_completes (h : z.Keeps s) (c : CoreId) :
    Completes z (execStopReport c s) := by
  grind [execStopReport, Completes.next, State.Keeps.report]

theorem execCoreEndReport_completes (h : z.Keeps s) (c : CoreId) :
    Completes z (execCoreEndReport c s) := by
  grind [execCoreEndReport, Completes.next, State.keeps_mk, keepsParts_state, State.Keeps.setCore, State.Keeps.settle, State.Keeps.modCmd]

theorem execDispatch_completes (h : z.Keeps s) (c : CoreId) :
    Completes z (execDispatch c s) := by
  grind [execDispatch, Completes.next, State.keeps_mk, keepsParts_state, State.Keeps.setCore, State.Keeps.lockerWrite]

theorem execSignalOrArrival_completes (h : z.Keeps s) (c : CoreId) : Completes z (execSignalOrArrival c s) := by
  unfold execSignalOrArrival
  refine .ite (.next h) ?_
  split
  · exact .next h
  next i _ =>
    split
    · exact .next h
    next p _ =>
      have h1 : z.Keeps { s.signalArrive c p.p with free := s.free + 1 } := (h.signalArrive c p.p).free _
      exact .ite (.next h) (.next (h1.setCore c _))

theorem execStoreAcknowledgement_completes (h : z.Keeps s) (c : CoreId) : Completes z (execStoreAcknowledgement c s) := by
  unfold execStoreAcknowledgement
  refine .ite (.next h) ?_
  split
  · exact .next h
  next i _ =>
    split
    · exact .next h
    next p _ =>
      have hr := h.performPost c p
      split
      next u _ he =>
        have h1 : z.Keeps { u with free := u.free + 1 } := (hr.ok_eq he).free _
        exact .next (h1.setCore c _)
      next u _ he => exact .next (hr.fault_eq he)
      · exact .next (h.addSnoops _)

theorem execBarrierArrival_completes (h : z.Keeps s) (c : CoreId) :
    Completes z (execBarrierArrival c s) := by
  grind [execBarrierArrival, Completes.next, State.keeps_mk, keepsParts_state, State.Keeps.modCmd]

theorem execBarrierRelease_completes (h : z.Keeps s) (r : RigId) (g : Fin 16) :
    Completes z (execBarrierRelease r g s) := by
  grind [execBarrierRelease, Completes.next, State.keeps_mk, keepsParts_state, State.Keeps.each, State.Keeps.setCore,
    State.Keeps.advance, State.Keeps.modCmd]

theorem execCoreMarkedDown_completes (h : z.Keeps s) (c : CoreId) :
    Completes z (execCoreMarkedDown c s) := by
  grind [execCoreMarkedDown, Completes.next, State.Keeps.markDown]

theorem execL1Fill_completes (h : z.Keeps s) (c : CoreId) (instr : Bool) (a : Nat) : Completes z (execL1Fill c instr a s) := by
  unfold execL1Fill
  generalize (2 : Nat) ^ 48 = lim
  revert lim
  refine fun lim => .ite (.next h) (.ite ?_ (.ite (.next h) ?_))
  · have hr := h.fetchLine c a
    split
    next heq => exact .next (hr.ok_eq heq)
    next heq => exact .next (hr.fault_eq heq)
    · exact .next (h.addSnoops _)
  · have hr := h.l1Fetch c a 1
    split
    next heq => exact .next (hr.ok_eq heq)
    next heq => exact .next (hr.fault_eq heq)
    · exact .next (h.addSnoops _)

theorem execLockerRemoteAccess_completes (h : z.Keeps s) (who : Who) (c : CoreId) (off : Nat) (op : MemOp) :
    Completes z (execLockerRemoteAccess who c off op s) := by
  unfold execLockerRemoteAccess
  split <;> grind [execLockerRemoteAccess, Completes.next, State.keeps_mk, keepsParts_state, State.Keeps.lockerRead,
    State.Keeps.lockerWrite]

theorem execSetcap_completes (h : z.Keeps s) :
    Completes z (execSetcap s) := by
  grind [execSetcap, Completes.next, State.withLine_completes, State.Keeps.critical, State.Keeps.setcap]

theorem execKeyopActivate_completes (h : z.Keeps s) :
    Completes z (execKeyopActivate s) := by
  grind [execKeyopActivate, Completes.next, State.Keeps.conclude, State.withLine_completes, State.Keeps.critical, State.Keeps.activate]

theorem execRun_completes (h : z.Keeps s) :
    Completes z (execRun s) := by
  grind [execRun, Completes.next, State.withLine_completes, State.Keeps.runLine]

theorem execCopyCommand_completes (h : z.Keeps s) :
    Completes z (execCopyCommand s) := by
  grind [execCopyCommand, Completes.next, State.Keeps.admitTo, State.withLine_completes, State.Keeps.checked]

theorem execFillCommand_completes (h : z.Keeps s) :
    Completes z (execFillCommand s) := by
  grind [execFillCommand, Completes.next, State.Keeps.admitTo, State.withLine_completes, State.Keeps.checked]

theorem execScrub_completes (h : z.Keeps s) :
    Completes z (execScrub s) := by
  grind [execScrub, Completes.next, State.withLine_completes, State.Keeps.checked, State.Keeps.placeScrub]

theorem execSearch_completes (h : z.Keeps s) :
    Completes z (execSearch s) := by
  grind [execSearch, Completes.next, State.Keeps.admitTo, State.withLine_completes, State.Keeps.checked]

theorem execTable_completes (h : z.Keeps s) :
    Completes z (execTable s) := by
  grind [execTable, Completes.next, State.Keeps.admitTo, State.withLine_completes, State.Keeps.checked]

theorem execFence_completes (h : z.Keeps s) :
    Completes z (execFence s) := by
  grind [execFence, Completes.next, State.Keeps.conclude, State.withLine_completes, State.Keeps.checked]

theorem execNop_completes (h : z.Keeps s) :
    Completes z (execNop s) := by
  grind [execNop, Completes.next, State.Keeps.conclude, State.withLine_completes, State.Keeps.checked]

theorem execPerf_completes (h : z.Keeps s) :
    Completes z (execPerf s) := by
  grind [execPerf, Completes.next, State.Keeps.conclude, State.Keeps.admitTo, State.withLine_completes, State.Keeps.doPerf,
    State.Keeps.checked]

theorem execRerankerDispatch_completes (h : z.Keeps s) (r : RigId) :
    Completes z (execRerankerDispatch r s) := by
  grind [execRerankerDispatch, Completes.next, State.keeps_mk, keepsParts_state, Res.Keeps, State.Keeps.modCmd, State.Keeps.endRunning,
    State.Keeps.feWrite, State.Keeps.orWait, State.Keeps.startCores]

theorem execAbortPoint_completes (h : z.Keeps s) (r : RigId) (now : Nat) :
    Completes z (execAbortPoint r now s) := by
  grind [execAbortPoint, Completes.next, State.Keeps.stopRunning, State.Keeps.seeTick, State.Keeps.dropWaiting]

theorem execCmaxExpiry_completes (h : z.Keeps s) (r : RigId) (now : Nat) :
    Completes z (execCmaxExpiry r now s) := by
  grind [execCmaxExpiry, Completes.next, State.Keeps.stopRunning, State.Keeps.seeTick]

theorem execFaultIntervalStart_completes (h : z.Keeps s) (f : HwFault) :
    Completes z (execFaultIntervalStart f s) := by
  grind [execFaultIntervalStart, Completes.next, State.Keeps.faultBegin, State.Keeps.faultTick, State.Keeps.holdHalyard]

theorem execFaultIntervalEnd_completes (h : z.Keeps s) (f : HwFault) :
    Completes z (execFaultIntervalEnd f s) := by
  grind [execFaultIntervalEnd, Completes.next, State.Keeps.faultEnd, State.Keeps.holdHalyard]

theorem execFloorChangeEffect_completes (h : z.Keeps s) :
    Completes z (execFloorChangeEffect s) := by
  grind [execFloorChangeEffect, Completes.next, State.Keeps.settleFloors]

theorem execStrmCtlAbort_completes (h : z.Keeps s) (n : StreamId) :
    Completes z (execStrmCtlAbort n s) := by
  grind [execStrmCtlAbort, Completes.next, State.Keeps.strmAbort]

theorem execReduce_completes (h : z.Keeps s) :
    Completes z (execReduce s) := by
  grind [execReduce, Completes.next, State.withLine_completes, State.Keeps.updLine]

theorem execSend_completes (h : z.Keeps s) :
    Completes z (execSend s) := by
  grind [execSend, Completes.next, State.withLine_completes, State.Keeps.updLine]

theorem execRecv_completes (h : z.Keeps s) :
    Completes z (execRecv s) := by
  grind [execRecv, Completes.next, State.withLine_completes, State.Keeps.updLine]

theorem execBarrier_completes (h : z.Keeps s) :
    Completes z (execBarrier s) := by
  grind [execBarrier, Completes.next, State.withLine_completes, State.Keeps.updLine]

theorem execRendezvous_completes (h : z.Keeps s) (r : RigId) (send : Bool) (peer : Rdv) :
    Completes z (execRendezvous r send peer s) := by
  grind [execRendezvous, Completes.next, State.keeps_mk, keepsParts_state, State.Keeps.modCmd, State.Keeps.endRunning,
    State.Keeps.ringDone, State.Keeps.startSend]

theorem execWireBlockArrival_completes (h : z.Keeps s) (r : RigId) (data : List Byte) :
    Completes z (execWireBlockArrival r data s) := by
  grind [execWireBlockArrival, Completes.next, State.Keeps.recvWords, State.Keeps.recvBlock]

theorem execPahusPortDown_completes (h : z.Keeps s) (p : PortId) :
    Completes z (execPahusPortDown p s) := by
  grind [execPahusPortDown, Completes.next, State.Keeps.portDown]

theorem execPortEnable_completes (h : z.Keeps s) (pen present : BitVec 6) :
    Completes z (execPortEnable pen present s) := by
  grind [execPortEnable, Completes.next, State.Keeps.portEnable]

theorem execCascRankWrite_completes (h : z.Keeps s) (r : BitVec 6) :
    Completes z (execCascRankWrite r s) := by
  grind [execCascRankWrite, Completes.next, State.Keeps.rankWrite]

theorem execPahusRetransmission_completes (h : z.Keeps s) (p : PortId) :
    Completes z (execPahusRetransmission p s) := by
  grind [execPahusRetransmission, Completes.next, State.keeps_mk, keepsParts_state, State.Keeps.setPort]

theorem execPahusLaneFailed_completes (h : z.Keeps s) (p : PortId) (lane : Fin 17) :
    Completes z (execPahusLaneFailed p lane s) := by
  grind [execPahusLaneFailed, Completes.next, State.keeps_mk, keepsParts_state, State.Keeps.raiseSrc, State.Keeps.setPort,
    State.Keeps.bumpGen, State.Keeps.portDown]

theorem execPortTrainingDone_completes (h : z.Keeps s) (p : PortId) :
    Completes z (execPortTrainingDone p s) := by
  grind [execPortTrainingDone, Completes.next, State.keeps_mk, keepsParts_state, State.Keeps.setPort]

theorem execPeerAttestationDone_completes (h : z.Keeps s) (p : PortId) (digest : BitVec 256) (signed : Bool) (rank : BitVec 6) (port :
    BitVec 3) :
    Completes z (execPeerAttestationDone p digest signed rank port s) := by
  grind [execPeerAttestationDone, Completes.next, State.keeps_mk, keepsParts_state, State.Keeps.raiseSrc, State.Keeps.setPort,
    State.Keeps.endUpdates]

theorem execCascadeReleaseSend_completes (h : z.Keeps s) (tag : BitVec 8) (rank : BitVec 6) (now : Nat) :
    Completes z (execCascadeReleaseSend tag rank now s) := by
  unfold execCascadeReleaseSend
  grind [execCascadeReleaseSend, Completes.next, State.keeps_mk, keepsParts_state, State.Keeps.seeTick, State.Keeps.sendTo,
    State.Keeps.setBar, State.Keeps.reopen, State.Keeps.released]

theorem execCascadeReleaseArrival_completes (h : z.Keeps s) (tag : BitVec 8) (rank : BitVec 6 := 0) (due : Nat := 0) :
    Completes z (execCascadeReleaseArrival tag s rank due) := by
  grind [execCascadeReleaseArrival, Completes.next, State.Keeps.sendTo, State.Keeps.released]

theorem execBarrierArrivalMessage_completes (h : z.Keeps s) (rank : BitVec 6) (tag : BitVec 8) (released : Bool) (delay : Nat) :
    Completes z (execBarrierArrivalMessage rank tag released delay s) := by
  grind [execBarrierArrivalMessage, Completes.next, State.Keeps.sendUp, State.Keeps.countArrival, State.Keeps.released]

theorem execConfigurationReceived_completes (h : z.Keeps s) (epoch : BitVec 32) (master standby : BitVec 6) (hasStandby : Bool) (nmem :
    BitVec 6) :
    Completes z (execConfigurationReceived epoch master standby hasStandby nmem s) := by
  grind [execConfigurationReceived, Completes.next, State.keeps_mk, keepsParts_state, State.Keeps.raiseSrc, State.Keeps.floodConfig,
    State.Keeps.rearrive]

theorem execHeartbeatSend_completes (h : z.Keeps s) :
    Completes z (execHeartbeatSend s) := by
  grind [execHeartbeatSend, Completes.next, State.keeps_mk, keepsParts_state, State.Keeps.flood]

theorem execHeartbeatReceived_completes (h : z.Keeps s) (epoch : BitVec 32) (seq : Nat) :
    Completes z (execHeartbeatReceived epoch seq s) := by
  grind [execHeartbeatReceived, Completes.next, State.keeps_mk, keepsParts_state, State.Keeps.flood]

theorem execHeartbeatTimeout_completes (h : z.Keeps s) : Completes z (execHeartbeatTimeout s) := by
  unfold execHeartbeatTimeout
  extract_lets c s1
  have h1 : z.Keeps s1 := h.same rfl rfl rfl rfl
  exact .ite (.next h) (.next (h1.raiseSrc 774).floodConfig.rearrive)

theorem execKeyopCascade_completes (h : z.Keeps s) :
    Completes z (execKeyopCascade s) := by
  grind [execKeyopCascade, Completes.next, State.Keeps.conclude, State.withLine_completes, State.Keeps.critical, State.Keeps.configure]

theorem execKeyopPin_completes (h : z.Keeps s) :
    Completes z (execKeyopPin s) := by
  grind [execKeyopPin, Completes.next, State.Keeps.conclude, State.withLine_completes, State.Keeps.critical, State.Keeps.setPin]

theorem execDelayProbeSend_completes (h : z.Keeps s) (p : PortId) (t1 : Nat) :
    Completes z (execDelayProbeSend p t1 s) := by
  grind [execDelayProbeSend, Completes.next, State.keeps_mk, keepsParts_state, State.Keeps.setPort, State.Keeps.sendMsg]

theorem execDelayProbeReceived_completes (h : z.Keeps s) (p : PortId) (arrive leave : Nat) :
    Completes z (execDelayProbeReceived p arrive leave s) := by
  grind [execDelayProbeReceived, Completes.next, State.Keeps.sendMsg, State.Keeps.arrive]

theorem execDelayProbeEcho_completes (h : z.Keeps s) (p : PortId) (t2 held : Nat) :
    Completes z (execDelayProbeEcho p t2 held s) := by
  grind [execDelayProbeEcho, Completes.next, State.keeps_mk, keepsParts_state, State.Keeps.setPort]

theorem execPlanDispatch_completes (h : z.Keeps s) (r : RigId) (now : Nat) :
    Completes z (execPlanDispatch r now s) := by
  grind [execPlanDispatch, Completes.next, State.Keeps.dispatchNext, State.Keeps.startUpdate]

theorem execRerig_completes (h : z.Keeps s) (plan : Option (List Byte)) :
    Completes z (execRerig plan s) := by
  grind [execRerig, Completes.next, State.Keeps.conclude, State.withLine_completes, State.Keeps.authMac, State.Keeps.rejAuth,
    State.Keeps.rerigAuth]

theorem execRerigStart_completes (h : z.Keeps s) :
    Completes z (execRerigStart s) := by
  grind [execRerigStart, Completes.next, State.keeps_mk, keepsParts_state, State.Keeps.setAdm, State.Keeps.startRerig]

theorem execCompletionRecordWrite_completes (h : z.Keeps s) (n : StreamId) (now : Nat) (acc : Bool) (reef : Nat) :
    Completes z (execCompletionRecordWrite n now acc reef s) := by
  unfold execCompletionRecordWrite
  grind [execCompletionRecordWrite, Completes.next, State.keeps_mk, keepsParts_state, State.Keeps.setAdm, State.Keeps.seeTick,
    State.Keeps.writeRecord]

theorem execHalyardCrcRetry_completes (h : z.Keeps s) (c : CoreId) (dir : Fin 2) (wire : Fin 272) (win : Nat) :
    Completes z (execHalyardCrcRetry c dir wire win s) := by
  grind [execHalyardCrcRetry, Completes.next, State.keeps_mk, keepsParts_state, State.Keeps.setTile, State.Keeps.wireFailed]

theorem execTileRequest_completes (h : z.Keeps s) (c : CoreId) (mesh : Bool) (off : Nat) (op : MemOp) :
    Completes z (execTileRequest c mesh off op s) := by
  unfold execTileRequest
  split <;> grind [execTileRequest, Completes.next, State.keeps_mk, keepsParts_state, State.Keeps.setTile, State.Keeps.serveTileQueues]

theorem execRefreshDue_completes (h : z.Keeps s) (c : CoreId) (b : BankId) :
    Completes z (execRefreshDue c b s) := by
  grind [execRefreshDue, Completes.next, State.keeps_mk, keepsParts_state, State.Keeps.setBank, State.Keeps.startRefresh]

theorem execRefreshEnd_completes (h : z.Keeps s) (c : CoreId) (b : BankId) :
    Completes z (execRefreshEnd c b s) := by
  grind [execRefreshEnd, Completes.next, State.keeps_mk, keepsParts_state, State.Keeps.setTile, State.Keeps.setBank,
    State.Keeps.serveTileQueues, State.Keeps.serveHeld, State.Keeps.releaseBank, State.Keeps.closeRun]

theorem execTrefiWindowEnd_completes (h : z.Keeps s) (c : CoreId) (t busy : Nat) :
    Completes z (execTrefiWindowEnd c t busy s) := by
  grind [execTrefiWindowEnd, Completes.next, State.keeps_mk, keepsParts_state, State.Keeps.each, State.Keeps.setTile, State.Keeps.setBank]

theorem execHbmTrefiWindowEnd_completes (h : z.Keeps s) (ch : ChanId) (t : Nat) :
    Completes z (execHbmTrefiWindowEnd ch t s) := by
  grind [execHbmTrefiWindowEnd, Completes.next, State.keeps_mk, keepsParts_state, State.Keeps.setChan]

theorem execDutyWindowStart_completes (h : z.Keeps s) (c : CoreId) :
    Completes z (execDutyWindowStart c s) := by
  grind [execDutyWindowStart, Completes.next, State.keeps_mk, keepsParts_state, State.Keeps.each, State.Keeps.setTile,
    State.Keeps.setBank]

theorem execDutyLimitReached_completes (h : z.Keeps s) (c : CoreId) :
    Completes z (execDutyLimitReached c s) := by
  grind [execDutyLimitReached, Completes.next, State.keeps_mk, keepsParts_state, State.Keeps.setTile]

theorem execHbmChannelRequest_completes (h : z.Keeps s) (a : Nat) (op : ChanOp) :
    Completes z (execHbmChannelRequest a op s) := by
  unfold execHbmChannelRequest
  split <;> grind [execHbmChannelRequest, Completes.next, State.Keeps.fillReturn, State.Keeps.forwardAck]

theorem execHbmParityError_completes (h : z.Keeps s) (ch : ChanId) (win : Nat) :
    Completes z (execHbmParityError ch win s) := by
  grind [execHbmParityError, Completes.next, State.keeps_mk, keepsParts_state, State.Keeps.setChan, State.Keeps.raiseSrc,
    State.Keeps.faultTick]

theorem execHbmChannelRetrain_completes (h : z.Keeps s) (ch : ChanId) (ok within10s : Bool) :
    Completes z (execHbmChannelRetrain ch ok within10s s) := by
  grind [execHbmChannelRetrain, Completes.next, State.keeps_mk, keepsParts_state, State.Keeps.setChan, State.Keeps.raiseSrc,
    State.Keeps.recordFail, State.Keeps.bumpGen, State.Keeps.faultTick]

theorem execRowClose_completes (h : z.Keeps s) (c : CoreId) (b : BankId) :
    Completes z (execRowClose c b s) := by
  grind [execRowClose, Completes.next, State.keeps_mk, keepsParts_state, State.Keeps.setTile]

theorem execRowRepair_completes (h : z.Keeps s) (c : CoreId) (b : BankId) (row : Nat) :
    Completes z (execRowRepair c b row s) := by
  grind [execRowRepair, Completes.next, State.Keeps.tryRepair]

theorem execPowerOn_completes (h : z.Keeps s) (air : Bool) :
    Completes z (execPowerOn air s) := by
  grind [execPowerOn, Completes.next, State.Keeps.powerOn]

theorem execDeviceReset_completes (h : z.Keeps s) :
    Completes z (execDeviceReset s) := by
  grind [execDeviceReset, Completes.next, State.Keeps.devReset]

theorem execPerstRelease_completes (h : z.Keeps s) : Completes z (execPerstRelease s) := .next ⟨h.pending, h.mem, h.boot⟩

theorem execLinkTrainingEnd_completes (h : z.Keeps s) (cxl : Bool) : Completes z (execLinkTrainingEnd cxl s) :=
  .next (State.Keeps.ite h ⟨h.pending, h.mem, h.boot⟩)

theorem State.Keeps.atStep (h : z.Keeps s) {n : Nat} (hp : s.boot.ph = 1) (hn : 1 ≤ n) (hn9 : n ≤ 9) :
    z.Keeps { s with boot := { s.boot with step := n } } := by
  refine ⟨h.pending, h.mem, fun _ => ?_⟩
  unfold Boot.legal
  rw [show ({ s with boot := { s.boot with step := n } } : State).boot.ph = 1 from hp]
  simp [hn, hn9]

theorem execStartupStepEnd_completes (h : z.Keeps s) (e : StepEnd) : Completes z (execStartupStepEnd e s) := by
  unfold execStartupStepEnd
  extract_lets b s1
  split
  · exact .next h
  next hc =>
    have hp : s.boot.ph = 1 := by
      rw [Bool.not_eq_true, Bool.or_eq_false_iff, Bool.or_eq_false_iff] at hc
      exact Decidable.not_not.1 (of_decide_eq_false hc.1.1)
    have h1 : z.Keeps s1 := ⟨h.pending, h.mem, h.boot⟩
    have hp1 : s1.boot.ph = 1 := hp
    clear_value s1
    split
    next s2 rails heq =>
      have h2 : z.Keeps s2 := (h1.railStep b.step e.volts).pair heq
      have hp2 : s2.boot.ph = 1 := by rw [((State.BootKept.refl s1).railStep b.step e.volts |>.pair heq).eq]; exact hp1
      extract_lets cause s3 left
      have h3 : z.Keeps s3 := h2.endStep e
      have hp3 : s3.boot.ph = 1 := by rw [((State.BootKept.refl s2).endStep e).eq]; exact hp2
      clear_value s3
      have hn (s : State) (hs : s.boot.ph = 1) : s.boot.ph ≠ 0 := by rw [hs]; decide
      exact .ite (.next (h2.startFailed cause (hn _ hp2)))
        (.next (State.Keeps.ite (h3.startFailed left (hn _ hp3)) (h3.atStep hp3 (by omega) (by omega))))

theorem execStartupPause_completes (h : z.Keeps s) (begins : Bool) : Completes z (execStartupPause begins s) :=
  .next (State.Keeps.ite ⟨h.pending, h.mem, h.boot⟩ h)

theorem State.Keeps.readyValues (h : z.Keeps s) (air : Bool) :
    z.Keeps { s with
      llc := { s.llc with key := Config.drawnKey s.free }
      free := s.free + 1
      pwr := { s.pwr with cap := if air then 1100 else 3400, floor := if air then 1000 else 2400 }
      sec := s.sec.raiseFuse } := h.same rfl rfl rfl rfl

/-- READY is a legal phase of a device that starts, and only GEN has moved since. -/
theorem State.Keeps.ready (h : z.Keeps s) (fast : Bool) (hs : 1 ≤ s.boot.step ∧ s.boot.step ≤ 9) :
    z.Keeps { s with boot := { s.boot with ph := 5, cause := 0, fast := fast, force := false, saved := true } } := by
  refine ⟨h.pending, h.mem, fun _ => ?_⟩
  show (_ || (_ && (1 ≤ s.boot.step : Bool) && (s.boot.step ≤ 9 : Bool))) = true
  simp [hs.1, hs.2]

theorem State.Keeps.readyRegs (h : z.Keeps s) :
    z.Keeps (((s.setReg nestSel 0x8008800380018000).setReg (nestSel + 8) 0x8100800B800A8009).bumpGen) := ((h.setReg _ _).setReg _
    _).bumpGen

theorem State.BootKept.readyRegs (h : z.BootKept s) :
    z.BootKept (((s.setReg nestSel 0x8008800380018000).setReg (nestSel + 8) 0x8100800B800A8009).bumpGen) :=
  ((h.setReg _ _).setReg _ _).bumpGen

theorem State.Keeps.readyPlan (h : z.Keeps s) (ns : List Nat) : z.Keeps (((s.marginPlan true allYards).putAllFloors).unmask ns) :=
  (h.marginPlan true allYards).putAllFloors.unmask ns

theorem State.BootKept.readyPlan (h : z.BootKept s) (ns : List Nat) : z.BootKept (((s.marginPlan true allYards).putAllFloors).unmask
    ns) :=
  (h.marginPlan true allYards).putAllFloors.unmask ns

theorem State.BootKept.readyValues (h : z.BootKept s) (air : Bool) :
    z.BootKept { s with
      llc := { s.llc with key := Config.drawnKey s.free }
      free := s.free + 1
      pwr := { s.pwr with cap := if air then 1100 else 3400, floor := if air then 1000 else 2400 }
      sec := s.sec.raiseFuse } := h.same rfl

theorem State.Keeps.readied (h : z.Keeps s) (hb : s.boot.step = 9) (ns : List Nat) :
    z.Keeps (
    let air := s.pwr.air
    let s : State := { s with
      llc := { s.llc with key := Config.drawnKey s.free }
      free := s.free + 1
      pwr := { s.pwr with cap := if air then 1100 else 3400, floor := if air then 1000 else 2400 }
      sec := s.sec.raiseFuse }
    let s := ((s.marginPlan true allYards).putAllFloors).unmask ns
    let s := (s.setReg nestSel 0x8008800380018000).setReg (nestSel + 8) 0x8100800B800A8009
    let s := s.bumpGen
    { s with boot := { s.boot with ph := 5, cause := 0, fast := s.boot.nfull = 0, force := false, saved := true } }) := by
  have h1 := ((h.readyValues s.pwr.air).readyPlan ns).readyRegs
  have b1 := (((State.BootKept.refl s).readyValues s.pwr.air).readyPlan ns).readyRegs
  refine h1.ready _ ?_
  rw [b1.eq]
  show 1 ≤ s.boot.step ∧ s.boot.step ≤ 9
  omega

theorem execReady_completes (h : z.Keeps s) : Completes z (execReady s) := by
  unfold execReady
  generalize (List.range 2048).filter bootUnmasked = ns
  revert ns
  intro ns
  dsimp only
  split
  · exact .next h
  next hc =>
    have hb : s.boot.step = 9 := by
      simp only [Bool.or_eq_true, not_or, decide_eq_true_eq, Decidable.not_not] at hc
      exact hc.1.1.2
    exact .next (h.readied hb ns)

theorem execForce_completes (h : z.Keeps s) :
    Completes z (execForce s) := by
  grind [execForce, Completes.next, State.Keeps.forceWrite]

theorem execEnergyAttribution_completes (h : z.Keeps s) (yards : List YardEnergy) (others : List DomainEnergy) :
    Completes z (execEnergyAttribution yards others s) := by
  grind [execEnergyAttribution_eq, Completes.next, State.Keeps.foldl, State.Keeps.shareDomain, State.Keeps.attributeYard]

theorem execRigPwrShareWrite_completes (h : z.Keeps s) (r : RigId) (w : BitVec 64) :
    Completes z (execRigPwrShareWrite r w s) := by
  grind [execRigPwrShareWrite, Completes.next, State.Keeps.writeShare]

theorem execFeedLost_completes (h : z.Keeps s) (b : Bool) :
    Completes z (execFeedLost b s) := by
  grind [execFeedLost, Completes.next, State.keeps_mk, keepsParts_state, State.Keeps.raiseSrc]

theorem execFeedGood_completes (h : z.Keeps s) (b : Bool) :
    Completes z (execFeedGood b s) := by
  grind [execFeedGood, Completes.next, State.keeps_mk, keepsParts_state, State.Keeps.raiseSrc, State.Keeps.powerOn]

theorem execBothFeedsLost_completes (h : z.Keeps s) :
    Completes z (execBothFeedsLost s) := by
  grind [execBothFeedsLost, Completes.next, State.keeps_mk, keepsParts_state, State.Keeps.railsOff]

theorem execConverterFailed_completes (h : z.Keeps s) (k : Fin 4) :
    Completes z (execConverterFailed k s) := by
  grind [execConverterFailed, Completes.next, State.keeps_mk, keepsParts_state, State.Keeps.each, State.Keeps.raiseSrc,
    State.Keeps.darken]

theorem State.Keeps.pathsChanged (h : z.Keeps s) : z.Keeps { s with pwr := { s.pwr with chg := true } } := h.same rfl rfl rfl rfl

theorem State.Keeps.cellsFailed (h : z.Keeps s) (y n : Nat) :
    z.Keeps (if n + 1 = 3 then s.darken true y else if n + 1 < 3 then s.keepTop y 6 else s) :=
  State.Keeps.ite (h.darken true y) (State.Keeps.ite (h.keepTop y 6) h)

theorem execRegulatorCellFailed_completes (h : z.Keeps s) (y : YardId) : Completes z (execRegulatorCellFailed y s) :=
  .ite (.next h) (.next ((((h.setYard y _).pathsChanged).bumpGen.yardEvent y 2).cellsFailed y _))

theorem execPathRatioWindowEnd_completes (h : z.Keeps s) (p : PathId) (samples : List Nat) :
    Completes z (execPathRatioWindowEnd p samples s) := by
  grind [execPathRatioWindowEnd, Completes.next, State.keeps_mk, keepsParts_state, State.Keeps.setPath, State.Keeps.pathEffect]

theorem execYardPowerOnRequest_completes (h : z.Keeps s) (y : YardId) :
    Completes z (execYardPowerOnRequest y s) := by
  grind [execYardPowerOnRequest, Completes.next, State.keeps_mk, keepsParts_state, State.Keeps.setYard, State.Keeps.settleWaits]

theorem execNeighbourWaitExpiry_completes (h : z.Keeps s) (y : YardId) :
    Completes z (execNeighbourWaitExpiry y s) := by
  grind [execNeighbourWaitExpiry, Completes.next, State.Keeps.startRamp]

theorem execYardRampStart_completes (h : z.Keeps s) (y : YardId) :
    Completes z (execYardRampStart y s) := by
  grind [execYardRampStart, Completes.next, State.Keeps.startRamp]

theorem execYardRampEnd_completes (h : z.Keeps s) (y : YardId) :
    Completes z (execYardRampEnd y s) := by
  grind [execYardRampEnd, Completes.next, State.Keeps.wake, State.Keeps.settleWaits]

theorem execSensorSample_completes (h : z.Keeps s) (x : Sensors) :
    Completes z (execSensorSample x s) := by
  unfold execSensorSample
  grind [execSensorSample, Completes.next, State.keeps_mk, keepsParts_state, State.Keeps.each, State.Keeps.pldmTemps,
    State.Keeps.table174, State.Keeps.raiseCooled, State.Keeps.readSensors, State.Keeps.watchYard]

theorem execModelEvaluation_completes (h : z.Keeps s) (est : List YardTemp) :
    Completes z (execModelEvaluation est s) := by
  grind [execModelEvaluation, Completes.next, State.keeps_mk, keepsParts_state, State.Keeps.foldl, State.Keeps.setYard,
    State.Keeps.yardEvent]

theorem execThermalTrip_completes (h : z.Keeps s) :
    Completes z (execThermalTrip s) := by
  grind [execThermalTrip, Completes.next, State.keeps_mk, keepsParts_state, State.Keeps.railsOff]

theorem execEmergClear_completes (h : z.Keeps s) :
    Completes z (execEmergClear s) := by
  grind [execEmergClear, Completes.next, State.Keeps.emergClear]

theorem execFlowMeterPulse_completes (h : z.Keeps s) :
    Completes z (execFlowMeterPulse s) := by
  grind [execFlowMeterPulse, Completes.next, State.keeps_mk, keepsParts_state]

theorem execFlowInference_completes (h : z.Keeps s) (p tin tout : Nat) :
    Completes z (execFlowInference p tin tout s) := by
  grind [execFlowInference, Completes.next, State.keeps_mk, keepsParts_state, State.Keeps.inletStates, State.Keeps.coolStates]

theorem execPldmRequest_completes (h : z.Keeps s) (q : Pldm) :
    Completes z (execPldmRequest q s) := by
  unfold execPldmRequest
  split <;> grind [execPldmRequest, Completes.next, State.keeps_mk, keepsParts_state]

theorem execBoostStep_completes (h : z.Keeps s) (y : YardId) :
    Completes z (execBoostStep y s) := by
  grind [execBoostStep, Completes.next, State.keeps_mk, keepsParts_state, State.Keeps.setYard]

theorem execGovernorEvaluation_completes (h : z.Keeps s) (t : Telemetry) :
    Completes z (execGovernorEvaluation t s) := by
  unfold execGovernorEvaluation
  grind [execGovernorEvaluation, Completes.next, State.Keeps.setDuty, State.Keeps.dropBoosts, State.Keeps.reefPower,
    State.Keeps.raisePower, State.Keeps.suddenLoss, State.Keeps.takeTelemetry, State.Keeps.pldmPower, State.Keeps.holdPaths]

theorem execFastGuardEstimate_completes (h : z.Keeps s) (m : MastId) (est : Nat) :
    Completes z (execFastGuardEstimate m est s) := by
  grind [execFastGuardEstimate, Completes.next, State.keeps_mk, keepsParts_state, State.Keeps.reefOne]

theorem execDutyCycleFurl_completes (h : z.Keeps s) (r : RigId) (begins : Bool) :
    Completes z (execDutyCycleFurl r begins s) := by
  grind [execDutyCycleFurl, Completes.next, State.keeps_mk, keepsParts_state, State.Keeps.each, State.Keeps.setLevel]

theorem execConsSet_completes (h : z.Keeps s) (diff : Nat) :
    Completes z (execConsSet diff s) := by
  grind [execConsSet, Completes.next, State.keeps_mk, keepsParts_state, State.Keeps.raiseSrc, State.Keeps.dropBoosts]

theorem execConsClear_completes (h : z.Keeps s) :
    Completes z (execConsClear s) := by
  grind [execConsClear, Completes.next, State.Keeps.consClear]

theorem execLoopEnter_completes (h : z.Keeps s) (i : IfaceId) (w : BitVec 64) :
    Completes z (execLoopEnter i w s) := by
  grind [execLoopEnter, Completes.next, State.Keeps.loopEnter]

theorem execLoopLeave_completes (h : z.Keeps s) (i : IfaceId) :
    Completes z (execLoopLeave i s) := by
  grind [execLoopLeave, Completes.next, State.Keeps.loopLeave]

theorem execLoopDurationExpiry_completes (h : z.Keeps s) (i : IfaceId) (errs time : Nat) (locked : Bool) :
    Completes z (execLoopDurationExpiry i errs time locked s) := by
  grind [execLoopDurationExpiry, Completes.next, State.Keeps.loopEnd]

theorem execLoopFarEndTimeout_completes (h : z.Keeps s) (i : IfaceId) :
    Completes z (execLoopFarEndTimeout i s) := by
  grind [execLoopFarEndTimeout, Completes.next, State.Keeps.loopEnd]

theorem execRasFliptgtWrite_completes (h : z.Keeps s) (w : BitVec 64) :
    Completes z (execRasFliptgtWrite w s) := by
  grind [execRasFliptgtWrite, Completes.next, State.Keeps.flipTgtWrite]

theorem execRasCeClr_completes (h : z.Keeps s) :
    Completes z (execRasCeClr s) := by
  grind [execRasCeClr, Completes.next, State.Keeps.ceClr]

theorem execScrubGo_completes (h : z.Keeps s) (nofix : Bool) :
    Completes z (execScrubGo nofix s) := by
  grind [execScrubGo, Completes.next, State.Keeps.scrubGo]

theorem execScrubEnd_completes (h : z.Keeps s) :
    Completes z (execScrubEnd s) := by
  grind [execScrubEnd, Completes.next, State.Keeps.putSum, State.Keeps.regScrubEnd, State.Keeps.endRunning, State.Keeps.scrubRange,
    State.Keeps.doScrub]

theorem execLlcWayRetire_completes (h : z.Keeps s) (k : SliceId) (way : Fin 16) :
    Completes z (execLlcWayRetire k way s) := by
  grind [execLlcWayRetire, Completes.next, State.Keeps.failWay]

theorem execLockstepTakeover_completes (h : z.Keeps s) :
    Completes z (execLockstepTakeover s) := by
  grind [execLockstepTakeover, Completes.next, State.Keeps.mismatch]

theorem execStandbyTakeoverDone_completes (h : z.Keeps s) :
    Completes z (execStandbyTakeoverDone s) := by
  grind [execStandbyTakeoverDone, Completes.next, State.Keeps.sheetRuns]

theorem execWatchdogExpiry_completes (h : z.Keeps s) :
    Completes z (execWatchdogExpiry s) := by
  grind [execWatchdogExpiry, Completes.next, State.Keeps.mismatch]

theorem execWakeTimerExpiry_completes (h : z.Keeps s) :
    Completes z (execWakeTimerExpiry s) := by
  grind [execWakeTimerExpiry, Completes.next, State.keeps_mk, keepsParts_state, State.Keeps.wakeSheet]

theorem execRecomp_completes (h : z.Keeps s) :
    Completes z (execRecomp s) := by
  grind [execRecomp, Completes.next, State.Keeps.marginPlan]

theorem execStage_completes (h : z.Keeps s) :
    Completes z (execStage s) := by
  grind [execStage, Completes.next, State.Keeps.mboxOp]

theorem execRecover_completes (h : z.Keeps s) :
    Completes z (execRecover s) := by
  grind [execRecover, Completes.next, State.Keeps.mboxOp]

theorem State.Keeps.recovered (h : z.Keeps s) : z.Keeps { s with boot := { s.boot with ph := 1, step := 2, cause := 0 } } :=
  ⟨h.pending, h.mem, fun _ => rfl⟩

theorem State.Keeps.withSec (h : z.Keeps s) (k : Sec) : z.Keeps { s with sec := k } := h.same rfl rfl rfl rfl

theorem execMailboxOperationEnd_completes (h : z.Keeps s) (img : Option Image) : Completes z (execMailboxOperationEnd img s) := by
  unfold execMailboxOperationEnd
  refine .ite (.next h) ?_
  split
  · exact .next (h.mboxEnd 6)
  · exact .ite (.next (h.mboxEnd _)) (.ite (.next ((h.withSec _).mboxEnd 0).recovered) (.next ((h.withSec _).mboxEnd 0)))

theorem execSpdmRequest_completes (h : z.Keeps s) (via : Transport) (q : Spdm) :
    Completes z (execSpdmRequest via q s) := by
  unfold execSpdmRequest
  split <;> grind [execSpdmRequest, Completes.next, State.keeps_mk, keepsParts_state, State.Keeps.spdmOut, State.Keeps.spdmSign]

theorem execSlhsigReq_completes (h : z.Keeps s) (via : Transport) (transcript : List Byte) :
    Completes z (execSlhsigReq via transcript s) := by
  grind [execSlhsigReq, Completes.next, State.Keeps.spdmOut]

theorem execBindCmd_completes (h : z.Keeps s) (sess : Nat) (ems : BitVec 384) :
    Completes z (execBindCmd sess ems s) := by
  grind [execBindCmd, Completes.next, State.keeps_mk, keepsParts_state, State.Keeps.spdmOut]

theorem execEndSession_completes (h : z.Keeps s) (sess : Nat) :
    Completes z (execEndSession sess s) := by
  grind [execEndSession, Completes.next, State.keeps_mk, keepsParts_state]

theorem execSpdmHeartbeatTimeout_completes (h : z.Keeps s) (sess : Nat) :
    Completes z (execSpdmHeartbeatTimeout sess s) := by
  grind [execSpdmHeartbeatTimeout, Completes.next, State.keeps_mk, keepsParts_state]

theorem execSheetHoldoffExpiry_completes (h : z.Keeps s) :
    Completes z (execSheetHoldoffExpiry s) := by
  grind [execSheetHoldoffExpiry, Completes.next, State.keeps_mk, keepsParts_state, State.Keeps.sendSheet]

theorem execEventMessageSend_completes (h : z.Keeps s) (v : VecId) (now : Nat) :
    Completes z (execEventMessageSend v now s) := by
  grind [execEventMessageSend, Completes.next, State.Keeps.sendVec, State.Keeps.sendSheet, State.Keeps.evtSee]

theorem execHoldoffExpiry_completes (h : z.Keeps s) (v : VecId) (now : Nat) :
    Completes z (execHoldoffExpiry v now s) := by
  grind [execHoldoffExpiry, Completes.next, State.keeps_mk, keepsParts_state, State.Keeps.sendVec, State.Keeps.evtSee]

theorem execEvtIdleHintWrite_completes (h : z.Keeps s) (w : BitVec 64) (now : Nat) :
    Completes z (execEvtIdleHintWrite w now s) := by
  grind [execEvtIdleHintWrite, Completes.next, State.Keeps.evtSee, State.Keeps.idleWrite]

theorem execEventRaise_completes (h : z.Keeps s) (n : SourceId) :
    Completes z (execEventRaise n s) := by
  grind [execEventRaise, Completes.next, State.Keeps.raiseSrc]

theorem execEvtMaskSet_completes (h : z.Keeps s) (i : Fin 32) (w : BitVec 64) :
    Completes z (execEvtMaskSet i w s) := by
  grind [execEvtMaskSet, Completes.next, State.Keeps.maskSet]

theorem execEvtMaskClr_completes (h : z.Keeps s) (i : Fin 32) (w : BitVec 64) :
    Completes z (execEvtMaskClr i w s) := by
  grind [execEvtMaskClr, Completes.next, State.Keeps.maskClr]

theorem execEvtPendSet_completes (h : z.Keeps s) (i : Fin 32) (w : BitVec 64) :
    Completes z (execEvtPendSet i w s) := by
  grind [execEvtPendSet, Completes.next, State.Keeps.pendSet]

theorem execEvtPendClr_completes (h : z.Keeps s) (i : Fin 32) (w : BitVec 64) :
    Completes z (execEvtPendClr i w s) := by
  grind [execEvtPendClr, Completes.next, State.Keeps.pendClr]

theorem execEvtRead_completes (h : z.Keeps s) (off : Nat) :
    Completes z (execEvtRead off s) := by
  grind [execEvtRead, Completes.next, State.keeps_mk, keepsParts_state]

theorem execMsixMaskWrite_completes (h : z.Keeps s) (w : MsixWrite) (m : Bool) :
    Completes z (execMsixMaskWrite w m s) := by
  unfold execMsixMaskWrite
  split <;> grind [execMsixMaskWrite, Completes.next, State.keeps_mk, keepsParts_state, State.Keeps.releaseMsix]

theorem execCrowsNestWake_completes (h : z.Keeps s) (n : SourceId) :
    Completes z (execCrowsNestWake n s) := by
  grind [execCrowsNestWake, Completes.next, State.keeps_mk, keepsParts_state, State.Keeps.wakeSheet]

theorem execRegisterWrite_completes (h : z.Keeps s) (off size : Nat) (val : BitVec 64) :
    Completes z (execRegisterWrite off size val s) := by
  grind [execRegisterWrite, Completes.next, State.Keeps.regWrite]
end

end Sys2Proof.Machine
end

section
/-! PROOFS. O59, O60: every command completes and keeps the queue and the invariant. -/

namespace Sys2Proof.Machine

-- One theorem at a time, as in the tests: the proofs together take too many threads.
set_option Elab.async false

section
variable {z s t : State}

/-- Issue of a VOP row completes for a term of the row. -/
theorem State.vop_completes (h : z.Keeps s) (c : CoreId) (i : Instr) {opc : BitVec 8} (f : FmtV) (ok : Core → Bool) :
    CompletesWhen z (f.vopc = opc) (s.vop c i opc.toNat f ok) :=
  .fault (.next (h.issueV c i .vec f _ ok)) fun hne => decide_eq_false fun he => hne (congrArg _ he)

/-- A CMD write completes for a term of the row. -/
theorem cmdRow_completes (h : z.Keeps s) (opc : Nat) (c : CoreId) (b : BankId) (w : BitVec 64) :
    CompletesWhen z (cmdIs opc w) (cmdRow opc c b w s) := by
  refine .fault_else (State.onWindow_completes h c (h.bankCmd c b w)) fun hw => ?_
  rw [← of_decide_eq_true hw]
  simp [cOpc, bits]

/-- Every instruction a core issues again completes when it is a term of its row. -/
theorem reissue_completes (h : z.Keeps s) (i : Instr) : CompletesWhen z i.wf (reissue i s) := by
  cases i with
  | ld c f => exact (execLd_completes h c f).when _
  | st c f => exact (execSt_completes h c f).when _
  | add c f => exact (execAdd_completes h c f).when _
  | sub c f => exact (execSub_completes h c f).when _
  | mul c f => exact (execMul_completes h c f).when _
  | and c f => exact (execAnd_completes h c f).when _
  | or c f => exact (execOr_completes h c f).when _
  | xor c f => exact (execXor_completes h c f).when _
  | shl c f => exact (execShl_completes h c f).when _
  | shr c f => exact (execShr_completes h c f).when _
  | cmp c f => exact (execCmp_completes h c f).when _
  | mov c f => exact (execMov_completes h c f).when _
  | dset c f => exact (execDset_completes h c f).when _
  | br c f => exact (execBr_completes h c f).when _
  | brp c f => exact (execBrp_completes h c f).when _
  | call c f => exact (execCall_completes h c f).when _
  | ret c f => exact (execRet_completes h c f).when _
  | dmaCp c f => exact (execDmaCp_completes h c f).when _
  | dmaSkew c f => exact (execDmaSkew_completes h c f).when _
  | redLlc c f => exact (execRedLlc_completes h c f).when _
  | dead c f => exact (execDead_completes h c f).when _
  | halRd c f => exact (execHalRd_completes h c f).when _
  | halWr c f => exact (execHalWr_completes h c f).when _
  | mxload c f => exact (execMxload_completes h c f).when _
  | mma c f => exact (execMma_completes h c f).when _
  | mmaT c f => exact (execMmaT_completes h c f).when _
  | accClr c f => exact (execAccClr_completes h c f).when _
  | accRd c f => exact (execAccRd_completes h c f).when _
  | vnormRms c f => exact (execVnormRms_completes h c f).when _
  | sfuTanh c f => exact (execSfuTanh_completes h c f).when _
  | sfuSig c f => exact (execSfuSig_completes h c f).when _
  | sfuExp2 c f => exact (execSfuExp2_completes h c f).when _
  | sfuRsq c f => exact (execSfuRsq_completes h c f).when _
  | sfuRcp c f => exact (execSfuRcp_completes h c f).when _
  | selTopk c f => exact (execSelTopk_completes h c f).when _
  | selMerge c f => exact (execSelMerge_completes h c f).when _
  | lkuLoad c f => exact (execLkuLoad_completes h c f).when _
  | lkuSwap c f => exact (execLkuSwap_completes h c f).when _
  | lkuPq c f => exact (execLkuPq_completes h c f).when _
  | fenceL c f => exact (execFenceL_completes h c f).when _
  | fenceR c f => exact (execFenceR_completes h c f).when _
  | invL1 c f => exact (execInvL1_completes h c f).when _
  | bar c f => exact (execBar_completes h c f).when _
  | wait c f => exact execWait_completes h c f
  | waitSignal c f => exact execWaitSignal_completes h c f
  | waitall c f => exact (execWaitall_completes h c f).when _
  | signal c f => exact execSignal_completes h c f
  | signalEv c f => exact execSignalEv_completes h c f
  | vopLd c f => exact State.vop_completes h c _ f _
  | vopSt c f => exact State.vop_completes h c _ f _
  | vopMov c f => exact State.vop_completes h c _ f _
  | vopBcast c f => exact State.vop_completes h c _ f _
  | vopAdd c f => exact State.vop_completes h c _ f _
  | vopSub c f => exact State.vop_completes h c _ f _
  | vopMul c f => exact State.vop_completes h c _ f _
  | vopFma c f => exact State.vop_completes h c _ f _
  | vopMax c f => exact State.vop_completes h c _ f _
  | vopMin c f => exact State.vop_completes h c _ f _
  | vopAbs c f => exact State.vop_completes h c _ f _
  | vopNeg c f => exact State.vop_completes h c _ f _
  | vopAnd c f => exact State.vop_completes h c _ f _
  | vopOr c f => exact State.vop_completes h c _ f _
  | vopXor c f => exact State.vop_completes h c _ f _
  | vopShl c f => exact State.vop_completes h c _ f _
  | vopShr c f => exact State.vop_completes h c _ f _
  | vopCvt c f => exact State.vop_completes h c _ f _
  | vopRsum c f => exact State.vop_completes h c _ f _
  | vopRmax c f => exact State.vop_completes h c _ f _
  | vopPerm c f => exact State.vop_completes h c _ f _
  | _ => exact (Completes.next h).when _

theorem vopOf_wf {c : CoreId} {f : FmtV} {i : Instr} (h : vopOf c f = some i) : i.wf = true := by
  unfold vopOf at h
  split at h
  any_goals
    cases h
    exact decide_eq_true (BitVec.eq_of_toNat_eq ‹_›)
  · cases h

theorem aluOf_wf {c : CoreId} {op : Nat} {f : Alu} {i : Instr} (h : aluOf c op f = some i) : i.wf = true := by
  unfold aluOf at h
  split at h <;> cases h <;> rfl

/-- A word spells only terms of rows. -/
theorem coreInstr_wf {c : CoreId} {w lit : BitVec 64} {i : Instr} (h : coreInstr c w lit = some i) : i.wf = true := by
  unfold coreInstr at h
  split at h
  any_goals exact aluOf_wf h
  any_goals exact vopOf_wf h
  any_goals
    split at h
    · cases h
      exact ‹(wordC w).fn.getLsbD 0 = true›
    · cases h
      exact Eq.mpr (Bool.not_eq_true' _) (Bool.eq_false_iff.2 ‹¬(wordC w).fn.getLsbD 0 = true›)
  any_goals
    cases h
    rfl
  · cases h

theorem CompletesWhen.mono {o : Out} {p q : Bool} (h : CompletesWhen z q o) (hp : p = true → q = true) : CompletesWhen z p o :=
  ⟨fun he => h.completes (hp he), h.keeps⟩

/-- A fetched word's instruction completes. -/
theorem State.issueWord_completes (h : z.Keeps s) (c : CoreId) : Completes z (s.issueWord c) := by
  unfold State.issueWord
  refine .ite (.next h) ?_
  have hr := h.fetchLine c (s.core c).pc.toNat
  split
  · exact .next (h.addSnoops _)
  next he => exact .next ((hr.fault_eq he).stopCore _ _ _)
  next he => exact .next (hr.ok_eq he)
  next he => exact .next ((hr.ok_eq he).stopCore _ _ _)
  next u he =>
    have hu := hr.ok_eq he
    split
    next i hi => exact (reissue_completes hu i).completes (coreInstr_wf hi)
    · exact .next (hu.stopCore _ _ _)

/-- ISSUE_RESUME completes where the core's stalled instruction is a term of its row. -/
theorem execIssueResume_completes (h : z.Keeps s) (c : CoreId) {p : Bool}
    (hp : p = true → ∀ j, (s.core c).stall = some j → j.wf = true) : CompletesWhen z p (execIssueResume c s) := by
  unfold execIssueResume
  split
  next i hi => exact ⟨fun he => (reissue_completes h i).completes (hp he i hi), (reissue_completes h i).keeps⟩
  · exact (State.issueWord_completes h c).when p

/-- The stalled instruction an ISSUE_RESUME issues again is a term of its row. -/
def State.stallWf (s : State) (i : Instr) : Prop := ∀ c j, i = .issueResume c → (s.core c).stall = some j → j.wf = true

/-- Every command completes where it is a term of its row, and whatever it leaves keeps the queue and the invariant. -/
theorem exec_completes (h : z.Keeps s) (i : Instr) {p : Bool} (hw : p = true → i.wf = true ∧ s.stallWf i) :
    CompletesWhen z p (exec i s) := by
  cases i with
  | ld | st | add | sub | mul | and | or | xor | shl | shr | cmp | mov | dset | br | brp | call | ret | dmaCp | dmaSkew | redLlc | dead |
    halRd | halWr | mxload | mma | mmaT | accClr | accRd | vopLd | vopSt | vopMov | vopBcast | vopAdd | vopSub | vopMul | vopFma | vopMax
    | vopMin | vopAbs | vopNeg | vopAnd | vopOr | vopXor | vopShl | vopShr | vopCvt | vopRsum | vopRmax | vopPerm | vnormRms | sfuTanh |
    sfuSig | sfuExp2 | sfuRsq | sfuRcp | selTopk | selMerge | lkuLoad | lkuSwap | lkuPq | fenceL | fenceR | invL1 | bar | wait |
    waitSignal | waitall | signal | signalEv =>
    have hr := (reissue_completes h _).mono fun he => (hw he).1
    exact hr
  | issueResume c => exact execIssueResume_completes h c fun he j hj => (hw he).2 c j rfl hj
  | engineOpStart c e => exact (execEngineOpStart_completes h c e).when _
  | engineOpComplete c e n => exact (execEngineOpComplete_completes h c e n).when _
  | stopDrainDone c => exact (execStopDrainDone_completes h c).when _
  | dispatch c => exact (execDispatch_completes h c).when _
  | coreEndReport c => exact (execCoreEndReport_completes h c).when _
  | stopReport c => exact (execStopReport_completes h c).when _
  | signalOrArrival c => exact (execSignalOrArrival_completes h c).when _
  | barrierArrival c => exact (execBarrierArrival_completes h c).when _
  | barrierRelease r g => exact (execBarrierRelease_completes h r g).when _
  | coreMarkedDown c => exact (execCoreMarkedDown_completes h c).when _
  | llcRequest who cls a op => exact (execLlcRequest_completes h who cls a op).when _
  | llcFillReturn line => exact (execLlcFillReturn_completes h line).when _
  | setWritten g => exact (execSetWritten_completes h g).when _
  | setWrittenReply g => exact (execSetWrittenReply_completes h g).when _
  | streamTrackerRelease n who => exact (execStreamTrackerRelease_completes h n who).when _
  | deadDrop g => exact (execDeadDrop_completes h g).when _
  | deadMarkAck g => exact (execDeadMarkAck_completes h g).when _
  | reductionApply line => exact (execReductionApply_completes h line).when _
  | forwardAck line => exact (execForwardAck_completes h line).when _
  | hostSnoopResponse a data => exact (execHostSnoopResponse_completes h a data).when _
  | hotSliceWindowEnd n occ => exact (execHotSliceWindowEnd_completes h n occ).when _
  | l1Fill c instr a => exact (execL1Fill_completes h c instr a).when _
  | lockerRemoteAccess who c off op => exact (execLockerRemoteAccess_completes h who c off op).when _
  | halyardCrcRetry c dir wire win => exact (execHalyardCrcRetry_completes h c dir wire win).when _
  | tileRequest c mesh off op => exact (execTileRequest_completes h c mesh off op).when _
  | refreshDue c b => exact (execRefreshDue_completes h c b).when _
  | refreshEnd c b => exact (execRefreshEnd_completes h c b).when _
  | trefiWindowEnd c t busy => exact (execTrefiWindowEnd_completes h c t busy).when _
  | hbmTrefiWindowEnd ch t => exact (execHbmTrefiWindowEnd_completes h ch t).when _
  | dutyWindowStart c => exact (execDutyWindowStart_completes h c).when _
  | dutyLimitReached c => exact (execDutyLimitReached_completes h c).when _
  | hbmChannelRequest a op => exact (execHbmChannelRequest_completes h a op).when _
  | bankmodeWrite c w => exact (execBankmodeWrite_completes h c w).when _
  | bankUnitModeEffect c b => exact (execBankUnitModeEffect_completes h c b).when _
  | bankNormalModeEffect c b => exact (execBankNormalModeEffect_completes h c b).when _
  | xpop c b w => exact (cmdRow_completes h 1 c b w).mono fun he => (hw he).1
  | i8dot c b w => exact (cmdRow_completes h 2 c b w).mono fun he => (hw he).1
  | sumred c b w => exact (cmdRow_completes h 3 c b w).mono fun he => (hw he).1
  | bankFill c b w => exact (cmdRow_completes h 4 c b w).mono fun he => (hw he).1
  | bankCopy c b w => exact (cmdRow_completes h 5 c b w).mono fun he => (hw he).1
  | topk32 c b w => exact (cmdRow_completes h 6 c b w).mono fun he => (hw he).1
  | chain c b w => exact (cmdRow_completes h 7 c b w).mono fun he => (hw he).1
  | bitset c b w => exact (cmdRow_completes h 8 c b w).mono fun he => (hw he).1
  | bankUnitAbort c b => exact (execBankUnitAbort_completes h c b).when _
  | queuedCommandStart c b => exact (execQueuedCommandStart_completes h c b).when _
  | bankUnitCommandEnd c b => exact (execBankUnitCommandEnd_completes h c b).when _
  | safePoint c b upto => exact (execSafePoint_completes h c b upto).when _
  | chainStreamArrival c b => exact (execChainStreamArrival_completes h c b).when _
  | chainBreak c b => exact (execChainBreak_completes h c b).when _
  | flitRetransmission l dir wire win => exact (execFlitRetransmission_completes h l dir wire win).when _
  | stayLaneFailed n dir lane => exact (execStayLaneFailed_completes h n dir lane).when _
  | routerWindowEnd r loads temp => exact (execRouterWindowEnd_completes h r loads temp).when _
  | corePllLoss y => exact (execCorePllLoss_completes h y).when _
  | networkPllLoss y => exact (execNetworkPllLoss_completes h y).when _
  | networkPllRelock y ok => exact (execNetworkPllRelock_completes h y ok).when _
  | spreaderReferenceLoss m => exact (execSpreaderReferenceLoss_completes h m).when _
  | tailLineSnoop n r => exact (execTailLineSnoop_completes h n r).when _
  | fetchCommandLine n l1 l2 => exact (execFetchCommandLine_completes h n l1 l2).when _
  | linePass now => exact (execLinePass_completes h now).when _
  | run => exact (execRun_completes h).when _
  | copyCommand => exact (execCopyCommand_completes h).when _
  | fillCommand => exact (execFillCommand_completes h).when _
  | scrub => exact (execScrub_completes h).when _
  | rerig plan => exact (execRerig_completes h plan).when _
  | rerigStart => exact (execRerigStart_completes h).when _
  | setcap => exact (execSetcap_completes h).when _
  | search => exact (execSearch_completes h).when _
  | rerankerDispatch r => exact (execRerankerDispatch_completes h r).when _
  | fence => exact (execFence_completes h).when _
  | table => exact (execTable_completes h).when _
  | perf => exact (execPerf_completes h).when _
  | keyopActivate => exact (execKeyopActivate_completes h).when _
  | keyopCascade => exact (execKeyopCascade_completes h).when _
  | keyopPin => exact (execKeyopPin_completes h).when _
  | reduce => exact (execReduce_completes h).when _
  | send => exact (execSend_completes h).when _
  | recv => exact (execRecv_completes h).when _
  | barrier => exact (execBarrier_completes h).when _
  | nop => exact (execNop_completes h).when _
  | planDispatch r now => exact (execPlanDispatch_completes h r now).when _
  | abortPoint r now => exact (execAbortPoint_completes h r now).when _
  | cmaxExpiry r now => exact (execCmaxExpiry_completes h r now).when _
  | faultIntervalStart f => exact (execFaultIntervalStart_completes h f).when _
  | faultIntervalEnd f => exact (execFaultIntervalEnd_completes h f).when _
  | floorChangeEffect => exact (execFloorChangeEffect_completes h).when _
  | completionRecordWrite n now acc reef => exact (execCompletionRecordWrite_completes h n now acc reef).when _
  | hostMemRead a n => exact (execHostMemRead_completes h a n).when _
  | hostMemWrite a bs poison => exact (execHostMemWrite_completes h a bs poison).when _
  | configRequest q => exact (execConfigRequest_completes h q).when _
  | strmCtlEn n en r => exact (execStrmCtlEn_completes h n en r).when _
  | strmCtlResume n => exact (execStrmCtlResume_completes h n).when _
  | strmCtlAbort n => exact (execStrmCtlAbort_completes h n).when _
  | portEnable pen present => exact (execPortEnable_completes h pen present).when _
  | cascRankWrite r => exact (execCascRankWrite_completes h r).when _
  | pahusRetransmission p => exact (execPahusRetransmission_completes h p).when _
  | pahusLaneFailed p lane => exact (execPahusLaneFailed_completes h p lane).when _
  | portTrainingDone p => exact (execPortTrainingDone_completes h p).when _
  | peerAttestationDone p digest signed rank port => exact (execPeerAttestationDone_completes h p digest signed rank port).when _
  | configurationReceived epoch master standby hasStandby nmem =>
    exact (execConfigurationReceived_completes h epoch master standby hasStandby nmem).when _
  | heartbeatSend => exact (execHeartbeatSend_completes h).when _
  | heartbeatReceived epoch seq => exact (execHeartbeatReceived_completes h epoch seq).when _
  | heartbeatTimeout => exact (execHeartbeatTimeout_completes h).when _
  | delayProbeSend p t1 => exact (execDelayProbeSend_completes h p t1).when _
  | delayProbeEcho p t2 held => exact (execDelayProbeEcho_completes h p t2 held).when _
  | barrierArrivalMessage rank tag released delay => exact (execBarrierArrivalMessage_completes h rank tag released delay).when _
  | cascadeReleaseSend tag rank now => exact (execCascadeReleaseSend_completes h tag rank now).when _
  | cascadeReleaseArrival tag rank due => exact (execCascadeReleaseArrival_completes h tag rank due).when _
  | rendezvous r send peer => exact (execRendezvous_completes h r send peer).when _
  | pahusPortDown p => exact (execPahusPortDown_completes h p).when _
  | energyAttribution yards others => exact (execEnergyAttribution_completes h yards others).when _
  | rigPwrShareWrite r w => exact (execRigPwrShareWrite_completes h r w).when _
  | feedLost b => exact (execFeedLost_completes h b).when _
  | feedGood b => exact (execFeedGood_completes h b).when _
  | converterFailed k => exact (execConverterFailed_completes h k).when _
  | regulatorCellFailed y => exact (execRegulatorCellFailed_completes h y).when _
  | pathRatioWindowEnd p samples => exact (execPathRatioWindowEnd_completes h p samples).when _
  | yardPowerOnRequest y => exact (execYardPowerOnRequest_completes h y).when _
  | neighbourWaitExpiry y => exact (execNeighbourWaitExpiry_completes h y).when _
  | yardRampStart y => exact (execYardRampStart_completes h y).when _
  | yardRampEnd y => exact (execYardRampEnd_completes h y).when _
  | fastGuardEstimate m est => exact (execFastGuardEstimate_completes h m est).when _
  | governorEvaluation t => exact (execGovernorEvaluation_completes h t).when _
  | dutyCycleFurl r begins => exact (execDutyCycleFurl_completes h r begins).when _
  | boostStep y => exact (execBoostStep_completes h y).when _
  | consSet diff => exact (execConsSet_completes h diff).when _
  | sensorSample x => exact (execSensorSample_completes h x).when _
  | modelEvaluation est => exact (execModelEvaluation_completes h est).when _
  | flowInference p tin tout => exact (execFlowInference_completes h p tin tout).when _
  | rasFliptgtWrite w => exact (execRasFliptgtWrite_completes h w).when _
  | scrubGo nofix => exact (execScrubGo_completes h nofix).when _
  | rowRepair c b row => exact (execRowRepair_completes h c b row).when _
  | llcWayRetire n way => exact (execLlcWayRetire_completes h n way).when _
  | hbmChannelRetrain ch ok within10s => exact (execHbmChannelRetrain_completes h ch ok within10s).when _
  | telltaleMeasurement y t => exact (execTelltaleMeasurement_completes h y t).when _
  | telltaleGuardRaise y limit => exact (execTelltaleGuardRaise_completes h y limit).when _
  | powerOn air => exact (execPowerOn_completes h air).when _
  | startupStepEnd e => exact (execStartupStepEnd_completes h e).when _
  | startupPause begins => exact (execStartupPause_completes h begins).when _
  | spdmRequest via q => exact (execSpdmRequest_completes h via q).when _
  | slhsigReq via transcript => exact (execSlhsigReq_completes h via transcript).when _
  | bindCmd sess ems => exact (execBindCmd_completes h sess ems).when _
  | endSession sess => exact (execEndSession_completes h sess).when _
  | spdmHeartbeatTimeout sess => exact (execSpdmHeartbeatTimeout_completes h sess).when _
  | eventRaise n => exact (execEventRaise_completes h n).when _
  | eventMessageSend v now => exact (execEventMessageSend_completes h v now).when _
  | holdoffExpiry v now => exact (execHoldoffExpiry_completes h v now).when _
  | evtMaskSet n w => exact (execEvtMaskSet_completes h n w).when _
  | evtMaskClr n w => exact (execEvtMaskClr_completes h n w).when _
  | evtPendSet n w => exact (execEvtPendSet_completes h n w).when _
  | evtPendClr n w => exact (execEvtPendClr_completes h n w).when _
  | evtIdleHintWrite w now => exact (execEvtIdleHintWrite_completes h w now).when _
  | evtRead off => exact (execEvtRead_completes h off).when _
  | crowsNestWake n => exact (execCrowsNestWake_completes h n).when _
  | loopEnter n w => exact (execLoopEnter_completes h n w).when _
  | loopLeave n => exact (execLoopLeave_completes h n).when _
  | loopDurationExpiry n errs time locked => exact (execLoopDurationExpiry_completes h n errs time locked).when _
  | loopFarEndTimeout n => exact (execLoopFarEndTimeout_completes h n).when _
  | llcHashKeyWrite k => exact (execLlcHashKeyWrite_completes h k).when _
  | llcModeSet w => exact (execLlcModeSet_completes h w).when _
  | registerWrite off size val => exact (execRegisterWrite_completes h off size val).when _
  | linkTrainingEnd cxl => exact (execLinkTrainingEnd_completes h cxl).when _
  | pldmRequest q => exact (execPldmRequest_completes h q).when _
  | msixMaskWrite w m => exact (execMsixMaskWrite_completes h w m).when _
  | delayProbeReceived p arrive leave => exact (execDelayProbeReceived_completes h p arrive leave).when _
  | wireBlockArrival r data => exact (execWireBlockArrival_completes h r data).when _
  | storeAcknowledgement c => exact (execStoreAcknowledgement_completes h c).when _
  | hbmParityError ch win => exact (execHbmParityError_completes h ch win).when _
  | rowClose c b => exact (execRowClose_completes h c b).when _
  | mailboxOperationEnd img => exact (execMailboxOperationEnd_completes h img).when _
  | bothFeedsLost => exact (execBothFeedsLost_completes h).when _
  | consClear => exact (execConsClear_completes h).when _
  | thermalTrip => exact (execThermalTrip_completes h).when _
  | emergClear => exact (execEmergClear_completes h).when _
  | rasCeClr => exact (execRasCeClr_completes h).when _
  | scrubEnd => exact (execScrubEnd_completes h).when _
  | lockstepTakeover => exact (execLockstepTakeover_completes h).when _
  | marginPlan => exact (execMarginPlan_completes h).when _
  | recomp => exact (execRecomp_completes h).when _
  | deviceReset => exact (execDeviceReset_completes h).when _
  | ready => exact (execReady_completes h).when _
  | force => exact (execForce_completes h).when _
  | stage => exact (execStage_completes h).when _
  | recover => exact (execRecover_completes h).when _
  | sheetHoldoffExpiry => exact (execSheetHoldoffExpiry_completes h).when _
  | wakeTimerExpiry => exact (execWakeTimerExpiry_completes h).when _
  | watchdogExpiry => exact (execWatchdogExpiry_completes h).when _
  | perstRelease => exact (execPerstRelease_completes h).when _
  | flowMeterPulse => exact (execFlowMeterPulse_completes h).when _
  | standbyTakeoverDone => exact (execStandbyTakeoverDone_completes h).when _

end

/-- Settles O59: every arm completes, and what it leaves keeps the waiting commands. -/
theorem everyCommandCompletesAndKeepsTheQueue : Obligations.EveryCommandCompletesAndKeepsTheQueue := by
  intro s i hw hs
  obtain ⟨t, ht, hk⟩ := (exec_completes (State.Keeps.refl s) i (p := true) fun _ => ⟨hw, hs⟩).completes rfl
  exact ⟨t, ht, hk.pending⟩

/-- Settles O60: every arm keeps the canonical form of the memories and a legal phase, also where its term is none of its row. -/
theorem everyStepKeepsTheInvariant : Obligations.EveryStepKeepsTheInvariant := by
  intro s t hm hb hst
  unfold step at hst
  split at hst
  · cases hst
    exact ⟨hm, hb⟩
  next c cs _ =>
    have hk := (exec_completes (State.Keeps.refl { s with pending := cs }) c (p := false) fun h => nomatch h).keeps t hst
    exact ⟨hk.mem hm, hk.boot hb⟩

end Sys2Proof.Machine
end

section
/-! PROOFS. The block and its reset (O1, O58). -/

namespace Sys2Proof.Machine

-- One theorem at a time, as in the tests: the proofs together take too many threads.
set_option Elab.async false

/-- Settles O1: by the two branches of `step`. -/
theorem stepRunsFrontCommand : Obligations.StepRunsFrontCommand := by
  refine ⟨fun s i => rfl, fun s h => ?_⟩
  rw [step, h]

/-- No route is written at reset, so the routes of R546 are in effect. -/
theorem State.route_reset {n : Nat} (hn : ¬(128 ≤ n ∧ n < 192)) : State.reset.route n = resetRoute n := by
  rw [State.route, if_neg hn]
  rfl

/-- Settles O58: the routes by the ranges of R546, the rest by evaluation of the empty tables. -/
theorem resetState : Obligations.ResetState := by
  refine ⟨rfl, rfl, rfl, rfl, rfl, fun n h1 h2 => ?_, fun n h1 h2 => ?_, fun _ => ⟨rfl, rfl, rfl⟩, fun _ => rfl, fun _ => ⟨rfl, rfl⟩,
    rfl, rfl, rfl, rfl, rfl, rfl, rfl, rfl, rfl, rfl⟩
  · rw [State.route_reset (by omega), resetRoute, if_pos ⟨h1, h2⟩]
  · rw [State.route_reset (by omega), resetRoute, if_neg (by omega), if_neg (by omega)]

end Sys2Proof.Machine
end

section
/-! PROOFS. Decode checks, guards and the scalar operations (O2, O3, O6; R83, R84, R93, R96, R97). -/

namespace Sys2Proof.Machine

-- One theorem at a time, as in the tests: the proofs together take too many threads.
set_option Elab.async false

/-- The predicate of a guard is its low three bits (R84). -/
theorem bits_two_zero (g : BitVec 5) : bits g.toNat 2 0 = (g.extractLsb' 0 3).toNat := by
  rw [BitVec.extractLsb'_toNat]
  rfl

/-- A command that updates its core, whatever the order of its instruction cache, and passes on leaves the updated core past. -/
theorem State.leaves_upd_advance {s : State} {i : Instr} {c : CoreId} {long f : Bool} (upd : Core → Core)
    (hu : ∀ k l, upd { k with l1i := l } = { upd k with l1i := l })
    (he : exec i s = .next (((s.fetched c f).setCore c (upd ((s.fetched c f).core c))).advance c long)) :
    s.leaves i c ((upd (s.core c)).past long) := by
  obtain ⟨l, hl⟩ := s.fetched_core_eq c f
  have hs := State.leaves_set_advance he
  rw [hl, hu] at hs
  have hk := hu (s.core c) (s.core c).l1i
  rw [show ({ s.core c with l1i := (s.core c).l1i } : Core) = s.core c from rfl] at hk
  rw [hk]
  exact hs

/-- Settles O2: by what issue does to a ready instruction. -/
theorem decodeChecksAndGuards : Obligations.DecodeChecksAndGuards := by
  refine ⟨fun s i c long g hw hf h => ?_, fun s i c long g hw hf h hg hp => ?_⟩
  · obtain ⟨act, hx⟩ := exec_coreForm s hw hf
    rw [State.issue_ready h] at hx
    exact State.leaves_stop h hx
  · obtain ⟨act, hx⟩ := exec_coreForm s hw hf
    have hno : (s.core c).guardOk g = false := by rw [Core.guardOk, hg, bits_two_zero, hp]; simp
    rw [State.issue_ready h, hno] at hx
    exact State.leaves_advance hx

section
variable {s : State} {c : CoreId} {f : Alu} {i : Instr} {listed : Nat → Bool} {op : Nat → BitVec 64 → BitVec 64 → BitVec 64}

/-- A scalar operation that passes its checks and guard writes RD with its result and passes on (R93). -/
theorem leaves_alu (hx : exec i s = .next (s.alu c i f listed op)) (h : s.canIssue c (aluLong f) = true)
    (hg : (s.core c).guardOk (aluGuard f) = true) (hb : aluBad f listed = false) :
    s.leaves i c (((s.core c).wg (aluRd f).toNat (op (aluFn f) (aluA (s.core c) f) (aluB (s.core c) f))).past (aluLong f)) := by
  have hact := exec_of_acts h hg hb hx rfl
  exact State.leaves_upd_advance (fun k => k.wg (aluRd f).toNat (op (aluFn f) (aluA k f) (aluB k f)))
    (fun k l => by simp) hact

end

/-- The shift count of SHL and SHR is the low six bits of the second operand (Table 3-7). -/
theorem bits_five_zero (b : BitVec 64) : bits b.toNat 5 0 = (b &&& 63).toNat := by
  rw [BitVec.toNat_and, bits, Nat.shiftRight_zero]
  exact (Nat.and_two_pow_sub_one_eq_mod b.toNat 6).symm

/-- The high half of a product of 128 bits, read from its value. -/
theorem extractLsb'_ofInt (p : Int) : (BitVec.ofInt 128 p).extractLsb' 64 64 = BitVec.ofInt 64 (p / 2 ^ 64) := by
  apply BitVec.eq_of_toNat_eq
  rw [BitVec.extractLsb'_toNat, BitVec.toNat_ofInt, BitVec.toNat_ofInt, Nat.shiftRight_eq_div_pow]
  omega

/-- The high half of the signed product, as words (Table 3-7). -/
theorem extractLsb'_signed_mul (a b : BitVec 64) :
    BitVec.ofInt 64 (a.toInt * b.toInt / 2 ^ 64) = (a.signExtend 128 * b.signExtend 128).extractLsb' 64 64 := by
  rw [BitVec.signExtend, BitVec.signExtend, ← BitVec.ofInt_mul, extractLsb'_ofInt]

/-- The high half of the unsigned product, as words (Table 3-7). -/
theorem extractLsb'_unsigned_mul (a b : BitVec 64) :
    BitVec.ofNat 64 (a.toNat * b.toNat / 2 ^ 64) = (a.zeroExtend 128 * b.zeroExtend 128).extractLsb' 64 64 := by
  have ha := a.isLt
  have hb := b.isLt
  have hlt : a.toNat * b.toNat < 2 ^ 128 := by nlinarith
  apply BitVec.eq_of_toNat_eq
  rw [BitVec.extractLsb'_toNat, BitVec.toNat_mul, BitVec.toNat_ofNat, Nat.shiftRight_eq_div_pow]
  simp only [BitVec.truncate_eq_setWidth, BitVec.toNat_setWidth]
  rw [Nat.mod_eq_of_lt (show a.toNat < 2 ^ 128 by omega), Nat.mod_eq_of_lt (show b.toNat < 2 ^ 128 by omega), Nat.mod_eq_of_lt hlt]

/-- The products as Table 3-7 writes them. -/
theorem mulOp_eq (n : Nat) (a b : BitVec 64) :
    mulOp n a b = if n = 0 then a * b else if n = 1 then (a.signExtend 128 * b.signExtend 128).extractLsb' 64 64
      else (a.zeroExtend 128 * b.zeroExtend 128).extractLsb' 64 64 := by
  match n with
  | 0 => rfl
  | 1 => exact extractLsb'_signed_mul a b
  | n + 2 => exact extractLsb'_unsigned_mul a b

/-- Settles O3: each operation by `leaves_alu`, with the products and shift counts respelt as Table 3-7 writes them. -/
theorem scalarArithmeticResult : Obligations.ScalarArithmeticResult := by
  intro s c f h hg
  dsimp only
  refine ⟨fun hb => ⟨leaves_alu (op := fun _ a b => a + b) rfl h hg hb, leaves_alu (op := fun _ a b => a - b) rfl h hg hb,
    leaves_alu (op := fun _ a b => a &&& b) rfl h hg hb, leaves_alu (op := fun _ a b => a ||| b) rfl h hg hb,
    leaves_alu (op := fun _ a b => a ^^^ b) rfl h hg hb, ?_⟩, fun hb => ?_, fun hb => ?_⟩
  · have hs := leaves_alu (i := .shl c f) rfl h hg hb
    rw [bits_five_zero] at hs
    exact hs
  · have hm := leaves_alu (i := .mul c f) rfl h hg hb
    rw [mulOp_eq] at hm
    exact hm
  · have hs := leaves_alu (i := .shr c f) rfl h hg hb
    rw [bits_five_zero] at hs
    exact hs

/-! ### MOV and DSET (R96, R97) -/

section
variable {s : State} {c : CoreId} {f : FmtI} {long : Bool}

/-- A form of MOV that updates its core and passes on. -/
theorem leaves_mov (upd : Core → Core) (hu : ∀ k l, upd { k with l1i := l } = { upd k with l1i := l })
    (hd : (s.fetched c f.l).doMov c f =
      (((s.fetched c f.l).setCore c (upd ((s.fetched c f.l).core c))).advance c long, true))
    (h : s.canIssue c f.l = true) (hg : (s.core c).guardOk f.guard = true) (hb : movBad f = false) :
    s.leaves (.mov c f) c ((upd (s.core c)).past long) :=
  State.leaves_upd_advance upd hu (exec_of_acts (act := fun s => s.doMov c f) h hg hb rfl hd)

/-- A lane form of MOV while a pending operation uses its vector register: issue stalls (R52). -/
theorem leaves_mov_stall (hd : (s.fetched c f.l).doMov c f = (s.fetched c f.l, false))
    (h : s.canIssue c f.l = true) (hg : (s.core c).guardOk f.guard = true) (hb : movBad f = false) :
    s.leaves (.mov c f) c ((s.core c).stalled (.mov c f)) :=
  State.leaves_stall (exec_of_waits (act := fun s => s.doMov c f) h hg hb rfl hd)

/-- A pending operation uses a vector register, whatever its engine (R52). -/
theorem Core.vBusy_none (k : Core) (r : Nat) : k.vBusy none [r] = k.ops.any fun o => (instrVregs o.i).contains r := by
  unfold Core.vBusy
  congr 1
  funext o
  simp [sameOrder, List.any_eq, List.contains_eq_mem]

/-- What uses the vector registers does not depend on the order of the instruction cache. -/
@[simp] theorem State.fetched_vBusy (s : State) (c : Nat) (long : Bool) (e : Option Eng) (rs : List Nat) :
    ((s.fetched c long).core c).vBusy e rs = (s.core c).vBusy e rs :=
  s.fetched_core_read c long (·.vBusy e rs) fun _ _ => rfl

/-- The forms that write a lane or a register from a lane: none while the vector register is in use (R52). -/
theorem leaves_mov_lane (upd : Core → Core) (hu : ∀ k l, upd { k with l1i := l } = { upd k with l1i := l }) (r : Nat)
    (hd : ∀ t : State, t.doMov c f =
      if (t.core c).vBusy none [r] then (t, false) else ((t.setCore c (upd (t.core c))).advance c false, true))
    (h : s.canIssue c f.l = true) (hg : (s.core c).guardOk f.guard = true) (hb : movBad f = false) :
    s.leaves (.mov c f) c
      (if (s.core c).ops.any fun o => (instrVregs o.i).contains r then (s.core c).stalled (.mov c f)
       else (upd (s.core c)).past false) := by
  have hd := hd (s.fetched c f.l)
  rw [State.fetched_vBusy, Core.vBusy_none] at hd
  split
  next hbusy => exact leaves_mov_stall (hd.trans (if_pos hbusy)) h hg hb
  next hbusy => exact leaves_mov upd hu (hd.trans (if_neg hbusy)) h hg hb

/-- The decode checks of DSET, as R97 lists the fields. -/
theorem dsetBad_eq (f : FmtI) : dsetBad f = !(!f.rd.getLsbD 4 && f.fn.toNat < 8 && f.imm == 0 &&
    (if f.fn.getLsbD 2 then f.l && f.rs1 == 0 else !f.l)) := by
  have hfn : (bits f.fn.toNat 7 3 != 0) = !(f.fn.toNat < 8 : Bool) := by
    have := f.fn.isLt
    simp only [bits, Nat.shiftRight_eq_div_pow]
    rw [Bool.eq_iff_iff]
    simp
    omega
  rw [dsetBad, hfn]
  cases f.rd.getLsbD 4 <;> cases f.fn.getLsbD 2 <;> cases f.l <;> simp [bne]

end

/-- Settles O6: each form of MOV by its branch of `State.doMov`, DSET by its update of the descriptors. -/
theorem movesAndDescriptorSet : Obligations.MovesAndDescriptorSet := by
  refine ⟨fun s c f h hg hb => ?_, fun s c f h => ?_⟩
  · refine ⟨fun hf => ?_, fun hf => ?_, fun hf hn => ?_, fun hf hn => ?_, fun hf hn => ?_, fun hf hn => ?_, fun hf => ?_, fun hf => ?_,
      fun hf => ?_⟩
    · exact leaves_mov (fun k => k.wg f.rd.toNat (if f.l then f.lit else f.imm.signExtend 64)) (fun k l => by simp)
        (by simp [State.doMov, hf]) h hg hb
    · exact leaves_mov (fun k => k.wg f.rd.toNat (k.rg f.rs1.toNat)) (fun k l => by simp) (by simp [State.doMov, hf]) h hg hb
    · exact leaves_mov (fun k => k.countStalls.wg f.rd.toNat (k.countStalls.special 0)) (fun k l => Core.wg_l1i k.countStalls l _ _)
        (by simp [State.doMov, hf, hn]) h hg hb
    · exact leaves_mov (fun k => k.wg f.rd.toNat (k.special 1)) (fun k l => Core.wg_l1i k l _ _)
        (by simp [State.doMov, hf, hn]) h hg hb
    · exact leaves_mov (fun k => k.wg f.rd.toNat (k.special 2)) (fun k l => Core.wg_l1i k l _ _)
        (by simp [State.doMov, hf, hn]) h hg hb
    · exact leaves_mov (fun k => k.wg f.rd.toNat (k.special 3)) (fun k l => Core.wg_l1i k l _ _)
        (by simp [State.doMov, hf, hn]) h hg hb
    · exact leaves_mov_lane (fun k => k.wg f.rd.toNat ((k.rv f.rs1.toNat f.imm.toNat).zeroExtend 64))
        (fun k l => Core.wg_l1i k l _ _) f.rs1.toNat (fun t => by simp [State.doMov, hf]) h hg hb
    · exact leaves_mov_lane (fun k => k.wv f.rd.toNat f.imm.toNat ((k.rg f.rs1.toNat).truncate 32))
        (fun k l => rfl) f.rd.toNat (fun t => by simp [State.doMov, hf]) h hg hb
    · exact leaves_mov (fun k => { k with p := (k.rg f.rs1.toNat).truncate 8 }) (fun k l => rfl)
        (by simp [State.doMov, hf]) h hg hb
  · dsimp only
    refine ⟨fun hgood hg => ?_, fun hgood => ?_⟩
    · have hb : dsetBad f = false := by rw [dsetBad_eq, hgood]; rfl
      exact State.leaves_upd_advance
        (fun k => k.wd (f.rd.toNat % 16) (f.fn.toNat % 4) (if f.fn.getLsbD 2 then f.lit else k.rg f.rs1.toNat)) (fun k l => rfl)
        (exec_of_acts (act := fun s => (s.doDset c f, true)) h hg hb rfl rfl)
    · have hb : dsetBad f = true := by rw [dsetBad_eq, hgood]; rfl
      have hx : exec (.dset c f) s = .next (s.issue c (.dset c f) f.l (dsetBad f) f.guard fun s => (s.doDset c f, true)) := rfl
      rw [State.issue_ready h, hb] at hx
      exact State.leaves_stop h hx

end Sys2Proof.Machine
end

section
/-! PROOFS. LD and ST (O8, O9; R95, R206 to R209). -/

namespace Sys2Proof.Machine

-- One theorem at a time, as in the tests: the proofs together take too many threads.
set_option Elab.async false

/-! ### What the fetch leaves of the address checks -/

section
variable (s : State) (c : Nat) (long : Bool)

/-- A reading that does not look at the cores is the same after the fetch. -/
theorem State.fetched_read {α : Type} (read : State → α) (h : ∀ t x, read { t with cores := x } = read t) :
    read (s.fetched c long) = read s := by
  rw [← h (s.fetched c long) s.cores, s.fetched_rest]

@[simp] theorem State.fetched_ownAddr (n a : Nat) : (s.fetched c long).ownAddr n a = s.ownAddr n a :=
  s.fetched_read c long (·.ownAddr n a) fun _ _ => rfl

@[simp] theorem State.fetched_downAt (a : Nat) : (s.fetched c long).downAt a = s.downAt a := by
  unfold State.downAt
  split
  · exact s.fetched_down c long _
  · rfl

@[simp] theorem State.fetched_furledAt (n a : Nat) : (s.fetched c long).furledAt n a = s.furledAt n a :=
  s.fetched_read c long (·.furledAt n a) fun _ _ => rfl

@[simp] theorem State.fetched_refusedAt (n a : Nat) : (s.fetched c long).refusedAt n a = s.refusedAt n a := by
  simp [State.refusedAt]

@[simp] theorem State.fetched_mayAddr (n a : Nat) : (s.fetched c long).mayAddr n a = s.mayAddr n a := by
  simp [State.mayAddr]

@[simp] theorem State.fetched_addrCause (n a e : Nat) : (s.fetched c long).addrCause n a e = s.addrCause n a e := by
  simp [State.addrCause]

@[simp] theorem State.fetched_memAddr (f : FmtM) : memAddr ((s.fetched c long).core c) f = memAddr (s.core c) f :=
  s.fetched_core_read c long (memAddr · f) fun _ _ => rfl

@[simp] theorem State.fetched_outstanding : ((s.fetched c long).core c).outstanding = (s.core c).outstanding :=
  s.fetched_core_read c long (·.outstanding) fun _ _ => rfl

end

/-! ### The checks LD and ST share -/

section
variable {s : State} {c : CoreId} {a : Nat}

/-- An address out of range or not the core's own is refused with 0x04 (R28, R37). -/
theorem State.addrCause_notOwn (h : s.ownAddr c a = false) : s.addrCause c a 4 = 4 := by simp [State.addrCause, h]

/-- An address of its own that a core may not use is refused with 0x0B (R35, R306). -/
theorem State.addrCause_refused (h : s.ownAddr c a = true) (hr : s.refusedAt c a = true) : s.addrCause c a 4 = 0x0B := by
  simp [State.addrCause, h, hr]

/-- No address at or beyond 2^48 is populated (Table 1-5). -/
theorem place_beyond (h : 2 ^ 48 ≤ a) : place a = .nowhere := by
  unfold place tileBase lockerBase windowBase
  rw [if_neg (by omega), if_neg (by omega), if_neg (by omega), if_neg (by omega)]

/-- An address at or beyond 2^48 is not a core's own. -/
theorem State.ownAddr_beyond (h : 2 ^ 48 ≤ a) : s.ownAddr c a = false := by simp [State.ownAddr, place_beyond h]

/-- An aligned access of at most 8 bytes to a locker touches one protected word (R207). -/
theorem wordsOf_locker_part {m o n : Nat} (hp : place a = .locker m o) (hn : n = 1 ∨ n = 2 ∨ n = 4 ∨ n = 8) (ha : a % n = 0) :
    wordsOf a n = [a / 8 * 8] := by
  have hw : wordSize a = 8 := by rw [wordSize, hp]
  have hc : (a + n - 1) / 8 - a / 8 + 1 = 1 := by rcases hn with rfl | rfl | rfl | rfl <;> omega
  have h0 : n ≠ 0 := by omega
  simp only [wordsOf, wordOf, hw, hc, if_neg h0]
  simp

/-- An address in the own locker. -/
theorem inLocker_iff : inLocker c a = true ↔ ∃ o, place a = .locker c o := by
  unfold inLocker
  split <;> simp_all

end

/-- The widths of LD and ST (R95). -/
theorem memWidth_cases (f : FmtM) : memWidth f = 1 ∨ memWidth f = 2 ∨ memWidth f = 4 ∨ memWidth f = 8 := by
  have := f.sz.isLt
  unfold memWidth
  have h : f.sz.toNat = 0 ∨ f.sz.toNat = 1 ∨ f.sz.toNat = 2 ∨ f.sz.toNat = 3 := by omega
  rcases h with h | h | h | h <;> simp [h]

/-- The decode checks that LD and ST share pass where RSV and L are zero. -/
theorem memBad_eq_false {f : FmtM} (hr : f.rsv = 0) (hl : f.l = false) : (f.rsv != 0 || f.l) = false := by simp [hr, hl]

/-! ### LD -/

section
variable {s : State} {c : CoreId} {f : FmtM}

/-- LD stops at a misaligned address with cause 0x06 (R95). -/
theorem State.doLoad_misaligned (h : memAddr (s.core c) f % memWidth f ≠ 0) :
    s.doLoad c f = (s.stopCore c 6 (s.core c).pc.toNat, true) := if_pos h

/-- LD stops at an address that is refused (R28, R35). -/
theorem State.doLoad_refused (h : memAddr (s.core c) f % memWidth f = 0)
    (hr : (2 ^ 48 ≤ memAddr (s.core c) f || !s.mayAddr c (memAddr (s.core c) f)) = true) :
    s.doLoad c f = (s.stopCore c (s.addrCause c (memAddr (s.core c) f) 4) (s.core c).pc.toNat, true) := by
  unfold State.doLoad
  dsimp only
  rw [if_neg (not_not.2 h), if_pos hr]

/-- LD that passes its checks with room for a miss, or none to fear, reads by its path (R95, R208). -/
theorem State.doLoad_reads (h : memAddr (s.core c) f % memWidth f = 0) (hlt : memAddr (s.core c) f < 2 ^ 48)
    (hm : s.mayAddr c (memAddr (s.core c) f) = true)
    (hr : (s.core c).room = true ∨ inLocker c (memAddr (s.core c) f) = true ∨
      (s.core c).l1d.contains (memAddr (s.core c) f / 256) = true) :
    s.doLoad c f =
      match s.scalarRead c (memAddr (s.core c) f) (memWidth f) with
      | .wait sn => (s.stallWait c (.ld (Fin.ofNat 4096 c) f) sn, true)
      | .fault s' e => (s'.stopCore c e (s.core c).pc.toNat, true)
      | .ok s' (bs, ue) =>
        if ue then (s'.stopCore c 9 (s.core c).pc.toNat, true)
        else ((s'.setCore c ((s'.core c).wg f.rt.toNat (extendLoad f.x (memWidth f) (leNat bs)))).advance c false, true) := by
  unfold State.doLoad
  dsimp only
  rw [if_neg (not_not.2 h), if_neg (by simp [hm]; omega), if_neg (by rcases hr with hr | hr | hr <;> rw [hr] <;> simp)] <;> rfl

/-- LD once its path has answered. -/
theorem exec_ld_of_reads (h : s.canIssue c false = true) (hg : (s.core c).guardOk f.guard = true) (hb : (f.rsv != 0 || f.l) = false)
    (ha : memAddr (s.core c) f % memWidth f = 0) (hlt : memAddr (s.core c) f < 2 ^ 48)
    (hm : s.mayAddr c (memAddr (s.core c) f) = true)
    (hr : (s.core c).room = true ∨ inLocker c (memAddr (s.core c) f) = true ∨
      (s.core c).l1d.contains (memAddr (s.core c) f / 256) = true) :
    exec (.ld c f) s = .next
      (match (s.fetched c false).scalarRead c (memAddr (s.core c) f) (memWidth f) with
      | .wait sn => (s.fetched c false).stallWait c (.ld c f) sn
      | .fault v e => v.stopCore c e (s.core c).pc.toNat
      | .ok v (bs, ue) =>
        if ue then v.stopCore c 9 (s.core c).pc.toNat
        else (v.setCore c ((v.core c).wg f.rt.toNat (extendLoad f.x (memWidth f) (leNat bs)))).advance c false) := by
  have hl1 : ((s.fetched c false).core c).l1d = (s.core c).l1d := s.fetched_core_read c false (·.l1d) fun _ _ => rfl
  have hd : (s.fetched c false).doLoad c f = _ := State.doLoad_reads (by rwa [State.fetched_memAddr]) (by rwa [State.fetched_memAddr])
    (by rwa [State.fetched_memAddr, State.fetched_mayAddr]) (by rwa [State.fetched_room, State.fetched_memAddr, hl1])
  rw [State.fetched_memAddr, State.fetched_pc] at hd
  have hc : Fin.ofNat 4096 c.val = c := Fin.ofNat_val_eq_self c
  rw [hc] at hd
  refine exec_of_acts (i := .ld c f) (act := fun s => s.doLoad c f) h hg hb rfl (hd.trans ?_)
  split
  · rfl
  · rfl
  · split <;> rfl

/-- A clean load from the own locker reads its bytes and changes nothing (R207). -/
theorem State.scalarRead_ownLocker {a n : Nat} (hin : inLocker c a = true) (hn : n = 1 ∨ n = 2 ∨ n = 4 ∨ n = 8) (ha : a % n = 0)
    (hmark : s.mark (a / 8 * 8) = .none) : s.scalarRead c a n = .ok s (mread s.mem a n, false) := by
  obtain ⟨o, hp⟩ := inLocker_iff.1 hin
  have hl : s.linked (whoCore c) a = true := by simp [State.linked, hp, overMesh, whoCore]
  simp only [State.scalarRead, hp, if_true, State.readAt, hl, Bool.not_true, Bool.false_eq_true, if_false, State.lockerRead,
    wordsOf_locker_part hp hn ha, State.meetAll, State.meet, hmark, Bool.or_false]

/-- A load from a line of the L1 data cache that no corrected word spoils reads the line and uses it (R208, R209). -/
theorem State.scalarRead_l1 {a n : Nat} (hp : place a = .hbm ∨ ∃ m o, place a = .tile m o)
    (hl : (s.core c).l1d.contains (a / 256) = true) (hb : tfind (s.core c).l1Bad (2 * (a / 256)) = none) :
    s.scalarRead c a n =
      .ok (s.setCore c { s.core c with l1d := useLine (a / 256) (s.core c).l1d }) (mread (s.core c).l1Data a n, false) := by
  have hc : s.l1Check c 5 (a / 256) = s := by simp [State.l1Check, hb]
  have hx : s.scalarRead c a n = s.l1Load c a n := by
    rcases hp with hp | ⟨m, o, hp⟩ <;> simp only [State.scalarRead, hp]
  rw [hx, State.l1Load, hc, if_pos hl]

/-- A command that leaves the fetched state but for its core leaves everything else. -/
theorem State.leaves_of_fetched {i : Instr} {t : State} {long : Bool} {k : Core} (he : exec i s = .next t)
    (hk : { t.core c with l1i := (s.core c).l1i } = k) (ho : ∀ n, n ≠ c.val → t.core n = (s.fetched c long).core n)
    (hr : { t with cores := (s.fetched c long).cores } = s.fetched c long) : s.leaves i c k := by
  refine ⟨t, he, hk, fun n hn => ?_, ?_⟩
  · rw [ho n hn, s.fetched_other long hn]
  · have hx := congrArg (fun u : State => { u with cores := s.cores }) hr
    rw [s.fetched_rest c long] at hx
    exact hx

/-- Settles O8: the checks in the model's order, then each path's answer. -/
theorem loadsByPath : Obligations.LoadsByPath := by
  intro s c f h hg hr hl
  have hb := memBad_eq_false hr hl
  have hw := memWidth_cases f
  dsimp only
  rw [show ((s.core c).rg f.rb.toNat + f.off.signExtend 64).toNat = memAddr (s.core c) f from rfl,
    show 2 ^ f.sz.toNat = memWidth f from rfl]
  have hstop {e : Nat} (hd : (s.fetched c false).doLoad c f = ((s.fetched c false).stopCore c e (s.core c).pc.toNat, true)) :
      s.leaves (.ld c f) c ((s.core c).halted e) :=
    State.leaves_stop h (exec_of_acts (i := .ld c f) (act := fun s => s.doLoad c f) h hg hb rfl hd)
  have hrefuse (ha : memAddr (s.core c) f % memWidth f = 0)
      (hc : (2 ^ 48 ≤ memAddr (s.core c) f || !s.mayAddr c (memAddr (s.core c) f)) = true) :
      s.leaves (.ld c f) c ((s.core c).halted (s.addrCause c (memAddr (s.core c) f) 4)) := by
    refine hstop ((State.doLoad_refused (by rwa [State.fetched_memAddr])
      (by rwa [State.fetched_memAddr, State.fetched_mayAddr])).trans ?_)
    rw [State.fetched_memAddr, State.fetched_addrCause, State.fetched_pc]
  refine ⟨fun ha => ?_, fun ha hc => ?_, fun ha hlt ho hre => ?_, fun ha hlt hm hin hmk => ?_, fun ha hlt hm hp hl1 hb1 => ?_,
    fun ha hlt hm hroom => ?_⟩
  · refine hstop ((State.doLoad_misaligned (by rwa [State.fetched_memAddr])).trans ?_)
    rw [State.fetched_pc]
  · have hno : s.ownAddr c (memAddr (s.core c) f) = false := hc.elim State.ownAddr_beyond id
    have hx := hrefuse ha (by simp [State.mayAddr, hno])
    rwa [State.addrCause_notOwn hno] at hx
  · have hx := hrefuse ha (by simp [State.mayAddr, hre])
    rwa [State.addrCause_refused ho hre] at hx
  · have hx := exec_ld_of_reads h hg hb ha hlt hm (.inr (.inl hin))
    rw [State.scalarRead_ownLocker hin hw ha (by rwa [State.fetched_mark]), State.fetched_mem] at hx
    exact State.leaves_upd_advance (fun k => k.wg _ _) (fun k l => Core.wg_l1i k l _ _) hx
  · have hx := exec_ld_of_reads h hg hb ha hlt hm (.inr (.inr hl1))
    obtain ⟨l, hk⟩ := s.fetched_core_eq c false
    rw [State.scalarRead_l1 hp (by rwa [hk]) (by rwa [hk])] at hx
    rw [hk] at hx
    simp only [Bool.false_eq_true, if_false, State.core_setCore_self] at hx
    refine State.leaves_of_fetched (long := false) hx ?_ (fun n hn => ?_) ?_
    · simp only [State.advance, State.core_setCore_self, Core.wg, Core.past]
      split <;> rfl
    · simp only [State.advance, State.core_setCore_ne _ _ hn]
    · rfl
  · have hx := exec_ld_of_reads h hg hb ha hlt hm (.inl hroom)
    split
    next v bs hv =>
      rw [hv] at hx
      exact hx
    next v bs hv =>
      rw [hv] at hx
      exact hx
    next v e hv =>
      rw [hv] at hx
      exact hx
    next sn hv =>
      rw [hv] at hx
      exact hx

/-! ### ST -/

/-- ST stops at a misaligned address with cause 0x06 (R95). -/
theorem State.doStore_misaligned (h : memAddr (s.core c) f % memWidth f ≠ 0) :
    s.doStore c f = (s.stopCore c 6 (s.core c).pc.toNat, true) := if_pos h

/-- ST stops at an address that is refused (R28, R35). -/
theorem State.doStore_refused (h : memAddr (s.core c) f % memWidth f = 0)
    (hr : (2 ^ 48 ≤ memAddr (s.core c) f || !s.mayAddr c (memAddr (s.core c) f)) = true) :
    s.doStore c f = (s.stopCore c (s.addrCause c (memAddr (s.core c) f) 4) (s.core c).pc.toNat, true) := by
  unfold State.doStore
  dsimp only
  rw [if_neg (not_not.2 h), if_pos hr]

/-- ST that passes its checks waits for room elsewhere than in the own locker, and else stores (R55, R59). -/
theorem State.doStore_stores (h : memAddr (s.core c) f % memWidth f = 0) (hlt : memAddr (s.core c) f < 2 ^ 48)
    (hm : s.mayAddr c (memAddr (s.core c) f) = true) :
    s.doStore c f =
      if !(s.core c).room && !inLocker c (memAddr (s.core c) f) then (s, false)
      else ((s.postStore c (memAddr (s.core c) f) (leBytes (memWidth f) ((s.core c).rg f.rt.toNat).toNat)).advance c false, true) := by
  unfold State.doStore
  dsimp only
  rw [if_neg (not_not.2 h), if_neg (by simp [hm]; omega)]

/-- Byte i of a little-endian word. -/
theorem leBytes_getElem {n i : Nat} (v : Nat) (h : i < (leBytes n v).length) :
    (leBytes n v)[i] = BitVec.ofNat 8 (v / 2 ^ (8 * i)) := by
  induction n generalizing v i with
  | zero => simp [leBytes] at h
  | succ n ih =>
    cases i with
    | zero =>
      apply BitVec.eq_of_toNat_eq
      simp [leBytes]
    | succ i =>
      simp only [leBytes, List.getElem_cons_succ]
      rw [ih, Nat.div_div_eq_div_mul, show (256 : Nat) = 2 ^ 8 from rfl, ← pow_add, Nat.mul_succ, Nat.add_comm 8]

/-- A store of a clean part of a word of the own locker, with no flip armed, writes its bytes and leaves every mark (R207, R477). -/
theorem State.lockerWrite_part {m o a n : Nat} {bs : List Byte} (hp : place a = .locker m o) (hn : n = 1 ∨ n = 2 ∨ n = 4 ∨ n = 8)
    (ha : a % n = 0) (hl : bs.length = n) (hf : s.flipArmed 3 m = false) (hmark : s.mark (a / 8 * 8) = .none) :
    ∃ e, s.lockerWrite a bs = { s with errs := e, mem := mwrite s.mem a bs } ∧ ∀ w, tget Err.none e w = s.mark w := by
  have hne : bs ≠ [] := by rintro rfl; simp at hl; omega
  have hw : s.writeMarks a n [a / 8 * 8] = s.setMark (a / 8 * 8) .none ∨ s.writeMarks a n [a / 8 * 8] = s := by
    simp only [State.writeMarks, State.writeMark]
    split
    · exact .inl rfl
    · rw [hmark]
      exact .inr rfl
  have hflip (e : Tab Err) (b : Mem) : ({ s with errs := e, mem := b } : State).flipWrite (errUnit a).1 (errUnit a).2 (wordOf a) =
      { s with errs := e, mem := b } := by
    rw [errUnit, hp]
    exact if_neg (by rw [show ({ s with errs := e, mem := b } : State).flipArmed 3 m = s.flipArmed 3 m from rfl, hf]; decide)
  rcases hw with hw | hw
  · refine ⟨(s.setMark (a / 8 * 8) .none).errs, ?_, State.mark_setMark_clean hmark⟩
    simp only [State.lockerWrite, State.putBytes, if_neg hne, hl, wordsOf_locker_part hp hn ha, hw, hp]
    exact hflip _ _
  · refine ⟨s.errs, ?_, fun w => rfl⟩
    simp only [State.lockerWrite, State.putBytes, if_neg hne, hl, wordsOf_locker_part hp hn ha, hw, hp]
    exact hflip _ _

/-- A store posted elsewhere than in the own locker, with no flip armed for the L1 data cache: the line it hits and the list of posted
writes (R59, R208). -/
theorem State.postStore_elsewhere {a : Nat} {bs : List Byte} (hin : inLocker c a = false) (hf : s.flipArmed 5 c = false) :
    ∃ t : State, s.postStore c a bs = t.setCore c { s.core c with
        posted := (s.core c).posted ++ [{ p := .store a bs, pc := (s.core c).pc.toNat }]
        l1d := if (s.core c).l1d.contains (a / 256) then useLine (a / 256) (s.core c).l1d else (s.core c).l1d
        l1Data := if (s.core c).l1d.contains (a / 256) then mwrite (s.core c).l1Data a bs else (s.core c).l1Data } ∧
      (∀ n, n ≠ c.val → t.core n = s.core n) ∧ { t with cores := s.cores } = s := by
  unfold State.postStore State.l1Store
  rw [hin]
  by_cases hl : (s.core c).l1d.contains (a / 256) = true
  · refine ⟨s.setCore c { s.core c with l1d := useLine (a / 256) (s.core c).l1d, l1Data := mwrite (s.core c).l1Data a bs }, ?_,
      fun n hn => State.core_setCore_ne _ _ hn, rfl⟩
    have hflip (k : Core) (l : Nat) : (s.setCore c k).flipL1 c 5 l = s.setCore c k :=
      if_neg (by rw [show (s.setCore c k).flipArmed 5 c = s.flipArmed 5 c from rfl, hf]; decide)
    simp only [hl, if_true, Bool.false_eq_true, if_false, hflip, State.core_setCore_self]
  · refine ⟨s, ?_, fun _ _ => rfl, rfl⟩
    simp only [hl, Bool.false_eq_true, if_false]

end

/-- Settles O9: the checks LD has too, then the own locker's bytes or the list of posted writes. -/
theorem storesByPath : Obligations.StoresByPath := by
  intro s c f h hg hr hl hx0
  have hb : (f.rsv != 0 || f.l || f.x) = false := by simp [hr, hl, hx0]
  have hw := memWidth_cases f
  dsimp only
  rw [show ((s.core c).rg f.rb.toNat + f.off.signExtend 64).toNat = memAddr (s.core c) f from rfl,
    show 2 ^ f.sz.toNat = memWidth f from rfl]
  have hstop {e : Nat} (hd : (s.fetched c false).doStore c f = ((s.fetched c false).stopCore c e (s.core c).pc.toNat, true)) :
      s.leaves (.st c f) c ((s.core c).halted e) :=
    State.leaves_stop h (exec_of_acts (i := .st c f) (act := fun s => s.doStore c f) h hg hb rfl hd)
  have hrefuse (ha : memAddr (s.core c) f % memWidth f = 0)
      (hc : (2 ^ 48 ≤ memAddr (s.core c) f || !s.mayAddr c (memAddr (s.core c) f)) = true) :
      s.leaves (.st c f) c ((s.core c).halted (s.addrCause c (memAddr (s.core c) f) 4)) := by
    refine hstop ((State.doStore_refused (by rwa [State.fetched_memAddr])
      (by rwa [State.fetched_memAddr, State.fetched_mayAddr])).trans ?_)
    rw [State.fetched_memAddr, State.fetched_addrCause, State.fetched_pc]
  have hstore (ha : memAddr (s.core c) f % memWidth f = 0) (hlt : memAddr (s.core c) f < 2 ^ 48)
      (hm : s.mayAddr c (memAddr (s.core c) f) = true) : (s.fetched c false).doStore c f = _ :=
    State.doStore_stores (by rwa [State.fetched_memAddr]) (by rwa [State.fetched_memAddr])
      (by rwa [State.fetched_memAddr, State.fetched_mayAddr])
  simp only [State.fetched_memAddr, State.fetched_rg, State.fetched_room] at hstore
  refine ⟨fun ha => ?_, fun ha hc => ?_, fun ha hlt ho hre => ?_, fun ha hlt hm hin hf hmk => ?_, fun ha hlt hm hin hout => ?_,
    fun ha hlt hm hin hout hf => ?_⟩
  · refine hstop ((State.doStore_misaligned (by rwa [State.fetched_memAddr])).trans ?_)
    rw [State.fetched_pc]
  · have hno : s.ownAddr c (memAddr (s.core c) f) = false := hc.elim State.ownAddr_beyond id
    have hx := hrefuse ha (by simp [State.mayAddr, hno])
    rwa [State.addrCause_notOwn hno] at hx
  · have hx := hrefuse ha (by simp [State.mayAddr, hre])
    rwa [State.addrCause_refused ho hre] at hx
  · have hd := hstore ha hlt hm
    rw [if_neg (by simp [hin]), State.postStore, if_pos hin] at hd
    obtain ⟨o, hp⟩ := inLocker_iff.1 hin
    obtain ⟨e, he, hmarks⟩ := State.lockerWrite_part (s := s.fetched c false) (bs := leBytes (memWidth f) ((s.core c).rg f.rt.toNat).toNat)
      hp hw ha (leBytes_length _ _) (by rwa [State.fetched_flipArmed]) (by rwa [State.fetched_mark])
    rw [he] at hd
    obtain ⟨l, hk⟩ := s.fetched_core_eq c false
    refine ⟨_, exec_of_acts (i := .st c f) (act := fun s => s.doStore c f) h hg hb rfl hd, fun i hi => ?_, fun x hx => ?_, fun w => ?_, ?_,
      fun m hmc => ?_, ?_⟩
    · have hlen : i < (leBytes (memWidth f) ((s.core c).rg f.rt.toNat).toNat).length := by rwa [leBytes_length]
      refine (mget_mwrite_in _ _ _ _ hlen).trans ?_
      rw [leBytes_getElem]
      apply BitVec.eq_of_toNat_eq
      rw [BitVec.extractLsb'_toNat, BitVec.toNat_ofNat, Nat.shiftRight_eq_div_pow]
    · refine (mget_mwrite_out _ _ _ _ (by rwa [leBytes_length])).trans ?_
      rw [State.fetched_mem]
    · exact (hmarks w).trans (s.fetched_mark c false w)
    · rw [State.advance, State.core_setCore_self]
      show ({ ((s.fetched c false).core c).past false with l1i := (s.core c).l1i } : Core) = _
      rw [hk]
      rfl
    · exact (State.core_setCore_ne _ _ hmc).trans (s.fetched_other false hmc)
    · have hr := s.fetched_rest c false
      exact congrArg (fun u : State => { u with mem := s.mem, errs := s.errs }) hr
  · have hd := hstore ha hlt hm
    rw [if_pos (by simp [Core.room, hin]; omega)] at hd
    exact State.leaves_stall (exec_of_waits (i := .st c f) (act := fun s => s.doStore c f) h hg hb rfl hd)
  · have hd := hstore ha hlt hm
    rw [if_neg (by simp [Core.room, hin]; omega)] at hd
    obtain ⟨t, ht, hto, htr⟩ := State.postStore_elsewhere (s := s.fetched c false)
      (bs := leBytes (memWidth f) ((s.core c).rg f.rt.toNat).toNat) hin (by rwa [State.fetched_flipArmed])
    rw [ht] at hd
    obtain ⟨l, hk⟩ := s.fetched_core_eq c false
    rw [hk] at hd
    refine State.leaves_of_fetched (long := false) (exec_of_acts (i := .st c f) (act := fun s => s.doStore c f) h hg hb rfl hd) ?_
      (fun n hn => ?_) ?_
    · simp only [State.advance, State.core_setCore_self]
      rfl
    · simp only [State.advance, State.core_setCore_ne _ _ hn, hto n hn]
    · exact htr

end Sys2Proof.Machine
end

section
/-! PROOFS. Issue of the engine instructions (O10; R52, R53, R90). -/

namespace Sys2Proof.Machine

-- One theorem at a time, as in the tests: the proofs together take too many threads.
set_option Elab.async false

/-- What an engine instruction does once issued: its operation is queued, or waits, or is refused (R52, R53, R90). -/
def engineAct (i : Instr) (c : CoreId) (s : State) : State × Bool :=
  match engineOp (s.core c) i with
  | some o => s.pushOp c o (issueOk (s.core c) c i) (atIssue i)
  | none => (s, true)

/-- Every engine instruction is carried out by issue with `engineAct`. -/
theorem exec_engine {s : State} {i : Instr} {c : CoreId} {bad : Bool} {g : BitVec 5} {o : Op} (hw : i.wf = true)
    (hf : coreForm i = some (c, false, bad, g)) (ho : engineOp (s.core c) i = some o) :
    exec i s = .next (s.issue c i false bad g (engineAct i c)) := by
  cases i <;> simp only [engineOp, fmtEOf, fmtVOf, reduceCtorEq] at ho <;>
    simp only [coreForm, fmtEOf, fmtVOf, Option.some.injEq, Prod.mk.injEq] at hf <;> obtain ⟨rfl, -, rfl, rfl⟩ := hf <;> try rfl
  all_goals
    simp only [Instr.wf, decide_eq_true_eq] at hw
    simp only [exec, execVopLd, execVopSt, execVopMov, execVopBcast, execVopAdd, execVopSub, execVopMul, execVopFma, execVopMax, execVopMin,
      execVopAbs, execVopNeg, execVopAnd, execVopOr, execVopXor, execVopShl, execVopShr, execVopCvt, execVopRsum, execVopRmax,
      execVopPerm, State.vop, hw, ne_eq]
    rfl

section
variable (s : State) (c : CoreId)

@[simp] theorem State.fetched_engineOp (n : Nat) (i : Instr) (long : Bool) :
    engineOp ((s.fetched n long).core n) i = engineOp (s.core n) i :=
  s.fetched_core_read n long (engineOp · i) fun _ _ => rfl

@[simp] theorem State.fetched_issueOk (n : Nat) (m : Nat) (i : Instr) (long : Bool) :
    issueOk ((s.fetched n long).core n) m i = issueOk (s.core n) m i :=
  s.fetched_core_read n long (issueOk · m i) fun _ _ => rfl

@[simp] theorem State.fetched_aBusy (n : Nat) (long : Bool) (e : Option Eng) (bs : List Nat) :
    ((s.fetched n long).core n).aBusy e bs = (s.core n).aBusy e bs :=
  s.fetched_core_read n long (·.aBusy e bs) fun _ _ => rfl

@[simp] theorem State.fetched_pendingTok (n : Nat) (long : Bool) (k : Nat) :
    ((s.fetched n long).core n).pendingTok k = (s.core n).pendingTok k :=
  s.fetched_core_read n long (·.pendingTok k) fun _ _ => rfl

@[simp] theorem State.fetched_qFull (n : Nat) (long : Bool) (e : Eng) :
    ((s.fetched n long).core n).qFull e = (s.core n).qFull e :=
  s.fetched_core_read n long (·.qFull e) fun _ _ => rfl

end

/-- The records that change at issue do not depend on the order of the instruction cache. -/
theorem atIssue_l1i (i : Instr) (k : Core) (l : List Nat) : atIssue i { k with l1i := l } = { atIssue i k with l1i := l } := by
  unfold atIssue
  split <;> rfl

/-- The operation of an engine instruction is its own. -/
theorem engineOp_i {k : Core} {i : Instr} {o : Op} (h : engineOp k i = some o) : o.i = i := by
  unfold engineOp at h
  split at h
  · cases h
    rfl
  · cases h
    rfl
  · cases h

/-- Settles O10: the three outcomes of `State.pushOp`. -/
theorem engineIssueQueuesOperation : Obligations.EngineIssueQueuesOperation := by
  intro s i c g o hw hf ho h hg
  dsimp only
  have hx := exec_engine hw hf ho
  have hact : engineAct i c (s.fetched c false) =
      (s.fetched c false).pushOp c o (issueOk (s.core c) c i) (atIssue i) := by
    rw [engineAct, State.fetched_engineOp, ho, State.fetched_issueOk]
  rw [State.pushOp, State.fetched_pendingTok, State.fetched_qFull, State.fetched_vBusy, State.fetched_aBusy, State.fetched_pc,
    engineOp_i ho] at hact
  refine ⟨fun hwait => ?_, fun hwait hok => ?_, fun hwait hok => ?_⟩
  · exact State.leaves_stall (exec_of_waits h hg rfl hx (hact.trans (if_pos hwait)))
  · have hstop := (hact.trans (if_neg (Bool.eq_false_iff.1 hwait))).trans (if_pos (by rw [hok]; rfl))
    exact State.leaves_stop h (exec_of_acts h hg rfl hx hstop)
  · have hpush := (hact.trans (if_neg (Bool.eq_false_iff.1 hwait))).trans (if_neg (by rw [hok]; decide))
    exact State.leaves_upd_advance (fun k => atIssue i (k.push o)) (fun k l => atIssue_l1i i (k.push o) l)
      (exec_of_acts h hg rfl hx hpush)

end Sys2Proof.Machine
end

section
/-! PROOFS. Engine operations start and complete (O11, O12; R41, R49, R55, R176). -/

namespace Sys2Proof.Machine

-- One theorem at a time, as in the tests: the proofs together take too many threads.
set_option Elab.async false

/-! ### Lists -/

/-- Dropping the first element that satisfies p, as the library writes it. -/
theorem dropFirst_eq_eraseP {α : Type} (p : α → Bool) (xs : List α) : dropFirst p xs = xs.eraseP p := by
  induction xs with
  | nil => rfl
  | cons x xs ih =>
    rw [dropFirst, List.eraseP_cons, ih]
    cases p x <;> rfl

/-- Replacing the element at a position, as the library writes it. -/
theorem setAt_eq_set {α : Type} (j : Nat) (y : α) (xs : List α) : setAt j y xs = xs.set j y := by
  induction xs generalizing j with
  | nil => cases j <;> rfl
  | cons x xs ih => cases j with
    | zero => rfl
    | succ j => exact congrArg (x :: ·) (ih j)

/-- The position `nthIdx` answers holds an element that satisfies p. -/
theorem nthIdx_holds {α : Type} {p : α → Bool} {xs : List α} {n b j : Nat} (h : nthIdx p xs n b = some j) :
    b ≤ j ∧ ∃ x, xs[j - b]? = some x ∧ p x = true := by
  induction xs generalizing n b with
  | nil => cases h
  | cons x xs ih =>
    unfold nthIdx at h
    have hnext {n' : Nat} (h' : nthIdx p xs n' (b + 1) = some j) : b ≤ j ∧ ∃ y, (x :: xs)[j - b]? = some y ∧ p y = true := by
      obtain ⟨hb, y, hy, hp⟩ := ih h'
      refine ⟨by omega, y, ?_, hp⟩
      rw [show j - b = j - (b + 1) + 1 by omega]
      exact hy
    split at h
    next hp =>
      split at h
      · cases h
        exact ⟨le_rfl, x, by simp, hp⟩
      · exact hnext h
    · exact hnext h

section
variable {α : Type} {d : α} {t : Tab α} {n i : Nat}

/-- A canonical table holds nothing below its first key. -/
theorem tget_below [DecidableEq α] (h : tabWfFrom d n t = true) (hi : i < n) : tget d t i = d ∧ tdel i t = t := by
  induction t generalizing n with
  | nil => exact ⟨rfl, rfl⟩
  | cons e t ih =>
    obtain ⟨k, v⟩ := e
    simp only [tabWfFrom, Bool.and_eq_true, decide_eq_true_eq] at h
    obtain ⟨h1, h2⟩ := ih h.2 (by omega)
    have hk : k ≠ i := by omega
    exact ⟨by rw [tget, if_neg hk, h1], by rw [tdel, if_neg hk, h2]⟩

/-- A value is set behind an earlier key. -/
theorem tset_cons_of_lt [DecidableEq α] {k : Nat} {v x : α} (h : k < i) : tset d ((k, v) :: t) i x = (k, v) :: tset d t i x := by
  unfold tset
  split
  · rw [tdel, if_neg (by omega)]
  · rw [tput, if_neg (by omega), if_neg (by omega)]

/-- An entry written again as it is leaves a canonical table. -/
theorem tset_tget_from [DecidableEq α] (h : tabWfFrom d n t = true) : tset d t i (tget d t i) = t := by
  induction t generalizing n with
  | nil => exact if_pos rfl
  | cons e t ih =>
    obtain ⟨k, v⟩ := e
    have hw := h
    simp only [tabWfFrom, Bool.and_eq_true, decide_eq_true_eq] at h
    rcases Nat.lt_trichotomy i k with hi | rfl | hi
    · have hall : tabWfFrom d k ((k, v) :: t) = true := by simp [tabWfFrom, h.1.2, h.2]
      obtain ⟨h1, h2⟩ := tget_below hall hi
      rw [h1, tset, if_pos rfl, h2]
    · simp [tset, tget, tput, h.1.2]
    · rw [tset_cons_of_lt hi, tget, if_neg (by omega), ih h.2]

/-- The same from the table's first key. -/
theorem tset_tget [DecidableEq α] (i : Nat) (h : tabWf d t = true) : tset d t i (tget d t i) = t := tset_tget_from h

end

/-! ### Starting -/

section
variable {k : Core} {o : Op} {e : Eng}

/-- An MXU operation may start where none of the engine runs (Table 4-6). -/
theorem Core.mxuMayStart_alone (h : ∀ r ∈ k.run, r.eng ≠ .mxu) : k.mxuMayStart o = true := by
  have hf : (k.run.filter fun r => r.eng == .mxu) = [] := List.filter_eq_nil_iff.2 fun r hr => by simp [h r hr]
  simp [Core.mxuMayStart, hf]

/-- A VEC operation may start where none of the engine runs (R145). -/
theorem Core.vecMayStart_alone (h : ∀ r ∈ k.run, r.eng ≠ .vec) : k.vecMayStart o = true := by
  have hf : (k.run.filter fun r => r.eng == .vec) = [] := List.filter_eq_nil_iff.2 fun r hr => by simp [h r hr]
  simp [Core.vecMayStart, hf]

/-- An operation may start where none of its engine runs that could hold it back (R41, R176). -/
theorem Core.mayStart_alone (h : ∀ r ∈ k.run, (r.eng = o.eng → o.eng ≠ .mxu ∧ o.eng ≠ .vec) ∧ isLoad r = false ∧ isPq r = false) :
    k.mayStart o = true := by
  have hl : ∀ r ∈ k.run, isLoad r = false := fun r hr => (h r hr).2.1
  have hp : ∀ r ∈ k.run, isPq r = false := fun r hr => (h r hr).2.2
  unfold Core.mayStart
  split
  next he => exact Core.mxuMayStart_alone fun r hr hre => ((h r hr).1 (hre.trans he.symm)).1 he
  split
  next he => exact Core.vecMayStart_alone fun r hr hre => ((h r hr).1 (hre.trans he.symm)).2 he
  split
  · exact List.all_eq_true.2 fun r hr => by simp [hl r hr, hp r hr]
  split
  · exact List.all_eq_true.2 fun r hr => by simp [hp r hr]
  split
  · exact List.all_eq_true.2 fun r hr => by simp [hl r hr]
  · rfl

/-- The cascade passes over operations of other engines (R175). -/
theorem lkuCascade_append {xs ys : List Op} (h : ∀ r ∈ xs, r.eng ≠ .lku) :
    lkuCascade (xs ++ ys) = (xs ++ (lkuCascade ys).1, (lkuCascade ys).2) := by
  induction xs with
  | nil => rfl
  | cons x xs ih =>
    rw [List.cons_append, lkuCascade, if_pos (h x List.mem_cons_self), ih fun r hr => h r (List.mem_cons_of_mem x hr)]
    rfl

/-- An operation that is not finished stays where it stands. -/
theorem lkuCascade_unfinished (h : o.fin = false) : lkuCascade [o] = ([o], []) := by
  unfold lkuCascade
  split
  · rfl
  · simp [h]

/-- A finished LKU operation alone leaves with its token. -/
theorem lkuCascade_finished (he : o.eng = .lku) (h : o.fin = true) : lkuCascade [o] = ([], [o.tok]) := by
  simp [lkuCascade, he, h]

/-- An operation that starts and is no SWAP joins those that run (R41, R114, R176). -/
theorem Core.startOp_cascade (hr : ∀ r ∈ k.run, r.eng ≠ .lku) (hs : isSwap o = false) (hf : o.fin = false) :
    (k.startOp o).cascade = { k with run := k.run ++ [{ o with copy := if isLoad o then 1 - k.liveCopy else k.liveCopy }] } := by
  have hc : lkuCascade (k.startOp o).run = ((k.startOp o).run, []) := by
    rw [Core.startOp, if_neg (by rw [hs]; decide)]
    exact (lkuCascade_append hr).trans (by rw [lkuCascade_unfinished (by exact hf)])
  rw [Core.cascade, hc, Core.startOp, if_neg (by rw [hs]; decide)]
  rfl

/-- A SWAP that starts exchanges the copies, advances the epoch and frees its token (R113). -/
theorem Core.startOp_swap_cascade (hr : ∀ r ∈ k.run, r.eng ≠ .lku) (hs : isSwap o = true) (he : o.eng = .lku) :
    (k.startOp o).cascade =
      { k with liveB := !k.liveB, epoch := k.epoch + 1, tok := k.tok &&& ~~~(BitVec.twoPow 64 o.tok) } := by
  have hc : lkuCascade (k.startOp o).run = (k.run, [o.tok]) := by
    rw [Core.startOp, if_pos hs]
    exact (lkuCascade_append hr).trans (by rw [lkuCascade_finished (by exact he) rfl, List.append_nil])
  rw [Core.cascade, hc, Core.startOp, if_pos hs]
  rfl

end

/-- Settles O11: the branches of ENGINE_OP_START, and what the cascade does to a started operation. -/
theorem engineStartsItsFirstOperation : Obligations.EngineStartsItsFirstOperation := by
  intro s c e o
  dsimp only
  intro hq hfin hab
  have he : o.eng = e := by simpa using List.find?_some hq
  have hx : exec (.engineOpStart c e) s = execEngineOpStart c e s := rfl
  rw [hx, execEngineOpStart, hq, hab]
  refine ⟨fun hc => ?_, fun hc hm => ?_, fun hr => ?_, fun hc hm hr => ⟨fun hs => ?_, fun hs hl => ?_⟩⟩
  · simp [hc]
  · simp [hc, hm]
  · exact Core.mayStart_alone fun r hr' => by simpa [he] using hr r hr'
  · refine ⟨if isLoad o then 1 - (s.core c).liveCopy else (s.core c).liveCopy, ?_⟩
    simp only [hc, hm, Bool.not_true, Bool.false_eq_true, if_false, if_true]
    rw [Core.startOp_cascade (by exact hr) hs hfin, dropFirst_eq_eraseP]
    rfl
  · simp only [hc, hm, Bool.not_true, Bool.false_eq_true, if_false, if_true]
    rw [Core.startOp_swap_cascade (by exact hr) hs (he.trans hl), dropFirst_eq_eraseP]

/-! ### Completing -/

section
variable {s : State} {c : CoreId}

/-- With nothing posted no placed store is waited for (R61). -/
theorem State.flushPlaced_nil (hp : (s.core c).posted = []) :
    s.flushPlaced c = .ok (s.setCore c { s.core c with posted := [] }) () := by
  simp [State.flushPlaced, State.flush, hp, State.performPosts, Res.andThen]

/-- A core that has nothing posted is left by such a wait as it is. -/
theorem State.setCore_posted_nil (hw : tabWf {} s.cores = true) (hp : (s.core c).posted = []) :
    s.setCore c { s.core c with posted := [] } = s := by
  have hk : ({ s.core c with posted := [] } : Core) = s.core c := by rw [← hp]
  rw [hk, State.setCore]
  have := tset_tget (d := ({} : Core)) c.val hw
  rw [State.core, this]

/-- A started operation that may complete, on a core with room that no stop or halted channel holds back, performs its work (R49, R55). -/
theorem exec_engineOpComplete {e : Eng} {n j : Nat} {o : Op} (hj : nthIdx (fun x => x.eng == e) (s.core c).run n 0 = some j)
    (ho : (s.core c).run[j]? = some o) (hm : (s.core c).mayComplete e n o = true) (hc : s.clocked c = true)
    (hh : (e == .dma && (s.core c).chHalt.getLsbD o.ch) = false) (hr : (s.core c).room = true ∨ o.requests c = false) (hs : (s.core c).stop = none) :
    exec (.engineOpComplete c e n) s = .next (s.finishOp c j o) := by
  have hx : exec (.engineOpComplete c e n) s = execEngineOpComplete c e n s := rfl
  have ha : (s.core c).atAbort = false := by simp [Core.atAbort, hs]
  rw [hx, execEngineOpComplete, hj]
  simp only [ho, hm, hc, hh, ha, Bool.false_eq_true, if_false]
  rcases hr with hr | hr <;> simp [hr]

end

/-- A token that is freed is free (R49). -/
theorem getLsbD_freed (b : BitVec 64) (n : Nat) : (b &&& ~~~(BitVec.twoPow 64 n)).getLsbD n = false := by
  simp

/-- Settles O12: the branches of ENGINE_OP_COMPLETE, and the three answers of an operation's work. -/
theorem engineCompletesInItsOrder : Obligations.EngineCompletesInItsOrder := by
  intro s c e n j o
  dsimp only
  intro hj ho he hs hh hw
  have hoe : o.eng = e := by
    obtain ⟨-, x, hx, hp⟩ := nthIdx_holds hj
    rw [Nat.sub_zero, ho] at hx
    cases hx
    simpa using hp
  refine ⟨fun hno => ?_, fun hm hc hr hp => ?_⟩
  · have hx : exec (.engineOpComplete c e n) s = execEngineOpComplete c e n s := rfl
    rw [hx, execEngineOpComplete, hj]
    rcases hno with hno | hno <;> simp [ho, hno]
  · have hx := exec_engineOpComplete hj ho hm hc (by simp [hh]) (.inl hr) hs
    rw [State.finishOp, State.flushPlaced_nil hp, State.setCore_posted_nil hw hp] at hx
    simp only [Res.andThen] at hx
    split
    next t _ ht =>
      rw [ht] at hx
      refine ⟨hx, ?_⟩
      rw [Core.finish, if_neg (by rw [hoe]; exact he)]
      exact getLsbD_freed _ _
    next t cause ht =>
      rw [ht] at hx
      exact hx
    next sn ht =>
      rw [ht] at hx
      rw [hx]
      show Host.Outcome.next (State.setCore _ _ { s.core c with run := setAt j { o with waits := true } (s.core c).run }) = _
      rw [setAt_eq_set]

end Sys2Proof.Machine
end

section
/-! PROOFS. Vector and accumulator operations (O13, O14, O15; R103, R106, R126, R140). -/

namespace Sys2Proof.Machine

-- One theorem at a time, as in the tests: the proofs together take too many threads.
set_option Elab.async false

/-! ### Lanes of a vector register -/

section
variable {k : Core} {r r' i j l : Nat} {xs : List (BitVec 32)}

/-- A lane written reads as written. -/
theorem Core.rv_wv_self (x : BitVec 32) : (k.wv r i x).rv r i = x := tget_tset_self ..

/-- Another lane of the register file keeps its value. -/
theorem Core.rv_wv_ne (x : BitVec 32) (h : 64 * r' + l ≠ 64 * r + i) : (k.wv r i x).rv r' l = k.rv r' l := tget_tset_ne _ _ _ h

/-- Lanes outside those written keep their value. -/
theorem Core.rv_wvs_out (h : 64 * r' + l < 64 * r + i ∨ 64 * r + i + xs.length ≤ 64 * r' + l) : (k.wvs r i xs).rv r' l = k.rv r' l := by
  induction xs generalizing k i with
  | nil => rfl
  | cons x xs ih =>
    rw [List.length_cons] at h
    rw [Core.wvs, ih (by omega), Core.rv_wv_ne x (by omega)]

/-- Lanes written read as written. -/
theorem Core.rv_wvs_in (h : j < xs.length) : (k.wvs r i xs).rv r (i + j) = xs.getD j 0 := by
  induction xs generalizing k i j with
  | nil => simp at h
  | cons x xs ih =>
    rw [Core.wvs]
    cases j with
    | zero => rw [Core.rv_wvs_out (by omega), Nat.add_zero, Core.rv_wv_self, List.getD_cons_zero]
    | succ j => rw [show i + (j + 1) = i + 1 + j by omega, ih (by simpa using h), List.getD_cons_succ]

/-- A write of lanes changes nothing but the lanes. -/
theorem Core.wvs_frame : { k.wvs r i xs with v := k.v } = k := by
  induction xs generalizing k i with
  | nil => rfl
  | cons x xs ih =>
    have h := congrArg (fun k' : Core => { k' with v := k.v }) (ih (k := k.wv r i x) (i := i + 1))
    exact h

end

/-! ### A register operation of VEC completes -/

section
variable {s : State} {c : CoreId} {o : Op}

/-- The only operation of an engine, with nothing posted and no stop, does its work on the core as it is. -/
theorem exec_engineOpComplete_only {e : Eng} (hrun : (s.core c).run = [o]) (he : o.eng = e) (hm : (s.core c).mayComplete e 0 o = true)
    (hd : e ≠ .dma) (hp : (s.core c).posted = []) (hs : (s.core c).stop = none) (hc : s.clocked c = true) :
    exec (.engineOpComplete c e 0) s = .next (s.finishOp c 0 o) := by
  have hroom : (s.core c).room = true := by
    have h1 : ((s.core c).run.filter (·.waits)).length ≤ 1 := by
      rw [hrun]
      exact List.length_filter_le _ _
    have h2 : b2n ((s.core c).stall.isSome && (s.core c).stallReq) ≤ 1 := by
      unfold b2n
      split <;> omega
    simp only [Core.room, Core.outstanding, hp, List.length_nil, decide_eq_true_eq]
    omega
  exact exec_engineOpComplete (by simp [hrun, nthIdx, he]) (by rw [hrun]; rfl) hm hc (by simp [hd]) (.inl hroom) hs

/-- What such an operation leaves when its work is an update of its core. -/
theorem leaves_opUpdate {e : Eng} {upd : Core → Core} (hrun : (s.core c).run = [o]) (he : o.eng = e)
    (hm : (s.core c).mayComplete e 0 o = true) (hd : e ≠ .dma) (hl : e ≠ .lku) (hp : (s.core c).posted = [])
    (hs : (s.core c).stop = none) (hc : s.clocked c = true)
    (hop : ∀ u : State, u.core c = s.core c → u.runOp c o = .ok (u.setCore c (upd (u.core c))) ())
    (hr : (upd (s.core c)).run = [o]) (hl1 : (upd (s.core c)).l1i = (s.core c).l1i) :
    s.leaves (.engineOpComplete c e 0) c
      { upd (s.core c) with run := [], tok := (upd (s.core c)).tok &&& ~~~(BitVec.twoPow 64 o.tok) } := by
  have hk : ({ s.core c with posted := [] } : Core) = s.core c := by rw [← hp]
  have hx := exec_engineOpComplete_only hrun he hm hd hp hs hc
  rw [State.finishOp, State.flushPlaced_nil hp, hk] at hx
  simp only [Res.andThen] at hx
  rw [hop _ (State.core_setCore_self s c.val (s.core c))] at hx
  simp only [State.core_setCore_self] at hx
  refine ⟨_, hx, ?_, fun n hn => ?_, rfl⟩
  · rw [State.core_setCore_self, Core.finish, if_neg (by rw [he]; exact hl), hr, ← hl1]
    rfl
  · rw [State.core_setCore_ne _ _ hn, State.core_setCore_ne _ _ hn, State.core_setCore_ne _ _ hn]

/-- A register operation of VEC on a core that no stop cuts short: lane by lane from its result, and nothing else changes. -/
theorem leaves_vopLanes {f : FmtV} {xs : List (BitVec 32)} (hrun : (s.core c).run = [o]) (he : o.eng = .vec)
    (hp : (s.core c).posted = []) (hs : (s.core c).stop = none) (hc : s.clocked c = true) (hb : (s.core c).budget = none)
    (hop : ∀ u : State, u.runOp c o = u.spending c fun s => .ok (s.setCore c ((s.core c).runVop f)) ())
    (hx : (s.core c).runVop f = (s.core c).wvs f.vd.toNat 0 xs) (hl : xs.length = 64) :
    ∃ k' : Core, s.leaves (.engineOpComplete c .vec 0) c k' ∧ (∀ l, l < 64 → k'.rv f.vd.toNat l = xs.getD l 0) ∧
      (∀ r l, l < 64 → r ≠ f.vd.toNat → k'.rv r l = (s.core c).rv r l) ∧
      { k' with v := (s.core c).v } = { s.core c with run := [], tok := (s.core c).tok &&& ~~~(BitVec.twoPow 64 o.tok) } := by
  have hf := Core.wvs_frame (k := s.core c) (r := f.vd.toNat) (i := 0) (xs := xs)
  have hrun' : ((s.core c).wvs f.vd.toNat 0 xs).run = [o] := by
    have h := congrArg Core.run hf
    exact h.trans hrun
  have hl1 : ((s.core c).wvs f.vd.toNat 0 xs).l1i = (s.core c).l1i := by
    have h := congrArg Core.l1i hf
    exact h
  have htok : ((s.core c).wvs f.vd.toNat 0 xs).tok = (s.core c).tok := by
    have h := congrArg Core.tok hf
    exact h
  have hleaves := leaves_opUpdate (upd := fun k => k.runVop f) hrun he rfl (by decide) (by decide) hp hs hc
    (fun u hu => by simp only [hop u, State.spending, State.spend, hu, hb]) (by rw [hx]; exact hrun') (by rw [hx]; exact hl1)
  rw [hx, htok] at hleaves
  refine ⟨_, hleaves, fun l hlt => ?_, fun r l hlt hr => ?_, ?_⟩
  · have h := Core.rv_wvs_in (k := s.core c) (r := f.vd.toNat) (i := 0) (j := l) (xs := xs) (by omega)
    rw [Nat.zero_add] at h
    exact h
  · exact Core.rv_wvs_out (k := s.core c) (by omega)
  · have h := congrArg (fun k : Core => { k with run := [], tok := (s.core c).tok &&& ~~~(BitVec.twoPow 64 o.tok) }) hf
    exact h

end

/-! ### Integer lanes -/

/-- The lanes of an integer function. -/
theorem vInt_getD (fn : BitVec 32 → BitVec 32 → BitVec 32) (k : Core) (r r' l : Nat) (h : l < 64) :
    (vInt fn (k.rvs r) (k.rvs r')).getD l 0 = fn (k.rv r l) (k.rv r' l) := by
  rw [vInt, List.getD_eq_getElem?_getD, List.getElem?_map, List.getElem?_range h]
  simp only [Option.map_some, Option.getD_some]
  rw [Core.rvs_getD (h := h), Core.rvs_getD (h := h)]

section
variable {s : State} {c : CoreId} {o : Op} {f : FmtV} {fn fn' : BitVec 32 → BitVec 32 → BitVec 32} {r' : Nat}

/-- What the statement about integer lanes says of one core and operation. -/
def IntLanes (s : State) (c : CoreId) (o : Op) (f : FmtV) (fn : BitVec 32 → BitVec 32 → BitVec 32) : Prop :=
  ∃ k' : Core, s.leaves (.engineOpComplete c .vec 0) c k' ∧
    (∀ l, l < 64 → k'.rv f.vd.toNat l = fn ((s.core c).rv f.vs1.toNat l) ((s.core c).rv f.vs2.toNat l)) ∧
    (∀ r l, l < 64 → r ≠ f.vd.toNat → k'.rv r l = (s.core c).rv r l) ∧
    { k' with v := (s.core c).v } = { s.core c with run := [], tok := (s.core c).tok &&& ~~~(BitVec.twoPow 64 o.tok) }

/-- An integer operation whose result is a function of the lanes of two registers. -/
theorem intLanes_of (hrun : (s.core c).run = [o]) (he : o.eng = .vec) (hp : (s.core c).posted = []) (hs : (s.core c).stop = none)
    (hc : s.clocked c = true) (hb : (s.core c).budget = none)
    (hop : ∀ u : State, u.runOp c o = u.spending c fun s => .ok (s.setCore c ((s.core c).runVop f)) ())
    (hx : (s.core c).runVop f = (s.core c).wvs f.vd.toNat 0 (vInt fn' ((s.core c).rvs f.vs1.toNat) ((s.core c).rvs r')))
    (hfn : ∀ l, fn' ((s.core c).rv f.vs1.toNat l) ((s.core c).rv r' l) = fn ((s.core c).rv f.vs1.toNat l) ((s.core c).rv f.vs2.toNat l)) :
    IntLanes s c o f fn := by
  obtain ⟨k', h1, h2, h3, h4⟩ := leaves_vopLanes hrun he hp hs hc hb hop hx (by simp [vInt])
  exact ⟨k', h1, fun l hl => by rw [h2 l hl, vInt_getD _ _ _ _ _ hl, hfn], h3, h4⟩

end

/-- The result of an integer operation, from its VOPC (Table 3-11). -/
theorem Core.runVop_int (k : Core) {f : FmtV} (ht : f.t = 2) :
    k.runVop f = k.wvs f.vd.toNat 0
      (vopResult f.vopc.toNat .i32 f.x10.toNat (k.rvs f.vs1.toNat) (k.rvs f.vs2.toNat) (k.rvs f.vs3.toNat)) := by
  rw [Core.runVop, ht]
  rfl

/-- A register's lanes are the first operands of the projection. -/
theorem vInt_fst (k : Core) (r : Nat) : vInt (fun x _ => x) (k.rvs r) (k.rvs r) = k.rvs r := by
  refine List.ext_getElem (by simp [vInt, Core.rvs]) fun i h1 h2 => ?_
  have hi : i < 64 := by simpa [vInt] using h1
  simp [vInt, Core.rvs, hi]

/-- The shift counts are the low five bits of a lane (Table 3-11). -/
theorem toNat_and_31 (b : BitVec 32) : b.toNat % 32 = (b &&& 31).toNat := by
  rw [BitVec.toNat_and]
  exact (Nat.and_two_pow_sub_one_eq_mod b.toNat 5).symm

/-- Settles O13: operation by operation, the lanes of its result. -/
theorem vectorIntegerLanes : Obligations.VectorIntegerLanes := by
  intro s c o f fn
  dsimp only
  intro hrun he hp hs hc hb ht hcase
  have hx := Core.runVop_int (s.core c) ht
  show IntLanes s c o f fn
  rcases hcase with ⟨hv, hi, hfn⟩ | ⟨hv, hi, hfn⟩ | ⟨hv, hi, hfn⟩ | ⟨hv, hi, hfn⟩ | ⟨hv, hi, hfn⟩ | ⟨hv, hi, hfn⟩ | ⟨hv, hi, hfn⟩ |
    ⟨hv, hi, hfn⟩ | ⟨hv, hi, hfn⟩ | ⟨hv, hi, hfn⟩ | ⟨hv, hi, hfn⟩ | ⟨hv, hi, hfn⟩ | ⟨hv, hi, hfn⟩ <;>
    rw [hv] at hx <;>
    have hop : ∀ u : State, u.runOp c o = u.spending c fun s => .ok (s.setCore c ((s.core c).runVop f)) () :=
      fun u => by rw [State.runOp, hi]
  · refine intLanes_of (fn' := fun x _ => x) (r' := f.vs1.toNat) hrun he hp hs hc hb hop ?_ fun l => (hfn _ _).symm
    rw [vInt_fst]
    exact hx
  · exact intLanes_of hrun he hp hs hc hb hop hx fun l => (hfn _ _).symm
  · exact intLanes_of hrun he hp hs hc hb hop hx fun l => (hfn _ _).symm
  · exact intLanes_of hrun he hp hs hc hb hop hx fun l => (hfn _ _).symm
  · refine intLanes_of (fn' := imax) hrun he hp hs hc hb hop hx fun l => ?_
    rw [hfn, imax, BitVec.slt_eq_decide]
    simp only [decide_eq_true_eq]
  · refine intLanes_of (fn' := imin) hrun he hp hs hc hb hop hx fun l => ?_
    rw [hfn, imin, BitVec.slt_eq_decide]
    simp only [decide_eq_true_eq]
  · refine intLanes_of (fn' := fun x _ => if x.slt 0 then -x else x) (r' := f.vs1.toNat) hrun he hp hs hc hb hop hx fun l => ?_
    rw [hfn, BitVec.slt_eq_decide, show (0 : BitVec 32) - _ = -_ from BitVec.zero_sub _]
    simp only [decide_eq_true_eq]
    rfl
  · refine intLanes_of (fn' := fun x _ => -x) (r' := f.vs1.toNat) hrun he hp hs hc hb hop hx fun l => ?_
    rw [hfn, show (0 : BitVec 32) - _ = -_ from BitVec.zero_sub _]
  · exact intLanes_of hrun he hp hs hc hb hop hx fun l => (hfn _ _).symm
  · exact intLanes_of hrun he hp hs hc hb hop hx fun l => (hfn _ _).symm
  · exact intLanes_of hrun he hp hs hc hb hop hx fun l => (hfn _ _).symm
  · refine intLanes_of (fn' := fun x y => x <<< (y.toNat % 32)) hrun he hp hs hc hb hop hx fun l => ?_
    rw [hfn, toNat_and_31]
    rfl
  · refine intLanes_of (fn' := fun v y => if bit f.x10.toNat 0 then v.sshiftRight (y.toNat % 32) else v >>> (y.toNat % 32))
      hrun he hp hs hc hb hop hx fun l => ?_
    rw [hfn, toNat_and_31]
    rfl

/-! ### FP32 lanes -/

/-- The lanes of a floating function under FP32. -/
theorem vFloat_f32_getD (fn : FV → FV → FV → FV) (k : Core) (r1 r2 r3 l : Nat) (h : l < 64) :
    (vFloat .f32 fn (k.rvs r1) (k.rvs r2) (k.rvs r3)).getD l 0 =
      encF32 (fn (decF32 (k.rv r1 l)) (decF32 (k.rv r2 l)) (decF32 (k.rv r3 l))) := by
  rw [show vFloat .f32 fn (k.rvs r1) (k.rvs r2) (k.rvs r3) = (List.range 64).map fun i => encF32 (fn (decF32 ((k.rvs r1).getD i 0))
    (decF32 ((k.rvs r2).getD i 0)) (decF32 ((k.rvs r3).getD i 0))) from rfl]
  rw [List.getD_eq_getElem?_getD, List.getElem?_map, List.getElem?_range h]
  simp only [Option.map_some, Option.getD_some]
  rw [Core.rvs_getD (h := h), Core.rvs_getD (h := h), Core.rvs_getD (h := h)]

/-- Settles O14: operation by operation, the lanes of its result, each rounded once. -/
theorem vectorFloatLanes : Obligations.VectorFloatLanes := by
  intro s c o f fn
  dsimp only
  intro hrun he hp hs hc hb ht hcase
  have hx : (s.core c).runVop f = (s.core c).wvs f.vd.toNat 0 (vopResult f.vopc.toNat .f32 f.x10.toNat ((s.core c).rvs f.vs1.toNat)
      ((s.core c).rvs f.vs2.toNat) ((s.core c).rvs f.vs3.toNat)) := by
    rw [Core.runVop, ht]
    rfl
  have main {fn' : FV → FV → FV → FV} {r3 : Nat}
      (hop : ∀ u : State, u.runOp c o = u.spending c fun s => .ok (s.setCore c ((s.core c).runVop f)) ())
      (hx : (s.core c).runVop f = (s.core c).wvs f.vd.toNat 0
        (vFloat .f32 fn' ((s.core c).rvs f.vs1.toNat) ((s.core c).rvs f.vs2.toNat) ((s.core c).rvs r3)))
      (hfn : ∀ a b d d', fn' a b d = fn a b d' ∨ r3 = f.vs3.toNat ∧ fn' = fn) :
      ∃ k' : Core, s.leaves (.engineOpComplete c .vec 0) c k' ∧
      (∀ l, l < 64 → k'.rv f.vd.toNat l = encF32 (fn (decF32 ((s.core c).rv f.vs1.toNat l)) (decF32 ((s.core c).rv f.vs2.toNat l))
        (decF32 ((s.core c).rv f.vs3.toNat l)))) ∧
      (∀ r l, l < 64 → r ≠ f.vd.toNat → k'.rv r l = (s.core c).rv r l) ∧
      { k' with v := (s.core c).v } = { s.core c with run := [], tok := (s.core c).tok &&& ~~~(BitVec.twoPow 64 o.tok) } := by
    obtain ⟨k', h1, h2, h3, h4⟩ := leaves_vopLanes hrun he hp hs hc hb hop hx (by simp [vFloat])
    refine ⟨k', h1, fun l hl => ?_, h3, h4⟩
    rw [h2 l hl, vFloat_f32_getD _ _ _ _ _ _ hl]
    rcases hfn (decF32 ((s.core c).rv f.vs1.toNat l)) (decF32 ((s.core c).rv f.vs2.toNat l)) (decF32 ((s.core c).rv r3 l))
      (decF32 ((s.core c).rv f.vs3.toNat l)) with h | ⟨h, h'⟩
    · rw [h]
    · rw [h, h']
  rcases hcase with ⟨hv, hi, hfn⟩ | ⟨hv, hi, hfn⟩ | ⟨hv, hi, hfn⟩ | ⟨hv, hi, hfn⟩ | ⟨hv, hi, hfn⟩ | ⟨hv, hi, hfn⟩ <;>
    rw [hv] at hx <;>
    have hop : ∀ u : State, u.runOp c o = u.spending c fun s => .ok (s.setCore c ((s.core c).runVop f)) () :=
      fun u => by rw [State.runOp, hi]
  · exact main (fn' := fun x y _ => x.add y) (r3 := f.vs1.toNat) hop hx fun a b d d' => .inl (hfn a b d').symm
  · exact main (fn' := fun x y _ => x.add y.neg) (r3 := f.vs1.toNat) hop hx fun a b d d' => .inl (hfn a b d').symm
  · exact main (fn' := fun x y _ => x.mul y) (r3 := f.vs1.toNat) hop hx fun a b d d' => .inl (hfn a b d').symm
  · obtain rfl : fn = fun x y z => (x.mul y).add z := funext fun x => funext fun y => funext fun z => hfn x y z
    exact main (fn' := fun x y z => (x.mul y).add z) (r3 := f.vs3.toNat) hop hx fun a b d d' => .inr ⟨rfl, rfl⟩
  · exact main (fn' := fun x y _ => x.max y) (r3 := f.vs1.toNat) hop hx fun a b d d' => .inl (hfn a b d').symm
  · exact main (fn' := fun x y _ => x.min y) (r3 := f.vs1.toNat) hop hx fun a b d d' => .inl (hfn a b d').symm

/-! ### The accumulators -/

/-- A cleared bank reads as zeros. -/
theorem Core.ra_zeroBank_self (k : Core) {b r l : Nat} (hr : r < 32) (hl : l < 32) : (k.zeroBank b).ra b r l = 0 := by
  rw [Core.ra, Core.zeroBank, tget_tclear, if_pos]
  simp only [Bool.and_eq_true, decide_eq_true_eq]
  omega

/-- Clearing a bank leaves the other banks. -/
theorem Core.ra_zeroBank_ne (k : Core) {b n r l : Nat} (hn : n ≠ b) (hr : r < 32) (hl : l < 32) :
    (k.zeroBank b).ra n r l = k.ra n r l := by
  rw [Core.ra, Core.zeroBank, tget_tclear, if_neg, Core.ra]
  simp only [Bool.and_eq_true, decide_eq_true_eq]
  omega

/-- Settles O15: the bank's elements are dropped from the table, and its bit is set. -/
theorem accumulatorClear : Obligations.AccumulatorClear := by
  intro s c o f
  dsimp only
  intro hrun he hi hp hs hc
  have hb : mBank f = f.ra.toNat % 4 := by simp [mBank, bits]
  have hleaves := leaves_opUpdate (upd := fun k => (k.zeroBank (mBank f)).markBank (mBank f)) hrun he rfl (by decide) (by decide) hp hs hc
    (fun u _ => by rw [State.runOp, hi]; rfl) hrun rfl
  rw [hb] at hleaves
  exact ⟨_, hleaves, fun r l hr hl => (s.core c).ra_zeroBank_self hr hl, fun n r l hn hr hl => (s.core c).ra_zeroBank_ne hn hr hl, rfl, rfl⟩

end Sys2Proof.Machine
end

section
/-! PROOFS. Issue is resumed, cores are dispatched, drain, end and go down, and their stops are reported (O19, O20, O21; R43, R47, R73 to
R77). -/

namespace Sys2Proof.Machine

-- One theorem at a time, as in the tests: the proofs together take too many threads.
set_option Elab.async false

/-! ### Issue resumes -/

/-- A core instruction that is issued again is issued as its own row issues it. -/
theorem reissue_eq_exec {i : Instr} (h : (coreForm i).isSome = true) (s : State) : reissue i s = exec i s := by
  cases i with
  | ld | st | add | sub | mul | and | or | xor | shl | shr | cmp | mov | dset | br | brp | call | ret | dmaCp | dmaSkew | redLlc | dead
  | halRd | halWr | mxload | mma | mmaT | accClr | accRd | vopLd | vopSt | vopMov | vopBcast | vopAdd | vopSub | vopMul | vopFma | vopMax
  | vopMin | vopAbs | vopNeg | vopAnd | vopOr | vopXor | vopShl | vopShr | vopCvt | vopRsum | vopRmax | vopPerm | vnormRms | sfuTanh
  | sfuSig | sfuExp2 | sfuRsq | sfuRcp | selTopk | selMerge | lkuLoad | lkuSwap | lkuPq | fenceL | fenceR | invL1 | bar | wait
  | waitSignal | waitall | signal | signalEv => rfl
  | _ => cases h

/-- A word that spells an instruction spells a core instruction. -/
theorem coreForm_coreInstr {c : CoreId} {w lit : BitVec 64} {i : Instr} (h : coreInstr c w lit = some i) :
    (coreForm i).isSome = true := by
  have halu {op : Nat} {f : Alu} (h : aluOf c op f = some i) : (coreForm i).isSome = true := by
    unfold aluOf at h
    split at h <;> cases h <;> rfl
  have hvop {f : FmtV} (h : vopOf c f = some i) : (coreForm i).isSome = true := by
    unfold vopOf at h
    split at h <;> cases h <;> rfl
  unfold coreInstr at h
  split at h
  any_goals exact halu h
  any_goals exact hvop h
  any_goals split at h
  all_goals
    cases h <;> rfl

/-- A core instruction that is a term of its row completes. -/
theorem exec_reissued {i : Instr} (hi : (coreForm i).isSome = true) (hw : i.wf = true) (s : State) :
    ∃ t, reissue i s = .next t ∧ exec i s = .next t := by
  obtain ⟨t, ht, -⟩ := (reissue_completes (.refl s) i).completes hw
  exact ⟨t, ht, reissue_eq_exec hi s ▸ ht⟩

/-- ISSUE_RESUME on a core whose issue is free: its words are fetched, and the instruction that they spell is issued, or the core
stops. -/
theorem State.issueWord_ready {s : State} {c : CoreId} (h : s.canIssue c false = true) {w : Option Instr}
    (hw : coreInstr c (BitVec.ofNat 64 (leNat (mread s.mem (s.core c).pc.toNat 8)))
      (BitVec.ofNat 64 (leNat (mread s.mem ((s.core c).pc.toNat + 8) 8))) = w) :
    s.issueWord c = w.elim (.next ((s.fetched c false).stopCore c 1 (s.core c).pc.toNat)) fun i => reissue i (s.fetched c false) := by
  simp only [State.canIssue, Bool.and_eq_true, Bool.not_eq_true', decide_eq_true_eq, Option.isNone_iff_eq_none] at h
  obtain ⟨⟨⟨⟨⟨hrun, hdown⟩, hclk⟩, hstall⟩, hbar⟩, hready⟩ := h
  unfold State.issueWord
  rw [if_neg (by simp [hrun, hdown, hclk, hbar]), State.fetchLine_first hready]
  dsimp only
  rw [show (s.fetched c false).mem = s.mem from rfl, hw]
  cases w <;> rfl

/-! ### Dispatch -/

@[simp] theorem State.flipWrite_cores (s : State) (k u w : Nat) : (s.flipWrite k u w).cores = s.cores := by
  unfold State.flipWrite
  split
  · split <;> rfl
  · rfl

/-- A store of a whole word of a locker changes no core. -/
theorem State.lockerWrite_word_cores {s : State} {c : CoreId} {o a : Nat} {bs : List Byte} (hp : place a = .locker c o) (ha : a % 8 = 0)
    (hl : bs.length = 8) : (s.lockerWrite a bs).cores = s.cores := by
  have hne : bs ≠ [] := by rintro rfl; simp at hl
  have hw : wordSize a = 8 := by rw [wordSize, hp]
  have hmark : s.writeMarks a 8 [a] = s.setMark a .none := by
    simp [State.writeMarks, State.writeMark, coversWord, hw]
  simp only [State.lockerWrite, State.putBytes, if_neg hne, hl, wordsOf_locker_word hp ha, hmark, hp, State.flipWrite_cores]
  rfl

/-- The core that a dispatch packet starts (R43, R77, R314, Table 2-2). -/
def Core.started (k : Core) (c : Nat) (d : Disp) : Core :=
  (((({ k.clearL1s with
        phase := .running, stop := none, stall := none, disp := none, cyc := 0
        g := [], p := 0, d := [], v := [], acc := [], accW := 0, tok := 0, ret := [], pc := BitVec.ofNat 64 d.entry
        atBar := none, chHalt := 0, q := [], run := [], posted := [] } : Core).wg 1 (BitVec.ofNat 64 c)).wg 2
    (BitVec.ofNat 64 d.index)).wg 3 (BitVec.ofNat 64 d.count)).wg 4 (BitVec.ofNat 64 d.opnd)

theorem exec_dispatch_starts {s : State} {c : CoreId} {d : Disp} (hd : (s.core c).disp = some d) (hdown : (s.core c).down = false)
    (hp : s.passes .front (s.coreNode c) = true) :
    exec (.dispatch c) s =
      .next ((s.setCore c ((s.core c).started c d)).lockerWrite (lockerAddr c signalOff) (leBytes 8 0)) := by
  show execDispatch c s = _
  simp only [execDispatch, hd, hdown, hp, Bool.false_eq_true, Bool.not_true, if_false]
  rfl

section
variable (k : Core) (c : Nat) (d : Disp)

/-- A started core, g1 to g4 apart. -/
theorem Core.started_frame : { k.started c d with g := [] } = { k.clearL1s with
    phase := .running, stop := none, stall := none, disp := none, cyc := 0
    g := [], p := 0, d := [], v := [], acc := [], accW := 0, tok := 0, ret := [], pc := BitVec.ofNat 64 d.entry
    atBar := none, chHalt := 0, q := [], run := [], posted := [] } := rfl

/-- The registers of a started core that its packet does not give. -/
theorem Core.rg_started_zero {r : Nat} (h : r = 0 ∨ 5 ≤ r) : (k.started c d).rg r = 0 := by
  unfold Core.started
  rw [Core.rg_wg_ne _ _ (by omega), Core.rg_wg_ne _ _ (by omega), Core.rg_wg_ne _ _ (by omega), Core.rg_wg_ne _ _ (by omega), Core.rg]
  exact ite_self _

theorem Core.rg_started_core : (k.started c d).rg 1 = BitVec.ofNat 64 c := by
  unfold Core.started
  rw [Core.rg_wg_ne _ _ (by decide), Core.rg_wg_ne _ _ (by decide), Core.rg_wg_ne _ _ (by decide), Core.rg_wg_self _ _ (by decide)]

theorem Core.rg_started_index : (k.started c d).rg 2 = BitVec.ofNat 64 d.index := by
  unfold Core.started
  rw [Core.rg_wg_ne _ _ (by decide), Core.rg_wg_ne _ _ (by decide), Core.rg_wg_self _ _ (by decide)]

theorem Core.rg_started_count : (k.started c d).rg 3 = BitVec.ofNat 64 d.count := by
  unfold Core.started
  rw [Core.rg_wg_ne _ _ (by decide), Core.rg_wg_self _ _ (by decide)]

theorem Core.rg_started_operand : (k.started c d).rg 4 = BitVec.ofNat 64 d.opnd := by
  unfold Core.started
  rw [Core.rg_wg_self _ _ (by decide)]

end

/-- Settles O19: a stalled instruction and a fetched word issue as their own rows; a packet makes the core `Core.started`. -/
theorem resumeAndDispatch : Obligations.ResumeAndDispatch := by
  refine ⟨fun s c i hstall hform hw => ?_, fun s c hc => ⟨fun i hi => ?_, fun hi => ?_⟩, fun s c d hd hdown => ?_,
    fun s c d hd hdown hp => ?_⟩
  · obtain ⟨t, ht, he⟩ := exec_reissued hform hw s
    refine ⟨t, .trans ?_ ht, he⟩
    show execIssueResume c s = _
    simp only [execIssueResume, hstall]
  · have hstall : (s.core c).stall = none := by
      simp only [State.canIssue, Bool.and_eq_true, Option.isNone_iff_eq_none] at hc
      exact hc.1.1.2
    obtain ⟨t, ht, he⟩ := exec_reissued (coreForm_coreInstr hi) (coreInstr_wf hi) (s.fetched c false)
    refine ⟨t, .trans ?_ ht, he⟩
    show execIssueResume c s = _
    simp only [execIssueResume, hstall, State.issueWord_ready hc hi, Option.elim]
  · have hstall : (s.core c).stall = none := by
      simp only [State.canIssue, Bool.and_eq_true, Option.isNone_iff_eq_none] at hc
      exact hc.1.1.2
    refine State.leaves_stop hc (f := false) ?_
    show execIssueResume c s = _
    simp only [execIssueResume, hstall, State.issueWord_ready hc hi, Option.elim]
  · show execDispatch c s = _
    simp only [execDispatch, hd, hdown, if_true]
  · refine ⟨_, exec_dispatch_starts hd hdown hp, ?_⟩
    have hcores : ((s.setCore c ((s.core c).started c d)).lockerWrite (lockerAddr c signalOff) (leBytes 8 0)).cores =
        (s.setCore c ((s.core c).started c d)).cores :=
      State.lockerWrite_word_cores (place_signalWord c) (signalWord_aligned c) (leBytes_length 8 0)
    have hcore (n : Nat) : ((s.setCore c ((s.core c).started c d)).lockerWrite (lockerAddr c signalOff) (leBytes 8 0)).core n =
        (s.setCore c ((s.core c).started c d)).core n := by
      rw [State.core, hcores]
      rfl
    dsimp only
    rw [hcore c, State.core_setCore_self]
    refine ⟨rfl, rfl, rfl, rfl, rfl, rfl, (s.core c).rg_started_core c d, (s.core c).rg_started_index c d,
      (s.core c).rg_started_count c d, (s.core c).rg_started_operand c d, fun r _ hr => (s.core c).rg_started_zero c d hr,
      rfl, rfl, rfl, rfl, rfl, rfl, rfl, rfl, rfl, rfl, rfl, rfl, rfl, rfl, rfl, fun n hn => ?_, fun hf => ?_⟩
    · rw [hcore n, State.core_setCore_ne _ _ hn]
    · have hf' : (s.setCore c ((s.core c).started c d)).flipArmed 3 c = false := hf
      rw [State.lockerWrite_word (place_signalWord c) (signalWord_aligned c) (leBytes_length 8 0) hf']
      refine ⟨?_, fun x hx => ?_, rfl⟩
      · have h := mread_mwrite (leBytes 8 0) s.mem (lockerAddr c signalOff)
        rwa [leBytes_length] at h
      · exact mget_mwrite_out _ _ _ _ (by rw [leBytes_length]; exact hx)

end Sys2Proof.Machine
end

section
/-! PROOFS. Cores drain, end and go down, and their stops are reported (O20, O21; R47, R73 to R77). -/

namespace Sys2Proof.Machine

-- One theorem at a time, as in the tests: the proofs together take too many threads.
set_option Elab.async false

/-! ### The cores of a command are stopped -/

/-- A core that the front end stops (R74): one not yet dispatched never starts. -/
def Core.stoppedBy (k : Core) (cause : Nat) : Core :=
  if let some d := k.disp then { k with disp := none, stop := some ⟨cause, d.entry⟩ }
  else if k.phase = .running || k.phase = .ending then
    { k with atBar := none, stop := if k.stop.isSome then k.stop else some ⟨cause, k.pc.toNat⟩, phase := .draining, stall := none }
  else k

/-- The front end stops one core of a command. -/
def State.stopOne (r cause : Nat) (s : State) (c : Nat) : State :=
  let k := s.core c
  if let some d := k.disp then
    (s.setCore c { k with disp := none, stop := some ⟨cause, d.entry⟩ }).modCmd r fun m =>
      { m with stopped := m.stopped ||| BitVec.twoPow 4096 c }
  else if k.phase = .running || k.phase = .ending then
    (s.setCore c { k with atBar := none }).stopCore c cause k.pc.toNat
  else s

/-- The cores the front end stops for one that reports: the listed ones of the command but that one. -/
def State.othersOf (s : State) (m : Cmd) (except : Option Nat) : List Nat :=
  (s.cores.map (·.1)).filter fun c => m.cores.getLsbD c && some c ≠ except

section
variable (s : State) (r cause c n : Nat)

theorem State.stopCores_eq {m : Cmd} (except : Option Nat) (h : (s.rig r).running = some m) :
    s.stopCores r except cause = (s.each (s.othersOf m except) (State.stopOne r cause)).settle r := by
  rw [State.stopCores, h]
  rfl

theorem State.stopOne_core_self : (s.stopOne r cause c).core c = (s.core c).stoppedBy cause := by
  unfold State.stopOne Core.stoppedBy
  dsimp only
  split
  · rw [State.modCmd_core, State.core_setCore_self]
  · split
    next h =>
      rw [State.stopCore, State.core_setCore_self, State.core_setCore_self]
      dsimp only
      rw [if_pos (by simpa using h)]
    · rfl

theorem State.stopOne_core_ne (h : n ≠ c) : (s.stopOne r cause c).core n = s.core n := by
  unfold State.stopOne
  dsimp only
  split
  · rw [State.modCmd_core, State.core_setCore_ne _ _ h]
  · split
    · rw [State.stopCore, State.core_setCore_ne _ _ h, State.core_setCore_ne _ _ h]
    · rfl

/-- Stopping a core changes the cores and the rigs alone. -/
theorem State.stopOne_frame : { s.stopOne r cause c with cores := s.cores, rigs := s.rigs } = s := by
  unfold State.stopOne
  dsimp only
  split
  · rfl
  · split <;> rfl

/-- A command some of whose cores were stopped keeps its report, and its cores that counted as stopped still do. -/
def Cmd.KeepsStops (m m' : Cmd) : Prop := m'.rep = m.rep ∧ ∀ n, m.stopped.getLsbD n = true → m'.stopped.getLsbD n = true

theorem State.stopOne_running {m : Cmd} (h : (s.rig r).running = some m) :
    ∃ m', ((s.stopOne r cause c).rig r).running = some m' ∧ m.KeepsStops m' := by
  unfold State.stopOne
  dsimp only
  split
  · refine ⟨_, congrArg Rig.running (State.rig_modCmd_self _ _ _ (m := m) h), rfl, fun n hn => ?_⟩
    rw [BitVec.getLsbD_or, hn, Bool.true_or]
  · split <;> exact ⟨m, h, rfl, fun n hn => hn⟩

/-- A core with no packet that is stopped once is stopped. -/
theorem Core.stoppedBy_stoppedBy {k : Core} (h : k.disp = none) : (k.stoppedBy cause).stoppedBy cause = k.stoppedBy cause := by
  have hs : k.stoppedBy cause = if k.phase = .running || k.phase = .ending then
      { k with atBar := none, stop := if k.stop.isSome then k.stop else some ⟨cause, k.pc.toNat⟩, phase := .draining, stall := none }
      else k := by
    rw [Core.stoppedBy, h]
  by_cases hp : (k.phase = .running || k.phase = .ending) = true
  · rw [hs, if_pos hp, Core.stoppedBy, show ({ k with atBar := none, stop := if k.stop.isSome then k.stop else some ⟨cause, k.pc.toNat⟩, phase := .draining, stall := none } : Core).disp = none from h]
    rfl
  · rw [hs, if_neg hp, hs, if_neg hp]

theorem Core.stoppedBy_disp {k : Core} : (k.stoppedBy cause).disp = none := by
  unfold Core.stoppedBy
  split
  · rfl
  next h =>
    have hd : k.disp = none := Option.eq_none_iff_forall_ne_some.2 h
    split <;> exact hd

/-- The cores of a list that have no packet are stopped, each once however often it is listed. -/
theorem State.each_stopOne_core (cs : List Nat) (h : (s.core n).disp = none) :
    (s.each cs (State.stopOne r cause)).core n = if n ∈ cs then (s.core n).stoppedBy cause else s.core n := by
  induction cs generalizing s with
  | nil => rfl
  | cons c cs ih =>
    show ((s.stopOne r cause c).each cs (State.stopOne r cause)).core n = _
    by_cases hn : n = c
    · subst hn
      rw [ih _ (by rw [State.stopOne_core_self, Core.stoppedBy_disp]), State.stopOne_core_self, Core.stoppedBy_stoppedBy cause h]
      simp
    · rw [ih _ (by rwa [State.stopOne_core_ne _ _ _ _ _ hn]), State.stopOne_core_ne _ _ _ _ _ hn]
      simp [hn]

/-- The cores that are not listed stay. -/
theorem State.each_stopOne_core_out (cs : List Nat) (h : n ∉ cs) : (s.each cs (State.stopOne r cause)).core n = s.core n := by
  induction cs generalizing s with
  | nil => rfl
  | cons c cs ih =>
    rw [List.mem_cons, not_or] at h
    exact (ih _ h.2).trans (State.stopOne_core_ne _ _ _ _ _ h.1)

theorem State.each_stopOne_frame (cs : List Nat) :
    { s.each cs (State.stopOne r cause) with cores := s.cores, rigs := s.rigs } = s := by
  refine State.each_keeps s (fun t => { t with cores := s.cores, rigs := s.rigs } = s) (State.stopOne r cause) cs rfl fun t c ht => ?_
  have h := congrArg (fun u : State => { u with cores := s.cores, rigs := s.rigs }) (t.stopOne_frame r cause c)
  exact h.trans ht

theorem Cmd.KeepsStops.refl (m : Cmd) : m.KeepsStops m := ⟨rfl, fun _ h => h⟩

theorem Cmd.KeepsStops.trans {a b d : Cmd} (h : a.KeepsStops b) (h' : b.KeepsStops d) : a.KeepsStops d :=
  ⟨h'.1.trans h.1, fun n hn => h'.2 n (h.2 n hn)⟩

theorem State.each_stopOne_running {m : Cmd} (cs : List Nat) (h : (s.rig r).running = some m) :
    ∃ m', ((s.each cs (State.stopOne r cause)).rig r).running = some m' ∧ m.KeepsStops m' := by
  refine State.each_keeps s (fun t => ∃ m', (t.rig r).running = some m' ∧ m.KeepsStops m') (State.stopOne r cause) cs
    ⟨m, h, .refl m⟩ fun t c ⟨m', hm, hk⟩ => ?_
  obtain ⟨m'', hm', hk'⟩ := t.stopOne_running r cause c hm
  exact ⟨m'', hm', hk.trans hk'⟩

/-- A settled command changes the records waiting alone. -/
theorem State.settle_frame : { s.settle r with adm := s.adm } = s := by
  unfold State.settle
  split
  · split <;> rfl
  · rfl

@[simp] theorem State.settle_core : (s.settle r).core n = s.core n := by
  have h := congrArg State.cores (s.settle_frame r)
  exact congrArg (tget {} · n) h

@[simp] theorem State.settle_rig : (s.settle r).rig n = s.rig n := by
  have h := congrArg State.rigs (s.settle_frame r)
  exact congrArg (tget {} · n) h

end

/-! ### A stop is reported -/

/-- A command once a core's stop is reported to it. -/
def Cmd.reported (m : Cmd) (now c : Nat) (st : Stop) : Cmd :=
  { m.keepReport now c st with stopped := m.stopped ||| BitVec.twoPow 4096 c }

@[simp] theorem Cmd.reported_cores (m : Cmd) (now c : Nat) (st : Stop) : (m.reported now c st).cores = m.cores := by
  unfold Cmd.reported Cmd.keepReport
  dsimp only
  split
  · rfl
  · split
    · rfl
    · split <;> rfl

theorem Cmd.reported_stopped (m : Cmd) (now : Nat) (c : CoreId) (st : Stop) :
    (m.reported now c st).stopped.getLsbD c = true := by
  rw [Cmd.reported, BitVec.getLsbD_or, BitVec.getLsbD_twoPow]
  simp

section
variable {s : State} {r c : Nat} {m : Cmd} (st : Stop) (h : (s.rig r).running = some m)
include h

/-- A report changes the command, then stops the command's other cores. -/
theorem State.report_eq : s.report r c st =
    ((s.modCmd r fun m => m.reported s.adm.now c st).each (s.othersOf m (some c)) (State.stopOne r 0x0C)).settle r := by
  have hm := congrArg Rig.running (s.rig_modCmd_self r (fun m => m.reported s.adm.now c st) h)
  have he := State.stopCores_eq _ r 0x0C (some c) hm
  have ho : (s.modCmd r fun m => m.reported s.adm.now c st).othersOf (m.reported s.adm.now c st) (some c) = s.othersOf m (some c) := by
    unfold State.othersOf
    rw [Cmd.reported_cores]
    rfl
  rw [ho] at he
  exact he

theorem State.report_running : ∃ m', ((s.report r c st).rig r).running = some m' ∧ (m.reported s.adm.now c st).KeepsStops m' := by
  rw [State.report_eq st h, State.settle_rig]
  exact State.each_stopOne_running _ r 0x0C _ (congrArg Rig.running (s.rig_modCmd_self r _ h))

theorem State.report_core_out {n : Nat} (hn : n ∉ s.othersOf m (some c)) : (s.report r c st).core n = s.core n := by
  rw [State.report_eq st h, State.settle_core, State.each_stopOne_core_out _ _ _ _ _ hn]
  rfl

theorem State.report_core_in {n : Nat} (hn : n ∈ s.othersOf m (some c)) (hd : (s.core n).disp = none) :
    (s.report r c st).core n = (s.core n).stoppedBy 0x0C := by
  rw [State.report_eq st h, State.settle_core]
  exact (State.each_stopOne_core (s.modCmd r fun m => m.reported s.adm.now c st) r 0x0C n _ hd).trans (if_pos hn)

/-- A report changes cores, its rig's command and the records waiting, and nothing else. -/
theorem State.report_frame : { s.report r c st with cores := s.cores, rigs := s.rigs, adm := s.adm } = s := by
  rw [State.report_eq st h]
  generalize s.othersOf m (some c) = cs
  have h1 := State.settle_frame ((s.modCmd r fun m => m.reported s.adm.now c st).each cs (State.stopOne r 0x0C)) r
  have h2 := State.each_stopOne_frame (s.modCmd r fun m => m.reported s.adm.now c st) r 0x0C cs
  have h1' := congrArg (fun u : State => { u with cores := s.cores, rigs := s.rigs, adm := s.adm }) h1
  have h2' := congrArg (fun u : State => { u with cores := s.cores, rigs := s.rigs, adm := s.adm }) h2
  exact h1'.trans h2'

end

theorem State.self_not_mem_othersOf (s : State) (m : Cmd) (c : Nat) : c ∉ s.othersOf m (some c) := by
  simp [State.othersOf]

theorem State.mem_othersOf {s : State} {m : Cmd} {c n : Nat} :
    n ∈ s.othersOf m (some c) ↔ n ∈ s.cores.map (·.1) ∧ m.cores.getLsbD n = true ∧ n ≠ c := by
  simp [State.othersOf, List.mem_filter]

/-! ### The report that is kept -/

theorem Cmd.reported_rep_front (m : Cmd) (now c : Nat) {st : Stop} (h : st.cause = 0x0C ∨ st.cause = 0x0D) :
    (m.reported now c st).rep = m.rep := by
  rw [Cmd.reported, Cmd.keepReport, if_pos (by simpa using h)]

section
variable {m : Cmd} {now c : Nat} {st : Stop} (h1 : st.cause ≠ 0x0C) (h2 : st.cause ≠ 0x0D)
include h1 h2

theorem Cmd.reported_rep_first (h : m.rep = none) : (m.reported now c st).rep = some (c, st) := by
  rw [Cmd.reported, Cmd.keepReport, if_neg (by simp [h1, h2]), h]

theorem Cmd.reported_rep_later {x : Nat × Stop} (h : m.rep = some x) (ht : m.repAt ≠ now) : (m.reported now c st).rep = some x := by
  rw [Cmd.reported, Cmd.keepReport, if_neg (by simp [h1, h2]), h]
  dsimp only
  rw [if_neg (by simp [ht]), h]

theorem Cmd.reported_rep_tick {x : Nat × Stop} (h : m.rep = some x) (ht : m.repAt = now) :
    (m.reported now c st).rep = some (if outranks (c, st) x then (c, st) else x) := by
  rw [Cmd.reported, Cmd.keepReport, if_neg (by simp [h1, h2]), h]
  dsimp only
  rw [ht]
  by_cases ho : outranks (c, st) x = true
  · rw [if_pos ho, if_pos (by simp [ho])]
  · rw [if_neg ho, if_neg (by simp [ho]), h]

end

/-- A core that runs or ends is listed among the cores. -/
theorem State.listed_of_phase {s : State} {c : Nat} (h : (s.core c).phase = .running ∨ (s.core c).phase = .ending) :
    c ∈ s.cores.map (·.1) := by
  refine mem_keys_of_tget_ne (d := ({} : Core)) fun he => ?_
  rw [State.core, he] at h
  rcases h with h | h <;> cases h

theorem exec_stopReport {s : State} {c : CoreId} {r : Nat} {m : Cmd} {st : Stop} (hr : s.rigOfCore c = some r) (hst : (s.core c).stop = some st)
    (hph : (s.core c).phase = .stopped) (hm : (s.rig r).running = some m) (hc : m.cores.getLsbD c = true) (hn : m.stopped.getLsbD c = false)
    (hp : s.passes (s.coreNode c) .front = true) : exec (.stopReport c) s = .next (s.report r c st) := by
  show execStopReport c s = _
  simp only [execStopReport, hr, hst, hph, hm, hc, hn, hp, Option.any_some, decide_true, Bool.not_false, Bool.and_self, if_true]

/-- Settles O21: the command is `Cmd.reported`, and its other running cores are `Core.stoppedBy` the front end. -/
theorem stopReportsStopTheCommand : Obligations.StopReportsStopTheCommand := by
  intro s c r m st hr hst hph hm hc hn hp _
  obtain ⟨m', hm', hrep, hstops⟩ := State.report_running (c := c) st hm
  refine ⟨_, m', exec_stopReport hr hst hph hm hc hn hp, hm', hstops c (m.reported_stopped _ c st), fun h => ?_, fun h1 h2 => ⟨?_, ?_, ?_⟩,
    State.report_core_out st hm (s.self_not_mem_othersOf m c), ?_, fun n _ hnc hin hd hrun => ?_, fun n hout => ?_⟩
  · exact hrep.trans (m.reported_rep_front _ _ h)
  · exact fun h => hrep.trans (Cmd.reported_rep_first h1 h2 h)
  · exact fun x h ht => hrep.trans (Cmd.reported_rep_later h1 h2 h ht)
  · intro x h ht rank
    refine (hrep.trans (Cmd.reported_rep_tick h1 h2 h ht)).trans (congrArg some (if_congr ?_ rfl rfl))
    have hrank (z : Stop) : statusRank (causeStatus z.cause) = rank z := rfl
    simp only [outranks, hrank, Bool.or_eq_true, Bool.and_eq_true, decide_eq_true_eq, beq_iff_eq]
  · have h := congrArg State.mem (State.report_frame (c := c) st hm)
    exact h
  · have hlisted := State.mem_othersOf.2 ⟨State.listed_of_phase hrun, hin, hnc⟩
    rw [State.report_core_in st hm hlisted hd, Core.stoppedBy, hd]
    dsimp only
    rw [if_pos (by simpa using hrun)]
    exact ⟨rfl, rfl⟩
  · refine State.report_core_out st hm fun h => ?_
    rw [(State.mem_othersOf.1 h).2.1] at hout
    cases hout

/-! ### Sources that are raised -/

@[simp] theorem State.noteDue_pend (s : State) (n : Nat) : (s.noteDue n).evt.pend = s.evt.pend := by
  unfold State.noteDue
  split <;> rfl

@[simp] theorem State.noteDue_cause (s : State) (n : Nat) : (s.noteDue n).evt.cause = s.evt.cause := by
  unfold State.noteDue
  split <;> rfl

/-- Raising a source leaves the sources that are pending so. -/
theorem State.raiseSrc_pend_mono {s : State} {m : Nat} (n : Nat) (h : s.evt.pend.getLsbD m = true) :
    (s.raiseSrc n).evt.pend.getLsbD m = true := by
  unfold State.raiseSrc
  split
  · exact h
  · rw [State.noteDue_pend, BitVec.getLsbD_or, h, Bool.true_or]

/-- A listed source that is no rig's is pending once it is raised. -/
theorem State.raiseSrc_pend {s : State} {n : Nat} (hl : listedSource n = true) (hr : n < 128 ∨ 192 ≤ n) (hn : n < 2048) :
    (s.raiseSrc n).evt.pend.getLsbD n = true := by
  unfold State.raiseSrc
  split
  next h =>
    have hrig : (decide (128 ≤ n) && decide (n < 192)) = false := by
      rw [Bool.and_eq_false_iff, decide_eq_false_iff_not, decide_eq_false_iff_not]
      omega
    simpa [hl, hrig] using h
  · rw [State.noteDue_pend, BitVec.getLsbD_or, BitVec.getLsbD_twoPow]
    simp [hn]

@[simp] theorem State.raiseSrc_cause (s : State) (n : Nat) : (s.raiseSrc n).evt.cause = s.evt.cause := by
  unfold State.raiseSrc
  split
  · rfl
  · rw [State.noteDue_cause]

/-- A rig's source is among the causes of the rig once raised with them. -/
theorem State.rigCause_cause (s : State) (r : Nat) (b : BitVec 16) : tget 0 (s.rigCause r b).evt.cause r = tget 0 s.evt.cause r ||| b := by
  rw [State.rigCause, State.raiseSrc_cause]
  exact tget_tset_self _ _ _ _

theorem State.rigCause_pend_mono {s : State} {m : Nat} (r : Nat) (b : BitVec 16) (h : s.evt.pend.getLsbD m = true) :
    (s.rigCause r b).evt.pend.getLsbD m = true := State.raiseSrc_pend_mono _ h

/-- The source of a yard that its core's end raises. -/
theorem State.yardEvent_pend {s : State} {y : Nat} (hy : y < 256) : (s.yardEvent y 0).evt.pend.getLsbD (1024 + 4 * y) = true := by
  refine State.raiseSrc_pend (n := 1024 + 4 * y) ?_ (by omega) (by omega)
  simp only [listedSource, Bool.or_eq_true, Bool.and_eq_true, decide_eq_true_eq]
  omega

/-! ### A core goes down -/

/-- A core that is marked down (R76). -/
def Core.wentDown (k : Core) : Core :=
  let busy := k.phase ≠ .idle && k.phase ≠ .ended && k.phase ≠ .stopped
  { k with
    down := true
    phase := if busy || k.disp.isSome then .stopped else k.phase
    stop := if busy && k.stop.isNone then some ⟨0x0B, k.pc.toNat⟩ else k.stop
    stall := none, disp := none, q := [], run := [], posted := [], atBar := none }

theorem Core.wentDown_phase (k : Core) : k.wentDown.phase ≠ .running := by
  have h : k.wentDown.phase = if (k.phase ≠ .idle && k.phase ≠ .ended && k.phase ≠ .stopped) || k.disp.isSome then .stopped else k.phase := rfl
  rw [h]
  split
  · exact nofun
  next hb =>
    intro hr
    rw [hr] at hb
    exact hb rfl

/-- The position of a core that goes down counts as failed. -/
def State.positionBad (s : State) (record : Bool) (c : Nat) : State :=
  let y := yardOf c
  match s.columnOf c with
  | some p =>
    let s := s.setYard y { s.yard y with bad := (s.yard y).bad ||| BitVec.twoPow 18 p }
    if record then s.recordFail 0 (18 * y + p) else s
  | none => s

/-- The state once a core is down, before its rig is told. -/
def State.coreGone (s : State) (record : Bool) (c : Nat) : State :=
  (((s.positionBad record c).setCore c (s.core c).wentDown).stopTile c).yardEvent (yardOf c) 0

section
variable (s : State) (record : Bool) (c : Nat)

theorem State.markDown_eq (h : (s.core c).down = false) : s.markDown record c =
    match (s.coreGone record c).rigOfCore c with
    | none => s.coreGone record c
    | some r =>
      match (((s.coreGone record c).rigCause r causeDown).rig r).running with
      | some m =>
        if m.stage = .running && m.onCores && m.cores.getLsbD c then
          ((s.coreGone record c).rigCause r causeDown).report r c ⟨0x0B, (s.core c).pc.toNat⟩
        else (s.coreGone record c).rigCause r causeDown
      | none => (s.coreGone record c).rigCause r causeDown := by
  rw [State.markDown]
  dsimp only
  rw [if_neg (by rw [h]; exact Bool.false_ne_true)]
  rfl

/-- What a failed position changes. -/
theorem State.positionBad_frame : { s.positionBad record c with yards := s.yards, failures := s.failures, evt := s.evt } = s := by
  unfold State.positionBad State.recordFail
  dsimp only
  split
  · split
    · split
      · rfl
      · split
        · rfl
        · have h := State.raiseSrc_frame (s.setYard (yardOf c) { s.yard (yardOf c) with bad := (s.yard (yardOf c)).bad ||| BitVec.twoPow 18 ‹Nat› }) 259
          exact congrArg (fun u : State => { u with yards := s.yards, failures := s.failures, evt := s.evt }) h
    · rfl
  · rfl

/-- Stopping the units of banks changes the banks alone. -/
theorem State.each_bank_eq (f : State → Nat → State) (hf : ∀ t b, ∃ x, f t b = { t with banks := x }) (bs : List Nat) :
    ∃ x, s.each bs f = { s with banks := x } := by
  refine State.each_keeps s (fun t => ∃ x, t = { s with banks := x }) f bs ⟨_, rfl⟩ fun t b ⟨x, hx⟩ => ?_
  obtain ⟨y, hy⟩ := hf t b
  exact ⟨y, by rw [hy, hx]⟩

/-- What stopping a tile's units changes. -/
theorem State.stopTile_eq : ∃ t x, s.stopTile c = { s with tiles := t, banks := x } := by
  unfold State.stopTile
  dsimp only
  generalize List.range 16 = bs
  generalize hf : (fun (s : State) b => if s.bank c b = {} then s
    else s.setBank c b { s.bank c b with run := none, queued := none, held := [], inS := none }) = f
  obtain ⟨x, hx⟩ := s.each_bank_eq f (fun t b => by rw [← hf]; dsimp only; split <;> exact ⟨_, rfl⟩) bs
  rw [hx]
  exact ⟨_, x, rfl⟩

theorem State.raiseSrc_eq (n : Nat) : ∃ e, s.raiseSrc n = { s with evt := e } := by
  unfold State.raiseSrc State.noteDue
  split
  · exact ⟨_, rfl⟩
  · split <;> exact ⟨_, rfl⟩

theorem State.coreGone_eq : ∃ y f e t x, s.coreGone record c =
    { s.setCore c (s.core c).wentDown with yards := y, failures := f, evt := e, tiles := t, banks := x } := by
  have h1 : ∃ y f e, s.positionBad record c = { s with yards := y, failures := f, evt := e } := by
    have h := s.positionBad_frame record c
    exact ⟨_, _, _, by conv => rhs; rw [← h]⟩
  obtain ⟨y, f, e, h1⟩ := h1
  obtain ⟨t, x, h2⟩ := (({ s with yards := y, failures := f, evt := e } : State).setCore c (s.core c).wentDown).stopTile_eq c
  obtain ⟨e', h3⟩ := ({ ({ s with yards := y, failures := f, evt := e } : State).setCore c (s.core c).wentDown with
    tiles := t, banks := x } : State).raiseSrc_eq (1024 + 4 * yardOf c + 0)
  exact ⟨y, f, e', t, x, by rw [State.coreGone, h1, h2, State.yardEvent, h3]; rfl⟩

theorem State.coreGone_core (n : Nat) : (s.coreGone record c).core n = (s.setCore c (s.core c).wentDown).core n := by
  obtain ⟨y, f, e, t, x, h⟩ := s.coreGone_eq record c
  rw [h]
  rfl

theorem State.coreGone_rigs : (s.coreGone record c).rigs = s.rigs := by
  obtain ⟨y, f, e, t, x, h⟩ := s.coreGone_eq record c
  rw [h]
  rfl

theorem State.coreGone_mem : (s.coreGone record c).mem = s.mem := by
  obtain ⟨y, f, e, t, x, h⟩ := s.coreGone_eq record c
  rw [h]
  rfl

theorem State.rig_congr {s t : State} (h : t.rigs = s.rigs) (r : Nat) : t.rig r = s.rig r := by
  rw [State.rig, h, State.rig]

theorem State.rigOfCore_congr {s t : State} (h : t.rigs = s.rigs) (n : Nat) : t.rigOfCore n = s.rigOfCore n := by
  unfold State.rigOfCore State.rig
  rw [h]

end

/-- The source of its yard is pending once a core has gone down. -/
theorem State.coreGone_pend (s : State) (record : Bool) (c : CoreId) :
    (s.coreGone record c).evt.pend.getLsbD (1024 + 4 * (c.val / 16)) = true :=
  State.yardEvent_pend (y := yardOf c) (Nat.div_lt_of_lt_mul c.isLt)

/-- A core that ends its part is counted in its command (R47). -/
theorem exec_coreEndReport {s : State} {c : CoreId} (hph : (s.core c).phase = .ending) (ht : (s.core c).tok = 0)
    (hpo : (s.core c).posted = []) (hp : s.passes (s.coreNode c) .front = true) :
    exec (.coreEndReport c) s = .next (match s.rigOfCore c with
      | some r => ((s.setCore c { s.core c with phase := .ended }).modCmd r fun m =>
          { m with ended := m.ended ||| BitVec.twoPow 4096 c }).settle r
      | none => s.setCore c { s.core c with phase := .ended }) := by
  show execCoreEndReport c s = _
  rw [execCoreEndReport, if_pos ⟨hph, ht, hpo, hp⟩]
  dsimp only
  rw [show (s.setCore c { s.core c with phase := .ended }).rigOfCore c = s.rigOfCore c from rfl]
  rcases s.rigOfCore c with _ | r <;> rfl

/-- What a core's going down leaves, whether or not it is in a rig. -/
theorem State.markDown_core (s : State) (record : Bool) (c : CoreId) (h : (s.core c).down = false) :
    (s.markDown record c).core c = (s.core c).wentDown ∧ (s.markDown record c).mem = s.mem ∧
      (s.markDown record c).evt.pend.getLsbD (1024 + 4 * (c.val / 16)) = true := by
  have hcore := s.coreGone_core record c c
  rw [State.core_setCore_self] at hcore
  have hmem := s.coreGone_mem record c
  have hpend := s.coreGone_pend record c
  generalize (s.core c).wentDown = k at hcore ⊢
  rw [State.markDown_eq s record c h]
  generalize s.coreGone record c = t at hcore hmem hpend ⊢
  split
  · exact ⟨hcore, hmem, hpend⟩
  next r hr =>
    have hpend' := State.rigCause_pend_mono r causeDown hpend
    obtain ⟨e, he⟩ := (({ t with evt := { t.evt with cause := tset 0 t.evt.cause r (tget 0 t.evt.cause r ||| causeDown) } } :
      State)).raiseSrc_eq (128 + r)
    have hrc : t.rigCause r causeDown = { t with evt := e } := by rw [State.rigCause, he]
    rw [hrc] at hpend' ⊢
    split
    next m hm =>
      split
      · have hf := State.report_frame (c := c) ⟨0x0B, (s.core c).pc.toNat⟩ hm
        have h1 := congrArg State.mem hf
        have h2 := congrArg State.evt hf
        refine ⟨(State.report_core_out _ hm (State.self_not_mem_othersOf _ m c)).trans hcore, .trans h1 hmem, ?_⟩
        have h3 := congrArg (fun e : Evt => e.pend.getLsbD (1024 + 4 * (c.val / 16))) h2
        exact h3.trans hpend'
      · exact ⟨hcore, hmem, hpend'⟩
    · exact ⟨hcore, hmem, hpend'⟩

/-- What a core's going down does to its rig. -/
theorem State.markDown_rig (s : State) (record : Bool) (c : CoreId) (h : (s.core c).down = false) {r : Nat} (hr : s.rigOfCore c = some r) :
    (tget 0 (s.markDown record c).evt.cause r).getLsbD 1 = true ∧
      ∀ m, (s.rig r).running = some m → m.stage = .running → m.onCores = true → m.cores.getLsbD c = true →
        ∃ m', ((s.markDown record c).rig r).running = some m' ∧ m'.stopped.getLsbD c = true := by
  have hr' : (s.coreGone record c).rigOfCore c = some r := (State.rigOfCore_congr (s.coreGone_rigs record c) c).trans hr
  have hrigs : (s.coreGone record c).rig r = s.rig r := State.rig_congr (s.coreGone_rigs record c) r
  rw [State.markDown_eq s record c h, hr']
  generalize s.coreGone record c = t at hrigs ⊢
  have hcause : (tget 0 (t.rigCause r causeDown).evt.cause r).getLsbD 1 = true := by
    rw [State.rigCause_cause, BitVec.getLsbD_or]
    exact Bool.or_eq_true_iff.2 (.inr rfl)
  have hrig : (t.rigCause r causeDown).rig r = s.rig r := by
    have h := congrArg State.rigs (t.rigCause_frame r causeDown)
    exact (State.rig_congr h r).trans hrigs
  dsimp only
  split
  next m hm =>
    split
    · have hf := State.report_frame (c := c) ⟨0x0B, (s.core c).pc.toNat⟩ hm
      have h2 := congrArg State.evt hf
      refine ⟨?_, fun m1 hm1 _ _ _ => ?_⟩
      · have h3 := congrArg (fun e : Evt => (tget 0 e.cause r).getLsbD 1) h2
        exact h3.trans hcause
      · obtain ⟨m', hm', -, hst⟩ := State.report_running (c := c) ⟨0x0B, (s.core c).pc.toNat⟩ hm
        exact ⟨m', hm', hst c (m.reported_stopped _ c _)⟩
    next hno =>
      refine ⟨hcause, fun m1 hm1 h1 h2 h3 => absurd ?_ hno⟩
      obtain rfl : m = m1 := by
        rw [hrig, hm1] at hm
        exact (Option.some.inj hm).symm
      simp [h1, h2, h3]
  next hm =>
    refine ⟨hcause, fun m1 hm1 _ _ _ => ?_⟩
    rw [hrig, hm1] at hm
    cases hm

/-- A core in no rig that goes down leaves the other cores. -/
theorem State.markDown_other (s : State) (record : Bool) (c : CoreId) (h : (s.core c).down = false) (hr : s.rigOfCore c = none) {n : Nat}
    (hn : n ≠ c) : (s.markDown record c).core n = s.core n := by
  have hr' : (s.coreGone record c).rigOfCore c = none := (State.rigOfCore_congr (s.coreGone_rigs record c) c).trans hr
  rw [State.markDown_eq s record c h, hr']
  exact (s.coreGone_core record c n).trans (State.core_setCore_ne _ _ hn)

/-- Settles O20: a core that goes down is `Core.wentDown`; its rig's command has the stop reported to it. -/
theorem coresDrainEndAndGoDown : Obligations.CoresDrainEndAndGoDown := by
  refine ⟨fun s c => ⟨fun hph hq hr hpo => ?_, fun hno => ?_⟩, fun s c hph ht hpo hp => ?_, fun s c hd => ?_, fun s c hd => ?_⟩
  · exact if_pos ⟨hph, hq, hr, hpo⟩
  · refine if_neg fun ⟨hph, hq, hr, hpo⟩ => ?_
    rcases hno with h | h | h | h
    · exact h hph
    · exact h hq
    · exact h hr
    · exact h hpo
  · refine ⟨_, exec_coreEndReport hph ht hpo hp, ?_⟩
    split
    next r hr =>
      refine ⟨by simp, fun n hn => ?_, ?_, fun r' m hr' hm => ?_⟩
      · rw [State.settle_core, State.modCmd_core, State.core_setCore_ne _ _ hn]
      · have h := congrArg State.mem (State.settle_frame ((s.setCore c { s.core c with phase := .ended }).modCmd r fun m =>
          { m with ended := m.ended ||| BitVec.twoPow 4096 c }) r)
        exact h
      · obtain rfl : r = r' := Option.some.inj (hr.symm.trans hr')
        refine ⟨{ m with ended := m.ended ||| BitVec.twoPow 4096 c }, ?_, ?_, rfl⟩
        · rw [State.settle_rig]
          exact congrArg Rig.running (State.rig_modCmd_self _ _ _ (m := m) hm)
        · rw [BitVec.getLsbD_or, BitVec.getLsbD_twoPow]
          simp
    next hr =>
      refine ⟨State.core_setCore_self _ _ _, fun n hn => State.core_setCore_ne _ _ hn, rfl, fun r' m hr' _ => ?_⟩
      rw [hr] at hr'
      cases hr'
  · show execCoreMarkedDown c s = _
    rw [execCoreMarkedDown, State.markDown]
    dsimp only
    rw [if_pos hd]
  · obtain ⟨hcore, hmem, hpend⟩ := s.markDown_core true c hd
    refine ⟨_, rfl, ?_⟩
    rw [hcore]
    exact ⟨rfl, rfl, rfl, rfl, rfl, rfl, (s.core c).wentDown_phase, hmem, hpend, fun hr n hn => s.markDown_other true c hd hr hn,
      fun r hr => s.markDown_rig true c hd hr⟩

end Sys2Proof.Machine
end

section
/-! PROOFS. What the meeting and marking of protected words changes: counts, logs, marks and sources, and nothing else (R480 to R489). -/

namespace Sys2Proof.Machine

-- One theorem at a time, as in the tests: the proofs together take too many threads.
set_option Elab.async false

/-- t is s with errors counted, logged and marked: no byte, granule or other part of the device differs. -/
structure State.Counts (s t : State) : Prop where
  frame : { t with
    errs := s.errs, cores := s.cores, tiles := s.tiles, hbm := s.hbm, evt := s.evt, failures := s.failures, ras := s.ras } = s
  core (c : Nat) : { t.core c with log := (s.core c).log, retired := (s.core c).retired } = s.core c
  tile (c : Nat) : { t.tile c with log := (s.tile c).log } = s.tile c
  chan (c : Nat) : { t.chan c with log := (s.chan c).log } = s.chan c
  flipTgt : t.ras.flipTgt = s.ras.flipTgt
  flipMask : t.ras.flipMask = s.ras.flipMask
  cause : t.evt.cause = s.evt.cause
  pend (n : Nat) : s.evt.pend.getLsbD n = true → t.evt.pend.getLsbD n = true

section
variable {s t u : State}

theorem State.Counts.refl (s : State) : s.Counts s := ⟨rfl, fun _ => rfl, fun _ => rfl, fun _ => rfl, rfl, rfl, rfl, fun _ h => h⟩

theorem State.Counts.trans (h : s.Counts t) (h' : t.Counts u) : s.Counts u where
  frame := by
    have h1 := congrArg (fun v : State => { v with
      errs := s.errs, cores := s.cores, tiles := s.tiles, hbm := s.hbm, evt := s.evt, failures := s.failures, ras := s.ras }) h'.frame
    exact h1.trans h.frame
  core c := by
    have h1 := congrArg (fun k : Core => { k with log := (s.core c).log, retired := (s.core c).retired }) (h'.core c)
    exact h1.trans (h.core c)
  tile c := by
    have h1 := congrArg (fun k : Tile => { k with log := (s.tile c).log }) (h'.tile c)
    exact h1.trans (h.tile c)
  chan c := by
    have h1 := congrArg (fun k : Hbm => { k with log := (s.chan c).log }) (h'.chan c)
    exact h1.trans (h.chan c)
  flipTgt := h'.flipTgt.trans h.flipTgt
  flipMask := h'.flipMask.trans h.flipMask
  cause := h'.cause.trans h.cause
  pend n hn := h'.pend n (h.pend n hn)

theorem State.Counts.setMark (h : s.Counts t) (w : Nat) (e : Err) : s.Counts (t.setMark w e) :=
  h.trans ⟨rfl, fun _ => rfl, fun _ => rfl, fun _ => rfl, rfl, rfl, rfl, fun _ h => h⟩

theorem State.Counts.raiseSrc (h : s.Counts t) (n : Nat) : s.Counts (t.raiseSrc n) :=
  have hf := t.raiseSrc_frame n
  h.trans {
    frame := by
      have h1 := congrArg (fun v : State => { v with
        errs := t.errs, cores := t.cores, tiles := t.tiles, hbm := t.hbm, failures := t.failures, ras := t.ras }) hf
      exact h1
    core := fun c => by
      have h1 := congrArg State.cores hf
      exact congrArg (fun x => { tget ({} : Core) x c with log := (t.core c).log, retired := (t.core c).retired }) h1
    tile := fun c => by
      have h1 := congrArg State.tiles hf
      exact congrArg (fun x => { tget ({} : Tile) x c with log := (t.tile c).log }) h1
    chan := fun c => by
      have h1 := congrArg State.hbm hf
      exact congrArg (fun x => { tget ({} : Hbm) x c with log := (t.chan c).log }) h1
    flipTgt := by
      have h1 := congrArg (fun v : State => v.ras.flipTgt) hf
      exact h1
    flipMask := by
      have h1 := congrArg (fun v : State => v.ras.flipMask) hf
      exact h1
    cause := t.raiseSrc_cause n
    pend := fun _ hn => State.raiseSrc_pend_mono n hn }

/-- Changes of the error counts and of the table of corrections only. -/
theorem State.Counts.setRas (h : s.Counts t) {r : Ras} (h1 : r.flipTgt = t.ras.flipTgt) (h2 : r.flipMask = t.ras.flipMask) :
    s.Counts { t with ras := r } :=
  h.trans ⟨rfl, fun _ => rfl, fun _ => rfl, fun _ => rfl, h1, h2, rfl, fun _ h => h⟩

theorem State.Counts.countCe (h : s.Counts t) (kind unit addr pos : Nat) : s.Counts (t.countCe kind unit addr pos) := by
  unfold State.countCe
  dsimp only
  split
  · split <;> exact h.setRas rfl rfl
  · exact h.setRas rfl rfl

theorem State.Counts.countUe (h : s.Counts t) (kind unit : Nat) : s.Counts (t.countUe kind unit) :=
  (h.setRas (r := { t.ras with ue := satTo 0xFFFFFFFF (t.ras.ue + 1), ueKind := kind, ueUnit := unit }) rfl rfl).raiseSrc 256

theorem State.Counts.recordFail (h : s.Counts t) (kind item : Nat) : s.Counts (t.recordFail kind item) := by
  unfold State.recordFail
  split
  · exact h
  · split
    · exact h.trans ⟨rfl, fun _ => rfl, fun _ => rfl, fun _ => rfl, rfl, rfl, rfl, fun _ h => h⟩
    · exact h.raiseSrc 259

/-- An entry of one table replaced by one that agrees with it apart from some parts. -/
theorem tget_tset_frame {α : Type} [DecidableEq α] {d : α} {t : Tab α} {n : Nat} {x : α} (f : α → α → α) (hx : f x (tget d t n) = tget d t n)
    (hf : ∀ y, f y y = y) (c : Nat) : f (tget d (tset d t n x) c) (tget d t c) = tget d t c := by
  by_cases hc : c = n
  · subst hc
    rw [tget_tset_self, hx]
  · rw [tget_tset_ne _ _ _ hc, hf]

theorem State.Counts.setChan (h : s.Counts t) (n : Nat) (l : List LogEnt) : s.Counts (t.setChan n { t.chan n with log := l }) :=
  h.trans ⟨rfl, fun _ => rfl, fun _ => rfl,
    tget_tset_frame (fun x y : Hbm => { x with log := y.log }) rfl fun _ => rfl, rfl, rfl, rfl, fun _ h => h⟩

theorem State.Counts.setTile (h : s.Counts t) (n : Nat) (l : List LogEnt) : s.Counts (t.setTile n { t.tile n with log := l }) :=
  h.trans ⟨rfl, fun _ => rfl, tget_tset_frame (fun x y : Tile => { x with log := y.log }) rfl fun _ => rfl,
    fun _ => rfl, rfl, rfl, rfl, fun _ h => h⟩

theorem State.Counts.setCore (h : s.Counts t) (n : Nat) (l : List LogEnt) (b : Bool) :
    s.Counts (t.setCore n { t.core n with log := l, retired := b }) :=
  h.trans ⟨rfl, tget_tset_frame (fun x y : Core => { x with log := y.log, retired := y.retired }) rfl fun _ => rfl,
    fun _ => rfl, fun _ => rfl, rfl, rfl, rfl, fun _ h => h⟩

theorem State.Counts.ownLog (h : s.Counts t) (a : Nat) : s.Counts (t.ownLog a) := by
  unfold State.ownLog
  split
  · dsimp only
    split
    · exact (h.setChan _ _).recordFail _ _
    · exact h.setChan _ _
  · exact h.setTile _ _
  · exact h.setCore _ _ _
  · exact h

theorem State.Counts.meet (h : s.Counts t) (w : Nat) : s.Counts (t.meet w).1 := by
  unfold State.meet
  split
  · exact h
  · dsimp only
    split
    · exact ((h.countCe _ _ _ _).ownLog w).setMark w .none
    · exact (h.countCe _ _ _ _).ownLog w
  · exact h.countUe _ _

theorem State.Counts.meetAll (h : s.Counts t) (ws : List Nat) : s.Counts (t.meetAll ws).1 := by
  induction ws generalizing t with
  | nil => exact h
  | cons w ws ih => exact ih (h.meet w)

theorem State.Counts.meetDram (h : s.Counts t) (ws : List Nat) : s.Counts (t.meetDram ws).1 := by
  induction ws generalizing t with
  | nil => exact h
  | cons w ws ih =>
    unfold State.meetDram
    dsimp only
    split
    · exact ih (h.meet w)
    · exact ih (h.countUe _ _)
    · exact ih h

theorem State.Counts.writeMark (h : s.Counts t) (a n w : Nat) : s.Counts (t.writeMark a n w) := by
  unfold State.writeMark
  split
  · exact h.setMark w .none
  · split
    · exact h
    · exact (h.meet w).setMark w .none
    · exact h.meet w

theorem State.Counts.writeMarks (h : s.Counts t) (a n : Nat) (ws : List Nat) : s.Counts (t.writeMarks a n ws) := by
  induction ws generalizing t with
  | nil => exact h
  | cons w ws ih => exact ih (h.writeMark a n w)

/-! ### What such a state keeps -/

theorem State.Counts.mem (h : s.Counts t) : t.mem = s.mem := by
  have h1 := congrArg State.mem h.frame
  exact h1

theorem State.Counts.gran (h : s.Counts t) : t.gran = s.gran := by
  have h1 := congrArg State.gran h.frame
  exact h1

theorem State.Counts.llc (h : s.Counts t) : t.llc = s.llc := by
  have h1 := congrArg State.llc h.frame
  exact h1

theorem State.Counts.flipArmed (h : s.Counts t) (kind unit : Nat) : t.flipArmed kind unit = s.flipArmed kind unit := by
  rw [State.flipArmed, h.flipTgt, State.flipArmed]

theorem State.Counts.posted (h : s.Counts t) (c : Nat) : (t.core c).posted = (s.core c).posted := by
  have h1 := congrArg Core.posted (h.core c)
  exact h1

end

/-- Bytes written outside HBM where no flip is armed: errors are counted and marked, and memory takes the bytes. -/
theorem State.putBytes_counts {s : State} {a : Nat} {bs : List Byte} (hne : bs ≠ [])
    (hf : place a = .hbm ∨ s.flipArmed (errUnit a).1 (errUnit a).2 = false) :
    ∃ t, s.Counts t ∧ s.putBytes a bs = { t with mem := mwrite s.mem a bs } := by
  have hc := (State.Counts.refl s).writeMarks a bs.length (wordsOf a bs.length)
  refine ⟨_, hc, ?_⟩
  rw [State.putBytes, if_neg hne]
  dsimp only
  generalize s.writeMarks a bs.length (wordsOf a bs.length) = t at hc ⊢
  rw [hc.mem]
  split
  · rfl
  next hp =>
    have ht : ({ t with mem := mwrite s.mem a bs } : State).flipArmed (errUnit a).1 (errUnit a).2 = false :=
      (hc.flipArmed _ _).trans (hf.resolve_left hp)
    rw [State.flipWrite, ht]
    rfl

end Sys2Proof.Machine
end

section
/-! PROOFS. Posted writes arrive (O22; R55, R59, R65, R66, R310). -/

namespace Sys2Proof.Machine

-- One theorem at a time, as in the tests: the proofs together take too many threads.
set_option Elab.async false

theorem dropAt_eq_eraseIdx {α : Type} (i : Nat) (xs : List α) : dropAt i xs = xs.eraseIdx i := by
  induction xs generalizing i with
  | nil => cases i <;> rfl
  | cons x xs ih => cases i with
    | zero => rfl
    | succ i => exact congrArg (x :: ·) (ih i)

@[simp] theorem whoCore_coreId (c : CoreId) : whoCore c = .core c := congrArg Who.core (Fin.ofNat_val_eq_self c)

section
variable {s : State} {c : Nat} {f : Posted → Bool} {i : Nat}

/-- A posted write at a place of the list may be next: it satisfies the test, and every one before it is performed or goes elsewhere. -/
theorem State.mem_readyPosts : i ∈ s.readyPosts c f ↔ ∃ p, (s.core c).posted[i]? = some p ∧ f p = true ∧
    ∀ n q, n < i → (s.core c).posted[n]? = some q → q.done = true ∨ s.postDest q.p ≠ s.postDest p.p := by
  unfold State.readyPosts
  dsimp only
  rw [List.mem_filter, List.mem_range]
  constructor
  · rintro ⟨-, h⟩
    split at h
    next p hp =>
      rw [Bool.and_eq_true, List.all_eq_true] at h
      refine ⟨p, hp, h.1, fun n q hn hq => ?_⟩
      have hmem : q ∈ (s.core c).posted.take i := List.mem_of_getElem? ((List.getElem?_take_of_lt hn).trans hq)
      simpa using h.2 q hmem
    · cases h
  · rintro ⟨p, hp, hf, hall⟩
    refine ⟨(List.getElem?_eq_some_iff.1 hp).1, ?_⟩
    rw [hp]
    simp only [hf, Bool.true_and, List.all_eq_true]
    intro q hq
    obtain ⟨n, hq⟩ := List.getElem?_of_mem hq
    rw [List.getElem?_take] at hq
    split at hq
    next hn => simpa using hall n q hn hq
    · cases hq

/-- What is next is one of those that may be. -/
theorem State.nextPost_mem (h : s.nextPost c f = some i) : i ∈ s.readyPosts c f := by
  unfold State.nextPost at h
  dsimp only at h
  split at h
  · exact List.mem_of_head? h
  · exact List.mem_of_getElem? h

/-- While any may be next, one is. -/
theorem State.nextPost_ne_none (h : i ∈ s.readyPosts c f) : s.nextPost c f ≠ none := by
  unfold State.nextPost
  dsimp only
  have hpos : 0 < (s.readyPosts c f).length := List.length_pos_of_mem h
  split
  · rw [Ne, List.head?_eq_none_iff]
    exact List.ne_nil_of_mem h
  · rw [Ne, List.getElem?_eq_none_iff, Nat.not_le]
    exact Nat.mod_lt _ hpos

end

section
variable {s : State} {c t' : CoreId} {i : Nat} {p : Posted} {v : BitVec 64}

/-- A posted store that is next and performed leaves the list. -/
theorem exec_storeAcknowledgement {u : State} (hf : s.furled c = false) (hn : s.nextPost c (fun p => p.isStore || p.done) = some i)
    (hp : (s.core c).posted[i]? = some p) (hu : s.performPost c p = .ok u ()) :
    exec (.storeAcknowledgement c) s = .next (({ u with free := u.free + 1 } : State).setCore c
      { u.core c with posted := (u.core c).posted.eraseIdx i }) := by
  show execStoreAcknowledgement c s = _
  simp only [execStoreAcknowledgement, hf, Bool.false_eq_true, if_false, hn, hp, hu, dropAt_eq_eraseIdx]

/-- A posted signal that is next and reaches its target is performed and stays outstanding. -/
theorem exec_signalOrArrival (hf : s.furled c = false) (hn : s.nextPost c (fun p => !p.isStore && !p.done) = some i)
    (hp : (s.core c).posted[i]? = some p) (hpass : s.postPasses c p.p = true) :
    exec (.signalOrArrival c) s = .next (({ s.signalArrive c p.p with free := s.free + 1 } : State).setCore c
      { (s.signalArrive c p.p).core c with posted := ((s.signalArrive c p.p).core c).posted.set i { p with done := true } }) := by
  show execSignalOrArrival c s = _
  simp only [execSignalOrArrival, hf, Bool.false_eq_true, if_false, hn, hp, hpass, Bool.not_true, setAt_eq_set]

/-- A store into a locker whose core answers: errors are counted, and memory takes the bytes. -/
theorem State.performPost_locker {off : Nat} {bs : List Byte} (hp : p.p = .store (lockerAddr t' off) bs)
    (hoff : off + bs.length ≤ lockerSize) (hne : bs ≠ []) (href : s.refusedAt c (lockerAddr t' off) = false)
    (hl : s.linked (.core c) (lockerAddr t' off) = true) (hflip : s.flipArmed 3 t' = false) :
    ∃ t, s.Counts t ∧ s.performPost c p = .ok { t with mem := mwrite s.mem (lockerAddr t' off) bs } () := by
  have hpl : place (lockerAddr t' off) = .locker t' off :=
    place_lockerAddr t' (by have := List.length_pos_iff.2 hne; omega)
  generalize lockerAddr t' off = a at *
  obtain ⟨t, ht, he⟩ := State.putBytes_counts (s := s) (a := a) hne (.inr (by rw [errUnit, hpl]; exact hflip))
  refine ⟨t, ht, ?_⟩
  simp only [State.performPost, hp, State.performStore, href, Bool.false_eq_true, if_false, State.writeAt, whoCore_coreId, hl, Bool.not_true,
    hpl, State.lockerWrite, he]

/-- A signal's OR on a clean signal word. -/
theorem State.signalArrive_word (href : s.refusedAt c (lockerAddr t' signalOff) = false)
    (hflip : s.flipArmed 3 t' = false) (hm : s.mark (lockerAddr t' signalOff) = .none) :
    s.signalArrive c (.orTo t' v) = { s.setMark (lockerAddr t' signalOff) .none with
      mem := mwrite s.mem (lockerAddr t' signalOff)
        (leBytes 8 (BitVec.ofNat 64 (leNat (mread s.mem (lockerAddr t' signalOff) 8)) ||| v).toNat) } := by
  have hp := place_signalWord t'
  have ha := signalWord_aligned t'
  unfold State.signalArrive
  dsimp only
  generalize lockerAddr t' signalOff = a at *
  rw [if_neg (by rw [href]; exact Bool.false_ne_true)]
  simp only [State.meet, hm]
  exact State.lockerWrite_word hp ha (leBytes_length 8 _) hflip

end

/-- Eight bytes read where they were written. -/
theorem mread_leBytes8 (v : Nat) (m : Mem) (a : Nat) : mread (mwrite m a (leBytes 8 v)) a 8 = leBytes 8 v := by
  have h := mread_mwrite (leBytes 8 v) m a
  rwa [leBytes_length] at h

/-- Eight bytes written leave the others. -/
theorem mget_leBytes8 (v : Nat) (m : Mem) {a x : Nat} (hx : x < a ∨ a + 8 ≤ x) : mget (mwrite m a (leBytes 8 v)) x = mget m x :=
  mget_mwrite_out _ m a x (by rwa [leBytes_length])

/-- Settles O22: which posted writes may be next, and what the performance of each kind does. -/
theorem postedWritesArrive : Obligations.PostedWritesArrive := by
  refine ⟨fun s c f i => ⟨fun h => State.mem_readyPosts.1 (State.nextPost_mem h), fun h => State.nextPost_ne_none (State.mem_readyPosts.2 h)⟩,
    fun s c t' i p off bs hf hn hi hp hoff hne href hl hflip => ?_, fun s c t' i p v hf hn hi hp href hpass hflip hm => ?_,
    fun s c r i p v hf hn hi hp hr hpass => ?_, fun s c i p hf hn hi hst => ?_⟩
  · obtain ⟨t, ht, he⟩ := State.performPost_locker hp hoff hne href hl hflip
    refine ⟨_, exec_storeAcknowledgement hf hn hi he, ?_, fun x hx => ?_, ?_⟩
    · exact mread_mwrite bs s.mem _
    · exact mget_mwrite_out bs s.mem _ x hx
    · rw [State.core_setCore_self]
      exact congrArg (List.eraseIdx · i) (ht.posted c)
  · refine ⟨_, exec_signalOrArrival hf hn hi hpass, ?_⟩
    rw [hp, State.signalArrive_word href hflip hm]
    generalize lockerAddr t' signalOff = a
    refine ⟨mread_leBytes8 _ s.mem a, fun x hx => mget_leBytes8 _ s.mem hx, State.core_setCore_self _ _ _,
      fun n hn => State.core_setCore_ne _ _ hn⟩
  · refine ⟨_, exec_signalOrArrival hf hn hi hpass, ?_⟩
    have hs : s.signalArrive c p.p = s.rigCause r (BitVec.ofNat 16 (16 * (v.toNat % 4096))) := by
      rw [hp]
      simp only [State.signalArrive, hr]
      rfl
    rw [hs]
    have hcause := s.rigCause_cause r (BitVec.ofNat 16 (16 * (v.toNat % 4096)))
    have hframe := s.rigCause_frame r (BitVec.ofNat 16 (16 * (v.toNat % 4096)))
    generalize s.rigCause r (BitVec.ofNat 16 (16 * (v.toNat % 4096))) = t at hcause hframe ⊢
    have hcore : t.core = s.core := by
      have h := congrArg State.core hframe
      exact h
    have hmem : t.mem = s.mem := by
      have h := congrArg State.mem hframe
      exact h
    refine ⟨hcause, hmem, ?_, fun n hn => ?_⟩
    · rw [State.core_setCore_self, hcore]
    · rw [State.core_setCore_ne _ _ hn]
      exact congrFun hcore n
  · obtain ⟨p', hp', hready, -⟩ := State.mem_readyPosts.1 (State.nextPost_mem hn)
    obtain rfl : p = p' := Option.some.inj (hi.symm.trans hp')
    have hdone : p.done = true := by simpa [hst] using hready
    refine exec_storeAcknowledgement hf hn hi (u := s) ?_
    unfold State.performPost
    unfold Posted.isStore at hst
    split
    next a bs h =>
      rw [h] at hst
      cases hst
    · exact if_pos hdone

end Sys2Proof.Machine
end

section
/-! PROOFS. Requests to the last-level cache hit or miss (O23; R217, R218, R221, R227). -/

namespace Sys2Proof.Machine

-- One theorem at a time, as in the tests: the proofs together take too many threads.
set_option Elab.async false

/-! ### Tables by key -/

theorem tfind_tput_self {α : Type} (t : Tab α) (i : Nat) (v : α) : tfind (tput i v t) i = some v := by
  induction t with
  | nil => simp [tput, tfind]
  | cons e t ih =>
    obtain ⟨k, w⟩ := e
    unfold tput
    split
    · simp [tfind]
    · split
      · simp [tfind]
      next h => simp only [tfind, if_neg (Ne.symm h), ih]

/-- A key below every key of a table is not found in it. -/
theorem tfind_of_lt {α : Type} {t : Tab α} {i : Nat} (h : ∀ e ∈ t, i < e.1) : tfind t i = none := by
  induction t with
  | nil => rfl
  | cons e t ih =>
    obtain ⟨k, w⟩ := e
    have hk : i < k := h (k, w) (List.mem_cons_self)
    simp only [tfind, if_neg (Nat.ne_of_gt hk)]
    exact ih fun e he => h e (List.mem_cons_of_mem _ he)

/-- Replacing an entry by one of the same kind leaves the number of its kind. -/
theorem length_filter_tput {α : Type} {t : Tab α} {i : Nat} {v w : α} (p : α → Bool) (hs : t.Pairwise fun x y => x.1 < y.1)
    (hw : tfind t i = some w) (hp : p v = p w) :
    ((tput i v t).filter fun e => p e.2).length = (t.filter fun e => p e.2).length := by
  induction t with
  | nil => cases hw
  | cons e t ih =>
    obtain ⟨k, u⟩ := e
    rw [List.pairwise_cons] at hs
    by_cases hk : k = i
    · subst hk
      obtain rfl : u = w := by simpa [tfind] using hw
      simp only [tput, Nat.lt_irrefl, if_false, if_true, List.filter_cons, hp]
      split <;> rfl
    · have hw' : tfind t i = some w := by simpa [tfind, hk] using hw
      have hlt : ¬i < k := fun hlt => by
        rw [tfind_of_lt fun e he => Nat.lt_trans hlt (hs.1 e he)] at hw'
        cases hw'
      simp only [tput, if_neg hlt, if_neg (Ne.symm hk), List.filter_cons]
      split
      · exact congrArg (· + 1) (ih hs.2 hw')
      · exact ih hs.2 hw'

/-! ### Masks of positions -/

theorem maskOf_succ (n : Nat) (p : Nat → Bool) : maskOf (n + 1) p = maskOf n p + if p n then 2 ^ n else 0 := by
  unfold maskOf
  rw [List.range_succ, List.foldl_append]
  simp only [List.foldl_cons, List.foldl_nil]
  split <;> rfl

theorem maskOf_lt (n : Nat) (p : Nat → Bool) : maskOf n p < 2 ^ n := by
  induction n with
  | zero => exact Nat.zero_lt_one
  | succ n ih =>
    rw [maskOf_succ, Nat.pow_succ]
    split <;> omega

/-- The bits of a mask. -/
theorem testBit_maskOf (n : Nat) (p : Nat → Bool) (i : Nat) : (maskOf n p).testBit i = (decide (i < n) && p i) := by
  induction n with
  | zero => simp [maskOf]
  | succ n ih =>
    have hlt := maskOf_lt n p
    rw [maskOf_succ]
    by_cases hi : i = n
    · subst hi
      by_cases hp : p i = true
      · rw [if_pos hp, Nat.add_comm, Nat.testBit_two_pow_add_eq, ih, hp]
        simp
      · rw [if_neg hp, Nat.add_zero, ih]
        simp [Bool.eq_false_iff.2 hp]
    · have hdec : decide (i < n + 1) = decide (i < n) := by
        rw [decide_eq_decide]
        omega
      rw [hdec, ← ih]
      split
      · rcases Nat.lt_or_gt_of_ne hi with h | h
        · rw [Nat.add_comm, Nat.testBit_two_pow_add_gt h]
        · rw [Nat.testBit_lt_two_pow, Nat.testBit_lt_two_pow]
          · exact Nat.lt_trans hlt (Nat.pow_lt_pow_right (by decide) h)
          · refine Nat.lt_of_lt_of_le ?_ (Nat.pow_le_pow_right (by decide) h)
            rw [Nat.pow_succ]
            omega
      · rw [Nat.add_zero]

/-- The sectors that bytes of a line touch. -/
theorem getLsbD_sectorsOf (a n i : Nat) :
    (sectorsOf a n).getLsbD i = (decide (i < 16) && (decide (a % 1024 / 64 ≤ i) && decide (i ≤ (a % 1024 + n - 1) / 64))) := by
  rw [sectorsOf, BitVec.getLsbD_ofNat, testBit_maskOf]
  cases decide (i < 16) <;> simp

/-- Some byte touches some sector. -/
theorem sectorsOf_ne_zero (a : Nat) {n : Nat} (hn : n ≠ 0) : sectorsOf a n ≠ 0 := fun h => by
  have hb := getLsbD_sectorsOf a n (a % 1024 / 64)
  rw [h] at hb
  simp at hb
  omega

/-! ### A request that nothing holds at its slice -/

/-- Nothing holds a request back: no drop, forward, snoop or fill of its line, no reduction accepted for it, and no error of a tag, of
a directory entry or of the sectors it touches. -/
structure State.Free (s : State) (r : LlcReq) : Prop where
  ok : s.llcReqOk r = true
  held : s.llc.heldG.contains (r.a / 4096) = false
  fwd : ∀ f ∈ s.llc.fwd, f.1 ≠ r.a / 1024
  snoop : s.snoopLines r = []
  fills : ∀ f ∈ s.llc.fills, f.line ≠ r.a / 1024
  reds : ∀ q ∈ s.llc.reds, q.1 ≠ r.a / 1024
  tags : ∀ e ∈ s.llc.lines, e.2.tag = 0
  dirs : ∀ d ∈ s.llc.dir, d.bad = 0
  plain : llcRed r.op = false

section
variable {s : State} {r : LlcReq}

theorem State.meetDirs_clean (h : ∀ d ∈ s.llc.dir, d.bad = 0) (a n : Nat) : s.meetDirs a n = s := by
  unfold State.meetDirs
  rw [List.filter_eq_nil_iff.2 fun d hd => by simp [h d hd]]
  rfl

theorem State.meetTags_clean (h : ∀ e ∈ s.llc.lines, e.2.tag = 0) (l : Nat) : s.meetTags l = s := by
  unfold State.meetTags
  dsimp only
  rw [List.filter_eq_nil_iff.2 fun e he => by simp [h e he]]
  rfl

theorem State.applyReds_none {l : Nat} (h : ∀ q ∈ s.llc.reds, q.1 ≠ l) : s.applyReds l = s := by
  unfold State.applyReds
  dsimp only
  rw [List.filter_eq_nil_iff.2 fun q hq => by simp [h q hq]]
  rfl

/-- A line with no error in its sectors is met as it is. -/
theorem State.lineErrors_clean {l : Nat} (need : BitVec 16) (h : ∀ x, s.line l = some x → x.bad1 = 0 ∧ x.bad2 = 0) :
    s.lineErrors l need = s := by
  unfold State.lineErrors
  generalize idxs 16 (fun i => need.getLsbD i) = is
  induction is with
  | nil => rfl
  | cons i is ih =>
    rw [List.foldl_cons]
    refine .trans (congrArg (fun t => List.foldl _ t is) ?_) ih
    split
    · rfl
    next x hx =>
      obtain ⟨h1, h2⟩ := h x hx
      simp [h1, h2]

theorem State.Free.served (h : s.Free r) : s.llcRequest r = s.atSlice r := by
  obtain ⟨hok, hheld, hfwd, hsnoop, hfills, -, -, hdirs, hplain⟩ := h
  simp only [State.llcReqOk, Bool.and_eq_true, decide_eq_true_eq, bne_iff_ne] at hok
  obtain ⟨⟨⟨⟨hhbm, hlen⟩, -⟩, -⟩, -⟩ := hok
  have hdir : (if r.who = .host then s else s.meetDirs r.a (llcLen r.op)) = s := by
    split
    · rfl
    · exact s.meetDirs_clean hdirs _ _
  have hnofwd : s.fwdHolds r = false := by
    unfold State.fwdHolds
    dsimp only
    rw [if_neg (by rw [hplain]; exact Bool.false_ne_true), Bool.eq_false_iff]
    intro hc
    rw [List.contains_iff_mem, State.fwdTable, List.mem_dedup, List.mem_filter, List.mem_map] at hc
    obtain ⟨⟨f, hf, he⟩, -⟩ := hc
    exact hfwd f hf he
  have hnofill : s.llc.fills.any (fun f => f.line = r.a / 1024) = false := by
    rw [List.any_eq_false]
    intro f hf
    simpa using hfills f hf
  rw [State.llcRequest, if_neg (by simp [hhbm, hlen]), if_neg (by rw [hheld]; exact Bool.false_ne_true), State.llcServe, hdir,
    if_neg (by rw [hnofwd]; exact Bool.false_ne_true), if_neg (by rw [hsnoop]; exact fun h => h rfl),
    if_neg (by rw [hnofill]; exact Bool.false_ne_true)]

/-- At its slice it is served with what the slice holds of its line. -/
theorem State.Free.atSlice_eq (h : s.Free r) {v : BitVec 16} (hv : (match s.line (r.a / 1024) with | some x => x.valid | none => 0) = v)
    (hx : ∀ x, s.line (r.a / 1024) = some x → x.bad1 = 0 ∧ x.bad2 = 0) :
    s.atSlice r = if sectorsOf r.a (llcLen r.op) &&& ~~~v = 0 then (s.hit r).perform r else s.miss r v := by
  have hred : (if llcRed r.op then s else s.applyReds (r.a / 1024)) = s := by
    rw [if_neg (by rw [h.plain]; exact Bool.false_ne_true), State.applyReds_none h.reds]
  subst hv
  unfold State.atSlice
  dsimp only
  rw [hred, State.meetTags_clean h.tags, State.lineErrors_clean _ hx] <;> rfl

/-- A request whose sectors a clean resident line holds is a hit (R217). -/
theorem State.Free.hits (h : s.Free r) {x : Line} (hl : s.line (r.a / 1024) = some x)
    (hn : sectorsOf r.a (llcLen r.op) &&& ~~~x.valid = 0) (h1 : x.bad1 = 0) (h2 : x.bad2 = 0) :
    s.atSlice r = (s.hit r).perform r := by
  refine (h.atSlice_eq (v := x.valid) (by rw [hl]) fun y hy => ?_).trans (if_pos hn)
  obtain rfl : x = y := Option.some.inj (hl.symm.trans hy)
  exact ⟨h1, h2⟩

/-- A request of an absent line is a miss (R217). -/
theorem State.Free.misses (h : s.Free r) (hl : s.line (r.a / 1024) = none) (hn : sectorsOf r.a (llcLen r.op) ≠ 0) :
    s.atSlice r = s.miss r 0 := by
  refine (h.atSlice_eq (v := 0) (by rw [hl]) fun y hy => ?_).trans (if_neg ?_)
  · rw [hl] at hy
    cases hy
  · show ¬sectorsOf r.a (llcLen r.op) &&& ~~~(0#16) = 0
    rwa [BitVec.not_zero, BitVec.and_allOnes]

theorem exec_llcRequest {who : Who} {cls : Fin 5} {a : Nat} {op : LlcOp}
    (h : s.Free { who := who, cls := cls, a := a, op := op }) :
    exec (.llcRequest who cls a op) s = .next (s.atSlice { who := who, cls := cls, a := a, op := op }) := by
  show execLlcRequest who cls a op s = _
  rw [execLlcRequest, if_pos h.ok, h.served]

end

/-! ### Counting by class -/

/-- The cache once a request that hits is counted, its requester no longer in bypass (R221, R222). -/
def State.countedHit (s : State) (r : LlcReq) : Llc :=
  { s.llc with
    hits := tmod 0 s.llc.hits r.cls.val (· + 1)
    trk := s.llc.trk.filter fun t => !(t.slice.val == s.llcSlice r.a && t.who == r.who) }

theorem State.hit_eq {s : State} {r : LlcReq} (h : r.counted = false) : s.hit r = { s with llc := s.countedHit r } := by
  rw [State.hit, if_neg (by rw [h]; exact Bool.false_ne_true)]
  rfl

/-- A hit changes counts and trackers alone. -/
theorem State.hit_frame (s : State) (r : LlcReq) :
    { s.hit r with llc := { (s.hit r).llc with hits := s.llc.hits, trk := s.llc.trk } } = s := by
  unfold State.hit
  split <;> rfl

@[simp] theorem State.hit_line (s : State) (r : LlcReq) (l : Nat) : (s.hit r).line l = s.line l := by
  unfold State.hit
  split <;> rfl

@[simp] theorem State.hit_mark (s : State) (r : LlcReq) (w : Nat) : (s.hit r).mark w = s.mark w := by
  unfold State.hit
  split <;> rfl

@[simp] theorem State.hit_ras (s : State) (r : LlcReq) : (s.hit r).ras = s.ras := by
  unfold State.hit
  split <;> rfl

/-- A counted request is one more of its class. -/
theorem tget_tmod_succ (t : Tab (BitVec 64)) (n : Nat) : tget 0 (tmod 0 t n (· + 1)) n = tget 0 t n + 1 := tget_tset_self _ _ _ _

/-! ### A read that hits -/

/-- Sectors with no poison are read as they are. -/
theorem State.readSectors_clean {s : State} {l : Nat} {is : List Nat} (h : ∀ i ∈ is, s.mark (sectorAddr l i) ≠ .ue) :
    s.readSectors l is = (s, false) := by
  induction is with
  | nil => rfl
  | cons i is ih =>
    have hi := h i List.mem_cons_self
    unfold State.readSectors
    dsimp only
    split
    next he => exact absurd he hi
    · rw [ih fun j hj => h j (List.mem_cons_of_mem _ hj)] <;> rfl

theorem State.perform_read {s : State} {r : LlcReq} {n : Nat} {x : Line} (hop : r.op = .read n) (hl : s.line (r.a / 1024) = some x)
    (hm : ∀ i, i < 16 → (sectorsOf r.a n).getLsbD i = true → s.mark (sectorAddr (r.a / 1024) i) ≠ .ue) :
    s.perform r = (s.tickLlc.setLine (r.a / 1024) { x with age := s.llc.clock + 1 }).llcOut (mread s.mem r.a n) false := by
  have hl' : s.tickLlc.line (r.a / 1024) = some x := hl
  have hr : (s.tickLlc.setLine (r.a / 1024) { x with age := s.llc.clock + 1 }).readSectors (r.a / 1024)
      (idxs 16 fun i => (sectorsOf r.a n).getLsbD i) = (s.tickLlc.setLine (r.a / 1024) { x with age := s.llc.clock + 1 }, false) := by
    refine State.readSectors_clean fun i hi => ?_
    rw [idxs, List.mem_filter, List.mem_range] at hi
    exact hm i hi.1 hi.2
  unfold State.perform
  simp only [hl', hop]
  rw [show s.tickLlc.llc.clock = s.llc.clock + 1 from rfl, hr] <;> rfl

/-! ### A write that hits -/

theorem State.Counts.sectorMarks {s t : State} (h : s.Counts t) (p : BitVec 16) (a n : Nat) (is : List Nat) :
    s.Counts (t.sectorMarks p a n is) := by
  induction is generalizing t with
  | nil => exact h
  | cons i is ih =>
    unfold State.sectorMarks
    refine ih ?_
    split
    · exact h.setMark _ _
    · split
      · split
        · exact h.countUe _ _
        · exact h
      · exact h

/-- An unarmed flip fires nowhere. -/
theorem State.flipArmed_off {s : State} (h : s.ras.flipTgt.getLsbD 63 = false) (kind unit : Nat) : s.flipArmed kind unit = false := by
  have hb : bit s.ras.flipTgt.toNat 63 = false := h
  rw [State.flipArmed, hb]
  rfl

/-- A line alone in its way needs no other. -/
theorem State.splitPair_alone {s : State} {l : Nat} {x : Line} (hl : s.line l = some x) (h : (s.inWay x.slice x.set x.way).length ≤ 1) :
    s.splitPair l = s := by
  rw [State.splitPair, hl]
  exact if_pos (by simp [h])

/-- A write that has reached a line alone in its way is answered, or waits for the reply to its set-written message (R227). -/
theorem State.wrote_alone {s : State} {l : Nat} {x : Line} (flag : Bool) (hl : s.line l = some x)
    (h : (s.inWay x.slice x.set x.way).length ≤ 1) (hs : s.llc.splits = []) :
    s.wrote l flag = if flag then s.llcOut [] false else
      { s.needSetWritten (l / 4) with llc := { (s.needSetWritten (l / 4)).llc with acks := (s.needSetWritten (l / 4)).llc.acks ++ [l] } } := by
  unfold State.wrote
  rw [State.splitPair_alone hl h]
  cases flag <;> simp [hs]

theorem State.needSetWritten_eq (s : State) (g : Nat) :
    ∃ w, s.needSetWritten g = { s with llc := { s.llc with setW := w } } ∧ w.contains g = true := by
  unfold State.needSetWritten
  split
  next h => exact ⟨_, rfl, h⟩
  · exact ⟨_, rfl, by simp⟩

/-- A line once n bytes from a are written in it (R218). -/
def Line.written (x : Line) (a n clock : Nat) : Line :=
  { x with
    valid := x.valid ||| sectorsOf a n, dirty := x.dirty ||| sectorsOf a n, age := clock
    bad1 := x.bad1 &&& ~~~fullSectors a n, bad2 := x.bad2 &&& ~~~fullSectors a n }

/-- The state once a write's bytes and its line are there, before it is acknowledged. -/
def State.lineWritten (s : State) (r : LlcReq) (bs : List Byte) (x : Line) : State :=
  let s := s.tickLlc
  let s := s.sectorMarks x.valid r.a bs.length (idxs 16 fun i => (sectorsOf r.a bs.length).getLsbD i)
  let s : State := { s with mem := mwrite s.mem r.a bs }
  s.setLine (r.a / 1024) (x.written r.a bs.length s.llc.clock)

section
variable {s : State} {r : LlcReq} {bs : List Byte} {x : Line}

/-- Counts of a state whose cache is put aside. -/
theorem State.Counts.withLlc {t : State} (h : s.Counts t) (k : Llc) :
    ({ s with llc := k } : State).Counts { t with llc := k } where
  frame := by
    have h1 := congrArg (fun u : State => { u with llc := k }) h.frame
    exact h1
  core := h.core
  tile := h.tile
  chan := h.chan
  flipTgt := h.flipTgt
  flipMask := h.flipMask
  cause := h.cause
  pend := h.pend

theorem State.lineWritten_counts (s : State) (r : LlcReq) (bs : List Byte) (x : Line) : ∃ t, s.Counts t ∧
    s.lineWritten r bs x = { t with
      mem := mwrite s.mem r.a bs
      llc := { s.llc with
        clock := s.llc.clock + 1
        lines := tput (r.a / 1024) (x.written r.a bs.length (s.llc.clock + 1)) s.llc.lines } } := by
  have hc := (State.Counts.refl s.tickLlc).sectorMarks x.valid r.a bs.length (idxs 16 fun i => (sectorsOf r.a bs.length).getLsbD i)
  refine ⟨_, hc.withLlc s.llc, ?_⟩
  have hmem := hc.mem
  have hllc := hc.llc
  simp only [State.lineWritten, State.setLine]
  rw [hmem, hllc]
  rfl

theorem State.perform_write (hop : r.op = .write bs) (hl : s.line (r.a / 1024) = some x) (hf : s.ras.flipTgt.getLsbD 63 = false) :
    s.perform r = (s.lineWritten r bs x).wrote (r.a / 1024) x.flag := by
  have hl' : s.tickLlc.line (r.a / 1024) = some x := hl
  obtain ⟨t, ht, he⟩ := s.lineWritten_counts r bs x
  have hflip : (s.lineWritten r bs x).flipLine (r.a / 1024) r.a = s.lineWritten r bs x := by
    have hoff : (s.lineWritten r bs x).ras.flipTgt.getLsbD 63 = false := by
      rw [he]
      exact (congrArg (BitVec.getLsbD · 63) ht.flipTgt).trans hf
    unfold State.flipLine
    dsimp only
    split
    · rfl
    · rw [if_neg (by rw [State.flipArmed_off hoff]; exact Bool.false_ne_true)]
  unfold State.perform
  simp only [hl', hop]
  exact congrArg (State.wrote · (r.a / 1024) x.flag) hflip

end

/-- A read that hits answers the bytes, and is counted. -/
theorem State.Free.read_hit {s : State} {r : LlcReq} {n : Nat} {x : Line} (h : s.Free r) (hc : r.counted = false) (hop : r.op = .read n)
    (hl : s.line (r.a / 1024) = some x) (hn : sectorsOf r.a n &&& ~~~x.valid = 0) (h1 : x.bad1 = 0) (h2 : x.bad2 = 0)
    (hm : ∀ i, i < 16 → (sectorsOf r.a n).getLsbD i = true → s.mark (sectorAddr (r.a / 1024) i) ≠ .ue) :
    s.atSlice r = { s with
      llc := { s.countedHit r with
        clock := s.llc.clock + 1
        lines := tput (r.a / 1024) { x with age := s.llc.clock + 1 } s.llc.lines
        out := some (mread s.mem r.a n, false) } } := by
  have hl' : (s.hit r).line (r.a / 1024) = some x := by rw [State.hit_line, hl]
  have hm' (i : Nat) (hi : i < 16) (hb : (sectorsOf r.a n).getLsbD i = true) : (s.hit r).mark (sectorAddr (r.a / 1024) i) ≠ .ue := by
    rw [State.hit_mark]
    exact hm i hi hb
  rw [h.hits hl (by rw [hop]; exact hn) h1 h2, State.perform_read hop hl' hm', State.hit_eq hc]
  rfl

/-- The cache once a write that hits is counted and in its line. -/
def State.writtenHit (s : State) (r : LlcReq) (n : Nat) (x : Line) : Llc :=
  { s.countedHit r with
    clock := s.llc.clock + 1
    lines := tput (r.a / 1024) (x.written r.a n (s.llc.clock + 1)) s.llc.lines }

section
variable {s : State} {r : LlcReq} {bs : List Byte} {x : Line}

/-- A write that hits reaches its line with no other line in its way. -/
theorem State.Free.write_hit (h : s.Free r) (hc : r.counted = false) (hop : r.op = .write bs) (hl : s.line (r.a / 1024) = some x)
    (hn : sectorsOf r.a bs.length &&& ~~~x.valid = 0) (h1 : x.bad1 = 0) (h2 : x.bad2 = 0) (hf : s.ras.flipTgt.getLsbD 63 = false)
    (hway : (s.inWay x.slice x.set x.way).length ≤ 1) (hsort : s.llc.lines.Pairwise fun x y => x.1 < y.1) (hsp : s.llc.splits = []) :
    ∃ t k, s.Counts t ∧ s.atSlice r = { t with mem := mwrite s.mem r.a bs, llc := k } ∧ k.hits = (s.countedHit r).hits ∧
      (x.flag = true → k.out = some ([], false) ∧ k.setW = s.llc.setW ∧ k.acks = s.llc.acks) ∧
      (x.flag = false → k.out = s.llc.out ∧ k.setW.contains (r.a / 1024 / 4) = true ∧ k.acks = s.llc.acks ++ [r.a / 1024]) := by
  have hl' : (s.hit r).line (r.a / 1024) = some x := by rw [State.hit_line, hl]
  have hf' : (s.hit r).ras.flipTgt.getLsbD 63 = false := by rw [State.hit_ras, hf]
  obtain ⟨t, ht, he⟩ := (s.hit r).lineWritten_counts r bs x
  rw [State.hit_eq hc] at ht he
  have hw : s.atSlice r = ({ t with mem := mwrite s.mem r.a bs, llc := s.writtenHit r bs.length x } : State).wrote (r.a / 1024) x.flag := by
    rw [h.hits hl (by rw [hop]; exact hn) h1 h2, State.perform_write hop hl' hf', State.hit_eq hc, he]
    rfl
  have halone := length_filter_tput (v := x.written r.a bs.length (s.llc.clock + 1))
    (fun e : Line => e.slice == x.slice && e.set == x.set && e.way == x.way) hsort hl rfl
  have hwrote := State.wrote_alone (s := { t with mem := mwrite s.mem r.a bs, llc := s.writtenHit r bs.length x }) x.flag
    (tfind_tput_self _ (r.a / 1024) _) (Nat.le_trans (Nat.le_of_eq halone) hway) hsp
  obtain ⟨w, hsw, hin⟩ := State.needSetWritten_eq { t with mem := mwrite s.mem r.a bs, llc := s.writtenHit r bs.length x } (r.a / 1024 / 4)
  rw [hsw] at hwrote
  rw [hw, hwrote]
  cases x.flag with
  | true => exact ⟨_, _, ht.withLlc s.llc, rfl, rfl, fun _ => ⟨rfl, rfl, rfl⟩, nofun⟩
  | false => exact ⟨_, _, ht.withLlc s.llc, rfl, rfl, nofun, fun _ => ⟨rfl, hin, rfl⟩⟩

end

/-! ### A read that misses -/

/-- t is s with errors counted and other lines resident. -/
def State.CountsLines (s t : State) : Prop := s.Counts { t with llc := { t.llc with lines := s.llc.lines } }

section
variable {s t u : State}

theorem State.CountsLines.refl (s : State) : s.CountsLines s := State.Counts.refl s

theorem State.CountsLines.counts (h : s.CountsLines t) (h' : t.Counts u) : s.CountsLines u := by
  have h1 := h'.withLlc { t.llc with lines := s.llc.lines }
  have h2 := h.trans h1
  rw [← h'.llc] at h2
  exact h2

theorem State.CountsLines.lines (h : s.CountsLines t) (ls : Tab Line) :
    s.CountsLines { t with llc := { t.llc with lines := ls } } := h

theorem State.CountsLines.frame (h : s.CountsLines t) : { t.llc with lines := s.llc.lines } = s.llc := h.llc

theorem State.CountsLines.lineErrors (h : s.CountsLines t) (l : Nat) (need : BitVec 16) : s.CountsLines (t.lineErrors l need) := by
  unfold State.lineErrors
  generalize idxs 16 (fun i => need.getLsbD i) = is
  induction is generalizing t with
  | nil => exact h
  | cons i is ih =>
    rw [List.foldl_cons]
    refine ih ?_
    split
    · exact h
    · dsimp only
      split
      · split
        · exact (h.lines _).counts ((State.Counts.refl _).setMark _ _)
        · exact (h.lines _).counts ((State.Counts.refl _).countCe _ _ _ _)
      · split
        · exact (h.lines _).counts ((State.Counts.refl _).countCe _ _ _ _)
        · exact h

theorem State.CountsLines.flip (h : s.CountsLines t) (hf : s.ras.flipTgt.getLsbD 63 = false) : t.ras.flipTgt.getLsbD 63 = false :=
  (congrArg (BitVec.getLsbD · 63) h.flipTgt).trans hf

theorem State.CountsLines.backSector (h : s.CountsLines t) (hf : s.ras.flipTgt.getLsbD 63 = false) (a : Nat) :
    s.CountsLines (t.backSector a) := by
  unfold State.backSector
  split
  · exact h.counts ((State.Counts.refl _).countUe _ _)
  · have hoff : (t.setMark a .none).flipArmed 2 (chanUnit a) = false := State.flipArmed_off (h.flip hf) _ _
    rw [State.flipWrite, if_neg (by rw [hoff]; exact Bool.false_ne_true)]
    exact h.counts ((State.Counts.refl _).setMark _ _)

theorem State.CountsLines.backAll (h : s.CountsLines t) (hf : s.ras.flipTgt.getLsbD 63 = false) (l : Nat) (is : List Nat) :
    s.CountsLines (is.foldl (fun s i => s.backSector (sectorAddr l i)) t) := by
  induction is generalizing t with
  | nil => exact h
  | cons i is ih => exact ih (h.backSector hf _)

/-- Lines are evicted with no byte of memory changed, where no set-written message is on the way and no flip is armed. -/
theorem State.CountsLines.evict (h : s.CountsLines t) (hf : s.ras.flipTgt.getLsbD 63 = false) (hw : s.llc.setW = []) (l : Nat) :
    s.CountsLines (t.evict l) := by
  have hw' (g : Nat) : t.setWritten g = t := by
    have he : t.llc.setW = [] := (congrArg Llc.setW h.frame).trans hw
    rw [State.setWritten, he]
    rfl
  unfold State.evict
  split
  · exact h
  next x _ =>
    refine State.CountsLines.lines (t := t.backSectors l x.dirty) ?_ _
    unfold State.backSectors
    rw [hw', ite_self]
    exact (h.lineErrors l x.dirty).backAll hf l _

theorem State.CountsLines.evictWay (h : s.CountsLines t) (hf : s.ras.flipTgt.getLsbD 63 = false) (hw : s.llc.setW = [])
    (slice set way : Nat) : s.CountsLines (t.evictWay slice set way) := by
  unfold State.evictWay
  generalize t.inWay slice set way = es
  induction es generalizing t with
  | nil => exact h
  | cons e es ih => exact ih (h.evict hf hw e.1)

end

/-- A miss counts its request, and its requester's tracker follows it (R221, R222). -/
theorem State.missed_eq {s : State} {r : LlcReq} (h : r.counted = false) :
    ∃ c k, s.missed r = { s with
      llc := { s.llc with clock := c, trk := k, misses := tmod 0 s.llc.misses r.cls.val (· + 1) } } := by
  rw [State.missed, if_neg (by rw [h]; exact Bool.false_ne_true), State.trackMiss]
  split
  · exact ⟨_, _, rfl⟩
  · dsimp only
    split <;> exact ⟨_, _, rfl⟩

/-- A read that misses waits for a fill. -/
theorem State.miss_read {s : State} {r : LlcReq} {n : Nat} (hop : r.op = .read n) (hl : s.line (r.a / 1024) = none) (have_ : BitVec 16) :
    ∃ t way, s.miss r have_ = t.waitFill r way ∧ (t = s.missed r ∨ ∃ slice set w, t = (s.missed r).evictWay slice set w) := by
  have hl' : (s.missed r).line (r.a / 1024) = none := by
    unfold State.missed State.trackMiss
    split
    · exact hl
    · split
      · exact hl
      · dsimp only
        split <;> exact hl
  unfold State.miss
  simp only [hop, hl', Option.isSome_none, Bool.false_eq_true, if_false, llcRed]
  split
  · exact ⟨_, _, rfl, .inl rfl⟩
  · split
    · exact ⟨_, _, rfl, .inl rfl⟩
    next w share _ =>
      cases share with
      | true => exact ⟨_, _, rfl, .inl rfl⟩
      | false => exact ⟨_, _, rfl, .inr ⟨_, _, _, rfl⟩⟩

/-- A read that misses is recorded as a fill, and counted; memory stays. -/
theorem State.Free.read_miss {s : State} {r : LlcReq} {n : Nat} (h : s.Free r) (hc : r.counted = false) (hop : r.op = .read n) (hn : n ≠ 0)
    (hl : s.line (r.a / 1024) = none) (hw : s.llc.setW = []) (hf : s.ras.flipTgt.getLsbD 63 = false) :
    ∃ t way, s.atSlice r = t ∧ t.mem = s.mem ∧ t.llc.fills = s.llc.fills ++ [⟨r.a / 1024, way, { r with counted := true }⟩] ∧
      t.llc.misses = tmod 0 s.llc.misses r.cls.val (· + 1) ∧ t.llc.hits = s.llc.hits := by
  obtain ⟨t, way, ht, hcase⟩ := State.miss_read hop hl 0
  obtain ⟨c, k, hm⟩ := State.missed_eq (s := s) hc
  have hcl : (s.missed r).CountsLines t := by
    rcases hcase with rfl | ⟨slice, set, w, rfl⟩
    · exact .refl _
    · exact (State.CountsLines.refl _).evictWay (by rw [hm]; exact hf) (by rw [hm]; exact hw) _ _ _
  have hmem := State.Counts.mem hcl
  have hllc := hcl.frame
  rw [hm] at hmem hllc
  refine ⟨_, way, (h.misses hl (by rw [hop]; exact sectorsOf_ne_zero _ hn)).trans ht, hmem, ?_, ?_, ?_⟩
  · have h1 := congrArg Llc.fills hllc
    exact congrArg (· ++ [_]) h1
  · have h1 := congrArg Llc.misses hllc
    exact h1
  · have h1 := congrArg Llc.hits hllc
    exact h1

/-- Settles O23: what hits is performed at once, and what misses waits for its fill. -/
theorem llcRequestsHitOrMiss : Obligations.LlcRequestsHitOrMiss := by
  intro s who cls a op r l hok hheld hfwd hsnoop hfills hreds hflip htags hdirs hsplits
  have hfree (hplain : llcRed op = false) : s.Free r := ⟨hok, hheld, hfwd, hsnoop, hfills, hreds, htags, hdirs, hplain⟩
  refine ⟨fun x n hop hl hn h1 h2 hm => ?_, fun x bs hop hl hn h1 h2 hway hsort => ?_, fun n hop hl hset => ?_⟩
  · subst hop
    have hf := hfree rfl
    refine ⟨_, (exec_llcRequest hf).trans (congrArg _ (hf.read_hit rfl rfl hl hn h1 h2 hm)), ?_⟩
    exact ⟨rfl, rfl, rfl, tget_tmod_succ _ _, rfl⟩
  · subst hop
    have hf := hfree rfl
    obtain ⟨t, k, -, he, hhits, hflag, hno⟩ := hf.write_hit rfl rfl hl hn h1 h2 hflip hway hsort hsplits
    refine ⟨_, (exec_llcRequest hf).trans (congrArg _ he), mread_mwrite bs s.mem a, fun b hb => mget_mwrite_out bs s.mem a b hb, hflag,
      fun hx => ?_, ?_⟩
    · have hg : r.a / 1024 / 4 = a / 4096 := Nat.div_div_eq_div_mul a 1024 4
      rw [← hg]
      exact hno hx
    · exact (congrArg (tget 0 · cls.val) hhits).trans (tget_tmod_succ _ _)
  · subst hop
    have hf := hfree rfl
    have hn : n ≠ 0 := by
      simp only [State.llcReqOk, Bool.and_eq_true, bne_iff_ne] at hok
      exact hok.1.1.1.2
    obtain ⟨t, way, ht, hmem, hfill, hmiss, hhits⟩ := hf.read_miss rfl rfl hn hl hset hflip
    refine ⟨t, way, (exec_llcRequest hf).trans (congrArg _ ht), hmem, hfill, ?_, hhits⟩
    rw [hmiss]
    exact tget_tmod_succ _ _

end Sys2Proof.Machine
end

section
/-! PROOFS. Fills return, and granules are written and dropped (O24, O25; R223, R227 to R230, R264). -/

namespace Sys2Proof.Machine

-- One theorem at a time, as in the tests: the proofs together take too many threads.
set_option Elab.async false

/-! ### Fills -/

/-- The sectors of a list, as a mask. -/
def sectorSet (is : List Nat) : BitVec 16 := is.foldr (fun i m => m ||| BitVec.twoPow 16 i) 0

theorem getLsbD_sectorSet (is : List Nat) {j : Nat} (hj : j < 16) : (sectorSet is).getLsbD j = decide (j ∈ is) := by
  induction is with
  | nil => simp [sectorSet]
  | cons i is ih =>
    have h : sectorSet (i :: is) = sectorSet is ||| BitVec.twoPow 16 i := rfl
    rw [h, BitVec.getLsbD_or, ih, BitVec.getLsbD_twoPow]
    by_cases hij : i = j
    · simp [hij, hj]
    · simp [hij, Ne.symm hij]

/-- The sectors of a mask, listed and put together again. -/
theorem sectorSet_idxs (v : BitVec 16) : sectorSet (idxs 16 fun i => v.getLsbD i) = v := by
  refine BitVec.eq_of_getLsbD_eq fun i hi => ?_
  rw [getLsbD_sectorSet _ hi]
  simp [idxs, hi]

/-- Good words of a written granule come back as they are. -/
theorem State.fetchSectors_clean {s : State} {l : Nat} {is : List Nat} (h : ∀ i ∈ is, s.granAt (sectorAddr l i) = .written ∧
    s.mark (sectorAddr l i) = .none ∧ (s.chan (chanUnit (sectorAddr l i))).lost = false) :
    s.fetchSectors l is = (s, sectorSet is) := by
  induction is with
  | nil => rfl
  | cons i is ih =>
    obtain ⟨hg, hm, hl⟩ := h i List.mem_cons_self
    have hd : s.meetDram [sectorAddr l i] = (s, false) := by
      simp only [State.meetDram, hg, State.meet, hm, Bool.or_false]
    unfold State.fetchSectors
    dsimp only
    rw [if_neg (by rw [hl]; exact Bool.false_ne_true), hd]
    dsimp only
    rw [ih fun j hj => h j (List.mem_cons_of_mem _ hj)]
    rfl

/-- The granule of a line. -/
theorem State.granAt_sector (s : State) {l i : Nat} (hi : i < 16) : s.granAt (sectorAddr l i) = s.granAt (1024 * l) := by
  have h : sectorAddr l i / 4096 = 1024 * l / 4096 := by
    unfold sectorAddr
    omega
  rw [State.granAt, h, State.granAt]

/-- The requests that waited for a fill go on. -/
def State.afterFill (s : State) (l : Nat) : State :=
  let ws := (s.llc.waiting.filter fun e => e.1 = l).map (·.2)
  (({ s with llc := { s.llc with waiting := s.llc.waiting.filter fun e => e.1 ≠ l } } : State).resend ws).splitAgain

/-- With no request waiting for a fill and no line for a way, nothing more goes on. -/
theorem State.afterFill_none {s : State} (l : Nat) (hw : s.llc.waiting = []) (hsp : s.llc.splits = []) : s.afterFill l = s := by
  have he : ({ s with llc := { s.llc with waiting := [] } } : State) = s := by rw [← hw]
  rw [State.afterFill, hw]
  show (({ s with llc := { s.llc with waiting := [] } } : State)).splitAgain = s
  rw [he, State.splitAgain, if_pos hsp]

/-- The service of a fill at its line once it is off the list (R223, R227, R228). -/
def State.serveFill (s : State) (l : Nat) (f : FillReq) : State :=
    let a := 1024 * l
    let need := sectorsOf f.req.a (llcLen f.req.op)
    let have_ := match s.line l with | some x => x.valid | none => 0
    let want := if f.way.isSome && (s.line l).isNone then fetchMask f.req.cls f.req.a (llcLen f.req.op) ||| need else need
    let through := match f.req.op with | .write _ => f.way.isNone && (s.line l).isNone | _ => false
    if through then (match f.req.op with | .write bs => (s.dramWrite f.req.a bs).llcOut [] false | _ => s)
    else
      let s : State := match f.req.op with
        | .write _ => s
        | _ => if s.granAt a = .dead then s.deadRead a else s
      let (s, good) := s.fetchSectors l (idxs 16 fun i => (want &&& ~~~have_).getLsbD i)
      let bad := need &&& ~~~(have_ ||| good)
      let flag := decide (s.granAt a = .written)
      let s : State := match s.line l, f.way with
        | some x, _ => s.setLine l { x with valid := x.valid ||| good, flag := flag }
        | none, some w => (s.allocate l w good flag).flipLine l f.req.a
        | none, none => s
      match f.req.op with
      | .read n => if (s.line l).isSome && bad = 0 then s.perform f.req else s.llcOut (mread s.mem f.req.a n) (bad ≠ 0)
      | .write bs => if (s.line l).isSome then s.perform f.req else (s.dramWrite f.req.a bs).llcOut [] false
      | .red _ =>
        if (s.line l).isSome then s.perform f.req else { s with llc := { s.llc with fwd := s.llc.fwd ++ [(l, f.req)] } }

/-- A fill's return is its service, with the requests that waited for it. -/
theorem State.fillReturn_eq {s : State} {l : Nat} {f : FillReq} (h : (s.llc.fills.find? fun f => f.line = l) = some f) :
    s.fillReturn l = (({ s with llc := { s.llc with fills := dropFirst (fun x => x.line = l) s.llc.fills } } : State).serveFill l f).afterFill l := by
  rw [State.fillReturn, h]
  rfl

/-- A fill that a read waits for, without allocation, answers it. -/
theorem State.serveFill_read {u : State} {l n : Nat} {r : LlcReq} (hop : r.op = .read n) (hl : u.line l = none)
    (hg : u.granAt (1024 * l) = .written) (hm : ∀ i, i < 16 → u.mark (sectorAddr l i) = .none)
    (hc : ∀ i, i < 16 → (u.chan (chanUnit (sectorAddr l i))).lost = false) :
    u.serveFill l ⟨l, none, r⟩ = u.llcOut (mread u.mem r.a n) false := by
  have hfetch := State.fetchSectors_clean (s := u) (l := l)
    (is := idxs 16 fun i => (sectorsOf r.a n &&& ~~~0).getLsbD i) fun i hi => by
      rw [idxs, List.mem_filter, List.mem_range] at hi
      exact ⟨(u.granAt_sector hi.1).trans hg, hm i hi.1, hc i hi.1⟩
  have hbad : sectorsOf r.a n &&& ~~~(0 ||| (sectorsOf r.a n &&& ~~~0)) = 0 := by
    show sectorsOf r.a n &&& ~~~(0#16 ||| (sectorsOf r.a n &&& ~~~(0#16))) = 0
    rw [BitVec.not_zero, BitVec.and_allOnes, BitVec.zero_or]
    exact BitVec.and_not_self _
  rw [sectorSet_idxs] at hfetch
  unfold State.serveFill
  simp only [hop, llcLen, hl, hg, hfetch, hbad, Option.isSome_none, Bool.false_and, Bool.false_eq_true, if_false, reduceCtorEq, ne_eq,
    not_true_eq_false, decide_false]

/-- Settles O24: a fill that returns is read as memory holds it. -/
theorem fillReturnAnswersTheReader : Obligations.FillReturnAnswersTheReader := by
  refine ⟨fun s l hno => ?_, fun s l n fs r hf hop _ hl _ hline hw hsp _ hg hm hc => ?_⟩
  · have hfind : (s.llc.fills.find? fun f => f.line = l) = none := by
      rw [List.find?_eq_none]
      intro f h
      simpa using hno f h
    show execLlcFillReturn l s = _
    rw [execLlcFillReturn, State.fillReturn, hfind]
  · have hg' : s.granAt (1024 * l) = .written := by
      have h : 1024 * l / 4096 = r.a / 4096 := by omega
      rw [State.granAt, h]
      exact hg
    have hfind : (s.llc.fills.find? fun f => f.line = l) = some ⟨l, none, r⟩ := by simp [hf]
    have hserve := State.serveFill_read (u := { s with llc := { s.llc with fills := fs } }) hop hline hg' hm hc
    have hafter := State.afterFill_none (s := ({ s with llc := { s.llc with fills := fs } } : State).llcOut (mread s.mem r.a n) false) l hw hsp
    have hdrop : dropFirst (fun x : FillReq => decide (x.line = l)) s.llc.fills = fs := by simp [hf, dropFirst]
    have hret := State.fillReturn_eq hfind
    rw [hdrop, hserve, hafter] at hret
    exact ⟨_, congrArg Host.Outcome.next hret, rfl, rfl, rfl, rfl⟩

/-! ### Granules that are written -/

section
variable {α : Type} {d : α} {t : Tab α} {p : Nat → Bool} {i : Nat}

/-- A cleared key has the default. -/
theorem tget_tclear_in (h : p i = true) : tget d (tclear p t) i = d := (tget_tclear d p t i).trans (if_pos h)

/-- A key that is not cleared keeps its entry. -/
theorem tget_tclear_out (h : p i = false) : tget d (tclear p t) i = tget d t i :=
  (tget_tclear d p t i).trans (if_neg (by rw [h]; exact Bool.false_ne_true))

end

/-- The first write to a granule changes its state, and the bytes and marks no slice holds (R227, R264). -/
theorem State.firstDram_unwritten {s : State} {g : Nat} (h : tget .unwritten s.gran g ≠ .written) :
    s.firstDram (4096 * g) = { s with
      mem := tclear (fun k => k / 4096 = g && !s.cachedWord (k / 64 * 64)) s.mem
      errs := tclear (fun k => k / 4096 = g && !s.cachedWord k) s.errs
      gran := tset .unwritten s.gran g .written } := by
  have hg : 4096 * g / 4096 = g := Nat.mul_div_cancel_left g (by decide)
  unfold State.firstDram
  rw [State.granAt, hg, if_neg h, State.setGran]
  dsimp only
  rw [hg]

theorem State.firstDram_written {s : State} {g : Nat} (h : tget .unwritten s.gran g = .written) : s.firstDram (4096 * g) = s := by
  have hg : 4096 * g / 4096 = g := Nat.mul_div_cancel_left g (by decide)
  rw [State.firstDram, State.granAt, hg, if_pos h]

theorem State.firstDram_frame (s : State) (a : Nat) : { s.firstDram a with gran := s.gran, mem := s.mem, errs := s.errs } = s := by
  unfold State.firstDram
  split <;> rfl

/-- A set-written message on the way leaves the list, its reply on the way back. -/
theorem State.setWritten_on {s : State} {g : Nat} (h : s.llc.setW.contains g = true) :
    s.setWritten g = { s.firstDram (4096 * g) with
      llc := { s.llc with setW := s.llc.setW.filter (· ≠ g), setR := s.llc.setR ++ [g] } } := by
  have hl : (s.firstDram (4096 * g)).llc = s.llc := by
    have h1 := congrArg State.llc (s.firstDram_frame (4096 * g))
    exact h1
  rw [State.setWritten, if_pos h]
  dsimp only
  rw [hl]

theorem State.setWritten_off {s : State} {g : Nat} (h : s.llc.setW.contains g = false) : s.setWritten g = s :=
  if_neg (by rw [h]; exact Bool.false_ne_true)

theorem State.setWrittenReply_off {s : State} {g : Nat} (h : s.llc.setR.contains g = false) : s.setWrittenReply g = s :=
  if_neg (by rw [h]; exact Bool.false_ne_true)

theorem contains_filter_ne (xs : List Nat) (g : Nat) : (xs.filter (· ≠ g)).contains g = false := by
  rw [Bool.eq_false_iff, Ne, List.contains_iff_mem, List.mem_filter]
  simp

/-- A table whose entries are changed in place is found by the same keys. -/
theorem tfind_map {α : Type} (t : Tab α) (f : Nat → α → α) (i : Nat) :
    tfind (t.map fun e => (e.1, f e.1 e.2)) i = (tfind t i).map (f i) := by
  induction t with
  | nil => rfl
  | cons e t ih =>
    obtain ⟨k, v⟩ := e
    simp only [List.map_cons, tfind]
    split
    next hk => rw [hk]; rfl
    · exact ih

/-- The writes that are acknowledged wait no more. -/
theorem State.ackWrites_acks {s : State} {l : Nat} (h : s.llc.ackable l = true) : l ∉ s.ackWrites.llc.acks := by
  unfold State.ackWrites
  split
  · show l ∉ s.llc.acks.filter fun l => !s.llc.ackable l
    rw [List.mem_filter]
    simp [h]
  next hno =>
    intro hl
    exact hno (List.any_eq_true.2 ⟨l, hl, h⟩)

/-- Acknowledging writes changes the acknowledgements and the answer alone. -/
theorem State.ackWrites_eq (s : State) : ∃ k o, s.ackWrites = { s with llc := { s.llc with acks := k, out := o } } := by
  unfold State.ackWrites
  split <;> exact ⟨_, _, rfl⟩

/-- The cache once the reply of a granule's set-written message has come, before its writes are acknowledged. -/
def Llc.replied (k : Llc) (g : Nat) : Llc :=
  { k with
    setR := k.setR.filter (· ≠ g)
    lines := k.lines.map fun e => (e.1, if e.1 / 4 = g then { e.2 with flag := true } else e.2) }

theorem State.setWrittenReply_on {s : State} {g : Nat} (h : s.llc.setR.contains g = true) :
    s.setWrittenReply g = ({ s with llc := s.llc.replied g } : State).ackWrites := by
  have hl : (s.llc.lines.map fun e => if e.1 / 4 = g then (e.1, { e.2 with flag := true }) else e) =
      s.llc.lines.map fun e => (e.1, if e.1 / 4 = g then { e.2 with flag := true } else e.2) :=
    List.map_congr_left fun e _ => by split <;> rfl
  rw [State.setWrittenReply, if_pos h, hl]
  rfl

/-- A reply's effect on the resident lines and on the writes that wait. -/
theorem setWrittenReply_effect {s : State} {g : Nat} (h : s.llc.setR.contains g = true) :
    ∃ t, exec (.setWrittenReply g) s = .next t ∧ t.llc.setR.contains g = false ∧
      (∀ l, t.line l = (s.line l).map fun x => if l / 4 = g then { x with flag := true } else x) ∧
      (∀ l, l / 4 = g → s.llc.splits.contains l = false → s.llc.setW.contains g = false → l ∉ t.llc.acks) ∧
      { t with llc := s.llc } = s := by
  refine ⟨_, congrArg Host.Outcome.next (State.setWrittenReply_on h), ?_⟩
  have hack (l : Nat) (hl : l / 4 = g) (h1 : s.llc.splits.contains l = false) (h2 : s.llc.setW.contains g = false) :
      l ∉ ({ s with llc := s.llc.replied g } : State).ackWrites.llc.acks := by
    refine State.ackWrites_acks ?_
    have h3 : (s.llc.replied g).setR.contains (l / 4) = false := by
      rw [hl]
      exact contains_filter_ne _ g
    show (!s.llc.splits.contains l && !s.llc.setW.contains (l / 4) && !(s.llc.replied g).setR.contains (l / 4)) = true
    rw [h1, h3, hl, h2]
    rfl
  obtain ⟨k, o, he⟩ := ({ s with llc := s.llc.replied g } : State).ackWrites_eq
  rw [he] at hack ⊢
  exact ⟨contains_filter_ne _ g, tfind_map s.llc.lines fun i (x : Line) => if i / 4 = g then { x with flag := true } else x, hack, rfl⟩

/-! ### Granules that are dropped -/

/-- With nothing under way a drop finds nothing to finish. -/
theorem State.finishLine_none {s : State} (h1 : s.llc.fills = []) (h2 : s.llc.waiting = []) (h3 : s.llc.reds = []) (h4 : s.llc.fwd = [])
    (l : Nat) : s.finishLine l = s := by
  have hr : s.applyReds l = s := State.applyReds_none (by simp [h3])
  rw [State.finishLine, h1, h2]
  show (s.applyReds l).forwardAck l = s
  rw [hr, State.forwardAck, h4]
  rfl

/-- Counting a drop at its slices changes the counts of hits alone. -/
theorem State.each_count_eq (s : State) (ks : List Nat) :
    ∃ h, (s.each ks fun s _ => s.countLlc 0 true) = { s with llc := { s.llc with hits := h } } := by
  refine State.each_keeps s (fun t => ∃ h, t = { s with llc := { s.llc with hits := h } }) _ ks ⟨_, rfl⟩ fun t _ ⟨h, ht⟩ => ?_
  subst ht
  exact ⟨_, rfl⟩

theorem State.each_same {s : State} {f : State → Nat → State} (h : ∀ n, f s n = s) (ks : List Nat) : s.each ks f = s :=
  State.each_keeps s (· = s) f ks rfl fun t n ht => by rw [ht, h]

/-- The slices' part of a drop (R229). -/
theorem State.dropGran_clean {s : State} (h : ∀ d ∈ s.llc.dir, d.bad = 0) (g : Nat) : ∃ k o sn fr, s.dropGran g = { s with
      llc := { s.llc with
        lines := s.llc.lines.filter fun e => e.1 / 4 ≠ g
        splits := s.llc.splits.filter fun l => l / 4 ≠ g
        snoops := sn, frees := fr, acks := k, out := o } } ∧
    ∀ e ∈ s.llc.dir, e.line / 64 = g → sn.contains e.line = true ∧ fr.contains e.line = true := by
  have hin (xs : List Nat) (e : DirEnt) (he : e ∈ s.llc.dir) (hg : e.line / 64 = g) :
      (xs ++ (((s.llc.dir.filter fun e => e.line / 64 = g).map (·.line)).filter fun x => !xs.contains x)).contains e.line = true := by
    rw [List.contains_iff_mem, List.mem_append, List.mem_filter, List.mem_map]
    by_cases hx : e.line ∈ xs
    · exact .inl hx
    · exact .inr ⟨⟨e, by simp [he, hg], rfl⟩, by simp [hx]⟩
  unfold State.dropGran
  rw [s.meetDirs_clean h]
  dsimp only
  obtain ⟨k, o, hk⟩ := ({ s with
    llc := { s.llc with
      lines := s.llc.lines.filter fun e => e.1 / 4 ≠ g
      splits := s.llc.splits.filter fun l => l / 4 ≠ g
      snoops := s.llc.snoops ++ (((s.llc.dir.filter fun e => e.line / 64 = g).map (·.line)).filter fun x => !s.llc.snoops.contains x)
      frees := s.llc.frees ++ (((s.llc.dir.filter fun e => e.line / 64 = g).map (·.line)).filter fun x => !s.llc.frees.contains x) } } :
    State).ackWrites_eq
  rw [hk]
  exact ⟨k, o, _, _, rfl, fun e he hg => ⟨hin _ e he hg, hin _ e he hg⟩⟩

/-- A drop that finds nothing under way (R229, R230). -/
theorem State.deadDrop_idle {s : State} {g : Nat} (h1 : s.llc.fills = []) (h2 : s.llc.waiting = []) (h3 : s.llc.reds = [])
    (h4 : s.llc.fwd = []) (h5 : s.llc.snHeld = []) (h6 : s.llc.setW.contains g = false) (h7 : s.llc.setR.contains g = false) :
    ∃ h, s.deadDrop g = ({ s with
      llc := { s.llc with hits := h, heldG := s.llc.heldG.filter (· ≠ g) ++ [g] } } : State).dropGran g := by
  unfold State.deadDrop
  dsimp only
  obtain ⟨h, hh⟩ := s.each_count_eq ((((List.range 4).map (4 * g + ·)).map fun l => s.llcSlice (1024 * l)).dedup)
  refine ⟨h, ?_⟩
  rw [hh, State.each_same (s := { s with llc := { s.llc with hits := h } }) (f := fun s l => s.finishLine l) (fun n =>
      State.finishLine_none (s := { s with llc := { s.llc with hits := h } }) h1 h2 h3 h4 n), State.settleWrite,
    State.setWritten_off (s := { s with llc := { s.llc with hits := h } }) h6,
    State.setWrittenReply_off (s := { s with llc := { s.llc with hits := h } }) h7]
  refine if_neg ?_
  rw [State.snoopedFirst]
  simp [h5]

/-- The acknowledgement of a drop with no request held (R229, R230). -/
theorem State.deadAck_done {s : State} {g : Nat} (h1 : s.llc.heldG.contains g = true) (h2 : ∀ e ∈ s.llc.dir, e.line / 64 ≠ g)
    (h3 : ∀ r ∈ s.llc.snHeld, r.a / 4096 ≠ g) (h4 : ∀ r ∈ s.llc.held, r.a / 4096 ≠ g) :
    ∃ hd, s.deadAck g = { s.emptyGran (4096 * g) .dead with llc := { s.llc with heldG := s.llc.heldG.filter (· ≠ g), held := hd } } := by
  have hsn : s.snoopedFirst g = false := by
    rw [State.snoopedFirst, List.any_eq_false]
    intro r hr
    simpa using h3 r hr
  have hdir : (s.llc.dir.all fun e => e.line / 64 ≠ g) = true := by
    rw [List.all_eq_true]
    intro e he
    simpa using h2 e he
  have hheld : (s.llc.held.filter fun r => r.a / 4096 = g) = [] := by
    rw [List.filter_eq_nil_iff]
    intro r hr
    simpa using h4 r hr
  refine ⟨s.llc.held.filter fun r => r.a / 4096 ≠ g, ?_⟩
  rw [State.deadAck, if_pos (by rw [h1, hsn, hdir]; rfl), hheld]
  rfl

theorem State.deadAck_waits {s : State} {g : Nat} (h : s.llc.heldG.contains g = false ∨ ∃ e ∈ s.llc.dir, e.line / 64 = g) :
    s.deadAck g = s := by
  refine if_neg fun hc => ?_
  rw [Bool.and_eq_true, Bool.and_eq_true, List.all_eq_true] at hc
  obtain ⟨⟨h1, -⟩, h2⟩ := hc
  rcases h with h | ⟨e, he, hg⟩
  · rw [h] at h1
    cases h1
  · exact of_decide_eq_true (h2 e he) hg

/-- Settles O25: `State.setWritten_on`, `State.setWrittenReply_on`, `State.deadDrop_idle` and `State.deadAck_done` say what each does. -/
theorem granulesAreWrittenAndDropped : Obligations.GranulesAreWrittenAndDropped := by
  refine ⟨fun s g => ⟨fun h => congrArg Host.Outcome.next (State.setWritten_off h), fun h => ?_,
    fun h => congrArg Host.Outcome.next (State.setWrittenReply_off h), setWrittenReply_effect⟩,
    fun s g => ⟨fun hp h1 h2 h3 h4 _ h5 h6 h7 h8 => ?_, fun hp => if_neg hp, fun h => congrArg Host.Outcome.next (State.deadAck_waits h),
      fun h1 h2 h3 h4 => ?_⟩⟩
  · refine ⟨_, congrArg Host.Outcome.next (State.setWritten_on h), ?_⟩
    have hR : (s.llc.setR ++ [g]).contains g = true := by simp
    by_cases hw : tget .unwritten s.gran g = .written
    · rw [State.firstDram_written hw]
      exact ⟨hw, fun _ _ => rfl, contains_filter_ne _ g, fun _ _ => rfl, fun _ _ hno => absurd hw hno, hR, rfl⟩
    · rw [State.firstDram_unwritten hw]
      refine ⟨tget_tset_self .unwritten s.gran g .written, fun h hh => tget_tset_ne .unwritten s.gran .written hh, contains_filter_ne _ g, fun a ha => ?_, fun a ha _ hc => ?_, hR, rfl⟩
      · show tget (0 : Byte) (tclear (fun k => k / 4096 = g && !s.cachedWord (k / 64 * 64)) s.mem) a = _
        refine tget_tclear_out ?_
        rcases ha with h | h | h
        · rw [decide_eq_false h, Bool.false_and]
        · exact absurd h hw
        · rw [h, Bool.not_true, Bool.and_false]
      · show tget (0 : Byte) (tclear (fun k => k / 4096 = g && !s.cachedWord (k / 64 * 64)) s.mem) a = 0
        exact tget_tclear_in (by rw [hc, decide_eq_true ha]; rfl)
  · obtain ⟨h, hd⟩ := State.deadDrop_idle h1 h2 h3 h4 h5 h6 h7
    obtain ⟨k, o, sn, fr, hg, hin⟩ := State.dropGran_clean
      (s := { s with llc := { s.llc with hits := h, heldG := s.llc.heldG.filter (· ≠ g) ++ [g] } }) h8 g
    refine ⟨_, (if_pos hp).trans (congrArg Host.Outcome.next (hd.trans hg)), fun e he => ?_, fun e he hne => ?_, hin, ?_, rfl⟩
    · simpa using (List.mem_filter.1 he).2
    · exact List.mem_filter.2 ⟨he, by simpa using hne⟩
    · simp
  · obtain ⟨hd, hack⟩ := State.deadAck_done h1 h2 h3 h4
    have hg : 4096 * g / 4096 = g := Nat.mul_div_cancel_left g (by decide)
    refine ⟨_, congrArg Host.Outcome.next hack, ?_⟩
    rw [State.emptyGran, State.setGran, hg]
    refine ⟨?_, fun h hh => tget_tset_ne .unwritten s.gran .dead hh, fun a ha => ⟨?_, ?_⟩, fun a ha => ?_, contains_filter_ne _ g, rfl⟩
    · rw [State.granAt, hg]
      exact tget_tset_self .unwritten s.gran g .dead
    · refine (mget_clearBytes _ _ _ _).trans (if_pos ?_)
      omega
    · show tget Err.none (tclear (fun k => k / 4096 = g) s.errs) a = .none
      exact tget_tclear_in (decide_eq_true ha)
    · refine (mget_clearBytes _ _ _ _).trans (if_neg ?_)
      omega

end Sys2Proof.Machine
end

section
/-! PROOFS. Reductions combine one word (O26; R234, R235, R238, R239). -/

namespace Sys2Proof.Machine

-- One theorem at a time, as in the tests: the proofs together take too many threads.
set_option Elab.async false

/-! ### One word -/

theorem wordsLe_mread_four (m : Mem) (a : Nat) : wordsLe (mread m a 4) = [BitVec.ofNat 32 (leNat (mread m a 4))] := by
  rw [wordsLe, mread_length]
  show [BitVec.ofNat 32 (field (mread m a 4) 0 4)] = _
  rw [field, List.drop_zero, List.take_of_length_le (by rw [mread_length])]

theorem bytesLe_one (x : BitVec 32) : bytesLe [x] = leBytes 4 x.toNat := by
  rw [bytesLe, List.flatMap_cons, List.flatMap_nil, List.append_nil]

/-- The combination of one word of memory with a reduction's. -/
theorem redCombine_one {op : Fin 4} (int : Bool) (x : BitVec 32) (h : op ≠ 3) (m : Mem) (a : Nat) :
    bytesLe (redCombine ⟨op, int, [x]⟩ (wordsLe (mread m a 4))) =
      leBytes 4 (redWord op int (BitVec.ofNat 32 (leNat (mread m a 4))) x).toNat := by
  have hop : ¬op.val = 3 := fun he => h (Fin.ext he)
  rw [wordsLe_mread_four, redCombine]
  dsimp only
  rw [if_neg hop, List.zipWith_cons_cons, List.zipWith_nil_left, bytesLe_one]

/-- Four bytes read where they were written. -/
theorem mread_leBytes4 (v : Nat) (m : Mem) (a : Nat) : mread (mwrite m a (leBytes 4 v)) a 4 = leBytes 4 v := by
  have h := mread_mwrite (leBytes 4 v) m a
  rwa [leBytes_length] at h

/-- Four bytes written leave the others. -/
theorem mget_leBytes4 (v : Nat) (m : Mem) {a x : Nat} (hx : x < a ∨ a + 4 ≤ x) : mget (mwrite m a (leBytes 4 v)) x = mget m x :=
  mget_mwrite_out _ m a x (by rwa [leBytes_length])

/-! ### At the slice -/

/-- Of two entries put for a key the second stays. -/
theorem tput_tput {α : Type} (t : Tab α) (i : Nat) (u v : α) : tput i v (tput i u t) = tput i v t := by
  induction t with
  | nil => simp [tput]
  | cons e t ih =>
    obtain ⟨k, w⟩ := e
    by_cases h1 : i < k
    · simp [tput, h1]
    · by_cases h2 : i = k
      · subst h2
        simp [tput]
      · simp [tput, h1, h2, ih]

/-- A slice's application of a reduction to its line, off the list, its pin released and its errors met. -/
def State.combine (s : State) (l : Nat) (q : LlcReq) : State :=
    let sec := sectorsOf q.a (llcLen q.op)
    match q.op, s.line l with
    | .red r, some x =>
      let (s, good) := s.fetchSectors l (idxs 16 fun i => (sec &&& ~~~x.valid).getLsbD i)
      let (s, ue) := s.readSectors l (idxs 16 fun i => (sec &&& x.valid).getLsbD i)
      if ue || sec &&& ~~~(x.valid ||| good) != 0 then s.splitAgain.llcOut [] true
      else
        let bs := bytesLe (redCombine r (wordsLe (mread s.mem q.a (llcLen q.op))))
        let s : State := { s with mem := mwrite s.mem q.a bs }
        let s := s.setLine l { x with valid := x.valid ||| good, dirty := x.dirty ||| sec }
        ((s.flipLine l q.a).splitAgain).wrote l x.flag
    | _, _ => s

theorem State.reductionApply_eq {s : State} {l : Nat} {q : LlcReq} {es : List (Nat × LlcReq)} (h : s.llc.reds = (l, q) :: es) :
    s.reductionApply l =
      ((({ s with llc := { s.llc with reds := es } } : State).unpin l).lineErrors l (sectorsOf q.a (llcLen q.op))).combine l q := by
  have hfind : (s.llc.reds.find? fun e => e.1 = l) = some (l, q) := by simp [h]
  have hdrop : dropFirst (fun e : Nat × LlcReq => decide (e.1 = l)) s.llc.reds = es := by simp [h, dropFirst]
  rw [State.reductionApply, hfind]
  dsimp only
  rw [hdrop]
  rfl

/-- An unarmed flip fires on no line. -/
theorem State.flipLine_off {s : State} (h : s.ras.flipTgt.getLsbD 63 = false) (l a : Nat) : s.flipLine l a = s := by
  unfold State.flipLine
  dsimp only
  split
  · rfl
  · rw [if_neg (by rw [State.flipArmed_off h]; exact Bool.false_ne_true)]

theorem State.splitAgain_none {s : State} (h : s.llc.splits = []) : s.splitAgain = s := if_pos h

/-- A line with the sectors of a reduction dirty. -/
def Line.reduced (y : Line) (sec : BitVec 16) : Line := { y with valid := y.valid ||| 0, dirty := y.dirty ||| sec }

/-- A reduction of one word that the slice holds whole. -/
theorem State.combine_word {u : State} {l : Nat} {q : LlcReq} {op : Fin 4} {int : Bool} {x : BitVec 32} {y : Line}
    (hop : q.op = .red ⟨op, int, [x]⟩) (hne : op ≠ 3) (hl : u.line l = some y) (hv : sectorsOf q.a 4 &&& ~~~y.valid = 0)
    (hsp : u.llc.splits = []) (hm : ∀ i, i < 16 → u.mark (sectorAddr l i) ≠ .ue) (hf : u.ras.flipTgt.getLsbD 63 = false) :
    u.combine l q = (({ u with
      mem := mwrite u.mem q.a (leBytes 4 (redWord op int (BitVec.ofNat 32 (leNat (mread u.mem q.a 4))) x).toNat) } : State).setLine l
        (y.reduced (sectorsOf q.a 4))).wrote l y.flag := by
  have hread : u.readSectors l (idxs 16 fun i => (sectorsOf q.a 4 &&& y.valid).getLsbD i) = (u, false) :=
    State.readSectors_clean fun i hi => by
      rw [idxs, List.mem_filter, List.mem_range] at hi
      exact hm i hi.1
  have hfetch : u.fetchSectors l (idxs 16 fun i => (0 : BitVec 16).getLsbD i) = (u, 0) := by
    rw [show (idxs 16 fun i => (0 : BitVec 16).getLsbD i) = [] from by decide, State.fetchSectors]
  have hgood : (sectorsOf q.a 4 &&& ~~~(y.valid ||| 0) != 0) = false := by
    rw [show y.valid ||| 0 = y.valid from BitVec.or_zero, hv]
    rfl
  unfold State.combine
  simp only [hop, llcLen, List.length_cons, List.length_nil, Nat.zero_add, Nat.mul_one, hl, hv, hfetch, hread, hgood, Bool.or_self,
    Bool.false_eq_true, if_false, redCombine_one int x hne]
  rw [State.flipLine_off, State.splitAgain_none]
  · rfl
  · exact hsp
  · exact hf

/-- What a slice's application of one word leaves (R234, R238). -/
theorem State.reductionApply_word {s : State} {l : Nat} {q : LlcReq} {op : Fin 4} {int : Bool} {x : BitVec 32} {y : Line}
    {es : List (Nat × LlcReq)} (h : s.llc.reds = (l, q) :: es) (hop : q.op = .red ⟨op, int, [x]⟩) (hne : op ≠ 3) (hl : s.line l = some y)
    (hv : sectorsOf q.a 4 &&& ~~~y.valid = 0) (h1 : y.bad1 = 0) (h2 : y.bad2 = 0) (hsp : s.llc.splits = [])
    (hm : ∀ i, i < 16 → s.mark (sectorAddr l i) ≠ .ue) (hf : s.ras.flipTgt.getLsbD 63 = false) :
    s.reductionApply l = ({ s with
      mem := mwrite s.mem q.a (leBytes 4 (redWord op int (BitVec.ofNat 32 (leNat (mread s.mem q.a 4))) x).toNat)
      llc := { s.llc with
        reds := es
        lines := tput l (({ y with pins := y.pins - 1 } : Line).reduced (sectorsOf q.a 4)) s.llc.lines } } : State).wrote l y.flag := by
  have hunpin : ({ s with llc := { s.llc with reds := es } } : State).unpin l =
      ({ s with llc := { s.llc with reds := es } } : State).setLine l { y with pins := y.pins - 1 } := by
    rw [State.unpin, show ({ s with llc := { s.llc with reds := es } } : State).line l = some y from hl]
  have hline : (({ s with llc := { s.llc with reds := es } } : State).setLine l { y with pins := y.pins - 1 }).line l =
      some { y with pins := y.pins - 1 } := tfind_tput_self _ _ _
  rw [State.reductionApply_eq h, hunpin, State.lineErrors_clean _ fun z hz => by
    obtain rfl := Option.some.inj (hline.symm.trans hz)
    exact ⟨h1, h2⟩, State.combine_word hop hne hline hv hsp hm hf]
  refine congrArg (State.wrote · l y.flag) ?_
  have ht := tput_tput s.llc.lines l { y with pins := y.pins - 1 } (({ y with pins := y.pins - 1 } : Line).reduced (sectorsOf q.a 4))
  rw [← ht]
  rfl

/-! ### At the home controller -/

theorem wordsOf_hbm_word {a : Nat} (hp : place a = .hbm) (ha : a % 4 = 0) : wordsOf a 4 = [wordOf a] := by
  have hw : wordSize a = 64 := by rw [wordSize, hp]
  have hc : (a + 4 - 1) / 64 - a / 64 + 1 = 1 := by omega
  simp only [wordsOf, hw, hc, if_neg (show 4 ≠ 0 by decide)]
  simp

/-- A write at the controller to a written granule (R223). -/
theorem State.dramWrite_word {s : State} {a : Nat} {bs : List Byte} (hl : bs.length = 4) (hp : place a = .hbm) (ha : a % 4 = 0)
    (hg : s.granAt (wordOf a) = .written) (hlost : (s.chan (chanUnit a)).lost = false) (hf : s.ras.flipTgt.getLsbD 63 = false) :
    ∃ t, s.Counts t ∧ s.dramWrite a bs = { t with mem := mwrite s.mem a bs } := by
  have hne : bs ≠ [] := by rintro rfl; cases hl
  have hfirst : s.firstDrams (wordsOf a bs.length) = s := by
    rw [hl, wordsOf_hbm_word hp ha]
    exact if_pos hg
  obtain ⟨t, ht, he⟩ := State.putBytes_counts (s := s) (a := a) hne (.inl hp)
  refine ⟨t, ht, ?_⟩
  have hoff : ({ t with mem := mwrite s.mem a bs } : State).flipArmed 2 (chanUnit a) = false :=
    State.flipArmed_off ((congrArg (BitVec.getLsbD · 63) ht.flipTgt).trans hf) _ _
  rw [State.dramWrite, if_neg (by rw [hlost]; exact Bool.false_ne_true), hfirst, he, State.flipWrite,
    if_neg (by rw [hoff]; exact Bool.false_ne_true)]

/-- The home controller's application of one forwarded word (R239). -/
theorem State.forwardApply_word {s : State} {l : Nat} {q : LlcReq} {op : Fin 4} {int : Bool} {x : BitVec 32} (h : s.llc.fwd = [(l, q)])
    (hop : q.op = .red ⟨op, int, [x]⟩) (hne : op ≠ 3) (ha : q.a % 4 = 0) (hp : place q.a = .hbm) (hg : s.granAt (wordOf q.a) = .written)
    (hm : s.mark (wordOf q.a) = .none) (hlost : (s.chan (chanUnit q.a)).lost = false) (hf : s.ras.flipTgt.getLsbD 63 = false) :
    ∃ t, ({ s with llc := { s.llc with fwd := [] } } : State).Counts t ∧ s.forwardApply l = ({ t with
      mem := mwrite s.mem q.a (leBytes 4 (redWord op int (BitVec.ofNat 32 (leNat (mread s.mem q.a 4))) x).toNat) } : State).llcOut [] false := by
  have hfind : (s.llc.fwd.find? fun e => e.1 = l) = some (l, q) := by simp [h]
  have hdrop : dropFirst (fun e : Nat × LlcReq => decide (e.1 = l)) s.llc.fwd = [] := by simp [h, dropFirst]
  have hlen : llcLen q.op = 4 := by rw [hop]; rfl
  obtain ⟨t, ht, he⟩ := State.dramWrite_word (s := { s with llc := { s.llc with fwd := [] } })
    (bs := leBytes 4 (redWord op int (BitVec.ofNat 32 (leNat (mread s.mem q.a 4))) x).toNat) (leBytes_length 4 _) hp ha hg hlost hf
  have hmeet : ({ s with llc := { s.llc with fwd := [] } } : State).meetDram (wordsOf q.a 4) =
      ({ s with llc := { s.llc with fwd := [] } }, false) := by
    rw [wordsOf_hbm_word hp ha, State.meetDram, show ({ s with llc := { s.llc with fwd := [] } } : State).granAt (wordOf q.a) = .written from hg]
    dsimp only
    rw [State.meet, show ({ s with llc := { s.llc with fwd := [] } } : State).mark (wordOf q.a) = .none from hm]
    rfl
  have hmem : ({ s with llc := { s.llc with fwd := [] } } : State).mem = s.mem := rfl
  have hchan : (({ s with llc := { s.llc with fwd := [] } } : State).chan (chanUnit q.a)).lost = false := hlost
  refine ⟨t, ht, ?_⟩
  rw [State.forwardApply, hfind]
  dsimp only
  rw [hdrop]
  generalize ({ s with llc := { s.llc with fwd := [] } } : State) = u at *
  rw [hlen, hop]
  dsimp only
  simp only [hchan, Bool.false_eq_true, if_false, hmeet, redCombine_one int x hne, hmem, he]

/-- Where the word of an aligned HBM address lies in its granule. -/
theorem State.granAt_wordOf (s : State) {a : Nat} (hp : place a = .hbm) : s.granAt (wordOf a) = s.granAt a := by
  have hw : wordOf a = a / 64 * 64 := by simp [wordOf, wordSize, hp]
  have h : a / 64 * 64 / 4096 = a / 4096 := by omega
  rw [State.granAt, hw, h, State.granAt]

/-- The acknowledgement of the one forwarded reduction, with no request held. -/
theorem State.forwardAck_one {s : State} {l : Nat} {q : LlcReq} (h : s.llc.fwd = [(l, q)]) (hh : (s.forwardApply l).llc.fwdHeld = []) :
    s.forwardAck l = s.forwardApply l := by
  have hn : (s.llc.fwd.filter fun e => e.1 = l).length = 1 := by simp [h]
  have he : (s.each (List.range 1) fun s _ => s.forwardApply l) = s.forwardApply l := rfl
  rw [State.forwardAck, hn]
  dsimp only
  rw [if_neg (by decide), he, hh]
  show ({ s.forwardApply l with llc := { (s.forwardApply l).llc with fwdHeld := [] } } : State) = _
  rw [← hh]

/-- Settles O26: at the slice `State.reductionApply_word`, at the controller `State.forwardApply_word`. -/
theorem reductionsCombineOneWord : Obligations.ReductionsCombineOneWord := by
  refine ⟨fun d x => ⟨rfl, ?_, ?_⟩, fun s l q op int x y es => ?_, fun s l q op int x => ?_⟩
  · show (if d.slt x then x else d) = _
    rw [BitVec.slt_eq_decide]
    simp only [decide_eq_true_eq]
  · show (if x.slt d then x else d) = _
    rw [BitVec.slt_eq_decide]
    simp only [decide_eq_true_eq]
  · intro a d h hop hne hl hv h1 h2 hway hsp hsort hm hf
    have happ := State.reductionApply_word h hop hne hl hv h1 h2 hsp hm hf
    have halone := length_filter_tput (v := ({ y with pins := y.pins - 1 } : Line).reduced (sectorsOf q.a 4))
      (fun e : Line => e.slice == y.slice && e.set == y.set && e.way == y.way) hsort hl rfl
    have hwrote := State.wrote_alone (s := { s with
      mem := mwrite s.mem q.a (leBytes 4 (redWord op int (BitVec.ofNat 32 (leNat (mread s.mem q.a 4))) x).toNat)
      llc := { s.llc with
        reds := es
        lines := tput l (({ y with pins := y.pins - 1 } : Line).reduced (sectorsOf q.a 4)) s.llc.lines } }) y.flag
      (tfind_tput_self _ l _) (Nat.le_trans (Nat.le_of_eq halone) hway) hsp
    obtain ⟨w, hsw, -⟩ := State.needSetWritten_eq { s with
      mem := mwrite s.mem q.a (leBytes 4 (redWord op int (BitVec.ofNat 32 (leNat (mread s.mem q.a 4))) x).toNat)
      llc := { s.llc with
        reds := es
        lines := tput l (({ y with pins := y.pins - 1 } : Line).reduced (sectorsOf q.a 4)) s.llc.lines } } (l / 4)
    rw [hsw] at hwrote
    refine ⟨_, congrArg Host.Outcome.next (happ.trans hwrote), ?_⟩
    have hrest : mread (mwrite s.mem a (leBytes 4 (redWord op int d x).toNat)) a 4 = leBytes 4 (redWord op int d x).toNat ∧
        ∀ b, b < a ∨ a + 4 ≤ b → mget (mwrite s.mem a (leBytes 4 (redWord op int d x).toNat)) b = mget s.mem b :=
      ⟨mread_leBytes4 _ s.mem a, fun b hb => mget_leBytes4 _ s.mem hb⟩
    cases y.flag with
    | true => exact ⟨rfl, fun _ => rfl, nofun, hrest⟩
    | false => exact ⟨rfl, nofun, fun _ => rfl, hrest⟩
  · intro a d h hop hheld hne ha hp hg hm hlost hf
    obtain ⟨t, ht, he⟩ := State.forwardApply_word h hop hne ha hp ((s.granAt_wordOf hp).trans hg) hm hlost hf
    have hllc := ht.llc
    have hack := State.forwardAck_one h (by rw [he]; exact (congrArg Llc.fwdHeld hllc).trans hheld)
    refine ⟨_, congrArg Host.Outcome.next (hack.trans he), congrArg Llc.fwd hllc, rfl, mread_leBytes4 _ s.mem a,
      fun b hb => mget_leBytes4 _ s.mem hb⟩

end Sys2Proof.Machine
end

section
/-! PROOFS. Host snoops, hot windows and stream trackers (O27; R222, R242, R244). -/

namespace Sys2Proof.Machine

-- One theorem at a time, as in the tests: the proofs together take too many threads.
set_option Elab.async false

/-! ### A host snoop is answered -/

/-- A line with the host's 64 bytes merged in it. -/
def Line.merged (x : Line) (sec : BitVec 16) : Line :=
  { x with valid := x.valid ||| sec, dirty := x.dirty ||| sec, bad1 := x.bad1 &&& ~~~sec, bad2 := x.bad2 &&& ~~~sec }

/-- The host's data is merged into the resident line alone in its way (R242). -/
theorem State.mergeHost_line {s : State} {a : Nat} {bs : List Byte} {x : Line} (hl : s.line (a / 1024) = some x)
    (hway : (s.inWay x.slice x.set x.way).length ≤ 1) (hsort : s.llc.lines.Pairwise fun x y => x.1 < y.1) :
    ∃ t w, s.Counts t ∧ s.mergeHost a bs = { t with
      mem := mwrite s.mem a bs
      llc := { s.llc with setW := w, lines := tput (a / 1024) (x.merged (sectorsOf a 64)) s.llc.lines } } := by
  have hc := (State.Counts.refl s).sectorMarks x.valid a 64 (idxs 16 fun i => (sectorsOf a 64).getLsbD i)
  have hmem := hc.mem
  have hllc := hc.llc
  have hmerge : s.mergeHost a bs =
      (if x.flag then ({ s.sectorMarks x.valid a 64 (idxs 16 fun i => (sectorsOf a 64).getLsbD i) with
          mem := mwrite (s.sectorMarks x.valid a 64 (idxs 16 fun i => (sectorsOf a 64).getLsbD i)).mem a bs } : State).setLine (a / 1024)
            (x.merged (sectorsOf a 64))
        else (({ s.sectorMarks x.valid a 64 (idxs 16 fun i => (sectorsOf a 64).getLsbD i) with
          mem := mwrite (s.sectorMarks x.valid a 64 (idxs 16 fun i => (sectorsOf a 64).getLsbD i)).mem a bs } : State).setLine (a / 1024)
            (x.merged (sectorsOf a 64))).needSetWritten (a / 4096)).splitPair (a / 1024) := by
    rw [State.mergeHost, hl]
    rfl
  generalize s.sectorMarks x.valid a 64 (idxs 16 fun i => (sectorsOf a 64).getLsbD i) = t at hc hmem hllc hmerge
  have hset : ∃ w, (if x.flag then ({ t with mem := mwrite t.mem a bs } : State).setLine (a / 1024) (x.merged (sectorsOf a 64))
      else (({ t with mem := mwrite t.mem a bs } : State).setLine (a / 1024) (x.merged (sectorsOf a 64))).needSetWritten (a / 4096)) =
      { t with
        mem := mwrite s.mem a bs
        llc := { s.llc with setW := w, lines := tput (a / 1024) (x.merged (sectorsOf a 64)) s.llc.lines } } := by
    rw [← hmem, ← hllc]
    split
    · exact ⟨_, rfl⟩
    · obtain ⟨w, hw, -⟩ := State.needSetWritten_eq
        (({ t with mem := mwrite t.mem a bs } : State).setLine (a / 1024) (x.merged (sectorsOf a 64))) (a / 4096)
      exact ⟨w, hw⟩
  obtain ⟨w, hw⟩ := hset
  refine ⟨t, w, hc, ?_⟩
  rw [hmerge, hw]
  refine State.splitPair_alone (x := x.merged (sectorsOf a 64)) (tfind_tput_self _ _ _) (Nat.le_trans (Nat.le_of_eq ?_) hway)
  exact length_filter_tput (fun e : Line => e.slice == x.slice && e.set == x.set && e.way == x.way) hsort hl rfl

/-- What answers a snoop, its data merged: the directory, and what waited for the answer. -/
def State.snoopAnswered (s : State) (a : Nat) (wasMod : Bool) : State :=
    let l := a / 64
    let g := a / 4096
    let gone := s.llc.frees.contains l || !wasMod || s.llc.dir.any fun e => e.line = l && e.age = 0
    let dir := if gone then s.llc.dir.filter (fun e => e.line ≠ l)
      else s.llc.dir.map fun e => if e.line = l then { e with modified := false } else e
    let rs := s.llc.snHeld
    let s : State := { s with llc := { s.llc with
      dir := dir, snoops := s.llc.snoops.filter (· ≠ l), frees := s.llc.frees.filter (· ≠ l), snHeld := [] } }
    let s := rs.foldl (fun s r => s.llcServe r) s
    if s.llc.heldG.contains g && !s.snoopedFirst g then s.dropGran g else s

/-- A modified line's data is merged, with no drop of its granule, and the snoop is answered. -/
theorem exec_hostSnoopResponse {s : State} {a : Nat} {d : BitVec 512} (h1 : s.llc.snoops.contains (a / 64) = true)
    (h2 : s.llc.heldG.contains (a / 4096) = false) (h3 : (s.llc.dir.any fun e => e.line = a / 64 && e.modified) = true) :
    exec (.hostSnoopResponse a (some d)) s = .next ((s.mergeHost (64 * (a / 64)) (lineBytes d)).snoopAnswered a true) := by
  show execHostSnoopResponse a (some d) s = _
  rw [execHostSnoopResponse]
  dsimp only
  rw [h1, h2, h3]
  rfl

/-- With no write waiting, the host keeps the line shared. -/
theorem State.snoopAnswered_shared {s : State} {a : Nat} {e : DirEnt} (h1 : s.llc.frees.contains (a / 64) = false) (h2 : s.llc.dir = [e])
    (h3 : e.line = a / 64) (h4 : e.age ≠ 0) (h5 : s.llc.snHeld = []) (h6 : s.llc.heldG.contains (a / 4096) = false) :
    s.snoopAnswered a true = { s with
      llc := { s.llc with
        dir := [{ e with modified := false }], snoops := s.llc.snoops.filter (· ≠ a / 64)
        frees := s.llc.frees.filter (· ≠ a / 64), snHeld := [] } } := by
  have hgone : (s.llc.frees.contains (a / 64) || !true || [e].any fun e => e.line = a / 64 && e.age = 0) = false := by
    simp only [h1, List.any_cons, List.any_nil, h4, decide_false, Bool.and_false, Bool.not_true, Bool.or_self]
  unfold State.snoopAnswered
  dsimp only
  rw [h5, h2, hgone]
  simp only [Bool.false_eq_true, if_false, List.map_cons, List.map_nil, h3, if_true, List.foldl_nil, h6, Bool.false_and]

/-! ### Windows and trackers -/

theorem bits_release (w : BitVec 64) : bits w.toNat 23 16 = 0 ↔ w.extractLsb' 16 8 = 0 := by
  rw [BitVec.toNat_eq, BitVec.extractLsb'_toNat]
  rfl

theorem satTo_succ (n : Nat) : satTo 0xFFFF (n + 1) = if n < 0xFFFF then n + 1 else 0xFFFF := rfl

/-- Settles O27: `State.mergeHost_line` and `State.snoopAnswered_shared` say what an answer does. -/
theorem hostSnoopsHotWindowsAndTrackers : Obligations.HostSnoopsHotWindowsAndTrackers := by
  refine ⟨fun s a d h => ?_, fun s a d x e h1 h2 h3 h4 h5 h6 h7 h8 h9 h10 h11 => ?_, fun s k occ h1 h2 => ?_, fun s k occ h => ?_,
    fun s k who => ⟨fun h => ?_, fun h => ?_⟩⟩
  · show execHostSnoopResponse a d s = _
    rw [execHostSnoopResponse]
    dsimp only
    rw [h]
    rfl
  · have hl : 64 * (a / 64) / 1024 = a / 1024 := by omega
    have hany : (s.llc.dir.any fun e => e.line = a / 64 && e.modified) = true := by simp [h4, h5, h6]
    obtain ⟨t, w, ht, hm⟩ := State.mergeHost_line (s := s) (a := 64 * (a / 64)) (bs := lineBytes d) (by rw [hl]; exact h9) h10 h11
    have hex := exec_hostSnoopResponse (d := d) h1 h3 hany
    rw [hm] at hex
    refine ⟨_, hex.trans (congrArg Host.Outcome.next (State.snoopAnswered_shared (e := e) h2 h4 h5 h7 h8 h3)), ?_, fun b hb => ?_, rfl, contains_filter_ne _ _⟩
    · have h := mread_mwrite (lineBytes d) s.mem (64 * (a / 64))
      rw [lineBytes, leBytes_length] at h
      rw [show a / 64 * 64 = 64 * (a / 64) from Nat.mul_comm _ _]
      exact h
    · refine mget_mwrite_out _ s.mem _ b ?_
      rw [lineBytes, leBytes_length]
      omega
  · refine ⟨_, if_pos (by simp [h1, h2]), ?_⟩
    have hf := State.raiseSrc_frame ({ s with hot := { hot := true, slice := k, count := satTo 0xFFFF (s.hot.count + 1), occ := occ } } : State) 12
    have hp := State.raiseSrc_pend (s := ({ s with
      hot := { hot := true, slice := k, count := satTo 0xFFFF (s.hot.count + 1), occ := occ } } : State)) (n := 12) rfl (.inl (by decide)) (by decide)
    generalize ({ s with hot := { hot := true, slice := k, count := satTo 0xFFFF (s.hot.count + 1), occ := occ } } : State).raiseSrc 12 = t
      at hf hp ⊢
    have hh := congrArg State.hot hf
    refine ⟨congrArg Hot.hot hh, congrArg Hot.slice hh, congrArg Hot.occ hh, (congrArg Hot.count hh).trans (satTo_succ _), hp, ?_⟩
    have h3 := congrArg (fun u : State => { u with hot := s.hot, evt := s.evt }) hf
    exact h3
  · exact if_neg (by simp; omega)
  · show execStreamTrackerRelease k who s = _
    rw [execStreamTrackerRelease, State.streamCtl, if_pos ((bits_release _).2 h)]
  · refine ⟨s.trackHit k who, ?_, fun x hx hk => ?_, fun x hx hk => ?_, rfl⟩
    · show execStreamTrackerRelease k who s = _
      rw [execStreamTrackerRelease, State.streamCtl, if_neg fun h' => h ((bits_release _).1 h')]
    · have h := (List.mem_filter.1 hx).2
      rw [hk.1, hk.2] at h
      simp at h
    · refine List.mem_filter.2 ⟨hx, ?_⟩
      rw [Bool.not_eq_true', Bool.and_eq_false_iff]
      by_cases hs : x.slice = k
      · exact .inr (by simpa using fun hw => hk ⟨hs, hw⟩)
      · exact .inl (by simpa [Fin.ext_iff] using hs)

end Sys2Proof.Machine
end

section
/-! PROOFS. Remote locker accesses and fills of the L1 data cache (O28; R35, R205 to R209, R306, R322, R416). -/

namespace Sys2Proof.Machine

-- One theorem at a time, as in the tests: the proofs together take too many threads.
set_option Elab.async false

/-! ### Words without errors -/

theorem State.meetAll_clean {s : State} {ws : List Nat} (h : ∀ w ∈ ws, s.mark w = .none) : s.meetAll ws = (s, false) := by
  induction ws with
  | nil => rfl
  | cons w ws ih =>
    have hw : s.meet w = (s, false) := by rw [State.meet, h w List.mem_cons_self]
    rw [State.meetAll, hw]
    dsimp only
    rw [ih fun v hv => h v (List.mem_cons_of_mem _ hv)]
    rfl

theorem State.lockerRead_words {s : State} {a n : Nat} (h : ∀ w ∈ wordsOf a n, s.mark w = .none) :
    s.lockerRead a n = (s, (mread s.mem a n, false)) := by
  rw [State.lockerRead, State.meetAll_clean h]

/-- Written words with no error are read from DRAM as they are. -/
theorem State.meetDram_clean {s : State} {ws : List Nat} (h : ∀ w ∈ ws, s.granAt w = .written ∧ s.mark w = .none) :
    s.meetDram ws = (s, false) := by
  induction ws with
  | nil => rfl
  | cons w ws ih =>
    obtain ⟨hg, hm⟩ := h w List.mem_cons_self
    rw [State.meetDram, hg]
    dsimp only
    rw [State.meet, hm]
    dsimp only
    rw [ih fun v hv => h v (List.mem_cons_of_mem _ hv)]
    rfl

theorem State.tileRead_clean {s : State} {a n : Nat} (h : ∀ w ∈ wordsOf a n, s.granAt w = .written ∧ s.mark w = .none) :
    s.tileRead a n = (s, (mread s.mem a n, false)) := by
  have hd : s.anyDead a n = false := by
    rw [State.anyDead, List.any_eq_false]
    intro w hw
    simp [(h w hw).1]
  rw [State.tileRead, if_neg (by rw [hd]; exact Bool.false_ne_true), State.meetDram_clean h]

/-! ### Accesses to a locker -/

/-- A requester whose accesses to a locker its core's state refuses (R35, R306). -/
def State.lockerRefuses (s : State) (who : Who) (c : CoreId) (off : Nat) : Bool :=
  match who with
  | .core d => s.refusedAt d (lockerAddr c off)
  | _ => (s.core c).down

/-- A requester that may reach a locker (R205 to R207). -/
def State.lockerReaches (s : State) (who : Who) (c : CoreId) : Bool :=
  match who with
  | .core d => s.rigOfCore d = s.rigOfCore c && (s.rigOfCore c).isSome && !s.furled d
  | _ => true

section
variable {s : State} {who : Who} {c : CoreId} {off n : Nat} {bs : List Byte}

theorem exec_lockerRead : exec (.lockerRemoteAccess who c off (.read n)) s =
    if lockerSize < off + n || !s.linked who (lockerAddr c off) then .next s
    else if who = .host && s.rerigging (lockerAddr c off) then .next { s with rsp := some (leBytes n 0, false) }
    else if s.lockerRefuses who c off then .next { s with rsp := some (leBytes n 0, true) }
    else if !s.lockerReaches who c then .next s
    else .next { (s.lockerRead (lockerAddr c off) n).1 with rsp := some (s.lockerRead (lockerAddr c off) n).2 } := rfl

theorem exec_lockerWrite : exec (.lockerRemoteAccess who c off (.write bs)) s =
    if lockerSize < off + bs.length || !s.linked who (lockerAddr c off) then .next s
    else if who = .host && s.rerigging (lockerAddr c off) then .next s
    else if s.lockerRefuses who c off then .next s
    else if !s.lockerReaches who c then .next s
    else .next (s.lockerWrite (lockerAddr c off) bs) := rfl

end

/-! ### A line of a tile -/

/-- The addresses of tiles (Table 1-5). -/
theorem place_tile {a n o : Nat} (h : place a = .tile n o) :
    tileBase ≤ a ∧ a < 0x018000000000 ∧ (a - tileBase) / 0x8000000 = n ∧ (a - tileBase) % 0x8000000 = o := by
  by_cases h1 : a < 0x006000000000
  · rw [place, if_pos h1] at h
    cases h
  · by_cases h2 : tileBase ≤ a ∧ a < 0x018000000000
    · rw [place, if_neg h1, if_pos h2] at h
      injection h with hn ho
      exact ⟨h2.1, h2.2, hn, ho⟩
    · rw [place, if_neg h1, if_neg h2] at h
      split at h
      · split at h <;> cases h
      · split at h <;> cases h

/-- The line of an offset from an aligned base. -/
theorem line_offset {a B n o : Nat} (hB : B % 256 = 0) (h : B ≤ a) (hn : (a - B) / 0x8000000 = n) (ho : (a - B) % 0x8000000 = o) :
    (a / 256 * 256 - B) / 0x8000000 = n ∧ (a / 256 * 256 - B) % 0x8000000 = o / 256 * 256 := by
  omega

/-- The line of an address of a tile lies in the tile. -/
theorem place_tile_line {a n o : Nat} (h : place a = .tile n o) : place (a / 256 * 256) = .tile n (o / 256 * 256) := by
  obtain ⟨h1, h2, hn, ho⟩ := place_tile h
  have hbase : 0x010000000000 ≤ a := h1
  have h3 : ¬a / 256 * 256 < 0x006000000000 := by omega
  have h4 : tileBase ≤ a / 256 * 256 ∧ a / 256 * 256 < 0x018000000000 := ⟨by rw [tileBase]; omega, by omega⟩
  obtain ⟨h5, h6⟩ := line_offset (B := tileBase) rfl h1 hn ho
  rw [place, if_neg h3, if_pos h4, h5, h6]

/-- The words of a line of a tile lie in its granule. -/
theorem wordsOf_line_granule {a w : Nat} {n o : Nat} (hp : place (a / 256 * 256) = .tile n o) (hw : w ∈ wordsOf (a / 256 * 256) 256) :
    w / 4096 = a / 4096 := by
  have hsize : wordSize (a / 256 * 256) = 64 := by rw [wordSize, hp]
  rw [wordsOf, if_neg (by decide), List.mem_map] at hw
  obtain ⟨i, hi, rfl⟩ := hw
  rw [List.mem_range, hsize] at hi
  rw [wordOf, hsize]
  omega

/-- A core with a line of its L1 data cache filled. -/
def Core.filled (k : Core) (a : Nat) (bs : List Byte) : Core :=
  { k with l1d := [a / 256], l1Data := mwrite k.l1Data (a / 256 * 256) bs }

theorem Core.mread_filled (k : Core) {a n : Nat} {bs : List Byte} (h : bs.length = n) :
    mread (k.filled a bs).l1Data (a / 256 * 256) n = bs := by
  subst h
  exact mread_mwrite bs k.l1Data _

/-- A fetch of a clean line of a tile into an empty cache (R208, R209). -/
theorem State.l1Fetch_tile {s : State} {c : CoreId} {a n off : Nat} (hp : place a = .tile n off) (hd : (s.core c).l1d = [])
    (hpo : (s.core c).posted = []) (hl : s.linked (.core c) (a / 256 * 256) = true)
    (ho : s.tileOpen n (off / 256 * 256) (decide (c.val ≠ n)) = true) (hg : s.granAt a = .written)
    (hm : ∀ w ∈ wordsOf (a / 256 * 256) 256, s.mark w = .none) (hf : s.flipArmed 5 c = false) :
    ∃ x, s.l1Fetch c a 1 = .ok ((s.openTile n (off / 256 * 256)).setCore c
      ((s.core c).filled a (mread s.mem (a / 256 * 256) 256))) x := by
  have hpl := place_tile_line hp
  have hread : s.readAt (.core c) 1 (a / 256 * 256) 256 =
      .ok (s.openTile n (off / 256 * 256)) (mread s.mem (a / 256 * 256) 256, false) := by
    have hclean := State.tileRead_clean (s := s.openTile n (off / 256 * 256)) (a := a / 256 * 256) (n := 256) fun w hw =>
      ⟨by rw [State.granAt, wordsOf_line_granule hpl hw]; exact hg, hm w hw⟩
    rw [State.readAt, if_neg (by rw [hl]; exact Bool.false_ne_true), hpl]
    dsimp only
    rw [overMesh, if_pos ho, hclean]
    rfl
  have hov : overlay ((s.openTile n (off / 256 * 256)).core c).posted (a / 256 * 256) (mread s.mem (a / 256 * 256) 256) =
      mread s.mem (a / 256 * 256) 256 := by
    rw [show ((s.openTile n (off / 256 * 256)).core c).posted = [] from hpo]
    rfl
  have hempty : ((s.openTile n (off / 256 * 256)).core c).l1d = [] := hd
  have hdata : ((s.openTile n (off / 256 * 256)).core c) = s.core c := rfl
  have hflip (k : Core) : ((s.openTile n (off / 256 * 256)).setCore c k).flipArmed 5 c = false := hf
  have halloc : allocLine 128 (a / 256) [] = ([a / 256], none) := rfl
  have hcomm : 256 * (a / 256) = a / 256 * 256 := Nat.mul_comm _ _
  refine ⟨(((mread s.mem (a / 256 * 256) 256).drop (a % 256)).take 1, false), ?_⟩
  unfold State.l1Fetch
  dsimp only
  rw [whoCore_coreId, hcomm, hread]
  dsimp only [Res.andThen]
  rw [if_neg Bool.false_ne_true, hempty, halloc]
  dsimp only
  rw [hov, State.flipL1, if_neg (by rw [hflip]; exact Bool.false_ne_true), hdata, Core.filled]

/-- Settles O28: who reaches a locker is decided first; a line is fetched by `State.l1Fetch_tile`. -/
theorem lockerAccessAndL1Fill : Obligations.LockerAccessAndL1Fill := by
  refine ⟨fun s who c off n bs => ?_, fun s c a n off => ?_⟩
  · intro a refused allowed zeroed
    have href : refused = s.lockerRefuses who c off := by cases who <;> rfl
    have hall : allowed ↔ s.lockerReaches who c = true := by
      cases who with
      | core d =>
        show (s.rigOfCore d = s.rigOfCore c ∧ (s.rigOfCore c).isSome = true ∧ s.furled d = false) ↔ _
        simp [State.lockerReaches, and_assoc]
      | host => exact ⟨fun _ => rfl, fun _ => trivial⟩
      | device => exact ⟨fun _ => rfl, fun _ => trivial⟩
    have hzero : zeroed ↔ (who = .host && s.rerigging (lockerAddr c off)) = true := by
      show (who = .host ∧ s.rerigging (lockerAddr c off) = true) ↔ _
      simp
    rw [href, hall, hzero]
    refine ⟨fun hl => ⟨?_, ?_⟩, fun hl hz hn => ⟨?_, ?_⟩, fun hl hz => ⟨fun hr ha hn hm => ?_, fun hr hn => ⟨leBytes n 0, ?_⟩, fun hr ha => ?_,
      fun hr ha hn hne hf => ?_⟩⟩
    · rw [exec_lockerRead, if_pos (by rw [show s.linked who (lockerAddr c off) = false from hl]; simp)]
    · rw [exec_lockerWrite, if_pos (by rw [show s.linked who (lockerAddr c off) = false from hl]; simp)]
    · rw [exec_lockerRead, if_neg (by rw [show s.linked who (lockerAddr c off) = true from hl]; simpa using hn), if_pos hz]
    · rw [exec_lockerWrite, if_pos hz, ite_self]
    · rw [exec_lockerRead, if_neg (by rw [show s.linked who (lockerAddr c off) = true from hl]; simpa using hn), if_neg hz,
        if_neg (by rw [hr]; exact Bool.false_ne_true), if_neg (by rw [ha]; exact Bool.false_ne_true), State.lockerRead_words hm]
    · rw [exec_lockerRead, if_neg (by rw [show s.linked who (lockerAddr c off) = true from hl]; simpa using hn), if_neg hz, if_pos hr]
    · have hr' : ¬s.lockerRefuses who c off = true := Bool.eq_false_iff.1 hr
      have ha' : (!s.lockerReaches who c) = true := by simpa using ha
      rw [exec_lockerRead, if_neg hz, if_neg hr', if_pos ha', ite_self]
    · have hpl : place (lockerAddr c off) = .locker c off := place_lockerAddr c (by have := List.length_pos_iff.2 hne; omega)
      obtain ⟨t, -, he⟩ := State.putBytes_counts (s := s) (a := lockerAddr c off) hne (.inr (by rw [errUnit, hpl]; exact hf))
      refine ⟨{ t with mem := mwrite s.mem (lockerAddr c off) bs }, ?_, mread_mwrite bs s.mem _, fun b hb => mget_mwrite_out bs s.mem _ b hb⟩
      rw [exec_lockerWrite, if_neg (by rw [show s.linked who (lockerAddr c off) = true from hl]; simpa using hn), if_neg hz,
        if_neg (by rw [hr]; exact Bool.false_ne_true), if_neg (by rw [ha]; exact Bool.false_ne_true), State.lockerWrite, he]
  · intro k b hdown hclk hroom ha hmay hp hd hpo hl ho hg hm hf
    obtain ⟨x, hx⟩ := State.l1Fetch_tile hp hd hpo hl ho hg hm hf
    have hex : exec (.l1Fill c false a) s = .next ((s.openTile n (off / 256 * 256)).setCore c
        ((s.core c).filled a (mread s.mem (a / 256 * 256) 256))) := by
      show execL1Fill c false a s = _
      have hcont : (s.core c).l1d.contains (a / 256) = false := by rw [hd]; rfl
      have hdown' : (s.core c).down = false := hdown
      have hroom' : (s.core c).room = true := hroom
      simp only [execL1Fill, hdown', hclk, hroom', Nat.not_le.2 ha, decide_false, hmay, hp, Bool.not_true, Bool.or_self, Bool.false_eq_true,
        if_false, hcont, hx]
    refine ⟨_, hex, ?_⟩
    rw [State.core_setCore_self]
    refine ⟨rfl, ?_, rfl, fun m hm => State.core_setCore_ne _ _ hm⟩
    exact (s.core c).mread_filled (mread_length _ _ _)

end Sys2Proof.Machine
end

section
/-! PROOFS. Requests to a tile (O29; R253, R254, R263, R266). -/

namespace Sys2Proof.Machine

-- One theorem at a time, as in the tests: the proofs together take too many threads.
set_option Elab.async false

/-! ### Addresses of a tile -/

theorem place_tileAddr (c : CoreId) {o : Nat} (ho : o < 0x8000000) : place (tileAddr c o) = .tile c o := by
  have hc := c.isLt
  have hbase : tileAddr c o = tileBase + (c * 0x8000000 + o) := by rw [tileAddr, Nat.add_assoc]
  have hdiv : (tileAddr c o - tileBase) / 0x8000000 = c := by rw [hbase, Nat.add_sub_cancel_left]; omega
  have hmod : (tileAddr c o - tileBase) % 0x8000000 = o := by rw [hbase, Nat.add_sub_cancel_left]; omega
  have hhbm : ¬ tileAddr c o < 0x006000000000 := by rw [hbase, tileBase]; omega
  have htile : tileBase ≤ tileAddr c o ∧ tileAddr c o < 0x018000000000 := by rw [hbase, tileBase]; omega
  rw [place, if_neg hhbm, if_pos htile, hmod, hdiv]

theorem wordSize_tileAddr (c : CoreId) {o : Nat} (ho : o < 0x8000000) : wordSize (tileAddr c o) = 64 := by
  rw [wordSize, place_tileAddr c ho]

/-- The words of a part of a range of a tile are words of the range. -/
theorem mem_wordsOf_part {c : CoreId} {o n x l w : Nat} (ho : o + n ≤ 0x8000000) (hl : l ≠ 0) (hx : x + l ≤ n)
    (hw : w ∈ wordsOf (tileAddr c (o + x)) l) : w ∈ wordsOf (tileAddr c o) n := by
  have h1 := wordSize_tileAddr c (o := o) (by omega)
  have h2 := wordSize_tileAddr c (o := o + x) (by omega)
  have ha : tileAddr c (o + x) = tileAddr c o + x := (Nat.add_assoc _ _ _).symm
  rw [wordsOf, if_neg hl, List.mem_map] at hw
  obtain ⟨i, hi, rfl⟩ := hw
  rw [wordOf, h2, ha] at *
  rw [wordsOf, if_neg (by omega), List.mem_map, h1, wordOf, h1]
  generalize tileAddr c o = a at *
  rw [List.mem_range] at hi
  exact ⟨(a + x) / 64 - a / 64 + i, List.mem_range.2 (by omega), by omega⟩

/-- Bytes read in two parts. -/
theorem mread_add (m : Mem) (a x y : Nat) : mread m a (x + y) = mread m a x ++ mread m (a + x) y := by
  induction x generalizing a with
  | zero => simp [mread]
  | succ x ih =>
    have h : x + 1 + y = (x + y) + 1 := by omega
    rw [h, mread, ih, mread, List.cons_append, Nat.add_assoc a 1 x, Nat.add_comm 1 x]

/-- Bytes written in two parts. -/
theorem mwrite_append (m : Mem) (a : Nat) (xs ys : List Byte) : mwrite m a (xs ++ ys) = mwrite (mwrite m a xs) (a + xs.length) ys := by
  induction xs generalizing m a with
  | nil => rfl
  | cons x xs ih =>
    rw [List.cons_append, mwrite, ih, mwrite, List.length_cons]
    congr 1
    omega

/-! ### The transfers of a request -/

/-- The queue of a tile that a request joins. -/
def Tile.queue (k : Tile) (mesh : Bool) : List TileReq := if mesh then k.mq else k.cq

/-- A tile with that queue replaced. -/
def Tile.withQueue (k : Tile) (mesh : Bool) (qs : List TileReq) : Tile := if mesh then { k with mq := qs } else { k with cq := qs }

theorem Tile.noQueues {k : Tile} (hc : k.cq = []) (hm : k.mq = []) : ({ k with mq := [], cq := [] } : Tile) = k := by
  cases k
  dsimp only at hc hm
  rw [hc, hm]

/-- Nothing holds back the head of a queue for bank b: the halyard, the bank's refresh or unit, or a held transfer. -/
structure State.TileFree (s : State) (c b : Nat) (mesh : Bool) : Prop where
  hold : (s.tile c).hold = false
  refr : (s.tile c).refr.getLsbD b = false
  busy : (s.bank c b).busy = false
  held : ∀ j, j < 16 → (s.bank c j).held = []
  other : (s.tile c).queue (!mesh) = []
  bank : b < 16

section
variable {s : State} {c b : Nat} {mesh : Bool}

theorem State.heldApart_none (h : ∀ j, j < 16 → (s.bank c j).held = []) : s.heldApart c b mesh = false := by
  rw [State.heldApart, List.any_eq_false]
  intro i hi
  rw [h i (List.mem_range.1 hi)]
  simp

/-- The head of the one queue that holds requests is next. -/
theorem State.TileFree.nextBeat (h : s.TileFree c b mesh) {q : TileReq} {qs : List TileReq} (hq : (s.tile c).queue mesh = q :: qs)
    (hb : q.off / 0x800000 = b) : s.nextBeat c = some q := by
  have hother : s.tileHead c (!mesh) = none := by
    have ho := h.other
    unfold Tile.queue at ho
    unfold State.tileHead
    dsimp only
    rw [ho]
  have hmine : s.tileHead c mesh = some q := by
    unfold Tile.queue at hq
    unfold State.tileHead
    dsimp only
    rw [hq]
    dsimp only
    rw [hb, h.hold, h.refr, State.heldApart_none h.held]
    rfl
  cases mesh with
  | false => rw [State.nextBeat, hmine, show s.tileHead c true = none from hother]
  | true => rw [State.nextBeat, hmine, show s.tileHead c false = none from hother]

/-- The next transfer is taken from its queue and served. -/
theorem State.TileFree.serveBeats (h : s.TileFree c b mesh) {q : TileReq} {qs : List TileReq} (hq : (s.tile c).queue mesh = q :: qs)
    (hb : q.off / 0x800000 = b) (hm : q.mesh = mesh) (fuel : Nat) : s.serveBeats c (fuel + 1) =
      ((s.setTile c { (s.tile c).withQueue mesh qs with turn := 0 }).serveTile c q).serveBeats c fuel := by
  have hbusy := h.busy
  have hheld := h.held b h.bank
  have ho := h.other
  rw [State.serveBeats, h.nextBeat hq hb]
  dsimp only
  rw [hb]
  have hbank (k : Tile) : (s.setTile c k).bank c b = s.bank c b := rfl
  rw [hbank, hbusy, hheld]
  unfold Tile.queue at hq ho
  cases mesh with
  | false =>
    have hq' : (s.tile c).cq = q :: qs := hq
    have ho' : (s.tile c).mq = [] := ho
    simp [hm, hq', ho', Tile.withQueue]
  | true =>
    have hq' : (s.tile c).mq = q :: qs := hq
    have ho' : (s.tile c).cq = [] := ho
    simp [hm, hq', ho', Tile.withQueue]

end

/-! ### The transfers, cut at 64 B -/

/-- First offset of the i-th transfer of n bytes from off. -/
def beatLo (off i : Nat) : Nat := max off ((off / 64 + i) * 64)

/-- Offset after the i-th transfer of n bytes from off. -/
def beatHi (off n i : Nat) : Nat := min (off + n) ((off / 64 + i + 1) * 64)

/-- Number of transfers of n bytes from off. -/
def beatCount (off n : Nat) : Nat := (off + n - 1) / 64 - off / 64 + 1

/-- The i-th transfer of a request. -/
def beat (mesh : Bool) (off : Nat) (op : MemOp) (n i : Nat) : TileReq :=
  { off := beatLo off i, mesh := mesh, last := i + 1 == beatCount off n
    op := match op with
      | .read _ => .read (beatHi off n i - beatLo off i)
      | .write bs => .write ((bs.drop (beatLo off i - off)).take (beatHi off n i - beatLo off i)) }

theorem reqBeats_read (mesh : Bool) (off : Nat) {n : Nat} (hn : n ≠ 0) :
    reqBeats mesh off (.read n) = (List.range (beatCount off n)).map (beat mesh off (.read n) n) := if_neg hn

theorem reqBeats_write (mesh : Bool) (off : Nat) {bs : List Byte} (hn : bs.length ≠ 0) :
    reqBeats mesh off (.write bs) = (List.range (beatCount off bs.length)).map (beat mesh off (.write bs) bs.length) := if_neg hn

section
variable {off n i : Nat}

/-- A transfer holds at least one byte, of the request. -/
theorem beat_bounds (hn : n ≠ 0) (hi : i < beatCount off n) : off ≤ beatLo off i ∧ beatLo off i < beatHi off n i ∧ beatHi off n i ≤ off + n := by
  unfold beatCount at hi
  unfold beatLo beatHi
  omega

theorem beatLo_zero : beatLo off 0 = off := by
  unfold beatLo
  omega

/-- The transfers follow one another. -/
theorem beatLo_succ (hn : n ≠ 0) (hi : i + 1 < beatCount off n) : beatLo off (i + 1) = beatHi off n i := by
  unfold beatCount at hi
  unfold beatLo beatHi
  omega

/-- The last transfer ends with the request. -/
theorem beatHi_last (hn : n ≠ 0) (hi : i + 1 = beatCount off n) : beatHi off n i = off + n := by
  unfold beatCount at hi
  unfold beatHi
  omega

/-- The transfers of a request of one bank are of the bank. -/
theorem beatLo_bank {b : Nat} (hn : n ≠ 0) (h1 : b = off / 0x800000) (h2 : b = (off + n - 1) / 0x800000) (hi : i < beatCount off n) :
    beatLo off i / 0x800000 = b := by
  have h := beat_bounds hn hi
  omega

/-- The last transfer's row is that of the request's last byte. -/
theorem beatLo_row (hn : n ≠ 0) (hi : i + 1 = beatCount off n) :
    beatLo off i % 0x800000 / 2048 = (off + n - 1) % 0x800000 / 2048 := by
  unfold beatCount at hi
  unfold beatLo
  omega

end

/-! ### Reads -/

/-- The part of a read that a queue's transfers have taken so far. -/
def Tile.part (k : Tile) (mesh : Bool) : Taken := if mesh then k.mpart else k.cpart

/-- A tile with that part replaced. -/
def Tile.withPart (k : Tile) (mesh : Bool) (p : Taken) : Tile := if mesh then { k with mpart := p } else { k with cpart := p }

/-- A tile whose row of an offset is open. -/
def Tile.opened (k : Tile) (off : Nat) : Tile :=
  { k with openRow := tset none k.openRow (off / 0x800000) (some (off % 0x800000 / 2048)) }

/-- A transfer of a read of clean words adds its bytes to what its queue has taken; the last answers them. -/
theorem State.serveTile_read {u : State} {c : Nat} {q : TileReq} {n : Nat} {bs : List Byte} (hop : q.op = .read n)
    (hw : ∀ w ∈ wordsOf (tileAddr c q.off) n, u.granAt w = .written ∧ u.mark w = .none)
    (hp : (u.tile c).part q.mesh = ⟨bs, false, false⟩) :
    u.serveTile c q = (u.openTile c q.off).setTile c (if q.last then
        ({ (u.tile c).opened q.off with out := some (bs ++ mread u.mem (tileAddr c q.off) n, false) } : Tile).withPart q.mesh {}
      else ((u.tile c).opened q.off).withPart q.mesh ⟨bs ++ mread u.mem (tileAddr c q.off) n, false, false⟩) := by
  have hdead : (u.openTile c q.off).anyDead (tileAddr c q.off) n = false := by
    rw [State.anyDead, List.any_eq_false]
    intro w h
    simp [show (u.openTile c q.off).granAt w = u.granAt w from rfl, (hw w h).1]
  have hmeet : (u.openTile c q.off).meetDram (wordsOf (tileAddr c q.off) n) = (u.openTile c q.off, false) := State.meetDram_clean hw
  have htile : (u.openTile c q.off).tile c = (u.tile c).opened q.off := State.tile_setTile_self _ _ _
  have hpart : (if q.mesh then ((u.tile c).opened q.off).mpart else ((u.tile c).opened q.off).cpart) = ⟨bs, false, false⟩ := by
    rw [← hp]
    rfl
  have hmem : (u.openTile c q.off).mem = u.mem := rfl
  unfold State.serveTile
  simp only [hop, hdead, htile, hpart, hmeet, hmem, Bool.false_and, Bool.false_eq_true, if_false, Bool.or_self]
  cases q.last <;> rfl

/-- The transfers of a request from the i-th on. -/
def beatsFrom (mesh : Bool) (off : Nat) (op : MemOp) (n i : Nat) : List TileReq :=
  (List.range' i (beatCount off n - i)).map (beat mesh off op n)

theorem beatsFrom_cons {mesh : Bool} {off n i : Nat} (op : MemOp) (h : i < beatCount off n) :
    beatsFrom mesh off op n i = beat mesh off op n i :: beatsFrom mesh off op n (i + 1) := by
  have he : beatCount off n - i = beatCount off n - (i + 1) + 1 := by omega
  rw [beatsFrom, he, List.range'_succ, List.map_cons, beatsFrom]

theorem beatsFrom_end {mesh : Bool} {off n i : Nat} (op : MemOp) (h : beatCount off n ≤ i) : beatsFrom mesh off op n i = [] := by
  rw [beatsFrom, Nat.sub_eq_zero_of_le h, List.range'_zero, List.map_nil]

/-- The state u in which the first i transfers of a read of n bytes of core c's tile, which joined the queue in state s, are served. -/
structure State.ReadServed (s u : State) (c : Nat) (mesh : Bool) (off n i : Nat) : Prop where
  mem : u.mem = s.mem
  gran : u.gran = s.gran
  errs : u.errs = s.errs
  banks : u.banks = s.banks
  tile : { u.tile c with openRow := (s.tile c).openRow, turn := 0 } =
    { ((s.tile c).withQueue mesh (beatsFrom mesh off (.read n) n i)).withPart mesh
        ⟨mread s.mem (tileAddr c off) (beatLo off i - off), false, false⟩ with turn := 0 }

/-- The state u in which a request of core c's tile is served: the tile is k, but for its open rows. -/
structure State.Served (s u : State) (c b row : Nat) (k : Tile) : Prop where
  mem : u.mem = s.mem
  open_ : tget none (u.tile c).openRow b = some row
  tile : { u.tile c with openRow := k.openRow } = k

section
variable {s u : State} {c : CoreId} {b : Nat} {mesh : Bool} {off n i : Nat}

theorem Tile.queue_withQueue (k : Tile) (mesh : Bool) (qs : List TileReq) : (k.withQueue mesh qs).queue mesh = qs := by
  cases mesh <;> rfl

theorem Tile.other_withQueue (k : Tile) (mesh : Bool) (qs : List TileReq) : (k.withQueue mesh qs).queue (!mesh) = k.queue (!mesh) := by
  cases mesh <;> rfl

theorem State.ReadServed.queue (h : s.ReadServed u c mesh off n i) : (u.tile c).queue mesh = beatsFrom mesh off (.read n) n i := by
  have h1 := congrArg (Tile.queue · mesh) h.tile
  cases mesh <;> exact h1

/-- Such a state is as free as the first. -/
theorem State.ReadServed.free (h : s.ReadServed u c mesh off n i) (hf : s.TileFree c b mesh) : u.TileFree c b mesh where
  hold := by
    have h1 := congrArg Tile.hold h.tile
    cases mesh <;> exact h1.trans hf.hold
  refr := by
    have h1 := congrArg (fun k : Tile => k.refr.getLsbD b) h.tile
    cases mesh <;> exact h1.trans hf.refr
  busy := by
    rw [State.bank, h.banks]
    exact hf.busy
  held j hj := by
    rw [State.bank, h.banks]
    exact hf.held j hj
  other := by
    have h1 := congrArg (Tile.queue · (!mesh)) h.tile
    cases mesh <;> exact h1.trans hf.other
  bank := hf.bank

/-- What is common to the service of any transfer of a read. -/
theorem State.ReadServed.serve (h : s.ReadServed u c mesh off n i) (hf : s.TileFree c b mesh) (hn : n ≠ 0) (ho : off + n ≤ 0x8000000)
    (hb : beatLo off i / 0x800000 = b) (hi : i < beatCount off n)
    (hw : ∀ w ∈ wordsOf (tileAddr c off) n, s.granAt w = .written ∧ s.mark w = .none) (fuel : Nat) :
    ∃ v : State, u.serveBeats c (fuel + 1) = v.serveBeats c fuel ∧ v.mem = u.mem ∧ v.gran = u.gran ∧ v.errs = u.errs ∧ v.banks = u.banks ∧
      v.tile c = (if i + 1 == beatCount off n then
        ({ (({ (u.tile c).withQueue mesh (beatsFrom mesh off (.read n) n (i + 1)) with turn := 0 } : Tile).opened (beatLo off i)) with
          out := some (mread s.mem (tileAddr c off) (beatHi off n i - off), false) } : Tile).withPart mesh {}
      else (({ (u.tile c).withQueue mesh (beatsFrom mesh off (.read n) n (i + 1)) with turn := 0 } : Tile).opened (beatLo off i)).withPart mesh
        ⟨mread s.mem (tileAddr c off) (beatHi off n i - off), false, false⟩) := by
  have hbb := beat_bounds hn hi
  have hq := h.queue
  rw [beatsFrom_cons _ hi] at hq
  have hstep := (h.free hf).serveBeats hq hb rfl fuel
  have haddr : beatLo off i = off + (beatLo off i - off) := by omega
  have hwords (w : Nat) (hmem : w ∈ wordsOf (tileAddr c (beatLo off i)) (beatHi off n i - beatLo off i)) :
      u.granAt w = .written ∧ u.mark w = .none := by
    rw [State.granAt, h.gran, State.mark, h.errs]
    rw [haddr] at hmem
    exact hw w (mem_wordsOf_part ho (by omega) (by omega) hmem)
  have hbytes : mread s.mem (tileAddr c off) (beatLo off i - off) ++
      mread u.mem (tileAddr c (beatLo off i)) (beatHi off n i - beatLo off i) = mread s.mem (tileAddr c off) (beatHi off n i - off) := by
    have hsum : beatHi off n i - off = (beatLo off i - off) + (beatHi off n i - beatLo off i) := by omega
    have hat : tileAddr c (beatLo off i) = tileAddr c off + (beatLo off i - off) := by
      unfold tileAddr
      omega
    rw [hsum, mread_add, h.mem, hat]
  have hpart : (({ (u.tile c).withQueue mesh (beatsFrom mesh off (.read n) n (i + 1)) with turn := 0 } : Tile)).part mesh =
      ⟨mread s.mem (tileAddr c off) (beatLo off i - off), false, false⟩ := by
    have h1 := congrArg (Tile.part · mesh) h.tile
    cases mesh <;> exact h1
  have hserve := State.serveTile_read (q := beat mesh off (.read n) n i) (c := c)
    (u := u.setTile c { (u.tile c).withQueue mesh (beatsFrom mesh off (.read n) n (i + 1)) with turn := 0 }) rfl hwords
    (by rw [State.tile_setTile_self]; exact hpart)
  rw [State.tile_setTile_self] at hserve
  have hbytes' : mread s.mem (tileAddr c off) (beatLo off i - off) ++ mread (u.setTile c
      { (u.tile c).withQueue mesh (beatsFrom mesh off (.read n) n (i + 1)) with turn := 0 }).mem (tileAddr c (beat mesh off (.read n) n i).off)
      (beatHi off n i - beatLo off i) = mread s.mem (tileAddr c off) (beatHi off n i - off) := hbytes
  rw [hbytes'] at hserve
  refine ⟨_, hstep.trans (congrArg (State.serveBeats · c fuel) hserve), rfl, rfl, rfl, rfl, ?_⟩
  exact State.tile_setTile_self _ _ _

/-- The transfers of a read that are not the last. -/
theorem State.ReadServed.next (h : s.ReadServed u c mesh off n i) (hf : s.TileFree c b mesh) (hn : n ≠ 0) (ho : off + n ≤ 0x8000000)
    (hb : beatLo off i / 0x800000 = b) (hi : i + 1 < beatCount off n)
    (hw : ∀ w ∈ wordsOf (tileAddr c off) n, s.granAt w = .written ∧ s.mark w = .none) (fuel : Nat) :
    ∃ v : State, u.serveBeats c (fuel + 1) = v.serveBeats c fuel ∧ s.ReadServed v c mesh off n (i + 1) := by
  obtain ⟨v, hv, h1, h2, h3, h4, ht⟩ := h.serve hf hn ho hb (by omega) hw fuel
  refine ⟨v, hv, h1.trans h.mem, h2.trans h.gran, h3.trans h.errs, h4.trans h.banks, ?_⟩
  have hlast : (i + 1 == beatCount off n) = false := beq_eq_false_iff_ne.2 (by omega)
  rw [ht, hlast, beatLo_succ hn hi]
  cases mesh with
  | false => exact congrArg (fun k : Tile => { k with
      cq := beatsFrom false off (.read n) n (i + 1), cpart := ⟨mread s.mem (tileAddr c off) (beatHi off n i - off), false, false⟩ }) h.tile
  | true => exact congrArg (fun k : Tile => { k with
      mq := beatsFrom true off (.read n) n (i + 1), mpart := ⟨mread s.mem (tileAddr c off) (beatHi off n i - off), false, false⟩ }) h.tile

/-- The last transfer of a read answers it. -/
theorem State.ReadServed.last (h : s.ReadServed u c mesh off n i) (hf : s.TileFree c b mesh) (hn : n ≠ 0) (ho : off + n ≤ 0x8000000)
    (hb : beatLo off i / 0x800000 = b) (hi : i + 1 = beatCount off n)
    (hw : ∀ w ∈ wordsOf (tileAddr c off) n, s.granAt w = .written ∧ s.mark w = .none)
    (hq : (s.tile c).queue mesh = []) (hp : (s.tile c).part mesh = {}) :
    s.Served (u.serveBeats c 1) c b ((off + n - 1) % 0x800000 / 2048)
      { s.tile c with out := some (mread s.mem (tileAddr c off) n, false), turn := 0 } := by
  obtain ⟨v, hv, h1, -, -, -, ht⟩ := h.serve hf hn ho hb (by omega) hw 0
  rw [hi, beq_self_eq_true, if_pos rfl, beatHi_last hn hi, Nat.add_sub_cancel_left, beatsFrom_end _ (Nat.le_refl _)] at ht
  rw [hv]
  refine ⟨h1.trans h.mem, ?_, ?_⟩
  · show tget none (v.tile c).openRow b = _
    rw [ht, ← beatLo_row hn hi, ← hb]
    cases mesh <;>
      exact tget_tset_self (none : Option Nat) (u.tile c).openRow (beatLo off i / 0x800000) (some (beatLo off i % 0x800000 / 2048))
  · show { v.tile c with openRow := (s.tile c).openRow } = _
    rw [ht]
    cases mesh with
    | false =>
      have hq' : (s.tile c).cq = [] := hq
      have hp' : (s.tile c).cpart = {} := hp
      refine .trans (congrArg (fun k : Tile => { k with
        cq := [], cpart := {}, out := some (mread s.mem (tileAddr c off) n, false) }) h.tile) ?_
      rw [← hq', ← hp']
      rfl
    | true =>
      have hq' : (s.tile c).mq = [] := hq
      have hp' : (s.tile c).mpart = {} := hp
      refine .trans (congrArg (fun k : Tile => { k with
        mq := [], mpart := {}, out := some (mread s.mem (tileAddr c off) n, false) }) h.tile) ?_
      rw [← hq', ← hp']
      rfl

/-- The transfers of a read that remain are served one by one. -/
theorem State.ReadServed.all (hf : s.TileFree c b mesh) (hn : n ≠ 0) (ho : off + n ≤ 0x8000000) (h1 : b = off / 0x800000)
    (h2 : b = (off + n - 1) / 0x800000) (hw : ∀ w ∈ wordsOf (tileAddr c off) n, s.granAt w = .written ∧ s.mark w = .none)
    (hq : (s.tile c).queue mesh = []) (hp : (s.tile c).part mesh = {}) (j : Nat) :
    ∀ (u : State) (i : Nat), i + (j + 1) = beatCount off n → s.ReadServed u c mesh off n i →
      s.Served (u.serveBeats c (j + 1)) c b ((off + n - 1) % 0x800000 / 2048)
        { s.tile c with out := some (mread s.mem (tileAddr c off) n, false), turn := 0 } := by
  induction j with
  | zero => exact fun u i hi h => h.last hf hn ho (beatLo_bank hn h1 h2 (by omega)) hi hw hq hp
  | succ j ih =>
    intro u i hi h
    obtain ⟨v, hv, hs⟩ := h.next hf hn ho (beatLo_bank hn h1 h2 (by omega)) (by omega) hw (j + 1)
    rw [hv]
    exact ih v (i + 1) (by omega) hs

end

/-! ### Writes -/

theorem State.firstWrites_written {s : State} {ws : List Nat} (h : ∀ w ∈ ws, s.granAt w = .written) : s.firstWrites ws = s := by
  induction ws with
  | nil => rfl
  | cons w ws ih =>
    rw [State.firstWrites, State.firstWrite, if_pos (h w List.mem_cons_self)]
    exact ih fun v hv => h v (List.mem_cons_of_mem _ hv)

/-- A write of written granules of a tile: errors are counted, and memory takes the bytes. -/
theorem State.tileWrite_counts {s : State} {a : Nat} {bs : List Byte} (hne : bs ≠ []) (hg : ∀ w ∈ wordsOf a bs.length, s.granAt w = .written)
    (hf : s.ras.flipTgt.getLsbD 63 = false) : ∃ t, s.Counts t ∧ s.tileWrite a bs = { t with mem := mwrite s.mem a bs } := by
  rw [State.tileWrite, State.firstWrites_written hg]
  exact State.putBytes_counts hne (.inr (State.flipArmed_off hf _ _))

/-- The state u in which the first i transfers of a write of core c's tile are served. -/
structure State.WriteServed (s u : State) (c b : Nat) (mesh : Bool) (off : Nat) (bs : List Byte) (i : Nat) : Prop where
  mem : u.mem = mwrite s.mem (tileAddr c off) (bs.take (beatLo off i - off))
  gran : u.gran = s.gran
  flip : u.ras.flipTgt.getLsbD 63 = false
  free : u.TileFree c b mesh
  queue : (u.tile c).queue mesh = beatsFrom mesh off (.write bs) bs.length i

/-- Being free depends on the banks and on parts of the tile alone. -/
theorem State.TileFree.congr {s t : State} {c b : Nat} {mesh : Bool} (h : s.TileFree c b mesh) (hb : t.banks = s.banks)
    (h1 : (t.tile c).hold = (s.tile c).hold) (h2 : (t.tile c).refr = (s.tile c).refr)
    (h3 : (t.tile c).queue (!mesh) = (s.tile c).queue (!mesh)) : t.TileFree c b mesh where
  hold := h1.trans h.hold
  refr := (congrArg (BitVec.getLsbD · b) h2).trans h.refr
  busy := by
    rw [State.bank, hb]
    exact h.busy
  held j hj := by
    rw [State.bank, hb]
    exact h.held j hj
  other := h3.trans h.other
  bank := h.bank

/-- Being served, a transfer of a write of written granules writes its bytes; the last answers. -/
theorem State.serveTile_write {u x : State} {c b : Nat} {mesh : Bool} {q : TileReq} {bs : List Byte} (hop : q.op = .write bs)
    (hx : u.openTile c q.off = x) (hne : bs ≠ []) (hg : ∀ w ∈ wordsOf (tileAddr c q.off) bs.length, x.granAt w = .written)
    (hf : x.ras.flipTgt.getLsbD 63 = false) (h : x.TileFree c b mesh) :
    ∃ v, u.serveTile c q = v ∧ v.mem = mwrite x.mem (tileAddr c q.off) bs ∧ v.gran = x.gran ∧ v.ras.flipTgt.getLsbD 63 = false ∧
      v.TileFree c b mesh ∧ (v.tile c).queue mesh = (x.tile c).queue mesh ∧ (q.last = true → (v.tile c).out = some ([], false)) := by
  obtain ⟨t, ht, he⟩ := State.tileWrite_counts hne hg hf
  have hserve : u.serveTile c q = (fun y : State => if q.last then y.setTile c { y.tile c with out := some ([], false) } else y)
      { t with mem := mwrite x.mem (tileAddr c q.off) bs } := by
    unfold State.serveTile
    rw [hop, hx]
    dsimp only
    rw [he]
  have hbanks : t.banks = x.banks := by
    have hfr := congrArg State.banks ht.frame
    exact hfr
  have hflip : t.ras.flipTgt.getLsbD 63 = false := ht.flipTgt ▸ hf
  have htile := ht.tile c
  have hhold : (t.tile c).hold = (x.tile c).hold := by
    have hfr := congrArg Tile.hold htile
    exact hfr
  have hrefr : (t.tile c).refr = (x.tile c).refr := by
    have hfr := congrArg Tile.refr htile
    exact hfr
  have hqueue (m : Bool) : (t.tile c).queue m = (x.tile c).queue m := by
    have hfr := congrArg (Tile.queue · m) htile
    cases m <;> exact hfr
  rw [hserve]
  cases hl : q.last with
  | false => exact ⟨_, rfl, rfl, ht.gran, hflip, h.congr hbanks hhold hrefr (hqueue _), hqueue _, nofun⟩
  | true =>
    have hset (k : Tile) : (({ t with mem := mwrite x.mem (tileAddr c q.off) bs } : State).setTile c k).tile c = k := State.tile_setTile_self _ _ _
    refine ⟨_, rfl, rfl, ht.gran, hflip, h.congr hbanks ?_ ?_ ?_, ?_, fun _ => ?_⟩
    · exact (congrArg Tile.hold (hset _)).trans hhold
    · exact (congrArg Tile.refr (hset _)).trans hrefr
    · exact (congrArg (Tile.queue · (!mesh)) (hset _)).trans (hqueue _)
    · exact (congrArg (Tile.queue · mesh) (hset _)).trans (hqueue _)
    · exact congrArg Tile.out (hset _)

section
variable {s u : State} {c : CoreId} {b : Nat} {mesh : Bool} {off i : Nat} {bs : List Byte}

/-- The service of a transfer of a write. -/
theorem State.WriteServed.serve (h : s.WriteServed u c b mesh off bs i) (hn : bs.length ≠ 0) (ho : off + bs.length ≤ 0x8000000)
    (hb : beatLo off i / 0x800000 = b) (hi : i < beatCount off bs.length)
    (hw : ∀ w ∈ wordsOf (tileAddr c off) bs.length, s.granAt w = .written) (fuel : Nat) :
    ∃ v : State, u.serveBeats c (fuel + 1) = v.serveBeats c fuel ∧
      v.mem = mwrite s.mem (tileAddr c off) (bs.take (beatHi off bs.length i - off)) ∧ v.gran = s.gran ∧
      v.ras.flipTgt.getLsbD 63 = false ∧ v.TileFree c b mesh ∧ (v.tile c).queue mesh = beatsFrom mesh off (.write bs) bs.length (i + 1) ∧
      (i + 1 = beatCount off bs.length → (v.tile c).out = some ([], false)) := by
  have hbb := beat_bounds hn hi
  have hq := h.queue
  rw [beatsFrom_cons _ hi] at hq
  have hstep := h.free.serveBeats hq hb rfl fuel
  have hlen : ((bs.drop (beatLo off i - off)).take (beatHi off bs.length i - beatLo off i)).length = beatHi off bs.length i - beatLo off i := by
    rw [List.length_take, List.length_drop]
    omega
  have haddr : beatLo off i = off + (beatLo off i - off) := by omega
  have hbytes : bs.take (beatHi off bs.length i - off) =
      bs.take (beatLo off i - off) ++ (bs.drop (beatLo off i - off)).take (beatHi off bs.length i - beatLo off i) := by
    have hsum : beatHi off bs.length i - off = (beatLo off i - off) + (beatHi off bs.length i - beatLo off i) := by omega
    rw [hsum, List.take_add]
  have hat : tileAddr c (beatLo off i) = tileAddr c off + (bs.take (beatLo off i - off)).length := by
    rw [List.length_take, Nat.min_eq_left (by omega)]
    unfold tileAddr
    omega
  have hfree : ((u.setTile c { (u.tile c).withQueue mesh (beatsFrom mesh off (.write bs) bs.length (i + 1)) with turn := 0 }).openTile c
      (beatLo off i)).TileFree c b mesh := by
    refine h.free.congr rfl ?_ ?_ ?_ <;> rw [State.openTile, State.tile_setTile_self, State.tile_setTile_self] <;> cases mesh <;> rfl
  have hqueue : (((u.setTile c { (u.tile c).withQueue mesh (beatsFrom mesh off (.write bs) bs.length (i + 1)) with turn := 0 }).openTile c
      (beatLo off i)).tile c).queue mesh = beatsFrom mesh off (.write bs) bs.length (i + 1) := by
    rw [State.openTile, State.tile_setTile_self, State.tile_setTile_self]
    cases mesh <;> rfl
  generalize hx : (u.setTile c { (u.tile c).withQueue mesh (beatsFrom mesh off (.write bs) bs.length (i + 1)) with turn := 0 }).openTile c
    (beatLo off i) = x at hfree hqueue
  have hxmem : x.mem = u.mem := hx ▸ rfl
  have hxgran : x.gran = u.gran := hx ▸ rfl
  have hxflip : x.ras.flipTgt.getLsbD 63 = false := hx ▸ h.flip
  obtain ⟨v, hv, hmem, hgran, hflip, hfree', hqueue', hout⟩ := State.serveTile_write (q := beat mesh off (.write bs) bs.length i) (c := c)
    (u := u.setTile c { (u.tile c).withQueue mesh (beatsFrom mesh off (.write bs) bs.length (i + 1)) with turn := 0 }) rfl hx
    (by rw [Ne, ← List.length_eq_zero_iff, hlen]; omega)
    (fun w hmem => by
      rw [hlen] at hmem
      have hmem' : w ∈ wordsOf (tileAddr c (beatLo off i)) (beatHi off bs.length i - beatLo off i) := hmem
      rw [haddr] at hmem'
      have hg := hw w (mem_wordsOf_part ho (by omega) (by omega) hmem')
      rw [State.granAt, ← h.gran, ← hxgran] at hg
      exact hg) hxflip hfree
  refine ⟨v, hstep.trans (congrArg (State.serveBeats · c fuel) hv), ?_, hgran.trans (hxgran.trans h.gran), hflip, hfree', hqueue'.trans hqueue,
    fun hl => hout (beq_iff_eq.2 hl)⟩
  rw [hmem, hxmem, h.mem, hbytes, mwrite_append, ← hat]
  rfl

/-- The transfers of a write that remain are served one by one. -/
theorem State.WriteServed.all (hn : bs.length ≠ 0) (ho : off + bs.length ≤ 0x8000000) (h1 : b = off / 0x800000)
    (h2 : b = (off + bs.length - 1) / 0x800000) (hw : ∀ w ∈ wordsOf (tileAddr c off) bs.length, s.granAt w = .written) (j : Nat) :
    ∀ (u : State) (i : Nat), i + (j + 1) = beatCount off bs.length → s.WriteServed u c b mesh off bs i →
      (u.serveBeats c (j + 1)).mem = mwrite s.mem (tileAddr c off) bs ∧ ((u.serveBeats c (j + 1)).tile c).out = some ([], false) := by
  induction j with
  | zero =>
    intro u i hi h
    obtain ⟨v, hv, hmem, -, -, -, -, hout⟩ := h.serve hn ho (beatLo_bank hn h1 h2 (by omega)) (by omega) hw 0
    rw [beatHi_last hn hi, Nat.add_sub_cancel_left, List.take_length] at hmem
    rw [hv]
    exact ⟨hmem, hout hi⟩
  | succ j ih =>
    intro u i hi h
    obtain ⟨v, hv, hmem, hgran, hflip, hfree, hqueue, -⟩ := h.serve hn ho (beatLo_bank hn h1 h2 (by omega)) (by omega) hw (j + 1)
    rw [hv]
    rw [← beatLo_succ hn (by omega)] at hmem
    exact ih v (i + 1) (by omega) ⟨hmem, hgran, hflip, hfree, hqueue⟩

end

/-! ### Requests -/

/-- The bytes a request is for. -/
def opCount : MemOp → Nat
  | .read n => n
  | .write bs => bs.length

section
variable {s : State} {c : CoreId} {mesh : Bool} {off : Nat} {op : MemOp}

/-- A request of no bytes, or outside one bank, or of a core that is down reaches nothing. -/
theorem tileRequest_refused (h : opCount op = 0 ∨ 0x8000000 < off + opCount op ∨ off / 0x800000 ≠ (off + opCount op - 1) / 0x800000 ∨
    (s.core c).down = true) : exec (.tileRequest c mesh off op) s = .next s := by
  show execTileRequest c mesh off op s = _
  unfold execTileRequest
  cases op <;> exact if_pos (by simpa only [Bool.or_eq_true, decide_eq_true_eq, or_assoc, opCount] using h)

/-- A request that joins its queue, which was empty as the other was. -/
theorem tileRequest_served {n : Nat} (hlen : opCount op = n) (hn : n ≠ 0) (ho : off + n ≤ 0x8000000)
    (hb : off / 0x800000 = (off + n - 1) / 0x800000) (hd : (s.core c).down = false) (hc : (s.tile c).cq = []) (hm : (s.tile c).mq = [])
    (hq : reqBeats mesh off op = beatsFrom mesh off op n 0) :
    exec (.tileRequest c mesh off op) s = .next ((s.setTile c ((s.tile c).withQueue mesh (beatsFrom mesh off op n 0))).serveBeats c
      (beatCount off n)) := by
  have hlength : (beatsFrom mesh off op n 0).length = beatCount off n := by rw [beatsFrom, List.length_map, List.length_range', Nat.sub_zero]
  subst hlen
  have hcond : ¬ ((decide (opCount op = 0) || decide (0x8000000 < off + opCount op) ||
      decide (off / 0x800000 ≠ (off + opCount op - 1) / 0x800000) || (s.core c).down) = true) := by
    simp only [Bool.or_eq_true, decide_eq_true_eq, not_or, Bool.not_eq_true]
    exact ⟨⟨⟨hn, by omega⟩, not_not.2 hb⟩, hd⟩
  have hjoin : exec (.tileRequest c mesh off op) s = .next ((s.setTile c (if mesh then
      { s.tile c with mq := (s.tile c).mq ++ reqBeats true off op } else
      { s.tile c with cq := (s.tile c).cq ++ reqBeats false off op })).serveTileQueues c) := by
    show execTileRequest c mesh off op s = _
    unfold execTileRequest
    cases op <;> exact if_neg hcond
  rw [hjoin, hc, hm]
  cases mesh with
  | false =>
    rw [if_neg Bool.false_ne_true, hq, List.nil_append, State.serveTileQueues, State.tile_setTile_self]
    simp [Tile.withQueue, hm, hlength]
  | true =>
    rw [if_pos rfl, hq, List.nil_append, State.serveTileQueues, State.tile_setTile_self]
    simp [Tile.withQueue, hc, hlength]

/-- Nothing of a bank under refresh is served. -/
theorem State.serveBeats_refr {b : Nat} {q : TileReq} {qs : List TileReq} (hq : (s.tile c).queue mesh = q :: qs)
    (hb : q.off / 0x800000 = b) (hr : (s.tile c).refr.getLsbD b = true) (ho : (s.tile c).queue (!mesh) = []) (fuel : Nat) :
    s.serveBeats c fuel = s := by
  have hother : s.tileHead c (!mesh) = none := by
    unfold Tile.queue at ho
    unfold State.tileHead
    dsimp only
    rw [ho]
  have hmine : s.tileHead c mesh = none := by
    unfold Tile.queue at hq
    unfold State.tileHead
    dsimp only
    rw [hq]
    dsimp only
    rw [hb, hr]
    simp
  have hnone : s.nextBeat c = none := by
    cases mesh with
    | false => rw [State.nextBeat, hmine, show s.tileHead c true = none from hother]
    | true => rw [State.nextBeat, hmine, show s.tileHead c false = none from hother]
  cases fuel with
  | zero => rfl
  | succ f => rw [State.serveBeats, hnone]

end

/-- Settles O29: a request joins its queue and its transfers are served one by one, each opening its row. -/
theorem tileRequestsServeOrWait : Obligations.TileRequestsServeOrWait := by
  unfold Obligations.TileRequestsServeOrWait
  intro s c mesh off n bs k b a idle
  refine ⟨fun h => tileRequest_refused h, fun hn ho hb hd hidle => ?_, fun hne ho hb hd hidle hrefr hbusy hflip hw => ?_⟩
  · obtain ⟨hc, hm, hhold, hcp, hmp, hheld⟩ := hidle
    have hexec := tileRequest_served (mesh := mesh) (op := .read n) (n := n) rfl hn ho hb hd hc hm
      ((reqBeats_read mesh off hn).trans (by rw [beatsFrom, Nat.sub_zero, List.range_eq_range']))
    have hcount : beatCount off n = beatCount off n - 1 + 1 := rfl
    refine ⟨fun hrefr => ?_, fun hrefr hbusy hw => ?_⟩
    · have hcons := beatsFrom_cons (mesh := mesh) (off := off) (n := n) (i := 0) (.read n) (Nat.succ_pos _)
      have hset := State.tile_setTile_self s c ((s.tile c).withQueue mesh (beatsFrom mesh off (.read n) n 0))
      have hwait := State.serveBeats_refr (s := s.setTile c ((s.tile c).withQueue mesh (beatsFrom mesh off (.read n) n 0))) (c := c)
        (mesh := mesh) (b := b) (by rw [hset, Tile.queue_withQueue, hcons]) (by rw [beat, beatLo_zero])
        (by rw [hset]; cases mesh <;> exact hrefr) (by rw [hset, Tile.other_withQueue]; cases mesh <;> assumption) (beatCount off n)
      rw [hwait] at hexec
      have hlength : (beatsFrom mesh off (.read n) n 0).length = beatCount off n := by
        rw [beatsFrom, List.length_map, List.length_range', Nat.sub_zero]
      refine ⟨_, beatsFrom mesh off (.read n) n 0, hexec, rfl, ?_, hlength, fun i x hx => ?_, ?_⟩
      · rw [hset]
        cases mesh <;> rfl
      · rw [hlength]
        rw [beatsFrom, Nat.sub_zero, ← List.range_eq_range', List.getElem?_map, Option.map_eq_some_iff] at hx
        obtain ⟨j, hj, rfl⟩ := hx
        rw [List.getElem?_eq_some_iff] at hj
        obtain ⟨hlt, rfl⟩ := hj
        rw [List.getElem_range]
        exact ⟨rfl, rfl, rfl, rfl⟩
      · rw [hset]
        cases mesh <;> exact Tile.noQueues hc hm
    · have hfree : s.TileFree c b mesh := ⟨hhold, hrefr, hbusy, hheld, by cases mesh <;> assumption, by omega⟩
      have hset := State.tile_setTile_self s c ((s.tile c).withQueue mesh (beatsFrom mesh off (.read n) n 0))
      have hserved := State.ReadServed.all hfree hn ho rfl hb hw (by cases mesh <;> assumption) (by cases mesh <;> assumption)
        (beatCount off n - 1) (s.setTile c ((s.tile c).withQueue mesh (beatsFrom mesh off (.read n) n 0))) 0 (Nat.zero_add _)
        ⟨rfl, rfl, rfl, rfl, by
          rw [hset, beatLo_zero, Nat.sub_self]
          have hp : (s.tile c).part mesh = {} := by cases mesh <;> assumption
          cases mesh with
          | false => exact congrArg (fun p => { (s.tile c).withQueue false (beatsFrom false off (.read n) n 0) with cpart := p, turn := 0 }) hp
          | true => exact congrArg (fun p => { (s.tile c).withQueue true (beatsFrom true off (.read n) n 0) with mpart := p, turn := 0 }) hp⟩
      exact ⟨_, hexec, hserved.mem, hserved.open_, hserved.tile⟩
  · obtain ⟨hc, hm, hhold, -, -, hheld⟩ := hidle
    have hlen : bs.length ≠ 0 := fun h => hne (List.length_eq_zero_iff.1 h)
    have hexec := tileRequest_served (mesh := mesh) (op := .write bs) (n := bs.length) rfl hlen ho hb hd hc hm
      ((reqBeats_write mesh off hlen).trans (by rw [beatsFrom, Nat.sub_zero, List.range_eq_range']))
    have hfree : s.TileFree c b mesh := ⟨hhold, hrefr, hbusy, hheld, by cases mesh <;> assumption, by omega⟩
    have hset := State.tile_setTile_self s c ((s.tile c).withQueue mesh (beatsFrom mesh off (.write bs) bs.length 0))
    obtain ⟨hmem, hout⟩ := State.WriteServed.all hlen ho rfl hb hw (mesh := mesh) (beatCount off bs.length - 1)
      (s.setTile c ((s.tile c).withQueue mesh (beatsFrom mesh off (.write bs) bs.length 0))) 0 (Nat.zero_add _)
      ⟨by rw [beatLo_zero, Nat.sub_self, List.take_zero]; rfl, rfl, hflip,
        hfree.congr rfl (by rw [hset]; cases mesh <;> rfl) (by rw [hset]; cases mesh <;> rfl) (by rw [hset, Tile.other_withQueue]),
        by rw [hset, Tile.queue_withQueue]⟩
    refine ⟨_, hexec, ?_, fun x hx => ?_, hout⟩
    · exact (congrArg (mread · a bs.length) hmem).trans (mread_mwrite _ _ _)
    · exact (congrArg (mget · x) hmem).trans (mget_mwrite_out _ _ _ _ hx)

end Sys2Proof.Machine
end

section
/-! PROOFS. Refresh, rows and the duty limit (O30; R253, R266 to R269, R297, R298). -/

namespace Sys2Proof.Machine

-- One theorem at a time, as in the tests: the proofs together take too many threads.
set_option Elab.async false

/-! ### Sweeps over the banks of a tile -/

/-- A change of one bank of a tile at a time. -/
structure State.BankSweep (c : Nat) (f : State → Nat → State) (g : Bank → Bank) : Prop where
  self (t : State) (n : Nat) : (f t n).bank c n = g (t.bank c n)
  other (t : State) (n x y : Nat) (h : x * 16 + y ≠ c * 16 + n) : (f t n).bank x y = t.bank x y
  frame (t : State) (n : Nat) : ∃ x, f t n = { t with banks := x }

section
variable {s : State} {c : Nat} {f : State → Nat → State} {g : Bank → Bank}

theorem State.BankSweep.out (h : State.BankSweep c f g) {x y : Nat} (bs : List Nat) (hbs : ∀ n ∈ bs, x * 16 + y ≠ c * 16 + n) :
    (s.each bs f).bank x y = s.bank x y := by
  induction bs generalizing s with
  | nil => rfl
  | cons b bs ih =>
    exact (ih (s := f s b) fun n hn => hbs n (List.mem_cons_of_mem _ hn)).trans (h.other s b x y (hbs b List.mem_cons_self))

/-- A sweep over all banks changes each of the tile's as told. -/
theorem State.BankSweep.bank (h : State.BankSweep c f g) {j : Nat} {bs : List Nat} (hd : bs.Nodup) (hj : j ∈ bs) :
    (s.each bs f).bank c j = g (s.bank c j) := by
  induction bs generalizing s with
  | nil => exact absurd hj List.not_mem_nil
  | cons b bs ih =>
    obtain ⟨hb, hd'⟩ := List.nodup_cons.1 hd
    rcases List.mem_cons.1 hj with rfl | hj'
    · exact (h.out (s := f s j) (x := c) (y := j) bs fun n hn he => hb ((show j = n by omega) ▸ hn)).trans (h.self s j)
    · refine (ih (s := f s b) hd' hj').trans (congrArg g (h.other s b c j fun he => hb ?_))
      exact (show b = j by omega) ▸ hj'

end

/-- A sweep that applies g to the banks it does not leave as they are. -/
theorem State.bankSweep_ite (c : Nat) (p : Bank → Bool) (g : Bank → Bank) (hg : ∀ k, p k = false → g k = k) :
    State.BankSweep c (fun s b => if p (s.bank c b) then s.setBank c b (g (s.bank c b)) else s) g where
  self t n := by
    split
    · exact State.bank_setBank_self _ _ _ _
    · next hp => exact (hg _ (Bool.not_eq_true _ ▸ hp)).symm
  other t n x y h := by
    split
    · exact State.bank_setBank_ne _ _ h
    · rfl
  frame t n := by
    split <;> exact ⟨_, rfl⟩

/-- A sweep that changes the banks alone. -/
theorem State.BankSweep.eq {s : State} {c : Nat} {f : State → Nat → State} {g : Bank → Bank} (h : State.BankSweep c f g) (bs : List Nat) :
    ∃ x, s.each bs f = { s with banks := x } := s.each_bank_eq f h.frame bs

/-! ### What the chain link changes -/

section
variable {s : State} {c id : Nat} {m : Option Nat} {x : ChainIn}

/-- A delivery changes at most what the link has brought to one bank. -/
theorem State.deliver_cases : s.deliver c m id x = s ∨
    ∃ b i j, s.deliver c m id x = s.setBank c b { s.bank c b with inS := i, inQ := j } := by
  cases m with
  | none => exact .inl rfl
  | some b =>
    unfold State.deliver
    dsimp only
    split_ifs
    · exact .inr ⟨b, some x, (s.bank c b).inQ, rfl⟩
    · exact .inr ⟨b, (s.bank c b).inS, some x, rfl⟩
    · exact .inl rfl

/-- A delivery changes the banks alone. -/
theorem State.deliver_eq : ∃ y, s.deliver c m id x = { s with banks := y } := by
  rcases State.deliver_cases (s := s) (c := c) (m := m) (id := id) (x := x) with h | ⟨b, i, j, h⟩
  · exact ⟨s.banks, h⟩
  · exact ⟨_, h⟩

/-- A delivery changes only what the link has brought to a bank. -/
theorem State.deliver_bank (y z : Nat) : ∃ i j, (s.deliver c m id x).bank y z = { s.bank y z with inS := i, inQ := j } := by
  rcases State.deliver_cases (s := s) (c := c) (m := m) (id := id) (x := x) with h | ⟨b, i, j, h⟩
  · exact ⟨_, _, congrArg (State.bank · y z) h⟩
  · rw [h]
    by_cases he : y * 16 + z = c * 16 + b
    · refine ⟨i, j, ?_⟩
      rw [State.bank, he, show s.bank y z = s.bank c b by rw [State.bank, he]; rfl]
      exact State.bank_setBank_self s c b _
    · exact ⟨(s.bank y z).inS, (s.bank y z).inQ, State.bank_setBank_ne s _ he⟩

end

/-! ### The end of a command -/

section
variable {s : State} {c b : Nat} {e : BitVec 8} {r : BankRun}

/-- The end of a command changes the banks alone. -/
theorem State.closeRun_eq : ∃ y, s.closeRun c b e = { s with banks := y } := by
  unfold State.closeRun
  dsimp only
  generalize (s.bank c b).run = run
  cases run with
  | none => exact ⟨_, rfl⟩
  | some r =>
    dsimp only
    split
    · obtain ⟨y, hy⟩ := State.deliver_eq (s := s.setBank c b { s.bank c b with
        run := none, err := e, paused := false, slice := false, cut := false, owed := 0, inS := none, abort := false, fin := none })
        (c := c) (m := nextMember r.chain b) (id := r.id) (x := .broken)
      exact ⟨y, hy⟩
    · exact ⟨_, rfl⟩

/-- A unit whose command ended is idle with its error code. -/
theorem State.closeRun_bank (h : (s.bank c b).run = some r) : ∃ i j, (s.closeRun c b e).bank c b = { s.bank c b with
    run := none, err := e, paused := false, slice := false, cut := false, owed := 0, inS := i, inQ := j, abort := false, fin := none } := by
  unfold State.closeRun
  dsimp only
  rw [h]
  dsimp only
  generalize hk : ({ s.bank c b with
    run := none, err := e, paused := false, slice := false, cut := false, owed := 0, inS := none, abort := false, fin := none } : Bank) = k
  have hself := State.bank_setBank_self s c b k
  split
  · obtain ⟨i, j, hd⟩ := State.deliver_bank (s := s.setBank c b k) (c := c) (m := nextMember r.chain b) (id := r.id) (x := .broken) c b
    exact ⟨i, j, by rw [hd, hself, ← hk]⟩
  · exact ⟨none, (s.bank c b).inQ, by rw [hself, ← hk]⟩

end

/-! ### Queues with nothing to serve -/

section
variable {s : State} {c b : Nat}

theorem State.serveTileQueues_empty (hc : (s.tile c).cq = []) (hm : (s.tile c).mq = []) : s.serveTileQueues c = s := by
  rw [State.serveTileQueues, hc, hm]
  rfl

theorem State.serveHeld_empty (n : Nat) (h : (s.bank c b).held = []) : s.serveHeld c b n = s.setBank c b { s.bank c b with held := [] } := by
  rw [State.serveHeld, h]
  simp

end

/-! ### Refreshes end -/

section
variable {s : State} {c : CoreId} {b : BankId}

/-- The state in which a refresh of a bank has ended and nothing is done with its bank yet. -/
def State.refreshed (s : State) (c : CoreId) (b : BankId) : State :=
  (s.setBank c b { s.bank c b with owed := (s.bank c b).owed - 1 }).setTile c
    { s.tile c with refr := (s.tile c).refr &&& ~~~(BitVec.twoPow 16 b) }

theorem State.refreshed_bank : (s.refreshed c b).bank c b = { s.bank c b with owed := (s.bank c b).owed - 1 } :=
  State.bank_setBank_self s c b _

theorem State.refreshed_tile : (s.refreshed c b).tile c = { s.tile c with refr := (s.tile c).refr &&& ~~~(BitVec.twoPow 16 b) } :=
  State.tile_setTile_self _ _ _

theorem State.refreshed_refr : ((s.refreshed c b).tile c).refr.getLsbD b = false := by
  have hb := b.isLt
  rw [State.refreshed_tile]
  simp

/-- The end of a bank's last refresh due, for which an ended command waited. -/
theorem refreshEnd_some {e : BitVec 8} (hr : (s.tile c).refr.getLsbD b = true) (ho : (s.bank c b).owed ≤ 1)
    (hf : (s.bank c b).fin = some e) : exec (.refreshEnd c b) s = .next (((s.refreshed c b).closeRun c b e).releaseBank c b) := by
  have hnot : ¬ ((!(s.tile c).refr.getLsbD b) = true) := by rw [hr]; decide
  refine (if_neg hnot).trans ((if_neg (by omega)).trans ?_)
  split
  · next e' he =>
    obtain rfl := Option.some.inj (he.symm.trans hf)
    rfl
  · next he => exact nomatch he.symm.trans hf

/-- The state in which a bank serves what it held until its refresh ended. -/
def State.refreshServes (s u : State) (c : CoreId) (b : BankId) : State :=
  u.serveHeld c b (if (s.bank c b).slice && !(s.bank c b).paused then 8 else (s.bank c b).held.length)

/-- The end of a bank's last refresh due, for which no ended command waited. -/
theorem refreshEnd_none (hr : (s.tile c).refr.getLsbD b = true) (ho : (s.bank c b).owed ≤ 1) (hf : (s.bank c b).fin = none) :
    exec (.refreshEnd c b) s = .next (((s.refreshServes (s.refreshed c b) c b).setBank c b
      { (s.refreshServes (s.refreshed c b) c b).bank c b with slice := false, cut := false }).serveTileQueues c) := by
  have hnot : ¬ ((!(s.tile c).refr.getLsbD b) = true) := by rw [hr]; decide
  refine (if_neg hnot).trans ((if_neg (by omega)).trans ?_)
  split
  · next he => exact nomatch he.symm.trans hf
  · rfl

/-- A refresh that ends with nothing held or queued makes the bank available. -/
theorem refreshEnd_free (hr : (s.tile c).refr.getLsbD b = true) (ho : (s.bank c b).owed ≤ 1) (hh : (s.bank c b).held = [])
    (hc : (s.tile c).cq = []) (hm : (s.tile c).mq = []) (hf : (s.bank c b).fin = none) :
    ∃ k' k, exec (.refreshEnd c b) s = .next (((s.refreshed c b).setBank c b k').setBank c b k) ∧ k.owed = 0 ∧ k.slice = false := by
  have hheld : ((s.refreshed c b).bank c b).held = [] := (congrArg Bank.held State.refreshed_bank).trans hh
  have howed : ((s.refreshed c b).bank c b).owed = 0 := (congrArg Bank.owed State.refreshed_bank).trans (Nat.sub_eq_zero_of_le ho)
  have htile (k k' : Bank) : (((s.refreshed c b).setBank c b k).setBank c b k').tile c = (s.refreshed c b).tile c := rfl
  rw [refreshEnd_none hr ho hf, State.refreshServes, State.serveHeld_empty _ hheld, State.bank_setBank_self, State.serveTileQueues_empty
    (by rw [htile, State.refreshed_tile]; exact hc) (by rw [htile, State.refreshed_tile]; exact hm)]
  exact ⟨_, _, rfl, howed, rfl⟩

/-- A refresh for which an ended command waited lets it go. -/
theorem refreshEnd_closes {e : BitVec 8} {r : BankRun} (hr : (s.tile c).refr.getLsbD b = true) (ho : (s.bank c b).owed ≤ 1)
    (hh : (s.bank c b).held = []) (hc : (s.tile c).cq = []) (hm : (s.tile c).mq = []) (hf : (s.bank c b).fin = some e)
    (hrun : (s.bank c b).run = some r) :
    ∃ k y, exec (.refreshEnd c b) s = .next (({ s.refreshed c b with banks := y } : State).setBank c b k) ∧ k.run = none ∧ k.err = e := by
  have hheld : ((s.refreshed c b).bank c b).held = [] := (congrArg Bank.held State.refreshed_bank).trans hh
  have hrun' : ((s.refreshed c b).bank c b).run = some r := (congrArg Bank.run State.refreshed_bank).trans hrun
  have hcq : ((s.refreshed c b).tile c).cq = [] := (congrArg Tile.cq State.refreshed_tile).trans hc
  have hmq : ((s.refreshed c b).tile c).mq = [] := (congrArg Tile.mq State.refreshed_tile).trans hm
  have hrefr := State.refreshed_refr (s := s) (c := c) (b := b)
  rw [refreshEnd_some hr ho hf]
  generalize s.refreshed c b = u at *
  obtain ⟨i, j, hk⟩ := State.closeRun_bank (e := e) hrun'
  obtain ⟨y, hy⟩ := State.closeRun_eq (s := u) (c := c) (b := b) (e := e)
  generalize u.closeRun c b e = v at *
  have hbusy : (v.bank c b).busy = false := by
    rw [hk]
    unfold Bank.busy Bank.state
    cases (u.bank c b).unit <;> rfl
  have htile : v.tile c = u.tile c := by rw [hy]; rfl
  have hvheld : (v.bank c b).held = [] := by rw [hk]; exact hheld
  have hopen : ¬ (((v.bank c b).busy || (v.tile c).refr.getLsbD b) = true) := by rw [hbusy, htile, hrefr]; decide
  have hset (k : Bank) : (v.setBank c b k).tile c = v.tile c := rfl
  refine ⟨{ v.bank c b with held := [] }, y, ?_, by rw [hk], by rw [hk]⟩
  rw [← hy, State.releaseBank, if_neg hopen, State.serveHeld_empty _ hvheld, State.serveTileQueues_empty
    (by rw [hset, htile]; exact hcq) (by rw [hset, htile]; exact hmq)]

end

/-! ### Temperature and duty windows -/

section
variable {s : State} {c : CoreId}

/-- The interval a tile's next window has. -/
def Tile.fastAfter (k : Tile) (temp busy : Nat) : Bool :=
  decide ((if k.fast then 830 else 850) * 8000000 < temp * 8000000 + 60 * busy)

theorem decide_ite_mul (p : Bool) (a b m x : Nat) :
    (if p then decide (a * m < x) else decide (b * m < x)) = decide ((if p then a else b) * m < x) := by
  cases p <;> rfl

theorem trefiWindowEnd_eq {t0 busy : Nat} (hy : (s.yard (c.val / 16)).tsusp = false) (hb : busy ≤ 8000000) :
    ∃ x, exec (.trefiWindowEnd c t0 busy) s =
      .next { s.setTile c { s.tile c with fast := (s.tile c).fastAfter t0 busy } with banks := x } := by
  have hfast : (if (s.tile c).fast then decide (830 * 8000000 < t0 * 8000000 + 60 * min busy 8000000)
      else decide (850 * 8000000 < t0 * 8000000 + 60 * min busy 8000000)) = (s.tile c).fastAfter t0 busy := by
    rw [Nat.min_eq_left hb]
    exact decide_ite_mul _ 830 850 8000000 _
  have hy' : (s.yard (yardOf c)).tsusp = false := hy
  show ∃ x, execTrefiWindowEnd c t0 busy s = _
  unfold execTrefiWindowEnd
  dsimp only
  rw [hy', if_neg Bool.false_ne_true, hfast]
  generalize s.setTile c { s.tile c with fast := (s.tile c).fastAfter t0 busy } = u
  split
  · exact ⟨u.banks, rfl⟩
  · obtain ⟨x, hx⟩ := State.each_bank_eq (s := u) (fun s b => if (s.bank c b).busy then s.setBank c b { s.bank c b with cut := true } else s)
      (fun t b => by split <;> exact ⟨_, rfl⟩) (List.range 16)
    exact ⟨x, congrArg Host.Outcome.next hx⟩

/-- The sweep that ends the pauses of a tile's units. -/
theorem resumeSweep (c : Nat) : State.BankSweep c
    (fun s b => if (s.bank c b).paused then s.setBank c b { s.bank c b with paused := false } else s)
    (fun k => { k with paused := false }) :=
  State.bankSweep_ite c Bank.paused (fun k => { k with paused := false }) fun k hk => by
    rw [← hk]

end

/-- Settles O30. -/
theorem refreshRowsAndDuty : Obligations.RefreshRowsAndDuty := by
  unfold Obligations.RefreshRowsAndDuty
  intro s c b ch k u
  refine ⟨fun hb hs => ?_, fun h => ?_, fun h => ?_, fun hr ho hh hc hm hf => ?_, fun e r hr ho hh hc hm hf hrun => ?_, ?_,
    fun t0 busy hy hbusy => ?_, fun t0 => ?_, fun h => if_pos h, fun h => if_neg (by show ¬ k.dl < 16; omega), fun h => ?_⟩
  · exact if_neg (by rw [show (s.bank c b).busy = false from hb, show (s.bank c b).slice = false from hs]; decide)
  · exact if_pos (by rw [Bool.or_eq_true]; exact h)
  · exact if_pos (by rw [show (s.tile c).refr.getLsbD b = false from h]; rfl)
  · obtain ⟨v', v, hex, howed, hslice⟩ := refreshEnd_free hr ho hh hc hm hf
    refine ⟨_, hex, State.refreshed_tile, ?_, ?_, rfl, fun x y hxy => ?_⟩
    · rw [State.bank_setBank_self]
      exact howed
    · rw [State.bank_setBank_self]
      exact hslice
    · exact (State.bank_setBank_ne _ _ hxy).trans ((State.bank_setBank_ne _ _ hxy).trans (State.bank_setBank_ne s _ hxy))
  · obtain ⟨v, y, hex, hrun', herr⟩ := refreshEnd_closes hr ho hh hc hm hf hrun
    refine ⟨_, hex, ?_, ?_, rfl⟩
    · rw [State.bank_setBank_self]
      exact hrun'
    · rw [State.bank_setBank_self]
      exact herr
  · refine ⟨_, rfl, ?_, fun j hj => ?_, ?_, rfl⟩
    · rw [State.tile_setTile_self]
      exact tget_tset_self (none : Option Nat) (s.tile c).openRow b none
    · rw [State.tile_setTile_self]
      exact tget_tset_ne (none : Option Nat) (s.tile c).openRow none hj
    · rw [State.tile_setTile_self]
  · obtain ⟨x, hex⟩ := trefiWindowEnd_eq (t0 := t0) hy hbusy
    have htile : ({ s.setTile c { k with fast := k.fastAfter t0 busy } with banks := x } : State).tile c =
        { k with fast := k.fastAfter t0 busy } := State.tile_setTile_self _ _ _
    refine ⟨_, hex, ?_, ?_, rfl⟩ <;> rw [htile]
    rfl
  · refine congrArg (fun f => Host.Outcome.next (s.setChan ch { s.chan ch with fast := f })) ?_
    show (if (s.chan ch).fast then _ else _) = _
    cases (s.chan ch).fast <;> rfl
  · have hsweep := resumeSweep c
    have hex : exec (.dutyWindowStart c) s = .next ((s.setTile c { k with dutyHit := false }).each (List.range 16) fun s b =>
        if (s.bank c b).paused then s.setBank c b { s.bank c b with paused := false } else s) :=
      if_neg (by show ¬ s.pwr.emerg = true; rw [h]; decide)
    obtain ⟨x, hx⟩ := hsweep.eq (s := s.setTile c { k with dutyHit := false }) (List.range 16)
    refine ⟨_, hex, ?_, fun j hj => ?_, fun y z hyz => ?_, ?_⟩
    · rw [hx]
      exact State.tile_setTile_self _ _ _
    · exact hsweep.bank List.nodup_range (List.mem_range.2 hj)
    · exact hsweep.out _ fun n hn => by
        have := List.mem_range.1 hn
        omega
    · rw [hx]
      rfl

end Sys2Proof.Machine
end

section
/-! PROOFS. Halyard wires fail and rows are repaired (O31; R248 to R251, R489). -/

namespace Sys2Proof.Machine

-- One theorem at a time, as in the tests: the proofs together take too many threads.
set_option Elab.async false

/-! ### What events and faults change -/

section
variable {s : State}

theorem State.recordFail_eq (kind item : Nat) : ∃ f e, s.recordFail kind item = { s with failures := f, evt := e } := by
  unfold State.recordFail
  split
  · exact ⟨_, _, rfl⟩
  · split
    · exact ⟨_, _, rfl⟩
    · obtain ⟨e, he⟩ := s.raiseSrc_eq 259
      exact ⟨_, e, he⟩

theorem State.rigCause_eq (r : Nat) (b : BitVec 16) : ∃ e, s.rigCause r b = { s with evt := e } := by
  obtain ⟨e, he⟩ := ({ s with evt := { s.evt with cause := tset 0 s.evt.cause r (tget 0 s.evt.cause r ||| b) } } : State).raiseSrc_eq
    (128 + r)
  exact ⟨e, he⟩

theorem State.faultBegin_frame (f : HwFault) : { s.faultBegin f with rigs := s.rigs, evt := s.evt } = s := by
  refine State.each_keeps s (fun t => { t with rigs := s.rigs, evt := s.evt } = s) _ _ rfl fun t n ht => ?_
  by_cases hc : ((t.rig n).affected f && !(t.rig n).iv.contains f) = true
  · refine .trans (congrArg (fun u : State => { u with rigs := s.rigs, evt := s.evt }) (if_pos hc)) ?_
    have h := (t.setRig n { (t.rig n).move with fault := true, iv := f :: (t.rig n).iv }).rigCause_frame n causeFlt
    exact (congrArg (fun u : State => { u with rigs := s.rigs, evt := s.evt }) h).trans ht
  · exact .trans (congrArg (fun u : State => { u with rigs := s.rigs, evt := s.evt }) (if_neg hc)) ht

theorem State.faultEnd_frame (f : HwFault) : { s.faultEnd f with rigs := s.rigs } = s := by
  refine State.each_keeps s (fun t => { t with rigs := s.rigs } = s) _ _ rfl fun t n ht => ?_
  by_cases hc : (t.rig n).iv.contains f = true
  · exact .trans (congrArg (fun u : State => { u with rigs := s.rigs }) (if_pos hc)) ht
  · exact .trans (congrArg (fun u : State => { u with rigs := s.rigs }) (if_neg hc)) ht

/-- The beginning of a fault changes rigs and their causes. -/
theorem State.faultBegin_eq (f : HwFault) : ∃ r e, s.faultBegin f = { s with rigs := r, evt := e } :=
  have h := s.faultBegin_frame f
  ⟨_, _, by conv => rhs; rw [← h]⟩

/-- The end of a fault changes rigs. -/
theorem State.faultEnd_eq (f : HwFault) : ∃ r, s.faultEnd f = { s with rigs := r } :=
  have h := s.faultEnd_frame f
  ⟨_, by conv => rhs; rw [← h]⟩

theorem State.faultTick_eq (f : HwFault) : ∃ r e, s.faultTick f = { s with rigs := r, evt := e } := by
  obtain ⟨r, e, h⟩ := s.faultBegin_eq f
  obtain ⟨r', h'⟩ := ({ s with rigs := r, evt := e } : State).faultEnd_eq f
  exact ⟨r', e, by rw [State.faultTick, h]; exact h'⟩

end

/-! ### A tile whose core goes down -/

/-- What the tile of a core that goes down keeps: all but its requests. -/
theorem State.stopTile_tile (s : State) (c : Nat) :
    ∃ o, (s.stopTile c).tile c = { s.tile c with out := o, cq := [], mq := [] } := by
  have hfold (qs : List TileReq) : ∀ k : Tile, ∃ o, qs.foldl Tile.answerDown k = { k with out := o } := by
    induction qs with
    | nil => exact fun k => ⟨k.out, rfl⟩
    | cons q qs ih =>
      intro k
      obtain ⟨o, ho⟩ := ih (k.answerDown q)
      exact ⟨o, ho⟩
  unfold State.stopTile
  dsimp only
  rw [State.tile_setTile_self]
  generalize List.range 16 = bs
  generalize hf : (fun (s : State) b => if s.bank c b = {} then s
    else s.setBank c b { s.bank c b with run := none, queued := none, held := [], inS := none }) = f
  obtain ⟨x, hx⟩ := s.each_bank_eq f (fun t b => by rw [← hf]; dsimp only; split <;> exact ⟨_, rfl⟩) bs
  rw [hx, show ({ s with banks := x } : State).tile c = s.tile c from rfl]
  obtain ⟨o, ho⟩ := hfold (bs.flatMap (fun b => (s.bank c b).held) ++ (s.tile c).cq ++ (s.tile c).mq) (s.tile c)
  exact ⟨o, by rw [ho]⟩

theorem State.markDown_tile (s : State) (record : Bool) (c : CoreId) (h : (s.core c).down = false) :
    ∃ o, (s.markDown record c).tile c = { s.tile c with out := o, cq := [], mq := [] } := by
  have hgone : ∃ o, (s.coreGone record c).tile c = { s.tile c with out := o, cq := [], mq := [] } := by
    have hpos : (s.positionBad record c).tiles = s.tiles := by
      have hf := congrArg State.tiles (s.positionBad_frame record c)
      exact hf
    obtain ⟨o, ho⟩ := ((s.positionBad record c).setCore c (s.core c).wentDown).stopTile_tile c
    have hset : ((s.positionBad record c).setCore c (s.core c).wentDown).tile c = s.tile c := congrArg (tget ({} : Tile) · c) hpos
    rw [hset] at ho
    rw [State.coreGone]
    generalize ((s.positionBad record c).setCore c (s.core c).wentDown).stopTile c = u at ho ⊢
    obtain ⟨e, he⟩ := u.raiseSrc_eq (1024 + 4 * yardOf c + 0)
    refine ⟨o, ?_⟩
    rw [State.yardEvent, he]
    exact ho
  obtain ⟨o, hgone⟩ := hgone
  refine ⟨o, ?_⟩
  rw [State.markDown_eq s record c h]
  generalize s.coreGone record c = t at hgone ⊢
  split
  · exact hgone
  next r hr =>
    obtain ⟨e, he⟩ := t.rigCause_eq r causeDown
    rw [he]
    split
    next m hm =>
      split
      · have hf := congrArg State.tiles (State.report_frame (c := c) ⟨0x0B, (s.core c).pc.toNat⟩ hm)
        have ht : (({ t with evt := e } : State).report r c ⟨0x0B, (s.core c).pc.toNat⟩).tiles = t.tiles := hf
        exact .trans (congrArg (tget ({} : Tile) · c) ht) hgone
      · exact hgone
    · exact hgone

/-! ### Wires -/

theorem Tile.dirUp_congr {k k' : Tile} (h : k'.wireBad = k.wireBad) (dir : Nat) : k'.dirUp dir = k.dirUp dir := by
  unfold Tile.dirUp Tile.badWires
  rw [h]

/-- A tile with one more failed wire, holding new accesses. -/
def Tile.wireLost (k : Tile) (dir wire : Nat) : Tile :=
  { k with wireBad := tset false k.wireBad (272 * dir + wire) true, hold := true }

/-- What a wire's failure leaves: its tile's wires, held accesses, memory, and the core down where the direction is. -/
theorem State.wireFailed_after {s : State} {c : CoreId} {dir wire : Nat} (hd : (s.core c).down = false) :
    ((s.wireFailed c dir wire).tile c).wireBad = tset false (s.tile c).wireBad (272 * dir + wire) true ∧
      ((s.wireFailed c dir wire).tile c).hold = true ∧ (s.wireFailed c dir wire).mem = s.mem ∧
      (((s.wireFailed c dir wire).tile c).dirUp dir = false → ((s.wireFailed c dir wire).core c).down = true) := by
  have hrec : ∃ x e, (match s.posOf c with
      | some p => (s.setTile c ((s.tile c).wireLost dir wire)).recordFail 2 (544 * p + 272 * dir + wire)
      | none => s.setTile c ((s.tile c).wireLost dir wire)) =
      { s.setTile c ((s.tile c).wireLost dir wire) with failures := x, evt := e } := by
    split
    · exact State.recordFail_eq _ _
    · exact ⟨_, _, rfl⟩
  obtain ⟨x, e, hrec⟩ := hrec
  have hself : (s.setTile c ((s.tile c).wireLost dir wire)).tile c = (s.tile c).wireLost dir wire := State.tile_setTile_self _ _ _
  generalize hk : (s.tile c).wireLost dir wire = k at hrec hself
  have hbad : k.wireBad = tset false (s.tile c).wireBad (272 * dir + wire) true := hk ▸ rfl
  have hhold : k.hold = true := hk ▸ rfl
  have heq : s.wireFailed c dir wire = (fun u : State =>
      if !k.dirUp dir then u.markDown true c
      else if k.half || (k.dirFull 0 && k.dirFull 1) then u.faultBegin (.halyardHold c)
      else (((u.setTile c { k with half := true }).bumpGen).faultTick (.halyardHalf c)).raiseSrc 14)
      { s.setTile c k with failures := x, evt := e } := by
    rw [← hrec, ← hk]
    rfl
  rw [heq]
  dsimp only
  have htile : ({ s.setTile c k with failures := x, evt := e } : State).tile c = k := hself
  have hmem : ({ s.setTile c k with failures := x, evt := e } : State).mem = s.mem := rfl
  have hd' : (({ s.setTile c k with failures := x, evt := e } : State).core c).down = false := hd
  generalize ({ s.setTile c k with failures := x, evt := e } : State) = u at htile hmem hd' ⊢
  split
  · obtain ⟨o, ho⟩ := u.markDown_tile true c hd'
    obtain ⟨hc, hm, -⟩ := u.markDown_core true c hd'
    rw [ho, hc, hm, htile]
    exact ⟨hbad, hhold, hmem, fun _ => rfl⟩
  next hup =>
    have hup' : k.dirUp dir = true := by simpa using hup
    split
    · obtain ⟨r, e', he⟩ := u.faultBegin_eq (.halyardHold c)
      rw [he]
      have ht : ({ u with rigs := r, evt := e' } : State).tile c = k := htile
      rw [ht]
      exact ⟨hbad, hhold, hmem, fun hdown => absurd (hdown.symm.trans hup') Bool.false_ne_true⟩
    · obtain ⟨r, e', he⟩ := (u.setTile c { k with half := true }).bumpGen.faultTick_eq (.halyardHalf c)
      obtain ⟨e2, he2⟩ := ({ (u.setTile c { k with half := true }).bumpGen with rigs := r, evt := e' } : State).raiseSrc_eq 14
      rw [he, he2]
      have ht : ({ ({ (u.setTile c { k with half := true }).bumpGen with rigs := r, evt := e' } : State) with evt := e2 } : State).tile c =
        { k with half := true } := tget_tset_self ({} : Tile) u.tiles c { k with half := true }
      rw [ht]
      exact ⟨hbad, hhold, hmem, fun hdown => absurd (hdown.symm.trans hup') Bool.false_ne_true⟩

/-- A CRC error on a wire is counted. -/
theorem halyardCrcRetry_eq {s : State} {c : CoreId} {dir : Fin 2} {wire : Fin 272} {win i n : Nat} {before : Tab Nat}
    (hi : i = 272 * dir.val + wire.val) (hb : before = if (s.tile c).win = win then (s.tile c).wireErr else [])
    (hn : n = tget 0 before i + 1) : exec (.halyardCrcRetry c dir wire win) s =
      if n = 8 && !tget false (s.tile c).wireBad i && (s.tile c).carries dir wire && !(s.core c).down then
        .next ((s.setTile c { s.tile c with win := win, wireErr := tset 0 before i n }).wireFailed c dir wire)
      else .next (s.setTile c { s.tile c with win := win, wireErr := tset 0 before i n }) := by
  subst hi hb hn
  rfl

/-! ### Rows -/

section
variable {s t : State} {c : CoreId} {b : BankId} {row : Nat}

/-- Meeting a word of a tile records no failure. -/
theorem State.meet_failures {w n o : Nat} (h : place w = .tile n o) : (s.meet w).1.failures = s.failures := by
  have hce (kind unit addr pos : Nat) : (s.countCe kind unit addr pos).failures = s.failures := by
    unfold State.countCe
    dsimp only
    split
    · split <;> rfl
    · rfl
  unfold State.meet
  split
  · rfl
  · unfold State.ownLog
    rw [h]
    exact hce _ _ _ _
  · unfold State.countUe
    obtain ⟨e, he⟩ := ({ s with ras := { s.ras with
      ue := satTo 0xFFFFFFFF (s.ras.ue + 1), ueKind := (errUnit w).1, ueUnit := (errUnit w).2 } } : State).raiseSrc_eq 256
    rw [he]

theorem State.meetDram_failures {ws : List Nat} (h : ∀ w ∈ ws, ∃ n o, place w = .tile n o) :
    (s.meetDram ws).1.failures = s.failures := by
  induction ws generalizing s with
  | nil => rfl
  | cons w ws ih =>
    obtain ⟨n, o, hw⟩ := h w List.mem_cons_self
    have hrest (u : State) : (u.meetDram ws).1.failures = u.failures := ih fun v hv => h v (List.mem_cons_of_mem _ hv)
    unfold State.meetDram
    dsimp only
    refine (hrest _).trans ?_
    split
    · exact State.meet_failures hw
    · unfold State.countUe
      obtain ⟨e, he⟩ := ({ s with ras := { s.ras with
        ue := satTo 0xFFFFFFFF (s.ras.ue + 1), ueKind := (errUnit w).1, ueUnit := (errUnit w).2 } } : State).raiseSrc_eq 256
      rw [he]
    · rfl

/-- A corrected word of a row is clean in the spare row. -/
def State.cleanWord (s : State) (w : Nat) : State :=
  match s.mark w with
  | .ce _ => s.setMark w .none
  | _ => s

theorem State.cleanWord_eq (w : Nat) : ∃ x, s.cleanWord w = { s with errs := x } := by
  unfold State.cleanWord
  split <;> exact ⟨_, rfl⟩

theorem State.cleanWord_mark (v w : Nat) : (s.cleanWord w).mark v = s.mark v ∨ (s.cleanWord w).mark v = .none := by
  unfold State.cleanWord
  split
  · by_cases h : v = w
    · subst h
      exact .inr (State.mark_setMark_self _ _ _)
    · exact .inl (tget_tset_ne Err.none s.errs .none h)
  · exact .inl rfl

/-- Sweeping words clears their marks of corrections. -/
theorem State.cleanWords_mark (ws : List Nat) : ∀ s : State, ∀ w ∈ ws, ∀ pos, (s.each ws State.cleanWord).mark w ≠ .ce pos := by
  induction ws with
  | nil => exact fun _ _ h => absurd h List.not_mem_nil
  | cons v ws ih =>
    intro s w hw pos
    rcases List.mem_cons.1 hw with rfl | hw
    · refine State.each_keeps (s.cleanWord w) (fun t => ∀ pos, t.mark w ≠ .ce pos) _ ws (fun pos => ?_) (fun t n ht pos => ?_) pos
      · unfold State.cleanWord
        split
        · rw [State.mark_setMark_self]
          exact nofun
        next h => exact h pos
      · rcases State.cleanWord_mark (s := t) w n with h | h <;> rw [h]
        · exact ht pos
        · exact nofun
    · exact ih (s.cleanWord v) w hw pos

theorem State.cleanWords_eq (ws : List Nat) : ∃ x, s.each ws State.cleanWord = { s with errs := x } := by
  refine State.each_keeps s (fun t => ∃ x, t = { s with errs := x }) _ _ ⟨_, rfl⟩ fun t n ⟨x, ht⟩ => ?_
  obtain ⟨y, hy⟩ := t.cleanWord_eq n
  exact ⟨y, by rw [hy, ht]⟩

/-- The tile of a repaired row. -/
def Tile.repaired (k : Tile) (b : Nat) (a : Nat) : Tile :=
  { k with
    spare := tset 0 k.spare b (tget 0 k.spare b + 1)
    log := k.log.filter fun e => e.addr / 2048 ≠ a / 2048
    openRow := tset none k.openRow b none }

/-- The words of a row. -/
def rowWords (a : Nat) : List Nat := (List.range 32).map fun i => a + 64 * i

/-- The state whose tile has a row repaired. -/
def State.rowFixed (s : State) (c b a : Nat) : State := s.setTile c ((s.tile c).repaired b a)

/-- The entry of a correction, marked where its row is repaired. -/
def fixedEntry (c a : Nat) (e : Nat × CeEnt) : Nat × CeEnt :=
  if e.2.kind = 1 && e.2.unit = c && e.2.addr / 2048 = a / 2048 then (e.1, { e.2 with repaired := true }) else e

/-- The state whose table of corrections marks those of a row. -/
def State.tableFixed (s : State) (c a : Nat) : State := { s with ras := { s.ras with table := s.ras.table.map (fixedEntry c a) } }

theorem State.repairRow_eq (c b row : Nat) : s.repairRow c b row =
    (State.tableFixed (State.rowFixed ((s.meetDram (rowWords (rowAddr c b row))).1.each (rowWords (rowAddr c b row)) State.cleanWord)
      c b (rowAddr c b row)) c (rowAddr c b row)).recordRow c b row := by
  unfold State.repairRow
  dsimp only
  rw [show (List.range 32).map (fun i => rowAddr c b row + 64 * i) = rowWords (rowAddr c b row) from rfl]
  generalize rowWords (rowAddr c b row) = ws
  generalize (s.meetDram ws).1 = t
  generalize hu : t.each ws State.cleanWord = u
  have hu' : (t.each ws fun (s : State) w => match s.mark w with | .ce _ => s.setMark w .none | _ => s) = u := hu
  exact .trans (congrArg (fun u : State => ((State.tableFixed (State.rowFixed u c b (rowAddr c b row)) c (rowAddr c b row)).recordRow
    c b row)) hu') rfl

/-- Recording a row leaves all but failures and events; the row is among them where there is room. -/
theorem State.recordRow_eq (c b row : Nat) : ∃ f e, s.recordRow c b row = { s with failures := f, evt := e } ∧
    (s.failures.length < 1024 → ∀ p, s.posOf c = some p → (1, 65536 * p + 4096 * b + row) ∈ f) := by
  unfold State.recordRow
  split
  next p hp =>
    unfold State.recordFail
    split
    next h => exact ⟨_, _, rfl, fun _ q hq => by obtain rfl := Option.some.inj (hp.symm.trans hq); exact List.contains_iff_mem.1 h⟩
    · split
      · exact ⟨_, _, rfl, fun _ q hq => by obtain rfl := Option.some.inj (hp.symm.trans hq); simp⟩
      next h =>
        obtain ⟨e, he⟩ := s.raiseSrc_eq 259
        exact ⟨_, e, he, fun hl => absurd hl h⟩
  next hp => exact ⟨_, _, rfl, fun _ q hq => nomatch hp.symm.trans hq⟩

theorem rowAddr_eq (c : CoreId) (b : BankId) (row : Nat) : rowAddr c b row = tileAddr c (b * 0x800000 + 2048 * row) := rfl

/-- The words of a row lie in its tile. -/
theorem place_rowWords (hrow : row < 4096) : ∀ w ∈ rowWords (rowAddr c b row), ∃ n o, place w = .tile n o := by
  intro w hw
  rw [rowWords, List.mem_map] at hw
  obtain ⟨i, hi, rfl⟩ := hw
  rw [List.mem_range] at hi
  have hb := b.isLt
  have ha : rowAddr c b row + 64 * i = tileAddr c (b * 0x800000 + 2048 * row + 64 * i) := by
    rw [rowAddr_eq, tileAddr, tileAddr]
    exact Nat.add_assoc _ _ _
  rw [ha]
  exact ⟨_, _, place_tileAddr c (by omega)⟩

/-- What the repair of a row leaves. -/
theorem State.repairRow_after (hrow : row < 4096) : (s.repairRow c b row).mem = s.mem ∧
    tget 0 ((s.repairRow c b row).tile c).spare b = tget 0 (s.tile c).spare b + 1 ∧
    (∀ e ∈ ((s.repairRow c b row).tile c).log, e.addr / 2048 ≠ rowAddr c b row / 2048) ∧
    (∀ w ∈ rowWords (rowAddr c b row), ∀ pos, (s.repairRow c b row).mark w ≠ .ce pos) ∧
    (s.failures.length < 1024 → ∀ p, s.posOf c = some p → (1, 65536 * p + 4096 * b.val + row) ∈ (s.repairRow c b row).failures) := by
  have hcounts := (State.Counts.refl s).meetDram (rowWords (rowAddr c b row))
  have hfail := State.meetDram_failures (s := s) (place_rowWords (c := c) (b := b) hrow)
  rw [State.repairRow_eq]
  generalize (s.meetDram (rowWords (rowAddr c b row))).1 = t at hcounts hfail ⊢
  have hmark := State.cleanWords_mark (rowWords (rowAddr c b row)) t
  obtain ⟨x, hx⟩ := State.cleanWords_eq (s := t) (rowWords (rowAddr c b row))
  rw [hx] at hmark ⊢
  have hyards : t.yards = s.yards := by
    have h := congrArg State.yards hcounts.frame
    exact h
  have hspare : (t.tile c).spare = (s.tile c).spare := by
    have h := congrArg Tile.spare (hcounts.tile c)
    exact h
  have hmem := hcounts.mem
  have hpos : t.posOf c = s.posOf c := by
    rw [State.posOf, State.columnOf, State.yard, hyards]
    rfl
  have htile : ({ t with errs := x } : State).tile c = t.tile c := rfl
  have hset := State.tile_setTile_self ({ t with errs := x } : State) c ((t.tile c).repaired b (rowAddr c b row))
  rw [State.rowFixed, htile]
  obtain ⟨f, e, he, hrec⟩ := State.recordRow_eq (s := (({ t with errs := x } : State).setTile c
    ((t.tile c).repaired b (rowAddr c b row))).tableFixed c (rowAddr c b row)) c b row
  rw [he]
  refine ⟨hmem, ?_, ?_, hmark, fun hl p hp => hrec (hfail.symm ▸ hl) p (hpos.trans hp)⟩
  · refine .trans (congrArg (fun k : Tile => tget 0 k.spare b) hset) ?_
    rw [Tile.repaired, ← hspare]
    exact tget_tset_self 0 (t.tile c).spare b (tget 0 (t.tile c).spare b + 1)
  · intro en hen
    have hlog := congrArg Tile.log hset
    have hen' := hlog ▸ hen
    rw [Tile.repaired, List.mem_filter] at hen'
    exact of_decide_eq_true hen'.2

end

/-- Settles O31. -/
theorem halyardWiresAndRowsAreRepaired : Obligations.HalyardWiresAndRowsAreRepaired := by
  unfold Obligations.HalyardWiresAndRowsAreRepaired
  constructor
  · intro s c dir wire win k i before
    refine ⟨fun h => ?_, fun h hbad hcar hd => ?_⟩
    · rw [halyardCrcRetry_eq (i := i) (before := before) rfl rfl rfl]
      exact if_neg (by simp; omega)
    · have hex := halyardCrcRetry_eq (s := s) (c := c) (win := win) (i := i) (before := before) rfl rfl rfl
      have hcond : (decide (tget 0 before i + 1 = 8) && !tget false (s.tile c).wireBad i && (s.tile c).carries dir wire &&
          !(s.core c).down) = true := by
        have hbad' : tget false (s.tile c).wireBad i = false := hbad
        have hcar' : (s.tile c).carries dir wire = true := hcar
        rw [h, hbad', hcar', hd]
        rfl
      rw [if_pos hcond] at hex
      have hself := State.tile_setTile_self s c { s.tile c with win := win, wireErr := tset 0 before i (tget 0 before i + 1) }
      obtain ⟨hwire, hhold, hmem, hdown⟩ := State.wireFailed_after (dir := dir) (wire := wire)
        (s := s.setTile c { s.tile c with win := win, wireErr := tset 0 before i (tget 0 before i + 1) }) (c := c) hd
      rw [hself] at hwire
      refine ⟨_, hex, ?_, fun j hj => ?_, hhold, hmem, hdown⟩
      · rw [hwire]
        exact tget_tset_self false _ _ _
      · rw [hwire]
        exact tget_tset_ne false _ _ hj
  · intro s c b row hrow a
    have hrow' : decide (row < 4096) = true := decide_eq_true hrow
    refine ⟨fun h => ?_, fun h hw => ?_, fun h hw hs => ?_, fun h hw hs hl => ?_⟩
    · exact if_neg (by rw [h, Bool.and_false]; decide)
    all_goals have hex : exec (.rowRepair c b row) s = .next (s.tryRepair c b row) := if_pos (by rw [h, hrow']; rfl)
    · refine hex.trans (congrArg Host.Outcome.next (if_pos ?_))
      rw [show (s.tile c).wantsRepair (rowAddr c b row) = false from hw]
      rfl
    all_goals
      have hnot : ¬ ((!(s.tile c).wantsRepair (rowAddr c b row)) = true) := by
        rw [show (s.tile c).wantsRepair (rowAddr c b row) = true from hw]
        decide
    · have htry : s.tryRepair c b row = s.raiseSrc 258 := (if_neg hnot).trans (if_pos hs)
      exact ⟨_, hex.trans (congrArg _ htry), State.raiseSrc_pend rfl (.inr (by decide)) (by decide), State.raiseSrc_frame _ _⟩
    · have htry : s.tryRepair c b row = s.repairRow c b row := (if_neg hnot).trans (if_neg (by omega))
      obtain ⟨hmem, hspare, hlog, hmark, hrec⟩ := State.repairRow_after (s := s) (c := c) (b := b) hrow
      exact ⟨_, hex.trans (congrArg _ htry), hmem, hspare, hlog,
        fun i hi => hmark _ (List.mem_map.2 ⟨i, List.mem_range.2 hi, rfl⟩), hrec hl⟩

end Sys2Proof.Machine
end

section
/-! PROOFS. Channels of the HBM stacks (O32; R258, R261, R469, R495). -/

namespace Sys2Proof.Machine

-- One theorem at a time, as in the tests: the proofs together take too many threads.
set_option Elab.async false

section
variable {s : State} {ch : ChanId}

/-- What a fault of a channel's mast and its source leave of the channel: all of it, and memory. -/
theorem State.chanFault_after (s : State) (f : HwFault) (n : Nat) :
    ((s.faultTick f).raiseSrc 260).chan n = s.chan n ∧ ((s.faultTick f).raiseSrc 260).mem = s.mem ∧
      ((s.faultTick f).raiseSrc 260).boot = s.boot ∧ ((s.faultTick f).raiseSrc 260).evt.pend.getLsbD 260 = true := by
  have hpend : ((s.faultTick f).raiseSrc 260).evt.pend.getLsbD 260 = true := State.raiseSrc_pend rfl (.inr (by decide)) (by decide)
  obtain ⟨r, e, h⟩ := s.faultTick_eq f
  obtain ⟨e', h'⟩ := (s.faultTick f).raiseSrc_eq 260
  have heq : (s.faultTick f).raiseSrc 260 = { s with rigs := r, evt := e' } := by
    rw [h', h]
  rw [heq] at hpend ⊢
  exact ⟨rfl, rfl, rfl, hpend⟩

theorem hbmParityError_eq (win n : Nat) (hn : n = if (s.chan ch).win = win then (s.chan ch).retries + 1 else 1) :
    exec (.hbmParityError ch win) s =
      if n = 65 && !(s.chan ch).lost && !(s.chan ch).training then
        .next (((s.setChan ch { s.chan ch with
          win := win, retries := n, training := (s.chan ch).training || (n = 65 && !(s.chan ch).lost) }).faultTick
          (.hbmChannel ⟨ch.val / 64, by omega⟩)).raiseSrc 260)
      else .next (s.setChan ch { s.chan ch with
        win := win, retries := n, training := (s.chan ch).training || (n = 65 && !(s.chan ch).lost) }) := by
  subst hn
  rfl

/-- A retraining that does not return the channel loses it. -/
theorem hbmChannelRetrain_lost {ok late : Bool} (ht : (s.chan ch).training = true) (h : ok = false ∨ late = true) :
    exec (.hbmChannelRetrain ch ok late) s = .next ((((s.setChan ch { s.chan ch with
      training := false, retries := 0, lost := true }).recordFail 5 ch).bumpGen.faultTick (.hbmChannel ⟨ch.val / 64, by omega⟩)).raiseSrc
        260) := by
  have h1 : ¬ ((!(s.chan ch).training) = true) := by rw [ht]; decide
  have h2 : ¬ ((ok && !late) = true) := by rcases h with rfl | rfl <;> simp
  exact (if_neg h1).trans (if_neg h2)

end

/-- Settles O32. -/
theorem hbmChannelsRetryRetrainAndServe : Obligations.HbmChannelsRetryRetrainAndServe := by
  unfold Obligations.HbmChannelsRetryRetrainAndServe
  intro s ch a k
  refine ⟨?_, fun ok late ht => ?_, fun ht => ?_, fun ok late ht h => ?_, fun op h => ?_,
    fun hp ht he => ?_⟩
  · intro win n
    refine ⟨fun hn => ?_, fun hn hl => ?_⟩
    · have hcond : ¬ ((decide (n = 65) && !(s.chan ch).lost && !(s.chan ch).training) = true) := by simp [hn]
      rw [hbmParityError_eq win n rfl, if_neg hcond, decide_eq_false hn, Bool.false_and, Bool.or_false]
    · have hl' : (s.chan ch).lost = false := hl
      rw [hbmParityError_eq win n rfl, hn, decide_eq_true rfl]
      rw [show ((s.chan ch).training || (true && !(s.chan ch).lost)) = true by rw [hl']; exact Bool.or_true _]
      generalize (⟨ch.val / 64, _⟩ : MastId) = m
      have hself := State.chan_setChan_self s ch { s.chan ch with win := win, retries := 65, training := true }
      have hkept : (s.setChan ch { s.chan ch with win := win, retries := 65, training := true }).chan ch =
        { k with win := win, retries := 65, training := true } := hself
      split
      · obtain ⟨hchan, hmem, -, hpend⟩ :=
          (s.setChan ch { s.chan ch with win := win, retries := 65, training := true }).chanFault_after (.hbmChannel m) ch
        exact ⟨_, rfl, hchan.trans hkept, hmem, fun _ => hpend⟩
      next hno =>
        refine ⟨_, rfl, hkept, rfl, fun ht => absurd ?_ hno⟩
        simp [hl', show (s.chan ch).training = false from ht]
  · exact if_pos (by rw [show (s.chan ch).training = false from ht]; rfl)
  · have h1 : ¬ ((!(s.chan ch).training) = true) := by rw [show (s.chan ch).training = true from ht]; decide
    exact (if_neg h1).trans (if_pos rfl)
  · rw [hbmChannelRetrain_lost ht h]
    generalize (⟨ch.val / 64, _⟩ : MastId) = m
    have hself := State.chan_setChan_self s ch { s.chan ch with training := false, retries := 0, lost := true }
    obtain ⟨f, e, hrec⟩ := (s.setChan ch { s.chan ch with training := false, retries := 0, lost := true }).recordFail_eq 5 ch
    rw [hrec]
    obtain ⟨hchan, hmem, hboot, hpend⟩ := State.chanFault_after
      ({ s.setChan ch { s.chan ch with training := false, retries := 0, lost := true } with failures := f, evt := e } : State).bumpGen
      (.hbmChannel m) ch
    exact ⟨_, rfl, hchan.trans hself, congrArg Boot.gen hboot, hpend, hmem⟩
  · refine if_pos ?_
    rw [Bool.or_eq_true, Bool.or_eq_true]
    exact h.elim (fun h => .inl (.inr h)) .inr
  · have hcond : ¬ ((decide (place a ≠ .hbm) || (s.chan (chanUnit a)).training || s.pwr.emerg) = true) := by
      rw [ht, he]
      simp [hp]
    exact ⟨if_neg hcond, if_neg hcond, if_neg hcond⟩

end Sys2Proof.Machine
end

section
/-! PROOFS. The modes of the banks of a tile change (O33; R275, R276, R304). -/

namespace Sys2Proof.Machine

-- One theorem at a time, as in the tests: the proofs together take too many threads.
set_option Elab.async false

/-! ### A BANKMODE write -/

section
variable {s : State} {c : CoreId} {b : BankId} {w : BitVec 64}

/-- A transfer for a bank of a list is noted. -/
def noteFor (bs : List Nat) (q : TileReq) : TileReq := if q.off / 0x800000 ∈ bs then { q with before := true } else q

theorem noteFor_cons (b : Nat) (bs : List Nat) : noteFor (b :: bs) = noteFor bs ∘ TileReq.note b := by
  funext q
  unfold noteFor TileReq.note
  by_cases h : q.off / 0x800000 = b
  · rw [Function.comp, if_pos h, if_pos (List.mem_cons.2 (.inl h))]
    split <;> rfl
  · rw [Function.comp, if_neg h]
    by_cases h' : q.off / 0x800000 ∈ bs
    · rw [if_pos h', if_pos (List.mem_cons_of_mem _ h')]
    · rw [if_neg h', if_neg fun h'' => (List.mem_cons.1 h'').elim h h']

/-- A bank with a pending change of mode, its held transfers noted. -/
def Bank.pended (k : Bank) (b : Nat) (unit : Bool) : Bank := { k with pend := some unit, held := k.held.map (TileReq.note b) }

/-- A tile whose waiting transfers for a list of banks are noted. -/
def Tile.noted (k : Tile) (bs : List Nat) : Tile := { k with cq := k.cq.map (noteFor bs), mq := k.mq.map (noteFor bs) }

/-- Selecting banks one after another. -/
def State.pendAll (s : State) (c : Nat) (f : Nat → Bool) (bs : List Nat) : State := bs.foldl (fun s b => s.pendMode c b (f b)) s

/-- What the changes made pending for a list of banks change. -/
theorem State.pendAll_after (c : Nat) (f : Nat → Bool) (bs : List Nat) : ∀ s : State,
    (s.pendAll c f bs).tile c = (s.tile c).noted bs ∧ (∀ x, x ≠ c → (s.pendAll c f bs).tile x = s.tile x) ∧
      (∀ x y, (∀ b ∈ bs, x * 16 + y ≠ c * 16 + b) → (s.pendAll c f bs).bank x y = s.bank x y) ∧
      (bs.Nodup → ∀ b ∈ bs, (s.pendAll c f bs).bank c b = (s.bank c b).pended b (f b)) ∧
      { s.pendAll c f bs with banks := s.banks, tiles := s.tiles } = s := by
  induction bs with
  | nil =>
    intro s
    refine ⟨?_, fun _ _ => rfl, fun _ _ _ => rfl, fun _ _ h => absurd h List.not_mem_nil, rfl⟩
    have h : noteFor [] = id := by
      funext q
      exact if_neg List.not_mem_nil
    show s.tile c = _
    rw [Tile.noted, h, List.map_id, List.map_id]
  | cons b bs ih =>
    intro s
    obtain ⟨htile, hother, hout, hbank, hframe⟩ := ih (s.pendMode c b (f b))
    have hself : (s.pendMode c b (f b)).tile c = { s.tile c with
        cq := (s.tile c).cq.map (TileReq.note b), mq := (s.tile c).mq.map (TileReq.note b) } := State.tile_setTile_self _ _ _
    have hmode : (s.pendMode c b (f b)).bank c b = (s.bank c b).pended b (f b) := State.bank_setBank_self s c b _
    have hkeep {x y : Nat} (h : x * 16 + y ≠ c * 16 + b) : (s.pendMode c b (f b)).bank x y = s.bank x y := State.bank_setBank_ne s _ h
    refine ⟨htile.trans ?_, fun x hx => (hother x hx).trans (State.tile_setTile_ne _ _ hx),
      fun x y h => (hout x y fun n hn => h n (List.mem_cons_of_mem _ hn)).trans (hkeep (h b List.mem_cons_self)),
      fun hd n hn => ?_, ?_⟩
    · rw [hself, Tile.noted, Tile.noted, noteFor_cons, List.map_map, List.map_map]
    · obtain ⟨hb, hd'⟩ := List.nodup_cons.1 hd
      rcases List.mem_cons.1 hn with rfl | hn'
      · refine (hout c n fun m hm he => hb ?_).trans hmode
        exact (show n = m by omega) ▸ hm
      · refine (hbank hd' n hn').trans ?_
        rw [hkeep (x := c) (y := n) fun he => hb ((show b = n by omega) ▸ hn')]
    · exact congrArg (fun t : State => { t with banks := s.banks, tiles := s.tiles }) hframe

theorem mem_idxs {n i : Nat} {p : Nat → Bool} : i ∈ idxs n p ↔ i < n ∧ p i = true := by
  rw [idxs, List.mem_filter, List.mem_range]

end

/-! ### Stopping a unit -/

section
variable {s : State} {c b : Nat}

/-- A bank serves what it held where there is nothing to serve: at most its own entry is written again. -/
theorem State.releaseBank_empty (hh : (s.bank c b).held = []) (hc : (s.tile c).cq = []) (hm : (s.tile c).mq = []) :
    s.releaseBank c b = s ∨ s.releaseBank c b = s.setBank c b (s.bank c b) := by
  have hk : ({ s.bank c b with held := [] } : Bank) = s.bank c b := by
    rw [← hh]
  unfold State.releaseBank
  split
  · exact .inl rfl
  · right
    rw [State.serveHeld_empty _ hh, hk]
    exact State.serveTileQueues_empty hc hm

/-- So served, the bank and memory are as they were. -/
theorem State.releaseBank_quiet (hh : (s.bank c b).held = []) (hc : (s.tile c).cq = []) (hm : (s.tile c).mq = []) :
    (s.releaseBank c b).bank c b = s.bank c b ∧ ∃ x, s.releaseBank c b = { s with banks := x } := by
  rcases State.releaseBank_empty hh hc hm with h | h
  · exact ⟨congrArg (State.bank · c b) h, s.banks, h⟩
  · exact ⟨(congrArg (State.bank · c b) h).trans (State.bank_setBank_self s c b _), _, h⟩

theorem State.dropQueued_def : ∃ m, s.dropQueued c b =
    (s.setBank c b { s.bank c b with queued := none, inQ := none }).deliver c m (s.bank c b).qid .broken := ⟨_, rfl⟩

/-- The queued command of a unit is gone. -/
theorem State.dropQueued_bank : ∃ i j, (s.dropQueued c b).bank c b = { s.bank c b with queued := none, inS := i, inQ := j } := by
  obtain ⟨m, hm⟩ := State.dropQueued_def (s := s) (c := c) (b := b)
  obtain ⟨i, j, h⟩ := State.deliver_bank (s := s.setBank c b { s.bank c b with queued := none, inQ := none }) (c := c) (m := m)
    (id := (s.bank c b).qid) (x := .broken) c b
  rw [State.bank_setBank_self] at h
  exact ⟨i, j, by rw [hm, h]⟩

theorem State.dropQueued_eq : ∃ x, s.dropQueued c b = { s with banks := x } := by
  obtain ⟨m, hm⟩ := State.dropQueued_def (s := s) (c := c) (b := b)
  obtain ⟨y, h⟩ := State.deliver_eq (s := s.setBank c b { s.bank c b with queued := none, inQ := none }) (c := c) (m := m)
    (id := (s.bank c b).qid) (x := .broken)
  exact ⟨y, by rw [hm, h]; rfl⟩

/-- The unit of k has stopped, with ERR 0x04, in k'. -/
structure Bank.Stops (k k' : Bank) : Prop where
  run : k'.run = none
  err : k'.err = 4
  queued : k'.queued = k.queued
  held : k'.held = k.held
  fin : k'.fin = none

/-- Leaving the lists undefined leaves the other parts of a bank. -/
theorem State.freeLists_bank (w : BitVec 64) : ∃ l, (s.freeLists c b w).bank c b = { s.bank c b with lists := l } := by
  unfold State.freeLists
  split
  · exact ⟨_, State.bank_setBank_self _ c b _⟩
  · exact ⟨_, rfl⟩

theorem State.freeLists_eq (w : BitVec 64) : ∃ x y, s.freeLists c b w = { s with banks := x, free := y } := by
  unfold State.freeLists
  split
  · exact ⟨_, _, rfl⟩
  · exact ⟨_, _, rfl⟩

theorem State.endRun_owed {e : BitVec 8} (h : (s.bank c b).owed = 0) : s.endRun c b e = s.closeRun c b e := if_pos h

/-- A unit with no refresh owed stops at once. -/
theorem State.stopRun_after (ho : (s.bank c b).owed = 0) (hf : (s.bank c b).fin = none) :
    (s.bank c b).Stops ((s.stopRun c b).bank c b) ∧ ∃ x y, s.stopRun c b = { s with banks := x, free := y } := by
  cases hr : (s.bank c b).run with
  | none =>
    have hstop : s.stopRun c b = s.setBank c b { s.bank c b with err := 4 } := by
      unfold State.stopRun
      rw [hr]
    rw [hstop, State.bank_setBank_self]
    exact ⟨⟨hr, rfl, rfl, rfl, hf⟩, _, _, rfl⟩
  | some r =>
    obtain ⟨l, hl⟩ := State.freeLists_bank (s := s) (c := c) (b := b) r.w
    obtain ⟨x, y, heq⟩ := State.freeLists_eq (s := s) (c := c) (b := b) r.w
    have hstop : s.stopRun c b = (s.freeLists c b r.w).closeRun c b 4 := by
      unfold State.stopRun
      rw [hr]
      exact State.endRun_owed ((congrArg Bank.owed hl).trans ho)
    obtain ⟨i, j, hk⟩ := State.closeRun_bank (e := 4) ((congrArg Bank.run hl).trans hr)
    obtain ⟨z, hz⟩ := State.closeRun_eq (s := s.freeLists c b r.w) (c := c) (b := b) (e := 4)
    rw [hstop, hk, hl]
    exact ⟨⟨rfl, rfl, rfl, rfl, rfl⟩, z, y, by rw [hz, heq]⟩

end

/-! ### The modes take effect -/

section
variable {s : State} {c : CoreId} {b : BankId}

theorem State.waitsFor_iff : s.waitsFor c b = true ↔
    ∃ q ∈ (s.tile c).cq ++ (s.tile c).mq ++ (s.bank c b).held, q.off / 0x800000 = b.val ∧ q.before = true := by
  rw [State.waitsFor, List.any_eq_true]
  simp only [Bool.and_eq_true, decide_eq_true_eq]

/-- The state in which a unit whose bank goes to normal mode holds no command. -/
def State.unitEmptied (s : State) (c : CoreId) (b : BankId) : State :=
  if (s.bank c b).run.isSome || (s.bank c b).queued.isSome then (s.dropQueued c b).stopRun c b else s

/-- It holds none, and only it has changed. -/
theorem State.unitEmptied_after (ho : (s.bank c b).owed = 0) (hf : (s.bank c b).fin = none) :
    ((s.unitEmptied c b).bank c b).run = none ∧ ((s.unitEmptied c b).bank c b).queued = none ∧
      ((s.unitEmptied c b).bank c b).err = (if (s.bank c b).run.isSome || (s.bank c b).queued.isSome then 4 else (s.bank c b).err) ∧
      ((s.unitEmptied c b).bank c b).held = (s.bank c b).held ∧
      ∃ x y, s.unitEmptied c b = { s with banks := x, free := y } := by
  unfold State.unitEmptied
  split
  next h =>
    obtain ⟨i, j, hk⟩ := State.dropQueued_bank (s := s) (c := c) (b := b)
    obtain ⟨x, hx⟩ := State.dropQueued_eq (s := s) (c := c) (b := b)
    obtain ⟨hstops, y, z, hy⟩ := State.stopRun_after (s := s.dropQueued c b) (c := c) (b := b) ((congrArg Bank.owed hk).trans ho)
      ((congrArg Bank.fin hk).trans hf)
    rw [hk] at hstops
    exact ⟨hstops.run, hstops.queued, hstops.err, hstops.held, y, z, by rw [hy, hx]⟩
  next h =>
    rw [Bool.or_eq_true, not_or, Bool.not_eq_true, Bool.not_eq_true, Option.isSome_eq_false_iff, Option.isSome_eq_false_iff,
      Option.isNone_iff_eq_none, Option.isNone_iff_eq_none] at h
    exact ⟨h.1, h.2, rfl, rfl, _, _, rfl⟩

theorem bankNormalModeEffect_eq (hp : (s.bank c b).pend = some false) (hf : (s.bank c b).fin = none) (hr : ((s.unitEmptied c b).bank c b).run = none) :
    exec (.bankNormalModeEffect c b) s = .next (((s.unitEmptied c b).setBank c b
      { (s.unitEmptied c b).bank c b with unit := false, pend := none }).releaseBank c b) := by
  have h1 : ¬ ((decide ((s.bank c b).pend ≠ some false) || (s.bank c b).fin.isSome) = true) := by simp [hp, hf]
  exact (if_neg h1).trans (if_neg (by show ¬ ((s.unitEmptied c b).bank c b).run.isSome = true; rw [hr]; decide))

end

/-- Settles O33. -/
theorem bankModesChange : Obligations.BankModesChange := by
  unfold Obligations.BankModesChange
  refine ⟨fun s c w hd => ?_, fun s c w hd => ?_, ?_⟩
  · exact congrArg Host.Outcome.next (if_pos hd)
  · have hex : exec (.bankmodeWrite c w) s = .next (s.pendAll c (bit w.toNat) (idxs 16 fun b => bit w.toNat (16 + b))) :=
      congrArg Host.Outcome.next (if_neg (by rw [hd]; decide))
    obtain ⟨htile, hother, hout, hbank, hframe⟩ := State.pendAll_after c (bit w.toNat) (idxs 16 fun b => bit w.toNat (16 + b)) s
    have hmem (b : Nat) : b ∈ idxs 16 (fun b => bit w.toNat (16 + b)) ↔ b < 16 ∧ w.getLsbD (16 + b) = true := mem_idxs
    have hnodup : (idxs 16 fun b => bit w.toNat (16 + b)).Nodup := List.nodup_range.filter _
    generalize idxs 16 (fun b => bit w.toNat (16 + b)) = bs at hex htile hother hout hbank hframe hmem hnodup
    have hnot {b : Nat} (hb : b ∉ bs) : (s.pendAll c (bit w.toNat) bs).bank c b = s.bank c b :=
      hout c b fun n hn he => hb ((show b = n by omega) ▸ hn)
    refine ⟨_, hex, fun b hb => ?_, fun b hb => ?_, ?_, hother, fun x y hxy => ?_, hframe⟩
    · by_cases h : w.getLsbD (16 + b) = true
      · rw [hbank hnodup b ((hmem b).2 ⟨hb, h⟩), if_pos h]
        rfl
      · rw [hnot fun hb' => h ((hmem b).1 hb').2, if_neg h]
    · by_cases h : w.getLsbD (16 + b) = true
      · rw [hbank hnodup b ((hmem b).2 ⟨hb, h⟩), if_pos h]
        rfl
      · rw [hnot fun hb' => h ((hmem b).1 hb').2, if_neg h]
    · have hnote : noteFor bs = fun q => if q.off / 0x800000 < 16 ∧ w.getLsbD (16 + q.off / 0x800000) = true then
          { q with before := true } else q := by
        funext q
        exact if_congr (hmem _) rfl rfl
      rw [htile, Tile.noted, hnote]
    · exact hout x y fun n hn => by
        have := (hmem n).1 hn
        omega
  · intro s c b k waiting
    refine ⟨fun hp hq => ?_, fun h => ?_, fun hp => ?_, fun hp hh hc hm ho hf => ?_⟩
    · have hwait : s.waitsFor c b = false := by
        rw [← Bool.not_eq_true, State.waitsFor_iff]
        rintro ⟨q, hmem, hoff, hbefore⟩
        exact absurd ((hq q hmem hoff).symm.trans hbefore) Bool.false_ne_true
      exact if_pos (by rw [hwait, show (s.bank c b).pend = some true from hp]; rfl)
    · refine if_neg fun h' => ?_
      rw [Bool.and_eq_true, decide_eq_true_eq, Bool.not_eq_true'] at h'
      rcases h with h | h
      · exact h h'.1
      · exact absurd ((State.waitsFor_iff.2 h).symm.trans h'.2) Bool.noConfusion
    · refine if_pos ?_
      rw [Bool.or_eq_true, decide_eq_true_eq]
      exact .inl hp
    · obtain ⟨hrun, hqueued, herr, hheld, x, y, hu⟩ := State.unitEmptied_after ho hf
      have hex := bankNormalModeEffect_eq hp hf hrun
      have htile (k : Bank) : ((s.unitEmptied c b).setBank c b k).tile c = s.tile c := by rw [hu]; rfl
      have hself := State.bank_setBank_self (s.unitEmptied c b) c b { (s.unitEmptied c b).bank c b with unit := false, pend := none }
      have hmem : ((s.unitEmptied c b).setBank c b { (s.unitEmptied c b).bank c b with unit := false, pend := none }).mem = s.mem := by
        rw [hu]
        rfl
      obtain ⟨hbank, z, hz⟩ := State.releaseBank_quiet (s := (s.unitEmptied c b).setBank c b
        { (s.unitEmptied c b).bank c b with unit := false, pend := none }) (c := c) (b := b)
        (by rw [hself]; exact hheld.trans hh) (by rw [htile]; exact hc) (by rw [htile]; exact hm)
      rw [hself] at hbank
      refine ⟨_, hex, ?_, ?_, ?_, ?_, ?_, ?_⟩
      · rw [hbank]
      · rw [hbank]
      · rw [hbank]
        exact hqueued
      · rw [hbank]
        exact hrun
      · rw [hbank]
        exact herr
      · rw [hz]
        exact hmem

end Sys2Proof.Machine
end

section
/-! PROOFS. Commands given to a bank unit (O34; R274, R279, R280). -/

namespace Sys2Proof.Machine

-- One theorem at a time, as in the tests: the proofs together take too many threads.
set_option Elab.async false

/-! ### Commands of a gang of none -/

/-- The chain of a command given to bank b alone. -/
def aloneChain (w : BitVec 64) (b : Nat) : List Nat := if cOpc w = 7 then [b] else []

/-- The run a bank starts with its operand words. -/
def Bank.runOf (k : Bank) (w : BitVec 64) (chain : List Nat) (id : Nat) : BankRun :=
  { w := w, src := (tget 0 k.op 0).toNat, dst := (tget 0 k.op 1).toNat, n := (tget 0 k.op 2).toNat, exb := (tget 0 k.op 3).toNat
    pat := tget 0 k.op 4, cdst := (tget 0 k.op 5).toNat, fmt := (tget 0 k.op 6).toNat, chain := chain, id := id }

/-- The state with a gang start of a chain counted. -/
def State.gangCounted (s : State) (c : Nat) (w : BitVec 64) : State :=
  if cOpc w = 7 then s.setTile c { s.tile c with gangs := (s.tile c).gangs + 1 } else s

section
variable {s : State} {c : CoreId} {b : BankId} {w : BitVec 64}

theorem cGang_zero (h : w.extractLsb' 48 16 = 0) (i : Nat) : bit (cGang w) i = false := by
  have hzero : cGang w = 0 := by
    have h' := congrArg BitVec.toNat h
    rw [BitVec.extractLsb'_toNat] at h'
    exact h'
  rw [hzero, bit, Nat.zero_testBit]

theorem chainMembers_alone (h : w.extractLsb' 48 16 = 0) : chainMembers w b = aloneChain w b := by
  have hb := b.isLt
  have hms : (idxs 16 fun i => decide (i = b.val) || bit (cGang w) i) = [b.val] := by
    have hfun : (fun i => decide (i = b.val) || bit (cGang w) i) = fun i => i == b.val := by
      funext i
      rw [cGang_zero h, Bool.or_false]
      rfl
    rw [hfun]
    exact (by decide : ∀ b : BankId, idxs 16 (fun i => i == b.val) = [b.val]) b
  unfold chainMembers aloneChain
  dsimp only
  rw [hms]
  split
  · split <;> rfl
  · rfl

/-- A good CMD word for one bank is given to it. -/
theorem State.bankCmd_alone (h : w.extractLsb' 48 16 = 0) (hbad : cmdBad w = false) :
    s.bankCmd c b w = (s.gangCounted c w).giveCmd c b w (aloneChain w b) := by
  have hgang : (idxs 16 fun i => decide (i ≠ b.val) && bit (cGang w) i) = [] := by
    rw [idxs, List.filter_eq_nil_iff]
    intro i _
    rw [cGang_zero h, Bool.and_false]
    exact Bool.false_ne_true
  unfold State.bankCmd
  rw [hbad, if_neg Bool.false_ne_true]
  dsimp only
  rw [hgang, chainMembers_alone h]
  unfold aloneChain State.gangCounted
  by_cases h7 : cOpc w = 7
  · rw [if_pos h7, if_pos h7, if_neg (List.cons_ne_nil _ _)]
    simp only [List.foldl_nil, List.reverse_singleton, List.foldl_cons, List.cons_ne_nil, if_false, List.filter_cons, List.filter_nil]
    split
    · have hnext : nextMember [b.val] b.val = none := by
        simp [nextMember]
      simp only [List.foldl_cons, List.foldl_nil, hnext]
      rfl
    · rfl
  · rw [if_neg h7, if_neg h7, if_pos rfl]
    simp only [List.foldl_nil, List.foldl_cons, if_true, List.filter_cons, List.filter_nil]
    split <;> rfl

/-- A row of a bank unit writes its word to CMD. -/
theorem exec_cmd {i : Instr} (hi : (cOpc w = 1 ∧ i = .xpop c b w) ∨ (cOpc w = 2 ∧ i = .i8dot c b w) ∨ (cOpc w = 3 ∧ i = .sumred c b w) ∨
    (cOpc w = 4 ∧ i = .bankFill c b w) ∨ (cOpc w = 5 ∧ i = .bankCopy c b w) ∨ (cOpc w = 6 ∧ i = .topk32 c b w) ∨
    (cOpc w = 7 ∧ i = .chain c b w) ∨ (cOpc w = 8 ∧ i = .bitset c b w)) (hd : (s.core c).down = false) :
    exec i s = .next (s.bankCmd c b w) := by
  have hrow (opc : Nat) (h : cOpc w = opc) : cmdRow opc c b w s = .next (s.bankCmd c b w) :=
    (if_pos h).trans (congrArg Host.Outcome.next (if_neg (by rw [hd]; decide)))
  obtain ⟨h, rfl⟩ | ⟨h, rfl⟩ | ⟨h, rfl⟩ | ⟨h, rfl⟩ | ⟨h, rfl⟩ | ⟨h, rfl⟩ | ⟨h, rfl⟩ | ⟨h, rfl⟩ := hi <;> exact hrow _ h

/-- A unit with no command waiting behind an ended one is settled. -/
theorem State.settleBank_settled {s : State} {c b : Nat} (h : (s.bank c b).run = none → (s.bank c b).queued = none) :
    s.settleBank c b = s := by
  unfold State.settleBank
  dsimp only
  split
  next hr hq => exact nomatch hq.symm.trans (h hr)
  · rfl

end

/-! ### The unit takes a command -/

section
variable {s : State} {c : CoreId} {b : BankId} {w : BitVec 64} {id : Nat}

theorem aloneChain_fwd : (aloneChain w b != [] && (aloneChain w b).getLast? != some b.val) = false := by
  unfold aloneChain
  split <;> simp

theorem nextMember_aloneChain : nextMember (aloneChain w b) b.val = none := by
  unfold aloneChain
  split <;> simp [nextMember]

/-- Operands that are out of range end a command with ERR 0x02. -/
theorem State.startRun_bad (h : operandsOk ((s.bank c b).runOf w (aloneChain w b) id) b = false) :
    s.startRun c b w (aloneChain w b) id = (s.setBank c b { s.bank c b with
      run := some ((s.bank c b).runOf w (aloneChain w b) id), opc := BitVec.ofNat 8 (cOpc w) }).endRun c b 2 := by
  unfold State.startRun
  dsimp only
  rw [aloneChain_fwd]
  exact if_pos (by rw [Bool.not_eq_true']; exact h)

/-- A state that differs from s at most in bank b of tile c. -/
structure State.BankOnly (s t : State) (c b : Nat) : Prop where
  frame : { t with banks := s.banks } = s
  other (x y : Nat) (h : x * 16 + y ≠ c * 16 + b) : t.bank x y = s.bank x y

theorem State.BankOnly.refl (s : State) (c b : Nat) : s.BankOnly s c b := ⟨rfl, fun _ _ _ => rfl⟩

theorem State.BankOnly.setBank {t : State} {c b : Nat} (h : s.BankOnly t c b) (k : Bank) : s.BankOnly (t.setBank c b k) c b :=
  ⟨h.frame, fun x y hxy => (State.bank_setBank_ne t k hxy).trans (h.other x y hxy)⟩

/-- The bank k with a command started, but for what starting it gives its lists and link. -/
structure Bank.Started (k k' : Bank) (r : BankRun) : Prop where
  run : k'.run = some r
  seq : k'.seq = k.seq
  err : k'.err = k.err
  opc : k'.opc = BitVec.ofNat 8 (cOpc r.w)
  queued : k'.queued = k.queued
  held : k'.held = k.held

/-- A command that starts runs with its operands; only its bank changes. -/
theorem State.startRun_good (h : operandsOk ((s.bank c b).runOf w (aloneChain w b) id) b = true)
    (hn : ((s.bank c b).runOf w (aloneChain w b) id).n ≠ 0 ∨ cOpc w = 7) :
    s.BankOnly (s.startRun c b w (aloneChain w b) id) c b ∧
      (s.bank c b).Started ((s.startRun c b w (aloneChain w b) id).bank c b) ((s.bank c b).runOf w (aloneChain w b) id) := by
  have hop : ¬ ((!operandsOk ((s.bank c b).runOf w (aloneChain w b) id) b) = true) := by rw [h]; decide
  have hset {u : State} {k : Bank} (hu : s.BankOnly u c b) (hk : (s.bank c b).Started k ((s.bank c b).runOf w (aloneChain w b) id)) :
      s.BankOnly (u.setBank c b k) c b ∧
        (s.bank c b).Started ((u.setBank c b k).bank c b) ((s.bank c b).runOf w (aloneChain w b) id) := by
    rw [State.bank_setBank_self]
    exact ⟨hu.setBank k, hk⟩
  unfold State.startRun
  dsimp only
  rw [aloneChain_fwd]
  generalize hk : (if cOffers w = true then _ else _ : Bank) = k
  have hstart : (s.bank c b).Started k ((s.bank c b).runOf w (aloneChain w b) id) := by
    rw [← hk]
    split <;> exact ⟨rfl, rfl, rfl, rfl, rfl, rfl⟩
  have hu := (State.BankOnly.refl s c b).setBank k
  unfold Bank.runOf at hop
  rw [if_neg hop]
  by_cases h7 : cOpc w = 7
  · have hchain : aloneChain w b = [b.val] := if_pos h7
    have hhead : [b.val].head? = some b.val := rfl
    have hone : [b.val].length ≤ 1 := Nat.le_refl 1
    rw [if_pos h7, hchain, if_pos hhead, if_pos hone, ← hchain]
    exact hset hu ⟨hstart.run, hstart.seq, hstart.err, hstart.opc, hstart.queued, hstart.held⟩
  · have hn' := hn.resolve_right h7
    unfold Bank.runOf at hn'
    rw [if_neg h7, if_neg hn']
    exact hset (State.BankOnly.refl s c b) hstart

/-- What the unit of a bank does with a command given to it. -/
theorem State.giveCmd_settled {chain : List Nat} (h : (s.bank c b).run = none → (s.bank c b).queued = none) :
    s.giveCmd c b w chain =
      if !(s.bank c b).unit then s.setBank c b { s.bank c b with err := 6 }
      else if (s.bank c b).run.isSome && (s.bank c b).queued.isSome then s.setBank c b { s.bank c b with err := 5 }
      else if (s.bank c b).run.isSome then s.setBank c b { s.bank c b with
        queued := some (w, chain), qid := (s.tile c).gangs, inQ := none, seq := (s.bank c b).seq + 1, err := 0 }
      else (s.setBank c b { s.bank c b with seq := (s.bank c b).seq + 1, err := 0, inS := none }).startRun c b w chain (s.tile c).gangs := by
  unfold State.giveCmd
  rw [State.settleBank_settled h]

theorem State.gangCounted_bank (x y : Nat) : (s.gangCounted c w).bank x y = s.bank x y := by
  unfold State.gangCounted
  split <;> rfl

theorem State.gangCounted_gangs : ((s.gangCounted c w).tile c).gangs =
    if cOpc w = 7 then (s.tile c).gangs + 1 else (s.tile c).gangs := by
  unfold State.gangCounted
  split
  · rw [State.tile_setTile_self]
  · rfl

end

/-- Settles O34. -/
theorem bankCommandsAreTaken : Obligations.BankCommandsAreTaken := by
  unfold Obligations.BankCommandsAreTaken
  intro s c b w i k o chain g s' r hi hgang hdown hsettled
  have hgo : cmdBad w = false → exec i s = .next ((s.gangCounted c w).giveCmd c b w (aloneChain w b)) := fun hbad =>
    (exec_cmd hi hdown).trans (congrArg Host.Outcome.next (State.bankCmd_alone hgang hbad))
  have hs' : s' = s.gangCounted c w := by
    show (if cOpc w = 7 then _ else s) = _
    unfold State.gangCounted
    by_cases h7 : cOpc w = 7
    · rw [if_pos h7, if_pos h7]
      have hg : g = (s.tile c).gangs + 1 := if_pos h7
      rw [hg]
    · rw [if_neg h7, if_neg h7]
  have hid : ((s.gangCounted c w).tile c).gangs = g := State.gangCounted_gangs
  have hbank (x y : Nat) : (s.gangCounted c w).bank x y = s.bank x y := State.gangCounted_bank x y
  have hk : (s.gangCounted c w).bank c b = k := hbank c b
  have hbanks : ({ s.gangCounted c w with banks := s.banks } : State) = s.gangCounted c w := by
    unfold State.gangCounted
    split <;> rfl
  rw [hs']
  generalize s.gangCounted c w = u at hgo hid hbank hk hbanks
  have hgive := State.giveCmd_settled (s := u) (c := c) (b := b) (w := w) (chain := aloneChain w b) (by rw [hk]; exact hsettled)
  rw [hk, hid] at hgive
  refine ⟨fun hbad => ?_, fun hbad hu => ?_, fun hbad hu hr hq => ?_, fun hbad hu hr hq => ?_, fun hbad hu hr hop hn => ?_,
    fun hbad hu hr howed hop => ?_⟩
  · exact (exec_cmd hi hdown).trans (congrArg Host.Outcome.next (if_pos hbad))
  · refine (hgo hbad).trans (congrArg Host.Outcome.next (hgive.trans (if_pos ?_)))
    rw [hu]
    rfl
  all_goals have hunit : ¬ ((!k.unit) = true) := by rw [hu]; decide
  · exact (hgo hbad).trans (congrArg Host.Outcome.next (hgive.trans ((if_neg hunit).trans (if_pos (by rw [hr, hq]; rfl)))))
  · exact (hgo hbad).trans (congrArg Host.Outcome.next (hgive.trans ((if_neg hunit).trans ((if_neg (by rw [hq]; simp)).trans (if_pos hr)))))
  all_goals
    have hrun : ¬ (k.run.isSome = true) := by rw [hr]; decide
    have hex := (hgo hbad).trans (congrArg Host.Outcome.next (hgive.trans ((if_neg hunit).trans
      ((if_neg (by rw [hr]; exact Bool.false_ne_true)).trans (if_neg hrun)))))
    have hself := State.bank_setBank_self u c b { k with seq := k.seq + 1, err := 0, inS := none }
    have honly := (State.BankOnly.refl u c b).setBank { k with seq := k.seq + 1, err := 0, inS := none }
    have hrunOf : ({ k with seq := k.seq + 1, err := 0, inS := none } : Bank).runOf w (aloneChain w b) g = r := rfl
    generalize u.setBank c b { k with seq := k.seq + 1, err := 0, inS := none } = v at hex hself honly
    have hframe {t : State} (h : ({ t with banks := v.banks } : State) = v) : ({ t with banks := s.banks } : State) = u :=
      (congrArg (fun t : State => { t with banks := s.banks }) h).trans
        ((congrArg (fun t : State => { t with banks := s.banks }) honly.frame).trans hbanks)
  · obtain ⟨hb, hs⟩ := State.startRun_good (s := v) (c := c) (b := b) (w := w) (id := g)
      (by rw [hself, hrunOf]; exact hop) (by rw [hself, hrunOf]; exact hn)
    rw [hself, hrunOf] at hs
    refine ⟨_, hex, hs.run, hs.seq, hs.err, hs.opc, hs.queued.trans (hsettled hr), ?_, fun x y hxy => ?_⟩
    · exact hframe hb.frame
    · exact (hb.other x y hxy).trans ((honly.other x y hxy).trans (hbank x y))
  · have hbad' := State.startRun_bad (s := v) (c := c) (b := b) (w := w) (id := g) (by rw [hself, hrunOf]; exact hop)
    rw [hself, hrunOf] at hbad'
    generalize hkr : ({ ({ k with seq := k.seq + 1, err := 0, inS := none } : Bank) with
      run := some r, opc := BitVec.ofNat 8 (cOpc w) } : Bank) = kr at hbad'
    have hself' := State.bank_setBank_self v c b kr
    have hend : (v.setBank c b kr).endRun c b 2 = (v.setBank c b kr).closeRun c b 2 :=
      State.endRun_owed (by rw [hself', ← hkr]; exact howed)
    obtain ⟨i', j, hclose⟩ := State.closeRun_bank (s := v.setBank c b kr) (c := c) (b := b) (e := 2) (r := r) (by rw [hself', ← hkr])
    obtain ⟨y, hy⟩ := State.closeRun_eq (s := v.setBank c b kr) (c := c) (b := b) (e := 2)
    rw [hself'] at hclose
    rw [hbad', hend] at hex
    refine ⟨_, hex, ?_, ?_, ?_, hframe (congrArg (fun t : State => { t with banks := v.banks }) hy)⟩
    · rw [hclose]
    · rw [hclose]
    · rw [hclose, ← hkr]

end Sys2Proof.Machine
end

section
/-! PROOFS. The ends of a bank FILL and of an integer SUMRED (O35; R280, R287, Table 10-6). -/

namespace Sys2Proof.Machine

-- One theorem at a time, as in the tests: the proofs together take too many threads.
set_option Elab.async false

/-! ### Words of a range of a tile -/

/-- A word of a range is the word of one of its bytes. -/
theorem mem_wordsOf_byte {c : CoreId} {o n w : Nat} (ho : o + n ≤ 0x8000000) (hw : w ∈ wordsOf (tileAddr c o) n) :
    ∃ j, j < n ∧ w = wordOf (tileAddr c (o + j)) := by
  have hn : n ≠ 0 := by
    rintro rfl
    rw [wordsOf, if_pos rfl] at hw
    exact absurd hw List.not_mem_nil
  rw [wordsOf, if_neg hn, List.mem_map] at hw
  obtain ⟨i, hi, rfl⟩ := hw
  have h1 := wordSize_tileAddr c (o := o) (by omega)
  rw [List.mem_range, h1] at hi
  have ha : ∀ j, tileAddr c (o + j) = tileAddr c o + j := fun j => (Nat.add_assoc _ _ _).symm
  rw [wordOf, h1]
  by_cases hi0 : i = 0
  · refine ⟨0, by omega, ?_⟩
    rw [Nat.add_zero, wordOf, h1, hi0]
    omega
  · have hj : tileAddr c o / 64 * 64 + i * 64 - tileAddr c o < n := by
      generalize tileAddr c o = a at hi ⊢
      omega
    refine ⟨tileAddr c o / 64 * 64 + i * 64 - tileAddr c o, hj, ?_⟩
    rw [wordOf, wordSize_tileAddr c (by omega), ha]
    generalize tileAddr c o = a at hi ⊢
    omega

theorem State.granAt_wordOf_tile (s : State) (c : CoreId) {o : Nat} (ho : o < 0x8000000) :
    s.granAt (wordOf (tileAddr c o)) = s.granAt (tileAddr c o) := by
  rw [State.granAt, State.granAt, wordOf, wordSize_tileAddr c ho]
  congr 1
  generalize tileAddr c o = a
  omega

/-! ### Items of array work -/

section
variable {s u : State} {c : CoreId} {b : BankId} {r : BankRun} {i : Nat}

/-- An item with no error is done and the next is the unit's. -/
theorem State.bankWork_item (hrun : (u.bank c b).run = some r) (hpos : r.pos < itemCount r) (hf : r.fwd = false)
    (he : (u.bankItem c b r r.pos).err = 0) (fuel : Nat) : u.bankWork c b (fuel + 1) =
      ((u.bankItem c b r r.pos).s.setBank c b { (u.bankItem c b r r.pos).s.bank c b with
        run := some { (u.bankItem c b r r.pos).r with pos := (u.bankItem c b r r.pos).r.pos + 1 } }).bankWork c b fuel := by
  have hstop : ¬ ((decide (itemCount r ≤ r.pos) || r.fwd) = true) := by
    rw [hf, Bool.or_false, decide_eq_true_eq]
    omega
  rw [State.bankWork, hrun]
  have h3 : ¬ (u.bankItem c b r r.pos).err = 3 := by rw [he]; decide
  have h2 : ¬ (u.bankItem c b r r.pos).err = 2 := by rw [he]; decide
  exact (if_neg hstop).trans ((if_neg h3).trans (if_neg h2))

/-- A unit whose items are all done, with nothing that stops it, ends its command with ERR 0x00. -/
theorem State.bankFinish_done {r0 : BankRun} (h0 : (s.bank c b).run = some r0) (hw : r0.waiting = false)
    (hu : s.bankWork c b (itemCount r0) = u) (hrun : (u.bank c b).run = some r) (hchain : r.chain = [])
    (howed : (u.bank c b).owed = 0) (hfin : (u.bank c b).fin = none) (habort : (u.bank c b).abort = false) :
    ∃ k, s.bankFinish c b = (u.setBank c b { u.bank c b with
          result := if cOpc r.w = 3 then sumResult r else if cOpc r.w = 8 then tget 0 r.acc 0 else (u.bank c b).result }).setBank c b k ∧
      k.run = none ∧ k.err = 0 ∧ k.held = (u.bank c b).held ∧
      k.result = if cOpc r.w = 3 then sumResult r else if cOpc r.w = 8 then tget 0 r.acc 0 else (u.bank c b).result := by
  have hfin' : ¬ ((u.bank c b).fin.isSome = true) := by rw [hfin]; decide
  have habort' : ¬ ((u.bank c b).abort = true) := by rw [habort]; decide
  have hw' : ¬ (r0.waiting = true) := by rw [hw]; decide
  generalize hres : (if cOpc r.w = 3 then sumResult r else if cOpc r.w = 8 then tget 0 r.acc 0 else (u.bank c b).result) = res
  have hfinish : s.bankFinish c b = (u.setBank c b { u.bank c b with result := res }).endRun c b 0 := by
    unfold State.bankFinish
    rw [h0]
    dsimp only
    rw [if_neg hw', hu]
    split
    next hno => exact nomatch hno.symm.trans hrun
    next r' hr' =>
      obtain rfl := Option.some.inj (hrun.symm.trans hr')
      rw [if_neg hfin', if_neg habort', hres]
  have hself := State.bank_setBank_self u c b { u.bank c b with result := res }
  have hrun' : ((u.setBank c b { u.bank c b with result := res }).bank c b).run = some r := by
    rw [hself]
    exact hrun
  rw [hfinish, State.endRun_owed (by rw [hself]; exact howed)]
  unfold State.closeRun
  dsimp only
  rw [hrun']
  dsimp only
  rw [if_neg (fun h => h.1 rfl), hself]
  exact ⟨_, rfl, rfl, rfl, rfl, rfl⟩

/-- The end of a command whose items leave the state u. -/
theorem bankUnitCommandEnd_done {r0 : BankRun} (hgo : s.unitGoes c b = true) (h0 : (s.bank c b).run = some r0) (hw : r0.waiting = false)
    (hu : s.bankWork c b (itemCount r0) = u) (hrun : (u.bank c b).run = some r) (hchain : r.chain = [])
    (howed : (u.bank c b).owed = 0) (hfin : (u.bank c b).fin = none) (habort : (u.bank c b).abort = false)
    (hheld : (u.bank c b).held = []) (hc : (u.tile c).cq = []) (hm : (u.tile c).mq = []) :
    ∃ t, exec (.bankUnitCommandEnd c b) s = .next t ∧ t.mem = u.mem ∧ (t.bank c b).run = none ∧ (t.bank c b).err = 0 ∧
      (t.bank c b).result = if cOpc r.w = 3 then sumResult r else if cOpc r.w = 8 then tget 0 r.acc 0 else (u.bank c b).result := by
  obtain ⟨k, hk, hnone, herr, hkheld, hres⟩ := State.bankFinish_done h0 hw hu hrun hchain howed hfin habort
  have hex : exec (.bankUnitCommandEnd c b) s = .next ((s.bankFinish c b).releaseBank c b) := if_pos (by rw [hgo, Bool.true_or])
  rw [hk] at hex
  generalize (if cOpc r.w = 3 then sumResult r else if cOpc r.w = 8 then tget 0 r.acc 0 else (u.bank c b).result) = res at *
  have hself := State.bank_setBank_self (u.setBank c b { u.bank c b with result := res }) c b k
  obtain ⟨hbank, x, hx⟩ := State.releaseBank_quiet (s := (u.setBank c b { u.bank c b with result := res }).setBank c b k) (c := c) (b := b)
    (by rw [hself]; exact hkheld.trans hheld) hc hm
  rw [hself] at hbank
  refine ⟨_, hex, ?_, ?_, ?_, ?_⟩
  · rw [hx]
    rfl
  · rw [hbank, hnone]
  · rw [hbank, herr]
  · rw [hbank, hres]

end

/-! ### FILL -/

/-- The bytes a FILL writes. -/
def patBytes (r : BankRun) : List Byte := (List.range r.n).map fun j => (leBytes 8 r.pat.toNat).getD (j % 8) 0

theorem patBytes_length (r : BankRun) : (patBytes r).length = r.n := by rw [patBytes, List.length_map, List.length_range]

/-- Byte j of a FILL is a byte of its pattern. -/
theorem patBytes_getElem {r : BankRun} {j : Nat} (h : j < (patBytes r).length) :
    (patBytes r)[j] = r.pat.extractLsb' (8 * (j % 8)) 8 := by
  have hj : j % 8 < (leBytes 8 r.pat.toNat).length := by
    rw [leBytes_length]
    omega
  simp only [patBytes, List.getElem_map, List.getElem_range]
  rw [List.getD_eq_getElem _ _ hj, leBytes_getElem]
  apply BitVec.eq_of_toNat_eq
  rw [BitVec.toNat_ofNat, BitVec.extractLsb'_toNat, Nat.shiftRight_eq_div_pow]

/-- A part of a FILL's bytes, from its offset in the range. -/
theorem patBytes_part (r : BankRun) {lo m : Nat} (hlo : r.dst ≤ lo) (hm : lo - r.dst + m ≤ r.n) :
    ((List.range m).map fun k => (leBytes 8 r.pat.toNat).getD ((lo + k - r.dst) % 8) 0) = ((patBytes r).drop (lo - r.dst)).take m := by
  refine List.ext_getElem ?_ fun k h1 h2 => ?_
  · rw [List.length_map, List.length_range, List.length_take, List.length_drop, patBytes_length]
    omega
  · rw [List.length_map, List.length_range] at h1
    simp only [patBytes, List.getElem_map, List.getElem_range, List.getElem_take, List.getElem_drop]
    rw [show lo + k - r.dst = lo - r.dst + k by omega]

/-- The state u in which a FILL of bank b has done its first i items. -/
structure State.Filled (s u : State) (c b : Nat) (r : BankRun) (i : Nat) : Prop where
  mem : u.mem = mwrite s.mem (bankAddr c b r.dst) ((patBytes r).take (beatLo r.dst i - r.dst))
  gran : u.gran = s.gran
  flip : u.ras.flipTgt.getLsbD 63 = false
  cq : (u.tile c).cq = (s.tile c).cq
  mq : (u.tile c).mq = (s.tile c).mq
  bank : u.bank c b = { s.bank c b with run := some { r with pos := i } }

section
variable {s u : State} {c : CoreId} {b : BankId} {r : BankRun} {i : Nat}

/-- The items of a FILL are its range, cut at 64 B. -/
theorem fill_items (hop : cOpc r.w = 4) (hn : r.n ≠ 0) (j : Nat) :
    itemCount { r with pos := j } = beatCount r.dst r.n ∧ itemBytes { r with pos := j } i = (beatLo r.dst i, beatHi r.dst r.n i - beatLo r.dst i) := by
  have hrange : itemRange { r with pos := j } = (r.dst, r.n) := by
    unfold itemRange
    simp only [hop]
  unfold itemCount itemBytes
  rw [hrange]
  exact ⟨if_neg hn, rfl⟩

/-- An item of a FILL writes its part of the bytes. -/
theorem State.bankItem_fill (hop : cOpc r.w = 4) (hn : r.n ≠ 0) (hi : i < beatCount r.dst r.n) :
    u.bankItem c b { r with pos := i } i = ItemOut.mk (u.tileWrite (bankAddr c b (beatLo r.dst i))
      (((patBytes r).drop (beatLo r.dst i - r.dst)).take (beatHi r.dst r.n i - beatLo r.dst i))) { r with pos := i } 0 0 := by
  have hbb := beat_bounds hn hi
  have hout : outRange { r with pos := i } = (0, 0) := by
    unfold outRange
    simp only [hop]
  have hwrite (o : Nat) (bs : List Byte) : u.unitWrite c b { r with pos := i } o bs = u.tileWrite (bankAddr c b o) bs := by
    unfold State.unitWrite
    dsimp only
    rw [hout]
    exact if_neg (by simp [meets])
  unfold State.bankItem
  dsimp only
  have h5 : ¬ (cOpc r.w = 5 ∧ r.src < r.dst) := fun h => absurd (hop.symm.trans h.1) (by decide)
  have h7 : ¬ cOpc r.w = 7 := fun h => absurd (hop.symm.trans h) (by decide)
  rw [if_neg h5, if_neg h7, if_pos hop, (fill_items hop hn i).2]
  dsimp only
  rw [patBytes_part r hbb.1 (by omega), hwrite]

/-- The next item of a FILL. -/
theorem State.Filled.next (h : s.Filled u c b r i) (hop : cOpc r.w = 4) (hf : r.fwd = false) (hn : r.n ≠ 0)
    (hb : r.dst + r.n ≤ 0x800000) (hi : i < beatCount r.dst r.n) (hg : ∀ j, j < r.n → s.granAt (bankAddr c b (r.dst + j)) = .written)
    (fuel : Nat) : ∃ v : State, u.bankWork c b (fuel + 1) = v.bankWork c b fuel ∧
      v.mem = mwrite s.mem (bankAddr c b r.dst) ((patBytes r).take (beatHi r.dst r.n i - r.dst)) ∧ v.gran = s.gran ∧
      v.ras.flipTgt.getLsbD 63 = false ∧ (v.tile c).cq = (s.tile c).cq ∧ (v.tile c).mq = (s.tile c).mq ∧
      v.bank c b = { s.bank c b with run := some { r with pos := i + 1 } } := by
  have hbb := beat_bounds hn hi
  have hbank := b.isLt
  have hitem := State.bankItem_fill (u := u) (c := c) (b := b) hop hn hi
  have hstep := State.bankWork_item (u := u) (c := c) (b := b) (r := { r with pos := i }) (by rw [h.bank]) (by
    rw [(fill_items hop hn i (i := 0)).1]
    exact hi) hf (by rw [hitem]) fuel
  have hitem' : u.bankItem c b { r with pos := i } ({ r with pos := i } : BankRun).pos = _ := hitem
  rw [hitem'] at hstep
  have hlen : (((patBytes r).drop (beatLo r.dst i - r.dst)).take (beatHi r.dst r.n i - beatLo r.dst i)).length =
      beatHi r.dst r.n i - beatLo r.dst i := by
    rw [List.length_take, List.length_drop, patBytes_length]
    omega
  have hbase : bankAddr c b (beatLo r.dst i) = tileAddr c (b * 0x800000 + r.dst + (beatLo r.dst i - r.dst)) := by
    exact congrArg (tileAddr c) (by omega)
  obtain ⟨t, ht, he⟩ := State.tileWrite_counts (s := u) (a := bankAddr c b (beatLo r.dst i))
    (bs := ((patBytes r).drop (beatLo r.dst i - r.dst)).take (beatHi r.dst r.n i - beatLo r.dst i))
    (by rw [Ne, ← List.length_eq_zero_iff, hlen]; omega)
    (fun w hw => by
      rw [hlen, hbase] at hw
      have hw' := mem_wordsOf_part (o := b * 0x800000 + r.dst) (n := r.n) (by omega) (by omega) (by omega) hw
      obtain ⟨j, hj, rfl⟩ := mem_wordsOf_byte (by omega) hw'
      rw [State.granAt_wordOf_tile _ _ (by omega), State.granAt, h.gran]
      have hj' := hg j hj
      rw [State.granAt, bankAddr, ← Nat.add_assoc] at hj'
      exact hj') h.flip
  rw [he] at hstep
  have hat : bankAddr c b (beatLo r.dst i) = bankAddr c b r.dst + ((patBytes r).take (beatLo r.dst i - r.dst)).length := by
    rw [List.length_take, patBytes_length, Nat.min_eq_left (by omega)]
    unfold bankAddr tileAddr
    omega
  have hbytes : (patBytes r).take (beatHi r.dst r.n i - r.dst) = (patBytes r).take (beatLo r.dst i - r.dst) ++
      ((patBytes r).drop (beatLo r.dst i - r.dst)).take (beatHi r.dst r.n i - beatLo r.dst i) := by
    rw [show beatHi r.dst r.n i - r.dst = (beatLo r.dst i - r.dst) + (beatHi r.dst r.n i - beatLo r.dst i) by omega, List.take_add]
  have hbanks : t.banks = u.banks := by
    have h := congrArg State.banks ht.frame
    exact h
  have hcq : (t.tile c).cq = (u.tile c).cq := by
    have h := congrArg Tile.cq (ht.tile c)
    exact h
  have hmq : (t.tile c).mq = (u.tile c).mq := by
    have h := congrArg Tile.mq (ht.tile c)
    exact h
  have htbank : t.bank c b = u.bank c b := congrArg (tget ({} : Bank) · (c * 16 + b)) hbanks
  refine ⟨_, hstep, ?_, ht.gran.trans h.gran, ?_, hcq.trans h.cq, hmq.trans h.mq, ?_⟩
  · show mwrite u.mem _ _ = _
    rw [h.mem, hbytes, mwrite_append, ← hat]
  · exact ht.flipTgt ▸ h.flip
  · rw [State.bank_setBank_self]
    refine (congrArg (fun k : Bank => { k with run := some { r with pos := i + 1 } }) (htbank.trans h.bank)).trans ?_
    rfl

/-- All items of a FILL. -/
theorem State.Filled.all (hop : cOpc r.w = 4) (hf : r.fwd = false) (hn : r.n ≠ 0) (hb : r.dst + r.n ≤ 0x800000)
    (hg : ∀ j, j < r.n → s.granAt (bankAddr c b (r.dst + j)) = .written) (j : Nat) :
    ∀ (u : State) (i : Nat), i + (j + 1) = beatCount r.dst r.n → s.Filled u c b r i →
      ∃ v, u.bankWork c b (j + 1) = v ∧ v.mem = mwrite s.mem (bankAddr c b r.dst) (patBytes r) ∧
        (v.tile c).cq = (s.tile c).cq ∧ (v.tile c).mq = (s.tile c).mq ∧
        v.bank c b = { s.bank c b with run := some { r with pos := beatCount r.dst r.n } } := by
  induction j with
  | zero =>
    intro u i hi h
    obtain ⟨v, hv, hmem, -, -, hcq, hmq, hbank⟩ := h.next hop hf hn hb (by omega) hg 0
    rw [beatHi_last hn hi, Nat.add_sub_cancel_left, List.take_of_length_le (Nat.le_of_eq (patBytes_length r))] at hmem
    exact ⟨v, hv, hmem, hcq, hmq, hi ▸ hbank⟩
  | succ j ih =>
    intro u i hi h
    obtain ⟨v, hv, hmem, hgran, hflip, hcq, hmq, hbank⟩ := h.next hop hf hn hb (by omega) hg (j + 1)
    rw [← beatLo_succ hn (by omega)] at hmem
    rw [hv]
    exact ih v (i + 1) (by omega) ⟨hmem, hgran, hflip, hcq, hmq, hbank⟩

end

/-! ### SUMRED -/

/-- Bytes read within a range. -/
theorem mread_part (m : Mem) (a : Nat) {n d l : Nat} (h : d + l ≤ n) : ((mread m a n).drop d).take l = mread m (a + d) l := by
  obtain ⟨e, rfl⟩ := Nat.exists_eq_add_of_le h
  rw [Nat.add_assoc, mread_add, mread_add, List.drop_left' (mread_length m a d), List.take_left' (mread_length m (a + d) l)]

/-- A SUMRED word has no exclusion. -/
theorem cExcl_sumred {w : BitVec 64} (hop : cOpc w = 3) (h : cmdBad w = false) : cExcl w = false := by
  unfold cmdBad at h
  rw [hop] at h
  have hmask : w &&& ~~~(BitVec.ofNat 64 (0xFFFF * 2 ^ 48 + 2 ^ 40 + 0xFF)) = 0 := by
    simpa [cmdMask] using h
  have hbit := congrArg (BitVec.getLsbD · 17) hmask
  simpa [cExcl] using hbit

/-- The signed value of element j of a SUMRED. -/
def sumTerm (m : Mem) (a : Nat) (j : Nat) : Int := (BitVec.ofNat 32 (leNat (mread m (a + 4 * j) 4))).toInt

/-- The sum of the first n elements. -/
def sumTo (m : Mem) (a n : Nat) : Int := ((List.range n).map (sumTerm m a)).sum

theorem sumTo_add (m : Mem) (a x y : Nat) : sumTo m a (x + y) = sumTo m a x + sumTo m (a + 4 * x) y := by
  unfold sumTo
  rw [List.range_add, List.map_append, List.sum_append, List.map_map]
  congr 2
  refine List.map_congr_left fun j _ => ?_
  unfold sumTerm
  rw [Function.comp, Nat.mul_add, Nat.add_assoc]

/-- Elements added one by one to the integer sum of a run. -/
theorem sumElems (f : Nat → Nat) (m : Mem) (a : Nat) (n : Nat) {r : BankRun} (hf : r.fmt = 0) :
    ∃ A, (List.range n).foldl (fun r k => sumElem r (f k) (BitVec.ofNat 32 (leNat (mread m (a + 4 * k) 4)))) r = { r with acc := A } ∧
      tget 0 A 0 = tget 0 r.acc 0 + BitVec.ofInt 64 (sumTo m a n) := by
  induction n with
  | zero => exact ⟨r.acc, rfl, by simp [sumTo]⟩
  | succ n ih =>
    obtain ⟨A, hA, hsum⟩ := ih
    rw [List.range_succ, List.foldl_append, hA, List.foldl_cons, List.foldl_nil, sumElem, if_pos hf]
    refine ⟨_, rfl, ?_⟩
    rw [tget_tset_self]
    dsimp only
    rw [hsum, sumTo_add, show sumTo m (a + 4 * n) 1 = sumTerm m a n by simp [sumTo, sumTerm], BitVec.ofInt_add, BitVec.add_assoc]
    rfl

section
variable {s u : State} {c : CoreId} {b : BankId} {r : BankRun} {i : Nat}

theorem State.readExcls_none (h : cExcl r.w = false) (js : List Nat) : u.readExcls c b r js = (u, r, none) := by
  induction js with
  | nil => rfl
  | cons j js ih =>
    have hj : u.readExcl c b r j = (u, r, none) := by
      unfold State.readExcl
      rw [h, Bool.false_and]
      rfl
    rw [State.readExcls, hj]
    exact ih

/-- The items of a SUMRED are its words, cut at 64 B. -/
theorem sum_items (hop : cOpc r.w = 3) (hn : r.n ≠ 0) :
    itemCount r = beatCount r.src (4 * r.n) ∧ itemBytes r i = (beatLo r.src i, beatHi r.src (4 * r.n) i - beatLo r.src i) := by
  have hrange : itemRange r = (r.src, 4 * r.n) := by
    unfold itemRange
    simp only [hop]
  unfold itemCount itemBytes
  rw [hrange]
  exact ⟨if_neg (by omega), rfl⟩

/-- A unit reads clean written words. -/
theorem State.unitRead_clean {o n : Nat} (hop : cOpc r.w = 3) (hg : u.granAt (bankAddr c b o) = .written)
    (hw : ∀ w ∈ wordsOf (bankAddr c b o) n, u.granAt w = .written ∧ u.mark w = .none) :
    u.unitRead c b r o n = (u, r, mread u.mem (bankAddr c b o) n, none) := by
  have hout : outRange r = (0, 0) := by
    unfold outRange
    simp only [hop]
  have hdead : (decide (u.granAt (bankAddr c b o) = .dead) && !r.deads.contains (bankAddr c b o / 4096)) = false := by
    rw [hg]
    rfl
  unfold State.unitRead
  dsimp only
  rw [hdead, if_neg Bool.false_ne_true, if_neg Bool.false_ne_true, State.meetDram_clean hw, hout]
  simp [meets]

/-- An item of an integer SUMRED adds its words. -/
theorem State.bankItem_sum (hop : cOpc r.w = 3) (hbad : cmdBad r.w = false) (hf : r.fmt = 0) (hn : r.n ≠ 0) (hs : r.src % 4 = 0)
    (hi : i < beatCount r.src (4 * r.n)) (hg : u.granAt (bankAddr c b (beatLo r.src i)) = .written)
    (hw : ∀ w ∈ wordsOf (bankAddr c b (beatLo r.src i)) (beatHi r.src (4 * r.n) i - beatLo r.src i),
      u.granAt w = .written ∧ u.mark w = .none) :
    ∃ A, u.bankItem c b r i = { s := u, r := { r with acc := A } } ∧ tget 0 A 0 = tget 0 r.acc 0 +
      BitVec.ofInt 64 (sumTo u.mem (bankAddr c b (beatLo r.src i)) ((beatHi r.src (4 * r.n) i - beatLo r.src i) / 4)) := by
  have hbb := beat_bounds (n := 4 * r.n) (by omega) hi
  obtain ⟨A, hA, hsum⟩ := sumElems (fun k => (beatLo r.src i - r.src) / 4 + k) u.mem (bankAddr c b (beatLo r.src i))
    ((beatHi r.src (4 * r.n) i - beatLo r.src i) / 4) hf
  have hfold : (List.range ((beatHi r.src (4 * r.n) i - beatLo r.src i) / 4)).foldl (fun r' k => sumElem r'
      ((beatLo r.src i - r.src) / 4 + k) (BitVec.ofNat 32 (leNat (((mread u.mem (bankAddr c b (beatLo r.src i))
        (beatHi r.src (4 * r.n) i - beatLo r.src i)).drop (4 * k)).take 4)))) r = { r with acc := A } := by
    rw [← hA]
    refine List.foldl_ext _ _ _ fun r' k hk => ?_
    have hk' := List.mem_range.1 hk
    rw [mread_part _ _ (by omega)]
  have h5 : ¬ (cOpc r.w = 5 ∧ r.src < r.dst) := fun h => absurd (hop.symm.trans h.1) (by decide)
  have h7 : ¬ cOpc r.w = 7 := fun h => absurd (hop.symm.trans h) (by decide)
  have h4 : ¬ cOpc r.w = 4 := fun h => absurd (hop.symm.trans h) (by decide)
  have hsize : (if cOpc r.w = 1 then 8 else if cOpc r.w = 2 then 64 else if cOpc r.w = 6 ∧ r.fmt ≠ 1 then 1 else 4) = 4 := by
    rw [hop]
    rfl
  refine ⟨A, ?_, hsum⟩
  unfold State.bankItem
  dsimp only
  rw [if_neg h5, (sum_items hop hn).2, State.readExcls_none (cExcl_sumred hop hbad), if_neg h7, if_neg h4, hsize,
    State.unitRead_clean hop hg hw]
  dsimp only
  rw [hfold]
  split
  case h_3 => rfl
  all_goals exact absurd hop (by omega)

/-- The state u in which an integer SUMRED of bank b has done its first i items. -/
structure State.Summed (s u : State) (c b : Nat) (r : BankRun) (i : Nat) : Prop where
  frame : { u with banks := s.banks } = s
  bank : ∃ A, u.bank c b = { s.bank c b with run := some { r with pos := i, acc := A } } ∧
    tget 0 A 0 = BitVec.ofInt 64 (sumTo s.mem (bankAddr c b r.src) ((beatLo r.src i - r.src) / 4))

/-- The words and granules of an item of a SUMRED are those of its range. -/
theorem sum_words (hb : r.src + 4 * r.n ≤ 0x800000) (hn : r.n ≠ 0) (hi : i < beatCount r.src (4 * r.n))
    (hg : ∀ j, j < 4 * r.n → s.granAt (bankAddr c b (r.src + j)) = .written ∧ s.mark (wordOf (bankAddr c b (r.src + j))) = .none) :
    s.granAt (bankAddr c b (beatLo r.src i)) = .written ∧
      ∀ w ∈ wordsOf (bankAddr c b (beatLo r.src i)) (beatHi r.src (4 * r.n) i - beatLo r.src i),
        s.granAt w = .written ∧ s.mark w = .none := by
  have hbb := beat_bounds (n := 4 * r.n) (by omega) hi
  have hbank := b.isLt
  have hbase (j : Nat) : tileAddr c (b * 0x800000 + beatLo r.src i + j) = bankAddr c b (r.src + (beatLo r.src i - r.src + j)) :=
    congrArg (tileAddr c) (by omega)
  constructor
  · have h := hg (beatLo r.src i - r.src) (by omega)
    rw [show r.src + (beatLo r.src i - r.src) = beatLo r.src i by omega] at h
    exact h.1
  · intro w hw
    obtain ⟨j, hj, rfl⟩ := mem_wordsOf_byte (c := c) (o := b * 0x800000 + beatLo r.src i) (by omega) hw
    rw [State.granAt_wordOf_tile _ _ (by omega), hbase]
    exact hg _ (by omega)

/-- The next item of an integer SUMRED. -/
theorem State.Summed.next (h : s.Summed u c b r i) (hop : cOpc r.w = 3) (hbad : cmdBad r.w = false) (hf : r.fmt = 0) (hfwd : r.fwd = false)
    (hn : r.n ≠ 0) (hs : r.src % 4 = 0) (hb : r.src + 4 * r.n ≤ 0x800000) (hi : i < beatCount r.src (4 * r.n))
    (hg : ∀ j, j < 4 * r.n → s.granAt (bankAddr c b (r.src + j)) = .written ∧ s.mark (wordOf (bankAddr c b (r.src + j))) = .none)
    (fuel : Nat) : ∃ v A, u.bankWork c b (fuel + 1) = State.bankWork v c b fuel ∧ ({ v with banks := s.banks } : State) = s ∧
      v.bank c b = { s.bank c b with run := some { r with pos := i + 1, acc := A } } ∧
      tget 0 A 0 = BitVec.ofInt 64 (sumTo s.mem (bankAddr c b r.src) ((beatHi r.src (4 * r.n) i - r.src) / 4)) := by
  have hbb := beat_bounds (n := 4 * r.n) (by omega) hi
  obtain ⟨A, hA, hsum⟩ := h.bank
  obtain ⟨hgran, hwords⟩ := sum_words hb hn hi hg
  have hmem : u.mem = s.mem := by
    have h := congrArg State.mem h.frame
    exact h
  have hug : u.gran = s.gran := by
    have h := congrArg State.gran h.frame
    exact h
  have hue : u.errs = s.errs := by
    have h := congrArg State.errs h.frame
    exact h
  obtain ⟨A', hitem, hsum'⟩ := State.bankItem_sum (u := u) (c := c) (b := b) (r := { r with pos := i, acc := A }) (i := i)
    hop hbad hf hn hs hi (by rw [State.granAt, hug]; exact hgran) (fun w hw => by
      rw [State.granAt, hug, State.mark, hue]
      exact hwords w hw)
  have hstep := State.bankWork_item (u := u) (c := c) (b := b) (r := { r with pos := i, acc := A }) (by rw [hA]) (by
    rw [(sum_items (r := { r with pos := i, acc := A }) hop hn (i := 0)).1]
    exact hi) hfwd (by rw [hitem]) fuel
  have hitem' : u.bankItem c b { r with pos := i, acc := A } ({ r with pos := i, acc := A } : BankRun).pos = _ := hitem
  rw [hitem'] at hstep
  refine ⟨_, A', hstep, h.frame, ?_, ?_⟩
  · rw [State.bank_setBank_self]
    exact congrArg (fun k : Bank => { k with run := some { r with pos := i + 1, acc := A' } }) hA
  · have hat : bankAddr c b (beatLo r.src i) = bankAddr c b r.src + 4 * ((beatLo r.src i - r.src) / 4) := by
      have hlo : (beatLo r.src i - r.src) % 4 = 0 := by
        unfold beatLo
        omega
      unfold bankAddr tileAddr
      omega
    have hcut : (beatHi r.src (4 * r.n) i - r.src) / 4 =
        (beatLo r.src i - r.src) / 4 + (beatHi r.src (4 * r.n) i - beatLo r.src i) / 4 := by
      have hlo : (beatLo r.src i - r.src) % 4 = 0 := by
        unfold beatLo
        omega
      omega
    rw [hsum', hmem, hcut, sumTo_add, BitVec.ofInt_add, ← hsum, hat]

/-- All items of an integer SUMRED. -/
theorem State.Summed.all (hop : cOpc r.w = 3) (hbad : cmdBad r.w = false) (hf : r.fmt = 0) (hfwd : r.fwd = false)
    (hn : r.n ≠ 0) (hs : r.src % 4 = 0) (hb : r.src + 4 * r.n ≤ 0x800000)
    (hg : ∀ j, j < 4 * r.n → s.granAt (bankAddr c b (r.src + j)) = .written ∧ s.mark (wordOf (bankAddr c b (r.src + j))) = .none)
    (j : Nat) : ∀ (u : State) (i : Nat), i + (j + 1) = beatCount r.src (4 * r.n) → s.Summed u c b r i →
      ∃ A, ({ u.bankWork c b (j + 1) with banks := s.banks } : State) = s ∧
        (u.bankWork c b (j + 1)).bank c b = { s.bank c b with run := some { r with pos := beatCount r.src (4 * r.n), acc := A } } ∧
        tget 0 A 0 = BitVec.ofInt 64 (sumTo s.mem (bankAddr c b r.src) r.n) := by
  induction j with
  | zero =>
    intro u i hi h
    obtain ⟨v, A, hv, hframe, hbank, hsum⟩ := h.next hop hbad hf hfwd hn hs hb (by omega) hg 0
    rw [beatHi_last (by omega) hi, Nat.add_sub_cancel_left, Nat.mul_div_cancel_left _ (by decide)] at hsum
    rw [hv]
    exact ⟨A, hframe, hi ▸ hbank, hsum⟩
  | succ j ih =>
    intro u i hi h
    obtain ⟨v, A, hv, hframe, hbank, hsum⟩ := h.next hop hbad hf hfwd hn hs hb (by omega) hg (j + 1)
    rw [← beatLo_succ (by omega) (by omega)] at hsum
    rw [hv]
    exact ih v (i + 1) (by omega) ⟨hframe, A, hbank, hsum⟩

end

/-- Settles O35: item by item, a FILL extends what it has written and a SUMRED its sum. -/
theorem bankFillAndSumResults : Obligations.BankFillAndSumResults := by
  unfold Obligations.BankFillAndSumResults
  intro s c b r k a hrun hpos hchain hwait hfwd hgo howed hheld hqueued habort hfin hcq hmq hflip hn
  have hk (x : Bank) (h : x = k) (hx : x.run = some r) : x = { x with run := some r } := by rw [← hx]
  have hr0 : r = { r with pos := 0 } := by rw [← hpos]
  refine ⟨fun hop hd8 hn8 hb hg => ?_, fun hop hbad hf hacc hs hb hg => ?_⟩
  · have hcount : beatCount r.dst r.n - 1 + 1 = beatCount r.dst r.n := rfl
    have hstart : s.Filled s c b r 0 := ⟨by rw [beatLo_zero, Nat.sub_self]; rfl, rfl, hflip, rfl, rfl, by
      rw [← hr0]
      exact hk _ rfl hrun⟩
    obtain ⟨v, hv, hmem, hvc, hvm, hbank⟩ := State.Filled.all hop hfwd hn hb hg (beatCount r.dst r.n - 1) s 0 (Nat.zero_add _) hstart
    rw [hcount] at hv
    obtain ⟨t, hex, htm, hnone, herr, -⟩ := bankUnitCommandEnd_done hgo hrun hwait
      (by rw [hr0, (fill_items hop hn 0 (i := 0)).1]; exact hv) (r := { r with pos := beatCount r.dst r.n }) (by rw [hbank]) hchain
      (by rw [hbank]; exact howed) (by rw [hbank]; exact hfin) (by rw [hbank]; exact habort) (by rw [hbank]; exact hheld)
      (hvc.trans hcq) (hvm.trans hmq)
    have hadd (j : Nat) : a (r.dst + j) = a r.dst + j := by
      show bankAddr c b _ = bankAddr c b _ + j
      unfold bankAddr tileAddr
      omega
    refine ⟨t, hex, fun j hj => ?_, fun x hx => ?_, hnone, herr⟩
    · rw [htm, hmem, hadd]
      have hj' : j < (patBytes r).length := by rw [patBytes_length]; exact hj
      exact (mget_mwrite_in _ _ _ _ hj').trans (patBytes_getElem hj')
    · rw [hadd] at hx
      rw [htm, hmem]
      exact mget_mwrite_out _ _ _ _ (by rw [patBytes_length]; exact hx)
  · have hcount : beatCount r.src (4 * r.n) - 1 + 1 = beatCount r.src (4 * r.n) := rfl
    have hr00 : r = { r with pos := 0, acc := [] } := by rw [← hpos, ← hacc]
    have hstart : s.Summed s c b r 0 := ⟨rfl, [], by rw [← hr00]; exact hk _ rfl hrun, by rw [beatLo_zero, Nat.sub_self]; rfl⟩
    obtain ⟨A, hframe, hbank, hsum⟩ := State.Summed.all hop hbad hf hfwd hn hs hb hg (beatCount r.src (4 * r.n) - 1) s 0
      (Nat.zero_add _) hstart
    rw [hcount] at hframe hbank
    generalize hv : s.bankWork c b (beatCount r.src (4 * r.n)) = v at hframe hbank
    have htile : v.tile c = s.tile c := by
      have h := congrArg (State.tile · c) hframe
      exact h
    have hmem : v.mem = s.mem := by
      have h := congrArg State.mem hframe
      exact h
    have hitems : s.bankWork c b (itemCount r) = v := by
      rw [(sum_items hop hn (i := 0)).1]
      exact hv
    obtain ⟨t, hex, htm, hnone, herr, hres⟩ := bankUnitCommandEnd_done hgo hrun hwait hitems (r := { r with pos := beatCount r.src (4 * r.n), acc := A }) (by rw [hbank]) hchain
      (by rw [hbank]; exact howed) (by rw [hbank]; exact hfin) (by rw [hbank]; exact habort) (by rw [hbank]; exact hheld)
      (by rw [htile]; exact hcq) (by rw [htile]; exact hmq)
    refine ⟨t, hex, htm.trans hmem, ?_, hnone, herr⟩
    rw [hres, if_pos hop, sumResult, if_pos hf, hsum]
    have hterm : sumTerm s.mem (bankAddr c b r.src) = fun j => (BitVec.ofNat 32 (leNat (mread s.mem (a (r.src + 4 * j)) 4))).toInt := by
      funext j
      have hadd : a (r.src + 4 * j) = bankAddr c b r.src + 4 * j := by
        show bankAddr c b _ = _
        unfold bankAddr tileAddr
        omega
      rw [hadd]
      rfl
    rw [sumTo, hterm]

end Sys2Proof.Machine
end

section
/-! PROOFS. Bank units stop, start, pause and chain (O36; R280, R283, R290, R293, R300). -/

namespace Sys2Proof.Machine

-- One theorem at a time, as in the tests: the proofs together take too many threads.
set_option Elab.async false

section
variable {s : State} {c : CoreId} {b : BankId} {r : BankRun}

/-! ### ABORT -/

/-- Whether a unit is busy does not depend on what waits behind its command or has been brought to it. -/
theorem Bank.busy_congr {k k' : Bank} (hu : k'.unit = k.unit) (hr : k'.run = k.run) (hp : k'.paused = k.paused) (hs : k'.slice = k.slice) :
    k'.busy = k.busy := by
  unfold Bank.busy Bank.state
  rw [hu, hr, hp, hs]

theorem State.abortBank_busy (h : (s.bank c b).busy = true) : ∃ i j x, s.abortBank c b =
    ({ s with banks := x } : State).setBank c b { s.bank c b with queued := none, inS := i, inQ := j, abort := true } := by
  obtain ⟨i, j, hk⟩ := State.dropQueued_bank (s := s) (c := c) (b := b)
  obtain ⟨x, hx⟩ := State.dropQueued_eq (s := s) (c := c) (b := b)
  have hbusy : ((s.dropQueued c b).bank c b).busy = true := by
    rw [hk]
    exact (Bank.busy_congr rfl rfl rfl rfl).trans h
  refine ⟨i, j, x, ?_⟩
  unfold State.abortBank
  dsimp only
  rw [if_pos hbusy, hk, hx]

/-- An idle, waiting or paused unit stops at once. -/
theorem State.abortBank_stops (h : (s.bank c b).busy = false) (ho : (s.bank c b).owed = 0) (hf : (s.bank c b).fin = none) :
    ((s.abortBank c b).bank c b).run = none ∧ ((s.abortBank c b).bank c b).queued = none ∧ ((s.abortBank c b).bank c b).err = 4 ∧
      ((s.abortBank c b).bank c b).held = (s.bank c b).held ∧ ∃ x y, s.abortBank c b = { s with banks := x, free := y } := by
  obtain ⟨i, j, hk⟩ := State.dropQueued_bank (s := s) (c := c) (b := b)
  obtain ⟨x, hx⟩ := State.dropQueued_eq (s := s) (c := c) (b := b)
  have hbusy : ¬ (((s.dropQueued c b).bank c b).busy = true) := by
    rw [hk, Bool.not_eq_true]
    exact (Bank.busy_congr rfl rfl rfl rfl).trans h
  have hfin : ¬ (((s.dropQueued c b).bank c b).fin.isSome = true) := by
    rw [hk]
    dsimp only
    rw [hf]
    decide
  have habort : s.abortBank c b = (s.dropQueued c b).stopRun c b := (if_neg hbusy).trans (if_neg hfin)
  obtain ⟨hstops, y, z, hy⟩ := State.stopRun_after (s := s.dropQueued c b) (c := c) (b := b) ((congrArg Bank.owed hk).trans ho)
    ((congrArg Bank.fin hk).trans hf)
  rw [hk] at hstops
  rw [habort]
  exact ⟨hstops.run, hstops.queued, hstops.err, hstops.held, y, z, by rw [hy, hx]⟩

/-! ### Safe points -/

/-- A safe point that no further item precedes. -/
theorem safePoint_atOnce {upto : Nat} (hrun : (s.bank c b).run = some r) (hgo : s.unitGoes c b = true) (hu : upto ≤ r.pos) :
    exec (.safePoint c b upto) s = .next (s.atSafePoint c b) := by
  have hex : exec (.safePoint c b upto) s = .next ((s.bankWork c b (upto - r.pos)).atSafePoint c b) := by
    refine (if_pos hgo).trans ?_
    rw [hrun]
  rw [hex, Nat.sub_eq_zero_of_le hu]
  rfl

/-- What a unit does at a safe point where ABORT waits, or where its duty is used up. -/
theorem State.atSafePoint_eq (hrun : (s.bank c b).run = some r) (hf : (s.bank c b).fin = none) (ho : (s.bank c b).owed = 0) :
    ((s.bank c b).abort = true → s.atSafePoint c b = (s.stopRun c b).releaseBank c b) ∧
    ((s.bank c b).abort = false → (s.tile c).dutyHit = true →
      s.atSafePoint c b = (s.setBank c b { s.bank c b with paused := true }).releaseBank c b) := by
  have hfin : ¬ ((s.bank c b).fin.isSome = true) := by rw [hf]; decide
  constructor
  · intro ha
    unfold State.atSafePoint
    dsimp only
    split
    next h => exact nomatch h.symm.trans hrun
    · exact (if_neg hfin).trans (if_pos ha)
  · intro ha hd
    unfold State.atSafePoint
    dsimp only
    split
    next h => exact nomatch h.symm.trans hrun
    · exact (if_neg hfin).trans ((if_neg (by rw [ha]; decide)).trans ((if_pos hd).trans (if_neg (not_not.2 ho))))

/-! ### The chain -/

theorem insertEntry_perm (score : Bool) (x : Nat) (l : List Nat) : (insertEntry score x l).Perm (x :: l) := by
  induction l with
  | nil => exact List.Perm.refl _
  | cons y l ih =>
    unfold insertEntry
    split
    · exact List.Perm.refl _
    · exact (ih.cons y).trans (List.Perm.swap x y l)

/-- A merge of lists is a permutation of their entries. -/
theorem mergeEntries_perm (score : Bool) (xs ys : List Nat) : (mergeEntries score xs ys).Perm (xs ++ ys) := by
  induction ys generalizing xs with
  | nil =>
    rw [List.append_nil]
    exact List.Perm.refl _
  | cons y ys ih =>
    refine (ih (insertEntry score y xs)).trans ?_
    exact ((insertEntry_perm score y xs).append_right ys).trans List.perm_middle.symm

/-- The end of a chain has no successor. -/
theorem nextMember_last {chain : List Nat} {x : Nat} (hd : chain.Nodup) (hl : chain.getLast? = some x) : nextMember chain x = none := by
  induction chain with
  | nil => rfl
  | cons y t ih =>
    obtain ⟨hy, hd'⟩ := List.nodup_cons.1 hd
    unfold nextMember
    cases t with
    | nil =>
      split <;> rfl
    | cons z t =>
      rw [List.getLast?_cons_cons] at hl
      have hne : y ≠ x := fun h => hy (h ▸ List.mem_of_getLast? hl)
      rw [if_neg hne]
      exact ih hd' hl

/-- The lists of a member merged with those brought to it. -/
def mergedLists (r : BankRun) (k : Bank) (ls : List (List Nat)) : List (List Nat) :=
  (List.range (cQ r.w)).map fun q => mergeEntries (r.fmt == 1) (ls.getD q []) (tget [] k.lists q)

theorem chainStreamArrival_last {ls : List (List Nat)} (hrun : (s.bank c b).run = some r) (hin : (s.bank c b).inS = some (.lists ls))
    (hw : r.waiting = true) (hl : r.chain.getLast? = some b.val) (hd : r.chain.Nodup) :
    exec (.chainStreamArrival c b) s = .next (s.setBank c b { s.bank c b with
      run := some { r with waiting := false }, inS := some (.lists (mergedLists r (s.bank c b) ls)) }) := by
  refine congrArg Host.Outcome.next ?_
  unfold State.chainArrive
  dsimp only
  split
  next r' ls' hr' hi' =>
    obtain rfl := Option.some.inj (hrun.symm.trans hr')
    obtain rfl := ChainIn.lists.inj (Option.some.inj (hin.symm.trans hi'))
    rw [if_pos hw, nextMember_last hd hl]
    rfl
  next h => exact absurd hin (h r ls hrun)

theorem chainBreak_member (hrun : (s.bank c b).run = some r) (hin : (s.bank c b).inS = some .broken) (ho : (s.bank c b).owed = 0)
    (hc : r.chain ≠ []) (hl : r.chain.getLast? ≠ some b.val) : exec (.chainBreak c b) s = .next (s.closeRun c b 7) := by
  refine congrArg Host.Outcome.next ?_
  unfold State.chainBroken
  dsimp only
  split
  next r' hr' hi' =>
    obtain rfl := Option.some.inj (hrun.symm.trans hr')
    rw [if_neg hc, if_neg hl, State.endRun_owed ho]
  next h => exact absurd hin (h r hrun)

/-! ### The queued command -/

/-- A queued command starts on an idle unit. -/
theorem State.settleBank_starts {w : BitVec 64} (hr : (s.bank c b).run = none) (hq : (s.bank c b).queued = some (w, [])) :
    s.settleBank c b = (s.setBank c b { s.bank c b with queued := none, inS := (s.bank c b).inQ, inQ := none }).startRun c b w []
      (s.bank c b).qid := by
  unfold State.settleBank
  dsimp only
  split
  next w' ch hr' hq' =>
    obtain ⟨rfl, rfl⟩ := Prod.mk.inj (Option.some.inj (hq.symm.trans hq'))
    rfl
  next h => exact absurd hq (h w [] hr)

end

/-- Settles O36. -/
theorem bankUnitsStopStartPauseAndChain : Obligations.BankUnitsStopStartPauseAndChain := by
  unfold Obligations.BankUnitsStopStartPauseAndChain
  intro s c b k quiet
  have hwindow (hd : (s.core c).down = false) : exec (.bankUnitAbort c b) s = .next ((s.abortBank c b).releaseBank c b) :=
    congrArg Host.Outcome.next (if_neg (by rw [hd]; decide))
  refine ⟨fun hd => congrArg Host.Outcome.next (if_pos hd), fun hd hquiet hbusy => ?_, fun hd hbusy => ?_,
    fun upto r hrun hgo hu hquiet ha => ?_, ?_, fun upto hgo => if_neg (by rw [hgo]; decide),
    fun upto r hrun hgo hu hquiet ha hduty => ?_, fun r ls hrun hin hw hl hn => ?_, fun r hrun hin ho hc hl => ?_⟩
  · obtain ⟨hh, hc, hm, ho, hf⟩ := hquiet
    obtain ⟨hrun, hqueued, herr, hheld, x, y, hu⟩ := State.abortBank_stops hbusy ho hf
    have hex := hwindow hd
    have htile : (s.abortBank c b).tile c = s.tile c := by rw [hu]; rfl
    have hmem : (s.abortBank c b).mem = s.mem := by rw [hu]
    generalize s.abortBank c b = u at hrun hqueued herr hheld hex htile hmem
    obtain ⟨hbank, z, hz⟩ := State.releaseBank_quiet (hheld.trans hh) (by rw [htile]; exact hc) (by rw [htile]; exact hm)
    exact ⟨_, hex, by rw [hbank, hrun], by rw [hbank, hqueued], by rw [hbank, herr], by rw [hz]; exact hmem⟩
  · obtain ⟨i, j, x, hu⟩ := State.abortBank_busy hbusy
    have hex := hwindow hd
    rw [hu] at hex
    have hself := State.bank_setBank_self ({ s with banks := x } : State) c b
      { s.bank c b with queued := none, inS := i, inQ := j, abort := true }
    have hrelease : ((({ s with banks := x } : State).setBank c b { s.bank c b with
        queued := none, inS := i, inQ := j, abort := true }).releaseBank c b) = ({ s with banks := x } : State).setBank c b
          { s.bank c b with queued := none, inS := i, inQ := j, abort := true } := by
      refine if_pos ?_
      rw [hself, Bool.or_eq_true]
      exact .inl ((Bank.busy_congr rfl rfl rfl rfl).trans hbusy)
    rw [hrelease] at hex
    refine ⟨_, hex, ?_, ?_, ?_, ?_, rfl⟩ <;> rw [hself]
  · obtain ⟨hh, hc, hm, ho, hf⟩ := hquiet
    have hex := safePoint_atOnce hrun hgo hu
    rw [(State.atSafePoint_eq hrun hf ho).1 ha] at hex
    obtain ⟨hstops, x, y, hy⟩ := State.stopRun_after ho hf
    have htile : (s.stopRun c b).tile c = s.tile c := by rw [hy]; rfl
    have hmem : (s.stopRun c b).mem = s.mem := by rw [hy]
    generalize s.stopRun c b = u at hstops hex htile hmem
    obtain ⟨hbank, z, hz⟩ := State.releaseBank_quiet (hstops.held.trans hh) (by rw [htile]; exact hc) (by rw [htile]; exact hm)
    exact ⟨_, hex, by rw [hbank, hstops.run], by rw [hbank, hstops.err], by rw [hz]; exact hmem⟩
  · intro w r hrun hq h7 hquiet hop hn
    obtain ⟨hh, hc, hm, ho, hf⟩ := hquiet
    have hchain : aloneChain w b = [] := if_neg h7
    have hex : exec (.queuedCommandStart c b) s = .next ((s.settleBank c b).releaseBank c b) := rfl
    have hself := State.bank_setBank_self s c b { s.bank c b with queued := none, inS := (s.bank c b).inQ, inQ := none }
    have honly := (State.BankOnly.refl s c b).setBank { s.bank c b with queued := none, inS := (s.bank c b).inQ, inQ := none }
    rw [State.settleBank_starts hrun hq, ← hchain] at hex
    generalize s.setBank c b { s.bank c b with queued := none, inS := (s.bank c b).inQ, inQ := none } = v at hself honly hex
    have hrunOf : (v.bank c b).runOf w (aloneChain w b) (s.bank c b).qid = r := by
      rw [hself, hchain]
      rfl
    obtain ⟨hb, hs⟩ := State.startRun_good (s := v) (c := c) (b := b) (w := w) (id := (s.bank c b).qid)
      (by rw [hrunOf]; exact hop) (.inl (by rw [hrunOf]; exact hn))
    rw [hrunOf] at hs
    generalize v.startRun c b w (aloneChain w b) (s.bank c b).qid = u at hb hs hex
    have hframe : ({ u with banks := s.banks } : State) = s :=
      (congrArg (fun t : State => { t with banks := s.banks }) hb.frame).trans honly.frame
    have htile : u.tile c = s.tile c := by
      have h := congrArg (State.tile · c) hframe
      exact h
    have hmem : u.mem = s.mem := by
      have h := congrArg State.mem hframe
      exact h
    have hheld : (u.bank c b).held = [] := by
      rw [hs.held, hself]
      exact hh
    obtain ⟨hbank, z, hz⟩ := State.releaseBank_quiet hheld (by rw [htile]; exact hc) (by rw [htile]; exact hm)
    exact ⟨_, hex, by rw [hbank, hs.run], by rw [hbank, hs.queued, hself], by rw [hz]; exact hmem⟩
  · obtain ⟨hh, hc, hm, ho, hf⟩ := hquiet
    have hex := safePoint_atOnce hrun hgo hu
    rw [(State.atSafePoint_eq hrun hf ho).2 ha hduty] at hex
    have hself := State.bank_setBank_self s c b { s.bank c b with paused := true }
    obtain ⟨hbank, z, hz⟩ := State.releaseBank_quiet (s := s.setBank c b { s.bank c b with paused := true }) (c := c) (b := b)
      (by rw [hself]; exact hh) hc hm
    exact ⟨_, hex, hbank.trans hself, by rw [hz]; rfl⟩
  · have hself := State.bank_setBank_self s c b { s.bank c b with
      run := some { r with waiting := false }, inS := some (.lists (mergedLists r (s.bank c b) ls)) }
    refine ⟨_, mergedLists r k ls, chainStreamArrival_last hrun hin hw hl hn, by rw [hself], by rw [hself], ?_, fun q hq => ?_, rfl⟩
    · rw [mergedLists, List.length_map, List.length_range]
    · have hget : (mergedLists r k ls).getD q [] = mergeEntries (r.fmt == 1) (ls.getD q []) (tget [] k.lists q) := by
        rw [mergedLists, List.getD_eq_getElem _ _ (by rw [List.length_map, List.length_range]; exact hq), List.getElem_map,
          List.getElem_range]
      rw [hget]
      exact mergeEntries_perm _ _ _
  · obtain ⟨i, j, hk⟩ := State.closeRun_bank (e := 7) hrun
    obtain ⟨x, hx⟩ := State.closeRun_eq (s := s) (c := c) (b := b) (e := 7)
    exact ⟨_, chainBreak_member hrun hin ho hc hl, by rw [hk], by rw [hk], by rw [hx]⟩

end Sys2Proof.Machine
end

section
/-! PROOFS. What the marking down of cores changes, and what the faults of a rig do to it. -/

namespace Sys2Proof.Machine

-- One theorem at a time, as in the tests: the proofs together take too many threads.
set_option Elab.async false

/-! ### Cores marked down -/

/-- The state t is s with cores marked down: cores stay down and sources pending, and but for the parts named nothing changes. -/
structure State.Downs (s t : State) : Prop where
  frame : { t with
    cores := s.cores, tiles := s.tiles, banks := s.banks, yards := s.yards, rigs := s.rigs, adm := s.adm, evt := s.evt
    failures := s.failures } = s
  yard (y : Nat) : { t.yard y with bad := (s.yard y).bad } = s.yard y
  down (n : Nat) (h : (s.core n).down = true) : (t.core n).down = true
  pend (n : Nat) (h : s.evt.pend.getLsbD n = true) : t.evt.pend.getLsbD n = true

section
variable {s t u : State}

theorem State.Downs.refl (s : State) : s.Downs s := ⟨rfl, fun _ => rfl, fun _ h => h, fun _ h => h⟩

theorem State.Downs.trans (h : s.Downs t) (h' : t.Downs u) : s.Downs u where
  frame := (congrArg (fun v : State => { v with
    cores := s.cores, tiles := s.tiles, banks := s.banks, yards := s.yards, rigs := s.rigs, adm := s.adm, evt := s.evt
    failures := s.failures }) h'.frame).trans h.frame
  yard y := (congrArg (fun k : Yard => { k with bad := (s.yard y).bad }) (h'.yard y)).trans (h.yard y)
  down n hn := h'.down n (h.down n hn)
  pend n hn := h'.pend n (h.pend n hn)

theorem State.Downs.mem (h : s.Downs t) : t.mem = s.mem := by
  have hf := congrArg State.mem h.frame
  exact hf

theorem State.downs_raiseSrc (s : State) (n : Nat) : s.Downs (s.raiseSrc n) := by
  obtain ⟨e, he⟩ := s.raiseSrc_eq n
  refine ⟨?_, ?_, ?_, fun m hm => State.raiseSrc_pend_mono n hm⟩ <;> rw [he]
  · exact fun _ => rfl
  · exact fun _ h => h

theorem State.downs_rigCause (s : State) (r : Nat) (b : BitVec 16) : s.Downs (s.rigCause r b) := by
  obtain ⟨e, he⟩ := s.rigCause_eq r b
  refine ⟨?_, ?_, ?_, fun m hm => State.rigCause_pend_mono r b hm⟩ <;> rw [he]
  · exact fun _ => rfl
  · exact fun _ h => h

theorem State.downs_recordFail (s : State) (kind item : Nat) : s.Downs (s.recordFail kind item) := by
  unfold State.recordFail
  split
  · exact State.Downs.refl s
  · split
    · exact ⟨rfl, fun _ => rfl, fun _ h => h, fun _ h => h⟩
    · exact s.downs_raiseSrc 259

theorem State.downs_setBad (s : State) (y : Nat) (b : BitVec 18) : s.Downs (s.setYard y { s.yard y with bad := b }) := by
  refine ⟨rfl, fun z => ?_, fun _ h => h, fun _ h => h⟩
  by_cases h : z = y
  · subst h
    rw [State.yard_setYard_self]
  · rw [State.yard_setYard_ne _ _ h]

theorem State.downs_positionBad (s : State) (record : Bool) (c : Nat) : s.Downs (s.positionBad record c) := by
  unfold State.positionBad
  dsimp only
  split
  · have h := s.downs_setBad (yardOf c) ((s.yard (yardOf c)).bad ||| BitVec.twoPow 18 ‹Nat›)
    split
    · exact h.trans (State.downs_recordFail _ _ _)
    · exact h
  · exact State.Downs.refl s

theorem State.downs_setCore (s : State) (c : Nat) (k : Core) (hk : (s.core c).down = true → k.down = true) : s.Downs (s.setCore c k) := by
  refine ⟨rfl, fun _ => rfl, fun n hn => ?_, fun _ h => h⟩
  by_cases h : n = c
  · subst h
    rw [State.core_setCore_self]
    exact hk hn
  · rw [State.core_setCore_ne _ _ h]
    exact hn

theorem State.downs_stopTile (s : State) (c : Nat) : s.Downs (s.stopTile c) := by
  obtain ⟨t, x, h⟩ := s.stopTile_eq c
  rw [h]
  exact ⟨rfl, fun _ => rfl, fun _ h => h, fun _ h => h⟩

theorem State.downs_coreGone (s : State) (record : Bool) (c : Nat) : s.Downs (s.coreGone record c) :=
  (((s.downs_positionBad record c).trans (State.downs_setCore _ c _ fun _ => rfl)).trans (State.downs_stopTile _ c)).trans
    (State.downs_raiseSrc _ _)

/-- A core that is stopped is down where it was. -/
theorem State.stopOne_down (s : State) (r cause c n : Nat) : ((s.stopOne r cause c).core n).down = (s.core n).down := by
  by_cases h : n = c
  · subst h
    rw [State.stopOne_core_self]
    unfold Core.stoppedBy
    split
    · rfl
    · split <;> rfl
  · rw [State.stopOne_core_ne _ _ _ _ _ h]

theorem State.downs_report (s : State) (r c : Nat) (st : Stop) : s.Downs (s.report r c st) := by
  cases h : (s.rig r).running with
  | none =>
    have hrig : ((s.modCmd r fun m => { m.keepReport s.adm.now c st with stopped := m.stopped ||| BitVec.twoPow 4096 c }).rig r).running =
        none := by
      unfold State.modCmd
      rw [State.rig_setRig_self, h]
      rfl
    have heq : s.report r c st = s.modCmd r fun m => { m.keepReport s.adm.now c st with stopped := m.stopped ||| BitVec.twoPow 4096 c } := by
      unfold State.report State.stopCores
      dsimp only
      rw [hrig]
    rw [heq]
    exact ⟨rfl, fun _ => rfl, fun _ h => h, fun _ h => h⟩
  | some m =>
    have hf := State.report_frame (c := c) st h
    refine ⟨?_, fun y => ?_, fun n hn => ?_, fun n hn => ?_⟩
    · exact congrArg (fun v : State => { v with
        cores := s.cores, tiles := s.tiles, banks := s.banks, yards := s.yards, rigs := s.rigs, adm := s.adm, evt := s.evt
        failures := s.failures }) hf
    · have hy := congrArg (State.yard · y) hf
      have hy' : (s.report r c st).yard y = s.yard y := hy
      rw [hy']
    · rw [State.report_eq st h, State.settle_core]
      refine State.each_keeps _ (fun t => (t.core n).down = true) _ _ hn fun t m ht => ?_
      rw [State.stopOne_down]
      exact ht
    · have he := congrArg State.evt hf
      have he' : (s.report r c st).evt = s.evt := he
      rw [he']
      exact hn

theorem State.downs_markDown (s : State) (record : Bool) (c : Nat) : s.Downs (s.markDown record c) := by
  cases h : (s.core c).down with
  | true =>
    have heq : s.markDown record c = s := if_pos h
    rw [heq]
    exact State.Downs.refl s
  | false =>
    rw [State.markDown_eq s record c h]
    have hg := s.downs_coreGone record c
    generalize s.coreGone record c = t at hg ⊢
    split
    · exact hg
    next r _ =>
      have hr := hg.trans (t.downs_rigCause r causeDown)
      split
      · split
        · exact hr.trans (State.downs_report _ _ _ _)
        · exact hr
      · exact hr

/-- A core marked down is down. -/
theorem State.markDown_down (s : State) (record : Bool) (c : CoreId) : ((s.markDown record c).core c).down = true := by
  cases h : (s.core c).down with
  | true => exact (s.downs_markDown record c).down c h
  | false => exact congrArg Core.down (s.markDown_core record c h).1

theorem State.downs_markCores (s : State) (record : Bool) (f : Nat → Nat) (js : List Nat) :
    s.Downs (s.each js fun s j => s.markDown record (f j)) :=
  State.each_keeps s (s.Downs ·) _ js (State.Downs.refl s) fun _ _ ht => ht.trans (State.downs_markDown _ _ _)

/-- Every core of a list marked down is down. -/
theorem State.markCores_down (record : Bool) (f : Nat → Nat) (js : List Nat) : ∀ s : State, ∀ j ∈ js,
    (hj : f j < 4096) → ((s.each js fun s j => s.markDown record (f j)).core (f j)).down = true := by
  induction js with
  | nil => exact fun _ _ h => absurd h List.not_mem_nil
  | cons i js ih =>
    intro s j hj hlt
    rcases List.mem_cons.1 hj with rfl | hj
    · exact ((s.markDown record (f j)).downs_markCores record f js).down _ (s.markDown_down record ⟨f j, hlt⟩)
    · exact ih _ j hj hlt

theorem State.downs_markYard (s : State) (record : Bool) (y : Nat) : s.Downs (s.markYard record y) :=
  s.downs_markCores record (16 * y + ·) _

theorem State.markYard_down (s : State) (record : Bool) (y : YardId) {j : Nat} (hj : j < 16) :
    ((s.markYard record y).core (16 * y + j)).down = true := by
  have hy := y.isLt
  exact State.markCores_down record (16 * y.val + ·) (List.range 16) s j (List.mem_range.2 hj) (by omega)

end

/-! ### Sweeps over rigs -/

/-- A change of one rig at a time. -/
structure State.RigSweep (f : State → Nat → State) (g : Rig → Rig) : Prop where
  self (t : State) (n : Nat) : (f t n).rig n = g (t.rig n)
  other (t : State) (n r : Nat) (h : r ≠ n) : (f t n).rig r = t.rig r

theorem State.RigSweep.out {f : State → Nat → State} {g : Rig → Rig} (h : State.RigSweep f g) {s : State} {r : Nat} (rs : List Nat)
    (hr : r ∉ rs) : (s.each rs f).rig r = s.rig r := by
  induction rs generalizing s with
  | nil => rfl
  | cons n rs ih =>
    exact (ih (s := f s n) fun h' => hr (List.mem_cons_of_mem _ h')).trans (h.other s n r fun he => hr (he ▸ List.mem_cons_self))

/-- A sweep changes each rig of the list as told. -/
theorem State.RigSweep.rig {f : State → Nat → State} {g : Rig → Rig} (h : State.RigSweep f g) {s : State} {r : Nat} {rs : List Nat}
    (hd : rs.Nodup) (hr : r ∈ rs) : (s.each rs f).rig r = g (s.rig r) := by
  induction rs generalizing s with
  | nil => exact absurd hr List.not_mem_nil
  | cons n rs ih =>
    obtain ⟨hn, hd'⟩ := List.nodup_cons.1 hd
    rcases List.mem_cons.1 hr with rfl | hr'
    · exact (h.out (s := f s r) rs hn).trans (h.self s r)
    · exact (ih (s := f s n) hd' hr').trans (congrArg g (h.other s n r fun he => hn (he ▸ hr')))

/-- A rig in which a fault begins. -/
def Rig.faulted (k : Rig) (f : HwFault) : Rig :=
  if k.affected f && !k.iv.contains f then { k.move with fault := true, iv := f :: k.iv } else k

/-- A rig for which a fault interval ends. -/
def Rig.unfaulted (k : Rig) (f : HwFault) : Rig :=
  if k.iv.contains f then Rig.refault { k with iv := k.iv.filter (· ≠ f) } else k

section
variable (s : State) (f : HwFault) (r : Nat)

theorem State.rigCause_rig (n : Nat) (b : BitVec 16) : (s.rigCause n b).rig r = s.rig r := by
  obtain ⟨e, he⟩ := s.rigCause_eq n b
  rw [he]
  rfl

/-- The sweep by which a fault begins. -/
theorem faultBegin_sweep : State.RigSweep (fun s r =>
    let k := s.rig r
    if k.affected f && !k.iv.contains f then (s.setRig r { k.move with fault := true, iv := f :: k.iv }).rigCause r causeFlt else s)
    (Rig.faulted · f) where
  self t n := by
    dsimp only [Rig.faulted]
    split
    · rw [State.rigCause_rig, State.rig_setRig_self]
    · rfl
  other t n r h := by
    dsimp only
    split
    · rw [State.rigCause_rig, State.rig_setRig_ne _ _ h]
    · rfl

theorem State.faultBegin_rig : (s.faultBegin f).rig r = if r < 64 then (s.rig r).faulted f else s.rig r := by
  split
  next h => exact (faultBegin_sweep f).rig List.nodup_range (List.mem_range.2 h)
  next h => exact (faultBegin_sweep f).out _ fun h' => h (List.mem_range.1 h')

/-- The sweep by which a fault interval ends. -/
theorem faultEnd_sweep : State.RigSweep (fun s r =>
    let k := s.rig r
    if k.iv.contains f then s.setRig r (Rig.refault { k with iv := k.iv.filter (· ≠ f) }) else s) (Rig.unfaulted · f) where
  self t n := by
    dsimp only [Rig.unfaulted]
    split
    · rw [State.rig_setRig_self]
    · rfl
  other t n r h := by
    dsimp only
    split
    · rw [State.rig_setRig_ne _ _ h]
    · rfl

theorem State.faultEnd_rig : (s.faultEnd f).rig r = if r < 64 then (s.rig r).unfaulted f else s.rig r := by
  split
  next h => exact (faultEnd_sweep f).rig List.nodup_range (List.mem_range.2 h)
  next h => exact (faultEnd_sweep f).out _ fun h' => h (List.mem_range.1 h')

theorem State.downs_faultBegin : s.Downs (s.faultBegin f) := by
  refine State.each_keeps s (s.Downs ·) _ _ (State.Downs.refl s) fun t n ht => ?_
  by_cases hc : ((t.rig n).affected f && !(t.rig n).iv.contains f) = true
  · rw [if_pos hc]
    refine .trans (ht.trans ?_) (State.downs_rigCause _ n causeFlt)
    exact ⟨rfl, fun _ => rfl, fun _ h => h, fun _ h => h⟩
  · rw [if_neg hc]
    exact ht

theorem State.downs_faultEnd : s.Downs (s.faultEnd f) := by
  obtain ⟨r, h⟩ := s.faultEnd_eq f
  rw [h]
  exact ⟨rfl, fun _ => rfl, fun _ h => h, fun _ h => h⟩

theorem State.downs_faultTick : s.Downs (s.faultTick f) := (s.downs_faultBegin f).trans (State.downs_faultEnd _ f)

end

theorem Rig.iv_refault (k : Rig) : k.refault.iv = k.iv := rfl

/-- A rig that a fault affects has its interval open. -/
theorem Rig.faulted_iv {k : Rig} {f : HwFault} (h : k.affected f = true) : f ∈ (k.faulted f).iv := by
  unfold Rig.faulted
  cases hc : k.iv.contains f with
  | true =>
    rw [h, if_neg (by simp)]
    exact List.contains_iff_mem.1 hc
  | false =>
    rw [h, if_pos (by simp)]
    exact List.mem_cons_self

/-- Once its interval has ended, a rig has it open no more. -/
theorem Rig.unfaulted_iv (k : Rig) (f : HwFault) : f ∉ (k.unfaulted f).iv := by
  unfold Rig.unfaulted
  split
  · rw [Rig.iv_refault]
    simp
  next h => exact fun hm => h (List.contains_iff_mem.2 hm)

end Sys2Proof.Machine
end

section
/-! PROOFS. Wires, lanes, routers and clocks of the network (O37; R316 to R318, R322, R490, R491). -/

namespace Sys2Proof.Machine

-- One theorem at a time, as in the tests: the proofs together take too many threads.
set_option Elab.async false

/-! ### Wires -/

/-- The wires of a direction of a link. -/
def Net.wires (w : Net) (l : Link) (dir : Fin 2) : Wires := tget {} w.links (2 * linkKey l + dir.val)

/-- The errors of a wire in a window, with one more. -/
def Net.errors (w : Net) (l : Link) (dir : Fin 2) (wire win : Nat) : Nat :=
  tget 0 (if (w.wires l dir).win = win then (w.wires l dir).errs else []) wire + 1

/-- The network with a wire's errors counted. -/
def Net.counted (w : Net) (l : Link) (dir : Fin 2) (wire win : Nat) (bad : List Nat) : Net :=
  let errs := if (w.wires l dir).win = win then (w.wires l dir).errs else []
  { w with links := tset {} w.links (2 * linkKey l + dir.val) ⟨win, tset 0 errs wire (w.errors l dir wire win), bad⟩ }

theorem two_le_linkWidth (k : LinkKind) : 2 ≤ linkWidth k := by cases k <;> decide

section
variable {s : State} {l : Link} {dir : Fin 2} {wire win : Nat}

/-- The state in which a wire has failed and its failure is recorded. -/
def State.wireGone (s : State) (l : Link) (dir : Fin 2) (wire win : Nat) : State :=
  ({ s with net := s.net.counted l dir wire win ((s.net.wires l dir).bad ++ [wire]) } : State).recordFail 2
    (4000000 + 4096 * (2 * linkKey l + dir.val) + wire)

theorem flitRetransmission_eq (hl : linkOk l = true) (hw : wire < linkWidth l.kind + 8) {fails : Bool}
    (hf : fails = (decide (s.net.errors l dir wire win = 8) && !(s.net.wires l dir).bad.contains wire)) :
    exec (.flitRetransmission l dir wire win) s =
      if !fails then .next { s with net := s.net.counted l dir wire win (if fails then (s.net.wires l dir).bad ++ [wire] else
        (s.net.wires l dir).bad) }
      else
        let u := ({ s with net := s.net.counted l dir wire win (if fails then (s.net.wires l dir).bad ++ [wire] else
          (s.net.wires l dir).bad) } : State).recordFail 2 (4000000 + 4096 * (2 * linkKey l + dir.val) + wire)
        let n := (if fails then (s.net.wires l dir).bad ++ [wire] else (s.net.wires l dir).bad).length
        if n ≤ 8 then .next u
        else if n ≤ 8 + linkWidth l.kind / 2 then .next (u.linkHalf l)
        else .next (({ u.linkHalf l with net := { (u.linkHalf l).net with
          dead := (u.linkHalf l).net.dead ||| BitVec.twoPow 4 (linkMast l) } } : State).markMast (linkMast l)) := by
  have hok : ¬ ((!linkOk l || decide (linkWidth l.kind + 8 ≤ wire)) = true) := by simp [hl]; omega
  subst hf
  exact if_neg hok

/-- An error that fails no wire is counted. -/
theorem flitRetransmission_counts (hl : linkOk l = true) (hw : wire < linkWidth l.kind + 8)
    (h : s.net.errors l dir wire win ≠ 8 ∨ (s.net.wires l dir).bad.contains wire = true) :
    exec (.flitRetransmission l dir wire win) s = .next { s with net := s.net.counted l dir wire win (s.net.wires l dir).bad } := by
  have hfails : false = (decide (s.net.errors l dir wire win = 8) && !(s.net.wires l dir).bad.contains wire) := by
    rcases h with h | h
    · rw [decide_eq_false h, Bool.false_and]
    · rw [h, Bool.not_true, Bool.and_false]
  exact flitRetransmission_eq hl hw hfails

/-- The eighth error of a window fails its wire; past eight failed wires the link is halved. -/
theorem flitRetransmission_fails (hl : linkOk l = true) (hw : wire < linkWidth l.kind + 8)
    (h8 : s.net.errors l dir wire win = 8) (hc : (s.net.wires l dir).bad.contains wire = false) :
    ((s.net.wires l dir).bad.length < 8 → exec (.flitRetransmission l dir wire win) s = .next (s.wireGone l dir wire win)) ∧
    ((s.net.wires l dir).bad.length = 8 →
      exec (.flitRetransmission l dir wire win) s = .next ((s.wireGone l dir wire win).linkHalf l)) := by
  have hfails : true = (decide (s.net.errors l dir wire win = 8) && !(s.net.wires l dir).bad.contains wire) := by
    rw [h8, hc]
    rfl
  have hex := flitRetransmission_eq hl hw hfails
  have hlen : ((s.net.wires l dir).bad ++ [wire]).length = (s.net.wires l dir).bad.length + 1 := by simp
  have hwidth := two_le_linkWidth l.kind
  constructor
  · intro h
    exact hex.trans ((if_neg Bool.false_ne_true).trans (if_pos (by show ((s.net.wires l dir).bad ++ [wire]).length ≤ 8; omega)))
  · intro h
    exact hex.trans ((if_neg Bool.false_ne_true).trans ((if_neg (by show ¬ ((s.net.wires l dir).bad ++ [wire]).length ≤ 8; omega)).trans
      (if_pos (by show ((s.net.wires l dir).bad ++ [wire]).length ≤ _; omega))))

/-- What the halving of a link changes. -/
theorem State.linkHalf_after (s : State) (l : Link) : (s.linkHalf l).net.half.contains (linkKey l) = true ∧
    (s.linkHalf l).net.links = s.net.links ∧ (s.linkHalf l).mem = s.mem ∧ (s.linkHalf l).cores = s.cores := by
  cases h : s.net.half.contains (linkKey l) with
  | true =>
    have heq : s.linkHalf l = s := if_pos h
    rw [heq]
    exact ⟨h, rfl, rfl, rfl⟩
  | false =>
    obtain ⟨f, hf⟩ : ∃ f, s.linkHalf l = ({ s with net := { s.net with half := s.net.half ++ [linkKey l] } } : State).faultTick f :=
      ⟨_, if_neg (by rw [h]; decide)⟩
    obtain ⟨r, e, he⟩ := ({ s with net := { s.net with half := s.net.half ++ [linkKey l] } } : State).faultTick_eq f
    rw [hf, he]
    refine ⟨?_, rfl, rfl, rfl⟩
    rw [List.contains_iff_mem]
    exact List.mem_append_right _ List.mem_cons_self

/-- A recorded failure is among the failures where there is room, and nothing else changes. -/
theorem State.recordFail_room {s : State} (kind item : Nat) (h : s.failures.length < 1024) :
    (kind, item) ∈ (s.recordFail kind item).failures ∧ ({ s.recordFail kind item with failures := s.failures } : State) = s := by
  unfold State.recordFail
  split
  next hc => exact ⟨List.contains_iff_mem.1 hc, rfl⟩
  · exact ⟨by simp, rfl⟩

end

/-! ### Lanes of stays -/

section
variable {s : State} {n : StayId} {dir : Fin 2} {lane : Fin 272}

/-- The failed lanes of a stay's direction. -/
def State.lanesOf (s : State) (n : StayId) (dir : Fin 2) : Wires := tget {} s.net.stays (2 * n.val + dir.val)

/-- The network with one more failed lane of a stay. -/
def State.laneLost (s : State) (n : StayId) (dir : Fin 2) (lane : Fin 272) : Net :=
  let w : Wires := { s.lanesOf n dir with bad := (s.lanesOf n dir).bad ++ [lane.val] }
  { s.net with stays := tset {} s.net.stays (2 * n.val + dir.val) w }

theorem State.laneLost_bad : (tget ({} : Wires) (s.laneLost n dir lane).stays (2 * n.val + dir.val)).bad =
    (s.lanesOf n dir).bad ++ [lane.val] :=
  congrArg Wires.bad (tget_tset_self ({} : Wires) s.net.stays (2 * n.val + dir.val)
    { s.lanesOf n dir with bad := (s.lanesOf n dir).bad ++ [lane.val] })

/-- The state in which a lane has failed and its failure is recorded. -/
def State.laneGone (s : State) (n : StayId) (dir : Fin 2) (lane : Fin 272) : State :=
  ({ s with net := s.laneLost n dir lane } : State).recordFail 3 (272 * (2 * n.val + dir.val) + lane.val)

/-- The state in which a group of lanes is out. -/
def State.groupOut (s : State) (n : StayId) (out : BitVec 16) : State :=
  { s with net := { s.net with out := tset 0 s.net.out n out } }

theorem stayLaneFailed_eq (h : (s.lanesOf n dir).bad.contains lane.val = false) : exec (.stayLaneFailed n dir lane) s =
    if (((s.lanesOf n dir).bad ++ [lane.val]).filter fun x => stayGroup x = stayGroup lane).length = 2 &&
        !(tget 0 s.net.out n).getLsbD (stayGroup lane) then
      .next (((((s.laneGone n dir lane).groupOut n (tget 0 s.net.out n ||| BitVec.twoPow 16 (stayGroup lane))).bumpGen).faultTick
        .stayLanes).raiseSrc (776 + n.val))
    else .next (s.laneGone n dir lane) := by
  refine if_neg ?_
  show ¬ (s.lanesOf n dir).bad.contains lane.val = true
  rw [h]
  decide

theorem lanes_alike (bad : List Nat) (lane : Fin 272) :
    ((bad ++ [lane.val]).filter fun x => stayGroup x = stayGroup lane).length =
      (bad.filter fun x => stayGroup x = stayGroup lane).length + 1 := by
  rw [List.filter_append, List.length_append]
  simp

/-- What a failed lane leaves of the state with its failure recorded. -/
theorem State.laneGone_eq : ∃ f e, s.laneGone n dir lane = { s with net := s.laneLost n dir lane, failures := f, evt := e } := by
  obtain ⟨f, e, h⟩ := ({ s with net := s.laneLost n dir lane } : State).recordFail_eq 3 (272 * (2 * n.val + dir.val) + lane.val)
  exact ⟨f, e, h⟩

/-- The second failed lane of a group takes it out. -/
theorem stayLaneFailed_out (h : (s.lanesOf n dir).bad.contains lane.val = false)
    (ha : ((s.lanesOf n dir).bad.filter fun x => stayGroup x = stayGroup lane).length = 1)
    (ho : (tget 0 s.net.out n).getLsbD (stayGroup lane) = false) :
    ∃ t, exec (.stayLaneFailed n dir lane) s = .next t ∧ (t.lanesOf n dir).bad = (s.lanesOf n dir).bad ++ [lane.val] ∧ t.mem = s.mem ∧
      tget 0 t.net.out n = tget 0 s.net.out n ||| BitVec.twoPow 16 (stayGroup lane) ∧ t.boot.gen = s.boot.gen + 1 ∧
      t.evt.pend.getLsbD (776 + n.val) = true := by
  have hn := n.isLt
  have hex := stayLaneFailed_eq h
  rw [if_pos (by rw [lanes_alike, ha, ho]; rfl)] at hex
  obtain ⟨f, e, hg⟩ := State.laneGone_eq (s := s) (n := n) (dir := dir) (lane := lane)
  rw [hg] at hex
  generalize hu : State.bumpGen _ = u at hex
  have hpend : ((u.faultTick .stayLanes).raiseSrc (776 + n.val)).evt.pend.getLsbD (776 + n.val) = true :=
    State.raiseSrc_pend (by unfold listedSource; simp; omega) (.inr (by omega)) (by omega)
  obtain ⟨r, e1, h1⟩ := u.faultTick_eq .stayLanes
  obtain ⟨e2, h2⟩ := (u.faultTick .stayLanes).raiseSrc_eq (776 + n.val)
  have heq : (u.faultTick .stayLanes).raiseSrc (776 + n.val) = { u with rigs := r, evt := e2 } := by rw [h2, h1]
  rw [heq] at hex hpend
  refine ⟨_, hex, ?_, ?_, ?_, ?_, hpend⟩ <;> rw [← hu]
  · exact State.laneLost_bad
  · rfl
  · exact tget_tset_self 0 s.net.out n (tget 0 s.net.out n ||| BitVec.twoPow 16 (stayGroup lane))
  · rfl

/-- Another failed lane is recorded. -/
theorem stayLaneFailed_keeps (h : (s.lanesOf n dir).bad.contains lane.val = false)
    (ha : ((s.lanesOf n dir).bad.filter fun x => stayGroup x = stayGroup lane).length ≠ 1 ∨
      (tget 0 s.net.out n).getLsbD (stayGroup lane) = true) :
    ∃ t, exec (.stayLaneFailed n dir lane) s = .next t ∧ (t.lanesOf n dir).bad = (s.lanesOf n dir).bad ++ [lane.val] ∧ t.mem = s.mem ∧
      t.net.out = s.net.out ∧ t.boot = s.boot := by
  have hex := stayLaneFailed_eq h
  rw [if_neg (by
    rw [lanes_alike, Bool.and_eq_true, decide_eq_true_eq, Bool.not_eq_true']
    rintro ⟨h1, h2⟩
    rcases ha with ha | ha
    · exact ha (by omega)
    · exact absurd (ha.symm.trans h2) Bool.noConfusion)] at hex
  obtain ⟨f, e, hg⟩ := State.laneGone_eq (s := s) (n := n) (dir := dir) (lane := lane)
  rw [hg] at hex
  exact ⟨_, hex, State.laneLost_bad, rfl, rfl, rfl⟩

end

/-! ### Router windows -/

section
variable {s : State} {r : Router} {ls : List LinkLoad} {temp : Nat}

/-- The network with a router's window recorded. -/
def Net.windowed (w : Net) (r : Router) (ls : List LinkLoad) (temp : Nat) : Net :=
  { w with loads := (w.loads.filter fun e => e.1 ≠ r) ++ [(r, ls, temp)] }

theorem routerWindowEnd_eq (hr : routerOk r = true)
    (hl : ∀ l ∈ ls, hasDir r l.dir.val = true ∧ l.out ≤ 100 ∧ l.inn ≤ 100 ∧ l.qmax ≤ 100) : exec (.routerWindowEnd r ls temp) s =
    match edgeIndex r with
    | none => .next { s with net := s.net.windowed r ls temp }
    | some e =>
      if 90 ≤ busiest ls || 95 ≤ temp then
        .next (({ s with net := { s.net.windowed r ls temp with hot := true, hotsel := e, hotcnt := satTo 0xFFFF (s.net.hotcnt + 1) } } :
          State).raiseSrc 13)
      else .next { s with net := s.net.windowed r ls temp } := by
  refine if_neg ?_
  rw [hr, Bool.not_true, Bool.false_or, List.any_eq_true]
  rintro ⟨l, hmem, hbad⟩
  obtain ⟨h1, h2, h3, h4⟩ := hl l hmem
  simp [h1] at hbad
  omega

theorem Net.mem_windowed (w : Net) : (r, ls, temp) ∈ (w.windowed r ls temp).loads ∧
    ∀ q, q ≠ r → ∀ x y, (q, x, y) ∈ (w.windowed r ls temp).loads ↔ (q, x, y) ∈ w.loads := by
  refine ⟨List.mem_append_right _ List.mem_cons_self, fun q hq x y => ?_⟩
  unfold Net.windowed
  simp [hq]

end

/-! ### Clocks -/

section
variable {s t : State}

/-- A downed core's yard keeps what its network clock is. -/
theorem State.Downs.netClock (h : s.Downs t) (y : Nat) : (t.yard y).netHold = (s.yard y).netHold ∧ (t.yard y).netDown = (s.yard y).netDown := by
  have hy := h.yard y
  have h1 := congrArg Yard.netHold hy
  have h2 := congrArg Yard.netDown hy
  exact ⟨h1, h2⟩

/-- The state in which the network clocks of a yard have relocked, or failed to. -/
def State.relocked (s : State) (y : YardId) (ok : Bool) : State :=
  let u := s.setYard y { s.yard y with netHold := false, netDown := !ok }
  if u.mastHolds (yardMast y) then u else u.faultEnd (.netHold (yardMast' y))

theorem State.relocked_yard (s : State) (y : YardId) (ok : Bool) : ((s.relocked y ok).yard y).netHold = false ∧
    ((s.relocked y ok).yard y).netDown = !ok ∧ (s.relocked y ok).cores = s.cores := by
  have hself := State.yard_setYard_self s y { s.yard y with netHold := false, netDown := !ok }
  unfold State.relocked
  dsimp only
  split
  · rw [hself]
    exact ⟨rfl, rfl, rfl⟩
  · obtain ⟨r, hr⟩ := (s.setYard y { s.yard y with netHold := false, netDown := !ok }).faultEnd_eq (.netHold (yardMast' y))
    rw [hr]
    have hy : ({ s.setYard y { s.yard y with netHold := false, netDown := !ok } with rigs := r } : State).yard y = _ := hself
    rw [hy]
    exact ⟨rfl, rfl, rfl⟩

theorem networkPllRelock_eq {y : YardId} (h : (s.yard y).netHold = true) (ok : Bool) : exec (.networkPllRelock y ok) s =
    if ok then .next (s.relocked y ok) else .next (((s.relocked y ok).markYard false y).faultTick (.netLost (yardMast' y))) :=
  if_neg (by rw [h]; decide)

/-- With no other yard of the mast holding, the hold of the mast ends. -/
theorem State.relocked_rig {y : YardId} {ok : Bool} (h : ∀ j, j < 256 → j ≠ y.val → (s.yard j).netHold = false) (r : RigId) :
    .netHold (yardMast' y) ∉ ((s.relocked y ok).rig r).iv := by
  have hy := y.isLt
  have hholds : (s.setYard y { s.yard y with netHold := false, netDown := !ok }).mastHolds (yardMast y) = false := by
    rw [State.mastHolds, List.any_eq_false]
    intro i hi
    have hi' := List.mem_range.1 hi
    unfold yardMast
    by_cases he : 64 * (y.val / 64) + i = y.val
    · rw [he, State.yard_setYard_self]
      exact Bool.false_ne_true
    · rw [State.yard_setYard_ne _ _ he, h _ (by omega) he]
      exact Bool.false_ne_true
  unfold State.relocked
  dsimp only
  rw [hholds, if_neg Bool.false_ne_true, State.faultEnd_rig, if_pos r.isLt]
  exact Rig.unfaulted_iv _ _

end

/-- Settles O37. -/
theorem networkWiresAndClocks : Obligations.NetworkWiresAndClocks := by
  unfold Obligations.NetworkWiresAndClocks
  refine ⟨?_, ?_, fun s r ls temp hr => ⟨?_, fun hl => ?_⟩, fun s y => ⟨?_, fun h => ?_, fun h1 h2 => ?_, fun ok h => ?_, fun h ho => ?_,
    fun h => ?_⟩, fun s m => ?_⟩
  · intro s l dir wire win hl hw key w errs n put
    refine ⟨fun h => flitRetransmission_counts hl hw h, fun h8 hc hlt hroom => ?_, fun h8 hc he => ?_⟩
    · obtain ⟨hmem, hframe⟩ := State.recordFail_room (s := { s with net := put (w.bad ++ [wire]) }) 2 (4000000 + 4096 * key + wire) hroom
      refine ⟨_, (flitRetransmission_fails hl hw h8 hc).1 hlt, ?_, hmem, ?_⟩
      · have hnet := congrArg State.net hframe
        exact hnet
      · exact congrArg (fun u : State => { u with net := s.net }) hframe
    · obtain ⟨hhalf, hlinks, hm, hcores⟩ := (s.wireGone l dir wire win).linkHalf_after l
      obtain ⟨f, e, hrec⟩ := ({ s with net := put (w.bad ++ [wire]) } : State).recordFail_eq 2 (4000000 + 4096 * key + wire)
      have hgone : s.wireGone l dir wire win = { s with net := put (w.bad ++ [wire]), failures := f, evt := e } := hrec
      rw [hgone] at hlinks hm hcores
      exact ⟨_, (flitRetransmission_fails hl hw h8 hc).2 he, hhalf, by rw [hgone]; exact hlinks, by rw [hgone]; exact hm,
        by rw [hgone]; exact hcores⟩
  · intro s n dir lane key bad alike
    refine ⟨fun h => if_pos h, fun h => ?_⟩
    by_cases ha : alike = 1
    · cases ho : (tget 0 s.net.out n).getLsbD (stayGroup lane) with
      | false =>
        obtain ⟨t, hex, hbad, hm, hout, hgen, hpend⟩ := stayLaneFailed_out h ha ho
        exact ⟨t, hex, hbad, hm, fun _ _ => ⟨hout, hgen, hpend⟩, fun hne => absurd ha hne⟩
      | true =>
        obtain ⟨t, hex, hbad, hm, hout, hboot⟩ := stayLaneFailed_keeps h (.inr ho)
        exact ⟨t, hex, hbad, hm, fun _ hf => absurd hf Bool.noConfusion, fun hne => absurd ha hne⟩
    · obtain ⟨t, hex, hbad, hm, hout, hboot⟩ := stayLaneFailed_keeps h (.inl ha)
      exact ⟨t, hex, hbad, hm, fun h1 => absurd h1 ha, fun _ => ⟨hout, hboot⟩⟩
  · rintro ⟨l, hmem, hbad⟩
    refine if_pos ?_
    rw [Bool.or_eq_true, List.any_eq_true]
    exact .inr ⟨l, hmem, by rw [hbad]; rfl⟩
  · have hex := routerWindowEnd_eq (s := s) (temp := temp) hr hl
    obtain ⟨hmem, hother⟩ := s.net.mem_windowed (r := r) (ls := ls) (temp := temp)
    cases he : edgeIndex r with
    | none =>
      rw [he] at hex
      exact ⟨_, hex, hmem, hother, rfl, nofun⟩
    | some e =>
      rw [he] at hex
      dsimp only at hex
      by_cases hhot : 90 ≤ busiest ls ∨ 95 ≤ temp
      · rw [if_pos (by simpa using hhot)] at hex
        generalize hu : ({ s with net := { s.net.windowed r ls temp with
          hot := true, hotsel := e, hotcnt := satTo 0xFFFF (s.net.hotcnt + 1) } } : State) = u at hex
        have hpend : (u.raiseSrc 13).evt.pend.getLsbD 13 = true := State.raiseSrc_pend rfl (.inl (by decide)) (by decide)
        obtain ⟨ev, hev⟩ := u.raiseSrc_eq 13
        rw [hev] at hex hpend
        refine ⟨_, hex, ?_, ?_, ?_, fun e' he' => ⟨fun _ => ⟨?_, ?_, ?_, hpend⟩, fun h1 h2 => absurd hhot (by omega)⟩⟩
        · rw [← hu]
          exact hmem
        · rw [← hu]
          exact hother
        · rw [← hu]
        · rw [← hu]
        · rw [← hu]
          exact Option.some.inj he'
        · rw [← hu]
          exact satTo_succ _
      · rw [if_neg (by simpa using hhot)] at hex
        exact ⟨_, hex, hmem, hother, rfl, fun e' _ => ⟨fun h => absurd h hhot, fun _ _ => ⟨rfl, rfl⟩⟩⟩
  · have hdowns := (s.downs_markYard true y).trans (State.downs_raiseSrc (s.markYard true y) (1024 + 4 * y.val + 0))
    exact ⟨_, rfl, fun j hj => (State.downs_raiseSrc (s.markYard true y) (1024 + 4 * y.val + 0)).down _ (s.markYard_down true y hj),
      hdowns.mem, State.yardEvent_pend y.isLt⟩
  · exact if_pos (by rw [Bool.or_eq_true]; exact h)
  · have hex : exec (.networkPllLoss y) s = .next (((s.setYard y { s.yard y with netHold := true }).yardEvent y 0).faultBegin
        (.netHold (yardMast' y))) := if_neg (by rw [h1, h2]; decide)
    have hself := State.yard_setYard_self s y { s.yard y with netHold := true }
    have hpend : ((s.setYard y { s.yard y with netHold := true }).yardEvent y 0).evt.pend.getLsbD (1024 + 4 * y.val) = true :=
      State.yardEvent_pend y.isLt
    have hd1 : (s.setYard y { s.yard y with netHold := true }).Downs ((s.setYard y { s.yard y with netHold := true }).yardEvent y 0) :=
      State.downs_raiseSrc _ _
    have hrig (r : RigId) : ((s.setYard y { s.yard y with netHold := true }).yardEvent y 0).rig r = s.rig r := by
      obtain ⟨e, he⟩ := (s.setYard y { s.yard y with netHold := true }).raiseSrc_eq (1024 + 4 * y.val + 0)
      rw [State.yardEvent, he]
      rfl
    generalize (s.setYard y { s.yard y with netHold := true }).yardEvent y 0 = u at hex hpend hd1 hrig
    have hd2 := u.downs_faultBegin (.netHold (yardMast' y))
    refine ⟨_, hex, ?_, hd2.pend _ hpend, fun r hm => ?_⟩
    · rw [((hd1.trans hd2).netClock y).1, hself]
    · rw [State.faultBegin_rig, if_pos r.isLt, hrig]
      exact Rig.faulted_iv hm
  · exact if_pos (by rw [h]; rfl)
  · have hex := (networkPllRelock_eq h true).trans (if_pos rfl)
    obtain ⟨h1, h2, h3⟩ := s.relocked_yard y true
    exact ⟨_, hex, h1, h2, h3, fun r => State.relocked_rig ho r⟩
  · have hex := (networkPllRelock_eq h false).trans (if_neg Bool.false_ne_true)
    obtain ⟨h1, h2, -⟩ := s.relocked_yard y false
    generalize s.relocked y false = u at hex h1 h2
    have hd := u.downs_markYard false y
    have hd2 := (u.markYard false y).downs_faultTick (.netLost (yardMast' y))
    obtain ⟨h3, h4⟩ := (hd.trans hd2).netClock y
    exact ⟨_, hex, h3.trans h1, h4.trans h2, fun j hj => hd2.down _ (u.markYard_down false y hj)⟩
  · have hm := m.isLt
    generalize hu : ({ s with net := { s.net with refLost := s.net.refLost ||| BitVec.twoPow 4 m.val } } : State) = u
    have hex : exec (.spreaderReferenceLoss m) s = .next ((u.raiseSrc (8 + m.val)).faultTick (.spreader m)) := hu ▸ rfl
    have hpend : (u.raiseSrc (8 + m.val)).evt.pend.getLsbD (8 + m.val) = true :=
      State.raiseSrc_pend (by unfold listedSource; simp; omega) (.inl (by omega)) (by omega)
    have hpend' := ((u.raiseSrc (8 + m.val)).downs_faultTick (.spreader m)).pend _ hpend
    obtain ⟨e, he⟩ := u.raiseSrc_eq (8 + m.val)
    obtain ⟨r, e', he'⟩ := (u.raiseSrc (8 + m.val)).faultTick_eq (.spreader m)
    have heq : (u.raiseSrc (8 + m.val)).faultTick (.spreader m) = { u with rigs := r, evt := e' } := by rw [he', he]
    rw [heq] at hex hpend'
    refine ⟨_, hex, ?_, hpend', ?_, ?_⟩ <;> rw [← hu]

end Sys2Proof.Machine
end

section
/-! PROOFS. Fault intervals, floors and power shares (O38; R332 to R334, R349, R410). -/

namespace Sys2Proof.Machine

-- One theorem at a time, as in the tests: the proofs together take too many threads.
set_option Elab.async false

/-! ### Fault intervals -/

section
variable {s : State} {f : HwFault}

/-- A fault that lasts holds new accesses of its halyard; no other changes a tile. -/
theorem State.holdHalyard_on (s : State) (f : HwFault) : ({ s.holdHalyard f true with tiles := s.tiles } : State) = s ∧
    (∀ c, f = .halyardHold c → ((s.holdHalyard f true).tile c).hold = !(s.core c).down) ∧
    ∀ n, (∀ c : CoreId, f = .halyardHold c → n ≠ c.val) → (s.holdHalyard f true).tile n = s.tile n := by
  cases f
  case halyardHold c =>
    refine ⟨rfl, fun c' h => ?_, fun n hn => State.tile_setTile_ne _ _ (hn c rfl)⟩
    obtain rfl := HwFault.halyardHold.inj h
    exact congrArg Tile.hold (State.tile_setTile_self s c { s.tile c with hold := true && !(s.core c).down })
  all_goals exact ⟨rfl, nofun, fun _ _ => rfl⟩

/-- The end of a hold serves what waited, where anything did. -/
theorem State.holdHalyard_off (s : State) (f : HwFault) (hq : ∀ c, f = .halyardHold c → (s.tile c).cq = [] ∧ (s.tile c).mq = []) :
    ({ s.holdHalyard f false with tiles := s.tiles } : State) = s ∧
      ∀ c, f = .halyardHold c → ((s.holdHalyard f false).tile c).hold = false := by
  cases f
  case halyardHold c =>
    have hself := State.tile_setTile_self s c { s.tile c with hold := false && !(s.core c).down }
    have heq : s.holdHalyard (.halyardHold c) false = s.setTile c { s.tile c with hold := false && !(s.core c).down } :=
      State.serveTileQueues_empty (by rw [hself]; exact (hq c rfl).1) (by rw [hself]; exact (hq c rfl).2)
    rw [heq]
    refine ⟨rfl, fun c' h => ?_⟩
    obtain rfl := HwFault.halyardHold.inj h
    rw [hself, Bool.false_and]
  all_goals exact ⟨rfl, nofun⟩

theorem State.rig_of_tilesFrame {t : State} (h : ({ t with tiles := s.tiles } : State) = s) (r : Nat) : t.rig r = s.rig r := by
  have hr := congrArg State.rigs h
  exact State.rig_congr hr r

/-- A rig source is pending once its causes are raised, where the rig holds a core. -/
theorem State.rigCause_pend {r : Nat} (hr : r < 64) (b : BitVec 16) (hc : (s.rig r).cores ≠ 0) :
    (s.rigCause r b).evt.pend.getLsbD (128 + r) = true := by
  have hlist : listedSource (128 + r) = true := by
    unfold listedSource
    simp
    omega
  have hcores : ((({ s with evt := { s.evt with cause := tset 0 s.evt.cause r (tget 0 s.evt.cause r ||| b) } } : State).rig
      (128 + r - 128)).cores == 0) = false := by
    rw [Nat.add_sub_cancel_left, beq_eq_false_iff_ne]
    exact hc
  unfold State.rigCause State.raiseSrc
  split
  next h =>
    rw [hlist, hcores] at h
    simpa using h
  · rw [State.noteDue_pend, BitVec.getLsbD_or, BitVec.getLsbD_twoPow]
    simp
    omega

/-- The beginning of a fault raises the source of a rig it affects. -/
theorem State.faultBegin_pend {r : Nat} (hr : r < 64) (ha : (s.rig r).affected f = true) (hf : f ∉ (s.rig r).iv)
    (hc : (s.rig r).cores ≠ 0) : (s.faultBegin f).evt.pend.getLsbD (128 + r) = true := by
  have hcond : ((s.rig r).affected f && !(s.rig r).iv.contains f) = true := by
    rw [ha, Bool.true_and, Bool.not_eq_true', ← Bool.not_eq_true, List.contains_iff_mem]
    exact hf
  have hgo : ∀ (rs : List Nat) (t : State), r ∈ rs → t.rig r = s.rig r → (t.each rs fun s r =>
      let k := s.rig r
      if k.affected f && !k.iv.contains f then (s.setRig r { k.move with fault := true, iv := f :: k.iv }).rigCause r causeFlt
      else s).evt.pend.getLsbD (128 + r) = true := by
    intro rs
    induction rs with
    | nil => exact fun _ h => absurd h List.not_mem_nil
    | cons n rs ih =>
      intro t hmem ht
      by_cases hn : r = n
      · subst hn
        have hpend : ((t.setRig r { (t.rig r).move with fault := true, iv := f :: (t.rig r).iv }).rigCause r causeFlt).evt.pend.getLsbD
            (128 + r) = true := State.rigCause_pend hr causeFlt (by rw [State.rig_setRig_self, ht]; exact hc)
        refine State.each_keeps _ (fun u => u.evt.pend.getLsbD (128 + r) = true) _ rs ?_ fun u m hu => ?_
        · rw [← ht] at hcond
          dsimp only
          rw [if_pos hcond]
          exact hpend
        · dsimp only
          split
          · exact State.rigCause_pend_mono m causeFlt hu
          · exact hu
      · exact ih _ ((List.mem_cons.1 hmem).resolve_left hn) (((faultBegin_sweep f).other t n r hn).trans ht)
  exact hgo (List.range 64) s (List.mem_range.2 hr) rfl

theorem faultIntervalStart_eq (s : State) (f : HwFault) : exec (.faultIntervalStart f) s =
    .next (if faultLasts f then (s.holdHalyard f true).faultBegin f else s.faultTick f) := rfl

theorem Rig.faulted_new {k : Rig} (ha : k.affected f = true) (hf : f ∉ k.iv) :
    k.faulted f = { k.move with fault := true, iv := f :: k.iv } := by
  refine if_pos ?_
  rw [ha, Bool.true_and, Bool.not_eq_true', ← Bool.not_eq_true, List.contains_iff_mem]
  exact hf

theorem Rig.faulted_unaffected {k : Rig} (ha : k.affected f = false) : k.faulted f = k :=
  if_neg (by rw [ha, Bool.false_and]; decide)

theorem Rig.unfaulted_none {k : Rig} (hf : f ∉ k.iv) : k.unfaulted f = k :=
  if_neg (by rw [List.contains_iff_mem]; exact hf)

theorem Rig.unfaulted_some {k : Rig} (hf : f ∈ k.iv) : k.unfaulted f = Rig.refault { k with iv := k.iv.filter (· ≠ f) } :=
  if_pos (by rw [List.contains_iff_mem]; exact hf)

/-- The intervals of a rig that stay open. -/
theorem Rig.mem_unfaulted_iv {k : Rig} {g : HwFault} (hg : g ≠ f) : g ∈ (k.unfaulted f).iv ↔ g ∈ k.iv := by
  by_cases hf : f ∈ k.iv
  · rw [Rig.unfaulted_some hf, Rig.iv_refault]
    simp [hg]
  · rw [Rig.unfaulted_none hf]

/-- A fault of a single tick leaves a rig as it was but for its moved abort points. -/
theorem Rig.ticked {k : Rig} (ha : k.affected f = true) (hf : f ∉ k.iv) :
    (k.faulted f).unfaulted f = Rig.refault { k.move with fault := true } := by
  rw [Rig.faulted_new ha hf, Rig.unfaulted_some List.mem_cons_self]
  have hfilter : (f :: k.iv).filter (· ≠ f) = k.iv := by
    rw [List.filter_cons_of_neg (by simp), List.filter_eq_self]
    intro g hg
    simp only [ne_eq, decide_eq_true_eq]
    exact fun he => hf (he ▸ hg)
  dsimp only
  rw [hfilter]
  rfl

end

/-! ### Floors and shares -/

/-- A rig whose pending share takes effect, where no command waits on it. -/
def Rig.shareSettled (k : Rig) : Rig :=
  match k.newPwr with
  | some p => if k.freeShare then { k with pwr := p, newPwr := none } else k
  | none => k

/-- Two rigs with the same share, in effect and pending. -/
def Rig.SameShare (k k' : Rig) : Prop := k'.pwr = k.pwr ∧ k'.newPwr = k.newPwr

section
variable {s : State}

theorem State.putFloors_frame (s : State) (r : Nat) : ({ s.putFloors r with rigs := s.rigs } : State) = s := by
  unfold State.putFloors
  dsimp only
  split <;> rfl

theorem State.putFloors_other (s : State) {r n : Nat} (h : n ≠ r) : (s.putFloors r).rig n = s.rig n := by
  unfold State.putFloors
  dsimp only
  split
  · rfl
  · exact State.rig_setRig_ne _ _ h

/-- Deriving a rig's figures leaves its shares. -/
theorem State.putFloors_share (s : State) (r n : Nat) : (s.rig n).SameShare ((s.putFloors r).rig n) := by
  by_cases h : n = r
  · subst h
    unfold State.putFloors
    dsimp only
    split
    · exact ⟨rfl, rfl⟩
    · rw [State.rig_setRig_self]
      exact ⟨rfl, rfl⟩
  · rw [State.putFloors_other s h]
    exact ⟨rfl, rfl⟩

theorem State.putAllFloors_share (s : State) (n : Nat) : (s.rig n).SameShare (s.putAllFloors.rig n) :=
  State.each_keeps s (fun t => (s.rig n).SameShare (t.rig n)) _ _ ⟨rfl, rfl⟩ fun t r ⟨h1, h2⟩ =>
    ⟨(t.putFloors_share r n).1.trans h1, (t.putFloors_share r n).2.trans h2⟩

theorem State.putAllFloors_frame (s : State) : ({ s.putAllFloors with rigs := s.rigs } : State) = s :=
  State.each_keeps s (fun t => ({ t with rigs := s.rigs } : State) = s) _ _ rfl fun t r h =>
    (congrArg (fun u : State => { u with rigs := s.rigs }) (t.putFloors_frame r)).trans h

/-- The sweep that settles shares. -/
theorem shareSettled_sweep : State.RigSweep (fun s r =>
    let k := s.rig r
    match k.newPwr with
    | some p => if k.freeShare then s.setRig r { k with pwr := p, newPwr := none } else s
    | none => s) Rig.shareSettled where
  self t n := by
    dsimp only
    unfold Rig.shareSettled
    split
    · split
      · rw [State.rig_setRig_self]
      · rfl
    · rfl
  other t n r h := by
    dsimp only
    split
    · split
      · exact State.rig_setRig_ne _ _ h
      · rfl
    · rfl

/-- The state in which the pending floor has taken effect, where no command waits on it. -/
def State.floorSettled (s : State) : State :=
  if s.pwr.newFloor ≠ 0 && (List.range 64).all fun r => (s.rig r).freeFloor then
    { s with pwr := { s.pwr with floor := s.pwr.newFloor, newFloor := 0 } } else s

/-- The state in which the pending shares have taken effect. -/
def State.sharesSettled (s : State) : State :=
  s.each (List.range 64) fun s r =>
    let k := s.rig r
    match k.newPwr with
    | some p => if k.freeShare then s.setRig r { k with pwr := p, newPwr := none } else s
    | none => s

theorem State.settleFloors_eq (s : State) : s.settleFloors = s.floorSettled.sharesSettled.putAllFloors := rfl

theorem State.floorSettled_eq (s : State) : ∃ p, s.floorSettled = { s with pwr := p } := by
  unfold State.floorSettled
  split <;> exact ⟨_, rfl⟩

theorem State.sharesSettled_frame (s : State) : ({ s.sharesSettled with rigs := s.rigs } : State) = s := by
  refine State.each_keeps s (fun t => ({ t with rigs := s.rigs } : State) = s) _ _ rfl fun t r h => ?_
  dsimp only
  split
  · split <;> exact h
  · exact h

/-- What settling leaves of the device: all but the floors and the rigs. -/
theorem State.settleFloors_frame (s : State) : ({ s.settleFloors with rigs := s.rigs } : State) = s.floorSettled := by
  obtain ⟨p, hp⟩ := s.floorSettled_eq
  rw [State.settleFloors_eq, hp]
  have h1 := State.sharesSettled_frame ({ s with pwr := p } : State)
  generalize ({ s with pwr := p } : State).sharesSettled = t at h1 ⊢
  have h3 := t.putAllFloors_frame
  generalize t.putAllFloors = u at h3 ⊢
  exact (congrArg (fun v : State => { v with rigs := s.rigs }) h3).trans h1

/-- Settling leaves a rig the shares that its own settling does. -/
theorem State.settleFloors_share (s : State) {r : Nat} (hr : r < 64) : (s.rig r).shareSettled.SameShare (s.settleFloors.rig r) := by
  obtain ⟨p, hp⟩ := s.floorSettled_eq
  rw [State.settleFloors_eq, hp]
  have h := State.putAllFloors_share (({ s with pwr := p } : State).sharesSettled) r
  have hrig : (({ s with pwr := p } : State).sharesSettled).rig r = (s.rig r).shareSettled :=
    shareSettled_sweep.rig List.nodup_range (List.mem_range.2 hr)
  rw [hrig] at h
  exact h

theorem Rig.shareSettled_free {k : Rig} {p : Nat} (hp : k.newPwr = some p) (hf : k.freeShare = true) :
    k.shareSettled = { k with pwr := p, newPwr := none } := by
  unfold Rig.shareSettled
  rw [hp]
  exact if_pos hf

theorem Rig.shareSettled_held {k : Rig} (hf : k.freeShare = false) : k.shareSettled = k := by
  unfold Rig.shareSettled
  split
  · exact if_neg (by rw [hf]; decide)
  · rfl

/-- The sum of the shares of the rigs but one. -/
def State.otherShares (s : State) (r : Nat) : Nat := (((List.range 64).filter (· ≠ r)).map fun i => (s.rig i).share).foldl (· + ·) 0

theorem State.writeShare_over {s : State} {r p : Nat} (h : 1024 < s.otherShares r + p) : s.writeShare r p = s := by
  unfold State.writeShare
  unfold State.otherShares at h
  dsimp only
  rw [if_pos h]

theorem State.writeShare_held {s : State} {r p : Nat} (h : s.otherShares r + p ≤ 1024)
    (hw : (s.rig r).worseAt s.pwr.floor p = true) :
    s.writeShare r p = (s.setRig r { (s.rig r).holdShare with newPwr := some p }).settleFloors := by
  unfold State.writeShare
  unfold State.otherShares at h
  dsimp only
  rw [if_neg (Nat.not_lt.2 h), if_pos hw]

theorem State.writeShare_now {s : State} {r p : Nat} (h : s.otherShares r + p ≤ 1024)
    (hw : (s.rig r).worseAt s.pwr.floor p = false) :
    s.writeShare r p = (s.setRig r { s.rig r with pwr := p, newPwr := none }).putFloors r := by
  unfold State.writeShare
  unfold State.otherShares at h
  dsimp only
  rw [if_neg (Nat.not_lt.2 h), if_neg (by rw [hw]; decide)]

theorem foldl_add_sum (xs : List Nat) : xs.foldl (· + ·) 0 = xs.sum := by
  rw [List.sum_eq_foldl]

end

/-- Settles O38. -/
theorem faultIntervalsAndFloors : Obligations.FaultIntervalsAndFloors := by
  unfold Obligations.FaultIntervalsAndFloors
  refine ⟨fun s f r => ?_, fun s => ?_, fun s r w => ?_⟩
  · intro k
    have hr := r.isLt
    obtain ⟨hon1, hon2, hon3⟩ := s.holdHalyard_on f
    have honrig := State.rig_of_tilesFrame hon1 r
    refine ⟨fun ha hf => ?_, fun ha hf => ?_, fun hq => ?_⟩
    · cases hl : faultLasts f with
      | true =>
        have hex := (faultIntervalStart_eq s f).trans (congrArg Host.Outcome.next (if_pos hl))
        obtain ⟨rg, e, he⟩ := (s.holdHalyard f true).faultBegin_eq f
        have htile (n : Nat) : ((s.holdHalyard f true).faultBegin f).tile n = (s.holdHalyard f true).tile n := by rw [he]; rfl
        refine ⟨_, hex, ?_, fun hc => ?_, ?_, fun c hc => ?_, fun n hn => (htile n).trans (hon3 n hn)⟩
        · rw [State.faultBegin_rig, if_pos hr, honrig, Rig.faulted_new ha hf, if_pos rfl]
        · exact State.faultBegin_pend hr (by rw [honrig]; exact ha) (by rw [honrig]; exact hf) (by rw [honrig]; exact hc)
        · rw [he]
          exact congrArg (fun u : State => { u with rigs := s.rigs, evt := s.evt }) hon1
        · rw [htile]
          exact hon2 c hc
      | false =>
        have hex := (faultIntervalStart_eq s f).trans (congrArg Host.Outcome.next (if_neg (by rw [hl]; decide)))
        obtain ⟨rg, e, he⟩ := s.faultTick_eq f
        refine ⟨_, hex, ?_, fun hc => ?_, by rw [he], fun c hc => ?_, fun n _ => by rw [he]; rfl⟩
        · rw [State.faultTick, State.faultEnd_rig, if_pos hr, State.faultBegin_rig, if_pos hr, Rig.ticked ha hf,
            if_neg Bool.false_ne_true]
        · have h := State.faultBegin_pend hr ha hf hc
          unfold State.faultTick
          generalize s.faultBegin f = t at h ⊢
          exact (State.downs_faultEnd t f).pend _ h
        · rw [hc] at hl
          exact absurd hl Bool.noConfusion
    · cases hl : faultLasts f with
      | true =>
        refine ⟨_, (faultIntervalStart_eq s f).trans (congrArg Host.Outcome.next (if_pos hl)), ?_⟩
        rw [State.faultBegin_rig, if_pos hr, honrig]
        exact Rig.faulted_unaffected ha
      | false =>
        refine ⟨_, (faultIntervalStart_eq s f).trans (congrArg Host.Outcome.next (if_neg (by rw [hl]; decide))), ?_⟩
        rw [State.faultTick, State.faultEnd_rig, if_pos hr, State.faultBegin_rig, if_pos hr, Rig.faulted_unaffected ha]
        exact Rig.unfaulted_none hf
    · obtain ⟨hoff1, hoff2⟩ := s.holdHalyard_off f hq
      have hoffrig := State.rig_of_tilesFrame hoff1 r
      obtain ⟨rg, he⟩ := (s.holdHalyard f false).faultEnd_eq f
      have htile (n : Nat) : ((s.holdHalyard f false).faultEnd f).tile n = (s.holdHalyard f false).tile n := by rw [he]; rfl
      have hrig : ((s.holdHalyard f false).faultEnd f).rig r = k.unfaulted f := by
        rw [State.faultEnd_rig, if_pos hr, hoffrig]
      refine ⟨_, rfl, ?_, ?_, fun c hc => ?_, fun g hg => ?_, fun hf => ?_, fun hiv hmoved hrun => ?_⟩
      · rw [he]
        exact congrArg (fun u : State => { u with rigs := s.rigs }) hoff1
      · rw [hrig]
        exact Rig.unfaulted_iv _ _
      · rw [htile]
        exact hoff2 c hc
      · rw [hrig]
        exact Rig.mem_unfaulted_iv hg
      · rw [hrig]
        exact Rig.unfaulted_none hf
      · rw [hrig, Rig.unfaulted_some (by rw [hiv]; exact List.mem_cons_self)]
        have hnone : k.iv.filter (· ≠ f) = [] := by rw [hiv]; simp
        have hplan : k.plan.any (·.moved) = false := by
          rw [List.any_eq_false]
          intro m hm
          rw [hmoved m hm]
          exact Bool.false_ne_true
        unfold Rig.refault
        dsimp only
        rw [hnone, hplan, hrun]
        simp
  · have hframe := s.settleFloors_frame
    refine ⟨s.settleFloors, rfl, ?_, ?_, fun hn hfree => ?_, fun ⟨r, hr, hfree⟩ => ?_, fun r hr p hp hf => ?_, fun r hr hf => ?_⟩
    · obtain ⟨p, hp⟩ := s.floorSettled_eq
      rw [hp] at hframe
      generalize s.settleFloors = t at hframe ⊢
      have h := congrArg State.mem hframe
      exact h
    · obtain ⟨p, hp⟩ := s.floorSettled_eq
      rw [hp] at hframe
      generalize s.settleFloors = t at hframe ⊢
      have h := congrArg State.cores hframe
      exact h
    · have hset : s.floorSettled = { s with pwr := { s.pwr with floor := s.pwr.newFloor, newFloor := 0 } } := by
        unfold State.floorSettled
        rw [if_pos]
        rw [Bool.and_eq_true, decide_eq_true_eq, List.all_eq_true]
        exact ⟨hn, fun r hr => hfree r (List.mem_range.1 hr)⟩
      rw [hset] at hframe
      generalize s.settleFloors = t at hframe ⊢
      have h1 := congrArg (fun u : State => u.pwr.floor) hframe
      have h2 := congrArg (fun u : State => u.pwr.newFloor) hframe
      exact ⟨h1, h2⟩
    · have hset : s.floorSettled = s := by
        unfold State.floorSettled
        rw [if_neg]
        rw [Bool.and_eq_true, List.all_eq_true]
        exact fun h => absurd ((h.2 r (List.mem_range.2 hr)).symm.trans hfree) Bool.noConfusion
      rw [hset] at hframe
      generalize s.settleFloors = t at hframe ⊢
      have h := congrArg State.pwr hframe
      exact h
    · have h := s.settleFloors_share hr
      rw [Rig.shareSettled_free hp hf] at h
      exact h
    · have h := s.settleFloors_share hr
      rw [Rig.shareSettled_held hf] at h
      exact h
  · intro p others
    have hsum : s.otherShares r = others := foldl_add_sum _
    have hself := State.rig_setRig_self s r
    refine ⟨fun hb => congrArg Host.Outcome.next (if_neg (by rw [hb]; decide)), fun h => ?_, fun hb h hw => ?_, fun hb h hw hp => ?_⟩
    · have hwrite : s.writeShare r p = s := State.writeShare_over (by rw [hsum]; exact h)
      show Host.Outcome.next (if s.bar0On (shareOff r) then s.writeShare r p else s) = _
      rw [hwrite, ite_self]
    · have hwrite : s.writeShare r p = (s.setRig r { s.rig r with pwr := p, newPwr := none }).putFloors r :=
        State.writeShare_now (by rw [hsum]; exact h) hw
      have hex : exec (.rigPwrShareWrite r w) s = .next ((s.setRig r { s.rig r with pwr := p, newPwr := none }).putFloors r) :=
        congrArg Host.Outcome.next ((if_pos hb).trans hwrite)
      obtain ⟨h1, h2⟩ := (s.setRig r { s.rig r with pwr := p, newPwr := none }).putFloors_share r r
      rw [hself] at h1 h2
      refine ⟨_, hex, h1, h2, ?_, fun i hi => ?_⟩
      · exact congrArg (fun u : State => { u with rigs := s.rigs })
          ((s.setRig r { s.rig r with pwr := p, newPwr := none }).putFloors_frame r)
      · exact (State.putFloors_other _ hi).trans (State.rig_setRig_ne _ _ hi)
    · have hwrite : s.writeShare r p = (s.setRig r { (s.rig r).holdShare with newPwr := some p }).settleFloors :=
        State.writeShare_held (by rw [hsum]; exact h) hw
      have hex : exec (.rigPwrShareWrite r w) s = .next (s.setRig r { (s.rig r).holdShare with newPwr := some p }).settleFloors :=
        congrArg Host.Outcome.next ((if_pos hb).trans hwrite)
      have hheld : Rig.freeShare { (s.rig r).holdShare with newPwr := some p } = false := by
        obtain ⟨m, ms, hm⟩ := List.exists_cons_of_ne_nil hp
        unfold Rig.freeShare Rig.holdShare
        dsimp only
        rw [hm]
        rfl
      have hshare := (s.setRig r { (s.rig r).holdShare with newPwr := some p }).settleFloors_share r.isLt
      rw [hself, Rig.shareSettled_held hheld] at hshare
      exact ⟨_, hex, hshare.1, hshare.2⟩

end Sys2Proof.Machine
end

section
/-! PROOFS. What the ending of commands leaves: memory, the queues of the rigs, and the records that wait. -/

namespace Sys2Proof.Machine

-- One theorem at a time, as in the tests: the proofs together take too many threads.
set_option Elab.async false

/-! ### Commands that end -/

/-- The state t is s with commands stopped or ended: no byte changes, no command leaves a queue and no record is lost. -/
structure State.Ends (s t : State) : Prop where
  frame : { t with
    cores := s.cores, rigs := s.rigs, adm := s.adm, scrub := s.scrub, hostMem := s.hostMem, evt := s.evt } = s
  adm : { t.adm with done := s.adm.done } = s.adm
  plan (r : Nat) : (t.rig r).plan = (s.rig r).plan
  cq (r : Nat) : (t.rig r).cq = (s.rig r).cq
  done (d : Done) (h : d ∈ s.adm.done) : d ∈ t.adm.done

section
variable {s t u : State}

theorem State.Ends.refl (s : State) : s.Ends s := ⟨rfl, rfl, fun _ => rfl, fun _ => rfl, fun _ h => h⟩

theorem State.Ends.trans (h : s.Ends t) (h' : t.Ends u) : s.Ends u where
  frame := by
    have h1 := congrArg (fun v : State => { v with
      cores := s.cores, rigs := s.rigs, adm := s.adm, scrub := s.scrub, hostMem := s.hostMem, evt := s.evt }) h'.frame
    exact h1.trans h.frame
  adm := by
    have h1 := congrArg (fun v : Adm => { v with done := s.adm.done }) h'.adm
    exact h1.trans h.adm
  plan r := (h'.plan r).trans (h.plan r)
  cq r := (h'.cq r).trans (h.cq r)
  done d hd := h'.done d (h.done d hd)

theorem State.Ends.mem (h : s.Ends t) : t.mem = s.mem := by
  have hf := congrArg State.mem h.frame
  exact hf

theorem State.Ends.sec (h : s.Ends t) : t.sec = s.sec := by
  have hf := congrArg State.sec h.frame
  exact hf

theorem State.Ends.passed (h : s.Ends t) : t.adm.passed = s.adm.passed := by
  have hf := congrArg Adm.passed h.adm
  exact hf

theorem State.Ends.rerig (h : s.Ends t) : t.adm.rerig = s.adm.rerig := by
  have hf := congrArg Adm.rerig h.adm
  exact hf

theorem State.Ends.rerigQ (h : s.Ends t) : t.adm.rerigQ = s.adm.rerigQ := by
  have hf := congrArg Adm.rerigQ h.adm
  exact hf

/-- A rig that keeps its queues. -/
theorem State.ends_setRig (s : State) (r : Nat) (k : Rig) (h : k.plan = (s.rig r).plan) (h' : k.cq = (s.rig r).cq) :
    s.Ends (s.setRig r k) := by
  refine ⟨rfl, rfl, fun n => ?_, fun n => ?_, fun _ hd => hd⟩ <;> by_cases hn : n = r
  · rw [hn, State.rig_setRig_self, h]
  · rw [State.rig_setRig_ne _ _ hn]
  · rw [hn, State.rig_setRig_self, h']
  · rw [State.rig_setRig_ne _ _ hn]

theorem State.ends_modCmd (s : State) (r : Nat) (f : Cmd → Cmd) : s.Ends (s.modCmd r f) := s.ends_setRig r _ rfl rfl

/-- A record joins those that wait. -/
theorem State.ends_addDone (s : State) (d : Done) : s.Ends (s.setAdm { s.adm with done := s.adm.done ++ [d] }) :=
  ⟨rfl, rfl, fun _ => rfl, fun _ => rfl, fun _ h => List.mem_append_left _ h⟩

theorem State.ends_raiseSrc (s : State) (n : Nat) : s.Ends (s.raiseSrc n) := by
  obtain ⟨e, he⟩ := s.raiseSrc_eq n
  rw [he]
  exact ⟨rfl, rfl, fun _ => rfl, fun _ => rfl, fun _ h => h⟩

theorem State.ends_putSum (s : State) (sum : List (BitVec 64)) (a : Nat) : s.Ends (s.putSum sum a) := by
  unfold State.putSum
  dsimp only
  split <;> exact ⟨rfl, rfl, fun _ => rfl, fun _ => rfl, fun _ h => h⟩

theorem State.ends_regScrubEnd (s : State) (st : BitVec 8) : s.Ends (s.regScrubEnd st) := by
  have h : s.Ends { s with scrub := { s.scrub with busy := false, done := true, status := st, rig := none } } :=
    ⟨rfl, rfl, fun _ => rfl, fun _ => rfl, fun _ h => h⟩
  exact h.trans (State.ends_raiseSrc _ 257)

/-- The summary that a stopped scrub writes before its record. -/
def State.putStopSum (s : State) (r : CRec) (f : Fin') : State :=
  if r.op = 4 && f.status = 0x30 then s.putSum noSum (r.u 40 8) else s

theorem State.ends_putStopSum (s : State) (r : CRec) (f : Fin') : s.Ends (s.putStopSum r f) := by
  unfold State.putStopSum
  split
  · exact s.ends_putSum _ _
  · exact .refl s

theorem State.putStopSum_frame (s : State) (r : CRec) (f : Fin') :
    { s.putStopSum r f with scrub := s.scrub, hostMem := s.hostMem } = s := by
  unfold State.putStopSum State.putSum
  dsimp only
  split
  · split <;> rfl
  · rfl

theorem State.conclude_eq (s : State) (r : CRec) (f : Fin') : s.conclude r f =
    if regStrm ≤ r.strm then (s.putStopSum r f).regScrubEnd f.status
    else (s.putStopSum r f).setAdm { (s.putStopSum r f).adm with done := (s.putStopSum r f).adm.done ++ [{ r := r, fin := f }] } := rfl

theorem State.ends_conclude (s : State) (r : CRec) (f : Fin') : s.Ends (s.conclude r f) := by
  rw [State.conclude_eq]
  split
  · exact (s.ends_putStopSum r f).trans (State.ends_regScrubEnd _ _)
  · exact (s.ends_putStopSum r f).trans (State.ends_addDone _ _)

/-- The outcome of a stream's command waits for its record. -/
theorem State.mem_conclude (s : State) {r : CRec} (f : Fin') (h : r.strm < 256) :
    ({ r := r, fin := f } : Done) ∈ (s.conclude r f).adm.done := by
  rw [State.conclude_eq, if_neg (show ¬ regStrm ≤ r.strm from Nat.not_le.2 h)]
  exact List.mem_append_right _ List.mem_cons_self

/-- An outcome changes no rig and no core. -/
theorem State.conclude_frame (s : State) (r : CRec) (f : Fin') :
    { s.conclude r f with scrub := s.scrub, hostMem := s.hostMem, adm := s.adm, evt := s.evt } = s := by
  have h := s.putStopSum_frame r f
  rw [State.conclude_eq]
  generalize s.putStopSum r f = t at h ⊢
  split
  · obtain ⟨e, he⟩ := ({ t with scrub := { t.scrub with busy := false, done := true, status := f.status, rig := none } } : State).raiseSrc_eq 257
    unfold State.regScrubEnd
    rw [he]
    exact congrArg (fun u : State => { u with adm := s.adm, evt := s.evt }) h
  · exact congrArg (fun u : State => { u with adm := s.adm, evt := s.evt }) h

theorem State.conclude_rigs (s : State) (r : CRec) (f : Fin') : (s.conclude r f).rigs = s.rigs := by
  have h := congrArg State.rigs (s.conclude_frame r f)
  exact h

theorem State.conclude_cores (s : State) (r : CRec) (f : Fin') : (s.conclude r f).cores = s.cores := by
  have h := congrArg State.cores (s.conclude_frame r f)
  exact h

/-- The running command has its outcome. -/
def State.finish (s : State) (r : Nat) (f : Fin') : State := s.modCmd r fun m => { m with fin := some f, upd := {} }

/-- A register-started scrub leaves its rig. -/
def State.leaveReg (s : State) (r : Nat) (f : Fin') : State :=
  (s.setRig r ({ s.rig r with running := none } : Rig).refault).regScrubEnd f.status

theorem State.ends_leaveReg (s : State) (r : Nat) (f : Fin') : s.Ends (s.leaveReg r f) := by
  have h := s.ends_setRig r ({ s.rig r with running := none } : Rig).refault rfl rfl
  unfold State.leaveReg
  generalize s.setRig r ({ s.rig r with running := none } : Rig).refault = t at h ⊢
  exact h.trans (t.ends_regScrubEnd f.status)

theorem State.endRunning_eq {s : State} {r : Nat} {m : Cmd} (f : Fin') (h : (s.rig r).running = some m) :
    s.endRunning r f =
      if regStrm ≤ m.r.strm then ((s.putStopSum m.r f).finish r f).leaveReg r f
      else ((s.putStopSum m.r f).finish r f).setAdm { ((s.putStopSum m.r f).finish r f).adm with
        done := ((s.putStopSum m.r f).finish r f).adm.done ++ [{ r := m.r, rig := some r }] } := by
  rw [State.endRunning, h]
  rfl

theorem State.endRunning_none {s : State} {r : Nat} (f : Fin') (h : (s.rig r).running = none) : s.endRunning r f = s := by
  rw [State.endRunning, h]

theorem State.ends_endRunning (s : State) (r : Nat) (f : Fin') : s.Ends (s.endRunning r f) := by
  cases h : (s.rig r).running with
  | none =>
    rw [State.endRunning_none f h]
    exact .refl s
  | some m =>
    rw [State.endRunning_eq f h]
    have h1 := (s.ends_putStopSum m.r f).trans (State.ends_modCmd _ r fun m => { m with fin := some f, upd := {} })
    unfold State.finish
    generalize (s.putStopSum m.r f).modCmd r (fun m => { m with fin := some f, upd := {} }) = t at h1 ⊢
    split
    · exact h1.trans (t.ends_leaveReg r f)
    · exact h1.trans (t.ends_addDone _)

theorem State.ends_setCore (s : State) (c : Nat) (k : Core) : s.Ends (s.setCore c k) :=
  ⟨rfl, rfl, fun _ => rfl, fun _ => rfl, fun _ h => h⟩

theorem State.ends_stopOne (s : State) (r cause c : Nat) : s.Ends (s.stopOne r cause c) := by
  unfold State.stopOne
  dsimp only
  split
  · exact (s.ends_setCore c _).trans (State.ends_modCmd _ _ _)
  · split
    · exact (s.ends_setCore c _).trans (State.ends_setCore _ _ _)
    · exact .refl s

theorem State.ends_settle (s : State) (r : Nat) : s.Ends (s.settle r) := by
  unfold State.settle
  split
  · split
    · exact s.ends_addDone _
    · exact .refl s
  · exact .refl s

/-- A sweep each of whose steps stops or ends commands. -/
theorem State.ends_each {f : State → Nat → State} (h : ∀ (s : State) (n : Nat), s.Ends (f s n)) (s : State) (xs : List Nat) : s.Ends (s.each xs f) :=
  State.each_keeps s (fun t => s.Ends t) f xs (.refl s) fun t n ht => ht.trans (h t n)

theorem State.ends_stopCores (s : State) (r : Nat) (o : Option Nat) (cause : Nat) : s.Ends (s.stopCores r o cause) := by
  unfold State.stopCores
  split
  · exact .refl s
  next m hm =>
    exact (State.ends_each (fun t c => t.ends_stopOne r cause c) s _).trans (State.ends_settle _ r)

theorem State.ends_stopRunning (s : State) (r cause : Nat) : s.Ends (s.stopRunning r cause) := by
  unfold State.stopRunning
  split
  · exact .refl s
  · split
    · exact .refl s
    · split
      · exact s.ends_endRunning _ _
      · split
        · exact s.ends_endRunning _ _
        · exact (s.ends_modCmd r _).trans (State.ends_stopCores _ _ _ _)

/-! ### Waiting commands that leave -/

/-- The outcomes of commands that leave together. -/
def State.concludeAll (s : State) (f : Fin') (ms : List Cmd) : State := ms.foldl (fun s m => s.conclude m.r f) s

theorem State.ends_concludeAll (s : State) (f : Fin') (ms : List Cmd) : s.Ends (s.concludeAll f ms) := by
  induction ms generalizing s with
  | nil => exact .refl s
  | cons m ms ih => exact (s.ends_conclude m.r f).trans (ih _)

theorem State.mem_concludeAll (s : State) (f : Fin') {ms : List Cmd} {m : Cmd} (hm : m ∈ ms) (h : m.r.strm < 256) :
    ({ r := m.r, fin := f } : Done) ∈ (s.concludeAll f ms).adm.done := by
  induction ms generalizing s with
  | nil => exact absurd hm List.not_mem_nil
  | cons x xs ih =>
    rcases List.mem_cons.1 hm with rfl | hm
    · exact (State.ends_concludeAll _ f xs).done _ (s.mem_conclude f h)
    · exact ih (s.conclude x.r f) hm

theorem State.concludeAll_frame (s : State) (f : Fin') (ms : List Cmd) :
    { s.concludeAll f ms with scrub := s.scrub, hostMem := s.hostMem, adm := s.adm, evt := s.evt } = s := by
  induction ms generalizing s with
  | nil => rfl
  | cons m ms ih =>
    have h := congrArg (fun u : State => { u with scrub := s.scrub, hostMem := s.hostMem, adm := s.adm, evt := s.evt }) (ih (s.conclude m.r f))
    exact h.trans (s.conclude_frame m.r f)

/-- A rig whose waiting commands that satisfy p leave. -/
def Rig.dropped (k : Rig) (p : Cmd → Bool) : Rig :=
  ({ k with plan := k.plan.filter fun m => !p m, cq := k.cq.filter fun m => !p m } : Rig).refault

theorem State.dropWaiting_eq (s : State) (r cause : Nat) (p : Cmd → Bool) : s.dropWaiting r cause p =
    (s.setRig r ((s.rig r).dropped p)).concludeAll (finAborted cause) (((s.rig r).plan ++ (s.rig r).cq).filter p) := rfl

/-- Commands that leave change their rig, the records and what a stopped scrub writes, and nothing else. -/
theorem State.dropWaiting_frame (s : State) (r cause : Nat) (p : Cmd → Bool) :
    { s.dropWaiting r cause p with scrub := s.scrub, hostMem := s.hostMem, adm := s.adm, evt := s.evt, rigs := s.rigs } = s := by
  rw [State.dropWaiting_eq]
  generalize ((s.rig r).plan ++ (s.rig r).cq).filter p = ms
  have h := congrArg (fun u : State => { u with rigs := s.rigs }) ((s.setRig r ((s.rig r).dropped p)).concludeAll_frame (finAborted cause) ms)
  exact h

theorem State.dropWaiting_rigs (s : State) (r cause : Nat) (p : Cmd → Bool) :
    (s.dropWaiting r cause p).rigs = (s.setRig r ((s.rig r).dropped p)).rigs := by
  rw [State.dropWaiting_eq]
  generalize ((s.rig r).plan ++ (s.rig r).cq).filter p = ms
  have h := congrArg State.rigs ((s.setRig r ((s.rig r).dropped p)).concludeAll_frame (finAborted cause) ms)
  exact h

theorem State.dropWaiting_self (s : State) (r cause : Nat) (p : Cmd → Bool) :
    (s.dropWaiting r cause p).rig r = (s.rig r).dropped p :=
  (rig_congr (s.dropWaiting_rigs r cause p) r).trans (State.rig_setRig_self _ _ _)

theorem State.dropWaiting_other (s : State) {r n : Nat} (cause : Nat) (p : Cmd → Bool) (h : n ≠ r) :
    (s.dropWaiting r cause p).rig n = s.rig n :=
  (rig_congr (s.dropWaiting_rigs r cause p) n).trans (State.rig_setRig_ne _ _ h)

theorem State.dropWaiting_mem (s : State) (r cause : Nat) (p : Cmd → Bool) : (s.dropWaiting r cause p).mem = s.mem := by
  have h := congrArg State.mem (s.dropWaiting_frame r cause p)
  exact h

theorem State.dropWaiting_cores (s : State) (r cause : Nat) (p : Cmd → Bool) : (s.dropWaiting r cause p).cores = s.cores := by
  have h := congrArg State.cores (s.dropWaiting_frame r cause p)
  exact h

/-- The records of those that leave join those that wait. -/
theorem State.dropWaiting_done (s : State) (r cause : Nat) (p : Cmd → Bool) {d : Done} (h : d ∈ s.adm.done) :
    d ∈ (s.dropWaiting r cause p).adm.done := by
  rw [State.dropWaiting_eq]
  exact (State.ends_concludeAll _ _ _).done d h

theorem State.mem_dropWaiting (s : State) {r cause : Nat} {p : Cmd → Bool} {m : Cmd} (hm : m ∈ (s.rig r).plan ++ (s.rig r).cq)
    (hp : p m = true) (h : m.r.strm < 256) :
    ({ r := m.r, fin := finAborted cause } : Done) ∈ (s.dropWaiting r cause p).adm.done := by
  rw [State.dropWaiting_eq]
  exact State.mem_concludeAll _ _ (List.mem_filter.2 ⟨hm, hp⟩) h

theorem Rig.mem_dropped_plan {k : Rig} {p : Cmd → Bool} {m : Cmd} : m ∈ (k.dropped p).plan ↔ m ∈ k.plan ∧ ¬ p m = true := by
  show m ∈ k.plan.filter (fun m => !p m) ↔ _
  rw [List.mem_filter, Bool.not_eq_true', Bool.not_eq_true]

theorem Rig.mem_dropped_cq {k : Rig} {p : Cmd → Bool} {m : Cmd} : m ∈ (k.dropped p).cq ↔ m ∈ k.cq ∧ ¬ p m = true := by
  show m ∈ k.cq.filter (fun m => !p m) ↔ _
  rw [List.mem_filter, Bool.not_eq_true', Bool.not_eq_true]

/-! ### The tick advances -/

/-- A later tick counts in the rigs alone, besides itself. -/
theorem State.seeTick_frame (s : State) (now : Nat) :
    { s.seeTick now with rigs := s.rigs } = s.setAdm { s.adm with now := max now s.adm.now } := by
  unfold State.seeTick
  dsimp only
  have h : ∀ t : State, ({ t with rigs := s.rigs } : State) = s →
      ({ t.setAdm { t.adm with now := max now t.adm.now } with rigs := s.rigs } : State) = s.setAdm { s.adm with now := max now s.adm.now } := by
    intro t ht
    have ha : t.adm = s.adm := by
      have h := congrArg State.adm ht
      exact h
    rw [ha]
    exact congrArg (fun u : State => u.setAdm { s.adm with now := max now s.adm.now }) ht
  split
  · exact h s rfl
  · refine h _ (State.each_keeps s (fun t => ({ t with rigs := s.rigs } : State) = s) _ _ rfl fun t r ht => ?_)
    split
    · exact ht
    · exact ht

theorem State.seeTick_adm (s : State) (now : Nat) : (s.seeTick now).adm = { s.adm with now := max now s.adm.now } := by
  have h := congrArg State.adm (s.seeTick_frame now)
  exact h

theorem State.seeTick_mem (s : State) (now : Nat) : (s.seeTick now).mem = s.mem := by
  have h := congrArg State.mem (s.seeTick_frame now)
  exact h

theorem State.seeTick_cores (s : State) (now : Nat) : (s.seeTick now).cores = s.cores := by
  have h := congrArg State.cores (s.seeTick_frame now)
  exact h

/-- A rig once time was counted in it: its reefed time, and the running command's. -/
def Rig.SameButReefs (k k' : Rig) : Prop :=
  ∃ n g, (∀ m : Cmd, { g m with reef := m.reef } = m) ∧ k' = { k with reefs := n, running := k.running.map g }

theorem Rig.SameButReefs.refl (k : Rig) : k.SameButReefs k := ⟨k.reefs, id, fun _ => rfl, by rw [Option.map_id]; rfl⟩

theorem Rig.SameButReefs.trans {a b d : Rig} (h : a.SameButReefs b) (h' : b.SameButReefs d) : a.SameButReefs d := by
  obtain ⟨n, g, hg, rfl⟩ := h
  obtain ⟨n', g', hg', rfl⟩ := h'
  refine ⟨n', g' ∘ g, fun m => ?_, by simp⟩
  exact (congrArg (fun x : Cmd => { x with reef := m.reef }) (hg' (g m))).trans (hg m)

theorem State.seeTick_rig (s : State) (now r : Nat) : (s.rig r).SameButReefs ((s.seeTick now).rig r) := by
  unfold State.seeTick
  dsimp only
  split
  · exact .refl _
  · refine State.each_keeps s (fun t => (s.rig r).SameButReefs (t.rig r)) _ _ (.refl _) fun t q ht => ?_
    split
    · exact ht
    · by_cases hq : r = q
      · subst hq
        rw [State.rig_setRig_self]
        refine ht.trans ⟨_, _, fun m => ?_, rfl⟩
        dsimp only
        split <;> rfl
      · rw [State.rig_setRig_ne _ _ hq]
        exact ht

theorem Rig.SameButReefs.plan {k k' : Rig} (h : k.SameButReefs k') : k'.plan = k.plan := by
  obtain ⟨n, g, hg, rfl⟩ := h
  rfl

theorem Rig.SameButReefs.cq {k k' : Rig} (h : k.SameButReefs k') : k'.cq = k.cq := by
  obtain ⟨n, g, hg, rfl⟩ := h
  rfl

end

end Sys2Proof.Machine
end

section
/-! PROOFS. Command streams: the tail line, fetching, enabling, aborting, and the passing of lines. -/

namespace Sys2Proof.Machine

-- One theorem at a time, as in the tests: the proofs together take too many threads.
set_option Elab.async false

/-! ### Streams that halt -/

theorem State.strm_congr {s t : State} (h : t.strms = s.strms) (n : Nat) : t.strm n = s.strm n := by
  unfold State.strm
  rw [h]

/-- A stream set twice holds the second value; the first must not be the reset value, which would delete the entry. -/
theorem State.setStrm_setStrm (s : State) (n : Nat) {j k : Strm} (hj : j.en = true) (hk : k.en = true) :
    (s.setStrm n j).setStrm n k = s.setStrm n k := by
  have ne {x : Strm} (h : x.en = true) : x ≠ {} := fun he => by
    rw [he] at h
    exact Bool.noConfusion h
  unfold State.setStrm tset
  dsimp only
  rw [if_neg (ne hk), if_neg (ne hj), tput_tput, if_neg (ne hk)]

theorem State.haltStrm_strm (s : State) (n : Nat) (e : BitVec 4) :
    (s.haltStrm n e).strm n = { s.strm n with halt := true, err := e } := by
  obtain ⟨v, hv⟩ := (s.setStrm n { s.strm n with halt := true, err := e }).raiseSrc_eq (512 + n)
  rw [State.haltStrm, hv]
  exact State.strm_setStrm_self _ _ _

theorem listed_strm (n : StreamId) : listedSource (512 + n.val) = true := by
  have h := n.isLt
  unfold listedSource
  simp
  omega

theorem State.haltStrm_pend (s : State) (n : StreamId) (e : BitVec 4) : (s.haltStrm n e).evt.pend.getLsbD (512 + n.val) = true := by
  have h := n.isLt
  exact State.raiseSrc_pend (listed_strm n) (Or.inr (by omega)) (by omega)

/-! ### An abort -/

/-- The step of an abort at one rig: its running command of the stream ends, and those that wait leave. -/
def State.abortRig (n : Nat) (s : State) (r : Nat) : State :=
  let s := match (s.rig r).running with
    | some m =>
      if m.r.strm ≠ n then s
      else if m.fin.isSome then s.modCmd r fun m => { m with fin := m.fin.map Fin'.abort }
      else s.stopRunning r 0x0C
    | none => s
  s.dropWaiting r 0x0C fun m => m.r.strm = n

/-- The records and RERIGs that an abort ends. -/
def State.abortRecords (s : State) (n : Nat) : State :=
  (s.adm.rerigQ.filter fun r => r.strm = n).foldl (fun t r => t.conclude r (finAborted 0x0C))
    (s.setAdm { s.adm with
      done := s.adm.done.map fun d => if d.r.strm = n && d.rig.isNone then { d with fin := d.fin.abort } else d
      rerigQ := s.adm.rerigQ.filter fun r => r.strm ≠ n })

theorem State.strmAbort_eq (s : State) (n : Nat) :
    s.strmAbort n = ((s.dropRerig n).abortRecords n).each (List.range 64) (State.abortRig n) := rfl

/-- The state t holds the queues of s. -/
def State.SameQueues (s t : State) : Prop := ∀ r, (t.rig r).plan = (s.rig r).plan ∧ (t.rig r).cq = (s.rig r).cq

/-- A rig leaves a re-rig with its bindings. -/
def State.leaveRerig (s : State) (r : Nat) : State :=
  let k := s.rig r
  s.setRig r { k with st := if k.cores == 0 && k.regions == 0 then 0 else 1 }

theorem State.ends_leaveRerig (s : State) (r : Nat) : s.Ends (s.leaveRerig r) := s.ends_setRig r _ rfl rfl

theorem State.dropRerig_queues (s : State) (n : Nat) : s.SameQueues (s.dropRerig n) := by
  have h (xs : List Nat) : (s.setAdm { s.adm with rerig := none }).Ends ((s.setAdm { s.adm with rerig := none }).each xs State.leaveRerig) :=
    State.ends_each State.ends_leaveRerig _ xs
  unfold State.dropRerig
  split
  · split
    · exact fun r => ⟨(h _).plan r, (h _).cq r⟩
    · exact fun _ => ⟨rfl, rfl⟩
  · exact fun _ => ⟨rfl, rfl⟩

theorem State.ends_concludeRecs (s : State) (f : Fin') (rs : List CRec) : s.Ends (rs.foldl (fun t r => t.conclude r f) s) := by
  induction rs generalizing s with
  | nil => exact .refl s
  | cons r rs ih => exact (s.ends_conclude r f).trans (ih _)

theorem State.abortRecords_queues (s : State) (n : Nat) : s.SameQueues (s.abortRecords n) := by
  have h := State.ends_concludeRecs (s.setAdm { s.adm with
      done := s.adm.done.map fun d => if d.r.strm = n && d.rig.isNone then { d with fin := d.fin.abort } else d
      rerigQ := s.adm.rerigQ.filter fun r => r.strm ≠ n }) (finAborted 0x0C) (s.adm.rerigQ.filter fun r => r.strm = n)
  exact fun r => ⟨h.plan r, h.cq r⟩

/-- The running command's end in an abort. -/
theorem State.abortRig_eq (s : State) (n r : Nat) : ∃ t, s.Ends t ∧ s.abortRig n r = t.dropWaiting r 0x0C fun m => m.r.strm = n := by
  unfold State.abortRig
  dsimp only
  split
  · split
    · exact ⟨_, .refl s, rfl⟩
    · split
      · exact ⟨_, s.ends_modCmd r _, rfl⟩
      · exact ⟨_, s.ends_stopRunning r _, rfl⟩
  · exact ⟨_, .refl s, rfl⟩

/-- What an abort leaves of rig r: its waiting commands of other streams, and a record for each of this stream's. -/
structure State.Aborted (n : StreamId) (k : Rig) (t : State) (r : Nat) : Prop where
  plan : ∀ m, m ∈ (t.rig r).plan ↔ m ∈ k.plan ∧ m.r.strm ≠ n
  cq : ∀ m, m ∈ (t.rig r).cq ↔ m ∈ k.cq ∧ m.r.strm ≠ n
  done : ∀ m, m ∈ k.plan ++ k.cq → m.r.strm = n → ({ r := m.r, fin := finAborted 0x0C } : Done) ∈ t.adm.done

theorem State.abortRig_done (s : State) (n r : Nat) {d : Done} (h : d ∈ s.adm.done) : d ∈ (s.abortRig n r).adm.done := by
  obtain ⟨t, ht, he⟩ := s.abortRig_eq n r
  rw [he]
  exact t.dropWaiting_done _ _ _ (ht.done d h)

theorem State.abortRig_self (s : State) (n : StreamId) (r : Nat) : State.Aborted n (s.rig r) (State.abortRig n s r) r := by
  obtain ⟨t, ht, he⟩ := s.abortRig_eq n r
  rw [he]
  refine ⟨fun m => ?_, fun m => ?_, fun m hm hn => ?_⟩
  · rw [State.dropWaiting_self, Rig.mem_dropped_plan, ht.plan, decide_eq_true_eq]
  · rw [State.dropWaiting_self, Rig.mem_dropped_cq, ht.cq, decide_eq_true_eq]
  · rw [← ht.plan, ← ht.cq] at hm
    exact t.mem_dropWaiting hm (decide_eq_true hn) (by rw [hn]; exact n.isLt)

theorem State.abortRig_other (s : State) (n : Nat) {r q : Nat} (h : q ≠ r) :
    ((s.abortRig n r).rig q).plan = (s.rig q).plan ∧ ((s.abortRig n r).rig q).cq = (s.rig q).cq := by
  obtain ⟨t, ht, he⟩ := s.abortRig_eq n r
  rw [he, State.dropWaiting_other _ _ _ h]
  exact ⟨ht.plan q, ht.cq q⟩

theorem State.each_abortRig_other (s : State) (n : Nat) {q : Nat} (rs : List Nat) (h : q ∉ rs) :
    ((s.each rs (State.abortRig n)).rig q).plan = (s.rig q).plan ∧ ((s.each rs (State.abortRig n)).rig q).cq = (s.rig q).cq := by
  induction rs generalizing s with
  | nil => exact ⟨rfl, rfl⟩
  | cons r rs ih =>
    rw [List.mem_cons, not_or] at h
    obtain ⟨h1, h2⟩ := ih (State.abortRig n s r) h.2
    obtain ⟨h3, h4⟩ := s.abortRig_other n h.1
    exact ⟨h1.trans h3, h2.trans h4⟩

theorem State.each_abortRig_done (s : State) (n : Nat) (rs : List Nat) {d : Done} (h : d ∈ s.adm.done) :
    d ∈ (s.each rs (State.abortRig n)).adm.done :=
  State.each_keeps s (fun t => d ∈ t.adm.done) _ rs h fun t r ht => t.abortRig_done n r ht

/-- Each rig of a sweep of aborts is aborted. -/
theorem State.each_abortRig (s : State) (n : StreamId) {r : Nat} {rs : List Nat} (hn : rs.Nodup) (hr : r ∈ rs) :
    State.Aborted n (s.rig r) (s.each rs (State.abortRig n)) r := by
  induction rs generalizing s with
  | nil => exact absurd hr List.not_mem_nil
  | cons q qs ih =>
    obtain ⟨hq, hqs⟩ := List.nodup_cons.1 hn
    show State.Aborted n (s.rig r) ((State.abortRig n s q).each qs (State.abortRig n)) r
    rcases List.mem_cons.1 hr with rfl | hr
    · obtain ⟨h1, h2⟩ := (State.abortRig n s r).each_abortRig_other n qs hq
      obtain ⟨hp, hc, hd⟩ := s.abortRig_self n r
      refine ⟨fun m => ?_, fun m => ?_, fun m hm hs => State.each_abortRig_done _ n qs (hd m hm hs)⟩
      · rw [h1]
        exact hp m
      · rw [h2]
        exact hc m
    · have hne : r ≠ q := fun h => hq (h ▸ hr)
      obtain ⟨h1, h2⟩ := s.abortRig_other n hne
      obtain ⟨hp, hc, hd⟩ := ih (State.abortRig n s q) hqs hr
      rw [h1] at hp
      rw [h2] at hc
      rw [h1, h2] at hd
      exact ⟨hp, hc, hd⟩

/-! ### The obligation -/

section
variable (s : State) (n : StreamId)

theorem tailLineSnoop_eq (r : HostRead) (h : (s.strm n).en = true) : exec (.tailLineSnoop n r) s = .next (s.takeTail n r) :=
  congrArg Host.Outcome.next (if_pos h)

theorem State.takeTail_in (x : BitVec 512) (he : (s.strm n).en = true) (h : bits x.toNat 31 0 < s.strmSize n) :
    s.takeTail n (.data x) = s.setStrm n { s.strm n with act := true, tail := BitVec.ofNat 32 (bits x.toNat 31 0) } := by
  have hz : (s.setStrm n { s.strm n with act := true }).strmSize n = s.strmSize n := rfl
  unfold State.takeTail
  dsimp only
  rw [hz, if_neg (Nat.not_le.2 h), State.strm_setStrm_self]
  exact State.setStrm_setStrm s n he he

theorem State.takeTail_out (x : BitVec 512) (h : s.strmSize n ≤ bits x.toNat 31 0) :
    s.takeTail n (.data x) = (s.setStrm n { s.strm n with act := true }).haltStrm n 2 := by
  have hz : (s.setStrm n { s.strm n with act := true }).strmSize n = s.strmSize n := rfl
  unfold State.takeTail
  dsimp only
  rw [hz, if_pos h]

/-- A fetch by a stream that may fetch goes by the first line it reads. -/
theorem fetchCommandLine_idle (l1 l2 : HostRead) (h : (s.strm n).en = false ∨ (s.strm n).halt = true ∨ 64 ≤ (s.strm n).out ∨ s.strmReady n = 0) :
    exec (.fetchCommandLine n l1 l2) s = .next s := by
  refine if_pos ?_
  rcases h with h | h | h | h <;> simp [h]

/-- What enabling needs. -/
def State.mayEnable : Prop :=
  (s.strm n).out = 0 ∧ 6 ≤ s.strmLog2 n ∧ s.strmLog2 n ≤ 16 ∧ (s.strmRig n < 64 ∨ s.strmRig n = 0xFF) ∧ s.boot.pcie = false ∧ s.boot.ph = 5

/-- A stream as enabling leaves it. -/
def Strm.enabled (k : Strm) : Strm :=
  { k with en := true, act := false, head := 0, exp := 0, tail := 0, err := 0, halt := false, fence := false, okN := 0, otherN := 0 }

theorem State.strmEn_good (he : (s.strm n).en = false) (h : s.mayEnable n) :
    s.strmEn n true = s.setStrm n (s.strm n).enabled := by
  obtain ⟨h1, h2, h3, h4, h5, h6⟩ := h
  unfold State.strmEn
  dsimp only
  rw [if_neg (by decide), if_neg (by rw [he]; decide), if_neg]
  · rfl
  · simp [h1, h5, h6]
    omega

theorem State.strmEn_refused (he : (s.strm n).en = false) (h : ¬ s.mayEnable n) :
    s.strmEn n true = s.setStrm n { s.strm n with err := 4 } := by
  unfold State.strmEn
  dsimp only
  rw [if_neg (by decide), if_neg (by rw [he]; decide), if_pos]
  unfold State.mayEnable at h
  simp only [Bool.or_eq_true, Bool.and_eq_true, decide_eq_true_eq]
  by_contra hc
  simp only [not_or, not_and, Bool.not_eq_true, ne_eq, Decidable.not_not] at hc
  obtain ⟨⟨⟨⟨⟨h1, h2⟩, h3⟩, h4⟩, h5⟩, h6⟩ := hc
  exact h ⟨h1, by omega, by omega, by omega, h5, h6⟩

end

/-- Settles O39. -/
theorem streamsFetchEnableAndAbort : Obligations.StreamsFetchEnableAndAbort := by
  unfold Obligations.StreamsFetchEnableAndAbort
  intro s n k
  refine ⟨fun r he => ?_, fun x he h => ?_, fun x he h => ?_, fun he => ?_, ?_, fun l1 l2 h => fetchCommandLine_idle s n l1 l2 h,
    fun r h => ?_, ?_, fun h => congrArg Host.Outcome.next (if_pos h), fun h => ?_, fun now h => ?_, fun now l hl ht => ?_, ?_⟩
  · exact congrArg Host.Outcome.next (if_neg (by rw [he]; decide))
  · rw [tailLineSnoop_eq s n _ he, State.takeTail_in s n x he h]
  · refine ⟨_, (tailLineSnoop_eq s n _ he).trans (congrArg Host.Outcome.next (State.takeTail_out s n x h)), ?_, State.haltStrm_pend _ n 2⟩
    rw [State.haltStrm_strm, State.strm_setStrm_self]
  · refine ⟨_, tailLineSnoop_eq s n _ he, ?_, State.haltStrm_pend _ n 3⟩
    exact (State.haltStrm_strm _ _ _).trans (by rw [State.strm_setStrm_self])
  · intro x l2 b he hh ho hr
    have hgo : (!k.en || k.halt || 64 ≤ k.out || s.strmReady n = 0) = false := by simp [he, hh, ho, hr]
    refine ⟨fun hx hc => ?_, fun hx => ⟨s.haltStrm n 1, ?_, State.haltStrm_strm s n 1, s.haltStrm_pend n 1⟩⟩
    · refine (if_neg (by rw [hgo]; decide)).trans ((if_neg (not_not.2 hx)).trans (if_neg (by rw [hc]; decide)))
    · exact (if_neg (by rw [hgo]; decide)).trans (if_pos hx)
  · have he : s.strmEn n false = s.setStrm n { k with en := false, act := false } := rfl
    show (if !s.strmOn then Host.Outcome.next s else _) = _
    rw [if_neg (by rw [h]; decide), he, if_neg]
    rw [State.strm_setStrm_self]
    exact Bool.false_ne_true
  · intro good fresh h he
    refine ⟨fun hg => ?_, fun hg r => ?_⟩
    · have hen := State.strmEn_good s n he hg
      have hex (r : HostRead) : exec (.strmCtlEn n true r) s = .next ((s.setStrm n fresh).takeTail n r) := by
        show (if !s.strmOn then Host.Outcome.next s else Host.Outcome.next
          (if ((s.strmEn n true).strm n).en && !(s.strm n).en then (s.strmEn n true).takeTail n r else s.strmEn n true)) = _
        rw [if_neg (by rw [h]; decide), hen, if_pos]
        · rfl
        · rw [State.strm_setStrm_self, he]
          rfl
      have hself : (s.setStrm n fresh).strm n = fresh := State.strm_setStrm_self _ _ _
      refine ⟨fun x hx => (hex _).trans ?_, fun r => (hex r).trans ?_⟩
      · have ht := State.takeTail_in (s.setStrm n fresh) n x (by rw [hself]) hx
        rw [hself] at ht
        exact congrArg Host.Outcome.next (ht.trans (State.setStrm_setStrm s n rfl rfl))
      · exact (tailLineSnoop_eq _ n r (by rw [hself])).symm
    · show (if !s.strmOn then Host.Outcome.next s else Host.Outcome.next
        (if ((s.strmEn n true).strm n).en && !(s.strm n).en then (s.strmEn n true).takeTail n r else s.strmEn n true)) = _
      rw [if_neg (by rw [h]; decide), State.strmEn_refused s n he hg, if_neg]
      rw [State.strm_setStrm_self]
      show ¬ (k.en && !k.en) = true
      cases k.en <;> decide
  · refine ⟨_, congrArg Host.Outcome.next (if_pos h), fun r => ?_⟩
    rw [State.strmAbort_eq]
    have hq1 := s.dropRerig_queues n r
    have hq2 := (s.dropRerig n).abortRecords_queues n r
    generalize (s.dropRerig n).abortRecords n = t at hq2 ⊢
    obtain ⟨hp, hc, hd⟩ := t.each_abortRig n List.nodup_range (List.mem_range.2 r.isLt)
    rw [hq2.1, hq1.1] at hp hd
    rw [hq2.2, hq1.2] at hc hd
    exact ⟨hp, hc, hd⟩
  · show execLinePass now s = _
    unfold execLinePass
    dsimp only
    rw [h]
  · show execLinePass now s = _
    unfold execLinePass
    dsimp only
    rw [hl]
    cases s.nextStrm with
    | none => rfl
    | some m => exact if_pos (by simpa using ht)
  · intro now r rest at_ hn hf hop hlast u
    have hadm : u.adm = { s.adm with now := at_ } := by
      have h := (s.setStrm n { k with fetched := rest, fence := decide (r.op = 8) }).seeTick_adm at_
      have hmax : max at_ s.adm.now = at_ := Nat.max_eq_left (Nat.le_max_right _ _)
      rw [State.setStrm_adm, hmax] at h
      exact h
    refine ⟨hadm, ?_⟩
    show execLinePass now s = _
    unfold execLinePass
    dsimp only
    rw [hn]
    dsimp only
    have hf' : (s.strm n.val).fetched = r :: rest := hf
    rw [hf']
    cases hl : s.adm.last with
    | none => exact if_pos hop
    | some l =>
      have hok : ¬ (!decide (l + 16 ≤ max now s.adm.now)) = true := by
        rw [decide_eq_true (hlast l hl)]
        decide
      exact (if_neg hok).trans (if_pos hop)

end Sys2Proof.Machine
end

section
/-! PROOFS. Host accesses: configuration requests, and reads and writes of device memory. -/

namespace Sys2Proof.Machine

-- One theorem at a time, as in the tests: the proofs together take too many threads.
set_option Elab.async false

/-! ### Words of a tile -/

section
variable {a m o : Nat}

theorem wordSize_of_tile (h : place a = .tile m o) : wordSize a = 64 := by
  rw [wordSize, h]

/-- The word of an offset from an aligned base. -/
theorem word_offset {B n : Nat} (hB : B % 64 = 0) (h : B ≤ a) (hn : (a - B) / 0x8000000 = n) (ho : (a - B) % 0x8000000 = o) :
    (a / 64 * 64 - B) / 0x8000000 = n ∧ (a / 64 * 64 - B) % 0x8000000 = o / 64 * 64 := by
  omega

/-- The word of an address of a tile lies in the tile. -/
theorem place_wordOf_tile (h : place a = .tile m o) : place (wordOf a) = .tile m (o / 64 * 64) := by
  obtain ⟨h1, h2, hn, ho⟩ := place_tile h
  have hbase : 0x010000000000 ≤ a := h1
  rw [wordOf, wordSize_of_tile h]
  have h3 : ¬a / 64 * 64 < 0x006000000000 := by omega
  have h4 : tileBase ≤ a / 64 * 64 ∧ a / 64 * 64 < 0x018000000000 := ⟨by rw [tileBase]; omega, by omega⟩
  obtain ⟨h5, h6⟩ := word_offset (B := tileBase) rfl h1 hn ho
  rw [place, if_neg h3, if_pos h4, h5, h6]

/-- A host access meets one word of a tile. -/
theorem wordsOf_hostSpan {n : Nat} (h : place a = .tile m o) (hs : hostSpan a n = true) : wordsOf a n = [wordOf a] := by
  rw [hostSpan, Bool.and_eq_true, decide_eq_true_eq, decide_eq_true_eq] at hs
  obtain ⟨hn, hl⟩ := hs
  rw [wordsOf, if_neg hn, wordSize_of_tile h, ← hl, Nat.sub_self]
  simp

theorem granAt_wordOf_place (s : State) (h : place a = .tile m o) : s.granAt (wordOf a) = s.granAt a := by
  rw [State.granAt, State.granAt, wordOf, wordSize_of_tile h]
  congr 1
  omega

/-- Meeting a word of a tile changes no core. -/
theorem State.meet_cores_tile (s : State) (h : place a = .tile m o) : (s.meet a).1.cores = s.cores := by
  have hce (k u x p : Nat) : (s.countCe k u x p).cores = s.cores := by
    unfold State.countCe
    dsimp only
    split
    · split <;> rfl
    · rfl
  unfold State.meet
  split
  · rfl
  · rw [h]
    unfold State.ownLog
    rw [h]
    exact hce _ _ _ _
  · have hf := congrArg State.cores (State.raiseSrc_frame ({ s with ras := { s.ras with
      ue := satTo 0xFFFFFFFF (s.ras.ue + 1), ueKind := (errUnit a).1, ueUnit := (errUnit a).2 } } : State) 256)
    exact hf

theorem State.writeMark_cores_tile (s : State) (x n : Nat) (h : place a = .tile m o) : (s.writeMark x n a).cores = s.cores := by
  unfold State.writeMark
  split
  · rfl
  · split
    · rfl
    · exact s.meet_cores_tile h
    · exact s.meet_cores_tile h

/-- A host write of a tile changes no core. -/
theorem State.tileWrite_cores {s : State} {bs : List Byte} (h : place a = .tile m o) (hs : hostSpan a bs.length = true)
    (hg : s.granAt a = .written) (hf : s.ras.flipTgt.getLsbD 63 = false) : (s.tileWrite a bs).cores = s.cores := by
  have hw := wordsOf_hostSpan h hs
  have hgw : ∀ w ∈ wordsOf a bs.length, s.granAt w = .written := by
    rw [hw]
    intro w hm
    rw [List.mem_singleton.1 hm, granAt_wordOf_place s h, hg]
  rw [State.tileWrite, State.firstWrites_written hgw, State.putBytes, hw]
  have hc := s.writeMark_cores_tile a bs.length (place_wordOf_tile h)
  have hflip : (s.writeMark a bs.length (wordOf a)).ras.flipTgt = s.ras.flipTgt := ((State.Counts.refl s).writeMark a bs.length (wordOf a)).flipTgt
  split
  · rfl
  · show (State.cores (match place a with | .hbm => _ | _ => _)) = _
    rw [h]
    show (State.flipWrite { s.writeMark a bs.length (wordOf a) with mem := mwrite (s.writeMark a bs.length (wordOf a)).mem a bs } _ _ _).cores = _
    rw [State.flipWrite, if_neg]
    · exact hc
    · rw [State.flipArmed_off]
      · exact Bool.false_ne_true
      · show (s.writeMark a bs.length (wordOf a)).ras.flipTgt.getLsbD 63 = false
        rw [hflip, hf]

end

/-! ### Ranges under an UPDATE -/

theorem State.hideUpd_none {s : State} {w : Bool} {a : Nat} {bs : List Byte} (h : ∀ i, i < bs.length → s.updHides w (a + i) = false) :
    s.hideUpd w a bs = (s, bs) := by
  rw [State.hideUpd, if_neg]
  rw [Bool.not_eq_true, List.any_eq_false]
  intro i hi
  rw [h i (List.mem_range.1 hi)]
  exact Bool.false_ne_true

/-! ### Host accesses -/

section
variable {s : State} {a : Nat}

/-- What a host access of n bytes needs to be taken. -/
def State.hostTakes (s : State) (a n : Nat) : Bool := s.memOn && s.decodes a && hostSpan a n

theorem State.hostTakes_false {n : Nat} (h : s.memOn = false ∨ s.decodes a = false ∨ hostSpan a n = false) :
    (!s.memOn || !s.decodes a || !hostSpan a n) = true := by
  rcases h with h | h | h <;> simp [h]

theorem State.hostTakes_true {n : Nat} (h1 : s.memOn = true) (h2 : s.decodes a = true) (h3 : hostSpan a n = true) :
    ¬(!s.memOn || !s.decodes a || !hostSpan a n) = true := by
  simp [h1, h2, h3]

theorem State.mastLost_of_ne (h : place a ≠ .hbm) : s.mastLost a = false := by
  unfold State.mastLost
  dsimp only
  rw [decide_eq_false h]
  rfl

/-- A host read of clean written bytes of a tile that nothing holds. -/
theorem State.readAt_host_tile {c o n : Nat} (hp : place a = .tile c o) (hs : hostSpan a n = true) (hg : s.granAt a = .written)
    (hm : s.mark (wordOf a) = .none) (hl : s.linked .host a = true) (ho : s.tileOpen c o true = true) :
    s.readAt .host 2 a n = .ok (s.openTile c o) (mread s.mem a n, false) := by
  have hclean := State.tileRead_clean (s := s.openTile c o) (a := a) (n := n) fun w hw => by
    rw [wordsOf_hostSpan hp hs] at hw
    rw [List.mem_singleton.1 hw]
    exact ⟨(granAt_wordOf_place s hp).trans hg, hm⟩
  rw [State.readAt, if_neg (by rw [hl]; decide), hp]
  dsimp only
  rw [if_pos (show s.tileOpen c o (overMesh .host c) = true from ho), hclean]
  rfl

theorem State.writeAt_host_tile {c o : Nat} {bs : List Byte} (hp : place a = .tile c o) (hl : s.linked .host a = true)
    (ho : s.tileOpen c o true = true) : s.writeAt .host 2 a bs = .ok ((s.openTile c o).tileWrite a bs) () := by
  rw [State.writeAt, if_neg (by rw [hl]; decide), hp]
  exact if_pos ho

/-- A poisoned write of a tile's word leaves it uncorrectable. -/
theorem State.poisonWords_tile {c o n : Nat} (hp : place a = .tile c o) (hs : hostSpan a n = true) :
    s.poisonWords a n = s.setMark (wordOf a) .ue := by
  unfold State.poisonWords
  rw [hp, wordsOf_hostSpan hp hs]
  rfl

end

/-- Settles O40. -/
theorem hostReadsAndWrites : Obligations.HostReadsAndWrites := by
  unfold Obligations.HostReadsAndWrites
  refine ⟨fun s q => ⟨fun h => if_pos (by rw [h]; rfl), fun h h5 h6 => ?_, fun h hp => ?_⟩, fun s a n bs poison => ⟨fun h => ?_, fun h => ?_,
    fun h1 h2 h3 h4 => ?_, fun h1 h2 h4 h3 => ⟨fun h => ?_, fun hd hn => ?_, fun c o hp hd hg hm hl ho hu => ?_⟩,
    fun h1 h2 h3 => ⟨fun h => ?_, fun c o hp hd hr hg hl ho hu hf => ?_⟩⟩⟩
  · exact (if_neg (by rw [h]; decide)).trans (if_neg (by simp [h5, h6]))
  · have hex : exec (.configRequest q) s = .next { (s.configured q).1 with rsp := some ((s.configured q).2, false) } :=
      (if_neg (by rw [h]; decide)).trans (if_pos (by simpa using hp))
    exact ⟨fun i base size commit hq => by rw [hex, hq]; rfl, fun on hq => by rw [hex, hq]; rfl, fun hq => by rw [hex, hq]; rfl,
      fun hq => by rw [hex, hq]; rfl⟩
  · exact if_pos (State.hostTakes_false h)
  · exact if_pos (State.hostTakes_false h)
  · exact (if_neg (State.hostTakes_true h1 h2 h3)).trans (if_pos h4)
  · exact (if_neg (State.hostTakes_true h1 h2 h3)).trans ((if_neg (by rw [h4]; decide)).trans (if_pos (by simpa using h)))
  · have hlost : s.mastLost a = false := State.mastLost_of_ne (by rw [hn]; exact Place.noConfusion)
    exact (if_neg (State.hostTakes_true h1 h2 h3)).trans ((if_neg (by rw [h4]; decide)).trans
      ((if_neg (by rw [hd, hlost]; decide)).trans (if_pos hn)))
  · have hlost : s.mastLost a = false := State.mastLost_of_ne (by rw [hp]; exact Place.noConfusion)
    refine (if_neg (State.hostTakes_true h1 h2 h3)).trans ((if_neg (by rw [h4]; decide)).trans
      ((if_neg (by rw [hd, hlost]; decide)).trans ((if_neg (by rw [hp]; exact Place.noConfusion)).trans ?_)))
    have hhide : (s.openTile c o).hideUpd false a (mread s.mem a n) = (s.openTile c o, mread s.mem a n) :=
      State.hideUpd_none fun i hi => hu i (by rwa [mread_length] at hi)
    rw [State.readAt_host_tile hp h3 hg hm hl ho]
    dsimp only
    rw [hhide, hp]
    rfl
  · refine (if_neg (State.hostTakes_true h1 h2 h3)).trans (if_pos ?_)
    rcases h with h | h | h | h <;> simp [h]
  · have hlost : s.mastLost a = false := State.mastLost_of_ne (by rw [hp]; exact Place.noConfusion)
    have hplace : decide (place a = .nowhere) = false := decide_eq_false (by rw [hp]; exact Place.noConfusion)
    have hne : bs ≠ [] := by
      rintro rfl
      exact absurd h3 (by rw [hostSpan]; simp)
    have hgw : ∀ w ∈ wordsOf a bs.length, (s.openTile c o).granAt w = .written := by
      rw [wordsOf_hostSpan hp h3]
      intro w hm
      rw [List.mem_singleton.1 hm]
      exact (granAt_wordOf_place s hp).trans hg
    obtain ⟨u, hu', he⟩ := State.tileWrite_counts hne hgw hf
    have hcores := State.tileWrite_cores (s := s.openTile c o) hp h3 hg hf
    have hex : exec (.hostMemWrite a bs poison) s =
        .next (if poison then ((s.openTile c o).tileWrite a bs).poisonWords a bs.length else (s.openTile c o).tileWrite a bs) := by
      refine (if_neg (State.hostTakes_true h1 h2 h3)).trans ((if_neg (by rw [hplace, hr, hd, hlost]; decide)).trans ?_)
      rw [State.hideUpd_none hu]
      dsimp only
      rw [State.writeAt_host_tile hp hl ho]
    have hrsp : ((s.openTile c o).tileWrite a bs).rsp = s.rsp := by
      have h := congrArg State.rsp hu'.frame
      rw [he]
      exact h
    have hmem : ((s.openTile c o).tileWrite a bs).mem = mwrite s.mem a bs := by rw [he]; rfl
    rw [State.poisonWords_tile hp h3] at hex
    generalize (s.openTile c o).tileWrite a bs = t at hcores hex hrsp hmem
    refine ⟨_, hex, ?_⟩
    have hbytes : mread t.mem a bs.length = bs ∧ ∀ x, x < a ∨ a + bs.length ≤ x → mget t.mem x = mget s.mem x := by
      rw [hmem]
      exact ⟨mread_mwrite _ _ _, fun x hx => mget_mwrite_out _ _ _ _ hx⟩
    cases poison with
    | true => exact ⟨hbytes.1, hbytes.2, fun _ => State.mark_setMark_self _ _ _, hrsp, hcores⟩
    | false => exact ⟨hbytes.1, hbytes.2, fun h => absurd h Bool.false_ne_true, hrsp, hcores⟩

end Sys2Proof.Machine
end

section
/-! PROOFS. Command lines: the row that decides a line, what a failed step 1 answers, and the queue an accepted line joins. -/

namespace Sys2Proof.Machine

-- One theorem at a time, as in the tests: the proofs together take too many threads.
set_option Elab.async false

/-! ### Checks in order -/

theorem firstSome_none {α : Type} {x : Option α} {xs : List (Option α)} : firstSome (x :: xs) = none ↔ x = none ∧ firstSome xs = none := by
  cases x with
  | none => exact ⟨fun h => ⟨rfl, h⟩, fun h => h.2⟩
  | some a => exact ⟨fun h => absurd h (Option.some_ne_none a), fun h => absurd h.1 (Option.some_ne_none a)⟩

theorem firstSome_cons_none {α : Type} {x : Option α} {xs : List (Option α)} (h : x = none) : firstSome (x :: xs) = firstSome xs := by
  rw [h]
  rfl

theorem firstSome_cons_some {α : Type} {x : Option α} {a : α} {xs : List (Option α)} (h : x = some a) : firstSome (x :: xs) = some a := by
  rw [h]
  rfl

/-! ### Lines and their rows -/

section
variable {s : State} {op : Nat} {p : CRec → Bool} {f : CRec → State → State}

theorem State.withLine_empty (h : s.adm.passed = []) : s.withLine op p f = .next s := by
  rw [State.withLine, h]

theorem State.withLine_other {r : CRec} {rest : List CRec} (h : s.adm.passed = r :: rest) (hr : r.op ≠ op ∨ p r = false) :
    s.withLine op p f = .next s := by
  rw [State.withLine, h]
  refine if_neg ?_
  rcases hr with hr | hr <;> simp [hr]

theorem State.withLine_own {r : CRec} {rest : List CRec} (h : s.adm.passed = r :: rest) (ho : r.op = op) (hp : p r = true) :
    s.withLine op p f = .next (f r s.popLine) := by
  rw [State.withLine, h]
  exact if_pos (by simp [ho, hp])

end

/-- A decision of a line that answers a failed step 1 with its rejection. -/
def Step1First (f : CRec → State → State) : Prop := ∀ s r x, s.step1 r = some x → f r s = s.conclude r x

theorem step1First_checked {g : CRec → State → State} : Step1First fun r s => s.checked r (g r) := by
  intro s r x h
  dsimp only
  unfold State.checked State.steps14
  rw [firstSome_cons_some h]

theorem step1First_critical {m : CRec → State → Option Nat} {g : CRec → State → State} :
    Step1First fun r s => s.critical r (m r) (g r) := by
  intro s r x h
  dsimp only
  unfold State.critical
  rw [h]

theorem step1First_runLine (s0 : State) : Step1First fun r s => s0.runLine s r := by
  intro s r x h
  dsimp only
  unfold State.runLine
  rw [firstSome_cons_some h]

/-- The decision of a RERIG's line. -/
def rerigLine (plan : Option (List Byte)) (r : CRec) (s : State) : State :=
  match s.step1 r with
  | some x => s.conclude r x
  | none =>
    if !r.crit then s.conclude r ((firstSome [s.step2 r, r.step3]).getD (rejRes 1 0))
    else
      match s.authMac r with
      | (s, some e) => s.rejAuth r e
      | (s, none) => s.rerigAuth r (wholePlan plan)

theorem step1First_rerigLine (plan : Option (List Byte)) : Step1First (rerigLine plan) := by
  intro s r x h
  unfold rerigLine
  rw [h]

/-- Every row of a line decides it by its opcode and form, and answers a failed step 1 first. -/
theorem exec_line {i : Instr} {op : Nat} {p : CRec → Bool} (s : State) (h : lineOf i = some (op, p)) :
    ∃ f, exec i s = s.withLine op p f ∧ Step1First f := by
  unfold lineOf at h
  split at h
  case h_19 => exact absurd h.symm (Option.some_ne_none _)
  all_goals
    injection h with h
    injection h with h1 h2
    subst h1 h2
  case h_1 => exact ⟨_, rfl, step1First_runLine s⟩
  case h_2 => exact ⟨_, rfl, step1First_checked⟩
  case h_3 => exact ⟨_, rfl, step1First_checked⟩
  case h_4 => exact ⟨_, rfl, step1First_checked⟩
  case h_5 q => exact ⟨rerigLine q, rfl, step1First_rerigLine q⟩
  case h_6 => exact ⟨_, rfl, step1First_critical⟩
  case h_7 => exact ⟨_, rfl, step1First_checked⟩
  case h_8 => exact ⟨_, rfl, step1First_checked⟩
  case h_9 => exact ⟨_, rfl, step1First_checked⟩
  case h_10 => exact ⟨_, rfl, step1First_checked⟩
  case h_11 => exact ⟨_, rfl, step1First_critical⟩
  case h_12 => exact ⟨_, rfl, step1First_critical⟩
  case h_13 => exact ⟨_, rfl, step1First_critical⟩
  case h_14 => exact ⟨_, rfl, step1First_checked⟩
  case h_15 => exact ⟨_, rfl, step1First_checked⟩
  case h_16 => exact ⟨_, rfl, step1First_checked⟩
  case h_17 => exact ⟨_, rfl, step1First_checked⟩
  case h_18 => exact ⟨_, rfl, step1First_checked⟩

/-! ### The checks read neither the admission unit nor the security state -/

/-- The state with another admission unit and another security state. -/
def State.but (s : State) (a : Adm) (k : Sec) : State := { s with adm := a, sec := k }

section
variable (s : State) (r : CRec)

variable (a : Adm) (k : Sec)

theorem State.step1_but : (s.but a k).step1 r = s.step1 r := rfl
theorem State.step2_but : (s.but a k).step2 r = s.step2 r := rfl
theorem State.step5_but : (s.but a k).step5 r = s.step5 r := rfl
theorem State.step6_but (cs : BitVec 4096) : (s.but a k).step6 r cs = s.step6 r cs := rfl
theorem State.rig_but : (s.but a k).rig = s.rig := rfl
theorem State.rigOfRegion_but : (s.but a k).rigOfRegion = s.rigOfRegion := rfl
theorem State.rigOfCore_but : (s.but a k).rigOfCore = s.rigOfCore := rfl
theorem State.rigOfAddr_but : (s.but a k).rigOfAddr = s.rigOfAddr := rfl
theorem State.updProg_but : (s.but a k).updProg = s.updProg := rfl
theorem State.setcapCheck_but : (s.but a k).setcapCheck r = s.setcapCheck r := rfl
theorem State.keyopCheck_but : (s.but a k).keyopCheck r = s.keyopCheck r := rfl

theorem State.inRig_but : (s.but a k).inRig = s.inRig := by
  funext g b x n
  unfold State.inRig
  rw [State.rigOfRegion_but, State.rigOfCore_but]

theorem State.scrubOwner_but : (s.but a k).scrubOwner = s.scrubOwner := by
  funext x n
  unfold State.scrubOwner
  rw [State.rigOfAddr_but]

theorem State.derivedCheck_but : (s.but a k).derivedCheck = s.derivedCheck := by
  funext g al x n off
  unfold State.derivedCheck
  rw [State.inRig_but]

theorem State.copyCheck_but : (s.but a k).copyCheck r = s.copyCheck r := by
  unfold State.copyCheck
  rw [State.inRig_but]

theorem State.fillCheck_but : (s.but a k).fillCheck r = s.fillCheck r := by
  unfold State.fillCheck
  rw [State.inRig_but]

theorem State.scrubCheck_but (g : Option Nat) : (s.but a k).scrubCheck g r = s.scrubCheck g r := by
  unfold State.scrubCheck
  rw [State.scrubOwner_but]

theorem State.searchCheck_but : (s.but a k).searchCheck r = s.searchCheck r := by
  unfold State.searchCheck
  rw [State.inRig_but, State.derivedCheck_but]

theorem State.tableCheck_but : (s.but a k).tableCheck r = s.tableCheck r := by
  unfold State.tableCheck
  rw [State.derivedCheck_but]

theorem State.reduceCheck_but : (s.but a k).reduceCheck r = s.reduceCheck r := by
  unfold State.reduceCheck
  rw [State.inRig_but, State.rig_but, State.updProg_but]

theorem State.moveCheck_but (x y : Nat) : (s.but a k).moveCheck r x y = s.moveCheck r x y := by
  unfold State.moveCheck
  rw [State.inRig_but, State.rig_but]

theorem State.updateCheck_but : (s.but a k).updateCheck r = s.updateCheck r := by
  unfold State.updateCheck
  rw [State.reduceCheck_but, State.moveCheck_but, State.moveCheck_but]

theorem State.step4_but : (s.but a k).step4 r = s.step4 r := by
  unfold State.step4
  dsimp only
  rw [State.copyCheck_but, State.fillCheck_but, State.scrubCheck_but, State.setcapCheck_but,
    State.searchCheck_but, State.tableCheck_but, State.keyopCheck_but, State.updateCheck_but]

theorem State.steps14_but : (s.but a k).steps14 r = s.steps14 r := by
  unfold State.steps14
  rw [State.step1_but, State.step2_but, State.step4_but]

theorem State.popLine_eq : s.popLine = s.but s.popLine.adm s.sec := rfl
theorem State.step1_popLine : s.popLine.step1 r = s.step1 r := s.step1_but r _ _
theorem State.step5_popLine : s.popLine.step5 r = s.step5 r := s.step5_but r _ _
theorem State.step6_popLine (cs : BitVec 4096) : s.popLine.step6 r cs = s.step6 r cs := s.step6_but r _ _ cs
theorem State.steps14_popLine : s.popLine.steps14 r = s.steps14 r := s.steps14_but r _ _
theorem State.inRig_popLine : s.popLine.inRig = s.inRig := s.inRig_but _ _
theorem State.scrubOwner_popLine : s.popLine.scrubOwner = s.scrubOwner := s.scrubOwner_but _ _

variable {s r}

/-- The record of a stream's line that writes no summary. -/
theorem State.conclude_stream {f : Fin'} (h : r.strm < 256) (hf : f.status ≠ 0x30) :
    s.conclude r f = s.setAdm { s.adm with done := s.adm.done ++ [{ r := r, fin := f }] } := by
  have hs : s.putStopSum r f = s := if_neg fun hc => by
    rw [Bool.and_eq_true, decide_eq_true_eq, decide_eq_true_eq] at hc
    exact hf hc.2
  rw [State.conclude_eq, if_neg (show ¬ regStrm ≤ r.strm from Nat.not_le.2 h), hs]

theorem State.conclude_popLine {f : Fin'} (h : r.strm < 256) (hf : f.status ≠ 0x30) : s.popLine.conclude r f = s.answered r f :=
  State.conclude_stream h hf

/-- A line of another rig than its stream's fails step 1. -/
theorem State.step1_wrong (h : r.rig ≠ s.strmRig r.strm) : s.step1 r = some (rejRig (s.strmRig r.strm)) := by
  unfold State.step1
  dsimp only
  by_cases hs : s.strmRig r.strm = 0xFF
  · rw [if_pos hs, failIf, if_pos]
    rw [hs] at h
    simp [h]
  · rw [if_neg hs, failIf, if_pos]
    simp [h]

/-- An accepted class C command joins the end of its rig's queue. -/
theorem State.admitTo_joins {m : Cmd} {w : Option Rat} (hc : r.contract = false) (h5 : s.step5 r = none)
    (h6 : s.step6 r m.cores = none) : s.admitTo r m w = s.setRig r.rig { s.rig r.rig with
      cq := (s.rig r.rig).cq ++ [{ m with r := r, w := (w.map nsTicks).getD 0, moved := !(s.rig r.rig).iv.isEmpty }] } := by
  have hf : (if r.contract then s.feasible r (w.map nsTicks) else none) = none := if_neg (by rw [hc]; decide)
  unfold State.admitTo
  rw [h5, h6, hf]
  show s.enqueue r _ = _
  unfold State.enqueue
  dsimp only
  rw [if_neg (by rw [hc]; decide)]

theorem CRec.contract_of_cls (h : r.cls = 3) : r.contract = false := by
  rw [CRec.contract, h]
  rfl

theorem CRec.cls_toRig (g : Nat) : (r.toRig g).cls = r.cls := by
  unfold CRec.cls CRec.toRig field
  dsimp only
  rw [List.drop_set, if_neg (by decide), List.take_set_of_le (Nat.le_refl 1)]

end

/-! ### What a row's own checks find -/

section
variable {s : State} {r : CRec}

theorem State.steps14_none : s.steps14 r = none ↔ s.step1 r = none ∧ s.step2 r = none ∧ r.step3 = none ∧ s.step4 r = none := by
  unfold State.steps14
  rw [firstSome_none, firstSome_none, firstSome_none, firstSome_none]
  simp [firstSome]

theorem State.flagCheck_of_step4 (h : s.step4 r = none) : r.flagCheck = none := by
  unfold State.step4 at h
  exact (firstSome_none.1 h).1

/-- A class C RUN of all the rig's cores reads no block. -/
theorem State.runCheck_whole (hc : r.contract = false) (he : r.u 24 8 % 8 = 0) (hin : s.inRig r.rig false (r.u 24 8) 8 = true)
    (ha : r.u 40 8 = 0) (h15 : r.u 56 1 ≤ 15) (hnz : r.nonzero 57 63 = none) :
    s.runCheck r = .ok s { cores := (s.rig r.rig).cores } := by
  have hset : s.runCset r = .ok s { cores := (s.rig r.rig).cores } := if_pos ha
  have hdecl : s.runDecl r { cores := (s.rig r.rig).cores } = .ok s { cores := (s.rig r.rig).cores } := if_pos (by rw [hc]; rfl)
  have h56 : failIf (15 < r.u 56 1) (rejRes 56 0) = none := if_neg (by rw [decide_eq_true_eq]; omega)
  have h57 : r.rsvField 57 63 = none := if_neg (by rw [hnz]; exact Bool.false_ne_true)
  unfold State.runCheck
  dsimp only
  rw [if_neg (by rw [hin, he]; decide), hset]
  show (s.runDecl r { cores := (s.rig r.rig).cores }).andThen _ = _
  rw [hdecl]
  show Res.ok s _ = _
  rw [h56, h57]
  rfl

/-- A row whose accepted class C line brings a command of its own: the command joins by the common admission. -/
theorem exec_lineCmd {i : Instr} {op : Nat} {p : CRec → Bool} {m : Cmd} (hi : lineOf i = some (op, p)) (hm : lineCmd s r i = some m)
    (hr : r.rig < 64) (hc : r.contract = false) : ∃ g : CRec → State → State,
      exec i s = s.withLine op p (fun r s => s.checked r (g r)) ∧ m.w = 0 ∧ g r s.popLine = s.popLine.admitTo r m none := by
  unfold lineCmd at hm
  split at hm
  case h_10 => exact absurd hm.symm (Option.some_ne_none _)
  all_goals
    cases hm
    injection hi with hi
    injection hi with h1 h2
    subst h1 h2
  case h_3 => exact ⟨fun r s => if r.rig < 64 then s.admitTo r {} none else (s.doPerf r).conclude r finOk, rfl, rfl, if_pos hr⟩
  case h_4 =>
    refine ⟨fun r s => s.admitTo r { cores := (s.rig r.rig).cores } (if r.contract then s.searchCost r else none), rfl, rfl, ?_⟩
    dsimp only
    rw [if_neg (by rw [hc]; decide)]
    rfl
  case h_1 => exact ⟨fun r s => s.admitTo r {} none, rfl, rfl, rfl⟩
  case h_2 => exact ⟨fun r s => s.admitTo r {} none, rfl, rfl, rfl⟩
  case h_5 => exact ⟨fun r s => s.admitTo r { cores := (s.rig r.rig).cores } none, rfl, rfl, rfl⟩
  all_goals exact ⟨fun r s => s.admitTo r { upd := { prog := s.updProg r.uProg } } none, rfl, rfl, rfl⟩

end

/-- Settles O41. -/
theorem linesAreDecidedAndJoinTheirRig : Obligations.LinesAreDecidedAndJoinTheirRig := by
  unfold Obligations.LinesAreDecidedAndJoinTheirRig
  refine ⟨fun s i op p hi => ?_, ?_⟩
  · obtain ⟨f, hex, hf⟩ := exec_line s hi
    rw [hex]
    refine ⟨fun h => State.withLine_empty h, fun r rest h hr => State.withLine_other h hr, fun r rest h ho hp hs hr => ?_⟩
    rw [State.withLine_own h ho hp, hf _ _ _ ((s.step1_popLine r).trans (State.step1_wrong hr)), State.conclude_popLine hs]
    · rfl
    · exact fun h => by cases h
  · intro s i r rest hpass hs h14 k joined
    have hstep : s.popLine.steps14 r = none := (s.steps14_popLine r).trans h14
    have hchk (g : State → State) : s.popLine.checked r g = g s.popLine := by
      unfold State.checked
      rw [hstep]
    have hjoin {q : CRec} {m : Cmd} (hw : m.w = 0) (hc : q.contract = false) (h5 : s.step5 q = none) (h6 : s.step6 q m.cores = none) :
        s.popLine.admitTo q m none = joined q.rig { m with r := q } := by
      rw [State.admitTo_joins hc ((s.step5_popLine q).trans h5) ((s.step6_popLine q m.cores).trans h6)]
      obtain ⟨⟩ := m
      dsimp only at hw
      subst hw
      rfl
    have hex {i : Instr} {op : Nat} {p : CRec → Bool} (g : CRec → State → State) (ho : r.op = op) (hp : p r = true)
        (hi : exec i s = s.withLine op p fun r s => s.checked r (g r)) : exec i s = .next (g r s.popLine) :=
      hi.trans ((State.withLine_own hpass ho hp).trans (congrArg Host.Outcome.next (hchk (g r))))
    refine ⟨fun ho => ?_, fun ho => ?_, fun op p m hi ho hp hm hr hc h5 h6 => ?_, fun ho hc ha he hin h15 hnz h5 h6 => ?_,
      fun g ho hc hown hg h5 h6 => ?_⟩
    · refine (hex (fun r s => s.conclude r finOk) ho rfl rfl).trans (congrArg Host.Outcome.next (State.conclude_popLine hs ?_))
      decide
    · refine (hex (fun r s => s.conclude r finOk) ho rfl rfl).trans (congrArg Host.Outcome.next (State.conclude_popLine hs ?_))
      decide
    · have hcon := CRec.contract_of_cls hc
      obtain ⟨g, hi', hw, hg⟩ := exec_lineCmd hi hm hr hcon
      exact (hex g ho hp hi').trans (congrArg Host.Outcome.next (hg.trans (hjoin hw hcon h5 h6)))
    · have hcon := CRec.contract_of_cls hc
      have hchecks : firstSome [s.popLine.step1 r, s.popLine.step2 r, r.step3, r.flagCheck] = none := by
        obtain ⟨h1, h2, h3, h4⟩ := State.steps14_none.1 hstep
        rw [h1, h2, h3, (State.flagCheck_of_step4 h4)]
        rfl
      refine (State.withLine_own (s := s) (op := 1) (p := fun _ => true) (f := fun r t => s.runLine t r) hpass ho rfl).trans
        (congrArg Host.Outcome.next ?_)
      unfold State.runLine
      rw [hchecks, State.runCheck_whole hcon he (by rw [State.inRig_popLine]; exact hin) ha h15 hnz]
      show s.popLine.admitTo r { cores := (s.rig r.rig).cores } (if r.contract then _ else none) = _
      rw [if_neg (by rw [hcon]; decide)]
      exact hjoin (m := { cores := (s.rig r.rig).cores }) rfl hcon h5 h6
    · have hcon : (r.toRig g).contract = false := CRec.contract_of_cls ((CRec.cls_toRig g).trans hc)
      refine (hex (fun r s => s.placeScrub r) ho rfl rfl).trans (congrArg Host.Outcome.next ?_)
      unfold State.placeScrub
      rw [State.scrubOwner_popLine, hown]
      show s.popLine.admitTo (r.toRig g) {} none = _
      rw [hjoin (m := {}) rfl hcon h5 h6, hg]

end Sys2Proof.Machine
end

section
/-! PROOFS. The admission of contracts: what a feasible bound means, the order of a plan, and the SEARCH line. -/

namespace Sys2Proof.Machine

-- One theorem at a time, as in the tests: the proofs together take too many threads.
set_option Elab.async false

/-! ### Feasibility -/

theorem foldl_add_eq_sum (l : List Nat) : l.foldl (· + ·) 0 = l.sum := by
  rw [List.sum_eq_foldl]

theorem finAt_some {free w f j : Nat} {lq : List Cmd} (h : finAt free w lq j = some f) :
    f = free + ((lq.take j).map (·.w)).sum + w := by
  unfold finAt at h
  dsimp only at h
  rw [foldl_add_eq_sum] at h
  split at h
  · exact (Option.some.inj h).symm
  · exact absurd h.symm (Option.some_ne_none f)

/-- A finish that an option names lies before a deadline. -/
def finishesBefore (o : Option Nat) (d : Nat) : Bool := match o with | some f => f < d | none => false

theorem finishesBefore_true {o : Option Nat} {d : Nat} (h : finishesBefore o d = true) : ∃ f, o = some f ∧ f < d := by
  cases o with
  | none => exact absurd h Bool.false_ne_true
  | some f => exact ⟨f, rfl, of_decide_eq_true h⟩

/-- The deadline that admission judges by, and the place of the new command in the plan. -/
def State.judged (s : State) (r : CRec) (w free : Nat) : Bool :=
  classMin r.cls ≤ r.bound && finishesBefore (finAt free w (s.rig r.rig).plan
    ((s.rig r.rig).plan.filter fun x => x.d ≤ r.t0 + boundTicks (max r.bound (classMin r.cls))).length)
    (r.t0 + boundTicks (max r.bound (classMin r.cls)))

theorem State.feasible_judged {s : State} {r : CRec} {w free : Nat} (h : s.feasible r (some w) = none)
    (hf : s.freeAt r.rig r.t0 = some free) : s.judged r w free = true := by
  by_contra hj
  have hgood : ¬ ((classMin r.cls ≤ r.bound && (match finAt free w (s.rig r.rig).plan
      ((s.rig r.rig).plan.filter fun x => x.d ≤ r.t0 + boundTicks (max r.bound (classMin r.cls))).length with
      | some f => f < r.t0 + boundTicks (max r.bound (classMin r.cls)) | none => false)) = true) := fun hc => hj hc
  unfold State.feasible at h
  dsimp only at h
  rw [hf] at h
  dsimp only at h
  have hneg := (if_neg hgood).symm.trans h
  split at hneg <;> exact absurd hneg (Option.some_ne_none _)

theorem State.feasible_unbounded {s : State} {r : CRec} {w : Option Nat} (h : s.freeAt r.rig r.t0 = none ∨ w = none) :
    s.feasible r w = some ⟨0x10, BitVec.allOnes 64⟩ := by
  unfold State.feasible
  dsimp only
  rcases h with h | h
  · rw [h]
    cases w <;> rfl
  · rw [h]
    rfl

theorem status_of_rejBound {c : Prop} [Decidable c] {o : Option Nat} {g : Nat → Nat} {f : Fin'}
    (h : (if c then none else match o with | none => some (rejBound (2 ^ 64 - 1)) | some x => some (rejBound (g x))) = some f) :
    f.status = 0x10 := by
  by_cases hc : c
  · rw [if_pos hc] at h
    exact absurd h.symm (Option.some_ne_none f)
  · rw [if_neg hc] at h
    cases o with
    | none =>
      rw [← Option.some.inj h]
      rfl
    | some x =>
      rw [← Option.some.inj h]
      rfl

/-- A refused bound answers REJ_BOUND. -/
theorem State.feasible_status {s : State} {r : CRec} {w : Option Nat} {f : Fin'} (h : s.feasible r w = some f) : f.status = 0x10 := by
  unfold State.feasible at h
  dsimp only at h
  split at h
  · exact status_of_rejBound h
  · rw [← Option.some.inj h]
    rfl

/-! ### The order of a plan -/

theorem planInsert_perm (x : Cmd) (l : List Cmd) : (planInsert x l).Perm (x :: l) := by
  induction l with
  | nil => exact .refl _
  | cons y t ih =>
    unfold planInsert
    split
    · exact .refl _
    · exact (ih.cons y).trans (.swap x y t)

theorem planBefore_le {x y : Cmd} (h : planBefore x y = true) : x.d ≤ y.d := by
  unfold planBefore at h
  simp only [Bool.or_eq_true, Bool.and_eq_true, decide_eq_true_eq] at h
  omega

theorem le_of_not_planBefore {x y : Cmd} (h : ¬planBefore x y = true) : y.d ≤ x.d := by
  unfold planBefore at h
  simp only [Bool.or_eq_true, Bool.and_eq_true, decide_eq_true_eq] at h
  omega

theorem planInsert_sorted (x : Cmd) {l : List Cmd} (h : l.Pairwise fun a b => a.d ≤ b.d) :
    (planInsert x l).Pairwise fun a b => a.d ≤ b.d := by
  induction l with
  | nil => exact List.pairwise_singleton _ x
  | cons y t ih =>
    obtain ⟨hy, ht⟩ := List.pairwise_cons.1 h
    unfold planInsert
    split
    next hb =>
      refine List.pairwise_cons.2 ⟨fun z hz => ?_, h⟩
      rcases List.mem_cons.1 hz with rfl | hz
      · exact planBefore_le hb
      · exact (planBefore_le hb).trans (hy z hz)
    next hb =>
      refine List.pairwise_cons.2 ⟨fun z hz => ?_, ih ht⟩
      rcases List.mem_cons.1 ((planInsert_perm x t).mem_iff.1 hz) with rfl | hz
      · exact le_of_not_planBefore hb
      · exact hy z hz

/-! ### The SEARCH line -/

section
variable (s : State) (r : CRec)

theorem State.feasible_popLine (w : Option Nat) : s.popLine.feasible r w = s.feasible r w := rfl
theorem State.searchCost_popLine : s.popLine.searchCost r = s.searchCost r := rfl

variable {s r}

/-- A contract as its rig's plan holds it. -/
def State.planCmd (s : State) (r : CRec) (cores : BitVec 4096) (w : Nat) : Cmd :=
  { cores := cores, r := r, w := w, d := r.t0 + boundTicks r.bound
    idle := (s.rig r.rig).running.isNone && (s.rig r.rig).plan.isEmpty, moved := !(s.rig r.rig).iv.isEmpty }

/-- The state in which a contract was counted and placed. -/
def State.withPlanned (s : State) (r : CRec) (m : Cmd) : State :=
  (s.setAdm { s.adm with admits := s.adm.admits + 1 }).setRig r.rig
    { s.rig r.rig with plan := planInsert m (s.rig r.rig).plan, crig := true }

theorem State.admitTo_refused {m : Cmd} {w : Option Rat} {f : Fin'} (hc : r.contract = true) (h5 : s.step5 r = none)
    (h6 : s.step6 r m.cores = none) (hf : s.feasible r (w.map nsTicks) = some f) : s.admitTo r m w = s.conclude r f := by
  unfold State.admitTo
  rw [h5, h6, if_pos hc, hf]
  rfl

theorem State.admitTo_plans {cores : BitVec 4096} {w : Option Rat} {v : Nat} (hc : r.contract = true) (h5 : s.step5 r = none)
    (h6 : s.step6 r cores = none) (hw : w.map nsTicks = some v) (hf : s.feasible r (w.map nsTicks) = none)
    (hr : (s.rig r.rig).running = none) : s.admitTo r { cores := cores } w = s.withPlanned r (s.planCmd r cores v) := by
  unfold State.admitTo
  dsimp only
  rw [h5, h6, if_pos hc, hf, hw]
  show s.enqueue r _ = _
  unfold State.enqueue
  dsimp only
  rw [if_pos hc, hr]
  unfold State.withPlanned State.planCmd
  dsimp only
  rw [hr]
  rfl

end

/-- Settles O42. -/
theorem contractsAreAdmittedWhenFeasible : Obligations.ContractsAreAdmittedWhenFeasible := by
  unfold Obligations.ContractsAreAdmittedWhenFeasible
  refine ⟨fun s r w free h hf => ?_, fun s r w h => State.feasible_unbounded h,
    fun x l => ⟨planInsert_perm x l, planInsert_sorted x⟩, fun s r rest hpass hs h14 ho hc h5 h6 => ?_⟩
  · intro d before
    have hj := State.feasible_judged h hf
    unfold State.judged at hj
    rw [Bool.and_eq_true, decide_eq_true_eq] at hj
    obtain ⟨hmin, hfin⟩ := hj
    rw [Nat.max_eq_left hmin] at hfin
    obtain ⟨f, hf1, hf2⟩ := finishesBefore_true hfin
    have h1 := finAt_some hf1
    refine ⟨hmin, ?_⟩
    rw [← h1]
    exact hf2
  · intro k w
    have hstep : s.popLine.steps14 r = none := (s.steps14_popLine r).trans h14
    have hex : exec .search s = .next (s.popLine.admitTo r { cores := k.cores } (s.searchCost r)) := by
      refine (State.withLine_own (s := s) (op := 7) (p := fun _ => true) (f := fun r s => s.checked r fun s =>
        s.admitTo r { cores := (s.rig r.rig).cores } (if r.contract then s.searchCost r else none)) hpass ho rfl).trans
        (congrArg Host.Outcome.next ?_)
      unfold State.checked
      rw [hstep]
      dsimp only
      rw [if_pos hc, State.searchCost_popLine]
      rfl
    have h5' := (s.step5_popLine r).trans h5
    have h6' := (s.step6_popLine r k.cores).trans h6
    refine ⟨fun f hf => ?_, fun hf hr => ?_⟩
    · rw [hex, State.admitTo_refused (m := { cores := k.cores }) hc h5' h6' ((s.feasible_popLine r _).trans hf),
        State.conclude_popLine hs (by rw [State.feasible_status hf]; decide)]
    · cases hw : w with
      | none =>
        rw [hw, State.feasible_unbounded (Or.inr rfl)] at hf
        exact absurd hf (Option.some_ne_none _)
      | some v =>
        refine ⟨_, s.popLine.planCmd r k.cores v, hex.trans (congrArg Host.Outcome.next
          (State.admitTo_plans hc h5' h6' hw ((s.feasible_popLine r _).trans hf) hr)), rfl, rfl, rfl, rfl, rfl, ?_, rfl, ?_, rfl⟩
        · show s.adm.passed.drop 1 = rest
          rw [hpass]
          rfl
        · exact State.rig_setRig_self _ _ _

end Sys2Proof.Machine
end

section
/-! PROOFS. Critical lines: their authentication, what every part of them keeps, and the effects of SETCAP and KEYOP. -/

namespace Sys2Proof.Machine

-- One theorem at a time, as in the tests: the proofs together take too many threads.
set_option Elab.async false

/-! ### What the effects of critical lines keep -/

/-- The state t has the command counter and the passed lines of s. -/
structure State.Lines (s t : State) : Prop where
  ctr : t.sec.ctr = s.sec.ctr
  passed : t.adm.passed = s.adm.passed

section
variable {s t u : State}

theorem State.Lines.refl (s : State) : s.Lines s := ⟨rfl, rfl⟩

theorem State.Lines.trans (h : s.Lines t) (h' : t.Lines u) : s.Lines u := ⟨h'.ctr.trans h.ctr, h'.passed.trans h.passed⟩

theorem State.Ends.lines (h : s.Ends t) : s.Lines t := ⟨congrArg Sec.ctr h.sec, h.passed⟩

theorem State.lines_conclude (s : State) (r : CRec) (f : Fin') : s.Lines (s.conclude r f) := (s.ends_conclude r f).lines

theorem State.lines_rejAuth (s : State) (r : CRec) (n : Nat) : s.Lines (s.rejAuth r n) :=
  State.Lines.trans (t := { s with sec := { s.sec with rej := satTo 0xFFFF (s.sec.rej + 1), last := BitVec.ofNat 8 n } }) ⟨rfl, rfl⟩
    (State.lines_conclude _ r _)

theorem State.lines_putAllFloors (s : State) : s.Lines s.putAllFloors := by
  have h := s.putAllFloors_frame
  generalize s.putAllFloors = t at h ⊢
  have h1 := congrArg (fun v : State => v.sec.ctr) h
  have h2 := congrArg (fun v : State => v.adm.passed) h
  exact ⟨h1, h2⟩

theorem State.lines_settleFloors (s : State) : s.Lines s.settleFloors := by
  have h := s.settleFloors_frame
  obtain ⟨p, hp⟩ := s.floorSettled_eq
  rw [hp] at h
  generalize s.settleFloors = t at h ⊢
  have h1 := congrArg (fun v : State => v.sec.ctr) h
  have h2 := congrArg (fun v : State => v.adm.passed) h
  exact ⟨h1, h2⟩

theorem State.lines_each {f : State → Nat → State} (h : ∀ (s : State) (n : Nat), s.Lines (f s n)) (s : State) (xs : List Nat) :
    s.Lines (s.each xs f) :=
  State.each_keeps s (fun t => s.Lines t) f xs (.refl s) fun t n ht => ht.trans (h t n)

theorem State.lines_setRig (s : State) (r : Nat) (k : Rig) : s.Lines (s.setRig r k) := ⟨rfl, rfl⟩

theorem State.lines_writeFloor (s : State) (f : Nat) : s.Lines (s.writeFloor f) := by
  unfold State.writeFloor
  dsimp only
  split
  · exact State.Lines.trans (t := { s with pwr := { s.pwr with floor := f, newFloor := 0 } }) ⟨rfl, rfl⟩ (State.lines_putAllFloors _)
  · refine State.Lines.trans (t := { s with pwr := { s.pwr with newFloor := f } }) ⟨rfl, rfl⟩ (State.Lines.trans ?_ (State.lines_settleFloors _))
    exact State.lines_each (fun s r => s.lines_setRig r (s.rig r).holdFloor) _ _

/-- The cap that a SETCAP asks for, and the least cap it may set. -/
def State.askedCap (s : State) (r : CRec) : Nat := if r.u 24 4 = 0 then s.pwr.cap else r.u 24 4

def State.leastCap (s : State) (r : CRec) : Nat := max (max s.pwr.floor s.pwr.newFloor) (r.u 28 4)

/-- The state with another cap. -/
def State.capped (s : State) (cap : Nat) : State := { s with pwr := { s.pwr with cap := cap } }

/-- The state with another floor written, where one is given. -/
def State.floorTo (s : State) (fl : Nat) : State := if fl = 0 then s else s.writeFloor fl

theorem State.setcap_eq (s : State) (r : CRec) : s.setcap r =
    if s.askedCap r < s.leastCap r then s.conclude r ⟨0x13, BitVec.ofNat 64 (s.askedCap r + s.leastCap r * 2 ^ 32)⟩
    else ((s.capped (s.askedCap r)).floorTo (r.u 28 4)).conclude r finOk := rfl

theorem State.lines_floorTo (s : State) (fl : Nat) : s.Lines (s.floorTo fl) := by
  unfold State.floorTo
  split
  · exact .refl s
  · exact s.lines_writeFloor fl

theorem State.lines_setcap (s : State) (r : CRec) : s.Lines (s.setcap r) := by
  rw [State.setcap_eq]
  split
  · exact s.lines_conclude r _
  · have h : s.Lines (s.capped (s.askedCap r)) := ⟨rfl, rfl⟩
    exact (h.trans (State.lines_floorTo _ _)).trans (State.lines_conclude _ r finOk)

theorem State.ends_endUpdates (s : State) (p : Nat) : s.Ends (s.endUpdates p) :=
  State.ends_each (fun s r => by
    split
    · split
      · exact s.ends_endRunning _ _
      · exact .refl s
    · exact .refl s) s _

/-- The state with another pinned digest. -/
def State.withPin (s : State) (p : Nat) (pin : BitVec 256) : State := { s with sec := { s.sec with pins := tset 0 s.sec.pins p pin } }

/-- A port that attests again. -/
def State.reattest (s : State) (p : Nat) : State := s.setPort p { s.port p with st := 3 }

theorem State.setPin_eq (s : State) (p : Nat) (pin : BitVec 256) : s.setPin p pin =
    if (s.port p).st = 2 then ((s.withPin p pin).reattest p).endUpdates p
    else if (s.port p).st = 4 then (s.withPin p pin).reattest p else s.withPin p pin := rfl

theorem State.lines_setPin (s : State) (p : Nat) (pin : BitVec 256) : s.Lines (s.setPin p pin) := by
  have h1 : s.Lines (s.withPin p pin) := ⟨rfl, rfl⟩
  have h2 : s.Lines ((s.withPin p pin).reattest p) := ⟨rfl, rfl⟩
  rw [State.setPin_eq]
  split
  · exact h2.trans (State.ends_endUpdates _ p).lines
  · split
    · exact h2
    · exact h1

/-! ### The cascade's messages -/

/-- The state t is s but for the barriers at the master. -/
def State.Rebars (s t : State) : Prop := ∃ b, t = { s with casc := { s.casc with bars := b } }

theorem State.Rebars.trans (h : s.Rebars t) (h' : t.Rebars u) : s.Rebars u := by
  obtain ⟨b, rfl⟩ := h
  obtain ⟨b', rfl⟩ := h'
  exact ⟨b', rfl⟩

/-- A barrier that an arrival has changed: closed where its members are all released. -/
def State.putArrival (s : State) (tag : BitVec 8) (b : Bar) : State :=
  if b.full.isSome && b.targets == 0 then s.reopen tag b.later else s.setBar tag (some b)

theorem State.rebars_putArrival (s : State) (tag : BitVec 8) (b : Bar) : s.Rebars (s.putArrival tag b) := by
  unfold State.putArrival State.reopen
  split
  · split <;> exact ⟨_, rfl⟩
  · exact ⟨_, rfl⟩

theorem State.rebars_countArrival (s : State) (rank : Nat) (tag : BitVec 8) (released : Bool) (delay : Nat) :
    s.Rebars (s.countArrival rank tag released delay) :=
  s.rebars_putArrival tag _

/-- The arrivals of a master's own module count at once. -/
theorem State.rebars_arrives (s : State) (h : s.casc.role = 2) (released : Bool) (tags : List (BitVec 8)) :
    s.Rebars (tags.foldl (fun s t => s.arrive t released) s) := by
  induction tags generalizing s with
  | nil => exact ⟨_, rfl⟩
  | cons t ts ih =>
    have h1 : s.Rebars (s.arrive t released) := by
      unfold State.arrive
      rw [if_neg (by rw [h]; decide), if_pos h]
      exact s.rebars_countArrival _ _ _ _
    refine h1.trans (ih _ ?_)
    obtain ⟨b, hb⟩ := h1
    rw [hb]
    exact h

theorem State.rebars_rearrive (s : State) (h : s.casc.role = 2) : s.Rebars s.rearrive := by
  have h1 := s.rebars_arrives h false s.waitingTags
  unfold State.rearrive
  refine h1.trans (State.rebars_arrives _ ?_ true _)
  obtain ⟨b, hb⟩ := h1
  rw [hb]
  exact h

/-- A message put on several ports. -/
theorem State.each_sendMsg (s : State) (m : Msg) (ps : List Nat) :
    s.each ps (fun s p => s.sendMsg p m) = { s with casc := { s.casc with out := s.casc.out ++ ps.map fun p => (p, m) } } := by
  induction ps generalizing s with
  | nil =>
    show s = { s with casc := { s.casc with out := s.casc.out ++ [] } }
    rw [List.append_nil]
  | cons p ps ih =>
    show (s.sendMsg p m).each ps (fun s p => s.sendMsg p m) = _
    rw [ih, State.sendMsg]
    dsimp only
    rw [List.append_assoc]
    rfl

theorem State.floodConfig_eq (s : State) : s.floodConfig = { s with casc := { s.casc with out := s.casc.out ++ s.upPorts.map fun p =>
    (p, .config s.casc.epoch s.casc.master s.casc.standby s.casc.hasStandby s.casc.nmem) } } :=
  s.each_sendMsg _ s.upPorts

/-- The configuration that KEYOP CASCADE makes. -/
def Casc.configured (c : Casc) (standby nmem : Nat) : Casc :=
  { c with
    epoch := c.epoch + 1, nmem := BitVec.ofNat 6 (nmem - 1), standby := BitVec.ofNat 6 standby, hasStandby := true
    master := c.rank, role := 2, bars := [] }

/-- What KEYOP CASCADE changes: the configuration, the messages out, the barriers and the events. -/
theorem State.configure_eq (s : State) (standby nmem : Nat) : ∃ e b, s.configure standby nmem = { s with evt := e, casc :=
    { s.casc.configured standby nmem with bars := b, out := s.casc.out ++ s.upPorts.map fun p =>
      (p, .config (s.casc.epoch + 1) s.casc.rank (BitVec.ofNat 6 standby) true (BitVec.ofNat 6 (nmem - 1))) } } := by
  obtain ⟨e, he⟩ := ({ s with casc := s.casc.configured standby nmem } : State).raiseSrc_eq 774
  have hc : s.configure standby nmem = (({ s with casc := s.casc.configured standby nmem } : State).raiseSrc 774).floodConfig.rearrive := rfl
  rw [hc, he, State.floodConfig_eq]
  obtain ⟨b, hb⟩ := State.rebars_rearrive ({ s with evt := e, casc :=
    { s.casc.configured standby nmem with out := s.casc.out ++ s.upPorts.map fun p =>
      (p, .config (s.casc.epoch + 1) s.casc.rank (BitVec.ofNat 6 standby) true (BitVec.ofNat 6 (nmem - 1))) } } : State) rfl
  exact ⟨e, b, hb⟩

/-! ### A re-rig's line -/

theorem State.lines_dropWaiting (s : State) (r cause : Nat) (p : Cmd → Bool) : s.Lines (s.dropWaiting r cause p) := by
  rw [State.dropWaiting_eq]
  exact State.Lines.trans (t := s.setRig r ((s.rig r).dropped p)) ⟨rfl, rfl⟩ (State.ends_concludeAll _ _ _).lines

theorem State.lines_quiesce (s : State) (r : Nat) : s.Lines (s.quiesce r) := by
  have h := s.lines_setRig r { s.rig r with st := 2 }
  exact (h.trans (State.ends_stopRunning _ r 0x0C).lines).trans (State.lines_dropWaiting _ _ _ _)

theorem State.lines_startRerig (s : State) (r : CRec) : s.Lines (s.startRerig r) := by
  unfold State.startRerig
  split
  · exact s.lines_conclude r _
  · have h : s.Lines (s.setAdm { s.adm with rerig := some ⟨r, planMask r.plan, r.plan⟩ }) := ⟨rfl, rfl⟩
    exact (h.trans (State.lines_each State.lines_quiesce _ _)).trans (State.lines_conclude _ r _)

theorem State.lines_rerigAuth (s : State) (r : CRec) (p : Option (List Byte)) : s.Lines (s.rerigAuth r p) := by
  unfold State.rerigAuth
  split
  · exact s.lines_conclude r _
  · dsimp only
    split
    · exact s.lines_rejAuth r 4
    · split
      · exact s.lines_conclude r _
      · split
        · exact ⟨rfl, rfl⟩
        · exact s.lines_startRerig _

end

/-! ### Authentication -/

section
variable {s : State} {r : CRec}

theorem State.authMac_unbound (h : s.sec.bound = none) : s.authMac r = (s, some 1) := if_pos (by rw [h]; rfl)

theorem State.authMac_mac (h : s.sec.bound.isSome = true) (hm : r.mac ≠ s.sec.macOf r) : s.authMac r = (s, some 2) :=
  (if_neg (by rw [Option.isNone_iff_eq_none]; rintro hn; rw [hn] at h; exact Bool.false_ne_true h)).trans (if_pos hm)

theorem State.authMac_old (h : s.sec.bound.isSome = true) (hm : r.mac = s.sec.macOf r) (hc : r.v 64 8 ≤ s.sec.ctr.toNat) :
    s.authMac r = (s, some 3) :=
  (if_neg (by rw [Option.isNone_iff_eq_none]; rintro hn; rw [hn] at h; exact Bool.false_ne_true h)).trans
    ((if_neg (not_not.2 hm)).trans (if_pos hc))

/-- The state whose command counter a line has advanced. -/
def State.counted (s : State) (r : CRec) : State := { s with sec := { s.sec with ctr := BitVec.ofNat 64 (r.v 64 8) } }

theorem State.authMac_good (h : s.sec.bound.isSome = true) (hm : r.mac = s.sec.macOf r) (hc : s.sec.ctr.toNat < r.v 64 8) :
    s.authMac r = (s.counted r, none) :=
  (if_neg (by rw [Option.isNone_iff_eq_none]; rintro hn; rw [hn] at h; exact Bool.false_ne_true h)).trans
    ((if_neg (not_not.2 hm)).trans (if_neg (Nat.not_le.2 hc)))

/-- A decision of a critical line: after step 1 an authentication that fails is its answer, and one that passes keeps its counter. -/
structure AuthFirst (f : CRec → State → State) : Prop where
  fails (s t : State) (r : CRec) (e : Nat) (h1 : s.step1 r = none) (hc : r.crit = true) (ha : s.authMac r = (t, some e)) :
    f r s = t.rejAuth r e
  keeps (s t : State) (r : CRec) (h1 : s.step1 r = none) (hc : r.crit = true) (ha : s.authMac r = (t, none)) : t.Lines (f r s)

theorem State.critical_fails {more : State → Option Nat} {f : State → State} {t : State} {e : Nat} (h1 : s.step1 r = none)
    (hc : r.crit = true) (ha : s.authMac r = (t, some e)) : s.critical r more f = t.rejAuth r e := by
  unfold State.critical
  rw [h1]
  dsimp only
  rw [if_pos hc, ha]

theorem State.critical_refused {more : State → Option Nat} {f : State → State} {t : State} {e : Nat} (h1 : s.step1 r = none)
    (hc : r.crit = true) (ha : s.authMac r = (t, none)) (hm : more t = some e) : s.critical r more f = t.rejAuth r e := by
  unfold State.critical
  rw [h1]
  dsimp only
  rw [if_pos hc, ha]
  dsimp only
  rw [hm]

theorem State.critical_rejected {more : State → Option Nat} {f : State → State} {t : State} {x : Fin'} (h1 : s.step1 r = none)
    (hc : r.crit = true) (ha : s.authMac r = (t, none)) (hm : more t = none) (h24 : t.steps24 r = some x) :
    s.critical r more f = t.conclude r x := by
  unfold State.critical
  rw [h1]
  dsimp only
  rw [if_pos hc, ha]
  dsimp only
  rw [hm]
  dsimp only
  rw [h24]

theorem State.critical_passes {more : State → Option Nat} {f : State → State} {t : State} (h1 : s.step1 r = none)
    (hc : r.crit = true) (ha : s.authMac r = (t, none)) (hm : more t = none) (h24 : t.steps24 r = none) :
    s.critical r more f = f t := by
  unfold State.critical
  rw [h1]
  dsimp only
  rw [if_pos hc, ha]
  dsimp only
  rw [hm]
  dsimp only
  rw [h24]

theorem authFirst_critical {m : CRec → State → Option Nat} {g : CRec → State → State} (hg : ∀ r (s : State), s.Lines (g r s)) :
    AuthFirst fun r s => s.critical r (m r) (g r) where
  fails s t r e h1 hc ha := State.critical_fails h1 hc ha
  keeps s t r h1 hc ha := by
    cases hm : m r t with
    | some e =>
      rw [State.critical_refused h1 hc ha hm]
      exact t.lines_rejAuth r e
    | none =>
      cases h24 : t.steps24 r with
      | some x =>
        rw [State.critical_rejected h1 hc ha hm h24]
        exact t.lines_conclude r x
      | none =>
        rw [State.critical_passes h1 hc ha hm h24]
        exact hg r t

theorem rerigLine_auth {plan : Option (List Byte)} (h1 : s.step1 r = none) (hc : r.crit = true) : rerigLine plan r s =
    (match s.authMac r with | (s, some e) => s.rejAuth r e | (s, none) => s.rerigAuth r (wholePlan plan)) := by
  unfold rerigLine
  rw [h1]
  exact if_neg (by rw [hc]; decide)

theorem authFirst_rerigLine (plan : Option (List Byte)) : AuthFirst (rerigLine plan) where
  fails s t r e h1 hc ha := by rw [rerigLine_auth h1 hc, ha]
  keeps s t r h1 hc ha := by
    rw [rerigLine_auth h1 hc, ha]
    exact t.lines_rerigAuth r _

/-- Every row of a critical line authenticates it first. -/
theorem exec_critLine {i : Instr} {op : Nat} {p : CRec → Bool} (s : State) (h : lineOf i = some (op, p)) (hc : critOp op = true) :
    ∃ f, exec i s = s.withLine op p f ∧ AuthFirst f := by
  unfold lineOf at h
  split at h
  case h_19 => exact absurd h.symm (Option.some_ne_none _)
  all_goals
    injection h with h
    injection h with h1 h2
    subst h1 h2
  case h_5 q => exact ⟨rerigLine q, rfl, authFirst_rerigLine q⟩
  case h_6 => exact ⟨_, rfl, authFirst_critical fun r s => s.lines_setcap r⟩
  case h_11 => exact ⟨_, rfl, authFirst_critical (m := activateCheck) fun r s =>
    State.Lines.trans (t := s.activate (r.u 25 1 = 1) (r.u 26 1 = 1)) ⟨rfl, rfl⟩ (State.lines_conclude _ r _)⟩
  case h_12 =>
    refine ⟨_, rfl, authFirst_critical fun r s => State.Lines.trans ?_ (State.lines_conclude _ r _)⟩
    obtain ⟨e, b, hb⟩ := s.configure_eq (r.u 26 1) (r.u 27 1)
    rw [hb]
    exact ⟨rfl, rfl⟩
  case h_13 => exact ⟨_, rfl, authFirst_critical fun r s => (State.lines_setPin s _ _).trans (State.lines_conclude _ r _)⟩
  all_goals exact absurd hc (by decide)

end

/-! ### The checks of a SETCAP and of a KEYOP ACTIVATE -/

section
variable {s : State} {r : CRec}

theorem State.steps24_none : s.steps24 r = none ↔ s.step2 r = none ∧ r.step3 = none ∧ s.step4 r = none := by
  unfold State.steps24
  rw [firstSome_none, firstSome_none, firstSome_none]
  simp [firstSome]

theorem State.steps24_but (s : State) (r : CRec) (a : Adm) (k : Sec) : (s.but a k).steps24 r = s.steps24 r := by
  unfold State.steps24
  rw [State.step2_but, State.step4_but]

/-- The record of a stream's line that is no scrub. -/
theorem State.conclude_line {f : Fin'} (h : r.strm < 256) (ho : r.op ≠ 4) :
    s.conclude r f = s.setAdm { s.adm with done := s.adm.done ++ [{ r := r, fin := f }] } := by
  have hs : s.putStopSum r f = s := if_neg fun hc => by
    rw [Bool.and_eq_true, decide_eq_true_eq] at hc
    exact ho hc.1
  rw [State.conclude_eq, if_neg (show ¬ regStrm ≤ r.strm from Nat.not_le.2 h), hs]

theorem not_scrub_of_crit {op : Nat} (h : critOp op = true) : op ≠ 4 := by
  rintro rfl
  exact absurd h (by decide)

theorem State.setcapCheck_of_step4 (ho : r.op = 6) (h : s.step4 r = none) : s.setcapCheck r = none := by
  unfold State.step4 at h
  rw [ho] at h
  exact (firstSome_none.1 (firstSome_none.1 h).2).1

theorem State.keyopCheck_of_step4 (ho : r.op = 0xB) (h : s.step4 r = none) : s.keyopCheck r = none := by
  unfold State.step4 at h
  rw [ho] at h
  exact (firstSome_none.1 (firstSome_none.1 h).2).1

theorem failIf_none {α : Type} {c : Bool} {f : α} : failIf c f = none ↔ c = false := by
  cases c with
  | true => exact ⟨fun h => absurd h (Option.some_ne_none f), fun h => absurd h.symm Bool.false_ne_true⟩
  | false => exact ⟨fun _ => rfl, fun _ => rfl⟩

/-- A SETCAP that asks for no floor asks for a cap. -/
theorem State.setcapCheck_cap (hf : r.u 28 4 = 0) (h : s.setcapCheck r = none) : r.u 24 4 ≠ 0 := by
  intro hc
  unfold State.setcapCheck at h
  have h1 := failIf_none.1 (firstSome_none.1 h).1
  rw [hc, hf] at h1
  simp at h1

theorem State.keyopCheck_slot (hs : r.u 24 1 = 1) (h : s.keyopCheck r = none) : r.u 25 1 ≤ 1 := by
  unfold State.keyopCheck at h
  dsimp only at h
  rw [hs] at h
  have h1 := failIf_none.1 (firstSome_none.1 h).1
  simpa using h1

/-- The end of one rig's UPDATE that uses a port. -/
def State.endUpdate (p : Nat) (s : State) (r : Nat) : State :=
  match (s.rig r).running with
  | some m => if m.r.op = 0xC && m.fin.isNone && m.r.uPorts.contains p then s.endRunning r ⟨0x21, stopDetail m.unwritten none 0x0B⟩ else s
  | none => s

/-- The port of a pin without UPDATEs ends none. -/
theorem State.endUpdates_free {p : Nat} (h : s.portFree p = true) : s.endUpdates p = s := by
  unfold State.portFree at h
  rw [List.all_eq_true] at h
  have hstep : ∀ rs : List Nat, (∀ r ∈ rs, r ∈ List.range 64) → s.each rs (State.endUpdate p) = s := by
    intro rs
    induction rs with
    | nil => exact fun _ => rfl
    | cons r rs ih =>
      intro hmem
      have h1 : State.endUpdate p s r = s := by
        have hr := h r (hmem r List.mem_cons_self)
        unfold State.endUpdate
        split
        next m hm =>
          rw [hm] at hr
          rw [Bool.not_eq_true'] at hr
          exact if_neg (by rw [hr]; decide)
        · rfl
      show (State.endUpdate p s r).each rs (State.endUpdate p) = s
      rw [h1]
      exact ih fun q hq => hmem q (List.mem_cons_of_mem r hq)
  exact hstep (List.range 64) fun _ hr => hr

end

/-- A pin set on a port with no UPDATE that is up: the port attests again where it is up or failed to. -/
theorem State.setPin_free {s : State} {p : Nat} {pin : BitVec 256} (h : (s.port p).st = 2 → s.portFree p = true) :
    s.setPin p pin = if (s.port p).st = 2 ∨ (s.port p).st = 4 then (s.withPin p pin).reattest p else s.withPin p pin := by
  rw [State.setPin_eq]
  by_cases h2 : (s.port p).st = 2
  · rw [if_pos h2, if_pos (Or.inl h2)]
    have hf : ((s.withPin p pin).reattest p).portFree p = s.portFree p := rfl
    exact State.endUpdates_free (hf.trans (h h2))
  · rw [if_neg h2]
    by_cases h4 : (s.port p).st = 4
    · rw [if_pos h4, if_pos (Or.inr h4)]
    · rw [if_neg h4, if_neg (not_or.2 ⟨h2, h4⟩)]

/-- Settles O43. -/
theorem criticalCommandsAuthenticate : Obligations.CriticalCommandsAuthenticate := by
  unfold Obligations.CriticalCommandsAuthenticate
  intro s i op p r rest hi hcrit hpass ho hp hs h1 hc rejected mac
  obtain ⟨f, hex, hauth⟩ := exec_critLine s hi hcrit
  have hline : exec i s = .next (f r s.popLine) := hex.trans (State.withLine_own hpass ho hp)
  have h1' : s.popLine.step1 r = none := (s.step1_popLine r).trans h1
  have hno : r.op ≠ 4 := not_scrub_of_crit (ho ▸ hcrit)
  have hrej (n : Nat) : s.popLine.rejAuth r n = rejected n := State.conclude_line hs hno
  refine ⟨fun hb => ?_, fun hb hm => ?_, fun hb hm hctr => ?_, fun hb hm hctr => ?_⟩
  · rw [hline, hauth.fails _ _ r 1 h1' hc (State.authMac_unbound hb), hrej]
  · rw [hline, hauth.fails _ _ r 2 h1' hc (State.authMac_mac hb hm), hrej]
  · rw [hline, hauth.fails _ _ r 3 h1' hc (State.authMac_old hb hm hctr), hrej]
  · have ha : s.popLine.authMac r = (s.popLine.counted r, none) := State.authMac_good hb hm hctr
    have hk := hauth.keeps _ _ r h1' hc ha
    have h24 : (s.popLine.counted r).steps24 r = s.steps24 r := s.steps24_but r s.popLine.adm (s.popLine.counted r).sec
    have hset (he : i = .setcap) : exec i s = .next (s.popLine.critical r (fun _ => none) fun t => t.setcap r) := by
      subst he
      cases hi
      exact State.withLine_own (f := fun r s => s.critical r (fun _ => none) fun t => t.setcap r) hpass ho rfl
    have hact (he : i = .keyopActivate) (hu : r.u 24 1 = 1) : exec i s = .next (s.popLine.critical r (activateCheck r) fun t =>
        (t.activate (r.u 25 1 = 1) (r.u 26 1 = 1)).conclude r finOk) := by
      subst he
      cases hi
      exact State.withLine_own (f := fun r s => s.critical r (activateCheck r) fun t =>
        (t.activate (r.u 25 1 = 1) (r.u 26 1 = 1)).conclude r finOk) hpass ho hp
    have hcas (he : i = .keyopCascade) : exec i s = .next (s.popLine.critical r (fun _ => none) fun t =>
        (t.configure (r.u 26 1) (r.u 27 1)).conclude r finOk) := by
      subst he
      cases hi
      exact State.withLine_own (f := fun r s => s.critical r (fun _ => none) fun t =>
        (t.configure (r.u 26 1) (r.u 27 1)).conclude r finOk) hpass ho hp
    have hpin (he : i = .keyopPin) : exec i s = .next (s.popLine.critical r (fun _ => none) fun t =>
        (t.setPin (r.u 25 1) (if r.u 26 1 = 1 then 0 else BitVec.ofNat 256 (r.u 32 32))).conclude r finOk) := by
      subst he
      cases hi
      exact State.withLine_own (f := fun r s => s.critical r (fun _ => none) fun t =>
        (t.setPin (r.u 25 1) (if r.u 26 1 = 1 then 0 else BitVec.ofNat 256 (r.u 32 32))).conclude r finOk) hpass ho hp
    refine ⟨⟨_, hline, hk.ctr, hk.passed.trans ?_⟩, fun x hx he => ?_, fun hx => ⟨fun he hfl => ?_, fun he hu => ?_, fun he => ?_,
      fun he hfree => ?_⟩⟩
    · show s.adm.passed.drop 1 = rest
      rw [hpass]
      rfl
    · rcases he with he | he | he
      · rw [hset he, State.critical_rejected h1' hc ha rfl (h24.trans hx), State.conclude_line hs hno]
        rfl
      · rw [hcas he, State.critical_rejected h1' hc ha rfl (h24.trans hx), State.conclude_line hs hno]
        rfl
      · rw [hpin he, State.critical_rejected h1' hc ha rfl (h24.trans hx), State.conclude_line hs hno]
        rfl
    · intro low
      rw [hset he, State.critical_passes h1' hc ha rfl (h24.trans hx), State.setcap_eq]
      subst he
      cases hi
      have hcap : r.u 24 4 ≠ 0 := State.setcapCheck_cap hfl (State.setcapCheck_of_step4 ho (State.steps24_none.1 hx).2.2)
      have hasked : (s.popLine.counted r).askedCap r = r.u 24 4 := if_neg hcap
      have hleast : (s.popLine.counted r).leastCap r = low := by
        unfold State.leastCap
        rw [hfl]
        exact Nat.max_zero _
      rw [hasked, hleast, hfl]
      by_cases hlt : r.u 24 4 < low
      · rw [if_pos hlt, if_pos ⟨hlt, hcap⟩, State.conclude_line hs hno]
        rfl
      · rw [if_neg hlt, if_neg fun h => hlt h.1, State.conclude_line hs hno]
        rfl
    · intro ok
      subst he
      cases hi
      have hslot : r.u 25 1 ≤ 1 := State.keyopCheck_slot hu (State.keyopCheck_of_step4 ho (State.steps24_none.1 hx).2.2)
      have hchk : activateCheck r (s.popLine.counted r) = failIf (!ok) 5 := by
        unfold activateCheck
        rw [decide_eq_true hu, decide_eq_true hslot]
        rfl
      cases hok : ok with
      | true =>
        refine ⟨_, (hact rfl hu).trans (congrArg Host.Outcome.next (State.critical_passes h1' hc ha ?_ (h24.trans hx))), ?_⟩
        · rw [hchk, hok]
          rfl
        · rw [State.conclude_line hs hno]
          exact ⟨rfl, rfl, rfl, rfl⟩
      | false =>
        refine ⟨_, (hact rfl hu).trans (congrArg Host.Outcome.next (State.critical_refused (e := 5) h1' hc ha ?_)), ?_⟩
        · rw [hchk, hok]
          rfl
        · rw [State.rejAuth, State.conclude_line hs hno]
          exact ⟨rfl, rfl, rfl, rfl⟩
    · obtain ⟨e, b, hb⟩ := (s.popLine.counted r).configure_eq (r.u 26 1) (r.u 27 1)
      refine ⟨_, (hcas he).trans (congrArg Host.Outcome.next (State.critical_passes h1' hc ha rfl (h24.trans hx))), ?_⟩
      rw [State.conclude_line hs hno, hb]
      exact ⟨rfl, rfl, rfl, rfl, rfl, rfl, rfl⟩
    · refine ⟨_, (hpin he).trans (congrArg Host.Outcome.next (State.critical_passes h1' hc ha rfl (h24.trans hx))), ?_⟩
      rw [State.conclude_line hs hno, State.setPin_free (s := s.popLine.counted r) hfree]
      by_cases hst : (s.port (r.u 25 1)).st = 2 ∨ (s.port (r.u 25 1)).st = 4
      · rw [if_pos hst, if_pos (show ((s.popLine.counted r).port (r.u 25 1)).st = 2 ∨ ((s.popLine.counted r).port (r.u 25 1)).st = 4 from hst)]
        refine ⟨tget_tset_self _ _ _ _, fun q hq => ⟨tget_tset_ne _ _ _ hq, State.port_setPort_ne _ _ hq⟩, ?_, rfl⟩
        exact congrArg Port.st (State.port_setPort_self _ _ _)
      · rw [if_neg hst, if_neg (show ¬(((s.popLine.counted r).port (r.u 25 1)).st = 2 ∨ ((s.popLine.counted r).port (r.u 25 1)).st = 4) from hst)]
        exact ⟨tget_tset_self _ _ _ _, fun q hq => ⟨tget_tset_ne _ _ _ hq, rfl⟩, rfl, rfl⟩

end Sys2Proof.Machine
end

section
/-! PROOFS. What the front end reads and writes of a tile, word by word. -/

namespace Sys2Proof.Machine

-- One theorem at a time, as in the tests: the proofs together take too many threads.
set_option Elab.async false

/-! ### Routes and queues that a tile's accesses leave -/

section
variable {s t u : State}

/-- Routes depend on the yards, the network and the loop-backs alone. -/
theorem State.reaches_congr (hy : t.yards = s.yards) (hn : t.net = s.net) (hl : t.loops = s.loops) (a b : Node) :
    t.reaches a b = s.reaches a b := by
  have hcut : t.stayCut = s.stayCut := by
    funext st
    unfold State.stayCut State.stayDown State.loop
    rw [hn, hl]
  have hclear : t.netClear = s.netClear := by
    unfold State.netClear
    rw [hy, hcut]
  have hopen : t.nodeOpen = s.nodeOpen := by
    funext x
    unfold State.nodeOpen State.yard
    rw [hy]
  unfold State.reaches State.passes
  rw [hcut, hclear, hopen]

theorem State.coreNode_congr (hy : t.yards = s.yards) (c : Nat) : t.coreNode c = s.coreNode c := by
  unfold State.coreNode State.columnOf State.yard
  rw [hy]

/-- The front end's way to a tile. -/
theorem State.linked_congr {a m o : Nat} (hp : place a = .tile m o) (hy : t.yards = s.yards) (hn : t.net = s.net)
    (hl : t.loops = s.loops) : t.linked .device a = s.linked .device a := by
  unfold State.linked
  rw [hp]
  show (_ || t.reaches .front (t.coreNode m)) = (_ || s.reaches .front (s.coreNode m))
  rw [State.coreNode_congr hy, State.reaches_congr hy hn hl]

/-- A tile's being open depends on the banks and on parts of the tile alone. -/
theorem State.tileOpen_congr {c o : Nat} (hb : t.banks = s.banks) (h1 : (t.tile c).hold = (s.tile c).hold)
    (h2 : (t.tile c).refr = (s.tile c).refr) (h3 : (t.tile c).mq = (s.tile c).mq) : t.tileOpen c o true = s.tileOpen c o true := by
  have hbank : t.bank = s.bank := by
    funext c b
    unfold State.bank
    rw [hb]
  unfold State.tileOpen State.heldApart
  dsimp only
  rw [hbank, h1, h2]
  show (_ && (t.tile c).mq.isEmpty && _) = (_ && (s.tile c).mq.isEmpty && _)
  rw [h3]

/-- The state t is s after accesses to tiles: memory may differ, errors are counted and rows are open. -/
structure State.TileUse (s t : State) : Prop where
  frame : { t with
    mem := s.mem, errs := s.errs, cores := s.cores, tiles := s.tiles, hbm := s.hbm, evt := s.evt, failures := s.failures
    ras := s.ras, free := s.free } = s
  tile (n : Nat) : { t.tile n with log := (s.tile n).log, openRow := (s.tile n).openRow } = s.tile n
  flip : t.ras.flipTgt = s.ras.flipTgt

theorem State.TileUse.refl (s : State) : s.TileUse s := ⟨rfl, fun _ => rfl, rfl⟩

theorem State.TileUse.trans (h : s.TileUse t) (h' : t.TileUse u) : s.TileUse u where
  frame := by
    have h1 := congrArg (fun v : State => { v with
      mem := s.mem, errs := s.errs, cores := s.cores, tiles := s.tiles, hbm := s.hbm, evt := s.evt, failures := s.failures
      ras := s.ras, free := s.free }) h'.frame
    exact h1.trans h.frame
  tile n := by
    have h1 := congrArg (fun k : Tile => { k with log := (s.tile n).log, openRow := (s.tile n).openRow }) (h'.tile n)
    exact h1.trans (h.tile n)
  flip := h'.flip.trans h.flip

theorem State.Counts.tileUse (h : s.Counts t) : s.TileUse t where
  frame := by
    have h1 := congrArg (fun v : State => { v with mem := s.mem, free := s.free }) h.frame
    exact h1
  tile n := by
    have h1 := congrArg (fun k : Tile => { k with openRow := (s.tile n).openRow }) (h.tile n)
    exact h1
  flip := h.flipTgt

theorem State.tileUse_openTile (s : State) (c o : Nat) : s.TileUse (s.openTile c o) where
  frame := rfl
  tile n := by
    unfold State.openTile
    dsimp only
    by_cases h : n = c
    · subst h
      rw [State.tile_setTile_self]
    · rw [State.tile_setTile_ne _ _ h]
  flip := rfl

theorem State.tileUse_mem (s : State) (m : Mem) : s.TileUse { s with mem := m } := ⟨rfl, fun _ => rfl, rfl⟩

theorem State.tileUse_free (s : State) (n : Nat) : s.TileUse { s with free := n } := ⟨rfl, fun _ => rfl, rfl⟩

theorem State.TileUse.gran (h : s.TileUse t) (a : Nat) : t.granAt a = s.granAt a := by
  have h1 := congrArg State.gran h.frame
  have h2 : t.gran = s.gran := h1
  unfold State.granAt
  rw [h2]

theorem State.TileUse.linked (h : s.TileUse t) {a m o : Nat} (hp : place a = .tile m o) : t.linked .device a = s.linked .device a := by
  have h1 := congrArg State.yards h.frame
  have h2 := congrArg State.net h.frame
  have h3 := congrArg State.loops h.frame
  exact State.linked_congr hp h1 h2 h3

theorem State.TileUse.tileOpen (h : s.TileUse t) (c o : Nat) : t.tileOpen c o true = s.tileOpen c o true := by
  have hb := congrArg State.banks h.frame
  have h1 := congrArg Tile.hold (h.tile c)
  have h2 := congrArg Tile.refr (h.tile c)
  have h3 := congrArg Tile.mq (h.tile c)
  exact State.tileOpen_congr hb h1 h2 h3

end

/-! ### Words -/

/-- The word of an address that is one. -/
theorem wordOf_aligned (c : CoreId) {o : Nat} (ho : o < 0x8000000) (ha : o % 64 = 0) : wordOf (tileAddr c o) = tileAddr c o := by
  rw [wordOf, wordSize_tileAddr c ho]
  have h : tileAddr c o % 64 = 0 := by
    unfold tileAddr tileBase
    omega
  omega

theorem wordsOf_aligned (c : CoreId) {o : Nat} (ho : o < 0x8000000) (ha : o % 64 = 0) : wordsOf (tileAddr c o) 64 = [tileAddr c o] := by
  have h : tileAddr c o % 64 = 0 := by
    unfold tileAddr tileBase
    omega
  rw [wordsOf, if_neg (by decide), wordOf_aligned c ho ha, wordSize_tileAddr c ho]
  generalize tileAddr c o = a at h ⊢
  have hk : (a + 64 - 1) / 64 - a / 64 + 1 = 1 := by omega
  rw [hk]
  simp

section
variable {s : State} {c : CoreId} {o : Nat}

/-- The front end may reach the words of k times 64 B from an offset of a tile. -/
structure State.Ready (s : State) (c : CoreId) (o k : Nat) : Prop where
  aligned : o % 64 = 0
  inside : o + 64 * k ≤ 0x8000000
  gran (i : Nat) (h : i < 64 * k) : s.granAt (tileAddr c (o + i)) = .written
  linked (i : Nat) (h : i < 64 * k) : s.linked .device (tileAddr c (o + i)) = true
  tileOpen (i : Nat) (h : i < 64 * k) : s.tileOpen c (o + i) true = true

theorem State.Ready.tail {k : Nat} (h : s.Ready c o (k + 1)) : s.Ready c (o + 64) k where
  aligned := by have := h.aligned; omega
  inside := by have := h.inside; omega
  gran i hi := by
    rw [Nat.add_assoc]
    exact h.gran _ (by omega)
  linked i hi := by
    rw [Nat.add_assoc]
    exact h.linked _ (by omega)
  tileOpen i hi := by
    rw [Nat.add_assoc]
    exact h.tileOpen _ (by omega)

theorem State.Ready.use {t : State} {k : Nat} (h : s.Ready c o k) (hu : s.TileUse t) : t.Ready c o k where
  aligned := h.aligned
  inside := h.inside
  gran i hi := (hu.gran _).trans (h.gran i hi)
  linked i hi := (hu.linked (place_tileAddr c (by have := h.inside; omega))).trans (h.linked i hi)
  tileOpen i hi := (hu.tileOpen _ _).trans (h.tileOpen i hi)

theorem tileAddr_add (c o i : Nat) : tileAddr c (o + i) = tileAddr c o + i := (Nat.add_assoc _ _ _).symm

/-- A word that the front end writes. -/
theorem State.writeAt_word {k : Nat} {w : List Byte} (h : s.Ready c o (k + 1)) (hw : w.length = 64)
    (hf : s.ras.flipTgt.getLsbD 63 = false) : ∃ t, s.writeAt .device 0 (tileAddr c o) w = .ok t () ∧ s.TileUse t ∧
      t.mem = mwrite s.mem (tileAddr c o) w := by
  have ho : o < 0x8000000 := by have := h.inside; omega
  have hg0 := h.gran 0 (by omega)
  have hne : w ≠ [] := by
    rintro rfl
    exact absurd hw (by decide)
  obtain ⟨t, ht, he⟩ := State.tileWrite_counts (s := s.openTile c o) (a := tileAddr c o) (bs := w) hne (fun x hx => by
    rw [hw, wordsOf_aligned c ho h.aligned] at hx
    rw [List.mem_singleton.1 hx]
    exact hg0) hf
  refine ⟨_, ?_, ((s.tileUse_openTile c o).trans ht.tileUse).trans (t.tileUse_mem (mwrite s.mem (tileAddr c o) w)), rfl⟩
  have hl := h.linked 0 (by omega)
  have hop := h.tileOpen 0 (by omega)
  rw [State.writeAt, if_neg (by rw [show s.linked .device (tileAddr c o) = true from hl]; decide), place_tileAddr c ho]
  exact (if_pos hop).trans (congrArg (fun v => Res.ok v ()) he)

/-- Words that the front end writes. -/
theorem State.wordsWrite_tile (ws : List (List Byte)) {s : State} {o : Nat} (h : s.Ready c o ws.length) (hw : ∀ w ∈ ws, w.length = 64)
    (hf : s.ras.flipTgt.getLsbD 63 = false) : ∃ t, s.wordsWrite (tileAddr c o) ws = .ok t () ∧ s.TileUse t ∧
      t.mem = mwrite s.mem (tileAddr c o) ws.flatten := by
  induction ws generalizing s o with
  | nil => exact ⟨s, rfl, .refl s, rfl⟩
  | cons w ws ih =>
    have hlen := hw w List.mem_cons_self
    obtain ⟨t, ht, hu, hm⟩ := State.writeAt_word h hlen hf
    obtain ⟨v, hv, hu', hm'⟩ := ih (h.tail.use hu) (fun x hx => hw x (List.mem_cons_of_mem _ hx)) (hu.flip ▸ hf)
    refine ⟨v, ?_, hu.trans hu', ?_⟩
    · rw [tileAddr_add] at hv
      rw [State.wordsWrite, ht]
      exact hv
    · rw [hm', hm, List.flatten_cons, mwrite_append, hlen, tileAddr_add]

theorem State.openTile_mem (s : State) (c o : Nat) : (s.openTile c o).mem = s.mem := by
  unfold State.openTile
  exact s.setTile_mem c _

/-- A front-end read of a tile that nothing holds. -/
theorem State.readAt_device_tile {a n : Nat} {bs : List Byte} (hp : place a = .tile c o) (hl : s.linked .device a = true)
    (ho : s.tileOpen c o true = true) (hclean : (s.openTile c o).tileRead a n = (s.openTile c o, (bs, false))) :
    s.readAt .device 0 a n = .ok (s.openTile c o) (bs, false) := by
  rw [State.readAt, if_neg (by rw [hl]; decide), hp]
  dsimp only
  rw [if_pos (show s.tileOpen c o (overMesh .device c) = true from ho), hclean]

/-- A clean word that the front end reads. -/
theorem State.readAt_word {k : Nat} (h : s.Ready c o (k + 1)) (hm : s.mark (tileAddr c o) = .none) :
    s.readAt .device 0 (tileAddr c o) 64 = .ok (s.openTile c o) (mread s.mem (tileAddr c o) 64, false) := by
  have ho : o < 0x8000000 := by have := h.inside; omega
  have hg := h.gran 0 (by omega)
  have hl := h.linked 0 (by omega)
  have hop := h.tileOpen 0 (by omega)
  rw [Nat.add_zero] at hg hl hop
  have hclean : (s.openTile c o).tileRead (tileAddr c o) 64 = (s.openTile c o, (mread (s.openTile c o).mem (tileAddr c o) 64, false)) := by
    refine State.tileRead_clean fun w hw => ?_
    rw [wordsOf_aligned c ho h.aligned] at hw
    rw [List.mem_singleton.1 hw]
    exact ⟨hg, hm⟩
  have hmem := s.openTile_mem c o
  rw [hmem] at hclean
  exact State.readAt_device_tile (place_tileAddr c ho) hl hop hclean

/-- Clean words that the front end reads. -/
theorem State.wordsRead_tile (k : Nat) {s : State} {o : Nat} (h : s.Ready c o k)
    (hm : ∀ i, i < 64 * k → s.mark (wordOf (tileAddr c (o + i))) = .none) : ∃ t ws, s.wordsRead (tileAddr c o) k = .ok t (ws, none) ∧
      s.TileUse t ∧ t.mem = s.mem ∧ t.errs = s.errs ∧ ws.length = k ∧ (∀ w ∈ ws, w.length = 64) ∧
      ws.flatten = mread s.mem (tileAddr c o) (64 * k) := by
  induction k generalizing s o with
  | zero => exact ⟨s, [], rfl, .refl s, rfl, rfl, rfl, fun w hw => absurd hw List.not_mem_nil, rfl⟩
  | succ k ih =>
    have ho : o < 0x8000000 := by have := h.inside; omega
    have hm0 := hm 0 (by omega)
    rw [Nat.add_zero, wordOf_aligned c ho h.aligned] at hm0
    obtain ⟨t, ws, ht, hu, hmem, herr, hlen, hw, hws⟩ := ih (h.tail.use (s.tileUse_openTile c o)) fun i hi => by
      have hi' := hm (64 + i) (by omega)
      rw [← Nat.add_assoc] at hi'
      exact hi'
    refine ⟨t, mread s.mem (tileAddr c o) 64 :: ws, ?_, (s.tileUse_openTile c o).trans hu, hmem.trans (s.openTile_mem c o), herr, by rw [List.length_cons, hlen],
      fun w hx => ?_, ?_⟩
    · rw [tileAddr_add] at ht
      rw [State.wordsRead, State.readAt_word h hm0]
      unfold Res.andThen
      dsimp only
      rw [if_neg Bool.false_ne_true, ht]
    · rcases List.mem_cons.1 hx with rfl | hx
      · exact mread_length _ _ _
      · exact hw w hx
    · have hn : 64 * (k + 1) = 64 + 64 * k := by omega
      rw [List.flatten_cons, hws, hn, mread_add, ← tileAddr_add, s.openTile_mem]

end

/-! ### Repeated patterns -/

theorem getElem?_flatten_replicate {α : Type} (l : List α) (q i : Nat) (h : i < q * l.length) :
    (List.replicate q l).flatten[i]? = l[i % l.length]? := by
  induction q generalizing i with
  | zero => exact absurd h (by omega)
  | succ q ih =>
    rw [List.replicate_succ, List.flatten_cons]
    by_cases hi : i < l.length
    · rw [List.getElem?_append_left hi, Nat.mod_eq_of_lt hi]
    · have hge := Nat.le_of_not_lt hi
      rw [List.getElem?_append_right hge, ih _ (by rw [Nat.succ_mul] at h; omega), ← Nat.mod_eq_sub_mod hge]

/-- The 64 B word of a FILL. -/
def fillWord (v : Nat) : List Byte := (List.replicate 8 (leBytes 8 v)).flatten

theorem fillWord_length (v : Nat) : (fillWord v).length = 64 := by simp [fillWord]

/-- Byte i of a FILL is a byte of its pattern. -/
theorem fill_byte (v q i : Nat) (h : i < 64 * q) :
    (List.replicate q (fillWord v)).flatten[i]? = some (BitVec.ofNat 8 (v / 256 ^ (i % 8))) := by
  rw [getElem?_flatten_replicate _ _ _ (by rw [fillWord_length]; omega), fillWord_length, fillWord,
    getElem?_flatten_replicate _ _ _ (by rw [leBytes_length]; omega), leBytes_length]
  have h8 : i % 64 % 8 = i % 8 := by omega
  rw [h8, List.getElem?_eq_getElem (by rw [leBytes_length]; omega), leBytes_getElem, Nat.pow_mul]

end Sys2Proof.Machine
end

section
/-! PROOFS. Dispatch: the command that a rig runs next, and what RUN, FILL, COPY and PERF then do. -/

namespace Sys2Proof.Machine

-- One theorem at a time, as in the tests: the proofs together take too many threads.
set_option Elab.async false

/-! ### The next command -/

section
variable {s t u : State} {r now : Nat} {m : Cmd} {k k' : Rig}

theorem Rig.next_plan {ms : List Cmd} (h : k.plan = m :: ms) : k.next = some (m, { k with plan := ms }) := by
  rw [Rig.next, h]

theorem Rig.next_queue {ms : List Cmd} (h : k.plan = []) (h' : k.cq = m :: ms) : k.next = some (m, { k with cq := ms }) := by
  rw [Rig.next, h, h']

theorem Rig.next_none (h : k.plan = []) (h' : k.cq = []) : k.next = none := by
  rw [Rig.next, h, h']

/-- Counting time in a rig leaves its next command. -/
theorem Rig.SameButReefs.next (h : k.SameButReefs k') : k'.next.map (·.1) = k.next.map (·.1) := by
  unfold Rig.next
  rw [h.plan, h.cq]
  split <;> rfl

theorem Rig.SameButReefs.st (h : k.SameButReefs k') : k'.st = k.st := by
  obtain ⟨n, g, hg, rfl⟩ := h
  rfl

theorem Rig.SameButReefs.running_none (h : k.SameButReefs k') : k'.running = none ↔ k.running = none := by
  obtain ⟨n, g, hg, rfl⟩ := h
  exact Option.map_eq_none_iff

theorem State.core_congr (h : t.cores = s.cores) : t.core = s.core := by
  funext c
  unfold State.core
  rw [h]

/-- Step 6 depends on the cores alone. -/
theorem State.step6_congr (h : t.cores = s.cores) (q : CRec) (cs : BitVec 4096) : t.step6 q cs = s.step6 q cs := by
  have hd : t.downOf = s.downOf := by
    funext x
    unfold State.downOf
    rw [h]
  unfold State.step6
  rw [hd, State.core_congr h]

/-! ### The state in which a command runs -/

/-- A command as it is dispatched. -/
def Cmd.begun (m : Cmd) (s : State) (at_ : Nat) : Cmd :=
  { m with stage := .running, disp := at_, energy := tget 0 s.energyStrm m.r.strm, ran := (s.step6 m.r m.cores).isNone && m.cores != 0 }

/-- The state in which rig r runs its next command. -/
def State.dispatching (s : State) (r now : Nat) (m : Cmd) (k' : Rig) : State :=
  (s.seeTick now).setRig r { k' with running := some (m.begun s (max now s.adm.now)) }

theorem State.dispatchDown_isNone (s : State) (m : Cmd) : (s.dispatchDown m).isNone = (s.step6 m.r m.cores).isNone := by
  unfold State.dispatchDown
  cases s.step6 m.r m.cores <;> rfl

theorem State.dispatchDown_congr (h : t.cores = s.cores) (m : Cmd) : t.dispatchDown m = s.dispatchDown m := by
  unfold State.dispatchDown
  rw [State.step6_congr h]

/-- A dispatch ends a command with a down core, and starts another. -/
theorem State.dispatchNext_eq {upd : State → State → Nat → Cmd → State} (hn : ((s.seeTick now).rig r).next = some (m, k'))
    (hst : ((s.seeTick now).rig r).st = 1) (hrun : ((s.seeTick now).rig r).running = none) :
    s.dispatchNext upd r now = (match s.dispatchDown m with
      | some f => (s.dispatching r now m k').endRunning r f
      | none => State.launch upd s (s.dispatching r now m k') r (m.begun s (max now s.adm.now))) := by
  have hsame := s.seeTick_rig now r
  have hst' : (s.rig r).st = 1 := hsame.st.symm.trans hst
  have hrun' : (s.rig r).running = none := hsame.running_none.1 hrun
  have hnext := hsame.next
  rw [hn] at hnext
  obtain ⟨⟨m0, k0⟩, hn0, hm0⟩ := Option.map_eq_some_iff.1 hnext.symm
  cases hm0
  have hadm : (s.seeTick now).adm.now = max now s.adm.now := congrArg Adm.now (s.seeTick_adm now)
  have hdown : (s.seeTick now).dispatchDown m = s.dispatchDown m := State.dispatchDown_congr (s.seeTick_cores now) m
  unfold State.dispatchNext
  rw [if_neg (by rw [hst', hrun']; decide), hn0]
  dsimp only
  rw [hn, hdown, hadm, State.dispatchDown_isNone]
  cases s.dispatchDown m <;> rfl

/-- A dispatch finds nothing to start. -/
theorem State.dispatchNext_none {upd : State → State → Nat → Cmd → State} (h : ((s.seeTick now).rig r).st ≠ 1 ∨
    ((s.seeTick now).rig r).running.isSome = true ∨ ((s.seeTick now).rig r).plan = [] ∧ ((s.seeTick now).rig r).cq = []) :
    s.dispatchNext upd r now = s := by
  have hsame := s.seeTick_rig now r
  rw [hsame.st, hsame.plan, hsame.cq] at h
  unfold State.dispatchNext
  rcases h with h | h | ⟨h1, h2⟩
  · exact if_pos (by simp [h])
  · have hsome : (s.rig r).running.isSome = true := by
      rw [Option.isSome_iff_ne_none] at h ⊢
      exact fun hc => h (hsame.running_none.2 hc)
    exact if_pos (by rw [hsome, Bool.or_true])
  · rw [Rig.next_none h1 h2]
    exact ite_self _

/-! ### A command that has run or runs -/

/-- In t rig r runs command m, dispatched at a tick from the state s, with outcome f where it has one. -/
def State.RanAs (s t : State) (r : Nat) (k' : Rig) (m : Cmd) (at_ : Nat) (f : Option Fin') : Prop :=
  ∃ m', t.rig r = { k' with running := some m' } ∧
    m' = { m with stage := .running, disp := at_, energy := tget 0 s.energyStrm m.r.strm, fin := f, upd := m'.upd,
                  ran := (s.step6 m.r m.cores).isNone && m.cores != 0 } ∧
    t.adm = { s.adm with now := at_, done := s.adm.done ++ (if f.isSome then [{ r := m.r, rig := some r }] else []) }

/-- The part of the dispatched state that RanAs speaks of. -/
theorem State.dispatching_adm (s : State) (r now : Nat) (m : Cmd) (k' : Rig) :
    (s.dispatching r now m k').adm = { s.adm with now := max now s.adm.now } := s.seeTick_adm now

theorem State.ranAs_running (hf : m.fin = none) (hr : t.rigs = (s.dispatching r now m k').rigs)
    (ha : t.adm = (s.dispatching r now m k').adm) : s.RanAs t r k' m (max now s.adm.now) none := by
  refine ⟨m.begun s (max now s.adm.now), (rig_congr hr r).trans (State.rig_setRig_self _ _ _), ?_, ?_⟩
  · rw [← hf]
    rfl
  · rw [ha, State.dispatching_adm]
    show _ = { s.adm with now := max now s.adm.now, done := s.adm.done ++ [] }
    rw [List.append_nil]

/-- A stream's command ends without a summary. -/
theorem State.endRunning_stream {f : Fin'} (h : (t.rig r).running = some m) (hs : m.r.strm < 256) (hf : f.status ≠ 0x30) :
    t.endRunning r f = (t.finish r f).setAdm { t.adm with done := t.adm.done ++ [{ r := m.r, rig := some r }] } := by
  have hsum : t.putStopSum m.r f = t := if_neg fun hc => by
    rw [Bool.and_eq_true, decide_eq_true_eq, decide_eq_true_eq] at hc
    exact hf hc.2
  rw [State.endRunning_eq f h, if_neg (show ¬ regStrm ≤ m.r.strm from Nat.not_le.2 hs), hsum]
  rfl

/-- Ending the dispatched command: its outcome waits, and nothing but the rig and the records changes. -/
theorem State.ranAs_ended {f : Fin'} (hs : m.r.strm < 256) (hf : f.status ≠ 0x30) (hr : t.rigs = (s.dispatching r now m k').rigs)
    (ha : t.adm = (s.dispatching r now m k').adm) :
    s.RanAs (t.endRunning r f) r k' m (max now s.adm.now) (some f) ∧
      { t.endRunning r f with rigs := t.rigs, adm := t.adm } = t := by
  have hrig : t.rig r = { k' with running := some (m.begun s (max now s.adm.now)) } := (rig_congr hr r).trans (State.rig_setRig_self _ _ _)
  have hend := State.endRunning_stream (m := m.begun s (max now s.adm.now)) (f := f) (congrArg Rig.running hrig) hs hf
  rw [hend]
  refine ⟨⟨{ m.begun s (max now s.adm.now) with fin := some f, upd := {} }, ?_, rfl, ?_⟩, rfl⟩
  · refine (State.rig_setRig_self t r _).trans ?_
    rw [hrig]
    rfl
  · rw [ha, State.dispatching_adm]
    rfl

end

/-! ### Packets -/

section
variable {s : State} {cs : List Nat} {e o : Nat}

/-- The packet of the i-th of n cores. -/
def State.packet (n e o : Nat) (cs : List Nat) (s : State) (i : Nat) : State :=
  s.setCore (cs.getD i 0) { s.core (cs.getD i 0) with disp := some ⟨e, i, n, o⟩ }

theorem State.startCores_frame : ({ s.startCores cs e o with cores := s.cores } : State) = s :=
  State.each_keeps s (fun t => ({ t with cores := s.cores } : State) = s) (State.packet cs.length e o cs) (List.range cs.length) rfl
    fun _ _ h => h

/-- A core that is not listed receives no packet. -/
theorem State.startCores_out {c : Nat} (h : c ∉ cs) : (s.startCores cs e o).core c = s.core c := by
  have hkeep : ∀ xs : List Nat, (∀ i ∈ xs, i < cs.length) → (s.each xs (State.packet cs.length e o cs)).core c = s.core c := by
    intro xs
    induction xs generalizing s with
    | nil => exact fun _ => rfl
    | cons i xs ih =>
      intro hi
      have hne : c ≠ cs.getD i 0 := by
        rintro rfl
        rw [List.getD_eq_getElem _ _ (hi i List.mem_cons_self)] at h
        exact h (List.getElem_mem _)
      exact (ih fun j hj => hi j (List.mem_cons_of_mem _ hj)).trans (State.core_setCore_ne _ _ hne)
  exact hkeep _ fun i hi => List.mem_range.1 hi

/-- Each listed core receives its packet. -/
theorem State.startCores_in (hnd : cs.Nodup) {i c : Nat} (hi : cs[i]? = some c) :
    (s.startCores cs e o).core c = { s.core c with disp := some ⟨e, i, cs.length, o⟩ } := by
  obtain ⟨hlt, hget⟩ := List.getElem?_eq_some_iff.1 hi
  have hgo : ∀ k, k ≤ cs.length → (s.each (List.range k) (State.packet cs.length e o cs)).core c =
      if i < k then { s.core c with disp := some ⟨e, i, cs.length, o⟩ } else s.core c := by
    intro k
    induction k with
    | zero => exact fun _ => rfl
    | succ k ih =>
      intro hk
      have hlast : s.each (List.range (k + 1)) (State.packet cs.length e o cs) =
          State.packet cs.length e o cs (s.each (List.range k) (State.packet cs.length e o cs)) k := by
        rw [List.range_succ, State.each, List.foldl_append]
        rfl
      rw [hlast]
      have hik := ih (by omega)
      have hkget : cs.getD k 0 = cs[k] := List.getD_eq_getElem _ _ hk
      by_cases hki : k = i
      · subst hki
        have hc : cs.getD k 0 = c := hkget.trans hget
        rw [if_neg (Nat.lt_irrefl k)] at hik
        rw [if_pos (Nat.lt_succ_self k), State.packet, hc, State.core_setCore_self, hik]
      · have hne : c ≠ cs.getD k 0 := by
          rw [hkget, ← hget]
          exact fun h => hki ((hnd.getElem_inj_iff.1 h).symm)
        rw [State.packet, State.core_setCore_ne _ _ hne, hik]
        by_cases hlt' : i < k
        · rw [if_pos hlt', if_pos (by omega)]
        · rw [if_neg hlt', if_neg (by omega)]
  exact (hgo cs.length (Nat.le_refl _)).trans (if_pos hlt)

theorem coreList_nodup (b : BitVec 4096) : (coreList b).Nodup := List.nodup_range.filter _

theorem not_mem_coreList {b : BitVec 4096} {c : Nat} (h : b.getLsbD c = false) : c ∉ coreList b := by
  intro hc
  have := (List.mem_filter.1 hc).2
  rw [h] at this
  exact Bool.false_ne_true this

end

/-! ### FILL and COPY -/

section
variable {s : State} {c : CoreId} {o : Nat}

/-- Readiness reads the granules, the banks, the tiles and the routes alone. -/
theorem State.Ready.congr {t : State} {k : Nat} (h : s.Ready c o k) (hg : t.gran = s.gran) (hb : t.banks = s.banks) (ht : t.tiles = s.tiles)
    (hy : t.yards = s.yards) (hn : t.net = s.net) (hl : t.loops = s.loops) : t.Ready c o k where
  aligned := h.aligned
  inside := h.inside
  gran i hi := by
    rw [State.granAt, hg]
    exact h.gran i hi
  linked i hi := (State.linked_congr (place_tileAddr c (by have := h.inside; omega)) hy hn hl).trans (h.linked i hi)
  tileOpen i hi := by
    have htile : t.tile c = s.tile c := by
      unfold State.tile
      rw [ht]
    exact (State.tileOpen_congr hb (by rw [htile]) (by rw [htile]) (by rw [htile])).trans (h.tileOpen i hi)

/-- A dispatch leaves the words ready. -/
theorem State.Ready.dispatching {r now k : Nat} {m : Cmd} {k' : Rig} (h : s.Ready c o k) : (s.dispatching r now m k').Ready c o k := by
  have hf := s.seeTick_frame now
  have h1 := congrArg State.gran hf
  have h2 := congrArg State.banks hf
  have h3 := congrArg State.tiles hf
  have h4 := congrArg State.yards hf
  have h5 := congrArg State.net hf
  have h6 := congrArg State.loops hf
  exact h.congr h1 h2 h3 h4 h5 h6

/-- A FILL of ready words writes its pattern over exactly its range. -/
theorem State.doFill_tile {q : CRec} {k : Nat} (h : s.Ready c o k) (ha : q.u 24 8 = tileAddr c o) (hn : q.u 32 8 = 64 * k)
    (hf : s.ras.flipTgt.getLsbD 63 = false) : ∃ t, s.doFill q = .ok t finOk ∧ s.TileUse t ∧
      t.mem = mwrite s.mem (tileAddr c o) (List.replicate k (fillWord (q.u 40 8))).flatten := by
  obtain ⟨t, ht, hu, hm⟩ := State.wordsWrite_tile (List.replicate k (fillWord (q.u 40 8))) (by rw [List.length_replicate]; exact h)
    (fun w hw => by rw [List.eq_of_mem_replicate hw, fillWord_length]) hf
  refine ⟨t, ?_, hu, hm⟩
  have hk : 64 * k / 64 = k := by omega
  unfold State.doFill
  dsimp only
  rw [ha, hn, hk]
  rw [fillWord] at ht
  rw [ht]
  rfl

/-- A COPY between ready words that do not overlap writes the source's bytes over exactly its destination. -/
theorem State.doCopy_tile {c' : CoreId} {o' : Nat} {q : CRec} {k : Nat} (h : s.Ready c o k) (h' : s.Ready c' o' k)
    (hm : ∀ i, i < 64 * k → s.mark (wordOf (tileAddr c (o + i))) = .none)
    (ha : q.u 24 8 = tileAddr c o) (hb : q.u 32 8 = tileAddr c' o') (hn : q.u 40 8 = 64 * k)
    (hlap : tileAddr c o + 64 * k ≤ tileAddr c' o' ∨ tileAddr c' o' + 64 * k ≤ tileAddr c o)
    (hf : s.ras.flipTgt.getLsbD 63 = false) : ∃ t, s.doCopy q = .ok t finOk ∧ s.TileUse t ∧
      t.mem = mwrite s.mem (tileAddr c' o') (mread s.mem (tileAddr c o) (64 * k)) := by
  obtain ⟨v, ws, hread, hu, hmem, -, hlen, hw, hws⟩ := State.wordsRead_tile k h hm
  have hu2 := hu.trans (v.tileUse_free (v.free + 64 + ws.length))
  have hready := h'.use hu2
  rw [← hlen] at hready
  obtain ⟨t, ht, hu3, hm3⟩ := State.wordsWrite_tile ws hready hw (hu2.flip ▸ hf)
  refine ⟨t, ?_, hu2.trans hu3, ?_⟩
  · have hk : 64 * k / 64 = k := by omega
    have hdisj : (decide (tileAddr c o < tileAddr c' o' + 64 * k) && decide (tileAddr c' o' < tileAddr c o + 64 * k)) = false := by
      rw [Bool.and_eq_false_iff, decide_eq_false_iff_not, decide_eq_false_iff_not]
      omega
    unfold State.doCopy
    dsimp only
    rw [ha, hb, hn, hk, hread]
    unfold Res.andThen
    dsimp only
    rw [hdisj]
    simp only [Bool.false_and, Bool.false_eq_true, if_false]
    rw [List.zipIdx_map_fst 0 ws, ht]
  · rw [hm3, ← hws]
    exact congrArg (fun x => mwrite x (tileAddr c' o') ws.flatten) hmem

end

end Sys2Proof.Machine
end

section
/-! PROOFS. The dispatch of RUN, FILL, COPY, PERF and of a re-ranker's cores. -/

namespace Sys2Proof.Machine

-- One theorem at a time, as in the tests: the proofs together take too many threads.
set_option Elab.async false

section
variable {s t : State} {r : RigId} {now : Nat} {m : Cmd} {k' : Rig}

theorem State.launch_run {upd : State → State → Nat → Cmd → State} {x : Nat} (h : m.r.op = 1) :
    State.launch upd s t x m = t.startCores (coreList m.cores) (m.r.u 24 8) (m.r.u 32 8) := by
  rw [State.launch, h] <;> rfl

theorem State.launch_copy {upd : State → State → Nat → Cmd → State} {x : Nat} (h : m.r.op = 2) :
    State.launch upd s t x m = orWait s (t.doCopy m.r) fun s f => s.endRunning x f := by
  rw [State.launch, h] <;> rfl

theorem State.launch_fill {upd : State → State → Nat → Cmd → State} {x : Nat} (h : m.r.op = 3) :
    State.launch upd s t x m = orWait s (t.doFill m.r) fun s f => s.endRunning x f := by
  rw [State.launch, h] <;> rfl

theorem State.launch_perf {upd : State → State → Nat → Cmd → State} {x : Nat} (h : m.r.op = 0xA) :
    State.launch upd s t x m = (t.doPerf m.r).endRunning x finOk := by
  rw [State.launch, h] <;> rfl

/-- A dispatched state is the old one but for its rigs and the admission unit. -/
theorem State.dispatching_frame (s : State) (r now : Nat) (m : Cmd) (k' : Rig) :
    { s.dispatching r now m k' with rigs := s.rigs, adm := s.adm } = s := by
  have h := congrArg (fun u : State => { u with adm := s.adm }) (s.seeTick_frame now)
  exact h

theorem State.dispatching_mem (s : State) (r now : Nat) (m : Cmd) (k' : Rig) : (s.dispatching r now m k').mem = s.mem :=
  s.seeTick_mem now

theorem State.dispatching_cores (s : State) (r now : Nat) (m : Cmd) (k' : Rig) : (s.dispatching r now m k').cores = s.cores :=
  s.seeTick_cores now

theorem State.dispatching_hostMem (s : State) (r now : Nat) (m : Cmd) (k' : Rig) : (s.dispatching r now m k').hostMem = s.hostMem := by
  have h := congrArg State.hostMem (s.seeTick_frame now)
  exact h

theorem State.dispatching_flip (s : State) (r now : Nat) (m : Cmd) (k' : Rig) : (s.dispatching r now m k').ras = s.ras := by
  have h := congrArg State.ras (s.seeTick_frame now)
  exact h

theorem State.dispatching_errs (s : State) (r now : Nat) (m : Cmd) (k' : Rig) : (s.dispatching r now m k').errs = s.errs := by
  have h := congrArg State.errs (s.seeTick_frame now)
  exact h

theorem State.TileUse.rigs (h : s.TileUse t) : t.rigs = s.rigs := by
  have hf := congrArg State.rigs h.frame
  exact hf

theorem State.TileUse.adm (h : s.TileUse t) : t.adm = s.adm := by
  have hf := congrArg State.adm h.frame
  exact hf

/-- Ready words, from what holds of every byte of their range. -/
theorem State.ready_of_bytes {c : Nat} (hc : c < 4096) {o n : Nat} (ho : o % 64 = 0) (hn : n % 64 = 0) (hr : o + n ≤ 0x8000000)
    (h : ∀ i, i < n → s.granAt (tileAddr c o + i) = .written ∧ s.linked .device (tileAddr c o + i) = true ∧
      s.tileOpen c (o + i) true = true) : s.Ready ⟨c, hc⟩ o (n / 64) where
  aligned := ho
  inside := by omega
  gran i hi := by
    rw [tileAddr_add]
    exact (h i (by omega)).1
  linked i hi := by
    rw [tileAddr_add]
    exact (h i (by omega)).2.1
  tileOpen i hi := (h i (by omega)).2.2

theorem getElem_mread (mm : Mem) (a : Nat) {n i : Nat} (h : i < (mread mm a n).length) : (mread mm a n)[i] = mget mm (a + i) := by
  have hi : i < n := by rwa [mread_length] at h
  have h1 := mread_part mm a (n := n) (d := i) (l := 1) (by omega)
  have h2 : ((mread mm a n).drop i).take 1 = [(mread mm a n)[i]] := by
    rw [List.take_one_drop_eq_of_lt_length h]
    rfl
  rw [h2] at h1
  exact (List.cons.inj h1).1

end

/-- A byte within a write, by its place in the list. -/
theorem mget_mwrite_at {mm : Mem} {a i : Nat} {bs : List Byte} {b : Byte} (h : bs[i]? = some b) : mget (mwrite mm a bs) (a + i) = b := by
  obtain ⟨hi, hb⟩ := List.getElem?_eq_some_iff.1 h
  rw [mget_mwrite_in bs mm a i hi, hb]

theorem mread_mwrite_prefix (mm : Mem) (a : Nat) {n : Nat} {xs : List Byte} (ys : List Byte) (h : xs.length = n) :
    mread (mwrite mm a (xs ++ ys)) a n = xs := by
  subst h
  have h1 := mread_mwrite (xs ++ ys) mm a
  rw [List.length_append, mread_add] at h1
  exact (List.append_inj h1 (mread_length _ _ _)).1

/-- A PERF snapshot begins with the tick and is 64 bytes. -/
theorem State.doPerf_host (s : State) (q : CRec) : ∃ bs, (s.doPerf q).hostMem = mwrite s.hostMem (q.u 24 8) (leBytes 8 s.adm.now ++ bs) ∧
    bs.length = 56 := by
  refine ⟨_, congrArg (mwrite s.hostMem (q.u 24 8)) (List.flatMap_cons), ?_⟩
  simp [List.flatMap_cons]

/-- Settles O44. -/
theorem plansDispatchTheirCommands : Obligations.PlansDispatchTheirCommands := by
  unfold Obligations.PlansDispatchTheirCommands
  intro s r now u k at_
  refine ⟨fun m ms h => Rig.next_plan h, fun m ms h h' => Rig.next_queue h h', fun h => congrArg Host.Outcome.next (State.dispatchNext_none h),
    fun m k' hnext hst hrun hs hfin => ?_, fun h => ?_, fun m v hm hstage hf h6 hw hrigs => ?_⟩
  · intro ran
    have hdisp : exec (.planDispatch r now) s = .next _ :=
      congrArg Host.Outcome.next (State.dispatchNext_eq (upd := State.startUpdate) hnext hst hrun)
    have hmem := s.dispatching_mem r now m k'
    have hcores := s.dispatching_cores r now m k'
    have hflip := s.dispatching_flip r now m k'
    have hhost := s.dispatching_hostMem r now m k'
    have hok {t : State} (hr : t.rigs = (s.dispatching r now m k').rigs) (ha : t.adm = (s.dispatching r now m k').adm) :
        ran (t.endRunning r finOk) (some finOk) ∧ (t.endRunning r finOk).mem = t.mem ∧ (t.endRunning r finOk).hostMem = t.hostMem := by
      obtain ⟨h1, h2⟩ := State.ranAs_ended (f := finOk) hs (by decide) hr ha
      have h3 := congrArg State.mem h2
      have h4 := congrArg State.hostMem h2
      exact ⟨h1, h3, h4⟩
    refine ⟨fun f h6 => ?_, fun h6 => ?_⟩
    · have hstat : ∃ f', s.dispatchDown m = some f' ∧ f'.status = 0x21 := by
        unfold State.dispatchDown
        rw [h6]
        refine ⟨_, rfl, ?_⟩
        split
        · rfl
        · unfold State.step6 at h6
          dsimp only at h6
          split at h6
          · rw [← Option.some.inj h6]
            rfl
          · exact absurd h6.symm (Option.some_ne_none f)
      obtain ⟨f', hd, hf'⟩ := hstat
      rw [hd] at hdisp
      obtain ⟨h1, h2⟩ := State.ranAs_ended (t := s.dispatching r now m k') (f := f') hs (by rw [hf']; decide) rfl rfl
      have h3 := congrArg State.mem h2
      have h4 := congrArg State.cores h2
      exact ⟨_, f', hdisp, hf', h1, h3.trans hmem, h4.trans hcores⟩
    · have hd : s.dispatchDown m = none := by
        unfold State.dispatchDown
        rw [h6]
      rw [hd] at hdisp
      refine ⟨fun ho => ?_, ?_, ?_, fun ho => ?_⟩
      · have hlaunch : State.launch State.startUpdate s (s.dispatching r now m k') r (m.begun s (max now s.adm.now)) =
            (s.dispatching r now m k').startCores (coreList m.cores) (m.r.u 24 8) (m.r.u 32 8) :=
          State.launch_run (m := m.begun s (max now s.adm.now)) ho
        have hfr := State.startCores_frame (s := s.dispatching r now m k') (cs := coreList m.cores) (e := m.r.u 24 8) (o := m.r.u 32 8)
        have hc := State.core_congr hcores
        have hout {c : Nat} (hc' : m.cores.getLsbD c = false) := State.startCores_out (s := s.dispatching r now m k') (e := m.r.u 24 8)
          (o := m.r.u 32 8) (not_mem_coreList hc')
        have hin {i c : Nat} (hi : (coreList m.cores)[i]? = some c) := State.startCores_in (s := s.dispatching r now m k') (e := m.r.u 24 8)
          (o := m.r.u 32 8) (coreList_nodup _) hi
        generalize (s.dispatching r now m k').startCores (coreList m.cores) (m.r.u 24 8) (m.r.u 32 8) = t at hlaunch hfr hout hin
        have h1 := congrArg State.rigs hfr
        have h2 := congrArg State.adm hfr
        have h3 := congrArg State.mem hfr
        rw [hc] at hout hin
        exact ⟨t, hdisp.trans (congrArg Host.Outcome.next hlaunch), State.ranAs_running hfin h1 h2, Eq.trans h3 hmem,
          fun i c hi => hin hi, fun c hc' => hout hc'⟩
      · intro c o ho b n ha h64 hn64 hc hin hf hall
        have hlen : n = 64 * (n / 64) := by omega
        have hready := (State.ready_of_bytes hc h64 hn64 hin hall).dispatching (r := r) (now := now) (m := m) (k' := k')
        obtain ⟨t, ht, hu, hm⟩ := State.doFill_tile hready ha hlen (by rw [hflip]; exact hf)
        obtain ⟨h1, h2, -⟩ := hok hu.rigs hu.adm
        refine ⟨_, hdisp.trans (congrArg Host.Outcome.next ((State.launch_fill (m := m.begun s (max now s.adm.now)) ho).trans ?_)), h1, ?_⟩
        · show orWait s ((s.dispatching r now m k').doFill m.r) _ = _
          rw [ht]
          rfl
        · rw [h2, hm, hmem]
          refine ⟨fun i hi => mget_mwrite_at (fill_byte _ _ _ (by omega)), fun x hx => mget_mwrite_out _ _ _ _ ?_⟩
          have hl : (List.replicate (n / 64) (fillWord (m.r.u 40 8))).flatten.length = n := by
            rw [List.length_flatten, List.map_replicate, List.sum_replicate, fillWord_length, smul_eq_mul]
            omega
          rw [hl]
          exact hx
      · intro c o c' o' ho a b n ha hb h64 h64' hn64 hc hc' hin hin' hlap hf hall
        have hlen : n = 64 * (n / 64) := by omega
        have hready := (State.ready_of_bytes hc h64 hn64 hin fun i hi =>
          ⟨(hall i hi).1, (hall i hi).2.2.2.1, (hall i hi).2.2.2.2.2.1⟩).dispatching (r := r) (now := now) (m := m) (k' := k')
        have hready' := (State.ready_of_bytes hc' h64' hn64 hin' fun i hi =>
          ⟨(hall i hi).2.1, (hall i hi).2.2.2.2.1, (hall i hi).2.2.2.2.2.2⟩).dispatching (r := r) (now := now) (m := m) (k' := k')
        have hclean : ∀ i, i < 64 * (n / 64) → (s.dispatching r now m k').mark (wordOf (tileAddr (⟨c, hc⟩ : CoreId) (o + i))) = .none := by
          intro i hi
          rw [State.mark, s.dispatching_errs, tileAddr_add]
          exact (hall i (by omega)).2.2.1
        obtain ⟨t, ht, hu, hm⟩ := State.doCopy_tile hready hready' hclean ha hb hlen (by rw [← hlen]; exact hlap) (by rw [hflip]; exact hf)
        obtain ⟨h1, h2, -⟩ := hok hu.rigs hu.adm
        refine ⟨_, hdisp.trans (congrArg Host.Outcome.next ((State.launch_copy (m := m.begun s (max now s.adm.now)) ho).trans ?_)), h1, ?_⟩
        · show orWait s ((s.dispatching r now m k').doCopy m.r) _ = _
          rw [ht]
          rfl
        · rw [h2, hm, hmem, ← hlen]
          refine ⟨fun i hi => ?_, fun x hx => mget_mwrite_out _ _ _ _ (by rw [mread_length]; exact hx)⟩
          have hi' : i < (mread s.mem a n).length := by rwa [mread_length]
          exact (mget_mwrite_in _ _ _ _ hi').trans (getElem_mread _ _ hi')
      · have hlaunch : State.launch State.startUpdate s (s.dispatching r now m k') r (m.begun s (max now s.adm.now)) =
            ((s.dispatching r now m k').doPerf m.r).endRunning r finOk := State.launch_perf (m := m.begun s (max now s.adm.now)) ho
        obtain ⟨h1, h2, h3⟩ := hok (t := (s.dispatching r now m k').doPerf m.r) rfl rfl
        obtain ⟨bs, hbs, hl⟩ := (s.dispatching r now m k').doPerf_host m.r
        have hnow : (s.dispatching r now m k').adm.now = at_ := congrArg Adm.now (s.dispatching_adm r now m k')
        rw [hhost, hnow] at hbs
        have hl64 : (leBytes 8 at_ ++ bs).length = 64 := by rw [List.length_append, leBytes_length, hl]
        refine ⟨_, hdisp.trans (congrArg Host.Outcome.next hlaunch), h1, ?_, h2.trans hmem, fun x hx => ?_⟩
        · rw [h3, hbs]
          exact mread_mwrite_prefix _ _ _ (leBytes_length 8 at_)
        · rw [h3, hbs]
          exact mget_mwrite_out _ _ _ _ (by rw [hl64]; exact hx)
  · show execRerankerDispatch r s = _
    unfold execRerankerDispatch
    split
    · rfl
    next m hm =>
      refine if_pos ?_
      rcases h m hm with h | h <;> simp [h]
  · have hd : s.dispatchDown m = none := by
      unfold State.dispatchDown
      rw [h6]
    have hex : exec (.rerankerDispatch r) s = .next ((v.modCmd r fun m => { m with stage := .running, ended := 0, stopped := 0 }).startCores
        (coreList m.cores) (m.r.u 40 8) (m.r.u 24 8)) := by
      show execRerankerDispatch r s = _
      unfold execRerankerDispatch
      rw [hm]
      refine (if_neg (by simp [hstage, hf])).trans ?_
      rw [hd, hw]
      rfl
    have hrun : ((v.modCmd r fun m => { m with stage := .running, ended := 0, stopped := 0 }).rig r).running =
        some { m with stage := .running, ended := 0, stopped := 0 } :=
      congrArg Rig.running (v.rig_modCmd_self r _ (by rw [State.rig_congr hrigs r]; exact hm))
    have hfr := State.startCores_frame (s := v.modCmd r fun m => { m with stage := .running, ended := 0, stopped := 0 })
      (cs := coreList m.cores) (e := m.r.u 40 8) (o := m.r.u 24 8)
    have hin {i c : Nat} (hi : (coreList m.cores)[i]? = some c) := State.startCores_in
      (s := v.modCmd r fun m => { m with stage := .running, ended := 0, stopped := 0 }) (e := m.r.u 40 8) (o := m.r.u 24 8) (coreList_nodup _) hi
    have hcore (c : Nat) : (v.modCmd r fun m => { m with stage := .running, ended := 0, stopped := 0 }).core c = v.core c := rfl
    have hmem : (v.modCmd r fun m => { m with stage := .running, ended := 0, stopped := 0 }).mem = v.mem := rfl
    generalize (v.modCmd r fun m => { m with stage := .running, ended := 0, stopped := 0 }) = x at hex hrun hfr hin hcore hmem
    generalize x.startCores (coreList m.cores) (m.r.u 40 8) (m.r.u 24 8) = t at hex hfr hin
    have h1 := congrArg State.mem hfr
    have h2 : t.rigs = x.rigs := by
      have h := congrArg State.rigs hfr
      exact h
    refine ⟨t, hex, Eq.trans h1 hmem, ?_, fun i c hi => ?_⟩
    · rw [State.rig_congr h2]
      exact hrun
    · rw [hin hi, hcore]

end Sys2Proof.Machine
end

section
/-! PROOFS. Abort points and the cycle maximum. -/

namespace Sys2Proof.Machine

-- One theorem at a time, as in the tests: the proofs together take too many threads.
set_option Elab.async false

section
variable {s t u : State} {r now : Nat} {m : Cmd} {k k' : Rig}

/-! ### The running command, counted in time -/

theorem Rig.SameButReefs.crig (h : k.SameButReefs k') : k'.crig = k.crig := by
  obtain ⟨n, g, hg, rfl⟩ := h
  rfl

/-- The running command differs by its reefed time alone. -/
theorem Rig.SameButReefs.running (h : k.SameButReefs k') {m' : Cmd} (hm : k'.running = some m') :
    ∃ m, k.running = some m ∧ { m' with reef := m.reef } = m := by
  obtain ⟨n, g, hg, rfl⟩ := h
  obtain ⟨m, h1, h2⟩ := Option.map_eq_some_iff.1 hm
  exact ⟨m, h1, h2 ▸ hg m⟩

theorem Rig.SameButReefs.running_some (h : k.SameButReefs k') (hm : k.running = some m) :
    ∃ x, k'.running = some { m with reef := x } := by
  obtain ⟨n, g, hg, rfl⟩ := h
  refine ⟨(g m).reef, ?_⟩
  show k.running.map g = _
  rw [hm]
  exact congrArg some (congrArg (fun x : Cmd => { x with reef := (g m).reef }) (hg m))

theorem State.seeTick_cmax (s : State) (now : Nat) : (s.seeTick now).cmax = s.cmax := by
  have h : (s.seeTick now).bar0 = s.bar0 := by
    have h := congrArg State.bar0 (s.seeTick_frame now)
    exact h
  unfold State.cmax State.ctrCfg State.reg
  rw [h]

/-- A command that is past its abort point, and a class C command that has run for CMAX. -/
def Cmd.isLate (m : Cmd) (at_ : Nat) : Bool := m.r.contract && m.abortAt ≤ at_

def Cmd.isSpent (m : Cmd) (k : Rig) (cmax at_ : Nat) : Bool := k.crig && cmax ≠ 0 && !m.r.contract && m.disp + cmax ≤ at_

theorem Cmd.isLate_iff {at_ : Nat} : m.isLate at_ = true ↔ m.r.contract = true ∧ m.abortAt ≤ at_ := by
  unfold Cmd.isLate
  rw [Bool.and_eq_true, decide_eq_true_eq]

theorem Cmd.isSpent_iff {cmax at_ : Nat} : m.isSpent k cmax at_ = true ↔
    k.crig = true ∧ cmax ≠ 0 ∧ m.r.contract = false ∧ m.disp + cmax ≤ at_ := by
  unfold Cmd.isSpent
  rw [Bool.and_eq_true, Bool.and_eq_true, Bool.and_eq_true, decide_eq_true_eq, decide_eq_true_eq, Bool.not_eq_true']
  tauto

/-- The running command of a rig is stopped where it is late. -/
def State.stopLate (s : State) (r at_ : Nat) : State :=
  match (s.rig r).running with
  | some m => if m.isLate at_ then s.stopRunning r 0x0D else s
  | none => s

theorem exec_abortPoint (s : State) (r : RigId) (now : Nat) : exec (.abortPoint r now) s =
    .next (((s.seeTick now).stopLate r (max now s.adm.now)).dropWaiting r 0x0D fun m => m.isLate (max now s.adm.now)) := by
  have h : (s.seeTick now).adm.now = max now s.adm.now := congrArg Adm.now (s.seeTick_adm now)
  rw [← h]
  rfl

theorem State.ends_stopLate (s : State) (r at_ : Nat) : s.Ends (s.stopLate r at_) := by
  unfold State.stopLate
  split
  · split
    · exact s.ends_stopRunning r 0x0D
    · exact .refl s
  · exact .refl s

theorem exec_cmaxExpiry_none {r : RigId} (h : (s.rig r).running = none) : exec (.cmaxExpiry r now) s = .next (s.seeTick now) := by
  have h' := (s.seeTick_rig now r).running_none.2 h
  show execCmaxExpiry r now s = _
  unfold execCmaxExpiry
  dsimp only
  rw [h']

theorem exec_cmaxExpiry {r : RigId} (h : (s.rig r).running = some m) : exec (.cmaxExpiry r now) s =
    .next (if m.isSpent (s.rig r) s.cmax (max now s.adm.now) then (s.seeTick now).stopRunning r 0x0D else s.seeTick now) := by
  have hsame := s.seeTick_rig now r
  obtain ⟨x, hx⟩ := hsame.running_some h
  have hadm : (s.seeTick now).adm.now = max now s.adm.now := congrArg Adm.now (s.seeTick_adm now)
  show execCmaxExpiry r now s = _
  unfold execCmaxExpiry
  dsimp only
  rw [hx]
  dsimp only
  rw [hsame.crig, s.seeTick_cmax, hadm]
  unfold Cmd.isSpent
  split <;> rfl

/-! ### Stopping the cores of a command -/

/-- The running command of a rig tells the front end a cause. -/
def State.Fronted (s : State) (r : Nat) : Prop := ∀ m, (s.rig r).running = some m → m.front.isSome = true

theorem State.fronted_stopOne (h : s.Fronted r) (cause c : Nat) : (s.stopOne r cause c).Fronted r := by
  unfold State.stopOne
  dsimp only
  split
  · intro m hm
    have hm' : (s.rig r).running.map (fun m => { m with stopped := m.stopped ||| BitVec.twoPow 4096 c }) = some m := by
      unfold State.modCmd at hm
      rw [State.rig_setRig_self] at hm
      exact hm
    obtain ⟨m0, h1, h2⟩ := Option.map_eq_some_iff.1 hm'
    rw [← h2]
    exact h m0 h1
  · split
    · exact h
    · exact h

/-- The state in which the front end has a cause to stop a command. -/
def State.frontStop (s : State) (r cause : Nat) : State :=
  s.modCmd r fun m => { m with front := if m.front.isSome then m.front else some cause }

theorem State.fronted_frontStop (s : State) (r cause : Nat) : (s.frontStop r cause).Fronted r := by
  intro m hm
  unfold State.frontStop State.modCmd at hm
  rw [State.rig_setRig_self] at hm
  obtain ⟨m0, h1, h2⟩ := Option.map_eq_some_iff.1 hm
  rw [← h2]
  dsimp only
  split
  next h => exact h
  · rfl

/-- A running command with cores is stopped by stopping each of them. -/
theorem State.stopRunning_cores {cause : Nat} (hm : (s.rig r).running = some m) (hf : m.fin = none) (hc : m.cores ≠ 0)
    (hst : m.stage = .running) : s.stopRunning r cause =
      ((s.frontStop r cause).each (s.othersOf m none) (State.stopOne r cause)).settle r := by
  have hrun := congrArg Rig.running (s.rig_modCmd_self r (fun m => { m with front := if m.front.isSome then m.front else some cause }) hm)
  have hcores := State.stopCores_eq _ r cause none hrun
  unfold State.stopRunning
  rw [hm]
  dsimp only
  rw [if_neg (by rw [hf]; decide), if_neg (by simpa using hc), if_neg (by rw [hst]; decide)]
  exact hcores

/-- What stopping a command with cores leaves. -/
theorem State.stopRunning_after {cause : Nat} (hm : (s.rig r).running = some m) (hf : m.fin = none) (hc : m.cores ≠ 0)
    (hst : m.stage = .running) : (s.stopRunning r cause).Fronted r ∧ (s.stopRunning r cause).mem = s.mem ∧
      (∀ c, c ∈ s.othersOf m none → (s.core c).disp = none → (s.stopRunning r cause).core c = (s.core c).stoppedBy cause) ∧
      ∀ c, c ∉ s.othersOf m none → (s.stopRunning r cause).core c = s.core c := by
  refine ⟨?_, (s.ends_stopRunning r cause).mem, fun c hin hd => ?_, fun c hout => ?_⟩
  · rw [State.stopRunning_cores hm hf hc hst]
    have h := State.each_keeps (s.frontStop r cause) (fun t => t.Fronted r) (State.stopOne r cause) (s.othersOf m none)
      (s.fronted_frontStop r cause) fun t c ht => State.fronted_stopOne ht cause c
    intro x hx
    rw [State.settle_rig] at hx
    exact h x hx
  · rw [State.stopRunning_cores hm hf hc hst, State.settle_core]
    exact (State.each_stopOne_core (s.frontStop r cause) r cause c _ hd).trans (if_pos hin)
  · rw [State.stopRunning_cores hm hf hc hst, State.settle_core]
    exact State.each_stopOne_core_out (s.frontStop r cause) r cause c _ hout

end

/-- Settles O45. -/
theorem abortPointsAndLimits : Obligations.AbortPointsAndLimits := by
  unfold Obligations.AbortPointsAndLimits
  intro s r now k at_ late spent
  have hlate (m : Cmd) : m.isLate at_ = true ↔ late m := Cmd.isLate_iff
  have hspent (m : Cmd) : m.isSpent k s.cmax at_ = true ↔ spent m := Cmd.isSpent_iff
  have hsame := s.seeTick_rig now r
  have hcores := s.seeTick_cores now
  have hmem := s.seeTick_mem now
  have habort := exec_abortPoint s r now
  refine ⟨?_, fun h => ?_, fun m i hm hf hc hst hwf hi => ?_, fun m hm hf hc hs hsp => ?_⟩
  · have hends := (s.seeTick now).ends_stopLate r at_
    refine ⟨_, habort, fun m => ?_, fun m => ?_, ?_, fun m hm hl hs => ?_⟩
    · rw [State.dropWaiting_self, Rig.mem_dropped_plan, hends.plan, hsame.plan, ← hlate]
    · rw [State.dropWaiting_self, Rig.mem_dropped_cq, hends.cq, hsame.cq, ← hlate]
    · rw [State.dropWaiting_mem, hends.mem, hmem]
    · refine State.mem_dropWaiting _ ?_ ((hlate m).2 hl) hs
      rw [hends.plan, hends.cq, hsame.plan, hsame.cq]
      exact hm
  · cases hr : k.running with
    | none => exact exec_cmaxExpiry_none hr
    | some m =>
      refine (exec_cmaxExpiry hr).trans (congrArg Host.Outcome.next (if_neg ?_))
      rw [hspent m]
      exact h m hr
  · obtain ⟨x, hx⟩ := hsame.running_some hm
    obtain ⟨hfront, hmem', hin, hout⟩ := State.stopRunning_after (cause := 0x0D) hx hf hc hst
    have hcore : (s.seeTick now).core = s.core := State.core_congr hcores
    rw [hcore] at hin hout
    have hother (c : Nat) : c ∈ (s.seeTick now).othersOf { m with reef := x } none ↔ c ∈ s.cores.map (·.1) ∧ m.cores.getLsbD c = true := by
      unfold State.othersOf
      rw [hcores, List.mem_filter]
      simp
    have hafter : (∀ c, c < 4096 → m.cores.getLsbD c = true → (s.core c).disp = none →
          (s.core c).phase = .running ∨ (s.core c).phase = .ending → (((s.seeTick now).stopRunning r 0x0D).core c).phase = .draining ∧
            (((s.seeTick now).stopRunning r 0x0D).core c).stop =
              (if (s.core c).stop.isSome then (s.core c).stop else some ⟨0x0D, (s.core c).pc.toNat⟩)) ∧
        ∀ c, m.cores.getLsbD c = false → ((s.seeTick now).stopRunning r 0x0D).core c = s.core c := by
      refine ⟨fun c _ hmc hd hp => ?_, fun c hmc => hout c ?_⟩
      · have hkey : c ∈ s.cores.map (·.1) := by
          refine mem_keys_of_tget_ne (d := {}) fun he => ?_
          have he' : (s.core c).phase = .idle := congrArg Core.phase he
          rcases hp with hp | hp <;> exact absurd (he'.symm.trans hp) (by decide)
        rw [hin c ((hother c).2 ⟨hkey, hmc⟩) hd, Core.stoppedBy, hd]
        dsimp only
        rw [if_pos (by simpa using hp)]
        exact ⟨rfl, rfl⟩
      · rw [hother, hmc]
        exact fun h => absurd h.2 Bool.false_ne_true
    rcases hi with ⟨hl, rfl⟩ | ⟨hsp, rfl⟩
    · have hstop : (s.seeTick now).stopLate r at_ = (s.seeTick now).stopRunning r 0x0D := by
        unfold State.stopLate
        rw [hx]
        exact if_pos ((hlate { m with reef := x }).2 hl)
      rw [hstop] at habort
      generalize (s.seeTick now).stopRunning r 0x0D = t at habort hfront hmem' hafter
      have hdc := t.dropWaiting_cores r 0x0D fun m => m.isLate at_
      have hdcore := State.core_congr hdc
      refine ⟨_, habort, (t.dropWaiting_mem _ _ _).trans (hmem'.trans hmem), fun m' hm' => ?_, ?_, ?_⟩
      · rw [State.dropWaiting_self] at hm'
        exact hfront m' hm'
      · rw [hdcore]
        exact hafter.1
      · rw [hdcore]
        exact hafter.2
    · exact ⟨_, (exec_cmaxExpiry hm).trans (congrArg Host.Outcome.next (if_pos ((hspent m).2 hsp))), hmem'.trans hmem, hfront, hafter⟩
  · obtain ⟨x, hx⟩ := hsame.running_some hm
    have hstop : (s.seeTick now).stopRunning r 0x0D = (s.seeTick now).endRunning r (finAborted 0x0D) := by
      unfold State.stopRunning
      rw [hx]
      dsimp only
      rw [if_neg (by rw [hf]; decide), if_pos (beq_iff_eq.2 hc)]
    have hex : exec (.cmaxExpiry r now) s = .next ((s.seeTick now).stopRunning r 0x0D) :=
      (exec_cmaxExpiry hm).trans (congrArg Host.Outcome.next (if_pos ((hspent m).2 hsp)))
    rw [hstop] at hex
    have hsum := (s.seeTick now).putStopSum_frame m.r (finAborted 0x0D)
    rw [State.endRunning_eq _ hx, if_neg (show ¬ regStrm ≤ m.r.strm from Nat.not_le.2 hs)] at hex
    have hdone : (s.seeTick now).adm.done = s.adm.done := by
      have h := congrArg Adm.done (s.seeTick_adm now)
      exact h
    generalize (s.seeTick now).putStopSum m.r (finAborted 0x0D) = t at hex hsum
    have hrig : t.rigs = (s.seeTick now).rigs := by
      have h := congrArg State.rigs hsum
      exact h
    have hadm : t.adm = (s.seeTick now).adm := by
      have h := congrArg State.adm hsum
      exact h
    refine ⟨_, { ({ m with reef := x } : Cmd) with fin := some (finAborted 0x0D), upd := {} }, hex, ?_, rfl, ?_⟩
    · exact congrArg Rig.running (t.rig_modCmd_self r _ (by rw [State.rig_congr hrig]; exact hx))
    · show t.adm.done ++ _ = _
      rw [hadm, hdone]

end Sys2Proof.Machine
end

section
/-! PROOFS. The sheet controller (R494, R553, R554): its events, and the loop-backs a takeover ends. -/

namespace Sys2Proof.Machine

-- One theorem at a time, as in the tests: the proofs together take too many threads.
set_option Elab.async false

variable {s : State} {i j : Nat}

/-- A loop-back that runs or leaves (Table 22-5). -/
def Loop.active (l : Loop) : Prop := l.st = 1 ∨ l.st = 2 ∨ l.st = 3

/-- A loop-back ended by the device. -/
def Loop.cut (l : Loop) : Prop := l.st = 0 ∧ l.result = 5

/-- One loop-back's part of `State.loopsEnded`. -/
def State.cutLoop (s : State) (i : Nat) : State :=
  let l := s.loop i
  if l.st = 1 || l.st = 2 || l.st = 3 then s.loopEnd i 5 l.errs l.time else s

theorem State.loopsEnded_eq (s : State) : s.loopsEnded = s.each (s.loops.map (·.1)) State.cutLoop := rfl

/-- The end of a loop-back touches its own fields and the port it ran on. -/
theorem State.loopEnd_loops (s : State) (i : Nat) (result : BitVec 8) (errs time : Nat) :
    (s.loopEnd i result errs time).loops = (s.setLoop i { s.loop i with
      ctl := (s.loop i).ctl &&& ~~~1, st := 0, result := result, errs := satTo 0xFFFFFF errs, time := satTo 0xFFFF time }).loops := by
  unfold State.loopEnd
  dsimp only
  split <;> rfl

theorem State.loopEnd_frame (s : State) (i : Nat) (result : BitVec 8) (errs time : Nat) :
    { s.loopEnd i result errs time with loops := s.loops, casc := s.casc } = s := by
  unfold State.loopEnd
  dsimp only
  split <;> rfl

theorem State.loop_congr {s t : State} (h : t.loops = s.loops) (i : Nat) : t.loop i = s.loop i :=
  congrArg (fun l => tget ({} : Loop) l i) h

theorem State.cutLoop_frame (s : State) (i : Nat) : { s.cutLoop i with loops := s.loops, casc := s.casc } = s := by
  unfold State.cutLoop
  dsimp only
  split
  · exact s.loopEnd_frame i 5 _ _
  · rfl

theorem State.cutLoop_other (h : j ≠ i) : (s.cutLoop i).loop j = s.loop j := by
  unfold State.cutLoop
  dsimp only
  split
  · exact (State.loop_congr (s.loopEnd_loops i 5 _ _) j).trans (State.loop_setLoop_ne _ _ h)
  · rfl

theorem State.cutLoop_self (h : (s.loop i).active) : ((s.cutLoop i).loop i).cut := by
  have hrun : ((s.loop i).st = 1 || (s.loop i).st = 2 || (s.loop i).st = 3) = true := by
    simpa [Loop.active, or_assoc] using h
  have hloop := (State.loop_congr (s.loopEnd_loops i 5 (s.loop i).errs (s.loop i).time) i).trans (State.loop_setLoop_self _ _ _)
  unfold State.cutLoop
  rw [if_pos hrun, hloop]
  exact ⟨rfl, rfl⟩

theorem State.cutLoop_cut (h : (s.loop j).cut) : ((s.cutLoop i).loop j).cut := by
  obtain rfl | hne := eq_or_ne j i
  · have hidle : ¬ ((s.loop j).st = 1 || (s.loop j).st = 2 || (s.loop j).st = 3) = true := by
      rw [h.1]
      decide
    unfold State.cutLoop
    rwa [if_neg hidle]
  · rwa [State.cutLoop_other hne]

theorem State.loopsEnded_frame (s : State) : { s.loopsEnded with loops := s.loops, casc := s.casc } = s := by
  rw [State.loopsEnded_eq]
  exact s.each_keeps (fun t => { t with loops := s.loops, casc := s.casc } = s) State.cutLoop _ rfl
    fun t i ht => (congrArg (fun u : State => { u with loops := s.loops, casc := s.casc }) (t.cutLoop_frame i)).trans ht

/-- Whatever ends first, a loop-back that is active is ended once its turn comes. -/
theorem State.each_cutLoop (xs : List Nat) (hj : j ∈ xs) : ∀ s : State, (s.loop j).active → ((s.each xs State.cutLoop).loop j).cut := by
  induction xs with
  | nil => exact absurd hj List.not_mem_nil
  | cons x xs ih =>
    intro s h
    show (((s.cutLoop x).each xs State.cutLoop).loop j).cut
    obtain rfl | hne := eq_or_ne j x
    · exact State.each_keeps _ (fun t => (t.loop j).cut) State.cutLoop _ (State.cutLoop_self h) fun _ _ ht => State.cutLoop_cut ht
    · exact ih ((List.mem_cons.1 hj).resolve_left hne) _ (by rwa [State.cutLoop_other hne])

theorem State.loopsEnded_cut (h : (s.loop j).active) : (s.loopsEnded.loop j).cut := by
  refine State.each_cutLoop _ (mem_keys_of_tget_ne (d := {}) fun he => ?_) s h
  have hst : (s.loop j).st = 0 := congrArg Loop.st he
  rcases h with h | h | h <;> exact absurd (hst.symm.trans h) (by decide)

/-- Sources raised one after another: each is pending at the end, and nothing but the event state changes. -/
theorem State.raiseAll (ns : List Nat) : ∀ s : State, let t := ns.foldl State.raiseSrc s
    (∀ m, s.evt.pend.getLsbD m = true → t.evt.pend.getLsbD m = true) ∧
    (∀ n ∈ ns, n < 2048 → listedSource n = true → n < 128 ∨ 192 ≤ n → t.evt.pend.getLsbD n = true) ∧
    { t with evt := s.evt } = s := by
  induction ns with
  | nil => exact fun s => ⟨fun _ h => h, fun n hn => absurd hn List.not_mem_nil, rfl⟩
  | cons n ns ih =>
    intro s t
    obtain ⟨hmono, hpend, hframe⟩ := ih (s.raiseSrc n)
    refine ⟨fun m h => hmono m (State.raiseSrc_pend_mono n h), fun k hk hlt hl hr => ?_, ?_⟩
    · rcases List.mem_cons.1 hk with rfl | hk
      · exact hmono k (State.raiseSrc_pend hl hr hlt)
      · exact hpend k hk hlt hl hr
    · have h := congrArg (fun u : State => { u with evt := s.evt }) hframe
      exact h.trans (s.raiseSrc_frame n)

/-- A listed source has a number of the tables (21). -/
theorem lt_of_listedSource {n : Nat} (h : listedSource n = true) : n < 2048 := by
  unfold listedSource at h
  simp only [Bool.or_eq_true, Bool.and_eq_true, decide_eq_true_eq] at h
  omega

/-- Settles O54, a case for each event and state of the sheet controller. -/
theorem theSheetControllerFailsOver : Obligations.TheSheetControllerFailsOver := by
  unfold Obligations.TheSheetControllerFailsOver
  intro s k
  refine ⟨fun h => ?_, fun h hs => ?_, fun h hs => ?_, fun h h1 hs => ?_, fun h => ?_, fun h => ?_, fun h => ?_, fun h => ?_, ?_, fun n h => ?_,
    fun n h => ?_⟩
  · exact congrArg Host.Outcome.next (if_pos h)
  · have hm : s.mismatch = s.railsOff := (if_neg h).trans (if_pos (by rw [hs]; rfl))
    exact ⟨_, congrArg Host.Outcome.next hm, rfl, rfl, rfl⟩
  · have h0 : s.boot.ph ≠ 0 := by rw [h]; decide
    exact congrArg Host.Outcome.next ((if_neg h0).trans ((if_neg (by rw [hs]; decide)).trans (if_pos h)))
  · have hm : s.mismatch = (({ s with nest := { s.nest with sheet := .takeover, standby := false } } : State).loopsEnded).raiseSrc 5 :=
      (if_neg h).trans ((if_neg (by rw [hs]; decide)).trans (if_neg h1))
    have hf := ({ s with nest := { s.nest with sheet := .takeover, standby := false } } : State).loopsEnded_frame
    have hcut := fun i (hi : (s.loop i).active) => State.loopsEnded_cut
      (s := { s with nest := { s.nest with sheet := .takeover, standby := false } }) (j := i) hi
    generalize ({ s with nest := { s.nest with sheet := .takeover, standby := false } } : State).loopsEnded = t at hm hf hcut
    obtain ⟨e, he⟩ := t.raiseSrc_eq 5
    have hp : (t.raiseSrc 5).evt.pend.getLsbD 5 = true := State.raiseSrc_pend (by decide) (by decide) (by decide)
    have hnest := congrArg State.nest hf
    have hmem := congrArg State.mem hf
    have hcores := congrArg State.cores hf
    refine ⟨_, congrArg Host.Outcome.next hm, ?_, hp, ?_, ?_, fun i hi => ?_⟩
    · rw [he]; exact hnest
    · rw [he]; exact hmem
    · rw [he]; exact hcores
    · rw [he]; exact hcut i hi
  · exact congrArg Host.Outcome.next (if_pos h)
  · exact congrArg Host.Outcome.next (if_neg h)
  · exact congrArg Host.Outcome.next (if_neg h)
  · obtain ⟨_, hpend, hframe⟩ := State.raiseAll s.nest.latched { s with nest := { s.nest with sheet := .running, latched := [] } }
    have hex : exec .standbyTakeoverDone s = .next s.sheetRuns := congrArg Host.Outcome.next (if_pos h)
    refine ⟨_, hex, ?_, fun n hn hl hr => hpend n hn (lt_of_listedSource hl) hl hr, ?_⟩
    · have hn := congrArg State.nest hframe
      exact hn
    · have hn := congrArg (fun u : State => { u with nest := s.nest }) hframe
      exact hn
  · intro woken
    show Host.Outcome.next (if s.nest.timer then _ else s) = _
    refine congrArg Host.Outcome.next (if_congr Iff.rfl ?_ rfl)
    unfold State.wakeSheet
    by_cases hw : s.nest.sheet = .waiting
    · rw [if_pos (show ({ s.nest with timer := false } : Nest).sheet = .waiting from hw)]
      simp [woken, k, hw]
    · rw [if_neg (show ¬ ({ s.nest with timer := false } : Nest).sheet = .waiting from hw)]
      simp [woken, k, hw]
  · show execCrowsNestWake n s = _
    unfold execCrowsNestWake
    rw [if_pos (by rw [h]; rfl)]
  · show execCrowsNestWake n s = _
    unfold execCrowsNestWake
    rw [if_neg (by rw [h]; decide)]
    by_cases hw : s.nest.sheet = .waiting
    · have hwake : s.wakeSheet = { s with nest := { s.nest with sheet := .running } } := if_pos hw
      simp only [k, hw, if_true]
      rw [hwake]
    · cases hk : s.nest.sheet <;> simp_all [k]

end Sys2Proof.Machine
end

section
/-! PROOFS. The ports of the cascade: training, attestation, lanes, and the port that goes down (R380 to R383, R387, R399, R506). -/

namespace Sys2Proof.Machine

-- One theorem at a time, as in the tests: the proofs together take too many threads.
set_option Elab.async false

section
variable {s t u : State} {p q r : Nat}

/-! ### Sweeps with one round that matters -/

/-- A sweep in which one index is visited once: what held before its round becomes, in its round, what holds after. -/
theorem State.each_turn {f : State → Nat → State} {P Q : State → Prop} {n : Nat} {xs : List Nat} (hx : xs.Nodup) (hn : n ∈ xs)
    (hP : ∀ t i, i ≠ n → P t → P (f t i)) (hPQ : ∀ t, P t → Q (f t n)) (hQ : ∀ t i, i ≠ n → Q t → Q (f t i)) :
    ∀ s : State, P s → Q (s.each xs f) := by
  induction xs with
  | nil => exact absurd hn List.not_mem_nil
  | cons x xs ih =>
    intro s h
    obtain ⟨hxs, hnd⟩ := List.nodup_cons.1 hx
    show Q ((f s x).each xs f)
    obtain rfl | hne := eq_or_ne x n
    · have hall : ∀ ys : List Nat, (∀ y ∈ ys, y ≠ x) → ∀ t : State, Q t → Q (t.each ys f) := by
        intro ys
        induction ys with
        | nil => exact fun _ t ht => ht
        | cons y ys ihy =>
          exact fun hy t ht => ihy (fun z hz => hy z (List.mem_cons_of_mem y hz)) (f t y) (hQ t y (hy y List.mem_cons_self) ht)
      exact hall xs (fun y hy he => hxs (he ▸ hy)) _ (hPQ s h)
    · exact ih hnd ((List.mem_cons.1 hn).resolve_left (Ne.symm hne)) _ (hP s x hne h)

/-! ### Sources that stay pending -/

/-- Every source that is pending in s is pending in t. -/
def State.Pends (s t : State) : Prop := ∀ n, s.evt.pend.getLsbD n = true → t.evt.pend.getLsbD n = true

theorem State.Pends.of_evt (h : t.evt = s.evt) : s.Pends t := fun n hn => by rwa [h]

theorem State.Pends.trans (h : s.Pends t) (h' : t.Pends u) : s.Pends u := fun n hn => h' n (h n hn)

theorem State.pends_setPort (s : State) (p : Nat) (k : Port) : s.Pends (s.setPort p k) := .of_evt rfl

theorem State.pends_raiseSrc (s : State) (n : Nat) : s.Pends (s.raiseSrc n) := fun _ h => State.raiseSrc_pend_mono n h

theorem State.putStopSum_evt (s : State) (r : CRec) (f : Fin') : (s.putStopSum r f).evt = s.evt := by
  have h := congrArg State.evt (s.putStopSum_frame r f)
  exact h

theorem State.pends_endRunning (s : State) (r : Nat) (f : Fin') : s.Pends (s.endRunning r f) := by
  cases h : (s.rig r).running with
  | none => exact .of_evt (congrArg State.evt (State.endRunning_none f h))
  | some m =>
    have hsum := s.putStopSum_evt m.r f
    rw [State.endRunning_eq f h]
    generalize s.putStopSum m.r f = t at hsum ⊢
    split
    · exact (State.Pends.of_evt (s := s) (t := ((t.finish r f).setRig r ({ (t.finish r f).rig r with running := none } : Rig).refault)) hsum).trans
        (State.pends_raiseSrc { ((t.finish r f).setRig r ({ (t.finish r f).rig r with running := none } : Rig).refault) with
          scrub := { t.scrub with busy := false, done := true, status := f.status, rig := none } } 257)
    · exact .of_evt hsum

/-! ### UPDATEs that a port ends -/

theorem State.endUpdates_eq (s : State) (p : Nat) : s.endUpdates p = s.each (List.range 64) (State.endUpdate p) := rfl

theorem State.endUpdate_cases (s : State) (p r : Nat) : State.endUpdate p s r = s ∨
    ∃ m, (s.rig r).running = some m ∧ State.endUpdate p s r = s.endRunning r ⟨0x21, stopDetail m.unwritten none 0x0B⟩ := by
  unfold State.endUpdate
  split
  next m hm =>
    split
    · exact .inr ⟨m, hm, rfl⟩
    · exact .inl rfl
  · exact .inl rfl

theorem State.pends_endUpdates (s : State) (p : Nat) : s.Pends (s.endUpdates p) := by
  rw [State.endUpdates_eq]
  refine s.each_keeps (fun t => s.Pends t) _ _ (fun _ h => h) fun t n ht => ht.trans ?_
  rcases t.endUpdate_cases p n with h | ⟨m, _, h⟩ <;> rw [h]
  · exact fun _ h => h
  · exact t.pends_endRunning n _

theorem State.Ends.casc (h : s.Ends t) : t.casc = s.casc := by
  have hf := congrArg State.casc h.frame
  exact hf

theorem State.Ends.boot (h : s.Ends t) : t.boot = s.boot := by
  have hf := congrArg State.boot h.frame
  exact hf

theorem State.port_congr (h : t.casc = s.casc) (p : Nat) : t.port p = s.port p := congrArg (fun c : Casc => tget ({} : Port) c.ports p) h

/-! ### A port that goes down -/

/-- A port that is down. -/
def Port.downed (k : Port) : Port := { k with st := 0, t1 := none }

theorem State.portDown_eq (s : State) (p : Nat) : s.portDown p = ((s.setPort p (s.port p).downed).endUpdates p).raiseSrc (768 + p) := rfl

theorem State.ends_portDown (s : State) (p : Nat) : (s.setPort p (s.port p).downed).Ends (s.portDown p) := by
  rw [State.portDown_eq]
  exact (State.ends_endUpdates _ p).trans (State.ends_raiseSrc _ _)

theorem State.portDown_self (s : State) (p : Nat) : (s.portDown p).port p = (s.port p).downed :=
  (State.port_congr (s.ends_portDown p).casc p).trans (State.port_setPort_self _ _ _)

theorem State.portDown_other (h : q ≠ p) : (s.portDown p).port q = s.port q :=
  (State.port_congr (s.ends_portDown p).casc q).trans (State.port_setPort_ne _ _ h)

theorem State.portDown_mem (s : State) (p : Nat) : (s.portDown p).mem = s.mem := (s.ends_portDown p).mem

theorem State.pends_portDown (s : State) (p : Nat) : s.Pends (s.portDown p) := by
  rw [State.portDown_eq]
  exact ((s.pends_setPort p (s.port p).downed).trans (State.pends_endUpdates _ p)).trans
    (State.pends_raiseSrc _ _)

/-- The source of a port is pending once it is raised. -/
theorem State.raisePort_pend (s : State) (p : PortId) : (s.raiseSrc (768 + p)).evt.pend.getLsbD (768 + p.val) = true := by
  have hp := p.isLt
  refine State.raiseSrc_pend ?_ (by omega) (by omega)
  simp only [listedSource, Bool.or_eq_true, Bool.and_eq_true, decide_eq_true_eq]
  omega

theorem State.portDown_pend (s : State) (p : PortId) : (s.portDown p).evt.pend.getLsbD (768 + p.val) = true :=
  State.raisePort_pend _ p

/-! ### Enabling ports -/

/-- One port's part of a write of PEN. -/
def State.enablePort (pen present : BitVec 6) (s : State) (p : Nat) : State :=
  let k := s.port p
  let s := s.setPort p { k with pen := pen.getLsbD p, present := present.getLsbD p }
  if pen.getLsbD p && !k.pen then s.setPort p (s.port p).train
  else if !pen.getLsbD p && k.pen then (if k.st = 0 then s else s.portDown p)
  else s

variable {pen present : BitVec 6}

theorem State.portEnable_eq (s : State) (pen present : BitVec 6) : s.portEnable pen present =
    s.each (List.range 6) (State.enablePort pen present) := rfl

theorem State.enablePort_other (h : q ≠ p) : (State.enablePort pen present s p).port q = s.port q := by
  unfold State.enablePort
  dsimp only
  have h1 (k : Port) : (s.setPort p k).port q = s.port q := State.port_setPort_ne _ _ h
  split
  · exact (State.port_setPort_ne _ _ h).trans (h1 _)
  · split
    · split
      · exact h1 _
      · exact (State.portDown_other h).trans (h1 _)
    · exact h1 _

theorem State.enablePort_mem (s : State) (p : Nat) : (State.enablePort pen present s p).mem = s.mem := by
  unfold State.enablePort
  dsimp only
  split
  · rfl
  · split
    · split
      · rfl
      · exact State.portDown_mem _ p
    · rfl

theorem State.pends_enablePort (s : State) (p : Nat) : s.Pends (State.enablePort pen present s p) := by
  unfold State.enablePort
  dsimp only
  split
  · exact (s.pends_setPort p _).trans (State.pends_setPort _ p _)
  · split
    · split
      · exact s.pends_setPort p _
      · exact (s.pends_setPort p _).trans (State.pends_portDown _ p)
    · exact s.pends_setPort p _

/-- Rounds of a write of PEN before a port's own leave that port, and rounds after it too. -/
theorem State.portEnable_at {p : PortId} {Q : Port → BitVec 2048 → Prop} (hmono : ∀ k e e', (∀ n, e.getLsbD n = true → e'.getLsbD n = true) → Q k e → Q k e')
    (h : ∀ t : State, t.port p = s.port p → Q ((State.enablePort pen present t p).port p) (State.enablePort pen present t p).evt.pend) :
    Q ((s.portEnable pen present).port p) (s.portEnable pen present).evt.pend := by
  have hother : ∀ (t : State) (i : Nat), i ≠ p.val → (State.enablePort pen present t i).port p = t.port p :=
    fun t i hi => State.enablePort_other (s := t) (p := i) (q := p.val) (Ne.symm hi)
  rw [State.portEnable_eq]
  have hp : p.val ∈ List.range 6 := List.mem_range.2 p.isLt
  generalize hxs : List.range 6 = xs at hp
  have hnd : xs.Nodup := hxs ▸ List.nodup_range
  exact State.each_turn (f := State.enablePort pen present) (P := fun t => t.port p = s.port p) (Q := fun t => Q (t.port p) t.evt.pend)
    (n := p.val) hnd hp (fun t i hi ht => (hother t i hi).trans ht) h
    (fun t i hi ht => (hother t i hi).symm ▸ hmono _ _ _ (t.pends_enablePort i) ht) s rfl

end

/-! ### The obligation -/

/-- Settles O48, a case for each event of a port. -/
theorem portsTrainAttestAndFail : Obligations.PortsTrainAttestAndFail := by
  unfold Obligations.PortsTrainAttestAndFail
  intro s p k
  refine ⟨fun pen present hb => ?_, fun r hb => ⟨fun ⟨q, hq, hp⟩ => ?_, fun hp => ?_⟩, fun h hr => ?_, fun lane h => ?_, fun lane h h0 => ?_,
    fun lane h h0 hl hh => ?_, ?_, fun digest signed rank port => ?_⟩
  · have hex : exec (.portEnable pen present) s = .next (s.portEnable pen present) := congrArg Host.Outcome.next (if_pos hb)
    refine ⟨_, hex, ?_, fun h h' => ?_, fun h => ?_, fun h h' h0 => ?_⟩
    · rw [State.portEnable_eq]
      exact s.each_keeps (fun t => t.mem = s.mem) _ _ rfl fun t n ht => (t.enablePort_mem n).trans ht
    · refine State.portEnable_at (Q := fun x _ => x = ({ k with pen := true, present := present.getLsbD p } : Port).train)
        (fun _ _ _ _ hk => hk) fun t ht => ?_
      unfold State.enablePort
      dsimp only
      rw [ht, h', if_pos (by rw [h]; rfl), State.port_setPort_self, State.port_setPort_self]
    · refine State.portEnable_at (Q := fun x _ => x = { k with present := present.getLsbD p }) (fun _ _ _ _ hk => hk) fun t ht => ?_
      unfold State.enablePort
      dsimp only
      rw [ht, ← h, if_neg (by simp [k]), if_neg (by simp [k]), State.port_setPort_self]
    · have hkey := State.portEnable_at (s := s) (pen := pen) (present := present) (p := p)
        (Q := fun x e => x.st = 0 ∧ x.pen = false ∧ e.getLsbD (768 + p.val) = true)
        (fun _ _ _ he hk => ⟨hk.1, hk.2.1, he _ hk.2.2⟩) fun t ht => ?_
      · exact hkey
      · unfold State.enablePort
        dsimp only
        rw [ht, h', if_neg (by simp), if_pos (by rw [h]; rfl), if_neg h0, State.portDown_self, State.port_setPort_self]
        exact ⟨rfl, rfl, State.portDown_pend _ p⟩
  · have hex : s.rankWrite r = s := if_pos (List.any_eq_true.2 ⟨q, List.mem_range.2 hq, hp⟩)
    exact congrArg Host.Outcome.next ((if_pos hb).trans hex)
  · have hany : ¬ ((List.range 6).any fun p => (s.port p).pen) = true := by
      rw [List.any_eq_true]
      rintro ⟨q, hq, hpen⟩
      rw [hp q (List.mem_range.1 hq)] at hpen
      cases hpen
    have hex : s.rankWrite r = { s with casc := { s.casc with rank := r } } := if_neg hany
    exact congrArg Host.Outcome.next ((if_pos hb).trans hex)
  · have hsat : satTo 0xFFFF (k.retry + 1) = k.retry + 1 := by
      unfold satTo
      exact if_pos (Nat.succ_le_of_lt hr)
    have hex : (if (s.port p).st = 0 then s else s.setPort p { s.port p with retry := satTo 0xFFFF ((s.port p).retry + 1) }) =
        s.setPort p { k with retry := k.retry + 1 } := by
      rw [if_neg h, hsat]
    exact congrArg Host.Outcome.next hex
  · show execPahusLaneFailed p lane s = _
    unfold execPahusLaneFailed
    dsimp only
    rw [if_pos (by simpa using h)]
  · have hex : exec (.pahusLaneFailed p lane) s = .next (((s.setPort p { k with failed := BitVec.twoPow 17 lane, spare := if lane.val < 16 then some lane.val else k.spare }).bumpGen).raiseSrc (768 + p)) := by
      show execPahusLaneFailed p lane s = _
      unfold execPahusLaneFailed
      dsimp only
      have hup : ¬ (decide ((s.port p).st = 0) || (s.port p).failed.getLsbD lane) = true := by
        rw [Bool.or_eq_true, decide_eq_true_eq, show (s.port p).failed = 0 from h0]
        exact not_or.2 ⟨h, by simp⟩
      rw [if_neg hup, show (s.port p).failed = 0 from h0]
      simp [k]
    obtain ⟨e, he⟩ := (((s.setPort p { k with failed := BitVec.twoPow 17 lane, spare := if lane.val < 16 then some lane.val else k.spare }).bumpGen)).raiseSrc_eq (768 + p)
    refine ⟨_, hex, ?_, ?_, State.raisePort_pend _ p, ?_⟩
    · rw [he]
      exact State.port_setPort_self _ _ _
    · rw [he]
      rfl
    · rw [he]
      rfl
  · have hex : ∃ t : State, exec (.pahusLaneFailed p lane) s = .next (t.portDown p) := by
      show ∃ t : State, execPahusLaneFailed p lane s = _
      unfold execPahusLaneFailed
      dsimp only
      have hfirst : ((s.port p).failed == 0) = false := beq_eq_false_iff_ne.2 h0
      have h1 := hh 0 (by decide)
      have h2 := hh 1 (by decide)
      have hup : ¬ (decide ((s.port p).st = 0) || (s.port p).failed.getLsbD lane) = true := by
        rw [Bool.or_eq_true, decide_eq_true_eq, show (s.port p).failed.getLsbD lane = false from hl]
        exact not_or.2 ⟨h, Bool.false_ne_true⟩
      rw [if_neg hup, hfirst]
      simp only [Bool.false_and, Bool.false_eq_true, if_false, Bool.false_or]
      rw [if_neg]
      · exact ⟨_, rfl⟩
      · have e1 : ({ s.port p with failed := (s.port p).failed ||| BitVec.twoPow 17 lane } : Port).halfOk 0 = false := h1
        have e2 : ({ s.port p with failed := (s.port p).failed ||| BitVec.twoPow 17 lane } : Port).halfOk 1 = false := h2
        rw [e1, e2]
        decide
    obtain ⟨t, ht⟩ := hex
    refine ⟨_, ht, ?_, State.portDown_pend t p⟩
    rw [State.portDown_self]
    rfl
  · show Host.Outcome.next (if ((s.port p).st = 1 && (s.port p).present) = true then _ else s) = _
    exact congrArg Host.Outcome.next (if_congr (by simp [k]) rfl rfl)
  · intro good
    have hgood : (signed && (tget 0 s.sec.pins p == 0 || tget 0 s.sec.pins p == digest) && decide (rank ≠ s.casc.rank)) = true ↔ good := by
      simp [good, and_assoc]
    refine ⟨fun h => ?_, fun h hg => ?_, fun h hg => ?_⟩
    · show execPeerAttestationDone p digest signed rank port s = _
      unfold execPeerAttestationDone
      exact if_pos h
    · have hex : exec (.peerAttestationDone p digest signed rank port) s = .next (({ s with sec := { s.sec with
          pins := tset 0 s.sec.pins p digest } } : State).setPort p { k with peerRank := rank, peerPort := port, st := 2 }) := by
        show execPeerAttestationDone p digest signed rank port s = _
        unfold execPeerAttestationDone
        dsimp only
        rw [if_neg (not_not.2 h), if_pos (hgood.2 hg)]
      exact ⟨_, hex, State.port_setPort_self _ _ _, tget_tset_self _ _ _ _, rfl⟩
    · have hex : exec (.peerAttestationDone p digest signed rank port) s = .next (((s.setPort p { k with
          peerRank := rank, peerPort := port, st := 4 }).endUpdates p).raiseSrc (768 + p)) := by
        show execPeerAttestationDone p digest signed rank port s = _
        unfold execPeerAttestationDone
        dsimp only
        rw [if_neg (not_not.2 h), if_neg fun hc => hg (hgood.1 hc)]
      have hends := (State.ends_endUpdates (s.setPort p { k with peerRank := rank, peerPort := port, st := 4 }) p).trans
        (State.ends_raiseSrc _ (768 + p))
      refine ⟨_, hex, ?_, hends.sec, State.raisePort_pend _ p⟩
      rw [State.port_congr hends.casc, State.port_setPort_self]

end Sys2Proof.Machine
end

section
/-! PROOFS. UPDATE commands: the rendezvous, the data that arrives, and the port that goes down (R397 to R399). -/

namespace Sys2Proof.Machine

-- One theorem at a time, as in the tests: the proofs together take too many threads.
set_option Elab.async false

section
variable {s t u : State} {p q r : Nat} {m : Cmd} {f : Fin'}

/-- An UPDATE that has ended: its outcome kept, its record waiting. -/
def State.updated (s : State) (r : Nat) (m : Cmd) (f : Fin') : State :=
  (s.finish r f).setAdm { s.adm with done := s.adm.done ++ [{ r := m.r, rig := some r }] }

theorem State.endRunning_update (h : (s.rig r).running = some m) (hs : m.r.strm < 256) (ho : m.r.op ≠ 4) (f : Fin') :
    s.endRunning r f = s.updated r m f := by
  have hsum : s.putStopSum m.r f = s := if_neg (by simp [ho])
  rw [State.endRunning_eq f h, hsum, if_neg (show ¬ regStrm ≤ m.r.strm from Nat.not_le.2 hs)]
  rfl

theorem State.updated_running (h : (s.rig r).running = some m) (f : Fin') :
    ((s.updated r m f).rig r).running = some { m with fin := some f, upd := {} } :=
  congrArg Rig.running (s.rig_modCmd_self r (fun m => { m with fin := some f, upd := {} }) h)

theorem State.rig_updated_ne (h : q ≠ r) : (s.updated r m f).rig q = s.rig q := State.rig_setRig_ne s _ h

theorem State.updated_frame (s : State) (r : Nat) (m : Cmd) (f : Fin') : { s.updated r m f with rigs := s.rigs, adm := s.adm } = s := rfl

theorem State.endRunning_other (h : q ≠ r) : (s.endRunning r f).rig q = s.rig q := by
  cases hm : (s.rig r).running with
  | none => rw [State.endRunning_none f hm]
  | some m =>
    have hsum := congrArg State.rigs (s.putStopSum_frame m.r f)
    have hrig : (s.putStopSum m.r f).rig q = s.rig q := by
      exact State.rig_congr (t := s.putStopSum m.r f) (s := s) hsum q
    rw [State.endRunning_eq f hm]
    generalize s.putStopSum m.r f = t at hrig ⊢
    split
    · unfold State.leaveReg State.regScrubEnd
      rw [State.rig_congr (State.raiseSrc_rigs _ _) q]
      exact (State.rig_setRig_ne _ _ h).trans ((State.rig_setRig_ne _ _ h).trans hrig)
    · exact (State.rig_setRig_ne _ _ h).trans hrig

/-! ### The port's UPDATEs -/

theorem State.endUpdate_other (h : q ≠ r) : (State.endUpdate p s r).rig q = s.rig q := by
  rcases s.endUpdate_cases p r with he | ⟨m, _, he⟩ <;> rw [he]
  exact State.endRunning_other h

theorem State.ends_endUpdate (s : State) (p r : Nat) : s.Ends (State.endUpdate p s r) := by
  rcases s.endUpdate_cases p r with he | ⟨m, _, he⟩ <;> rw [he]
  · exact .refl s
  · exact s.ends_endRunning r _

/-- An UPDATE that uses port p and has no outcome yet. -/
def Cmd.usesPort (m : Cmd) (p : Nat) : Prop := m.r.op = 0xC ∧ m.fin = none ∧ m.r.uPorts.contains p = true

/-- The outcome of an UPDATE whose port went down. -/
def Cmd.finPort (m : Cmd) : Fin' := ⟨0x21, stopDetail m.unwritten none 0x0B⟩

theorem State.endUpdate_using (hm : (s.rig r).running = some m) (hu : m.usesPort p) (hs : m.r.strm < 256) :
    State.endUpdate p s r = s.updated r m m.finPort := by
  obtain ⟨hop, hfin, hport⟩ := hu
  have hc : (m.r.op = 0xC && m.fin.isNone && m.r.uPorts.contains p) = true := by
    rw [hfin, hport, decide_eq_true hop]
    rfl
  unfold State.endUpdate
  rw [hm]
  dsimp only
  rw [if_pos hc]
  exact State.endRunning_update hm hs (by rw [hop]; decide) _

theorem State.endUpdate_free (h : ∀ m, (s.rig r).running = some m → ¬ m.usesPort p) : State.endUpdate p s r = s := by
  unfold State.endUpdate
  split
  next m hm =>
    refine if_neg fun hc => h m hm ?_
    rw [Bool.and_eq_true, Bool.and_eq_true, decide_eq_true_eq, Option.isNone_iff_eq_none] at hc
    exact ⟨hc.1.1, hc.1.2, hc.2⟩
  · rfl

theorem State.endUpdates_rig_using (hr : r < 64) (hm : (s.rig r).running = some m) (hu : m.usesPort p) (hs : m.r.strm < 256) :
    ((s.endUpdates p).rig r).running = some { m with fin := some m.finPort, upd := {} } ∧
      ({ r := m.r, rig := some r } : Done) ∈ (s.endUpdates p).adm.done := by
  rw [State.endUpdates_eq]
  refine State.each_turn (f := State.endUpdate p) (n := r) (P := fun t => (t.rig r).running = some m)
    (Q := fun t => (t.rig r).running = some { m with fin := some m.finPort, upd := {} } ∧ ({ r := m.r, rig := some r } : Done) ∈ t.adm.done)
    List.nodup_range (List.mem_range.2 hr) (fun t i hi ht => ?_) (fun t ht => ?_) (fun t i hi ht => ?_) s hm
  · rwa [State.endUpdate_other (Ne.symm hi)]
  · rw [State.endUpdate_using ht hu hs]
    exact ⟨State.updated_running ht _, List.mem_append_right _ List.mem_cons_self⟩
  · rw [State.endUpdate_other (Ne.symm hi)]
    exact ⟨ht.1, (t.ends_endUpdate p i).done _ ht.2⟩

theorem State.endUpdates_rig_free (h : ∀ m, (s.rig r).running = some m → ¬ m.usesPort p) : (s.endUpdates p).rig r = s.rig r := by
  rw [State.endUpdates_eq]
  refine s.each_keeps (fun t => t.rig r = s.rig r) (State.endUpdate p) (List.range 64) rfl fun t n ht => ?_
  by_cases hn : n = r
  · rw [hn, State.endUpdate_free (fun m hm => h m (ht ▸ hm)), ht]
  · rw [State.endUpdate_other (Ne.symm hn), ht]

end

/-! ### The obligation -/

/-- Settles O47: the rendezvous, data that arrives, and the port that goes down. -/
theorem updatesMeetReceiveAndFail : Obligations.UpdatesMeetReceiveAndFail := by
  unfold Obligations.UpdatesMeetReceiveAndFail
  intro s r k
  refine ⟨fun send peer data hn => ⟨?_, ?_⟩, fun m peer send hm hop hfin hs => ?_, fun m data u hm hop hfin hs hrv h2 hport hd hd64 hlen hw hrigs => ?_,
    fun p => ⟨fun h => ?_, fun h => ?_⟩⟩
  · show execRendezvous r send peer s = _
    unfold execRendezvous
    rw [show (s.rig r).running = none from hn]
  · show execWireBlockArrival r data s = _
    unfold execWireBlockArrival
    rw [show (s.rig r).running = none from hn]
  · intro port hport hpa hcomp hrv
    have hop4 : m.r.op ≠ 4 := by rw [hop]; decide
    have hex : exec (.rendezvous r send peer) s = (if !agree m.r send peer then .next (s.endRunning r finMismatch)
        else if send then .next (State.startSend s s r m.r)
        else .next (if m.r.uOp = 0 then (s.modCmd r fun m => { m with upd := { m.upd with rvRecv := true } }).ringDone r
          else s.modCmd r fun m => { m with upd := { m.upd with rvRecv := true } })) := by
      show execRendezvous r send peer s = _
      unfold execRendezvous
      rw [show (s.rig r).running = some m from hm]
      dsimp only
      refine if_neg ?_
      have hpahus : (s.rig r).pahus ≠ 0 := hpa
      have hst : (s.port (if send = true then m.r.uNxt else m.r.uPrv)).st = 2 := hport
      have hc : complement r m.r send (s.port (if send = true then m.r.uNxt else m.r.uPrv)).peerPort peer = true := hcomp
      rw [hst, hc, hrv, hfin, hop]
      simp [hpahus]
    refine ⟨fun ha => ?_, fun ha hsend h2 => ?_, fun u ha hsend h1 hw hrigs => ?_⟩
    · rw [if_pos (by rw [ha]; rfl), State.endRunning_update hm hs hop4] at hex
      exact ⟨_, _, hex, State.updated_running hm _, rfl, rfl, rfl, rfl⟩
    · subst hsend
      rw [if_neg (by rw [ha]; decide), if_neg (by decide), if_neg (by rw [h2]; decide)] at hex
      rw [hex]
      unfold State.modCmd
      dsimp only
      rw [show (s.rig r).running = some m from hm]
      rfl
    · subst hsend
      have hu : (u.rig r).running = some m := by rw [State.rig_congr hrigs]; exact hm
      rw [if_neg (by rw [ha]; decide), if_pos rfl] at hex
      unfold State.startSend at hex
      rw [if_pos h1, hw] at hex
      have hex' : exec (.rendezvous r true peer) s = .next (u.endRunning r finOk) := hex
      rw [State.endRunning_update hu hs hop4] at hex'
      exact ⟨_, _, hex', State.updated_running hu _, rfl, rfl, rfl⟩
  · have hu : (u.rig r).running = some m := by rw [State.rig_congr hrigs]; exact hm
    have hex : exec (.wireBlockArrival r data) s = .next (if m.upd.pos + data.length = m.r.uLen then
        (u.nextPlace r data.length).endRunning r finOk else u.nextPlace r data.length) := by
      show execWireBlockArrival r data s = _
      unfold execWireBlockArrival
      rw [show (s.rig r).running = some m from hm]
      dsimp only
      rw [if_neg (by simp [hop, hfin, hrv, hport]), if_pos h2]
      unfold State.recvWords
      dsimp only
      rw [if_neg (by simp [hd, hd64, Nat.not_lt.2 hlen]), hw]
      rfl
    have hnext : ((u.nextPlace r data.length).rig r).running =
        some { m with upd := { m.upd with pos := m.upd.pos + data.length } } :=
      congrArg Rig.running (u.rig_modCmd_self r _ hu)
    by_cases hl : m.upd.pos + data.length = m.r.uLen
    · rw [if_pos hl, State.endRunning_update hnext hs (by show m.r.op ≠ 4; rw [hop]; decide)] at hex
      exact ⟨_, _, hex, rfl, State.updated_running hnext _, fun _ => rfl, fun h => absurd hl (Nat.ne_of_lt h)⟩
    · rw [if_neg hl] at hex
      exact ⟨_, _, hex, rfl, hnext, fun h => absurd h hl, fun _ => rfl⟩
  · exact if_pos h
  · have hex : exec (.pahusPortDown p) s = .next (s.portDown p) := if_neg h
    have hrigs : (s.portDown p).rigs = ((s.setPort p (s.port p).downed).endUpdates p).rigs := State.raiseSrc_rigs _ _
    have hrig : (s.portDown p).rig r = ((s.setPort p (s.port p).downed).endUpdates p).rig r := State.rig_congr hrigs r
    refine ⟨_, hex, ?_, State.portDown_pend s p, State.portDown_mem s p, fun q hq => State.portDown_other hq, fun m hm hop hfin hs hp => ?_,
      fun hfree => ?_⟩
    · rw [State.portDown_self]
      rfl
    · obtain ⟨h1, h2⟩ := State.endUpdates_rig_using (s := s.setPort p (s.port p).downed) (p := p) r.isLt hm ⟨hop, hfin, hp⟩ hs
      refine ⟨_, (congrArg Rig.running hrig).trans h1, rfl, ?_⟩
      rw [State.portDown_eq]
      exact (State.ends_raiseSrc ((s.setPort p (s.port p).downed).endUpdates p) (768 + p)).done _ h2
    · rw [hrig]
      refine State.endUpdates_rig_free (s := s.setPort p (s.port p).downed) fun m hm hu => ?_
      obtain ⟨hop, hfin, hp⟩ := hu
      rcases hfree m hm with h | h | h
      · exact h hop
      · rw [hfin] at h
        cases h
      · rw [hp] at h
        cases h

end Sys2Proof.Machine
end

section
/-! PROOFS. Re-rigs that start, and completion records (R374 to R376, R411 to R415). -/

namespace Sys2Proof.Machine

-- One theorem at a time, as in the tests: the proofs together take too many threads.
set_option Elab.async false

section
variable {s t u : State} {p q r : Nat} {m : Cmd} {f : Fin'}

/-! ### What the stop of one rig's command changes -/

/-- Of the rigs, the state t differs from s in rig r alone, which holds what it held. -/
structure State.OneRig (s t : State) (r : Nat) : Prop where
  other (q : Nat) (h : q ≠ r) : t.rig q = s.rig q
  st : (t.rig r).st = (s.rig r).st
  cores : (t.rig r).cores = (s.rig r).cores
  regions : (t.rig r).regions = (s.rig r).regions

theorem State.OneRig.trans (h : s.OneRig t r) (h' : t.OneRig u r) : s.OneRig u r where
  other q hq := (h'.other q hq).trans (h.other q hq)
  st := h'.st.trans h.st
  cores := h'.cores.trans h.cores
  regions := h'.regions.trans h.regions

theorem State.OneRig.of_rig (h : t.rig = s.rig) : s.OneRig t r := by
  constructor
  · exact fun q _ => congrFun h q
  all_goals rw [h]

theorem State.OneRig.refl (s : State) (r : Nat) : s.OneRig s r := .of_rig rfl

theorem State.oneRig_setRig (s : State) (r : Nat) {k : Rig} (h1 : k.st = (s.rig r).st) (h2 : k.cores = (s.rig r).cores)
    (h3 : k.regions = (s.rig r).regions) : s.OneRig (s.setRig r k) r := by
  constructor
  · exact fun q hq => State.rig_setRig_ne s k hq
  all_goals rwa [State.rig_setRig_self]

theorem State.rig_of_rigs (h : t.rigs = s.rigs) : t.rig = s.rig := funext (State.rig_congr h)

theorem State.oneRig_endRunning (s : State) (r : Nat) (f : Fin') : s.OneRig (s.endRunning r f) r := by
  cases hm : (s.rig r).running with
  | none =>
    rw [State.endRunning_none f hm]
    exact .refl s r
  | some m =>
    have hsum := congrArg State.rigs (s.putStopSum_frame m.r f)
    have hrigs : (s.putStopSum m.r f).rigs = s.rigs := hsum
    rw [State.endRunning_eq f hm]
    generalize s.putStopSum m.r f = t at hrigs ⊢
    have h1 : s.OneRig (t.finish r f) r := (State.OneRig.of_rig (State.rig_of_rigs hrigs)).trans (t.oneRig_setRig r rfl rfl rfl)
    split
    · have h2 := h1.trans ((t.finish r f).oneRig_setRig r (k := ({ (t.finish r f).rig r with running := none } : Rig).refault) rfl rfl rfl)
      refine h2.trans (.of_rig (State.rig_of_rigs ?_))
      unfold State.leaveReg State.regScrubEnd
      exact State.raiseSrc_rigs _ _
    · exact h1.trans (.of_rig rfl)

theorem State.oneRig_stopOne (s : State) (r cause c : Nat) : s.OneRig (s.stopOne r cause c) r := by
  unfold State.stopOne
  dsimp only
  split
  · exact State.OneRig.trans (t := s.setCore c _) (.of_rig rfl) (State.oneRig_setRig (s.setCore c _) r rfl rfl rfl)
  · split
    · exact .of_rig rfl
    · exact .refl s r

theorem State.oneRig_stopRunning (s : State) (r cause : Nat) : s.OneRig (s.stopRunning r cause) r := by
  unfold State.stopRunning
  split
  · exact .refl s r
  · split
    · exact .refl s r
    · split
      · exact s.oneRig_endRunning r _
      · split
        · exact s.oneRig_endRunning r _
        · have h1 := s.oneRig_setRig r (k := { s.rig r with running := (s.rig r).running.map fun m =>
            { m with front := if m.front.isSome then m.front else some cause } }) rfl rfl rfl
          refine h1.trans ?_
          show (s.frontStop r cause).OneRig ((s.frontStop r cause).stopCores r none cause) r
          generalize s.frontStop r cause = t
          cases hm : (t.rig r).running with
          | none =>
            unfold State.stopCores
            rw [hm]
            exact .refl t r
          | some m =>
            rw [State.stopCores_eq _ _ _ _ hm]
            refine State.OneRig.trans (t := t.each (t.othersOf m none) (State.stopOne r cause)) ?_ (.of_rig (funext fun q => by rw [State.settle_rig]))
            exact t.each_keeps (fun u => t.OneRig u r) _ _ (.refl t r) fun u c hu => hu.trans (u.oneRig_stopOne r cause c)

/-! ### A re-rig starts -/

/-- The state t has the bytes, the command session and the lines of s. -/
def State.Carries (s t : State) : Prop :=
  t.mem = s.mem ∧ t.sec = s.sec ∧ t.adm.passed = s.adm.passed ∧ t.adm.rerig = s.adm.rerig ∧ t.adm.rerigQ = s.adm.rerigQ

theorem State.Carries.trans (h : s.Carries t) (h' : t.Carries u) : s.Carries u := by
  obtain ⟨h1, h2, h3, h4, h5⟩ := h
  obtain ⟨g1, g2, g3, g4, g5⟩ := h'
  exact ⟨g1.trans h1, g2.trans h2, g3.trans h3, g4.trans h4, g5.trans h5⟩

theorem State.Ends.carries (h : s.Ends t) : s.Carries t := ⟨h.mem, h.sec, h.passed, h.rerig, h.rerigQ⟩

theorem State.carries_setRig (s : State) (r : Nat) (k : Rig) : s.Carries (s.setRig r k) := ⟨rfl, rfl, rfl, rfl, rfl⟩

theorem State.carries_dropWaiting (s : State) (r cause : Nat) (p : Cmd → Bool) : s.Carries (s.dropWaiting r cause p) := by
  rw [State.dropWaiting_eq]
  exact (s.carries_setRig r _).trans (State.ends_concludeAll _ _ _).carries

/-- The rig is marked before its commands leave (Table 15-4). -/
def State.marked (s : State) (r : Nat) : State := s.setRig r { s.rig r with st := 2 }

theorem State.quiesce_eq (s : State) (r : Nat) : s.quiesce r = ((s.marked r).stopRunning r 0x0C).dropWaiting r 0x0C fun _ => true := rfl

theorem State.carries_quiesce (s : State) (r : Nat) : s.Carries (s.quiesce r) := by
  rw [State.quiesce_eq]
  exact ((s.carries_setRig r _).trans (State.ends_stopRunning _ r 0x0C).carries).trans (State.carries_dropWaiting _ r _ _)

theorem State.quiesce_other (h : q ≠ r) : (s.quiesce r).rig q = s.rig q := by
  rw [State.quiesce_eq, State.dropWaiting_other _ _ _ h, ((s.marked r).oneRig_stopRunning r 0x0C).other q h]
  exact State.rig_setRig_ne _ _ h

/-- A rig that is being re-rigged: it holds what it held, and no command waits in it. -/
def Rig.Quiet (k k' : Rig) : Prop :=
  k'.st = 2 ∧ k'.plan = [] ∧ k'.cq = [] ∧ k'.cores = k.cores ∧ k'.regions = k.regions

theorem State.quiesce_self (s : State) (r : Nat) : (s.rig r).Quiet ((s.quiesce r).rig r) := by
  have h := (s.marked r).oneRig_stopRunning r 0x0C
  have hm : (s.marked r).rig r = { s.rig r with st := 2 } := State.rig_setRig_self _ _ _
  rw [State.quiesce_eq, State.dropWaiting_self]
  generalize (s.marked r).stopRunning r 0x0C = t at h ⊢
  have hnil (ms : List Cmd) : ms.filter (fun _ => !true) = [] := List.filter_eq_nil_iff.2 fun _ _ => Bool.false_ne_true
  refine ⟨h.st.trans (by rw [hm]), hnil _, hnil _, h.cores.trans (by rw [hm]), h.regions.trans (by rw [hm])⟩

/-- The checks of R413 on a re-rig. -/
def State.rerigChecks (s : State) (r : CRec) : Option Fin' :=
  firstSome [failIf (r.u 24 8 % 64 ≠ 0 || !s.planOk r.plan) (rejRes 24 0), r.rsvField 48 63, r.line2Check]

theorem CRec.rsvField_none {r : CRec} {lo hi : Nat} : r.rsvField lo hi = none ↔ r.nonzero lo hi = none := by
  unfold CRec.rsvField
  rw [failIf_none, Option.isSome_eq_false_iff, Option.isNone_iff_eq_none]

theorem State.rerigChecks_none {r : CRec} : s.rerigChecks r = none ↔
    r.u 24 8 % 64 = 0 ∧ s.planOk r.plan = true ∧ r.nonzero 48 63 = none ∧ r.line2Check = none := by
  unfold State.rerigChecks
  rw [firstSome_none, firstSome_none, firstSome_none, failIf_none, CRec.rsvField_none]
  have hplan : (decide (r.u 24 8 % 64 ≠ 0) || !s.planOk r.plan) = false ↔ r.u 24 8 % 64 = 0 ∧ s.planOk r.plan = true := by
    rw [Bool.or_eq_false_iff, decide_eq_false_iff_not, not_not, Bool.not_eq_false']
  rw [hplan]
  simp [firstSome, and_assoc]

theorem failIf_some {α : Type} {c : Bool} {x y : α} (h : failIf c x = some y) : y = x := by
  unfold failIf at h
  split at h
  · exact (Option.some.inj h).symm
  · cases h

theorem firstSome_mem {α : Type} {x : α} {xs : List (Option α)} (h : firstSome xs = some x) : some x ∈ xs := by
  induction xs with
  | nil => cases h
  | cons y ys ih =>
    cases y with
    | none => exact List.mem_cons_of_mem _ (ih h)
    | some y =>
      have hy : some y = some x := h
      rw [hy]
      exact List.mem_cons_self

/-- A re-rig that fails a check is rejected for a resource. -/
theorem State.rerigChecks_some {r : CRec} {x : Fin'} (h : s.rerigChecks r = some x) : x.status = 0x11 := by
  have hx := firstSome_mem h
  rw [List.mem_cons, List.mem_cons, List.mem_singleton] at hx
  rcases hx with hx | hx | hx
  · rw [failIf_some hx.symm]
    rfl
  · rw [failIf_some hx.symm]
    rfl
  · unfold CRec.line2Check at hx
    split at hx
    · rw [failIf_some hx.symm]
      rfl
    · cases hx

/-- The state in which a re-rig is in progress. -/
def State.withRerig (s : State) (r : CRec) : State := s.setAdm { s.adm with rerig := some ⟨r, planMask r.plan, r.plan⟩ }

theorem State.startRerig_good {r : CRec} (h : s.rerigChecks r = none) : s.startRerig r =
    ((s.withRerig r).each (maskRigs (planMask r.plan)) State.quiesce).conclude r finOk := by
  have h' := h
  unfold State.rerigChecks at h'
  unfold State.startRerig
  rw [h']
  rfl

theorem State.startRerig_rejected {r : CRec} {x : Fin'} (h : s.rerigChecks r = some x) : s.startRerig r = s.conclude r x := by
  have h' := h
  unfold State.rerigChecks at h'
  unfold State.startRerig
  rw [h']

theorem mem_maskRigs {m : BitVec 64} {g : Nat} (h : g < 64) : g ∈ maskRigs m ↔ m.getLsbD g = true := by
  unfold maskRigs idxs
  rw [List.mem_filter, List.mem_range]
  exact ⟨fun hg => hg.2, fun hg => ⟨h, hg⟩⟩

theorem nodup_maskRigs (m : BitVec 64) : (maskRigs m).Nodup := List.nodup_range.filter _

/-- What the start of a re-rig leaves. -/
structure State.Rerigs (s t : State) (r : CRec) : Prop where
  mem : t.mem = s.mem
  sec : t.sec = s.sec
  passed : t.adm.passed = s.adm.passed
  rerig : t.adm.rerig = some ⟨r, planMask r.plan, r.plan⟩
  rerigQ : t.adm.rerigQ = s.adm.rerigQ
  done : ({ r := r, fin := finOk } : Done) ∈ t.adm.done
  quiet (g : RigId) (h : (planMask r.plan).getLsbD g = true) : (s.rig g).Quiet (t.rig g)
  other (g : RigId) (h : (planMask r.plan).getLsbD g = false) : t.rig g = s.rig g

theorem State.startRerig_rerigs {r : CRec} (hs : r.strm < 256) (h : s.rerigChecks r = none) : s.Rerigs (s.startRerig r) r := by
  rw [State.startRerig_good h]
  have hcarry := (s.withRerig r).each_keeps (fun t => (s.withRerig r).Carries t) State.quiesce (maskRigs (planMask r.plan))
    ⟨rfl, rfl, rfl, rfl, rfl⟩ fun t g ht => ht.trans (t.carries_quiesce g)
  have hquiet (g : RigId) (hg : (planMask r.plan).getLsbD g = true) : (s.rig g).Quiet (((s.withRerig r).each (maskRigs (planMask r.plan)) State.quiesce).rig g) :=
    State.each_turn (f := State.quiesce) (n := g.val) (P := fun t => t.rig g = s.rig g) (Q := fun t => (s.rig g).Quiet (t.rig g))
      (nodup_maskRigs _) ((mem_maskRigs g.isLt).2 hg) (fun t i hi ht => (State.quiesce_other (Ne.symm hi)).trans ht)
      (fun t ht => ht ▸ t.quiesce_self g)
      (fun t i hi ht => by rwa [State.quiesce_other (Ne.symm hi)]) (s.withRerig r) rfl
  have hother (g : RigId) (hg : (planMask r.plan).getLsbD g = false) : ((s.withRerig r).each (maskRigs (planMask r.plan)) State.quiesce).rig g = s.rig g := by
    have hout : ∀ xs : List Nat, g.val ∉ xs → ∀ t : State, (t.each xs State.quiesce).rig g = t.rig g := by
      intro xs
      induction xs with
      | nil => exact fun _ _ => rfl
      | cons x xs ih =>
        intro hx t
        rw [List.mem_cons, not_or] at hx
        exact (ih hx.2 (t.quiesce x)).trans (State.quiesce_other hx.1)
    refine hout _ (fun hc => ?_) (s.withRerig r)
    rw [mem_maskRigs g.isLt, hg] at hc
    cases hc
  generalize (s.withRerig r).each (maskRigs (planMask r.plan)) State.quiesce = t at hcarry hquiet hother ⊢
  obtain ⟨h1, h2, h3, h4, h5⟩ := hcarry.trans (t.ends_conclude r finOk).carries
  have hrig : (t.conclude r finOk).rig = t.rig := State.rig_of_rigs (t.conclude_rigs r finOk)
  exact ⟨h1, h2, h3, h4, h5, t.mem_conclude finOk hs, fun g hg => by rw [hrig]; exact hquiet g hg, fun g hg => by rw [hrig]; exact hother g hg⟩

end

/-! ### A RERIG line -/

section
variable {s : State} {r : CRec} {rest : List CRec}

theorem State.planOk_but (a : Adm) (k : Sec) : (s.but a k).planOk = s.planOk := rfl

theorem State.rerigChecks_but (a : Adm) (k : Sec) : (s.but a k).rerigChecks r = s.rerigChecks r := by
  unfold State.rerigChecks
  rw [State.planOk_but]

/-- The state after the authentication of the first passed line. -/
def State.lineCounted (s : State) (r : CRec) : State := s.popLine.counted r

theorem State.lineCounted_eq : s.lineCounted r = s.but s.popLine.adm { s.sec with ctr := BitVec.ofNat 64 (r.v 64 8) } := rfl

/-- A RERIG that authenticates: its plan is looked at. -/
theorem exec_rerig (hp : s.adm.passed = r :: rest) (ho : r.op = 5) (h1 : s.step1 r = none) (hc : r.crit = true)
    (hb : s.sec.bound.isSome = true) (hm : r.mac = s.sec.macOf r) (hctr : s.sec.ctr.toNat < r.v 64 8) (plan : Option (List Byte)) :
    exec (.rerig plan) s = .next ((s.lineCounted r).rerigAuth r (wholePlan plan)) := by
  have hline : exec (.rerig plan) s = .next (rerigLine plan r s.popLine) :=
    State.withLine_own (f := rerigLine plan) (p := fun _ => true) hp ho rfl
  rw [hline, rerigLine_auth ((s.step1_popLine r).trans h1) hc, State.authMac_good (s := s.popLine) hb hm hctr]
  rfl

end

end Sys2Proof.Machine
end

section
/-! PROOFS. The completion record of an outcome, and the re-rigs as stated (R374 to R376, R411 to R415). -/

namespace Sys2Proof.Machine

-- One theorem at a time, as in the tests: the proofs together take too many threads.
set_option Elab.async false

section
variable {s t v w : State} {n : StreamId} {d : Done} {ds : List Done} {f : Fin'} {r : CRec} {g : Nat} {m : Cmd}

/-! ### A record is delivered -/

/-- The counts of a stream one of whose commands has its record. -/
def Strm.recorded (k : Strm) (f : Fin') : Strm :=
  { k with
    out := k.out - 1
    okN := k.okN + (if f.status = 0 then 1 else 0)
    otherN := k.otherN + (if f.status = 0 then 0 else 1) }

theorem State.countRecord_eq (s : State) (n : Nat) (f : Fin') : ∃ a, a.done = s.adm.done ∧
    s.countRecord n f = (s.setStrm n ((s.strm n).recorded f)).setAdm a := by
  have hk : (s.strm n).recorded f = { s.strm n with
      out := (s.strm n).out - 1
      okN := if f.status = 0 then (s.strm n).okN + 1 else (s.strm n).okN
      otherN := if f.status = 0 then (s.strm n).otherN else (s.strm n).otherN + 1 } := by
    unfold Strm.recorded
    split <;> rfl
  rw [hk]
  unfold State.countRecord
  dsimp only
  split
  · exact ⟨{ s.adm with rejects := s.adm.rejects + 1 }, rfl, rfl⟩
  · exact ⟨s.adm, rfl, rfl⟩

/-- What the record of a command leaves: it is in host memory and counted, or its stream is halted. -/
structure State.Recorded (s t : State) (n : StreamId) (r : CRec) (f : Fin') (bs : List Byte) (acc : Bool) : Prop where
  done : t.adm.done = s.adm.done
  mem : t.mem = s.mem
  cores : t.cores = s.cores
  rigs : t.rigs = s.rigs
  took (h : acc = true) : t.hostMem = mwrite s.hostMem (s.strmCpl n + 32 * r.slot) bs ∧ t.strm n = (s.strm n).recorded f ∧
    (bit r.flags 0 = true → t.evt.pend.getLsbD (512 + n.val) = true)
  refused (h : acc = false) : t.hostMem = s.hostMem ∧ (t.strm n).halt = true ∧ (t.strm n).err = 5 ∧ t.evt.pend.getLsbD (512 + n.val) = true

theorem State.raiseStrm_pend (s : State) (n : StreamId) : (s.raiseSrc (512 + n.val)).evt.pend.getLsbD (512 + n.val) = true := by
  have h := n.isLt
  exact State.raiseSrc_pend (listed_strm n) (.inr (by omega)) (by omega)

theorem State.recorded_deliver (s : State) (n : StreamId) (r : CRec) (f : Fin') (bs : List Byte) (acc : Bool) :
    s.Recorded ((s.countRecord n f).deliverRecord n r f bs acc) n r f bs acc := by
  obtain ⟨a, ha, hc⟩ := s.countRecord_eq n f
  rw [hc]
  have hstrm : ((s.setStrm n ((s.strm n).recorded f)).setAdm a).strm n = (s.strm n).recorded f := State.strm_setStrm_self s n _
  cases acc with
  | false =>
    have hpend := State.haltStrm_pend ((s.setStrm n ((s.strm n).recorded f)).setAdm a) n 5
    have hhalt := State.haltStrm_strm ((s.setStrm n ((s.strm n).recorded f)).setAdm a) n 5
    obtain ⟨e, he⟩ := (((s.setStrm n ((s.strm n).recorded f)).setAdm a).setStrm n
      { ((s.setStrm n ((s.strm n).recorded f)).setAdm a).strm n with halt := true, err := 5 }).raiseSrc_eq (512 + n)
    have heq : ((s.setStrm n ((s.strm n).recorded f)).setAdm a).haltStrm n 5 = _ := he
    show s.Recorded (((s.setStrm n ((s.strm n).recorded f)).setAdm a).haltStrm n 5) n r f bs false
    refine ⟨?_, ?_, ?_, ?_, (fun h => by cases h), fun _ => ⟨?_, by rw [hhalt], by rw [hhalt], hpend⟩⟩
    · rw [heq]
      exact ha
    all_goals
      rw [heq]
      rfl
  | true =>
    unfold State.deliverRecord
    rw [if_pos rfl]
    dsimp only
    split
    · have hpend := (((s.setStrm n ((s.strm n).recorded f)).setAdm a).toHost
        (((s.setStrm n ((s.strm n).recorded f)).setAdm a).strmCpl n + 32 * r.slot) bs).raiseStrm_pend n
      obtain ⟨e, he⟩ := (((s.setStrm n ((s.strm n).recorded f)).setAdm a).toHost
        (((s.setStrm n ((s.strm n).recorded f)).setAdm a).strmCpl n + 32 * r.slot) bs).raiseSrc_eq (512 + n)
      rw [he] at hpend ⊢
      exact ⟨ha, rfl, rfl, rfl, fun _ => ⟨rfl, hstrm, fun _ => hpend⟩, fun h => by cases h⟩
    next hb =>
      refine ⟨ha, rfl, rfl, rfl, fun _ => ⟨rfl, hstrm, fun h => absurd ?_ hb⟩, fun h => by cases h⟩
      rw [h]
      rfl

/-! ### The rig is done with its command -/

theorem State.putAllFloors_running (s : State) (g : Nat) : (s.putAllFloors.rig g).running = (s.rig g).running := by
  refine s.each_keeps (fun t => (t.rig g).running = (s.rig g).running) State.putFloors (List.range 64) rfl fun t i ht => ?_
  unfold State.putFloors
  dsimp only
  split
  · exact ht
  · by_cases hi : g = i
    · subst hi
      rw [State.rig_setRig_self]
      exact ht
    · rw [State.rig_setRig_ne _ _ hi]
      exact ht

theorem State.sharesSettled_running (s : State) (g : Nat) : (s.sharesSettled.rig g).running = (s.rig g).running := by
  refine s.each_keeps (fun t => (t.rig g).running = (s.rig g).running) _ (List.range 64) rfl fun t i ht => ?_
  dsimp only
  split
  · split
    · by_cases hi : g = i
      · subst hi
        rw [State.rig_setRig_self]
        exact ht
      · rw [State.rig_setRig_ne _ _ hi]
        exact ht
    · exact ht
  · exact ht

theorem State.settleFloors_running (s : State) (g : Nat) : (s.settleFloors.rig g).running = (s.rig g).running := by
  obtain ⟨p, hp⟩ := s.floorSettled_eq
  rw [State.settleFloors_eq, hp, State.putAllFloors_running, State.sharesSettled_running]
  rfl

theorem State.releaseRig_running (s : State) (g : Nat) : ((s.releaseRig g).rig g).running = none := by
  unfold State.releaseRig
  rw [State.settleFloors_running, State.rig_setRig_self]
  rfl

theorem State.settled_frame (s : State) (g : Nat) (k : Rig) : ∃ p, { (s.setRig g k).settleFloors with rigs := s.rigs } = { s with pwr := p } := by
  obtain ⟨p, hp⟩ := (s.setRig g k).floorSettled_eq
  have hf := (s.setRig g k).settleFloors_frame
  rw [hp] at hf
  generalize (s.setRig g k).settleFloors = t at hf ⊢
  have hf' := congrArg (fun u : State => { u with rigs := s.rigs }) hf
  exact ⟨p, hf'⟩

theorem State.releaseRig_frame (s : State) (g : Nat) : ∃ p, { s.releaseRig g with rigs := s.rigs } = { s with pwr := p } :=
  s.settled_frame g _

/-! ### The record of the first outcome -/

theorem State.outcome_congr (h : t.cores = s.cores) (m : Cmd) : t.outcome m = s.outcome m := by
  unfold State.outcome
  rw [State.core_congr h]

/-- The first outcome of a stream, which neither waits for a re-rig nor is a FENCE's, has its record next. -/
theorem exec_record (now reef : Nat) (acc : Bool) (hf : s.pwr.feedA = true ∨ s.pwr.feedB = true) (hd : s.adm.done = d :: ds)
    (hr : s.adm.rerig = none) (hn : d.r.strm = n) (ho : d.r.op ≠ 8) : exec (.completionRecordWrite n now acc reef) s =
      .next (((s.seeTick now).setAdm { (s.seeTick now).adm with done := ds }).writeRecord n d acc reef) := by
  have hadm := s.seeTick_adm now
  have hpwr := congrArg State.pwr (s.seeTick_frame now)
  have hpwr' : (s.seeTick now).pwr = s.pwr := hpwr
  have hdone : (s.seeTick now).adm.done = d :: ds := by rw [hadm]; exact hd
  have hready : (s.seeTick now).recordReady n d = true := by
    unfold State.recordReady
    rw [if_neg (not_not.2 hn), if_neg ho, hadm]
    dsimp only
    rw [hr]
  show execCompletionRecordWrite n now acc reef s = _
  unfold execCompletionRecordWrite
  dsimp only
  have hfeed : (s.pwr.feedA || s.pwr.feedB) = true := by simpa using hf
  have hidx : (if ((s.seeTick now).pwr.feedA || (s.seeTick now).pwr.feedB) = true then
      (s.seeTick now).adm.done.findIdx? ((s.seeTick now).recordReady n) else none) = some 0 := by
    rw [hpwr', if_pos hfeed, hdone, List.findIdx?_cons, hready]
    rfl
  have hget : (s.seeTick now).adm.done[0]? = some d := by rw [hdone]; rfl
  have hdrop : dropAt 0 (s.seeTick now).adm.done = ds := by rw [hdone]; rfl
  rw [hidx]
  dsimp only
  rw [hget, hdrop]

theorem exec_record_none (now reef : Nat) (acc : Bool) (h : (s.pwr.feedA = false ∧ s.pwr.feedB = false) ∨ s.adm.done = []) :
    exec (.completionRecordWrite n now acc reef) s = .next (s.seeTick now) := by
  have hadm := s.seeTick_adm now
  have hpwr := congrArg State.pwr (s.seeTick_frame now)
  have hpwr' : (s.seeTick now).pwr = s.pwr := hpwr
  have hdone : (s.seeTick now).adm.done = s.adm.done := by rw [hadm]
  show execCompletionRecordWrite n now acc reef s = _
  unfold execCompletionRecordWrite
  dsimp only
  have hidx : (if ((s.seeTick now).pwr.feedA || (s.seeTick now).pwr.feedB) = true then
      (s.seeTick now).adm.done.findIdx? ((s.seeTick now).recordReady n) else none) = none := by
    rw [hpwr', hdone]
    rcases h with ⟨ha, hb⟩ | h
    · rw [ha, hb]
      rfl
    · rw [h]
      split <;> rfl
  rw [hidx]

/-- The record of an outcome that is no FENCE's, when no re-rig is in progress: of a command no rig ran. -/
theorem State.writeRecord_free (hr : s.adm.rerig = none) (ho : d.r.op ≠ 8) (hg : d.rig = none) (acc : Bool) (reef : Nat) :
    s.writeRecord n d acc reef = (s.countRecord n d.fin).deliverRecord n d.r d.fin
      (recordBytes d.r d.fin 0 (ticksNs (s.adm.now - d.r.t0)) 0) acc := by
  unfold State.writeRecord
  rw [hr, hg]
  exact if_neg ho

/-- And of the command a rig ran, which is done with it. -/
theorem State.writeRecord_rig (hr : s.adm.rerig = none) (ho : d.r.op ≠ 8) (hg : d.rig = some g) (hm : (s.rig g).running = some m)
    (acc : Bool) (reef : Nat) : s.writeRecord n d acc reef =
      ((s.releaseRig g).countRecord n (m.bounded (s.outcome m) s.adm.now)).deliverRecord n d.r (m.bounded (s.outcome m) s.adm.now)
        (recordBytes d.r (m.bounded (s.outcome m) s.adm.now) (if m.ran then (m.reef + reef) / 1024 else 0)
          (ticksNs (s.adm.now - d.r.t0)) (tget 0 s.energyStrm n - m.energy).toNat) acc := by
  unfold State.writeRecord
  rw [hr, hg]
  dsimp only
  rw [hm]
  dsimp only
  rw [if_neg ho]

end

/-! ### The obligation -/

/-- Settles O46: a RERIG line, the start of a waiting re-rig, and the record of the first outcome. -/
theorem rerigsStartAndRecordsAreWritten : Obligations.RerigsStartAndRecordsAreWritten := by
  unfold Obligations.RerigsStartAndRecordsAreWritten
  refine ⟨?_, ?_, ?_, ?_⟩
  · intro s r rest p hp ho hs h1 hc hb hm hctr h2 h3 h4 sec b whole q
    have hex := exec_rerig hp ho h1 hc hb hm hctr
    have hpass : s.popLine.adm.passed = rest := by
      show s.adm.passed.drop 1 = rest
      rw [hp]
      rfl
    have hcount : (s.lineCounted r).step2 r = none := (s.step2_but r s.popLine.adm sec).trans h2
    have hchk : firstSome [(s.lineCounted r).step2 r, r.step3, r.flagCheck] = none := by
      rw [hcount, h3, h4]
      rfl
    have hnone : exec (.rerig none) s = .next { s.answered r (rejRes 24 8) with sec := sec } := by
      refine (hex none).trans (congrArg Host.Outcome.next ?_)
      show (s.lineCounted r).conclude r ((firstSome [(s.lineCounted r).step2 r, r.step3, r.flagCheck]).getD (rejRes 24 8)) = _
      rw [hchk]
      exact State.conclude_stream hs (by decide)
    refine ⟨hnone, fun hw => ?_, fun hw hd => ?_⟩
    · have hwhole : wholePlan (some p) = none := by
        unfold wholePlan
        rw [Option.filter_some, if_neg]
        rw [Bool.and_eq_true, decide_eq_true_eq, decide_eq_true_eq]
        exact hw
      rw [← hnone, hex (some p), hex none, hwhole]
      rfl
    · have hwhole : wholePlan (some p) = some p := by
        unfold wholePlan
        rw [Option.filter_some, if_pos]
        rw [Bool.and_eq_true, decide_eq_true_eq, decide_eq_true_eq]
        exact hw
      have hex' : exec (.rerig (some p)) s = .next (if (s.lineCounted r).adm.rerig.isSome || (s.lineCounted r).adm.rerigQ ≠ [] then
          (s.lineCounted r).setAdm { (s.lineCounted r).adm with rerigQ := (s.lineCounted r).adm.rerigQ ++ [q] }
          else (s.lineCounted r).startRerig q) := by
        refine (hex (some p)).trans (congrArg Host.Outcome.next ?_)
        rw [hwhole]
        unfold State.rerigAuth
        dsimp only
        rw [if_neg (not_not.2 hd), hchk]
      refine ⟨fun hwait => ?_, fun hr hq hal hok hnz hl2 => ?_⟩
      · have hcond : ((s.lineCounted r).adm.rerig.isSome || decide ((s.lineCounted r).adm.rerigQ ≠ [])) = true := by
          rw [Bool.or_eq_true, decide_eq_true_eq]
          exact hwait
        rw [hex', if_pos hcond]
        refine congrArg Host.Outcome.next ?_
        show ({ s with sec := sec, adm := { s.popLine.adm with rerigQ := s.adm.rerigQ ++ [q] } } : State) = _
        rw [← hpass]
        rfl
      · have hcond : ¬ ((s.lineCounted r).adm.rerig.isSome || decide ((s.lineCounted r).adm.rerigQ ≠ [])) = true := by
          rw [Bool.or_eq_true, decide_eq_true_eq]
          rintro (h | h)
          · have h' : s.adm.rerig.isSome = true := h
            rw [hr] at h'
            cases h'
          · exact h hq
        rw [if_neg hcond] at hex'
        have hgood : s.rerigChecks q = none := State.rerigChecks_none.2 ⟨hal, hok, hnz, hl2⟩
        have ht := State.startRerig_rerigs (s := s.lineCounted r) (r := q) hs ((s.rerigChecks_but s.popLine.adm sec).trans hgood)
        exact ⟨_, hex', ht.sec, ht.passed.trans hpass, ht.rerig, ht.mem, fun g hg => ⟨(ht.quiet g hg).1, (ht.quiet g hg).2.1, (ht.quiet g hg).2.2.1⟩,
          fun g hg => ht.other g hg⟩
  · intro s h
    show execRerigStart s = _
    unfold execRerigStart
    split
    next r t hr hq =>
      rcases h with h | h
      · rw [hr] at h
        cases h
      · rw [hq] at h
        cases h
    · rfl
  · intro s r rest hr hq hs ho good
    have hex : exec .rerigStart s = .next ((s.setAdm { s.adm with rerigQ := rest }).startRerig r) := by
      show execRerigStart s = _
      unfold execRerigStart
      rw [hr, hq]
    have hchk : (s.setAdm { s.adm with rerigQ := rest }).rerigChecks r = s.rerigChecks r := s.rerigChecks_but _ s.sec
    refine ⟨fun hg => ?_, fun hg => ?_⟩
    · obtain ⟨x, hx⟩ : ∃ x, s.rerigChecks r = some x := by
        rw [← Option.isSome_iff_exists, Option.isSome_iff_ne_none]
        exact fun h => hg (State.rerigChecks_none.1 h)
      have hst := State.rerigChecks_some hx
      rw [State.startRerig_rejected (hchk.trans hx), State.conclude_stream hs (by rw [hst]; decide)] at hex
      exact ⟨_, x, hex, rfl, hst, rfl⟩
    · have ht := State.startRerig_rerigs (s := s.setAdm { s.adm with rerigQ := rest }) hs (hchk.trans (State.rerigChecks_none.2 hg))
      exact ⟨_, hex, ht.rerig, ht.rerigQ, ht.mem, ht.done, fun g hg => ht.quiet g hg, fun g hg => ht.other g hg⟩
  · intro s n now reef acc at_ k u
    refine ⟨exec_record_none now reef acc, fun d ds hf hd hr hn ho => ?_⟩
    intro a took
    have hex := exec_record now reef acc hf hd hr hn ho
    have hadm := s.seeTick_adm now
    have hframe := s.seeTick_frame now
    have hnow : ((s.seeTick now).setAdm { (s.seeTick now).adm with done := ds }).adm.now = at_ := by
      have h := congrArg Adm.now hadm
      exact h
    have hrerig : ((s.seeTick now).setAdm { (s.seeTick now).adm with done := ds }).adm.rerig = none := by
      have h := congrArg Adm.rerig hadm
      exact h.trans hr
    have hmem := congrArg State.mem hframe
    have hcores := congrArg State.cores hframe
    have hhost := congrArg State.hostMem hframe
    have hstrms := congrArg State.strms hframe
    have hbar := congrArg State.bar0 hframe
    have henergy := congrArg State.energyStrm hframe
    generalize hv : (s.seeTick now).setAdm { (s.seeTick now).adm with done := ds } = v at hex hnow hrerig
    have vmem : v.mem = s.mem := by rw [← hv]; exact hmem
    have vcores : v.cores = s.cores := by rw [← hv]; exact hcores
    have vhost : v.hostMem = s.hostMem := by rw [← hv]; exact hhost
    have vstrms : v.strms = s.strms := by rw [← hv]; exact hstrms
    have vbar : v.bar0 = s.bar0 := by rw [← hv]; exact hbar
    have venergy : v.energyStrm = s.energyStrm := by rw [← hv]; exact henergy
    have vdone : v.adm.done = ds := by rw [← hv]; rfl
    have hcpl {w : State} (h : w.bar0 = s.bar0) : w.strmCpl n = s.strmCpl n := by
      unfold State.strmCpl State.reg
      rw [h]
    have htook (w t : State) (f : Fin') (rf energy : Nat) (wmem : w.mem = s.mem) (wcores : w.cores = s.cores) (whost : w.hostMem = s.hostMem)
        (wstrms : w.strms = s.strms) (wbar : w.bar0 = s.bar0) (wdone : w.adm.done = ds)
        (h : w.Recorded t n d.r f (recordBytes d.r f rf (ticksNs (at_ - d.r.t0)) energy) acc) : took t f rf energy := by
      refine ⟨h.done.trans wdone, h.mem.trans wmem, h.cores.trans wcores, fun ha => ?_, fun ha => ?_⟩
      · obtain ⟨h1, h2, h3⟩ := h.took ha
        rw [hcpl wbar, whost] at h1
        rw [State.strm_congr wstrms] at h2
        exact ⟨h1, h2, h3⟩
      · obtain ⟨h1, h2, h3, h4⟩ := h.refused ha
        exact ⟨h1.trans whost, h2, h3, h4⟩
    refine ⟨fun hg => ?_, fun g m hg hm => ?_⟩
    · have hrec := v.recorded_deliver n d.r d.fin (recordBytes d.r d.fin 0 (ticksNs (at_ - d.r.t0)) 0) acc
      rw [State.writeRecord_free hrerig ho hg, hnow] at hex
      refine ⟨_, hex, htook v _ _ _ _ vmem vcores vhost vstrms vbar vdone hrec, hrec.rigs.trans ?_⟩
      rw [← hv]
      rfl
    · have hvm : (v.rig g).running = some m := by rw [← hv]; exact hm
      obtain ⟨p, hp⟩ := v.releaseRig_frame g
      have hrun := v.releaseRig_running g
      have hout : v.outcome m = s.outcome m := State.outcome_congr vcores m
      rw [State.writeRecord_rig hrerig ho hg hvm, hnow, hout, venergy] at hex
      generalize v.releaseRig g = w at hex hp hrun
      have wmem := congrArg State.mem hp
      have wcores := congrArg State.cores hp
      have whost := congrArg State.hostMem hp
      have wstrms := congrArg State.strms hp
      have wbar := congrArg State.bar0 hp
      have wadm := congrArg (fun u : State => u.adm.done) hp
      have hrec := w.recorded_deliver n d.r (m.bounded (s.outcome m) at_) (recordBytes d.r (m.bounded (s.outcome m) at_)
        (if m.ran then (m.reef + reef) / 1024 else 0) (ticksNs (at_ - d.r.t0)) (tget 0 s.energyStrm n - m.energy).toNat) acc
      refine ⟨_, hex, ?_, htook w _ _ _ _ (wmem.trans vmem) (wcores.trans vcores) (whost.trans vhost) (wstrms.trans vstrms) (wbar.trans vbar)
        (wadm.trans vdone) hrec⟩
      rw [State.rig_congr hrec.rigs]
      exact hrun

end Sys2Proof.Machine
end

section
/-! PROOFS. The cascade: its configuration, heartbeats and delays, and barriers at the master (R386 to R395). -/

namespace Sys2Proof.Machine

-- One theorem at a time, as in the tests: the proofs together take too many threads.
set_option Elab.async false

section
variable {s t u : State} {p q r : Nat}

/-! ### Messages and barriers that change -/

/-- The state t is s but for the barriers at the master and for messages put on ports. -/
def State.Recounts (s t : State) : Prop := ∃ b rest, t = { s with casc := { s.casc with bars := b, out := s.casc.out ++ rest } }

theorem State.Recounts.trans (h : s.Recounts t) (h' : t.Recounts u) : s.Recounts u := by
  obtain ⟨b, x, rfl⟩ := h
  obtain ⟨b', y, rfl⟩ := h'
  refine ⟨b', x ++ y, ?_⟩
  rw [← List.append_assoc]

theorem State.Rebars.recounts (h : s.Rebars t) : s.Recounts t := by
  obtain ⟨b, rfl⟩ := h
  refine ⟨b, [], ?_⟩
  rw [List.append_nil]

theorem State.Recounts.refl (s : State) : s.Recounts s := State.Rebars.recounts ⟨s.casc.bars, rfl⟩

theorem State.recounts_sendMsg (s : State) (p : Nat) (m : Msg) : s.Recounts (s.sendMsg p m) := ⟨s.casc.bars, [(p, m)], rfl⟩

theorem State.recounts_arrive (s : State) (tag : BitVec 8) (released : Bool) : s.Recounts (s.arrive tag released) := by
  unfold State.arrive
  split
  · exact .refl s
  · split
    · exact (s.rebars_countArrival _ _ _ _).recounts
    · unfold State.sendUp
      split
      · exact s.recounts_sendMsg _ _
      · exact .refl s

theorem State.recounts_arrives (s : State) (released : Bool) (tags : List (BitVec 8)) :
    s.Recounts (tags.foldl (fun s t => s.arrive t released) s) := by
  induction tags generalizing s with
  | nil => exact .refl s
  | cons t ts ih => exact (s.recounts_arrive t released).trans (ih _)

theorem State.recounts_rearrive (s : State) : s.Recounts s.rearrive :=
  (s.recounts_arrives false _).trans (State.recounts_arrives _ true _)

/-- The messages of a configuration flooded by this module. -/
def Casc.configMsg (c : Casc) : Msg := .config c.epoch c.master c.standby c.hasStandby c.nmem

/-- A configuration taken over: source 774 raised, the configuration flooded, and arrivals reported again. -/
theorem State.adopt_eq (s : State) : ∃ e b rest, (s.raiseSrc 774).floodConfig.rearrive = { s with
    evt := e
    casc := { s.casc with bars := b, out := s.casc.out ++ (s.upPorts.map fun p => (p, s.casc.configMsg)) ++ rest } } ∧
    e.pend.getLsbD 774 = true := by
  have hp : (s.raiseSrc 774).evt.pend.getLsbD 774 = true := State.raiseSrc_pend (by decide) (by decide) (by decide)
  obtain ⟨e, he⟩ := s.raiseSrc_eq 774
  rw [he] at hp ⊢
  rw [State.floodConfig_eq]
  obtain ⟨b, rest, hb⟩ := State.recounts_rearrive ({ s with
    evt := e, casc := { s.casc with out := s.casc.out ++ s.upPorts.map fun p => (p, s.casc.configMsg) } } : State)
  exact ⟨e, b, rest, hb, hp⟩

theorem State.flood_eq (s : State) (m : Msg) : s.flood m = { s with casc := { s.casc with out := s.casc.out ++ s.upPorts.map fun p => (p, m) } } :=
  s.each_sendMsg m s.upPorts

/-! ### Counting arrivals -/

/-- One more element satisfies a predicate that is widened by it. -/
theorem length_filter_or_eq {xs : List Nat} {f : Nat → Bool} {r : Nat} (hn : xs.Nodup) (hr : r ∈ xs) (hf : f r = false) :
    (xs.filter fun i => f i || i == r).length = (xs.filter f).length + 1 := by
  induction xs with
  | nil => exact absurd hr List.not_mem_nil
  | cons x xs ih =>
    obtain ⟨hx, hnd⟩ := List.nodup_cons.1 hn
    obtain rfl | hne := eq_or_ne x r
    · have hsame : xs.filter (fun i => f i || i == x) = xs.filter f := by
        refine List.filter_congr fun i hi => ?_
        have hix : i ≠ x := fun h => hx (by rw [← h]; exact hi)
        rw [beq_eq_false_iff_ne.2 hix, Bool.or_false]
      rw [List.filter_cons_of_pos (by simp), List.filter_cons_of_neg (by simp [hf]), hsame, List.length_cons]
    · have ih' := ih hnd ((List.mem_cons.1 hr).resolve_left (Ne.symm hne))
      by_cases hfx : f x = true
      · rw [List.filter_cons_of_pos (by simp [hfx]), List.filter_cons_of_pos hfx, List.length_cons, List.length_cons, ih']
      · rw [List.filter_cons_of_neg (by simp [hfx, hne]), List.filter_cons_of_neg hfx, ih']

/-- A bit that is set where it was not counts one more. -/
theorem popcount_or_twoPow {x : BitVec 64} {r : Nat} (hr : r < 64) (hx : x.getLsbD r = false) :
    popcount (x ||| BitVec.twoPow 64 r).toNat = popcount x.toNat + 1 := by
  unfold popcount idxs
  rw [← length_filter_or_eq (f := fun i => bit x.toNat i) List.nodup_range (List.mem_range.2 hr) hx]
  refine congrArg List.length (List.filter_congr fun i _ => ?_)
  have h := BitVec.getLsbD_or (x := x) (y := BitVec.twoPow 64 r) (i := i)
  rw [BitVec.getLsbD_twoPow] at h
  have hb : bit (x ||| BitVec.twoPow 64 r).toNat i = (x ||| BitVec.twoPow 64 r).getLsbD i := rfl
  have hb' : bit x.toNat i = x.getLsbD i := rfl
  rw [hb, h, hb', decide_eq_true hr, Bool.true_and]
  congr 1
  rw [Bool.eq_iff_iff, decide_eq_true_eq, beq_iff_eq, eq_comm]

theorem Bar.arrive_open {b : Bar} {rank delay : Nat} (hf : b.full = none) (hr : b.ranks.getLsbD rank = false) (hm : b.marks.getLsbD rank = false) :
    b.arrive rank delay = { b with ranks := b.ranks ||| BitVec.twoPow 64 rank, delays := tset 0 b.delays rank delay } := by
  unfold Bar.arrive
  rw [if_neg]
  rw [hf, hr, hm]
  decide

/-- An arrival at an open barrier that has no marks: it is full once every member has arrived. -/
theorem Bar.fill_arrive {b : Bar} {rank delay : Nat} (hr64 : rank < 64) (hf : b.full = none) (hr : b.ranks.getLsbD rank = false) (hm : b.marks = 0)
    (nmem now : Nat) : (b.arrive rank delay).fill nmem now = { b with
      ranks := b.ranks ||| BitVec.twoPow 64 rank, delays := tset 0 b.delays rank delay
      full := if nmem ≤ popcount b.ranks.toNat then some now else none } := by
  have hmark : b.marks.getLsbD rank = false := by rw [hm]; exact BitVec.getLsbD_zero
  rw [Bar.arrive_open hf hr hmark]
  unfold Bar.fill Bar.complete
  dsimp only
  have hm' : b.marks = 0#64 := hm
  rw [hf, hm', BitVec.or_zero, popcount_or_twoPow hr64 hr]
  by_cases h : nmem ≤ popcount b.ranks.toNat
  · rw [if_pos h, if_pos (by simp [h])]
  · rw [if_neg h, if_neg (by simp [h])]

/-- The barrier of a tag at the master. -/
def State.barOf (s : State) (tag : BitVec 8) : Bar := (s.casc.bars.find? fun x => x.tag = tag).getD { tag := tag }

theorem State.countArrival_eq (s : State) (rank : Nat) (tag : BitVec 8) (delay : Nat) : s.countArrival rank tag false delay =
    s.putArrival tag (((s.barOf tag).arrive rank delay).fill s.casc.nmem.toNat s.adm.now) := rfl

theorem State.putArrival_open {tag : BitVec 8} {b : Bar} (h : b.full = none ∨ b.targets ≠ 0) : s.putArrival tag b = s.setBar tag (some b) := by
  unfold State.putArrival
  refine if_neg fun hc => ?_
  rw [Bool.and_eq_true, beq_iff_eq] at hc
  rcases h with h | h
  · rw [h] at hc
    exact Bool.false_ne_true hc.1
  · exact h hc.2

/-! ### Ways to a rank -/

theorem State.upPorts_congr (h : t.casc.ports = s.casc.ports) : t.upPorts = s.upPorts := by
  unfold State.upPorts State.port
  rw [h]

theorem State.portTo_congr (h : t.casc.ports = s.casc.ports) (he : t.casc.epoch = s.casc.epoch) : t.portTo = s.portTo := by
  funext rank
  unfold State.portTo State.linksBy State.port
  rw [State.upPorts_congr h, h, he]

theorem State.dueAt_congr (h : t.casc = s.casc) : t.dueAt = s.dueAt := by
  funext b full stag rank
  unfold State.dueAt State.pathDelay State.port
  rw [State.upPorts_congr (congrArg Casc.ports h), h]

theorem State.seeTick_casc (s : State) (now : Nat) : (s.seeTick now).casc = s.casc := by
  have h := congrArg State.casc (s.seeTick_frame now)
  exact h

theorem State.seeTick_bar0 (s : State) (now : Nat) : (s.seeTick now).bar0 = s.bar0 := by
  have h := congrArg State.bar0 (s.seeTick_frame now)
  exact h

/-- A full barrier one of whose releases is sent. -/
def State.sentBar (s : State) (tag : BitVec 8) (b : Bar) : State :=
  if b.sent &&& b.targets == b.targets then s.reopen tag b.later else s.setBar tag (some b)

theorem State.rebars_sentBar (s : State) (tag : BitVec 8) (b : Bar) : s.Rebars (s.sentBar tag b) := by
  unfold State.sentBar State.reopen
  split
  · split <;> exact ⟨_, rfl⟩
  · exact ⟨_, rfl⟩

/-- A release of the master's only barrier: sent when it is due. -/
theorem exec_releaseSend {tag : BitVec 8} {rank : BitVec 6} {now full : Nat} {b : Bar} (hrole : s.casc.role = 2) (hb : s.casc.bars = [b])
    (htag : b.tag = tag) (hfull : b.full = some full) (ht : b.targets.getLsbD rank.toNat = true) (hs : b.sent.getLsbD rank.toNat = false) :
    exec (.cascadeReleaseSend tag rank now) s = .next (if max now s.adm.now < s.dueAt b full s.stag rank.toNat then s.seeTick now
      else if rank = s.casc.rank
        then ((s.seeTick now).sentBar tag { b with sent := b.sent ||| BitVec.twoPow 64 rank.toNat }).released tag
        else ((s.seeTick now).sentBar tag { b with sent := b.sent ||| BitVec.twoPow 64 rank.toNat }).sendTo rank.toNat
          (.release tag rank (s.dueAt b full s.stag rank.toNat))) := by
  have hc := s.seeTick_casc now
  have hnow := congrArg Adm.now (s.seeTick_adm now)
  have hdue : (s.seeTick now).dueAt b full (s.seeTick now).stag rank.toNat = s.dueAt b full s.stag rank.toNat := by
    have hstag : (s.seeTick now).stag = s.stag := by
      unfold State.stag State.reg
      rw [State.seeTick_bar0]
    rw [State.dueAt_congr hc, hstag]
  have hnow' : (s.seeTick now).adm.now = max now s.adm.now := hnow
  have hfind : (s.seeTick now).casc.bars.find? (fun b => decide (b.tag = tag)) = some b := by
    rw [hc, hb]
    exact List.find?_cons_of_pos (by simp [htag])
  have hrank : ∀ k : Bar, ((s.seeTick now).sentBar tag k).casc.rank = s.casc.rank := by
    intro k
    obtain ⟨x, hx⟩ := (s.seeTick now).rebars_sentBar tag k
    rw [hx, hc]
  show execCascadeReleaseSend tag rank now s = _
  unfold execCascadeReleaseSend
  dsimp only
  rw [hfind]
  dsimp only
  rw [hfull]
  dsimp only
  rw [hdue, hc, hrole, ht, hs, hnow']
  by_cases hd : max now s.adm.now < s.dueAt b full s.stag rank.toNat
  · rw [if_pos hd, if_pos (by simp [hd])]
  · rw [if_neg hd, if_neg (by simp [hd])]
    show Host.Outcome.next (if rank = ((s.seeTick now).sentBar tag
      { b with sent := b.sent ||| BitVec.twoPow 64 rank.toNat, full := some full }).casc.rank then _ else _) = _
    rw [hrank]
    rfl

/-- A rig waits at the barrier of a tag. -/
def State.waitsAt (s : State) (tag : BitVec 8) (r : Nat) : Bool :=
  match (s.rig r).running with
  | some m => m.r.op = 0xC && m.r.uOp = 3 && m.fin.isNone && m.r.uTag = tag.toNat
  | none => false

theorem State.waitsAt_iff {tag : BitVec 8} : s.waitsAt tag r = true ↔
    ∃ m, (s.rig r).running = some m ∧ m.r.op = 0xC ∧ m.r.uOp = 3 ∧ m.fin = none ∧ m.r.uTag = tag.toNat := by
  unfold State.waitsAt
  cases h : (s.rig r).running with
  | none => simp
  | some m => simp [and_assoc]

theorem State.released_none {tag : BitVec 8} (h : ∀ r, r < 64 → s.waitsAt tag r = false) : s.released tag = s := by
  have hf : (List.range 64).find? (s.waitsAt tag) = none :=
    List.find?_eq_none.2 fun r hr => by rw [h r (List.mem_range.1 hr)]; decide
  show (match (List.range 64).find? (s.waitsAt tag) with | none => s | some r => _) = s
  rw [hf]

/-- A barrier's tag joins those released. -/
def State.tagReleased (s : State) (tag : BitVec 8) : State :=
  { s with casc := { s.casc with relTags := tag :: s.casc.relTags.filter (· ≠ tag) } }

theorem State.released_first {tag : BitVec 8} (hr : r < 64) (h : s.waitsAt tag r = true) (hq : ∀ q, q < r → s.waitsAt tag q = false) :
    s.released tag = (s.tagReleased tag).endRunning r finOk := by
  have hf : (List.range 64).find? (s.waitsAt tag) = some r := by
    rw [List.find?_range_eq_some]
    exact ⟨h, List.mem_range.2 hr, fun j hj => by rw [hq j hj]; rfl⟩
  show (match (List.range 64).find? (s.waitsAt tag) with | none => s | some r => (s.tagReleased tag).endRunning r finOk) = _
  rw [hf]

end

/-! ### The obligation -/

/-- Settles O49, a case for each message of the cascade. -/
theorem cascadeConfiguresAndReleases : Obligations.CascadeConfiguresAndReleases := by
  unfold Obligations.CascadeConfiguresAndReleases
  intro s c sent
  refine ⟨fun epoch master standby has nmem => ?_, fun h => ?_, fun h => ?_, fun seq h hs => ?_, fun epoch seq h => ?_, fun h => ?_, fun h h0 => ?_,
    fun p t1 t2 h => ?_, fun rank tag delay released => ?_, fun tag rank now b full => ?_, fun tag rank due hne => ?_, fun tag due => ?_⟩
  · intro better
    have hbetter : (decide (s.casc.epoch.toNat < epoch.toNat) || (decide (epoch = s.casc.epoch) && decide (s.casc.role ≠ 0) &&
        decide (master.toNat < s.casc.master.toNat))) = true ↔ better := by
      simp [better, c, and_assoc]
    refine ⟨fun h => ?_, fun h => ?_⟩
    · show execConfigurationReceived epoch master standby has nmem s = _
      unfold execConfigurationReceived
      dsimp only
      rw [if_pos]
      rw [Bool.not_eq_true', ← Bool.not_eq_true]
      exact fun hc => h (hbetter.1 hc)
    · have hex : exec (.configurationReceived epoch master standby has nmem) s = .next ((({ s with casc := { s.casc with
          epoch := epoch, master := master, standby := standby, hasStandby := has, nmem := nmem
          role := s.casc.roleUnder master standby has, bars := [], seen := none } } : State).raiseSrc 774).floodConfig.rearrive) := by
        show execConfigurationReceived epoch master standby has nmem s = _
        unfold execConfigurationReceived
        dsimp only
        rw [if_neg]
        rw [Bool.not_eq_true', hbetter.2 h]
        decide
      obtain ⟨e, b, rest, heq, hp⟩ := ({ s with casc := { s.casc with
          epoch := epoch, master := master, standby := standby, hasStandby := has, nmem := nmem
          role := s.casc.roleUnder master standby has, bars := [], seen := none } } : State).adopt_eq
      rw [heq] at hex
      refine ⟨_, rest, hex, rfl, rfl, rfl, hp, rfl, fun h2 => if_pos h2, fun h2 hm => ?_, fun h2 hm hh hst => ?_⟩
      · exact (if_neg h2).trans (if_pos hm)
      · exact (if_neg h2).trans ((if_neg hm).trans (if_pos (by simp [hh, hst, c])))
  · exact if_pos h
  · exact (if_neg (not_not.2 h)).trans (congrArg Host.Outcome.next (State.flood_eq _ _))
  · have hfresh : (match s.casc.seen with | some n => decide (n < seq) | none => true) = true := by
      cases hk : s.casc.seen with
      | none => rfl
      | some n => exact decide_eq_true (hs n hk)
    have hrole : (decide (s.casc.role = 1) || decide (s.casc.role = 3)) = true := by simpa using h
    show execHeartbeatReceived s.casc.epoch seq s = _
    unfold execHeartbeatReceived
    dsimp only
    rw [hrole]
    refine (if_pos ?_).trans (congrArg Host.Outcome.next (State.flood_eq _ _))
    rw [decide_eq_true rfl, Bool.true_and, Bool.true_and]
    exact hfresh
  · show execHeartbeatReceived epoch seq s = _
    unfold execHeartbeatReceived
    dsimp only
    refine if_neg fun hc => ?_
    rw [Bool.and_eq_true, Bool.and_eq_true, decide_eq_true_eq] at hc
    obtain ⟨⟨_, he⟩, hf⟩ := hc
    rcases h with h | ⟨n, hn, hle⟩
    · exact h he
    · rw [show s.casc.seen = some n from hn] at hf
      exact absurd (of_decide_eq_true hf) (Nat.not_lt.2 hle)
  · exact if_pos (by simpa using h)
  · have hex : exec .heartbeatTimeout s = .next ((({ s with casc := { s.casc with
        epoch := s.casc.epoch + 1, master := s.casc.rank, standby := 0, hasStandby := false, role := 2, bars := [], seen := none } } : State).raiseSrc
        774).floodConfig.rearrive) := if_neg (by simp [show s.casc.role = 3 from h, h0])
    obtain ⟨e, b, rest, heq, hp⟩ := ({ s with casc := { s.casc with
        epoch := s.casc.epoch + 1, master := s.casc.rank, standby := 0, hasStandby := false, role := 2, bars := [], seen := none } } : State).adopt_eq
    rw [heq] at hex
    exact ⟨_, hex, rfl, rfl, rfl, rfl, hp⟩
  · intro k
    refine ⟨fun h2 => congrArg Host.Outcome.next (if_pos h2), fun h2 => congrArg Host.Outcome.next (if_pos h2), fun h2 ht hlim => ?_, fun h2 =>
      ⟨congrArg Host.Outcome.next (if_neg h2), congrArg Host.Outcome.next (if_neg h2), ?_⟩⟩
    · have hsat : satTo 0xFFFF (halfNs (t2 - t1 - h)) = (4 * (t2 - t1 - h) + 5) / 10 := if_pos hlim
      show execDelayProbeEcho p t2 h s = _
      unfold execDelayProbeEcho
      dsimp only
      rw [show (s.port p).t1 = some t1 from ht]
      dsimp only
      rw [if_pos h2, hsat]
    · show execDelayProbeEcho p t2 h s = _
      unfold execDelayProbeEcho
      dsimp only
      split
      · rfl
      · rw [if_neg h2]
  · have hex : exec (.barrierArrivalMessage rank tag released delay) s = .next (if s.casc.role = 2 then s.countArrival rank.toNat tag released delay
        else if s.casc.role = 0 then s else s.sendUp (arrivalMsg tag rank released) delay) := rfl
    have hcount : s.casc.role = 2 → exec (.barrierArrivalMessage rank tag false delay) s = .next (s.countArrival rank.toNat tag false delay) :=
      fun h2 => congrArg Host.Outcome.next (if_pos h2)
    refine ⟨fun h0 => ?_, fun q h0 h2 hq => ?_, fun h2 hn htag => ?_, fun b h2 hb htag hf hm hr hn => ?_⟩
    · have h2 : s.casc.role ≠ 2 := by rw [show s.casc.role = 0 from h0]; decide
      rw [hex, if_neg h2, if_pos h0]
    · rw [hex, if_neg h2, if_neg h0]
      unfold State.sendUp
      rw [show s.portTo s.casc.master.toNat = some q from hq]
    · have hbar : s.barOf tag = { tag := tag } := by
        unfold State.barOf
        rw [List.find?_eq_none.2 fun b hb => by simpa using htag b hb]
        rfl
      have hfill := Bar.fill_arrive (b := { tag := tag }) (delay := delay) rank.isLt rfl BitVec.getLsbD_zero rfl s.casc.nmem.toNat s.adm.now
      have hpos : ¬ s.casc.nmem.toNat ≤ popcount ((0 : BitVec 64)).toNat := by
        have h0 : popcount ((0 : BitVec 64)).toNat = 0 := by decide
        rw [h0, Nat.le_zero]
        exact fun h => hn (BitVec.eq_of_toNat_eq h)
      rw [if_neg hpos] at hfill
      have hkeep : s.casc.bars.filter (fun x => decide (x.tag ≠ tag)) = s.casc.bars :=
        List.filter_eq_self.2 fun b hb => by simpa using htag b hb
      rw [hcount h2, State.countArrival_eq, hbar, hfill, State.putArrival_open (.inl rfl), State.setBar, hkeep]
      have hzero : (0 : BitVec 64) ||| BitVec.twoPow 64 rank.toNat = BitVec.twoPow 64 rank.toNat := BitVec.zero_or
      dsimp only
      rw [hzero]
      rfl
    · have hbar : s.barOf tag = b := by
        unfold State.barOf
        rw [show s.casc.bars = [b] from hb, List.find?_cons_of_pos (by simp [htag])]
        rfl
      have hfill := Bar.fill_arrive (delay := delay) rank.isLt hf hr hm s.casc.nmem.toNat s.adm.now
      rw [if_pos (Nat.le_of_eq hn)] at hfill
      have htargets : (b.ranks ||| BitVec.twoPow 64 rank.toNat) &&& ~~~b.marks ≠ 0 := by
        intro h0
        have hlt : rank.toNat < 64 := rank.isLt
        have hbit : ((b.ranks ||| BitVec.twoPow 64 rank.toNat) &&& ~~~b.marks).getLsbD rank.toNat = true := by
          rw [show b.marks = 0#64 from hm, BitVec.getLsbD_and, BitVec.getLsbD_or, BitVec.getLsbD_twoPow, BitVec.getLsbD_not, BitVec.getLsbD_zero]
          simp [hlt]
        rw [h0] at hbit
        cases hbit.symm.trans BitVec.getLsbD_zero
      have hdrop : s.casc.bars.filter (fun x => decide (x.tag ≠ tag)) = [] := by
        rw [show s.casc.bars = [b] from hb, List.filter_cons_of_neg (by simp [htag])]
        rfl
      rw [hcount h2, State.countArrival_eq, hbar, hfill, State.putArrival_open (b := { b with ranks := b.ranks ||| BitVec.twoPow 64 rank.toNat, delays := tset 0 b.delays rank.toNat delay, full := some s.adm.now }) (.inr htargets), State.setBar, hdrop]
      rfl
  · intro at_ hrole hb htag hfull ht hs due
    have hex := exec_releaseSend (now := now) hrole hb htag hfull ht hs
    refine ⟨fun hlt => ?_, fun q hle hne hq => ?_⟩
    · rw [if_pos hlt] at hex
      exact hex
    · rw [if_neg (Nat.not_lt.2 hle), if_neg hne] at hex
      obtain ⟨x, hx⟩ := (s.seeTick now).rebars_sentBar tag { b with sent := b.sent ||| BitVec.twoPow 64 rank.toNat }
      have hc := s.seeTick_casc now
      have hnow := congrArg Adm.now (s.seeTick_adm now)
      have hport : ((s.seeTick now).sentBar tag { b with sent := b.sent ||| BitVec.twoPow 64 rank.toNat }).portTo rank.toNat = some q := by
        rw [State.portTo_congr (s := s) (by rw [hx, hc]) (by rw [hx, hc])]
        exact hq
      unfold State.sendTo at hex
      rw [hport] at hex
      refine ⟨_, hex, ?_, ?_⟩
      · show ((s.seeTick now).sentBar tag _).adm.now = at_
        rw [hx]
        exact hnow
      · show ((s.seeTick now).sentBar tag _).casc.out ++ _ = _
        rw [hx, hc]
  · have hex : exec (.cascadeReleaseArrival tag rank due) s = .next (s.sendTo rank.toNat (.release tag rank due)) :=
      congrArg Host.Outcome.next (if_neg hne)
    refine ⟨fun hn => ?_, fun q hq => ?_⟩ <;> rw [hex, State.sendTo]
    · rw [hn]
    · rw [hq]
  · intro waits
    have hex : exec (.cascadeReleaseArrival tag c.rank due) s = .next (s.released tag) := congrArg Host.Outcome.next (if_pos rfl)
    have hwaits (r : Nat) : s.waitsAt tag r = true ↔ waits r := State.waitsAt_iff
    have hnot (r : Nat) : s.waitsAt tag r = false ↔ ¬ waits r := by rw [← hwaits, Bool.not_eq_true]
    refine ⟨fun h => ?_, fun r m h hq hm hs => ?_⟩
    · rw [hex, State.released_none fun r hr => (hnot r).2 (h r hr)]
    · rw [State.released_first r.isLt ((hwaits r).2 h) fun q hq' => (hnot q).2 (hq q hq')] at hex
      obtain ⟨m', hm', hop, _⟩ := h
      have hop' : m.r.op = 0xC := by
        rw [hm] at hm'
        rw [Option.some.inj hm']
        exact hop
      rw [State.endRunning_update (s := s.tagReleased tag) hm hs (by rw [hop']; decide)] at hex
      exact ⟨_, _, hex, State.updated_running (s := s.tagReleased tag) hm finOk, rfl, rfl, fun q hq' => State.rig_updated_ne (s := s.tagReleased tag) hq'⟩

end Sys2Proof.Machine
end

section
/-! PROOFS. The security services: SPDM sessions, the mailbox, and PLDM (R471, R519 to R533). -/

namespace Sys2Proof.Machine

-- One theorem at a time, as in the tests: the proofs together take too many threads.
set_option Elab.async false

section
variable {s : State} {k : Sec}

/-! ### Sessions -/

theorem Sec.hasSess_iff {id via : Nat} : k.hasSess id via = true ↔ (⟨id, via⟩ : Sess) ∈ k.sess := by
  unfold Sec.hasSess
  rw [List.any_eq_true]
  constructor
  · rintro ⟨x, hx, h⟩
    rw [Bool.and_eq_true, decide_eq_true_eq, decide_eq_true_eq] at h
    obtain ⟨h1, h2⟩ := h
    rwa [← h1, ← h2]
  · exact fun h => ⟨_, h, by simp⟩

/-- With fewer than eight sessions one of the first nine numbers is free. -/
theorem Sec.freshSess_free (h : k.sess.length < 8) : ∀ x ∈ k.sess, x.id ≠ k.freshSess := by
  unfold Sec.freshSess
  cases hf : (List.range 9).find? fun i => !(k.sess.any fun x => x.id = i) with
  | some n =>
    have hn := List.find?_some hf
    rw [Bool.not_eq_true', List.any_eq_false] at hn
    intro x hx he
    exact hn x hx (decide_eq_true he)
  | none =>
    rw [List.find?_eq_none] at hf
    have hsub : List.range 9 ⊆ k.sess.map (·.id) := by
      intro i hi
      have hi' := hf i hi
      rw [Bool.not_eq_true', Bool.not_eq_false, List.any_eq_true] at hi'
      obtain ⟨x, hx, he⟩ := hi'
      exact List.mem_map.2 ⟨x, hx, of_decide_eq_true he⟩
    have hlen := (List.nodup_range.subperm hsub).length_le
    rw [List.length_range, List.length_map] at hlen
    omega

/-! ### The mailbox -/

theorem State.mboxEnd_sec (s : State) (res : BitVec 8) : (s.mboxEnd res).sec = { s.sec with busy := false, result := res } := by
  obtain ⟨e, he⟩ := ({ s with sec := { s.sec with busy := false, result := res } } : State).raiseSrc_eq 4
  unfold State.mboxEnd
  rw [he]

theorem State.mboxEnd_frame (s : State) (res : BitVec 8) : { s.mboxEnd res with sec := s.sec, evt := s.evt } = s := by
  obtain ⟨e, he⟩ := ({ s with sec := { s.sec with busy := false, result := res } } : State).raiseSrc_eq 4
  unfold State.mboxEnd
  rw [he]

theorem State.mboxEnd_pend (s : State) (res : BitVec 8) : (s.mboxEnd res).evt.pend.getLsbD 4 = true :=
  State.raiseSrc_pend (by decide) (by decide) (by decide)

/-- An operation that may read its image starts. -/
theorem State.mboxStart_reads {op : BitVec 8} {slot : Bool} (hl : s.mboxLen ≤ 4 * 1024 * 1024) (ha : s.mboxAddr % 4096 = 0) :
    s.mboxStart op slot = { s with sec := { s.sec.setSlot slot none with busy := true, op := op } } := by
  have hcond : ¬ ((decide (4 * 1024 * 1024 < s.mboxLen) || decide (s.mboxAddr % 4096 ≠ 0)) = true) := by
    rw [Bool.or_eq_true, decide_eq_true_eq, decide_eq_true_eq]
    exact not_or.2 ⟨Nat.not_lt.2 hl, not_not.2 ha⟩
  refine (if_neg hcond).trans ?_
  cases slot <;> rfl

theorem State.imageResult_eq (s : State) (b : List Byte) : s.imageResult b =
    if b.length ≠ s.mboxLen ∨ imageFormed b = false then 4
    else if Config.keysMatch b = false ∨ Config.rsaVerifies b = false then 1
    else if Config.slhVerifies b = false then 2
    else if imageSvn b < s.sec.fuse then 3 else 0 := by
  unfold State.imageResult
  simp only [Bool.or_eq_true, decide_eq_true_eq, Bool.not_eq_true']

theorem exec_mailboxEnd (h : s.sec.busy = true) (img : Option Image) : exec (.mailboxOperationEnd img) s =
    match img with
    | none => .next (s.mboxEnd 6)
    | some i => if s.imageResult i.bytes ≠ 0 then .next (s.mboxEnd (s.imageResult i.bytes))
      else if s.sec.op = 2 then
        .next { (({ s with sec := { s.sec.setSlot false (some i.bytes) with next := false } } : State).mboxEnd 0) with
          boot := { (({ s with sec := { s.sec.setSlot false (some i.bytes) with next := false } } : State).mboxEnd 0).boot with
            ph := 1, step := 2, cause := 0 } }
      else .next (({ s with sec := s.sec.setSlot s.mboxSlot (some i.bytes) } : State).mboxEnd 0) := by
  refine (if_neg (by rw [h]; decide)).trans ?_
  cases img <;> rfl

theorem Sec.slot_setSlot (k : Sec) (b : Bool) (i : Option (List Byte)) : (k.setSlot b i).slot b = i := by
  cases b <;> rfl

theorem Sec.setSlot_next (k : Sec) (b : Bool) (i : Option (List Byte)) : (k.setSlot b i).next = k.next := by
  cases b <;> rfl

end

/-! ### The obligation -/

/-- Settles O55: SPDM requests, the command session, the mailbox, and PLDM. -/
theorem securityServicesAnswer : Obligations.SecurityServicesAnswer := by
  unfold Obligations.SecurityServicesAnswer
  refine ⟨?_, ?_, ?_, ?_⟩
  · intro s v k reply sig signed
    refine ⟨fun h => ⟨fun q => if_pos (by rw [h]; rfl), fun b => if_pos (by rw [h]; rfl)⟩, fun h => ?_⟩
    have hresp : ¬ (!s.responds v) = true := by rw [h]; decide
    refine ⟨fun h8 => (if_neg hresp).trans (if_pos h8), fun h8 => ⟨k.freshSess, Sec.freshSess_free h8, ?_⟩, if_neg hresp, fun i => ?_, fun n => ?_,
      if_neg hresp, fun b => if_neg hresp⟩
    · exact (if_neg hresp).trans (if_neg (Nat.not_le.2 h8))
    · refine (if_neg hresp).trans ?_
      show (if (decide (1 ≤ i) && decide (i ≤ 5)) = true then Host.Outcome.next _ else Host.Outcome.next _) = _
      rw [apply_ite Host.Outcome.next]
      exact if_congr (by simp) rfl rfl
    · refine (if_neg hresp).trans (congrArg (fun r => Host.Outcome.next (s.spdmOut v r)) ?_)
      exact if_congr Sec.hasSess_iff rfl rfl
  · intro s n key k
    refine ⟨fun h => if_pos (by rw [h]; rfl), fun h hm => ?_, fun h hm => ?_, fun i hi => ?_⟩
    · exact (if_neg (by rw [h]; decide)).trans (if_pos (Sec.hasSess_iff.2 hm))
    · exact (if_neg (by rw [h]; decide)).trans (if_neg fun hc => hm (Sec.hasSess_iff.1 hc))
    · have hend : exec i s = .next { s with sec := s.sec.endSess n } := by
        rcases hi with rfl | rfl <;> rfl
      rw [hend]
      unfold Sec.endSess
      dsimp only
      by_cases hb : s.sec.bound = some n
      · rw [if_pos hb, if_pos hb, if_pos hb]
      · rw [if_neg hb, if_neg hb, if_neg hb]
  · intro s k empty
    have hempty (b : Bool) (op : BitVec 8) : ({ s.sec.setSlot b none with busy := true, op := op } : Sec) = { empty b with busy := true, op := op } := by
      cases b <;> rfl
    have hidle (hb : k.busy = false) : ¬ s.sec.busy = true := by
      rw [show s.sec.busy = false from hb]
      decide
    have hend (hb : k.busy = false) (res : BitVec 8) : (s.mboxEnd res).sec = { k with result := res } := by
      rw [State.mboxEnd_sec, ← hb]
    refine ⟨fun h hb => ⟨?_, ?_⟩, fun h hb => ⟨fun hr hs hl ha => ?_, fun hr hs => ?_, fun hr hl ha => ?_, fun hr => ?_⟩, fun img hb => ?_, fun hb => ?_,
      fun b hb => ?_⟩
    · exact congrArg Host.Outcome.next ((if_pos h).trans (if_pos hb))
    · exact congrArg Host.Outcome.next ((if_pos h).trans (if_pos hb))
    · have hop : s.mboxOp 1 = s.mboxStart 1 s.mboxSlot := by
        unfold State.mboxOp
        rw [if_neg (hidle hb), hr, if_pos (by decide), if_neg hs]
      refine congrArg Host.Outcome.next ((if_pos h).trans (hop.trans ((State.mboxStart_reads hl ha).trans ?_)))
      rw [hempty]
    · have hop : s.mboxOp 1 = s.mboxEnd 5 := by
        unfold State.mboxOp
        rw [if_neg (hidle hb), hr, if_pos (by decide), if_pos hs]
      exact ⟨_, congrArg Host.Outcome.next ((if_pos h).trans hop), hend hb 5, s.mboxEnd_pend 5⟩
    · have hop : s.mboxOp 2 = s.mboxStart 2 false := by
        unfold State.mboxOp
        rw [if_neg (hidle hb), hr, if_neg (by decide), if_pos (by decide)]
      refine congrArg Host.Outcome.next ((if_pos h).trans (hop.trans ((State.mboxStart_reads hl ha).trans ?_)))
      rw [hempty]
    · have hop : s.mboxOp 2 = s.mboxEnd 7 := by
        unfold State.mboxOp
        rw [if_neg (hidle hb), hr, if_neg (by decide), if_neg (by decide)]
      exact ⟨_, congrArg Host.Outcome.next ((if_pos h).trans hop), hend hb 7, s.mboxEnd_pend 7⟩
    · exact if_pos (by rw [hb]; rfl)
    · exact ⟨_, exec_mailboxEnd hb none, s.mboxEnd_sec 6, s.mboxEnd_pend 6⟩
    · intro res
      have hres : s.imageResult b = res := s.imageResult_eq b
      have hex := exec_mailboxEnd hb (some ⟨b⟩)
      dsimp only at hex
      rw [hres] at hex
      by_cases h0 : res = 0
      · rw [if_neg (not_not.2 h0)] at hex
        by_cases h2 : s.sec.op = 2
        · rw [if_pos h2] at hex
          have hsec := ({ s with sec := { s.sec.setSlot false (some b) with next := false } } : State).mboxEnd_sec 0
          have hfr := ({ s with sec := { s.sec.setSlot false (some b) with next := false } } : State).mboxEnd_frame 0
          have hpend := ({ s with sec := { s.sec.setSlot false (some b) with next := false } } : State).mboxEnd_pend 0
          generalize ({ s with sec := { s.sec.setSlot false (some b) with next := false } } : State).mboxEnd 0 = t at hex hsec hfr hpend
          have hmem := congrArg State.mem hfr
          exact ⟨_, hex, congrArg Sec.busy hsec, (congrArg Sec.result hsec).trans h0.symm, hpend, hmem, fun h => absurd h0 h,
            fun _ _ => ⟨congrArg Sec.slotA hsec, congrArg Sec.next hsec, rfl, rfl⟩, fun _ h => absurd h2 h⟩
        · rw [if_neg h2] at hex
          have hsec := ({ s with sec := s.sec.setSlot s.mboxSlot (some b) } : State).mboxEnd_sec 0
          have hfr := ({ s with sec := s.sec.setSlot s.mboxSlot (some b) } : State).mboxEnd_frame 0
          have hpend := ({ s with sec := s.sec.setSlot s.mboxSlot (some b) } : State).mboxEnd_pend 0
          generalize ({ s with sec := s.sec.setSlot s.mboxSlot (some b) } : State).mboxEnd 0 = t at hex hsec hfr hpend
          have hmem := congrArg State.mem hfr
          have hboot := congrArg State.boot hfr
          refine ⟨_, hex, congrArg Sec.busy hsec, (congrArg Sec.result hsec).trans h0.symm, hpend, hmem, fun h => absurd h0 h,
            fun _ h => absurd h h2, fun _ _ => ⟨?_, (congrArg Sec.next hsec).trans (s.sec.setSlot_next _ _), hboot⟩⟩
          have hslot := congrArg (fun k : Sec => k.slot s.mboxSlot) hsec
          exact hslot.trans (s.sec.slot_setSlot _ _)
      · rw [if_pos h0] at hex
        have hsec := s.mboxEnd_sec res
        have hfr := s.mboxEnd_frame res
        have hmem := congrArg State.mem hfr
        have hboot := congrArg State.boot hfr
        have hA := congrArg Sec.slotA hsec
        have hB := congrArg Sec.slotB hsec
        exact ⟨_, hex, congrArg Sec.busy hsec, congrArg Sec.result hsec, s.mboxEnd_pend res, hmem, fun _ => ⟨hA, hB, hboot⟩, fun h => absurd h h0, fun h => absurd h h0⟩
  · intro s
    refine ⟨fun h => ?_, fun e es h => ?_, fun i v hv => ?_⟩
    · show execPldmRequest .event s = _
      unfold execPldmRequest
      dsimp only
      rw [h]
    · show execPldmRequest .event s = _
      unfold execPldmRequest
      dsimp only
      rw [h]
    · simp only [List.mem_cons, Prod.mk.injEq, List.not_mem_nil, or_false] at hv
      rcases hv with ⟨rfl, rfl⟩ | ⟨rfl, rfl⟩ | ⟨rfl, rfl⟩ | ⟨rfl, rfl⟩ | ⟨rfl, rfl⟩ | ⟨rfl, rfl⟩ | ⟨rfl, rfl⟩ | ⟨rfl, rfl⟩ <;> rfl

end Sys2Proof.Machine
end

section
/-! PROOFS. Event sources: pending and mask bits, the messages of a vector, and the MSI-X masks (R540 to R551). -/

namespace Sys2Proof.Machine

-- One theorem at a time, as in the tests: the proofs together take too many threads.
set_option Elab.async false

section
variable {s t : State} {n v : Nat} {ns : List Nat}

/-! ### Bits of sources -/

theorem getLsbD_sourceBits_from (b : BitVec 2048) (ns : List Nat) (hn : n < 2048) :
    (ns.foldl (fun b n => b ||| BitVec.twoPow 2048 n) b).getLsbD n = (b.getLsbD n || decide (n ∈ ns)) := by
  induction ns generalizing b with
  | nil => simp
  | cons m ms ih =>
    have hbit : (b ||| BitVec.twoPow 2048 m).getLsbD n = (b.getLsbD n || decide (n = m)) := by
      rw [BitVec.getLsbD_or, BitVec.getLsbD_twoPow]
      congr 1
      rw [Bool.eq_iff_iff, Bool.and_eq_true, decide_eq_true_eq, decide_eq_true_eq, decide_eq_true_eq]
      omega
    rw [List.foldl_cons, ih, hbit, Bool.or_assoc]
    congr 1
    rw [Bool.eq_iff_iff, Bool.or_eq_true, decide_eq_true_eq, decide_eq_true_eq, decide_eq_true_eq, List.mem_cons]

theorem getLsbD_sourceBits (ns : List Nat) (hn : n < 2048) : (sourceBits ns).getLsbD n = decide (n ∈ ns) := by
  unfold sourceBits
  rw [getLsbD_sourceBits_from 0 ns hn, show (0 : BitVec 2048).getLsbD n = false from BitVec.getLsbD_zero, Bool.false_or]

theorem getLsbD_and_not {x y : BitVec 2048} (hn : n < 2048) : (x &&& ~~~y).getLsbD n = (x.getLsbD n && !y.getLsbD n) := by
  rw [BitVec.getLsbD_and, BitVec.getLsbD_not, decide_eq_true hn, Bool.true_and]

theorem mem_wordSources {i : Nat} {w : BitVec 64} : n ∈ wordSources i w ↔ n / 64 = i ∧ w.getLsbD (n % 64) = true ∧ listedSource n = true := by
  unfold wordSources
  rw [List.mem_filter, List.mem_map]
  constructor
  · rintro ⟨⟨j, hj, rfl⟩, hl⟩
    obtain ⟨hj64, hw⟩ := mem_idxs.1 hj
    rw [show (j + 64 * i) / 64 = i by omega, show (j + 64 * i) % 64 = j by omega]
    exact ⟨rfl, hw, hl⟩
  · rintro ⟨hi, hw, hl⟩
    exact ⟨⟨n % 64, mem_idxs.2 ⟨Nat.mod_lt _ (by decide), hw⟩, by omega⟩, hl⟩

/-- A word of sources names one. -/
theorem decide_mem_wordSources (i : Nat) (w : BitVec 64) (n : Nat) : decide (n ∈ wordSources i w) =
    (decide (n / 64 = i) && w.getLsbD (n % 64) && listedSource n) := by
  rw [Bool.eq_iff_iff, decide_eq_true_eq, mem_wordSources, Bool.and_eq_true, Bool.and_eq_true, decide_eq_true_eq, and_assoc]

/-! ### Raised and unmasked -/

/-- A source may be raised: it is listed, and is no rig's or a bound rig's. -/
def State.maySource (s : State) (n : Nat) : Bool :=
  listedSource n && (decide (n < 128) || decide (192 ≤ n) || (s.rig (n - 128)).cores != 0 || (s.rig (n - 128)).regions != 0 ||
    (s.rig (n - 128)).ways != 0)

theorem State.raiseSrc_cases (s : State) (n : Nat) : s.raiseSrc n = if s.maySource n = true ∧ s.evt.pend.getLsbD n = false then
    ({ s with evt := { s.evt with pend := s.evt.pend ||| BitVec.twoPow 2048 n } } : State).noteDue n else s := by
  have hcond : (!listedSource n || s.evt.pend.getLsbD n || (decide (128 ≤ n) && decide (n < 192) && (s.rig (n - 128)).cores == 0 &&
      (s.rig (n - 128)).regions == 0 && (s.rig (n - 128)).ways == 0)) = true ↔ ¬ (s.maySource n = true ∧ s.evt.pend.getLsbD n = false) := by
    unfold State.maySource
    cases listedSource n <;> cases s.evt.pend.getLsbD n <;> simp [bne] <;> omega
  unfold State.raiseSrc
  by_cases h : s.maySource n = true ∧ s.evt.pend.getLsbD n = false
  · rw [if_pos h, if_neg fun hc => hcond.1 hc h]
  · rw [if_neg h, if_pos (hcond.2 h)]

theorem State.noteDue_mask (s : State) (n : Nat) : (s.noteDue n).evt.mask = s.evt.mask := by
  unfold State.noteDue
  split <;> rfl

theorem State.noteDue_masked (h : s.evt.mask.getLsbD n = true) : s.noteDue n = s := by
  unfold State.noteDue State.deliverable
  rw [h, if_neg (by simp)]

theorem State.raiseSrc_mask (s : State) (n : Nat) : (s.raiseSrc n).evt.mask = s.evt.mask := by
  rw [State.raiseSrc_cases]
  split
  · exact State.noteDue_mask _ n
  · rfl

theorem State.raiseSrc_pend_eq (s : State) {n m : Nat} (hm : m < 2048) :
    (s.raiseSrc n).evt.pend.getLsbD m = (s.evt.pend.getLsbD m || (decide (m = n) && s.maySource m)) := by
  have hbit : (s.evt.pend ||| BitVec.twoPow 2048 n).getLsbD m = (s.evt.pend.getLsbD m || decide (m = n)) := by
    rw [BitVec.getLsbD_or, BitVec.getLsbD_twoPow]
    congr 1
    rw [Bool.eq_iff_iff, Bool.and_eq_true, decide_eq_true_eq, decide_eq_true_eq, decide_eq_true_eq]
    omega
  rw [State.raiseSrc_cases]
  by_cases hmn : m = n
  · subst hmn
    split
    next h =>
      rw [State.noteDue_pend, hbit, h.1]
      simp
    next h =>
      cases hp : s.evt.pend.getLsbD m
      · rw [Bool.eq_false_iff.2 fun hr => h ⟨hr, hp⟩]
        simp
      · rfl
  · rw [decide_eq_false hmn, Bool.false_and, Bool.or_false]
    split
    · rw [State.noteDue_pend, hbit, decide_eq_false hmn, Bool.or_false]
    · rfl

theorem State.maySource_congr (h : t.rigs = s.rigs) : t.maySource = s.maySource := by
  funext n
  unfold State.maySource
  rw [State.rig_congr h]

/-- Sources raised one after another: which are pending then, and what stays. -/
theorem State.each_raiseSrc (ns : List Nat) : ∀ s : State, { s.each ns State.raiseSrc with evt := s.evt } = s ∧
    (s.each ns State.raiseSrc).evt.mask = s.evt.mask ∧
    ∀ m, m < 2048 → (s.each ns State.raiseSrc).evt.pend.getLsbD m = (s.evt.pend.getLsbD m || (decide (m ∈ ns) && s.maySource m)) := by
  induction ns with
  | nil => exact fun s => ⟨rfl, rfl, fun m _ => by simp [State.each]⟩
  | cons n ns ih =>
    intro s
    obtain ⟨h1, h2, h3⟩ := ih (s.raiseSrc n)
    have hframe := congrArg (fun u : State => { u with evt := s.evt }) h1
    refine ⟨hframe.trans (s.raiseSrc_frame n), h2.trans (s.raiseSrc_mask n), fun m hm => (h3 m hm).trans ?_⟩
    rw [State.raiseSrc_pend_eq s hm, State.maySource_congr (s.raiseSrc_rigs n)]
    have hmem : decide (m ∈ n :: ns) = (decide (m = n) || decide (m ∈ ns)) := by
      rw [Bool.eq_iff_iff, Bool.or_eq_true, decide_eq_true_eq, decide_eq_true_eq, decide_eq_true_eq, List.mem_cons]
    rw [hmem, Bool.and_or_distrib_right, Bool.or_assoc]

/-- One source unmasked. -/
def State.unmaskOne (s : State) (n : Nat) : State :=
  if s.evt.mask.getLsbD n then ({ s with evt := { s.evt with mask := s.evt.mask &&& ~~~(BitVec.twoPow 2048 n) } } : State).noteDue n else s

theorem State.unmask_eq (s : State) (ns : List Nat) : s.unmask ns = s.each ns State.unmaskOne := rfl

theorem State.unmaskOne_mask (s : State) {n m : Nat} (hm : m < 2048) :
    (s.unmaskOne n).evt.mask.getLsbD m = (s.evt.mask.getLsbD m && !decide (m = n)) := by
  unfold State.unmaskOne
  have hbit : (s.evt.mask &&& ~~~(BitVec.twoPow 2048 n)).getLsbD m = (s.evt.mask.getLsbD m && !decide (m = n)) := by
    rw [getLsbD_and_not hm, BitVec.getLsbD_twoPow]
    congr 2
    rw [Bool.eq_iff_iff, Bool.and_eq_true, decide_eq_true_eq, decide_eq_true_eq, decide_eq_true_eq]
    omega
  split
  · rw [State.noteDue_mask, hbit]
  next h =>
    by_cases hmn : m = n
    · subst hmn
      rw [Bool.not_eq_true] at h
      rw [h]
      rfl
    · rw [decide_eq_false hmn, Bool.not_false, Bool.and_true]

theorem State.unmaskOne_pend (s : State) (n : Nat) : (s.unmaskOne n).evt.pend = s.evt.pend := by
  unfold State.unmaskOne
  split
  · rw [State.noteDue_pend]
  · rfl

theorem State.unmaskOne_frame (s : State) (n : Nat) : { s.unmaskOne n with evt := s.evt } = s := by
  unfold State.unmaskOne
  split
  · have h := congrArg (fun u : State => { u with evt := s.evt })
      (({ s with evt := { s.evt with mask := s.evt.mask &&& ~~~(BitVec.twoPow 2048 n) } } : State).noteDue_frame n)
    exact h
  · rfl

theorem State.each_unmaskOne (ns : List Nat) : ∀ s : State, { s.each ns State.unmaskOne with evt := s.evt } = s ∧
    (s.each ns State.unmaskOne).evt.pend = s.evt.pend ∧
    ∀ m, m < 2048 → (s.each ns State.unmaskOne).evt.mask.getLsbD m = (s.evt.mask.getLsbD m && !decide (m ∈ ns)) := by
  induction ns with
  | nil => exact fun s => ⟨rfl, rfl, fun m _ => by simp [State.each]⟩
  | cons n ns ih =>
    intro s
    obtain ⟨h1, h2, h3⟩ := ih (s.unmaskOne n)
    have hframe := congrArg (fun u : State => { u with evt := s.evt }) h1
    refine ⟨hframe.trans (s.unmaskOne_frame n), h2.trans (s.unmaskOne_pend n), fun m hm => (h3 m hm).trans ?_⟩
    rw [State.unmaskOne_mask s hm, Bool.and_assoc, ← Bool.not_or]
    have hmem : decide (m ∈ n :: ns) = (decide (m = n) || decide (m ∈ ns)) := by
      rw [Bool.eq_iff_iff, Bool.or_eq_true, decide_eq_true_eq, decide_eq_true_eq, decide_eq_true_eq, List.mem_cons]
    rw [hmem]

/-! ### The message of a vector -/

/-- What a message of a vector leaves: nothing of the vector is due, its holdoff runs anew, and its group is not idle; the message is
sent, or waits under a mask. -/
structure State.Sends (s t : State) (v at_ : Nat) : Prop where
  frame : { t with evt := s.evt } = s
  due : t.dueOf v = []
  pend : t.evt.pend = s.evt.pend
  now : t.evt.now = s.evt.now
  hold : t.inHold v at_ = decide (s.holdOf v ≠ 0)
  idle : t.evt.idle.getLsbD (v / 32) = false
  sent (h1 : s.evt.fnMask = false) (h2 : s.evt.vecMask.getLsbD v = false) : t.evt.sent = s.evt.sent ++ [v] ∧ t.evt.pba = s.evt.pba
  held (h : s.evt.fnMask = true ∨ s.evt.vecMask.getLsbD v = true) :
    t.evt.sent = s.evt.sent ∧ t.evt.pba = s.evt.pba ||| BitVec.twoPow 2048 v

/-- The event state in which the messages of a vector are taken and its holdoff runs. -/
def State.taken (s : State) (v now : Nat) : State :=
  { s with evt := { s.evt with
    due := s.evt.due &&& ~~~sourceBits (s.dueOf v)
    until_ := tset 0 s.evt.until_ v (if s.holdOf v = 0 then 0 else now + 1250 * s.holdOf v)
    idle := s.evt.idle &&& ~~~(BitVec.twoPow 64 (v / 32)) } }

theorem State.sendVec_live {now : Nat} (h : s.vecDeliverable v = true) : s.sendVec v now = (s.taken v now).msix v := by
  unfold State.sendVec
  dsimp only
  rw [h, if_neg (by decide)]
  rfl

theorem State.msix_cases (s : State) (v : Nat) : ∃ sent pba, s.msix v = { s with evt := { s.evt with sent := sent, pba := pba } } ∧
    (s.evt.fnMask = false → s.evt.vecMask.getLsbD v = false → sent = s.evt.sent ++ [v] ∧ pba = s.evt.pba) ∧
    (s.evt.fnMask = true ∨ s.evt.vecMask.getLsbD v = true → sent = s.evt.sent ∧ pba = s.evt.pba ||| BitVec.twoPow 2048 v) := by
  unfold State.msix
  split
  next h =>
    refine ⟨_, _, rfl, fun h1 h2 => ?_, fun _ => ⟨rfl, rfl⟩⟩
    rw [h1, h2] at h
    cases h
  next h =>
    refine ⟨_, _, rfl, fun _ _ => ⟨rfl, rfl⟩, fun h' => absurd ?_ h⟩
    rwa [Bool.or_eq_true]

theorem State.mem_dueOf : n ∈ s.dueOf v ↔ n < 2048 ∧ s.evt.due.getLsbD n = true ∧ s.vecOf n = some v := by
  unfold State.dueOf State.dueSrcs
  rw [List.mem_filter, mem_idxs, decide_eq_true_eq, and_assoc]

/-- A source's vector follows from its route and the rigs. -/
theorem State.vecOf_congr (h : t.evt.route = s.evt.route) (hr : t.rigs = s.rigs) : t.vecOf = s.vecOf := by
  funext n
  unfold State.vecOf State.route
  rw [h, State.rig_congr hr]

theorem State.sends_sendVec {now : Nat} (hv : v < 2048) (h : s.vecDeliverable v = true) : s.Sends (s.sendVec v now) v now := by
  rw [State.sendVec_live h]
  obtain ⟨sent, pba, hm, hs1, hs2⟩ := (s.taken v now).msix_cases v
  rw [hm]
  refine ⟨rfl, ?_, rfl, rfl, ?_, ?_, hs1, hs2⟩
  · refine List.eq_nil_iff_forall_not_mem.2 fun n hn => ?_
    obtain ⟨hlt, hdue, hvec⟩ := State.mem_dueOf.1 hn
    have hdue' : (s.evt.due &&& ~~~sourceBits (s.dueOf v)).getLsbD n = true := hdue
    rw [getLsbD_and_not hlt, getLsbD_sourceBits _ hlt, Bool.and_eq_true, Bool.not_eq_true', decide_eq_false_iff_not] at hdue'
    have hvec' : s.vecOf n = some v := (congrFun (State.vecOf_congr (s := s) rfl rfl) n).symm.trans hvec
    exact hdue'.2 (State.mem_dueOf.2 ⟨hlt, hdue'.1, hvec'⟩)
  · unfold State.inHold
    show decide (now < tget 0 (tset 0 s.evt.until_ v (if s.holdOf v = 0 then 0 else now + 1250 * s.holdOf v)) v) = _
    rw [tget_tset_self]
    split
    next h0 => simp [h0]
    next h0 =>
      rw [decide_eq_true h0, decide_eq_true_eq]
      have : 0 < s.holdOf v := Nat.pos_of_ne_zero h0
      omega
  · show (s.evt.idle &&& ~~~(BitVec.twoPow 64 (v / 32))).getLsbD (v / 32) = false
    rw [BitVec.getLsbD_and, BitVec.getLsbD_not, BitVec.getLsbD_twoPow, decide_eq_true (show v / 32 < 64 by omega)]
    simp

/-! ### MSI-X masks -/

/-- A vector's message leaves the pending-bit array, where it waits there and no mask holds it. -/
def State.releaseOne (s : State) (v : Nat) : State :=
  if s.evt.pba.getLsbD v && !s.evt.fnMask && !s.evt.vecMask.getLsbD v then
    { s with evt := { s.evt with pba := s.evt.pba &&& ~~~(BitVec.twoPow 2048 v), sent := s.evt.sent ++ [v] } }
  else s

theorem State.releaseMsix_eq (s : State) (vs : List Nat) : s.releaseMsix vs = s.each vs State.releaseOne := rfl

theorem State.releaseOne_empty (h : s.evt.pba.getLsbD v = false) : s.releaseOne v = s := by
  unfold State.releaseOne
  rw [h]
  rfl

theorem State.releaseMsix_empty (vs : List Nat) (h : s.evt.pba = 0) : s.releaseMsix vs = s := by
  rw [State.releaseMsix_eq]
  exact State.each_same (fun v => State.releaseOne_empty (by rw [h]; exact BitVec.getLsbD_zero)) vs

end

end Sys2Proof.Machine
end

section
/-! PROOFS. Events and interrupts as stated (R540 to R551). -/

namespace Sys2Proof.Machine

-- One theorem at a time, as in the tests: the proofs together take too many threads.
set_option Elab.async false

section
variable {s t : State}

theorem bar0On_ready (hl : s.boot.link = true) (hp : s.boot.ph = 5) (off : Nat) : s.bar0On off = true := by
  unfold State.bar0On
  rw [hl, hp]
  rfl

/-- The state in which the signal controller's counter reads a tick. -/
theorem State.evtSee_eq (s : State) (now : Nat) : s.evtSee now = { s with evt := { s.evt with now := max now s.evt.now } } := rfl

theorem exec_eventMessageSend {v : VecId} {now : Nat} (hd : s.dueOf v ≠ []) : exec (.eventMessageSend v now) s =
    .next (if !s.inHold v (max now s.evt.now) || s.idleOf v then (s.evtSee now).sendVec v (max now s.evt.now) else s.evtSee now) := by
  show execEventMessageSend v now s = _
  unfold execEventMessageSend
  exact if_pos hd

theorem exec_holdoffExpiry (v : VecId) (now : Nat) : exec (.holdoffExpiry v now) s =
    if s.inHold v (max now s.evt.now) then .next (s.evtSee now)
    else .next (if s.dueOf v ≠ [] then
      ({ s with evt := { s.evt with now := max now s.evt.now, until_ := tset 0 s.evt.until_ v.val 0 } } : State).sendVec v (max now s.evt.now)
      else { s with evt := { s.evt with now := max now s.evt.now, until_ := tset 0 s.evt.until_ v.val 0 } }) := rfl

/-- An EVT_PEND word as it reads. -/
theorem State.evtRead_pend {off m : Nat} (hm : m < 32) (h : off = 0x200 + 8 * m ∨ off = 0x300 + 8 * m) : s.evtRead off = evtWord s.evt.pend m := by
  have h1 : ¬ off < 0x200 := by omega
  have h2 : off < 0x400 := by omega
  have h3 : off % 0x100 / 8 = m := by omega
  unfold State.evtRead
  dsimp only
  rw [if_neg h1, if_pos h2, h3]

/-- The mask of one vector lifted: its message leaves the pending-bit array. -/
theorem State.releaseMsix_one {v : Nat} (h : s.evt.pba.getLsbD v = true) (hf : s.evt.fnMask = false) (hm : s.evt.vecMask.getLsbD v = false) :
    s.releaseMsix [v] = { s with evt := { s.evt with pba := s.evt.pba &&& ~~~(BitVec.twoPow 2048 v), sent := s.evt.sent ++ [v] } } := by
  show s.releaseOne v = _
  unfold State.releaseOne
  rw [h, hf, hm]
  rfl

/-- The sources whose message to the sheet controller is due and deliverable. -/
def State.sheetReady (s : State) : List Nat := (idxs 2048 fun n => s.evt.sheetDue.getLsbD n).filter s.deliverable

/-- At the end of the sheet controller's holdoff what is ready is sent to it, and begins another. -/
theorem exec_sheetHoldoff (s : State) : exec .sheetHoldoffExpiry s = .next { s with evt := { s.evt with
    sheetHold := decide (s.sheetReady ≠ []), sheetDue := 0, sheetQ := s.evt.sheetQ ++ s.sheetReady } } := by
  show execSheetHoldoffExpiry s = _
  unfold execSheetHoldoffExpiry State.sendSheet State.sheetReady
  have hdel : ({ s with evt := { s.evt with sheetHold := false } } : State).deliverable = s.deliverable := rfl
  dsimp only
  rw [hdel]
  generalize (idxs 2048 fun n => s.evt.sheetDue.getLsbD n).filter s.deliverable = ns
  by_cases h : ns = []
  · rw [if_pos h, h, List.append_nil]
    rfl
  · rw [if_neg h, decide_eq_true h]

theorem getLsbD_clear (x : BitVec 2048) (v : Fin 2048) : (x &&& ~~~(BitVec.twoPow 2048 v.val)).getLsbD v.val = false := by
  rw [getLsbD_and_not v.isLt, BitVec.getLsbD_twoPow, decide_eq_true v.isLt]
  simp

end

/-- Settles O56: raises, words of masks and pending bits, messages of vectors, reads, and the MSI-X masks. -/
theorem eventsArePendedMaskedAndSent : Obligations.EventsArePendedMaskedAndSent := by
  unfold Obligations.EventsArePendedMaskedAndSent
  refine ⟨?_, ?_, ?_⟩
  · intro s n e
    have hn := n.isLt
    have hex : exec (.eventRaise n) s = .next (s.raiseSrc n) := rfl
    refine ⟨fun h => ?_, fun hl hb => ?_⟩
    · rw [hex, State.raiseSrc_cases, if_neg]
      rintro ⟨hs, hp⟩
      rcases h with h | h
      · unfold State.maySource at hs
        rw [h] at hs
        cases hs
      · rw [show s.evt.pend.getLsbD n.val = true from h] at hp
        cases hp
    · have hsrc : s.maySource n = true := by
        unfold State.maySource
        rw [hl, Bool.true_and]
        rcases hb with h | h | h
        · simp [h]
        · simp [h]
        · have hc : ((s.rig (n.val - 128)).cores != 0) = true := bne_iff_ne.2 h
          rw [hc]
          simp
      refine ⟨_, hex, ?_, s.raiseSrc_mask n, s.raiseSrc_frame n, fun hp hm hr => ?_, fun hm => ?_⟩
      · refine BitVec.eq_of_getLsbD_eq fun m hm => ?_
        rw [State.raiseSrc_pend_eq s hm, BitVec.getLsbD_or, BitVec.getLsbD_twoPow]
        by_cases hmn : m = n.val
        · subst hmn
          simp [hsrc, e]
        · simp [hmn, Ne.symm hmn, e]
      · rw [State.raiseSrc_cases, if_pos ⟨hsrc, hp⟩]
        have hr' : (State.route { s with evt := { s.evt with pend := s.evt.pend ||| BitVec.twoPow 2048 n.val } } n).getLsbD 15 = true := hr
        unfold State.noteDue
        rw [if_pos]
        · dsimp only
          rw [if_pos hr', BitVec.getLsbD_or, BitVec.getLsbD_twoPow]
          simp
        · unfold State.deliverable
          have hpend : (s.evt.pend ||| BitVec.twoPow 2048 n.val).getLsbD n.val = true := by
            rw [BitVec.getLsbD_or, BitVec.getLsbD_twoPow]
            simp
          dsimp only
          rw [hpend, show s.evt.mask.getLsbD n.val = false from hm, hr']
          rfl
      · rw [State.raiseSrc_cases]
        split
        · rw [State.noteDue_masked (s := { s with evt := { s.evt with pend := s.evt.pend ||| BitVec.twoPow 2048 n.val } }) hm]
          exact ⟨rfl, rfl⟩
        · exact ⟨rfl, rfl⟩
  · intro s i w hl hp e named bound
    have hnamed (n : Nat) : decide (n ∈ wordSources i w) = named n := decide_mem_wordSources i w n
    refine ⟨⟨_, congrArg Host.Outcome.next (if_pos (bar0On_ready hl hp _)), fun n hn => ?_, rfl, rfl⟩, ?_, ?_,
      ⟨_, congrArg Host.Outcome.next (if_pos (bar0On_ready hl hp _)), fun n hn => ?_, rfl, rfl⟩⟩
    · show (s.evt.mask ||| sourceBits (wordSources i w)).getLsbD n = _
      rw [BitVec.getLsbD_or, getLsbD_sourceBits _ hn, hnamed]
    · have hex : exec (.evtMaskClr i w) s = .next (s.each (wordSources i w) State.unmaskOne) :=
        congrArg Host.Outcome.next (if_pos (bar0On_ready hl hp _))
      obtain ⟨h1, h2, h3⟩ := State.each_unmaskOne (wordSources i w) s
      exact ⟨_, hex, fun n hn => by rw [h3 n hn, hnamed], h2, h1⟩
    · have hex : exec (.evtPendSet i w) s = .next (s.each (wordSources i w) State.raiseSrc) :=
        congrArg Host.Outcome.next (if_pos (bar0On_ready hl hp _))
      obtain ⟨h1, h2, h3⟩ := State.each_raiseSrc (wordSources i w) s
      refine ⟨_, hex, fun n hn => ?_, h2, h1⟩
      rw [h3 n hn, hnamed]
      congr 1
      show (named n && (listedSource n && bound n)) = (named n && bound n)
      cases hx : named n with
      | false => rfl
      | true =>
        have hlisted : listedSource n = true := by
          have h := hx
          simp only [named, Bool.and_eq_true] at h
          exact h.2
        rw [hlisted, Bool.true_and]
    · show (s.evt.pend &&& ~~~sourceBits (wordSources i w)).getLsbD n = _
      rw [getLsbD_and_not hn, getLsbD_sourceBits _ hn, hnamed]
  · intro s v now e at_ seen sends
    have hsends {i : Instr} {t u : State} (hi : exec i s = .next t) (hu : { u with evt := s.evt } = s) (hp : u.evt.pend = s.evt.pend)
        (hn : u.evt.now = at_) (hh : u.holdOf v = s.holdOf v) (hf : u.evt.fnMask = s.evt.fnMask) (hm : u.evt.vecMask = s.evt.vecMask)
        (hs : u.evt.sent = s.evt.sent) (hb : u.evt.pba = s.evt.pba) (h : u.Sends t v at_) : sends i := by
      have hframe := congrArg (fun x : State => { x with evt := s.evt }) h.frame
      refine ⟨t, hi, hframe.trans hu, h.due, h.pend.trans hp, h.now.trans hn, ?_, h.idle, fun h1 h2 => ?_, fun h1 => ?_⟩
      · rw [h.hold, hh]
      · have := h.sent (hf.trans h1) (by rw [hm]; exact h2)
        rw [hs, hb] at this
        exact this
      · have := h.held (by rw [hf, hm]; exact h1)
        rw [hs, hb] at this
        exact this
    refine ⟨fun hd hh hi => ?_, fun hd hv hh => ?_, fun hh => ?_, fun hh hd => ?_, fun hh hd hv => ?_, fun hb hd w => ?_, fun off hb h1 h2 h8 => ?_,
      fun off m h hm => State.evtRead_pend hm h, fun w m h => ?_, fun m hl hp hpba => ?_, fun hl hp hpba m => ?_, fun hl hp hpba hf => ?_, ?_⟩
    · rw [exec_eventMessageSend hd, if_neg]
      · rfl
      · rw [show s.inHold v (max now s.evt.now) = true from hh, show s.idleOf v = false from hi]
        decide
    · have hex := exec_eventMessageSend (now := now) hd
      rw [if_pos (by
        rw [Bool.or_eq_true, Bool.not_eq_true']
        exact hh)] at hex
      have h := State.sends_sendVec (s := s.evtSee now) (now := at_) v.isLt hv
      exact hsends (u := s.evtSee now) hex rfl rfl rfl rfl rfl rfl rfl rfl h
    · exact (exec_holdoffExpiry v now).trans (if_pos hh)
    · rw [exec_holdoffExpiry, if_neg (by rw [show s.inHold v (max now s.evt.now) = false from hh]; decide), if_neg (not_not.2 hd)]
    · have hex := exec_holdoffExpiry (s := s) v now
      rw [if_neg (by rw [show s.inHold v (max now s.evt.now) = false from hh]; decide), if_pos hd] at hex
      have h := State.sends_sendVec (s := { s with evt := { s.evt with now := max now s.evt.now, until_ := tset 0 s.evt.until_ v.val 0 } })
        (now := at_) v.isLt hv
      exact hsends (u := { s with evt := { s.evt with now := max now s.evt.now, until_ := tset 0 s.evt.until_ v.val 0 } }) hex rfl rfl rfl rfl rfl rfl rfl rfl h
    · have hnone : s.dueSrcs = [] := by
        unfold State.dueSrcs
        refine List.eq_nil_iff_forall_not_mem.2 fun n hn => ?_
        have hbit := (mem_idxs.1 hn).2
        rw [show s.evt.due = 0 from hd] at hbit
        cases hbit.symm.trans BitVec.getLsbD_zero
      have hidle : (s.evtSee now).idleWrite w (s.evtSee now).evt.now = { s with evt := { e with now := at_, idle := w } } := by
        unfold State.idleWrite
        dsimp only
        have hdue : ({ s.evtSee now with evt := { (s.evtSee now).evt with idle := w } } : State).dueSrcs = [] := hnone
        rw [hdue]
        rfl
      exact congrArg Host.Outcome.next ((if_pos (show (s.evtSee now).bar0On 0x063800 = true from hb)).trans hidle)
    · exact if_pos (by simp [hb, h1, h2, h8])
    · have hoff {p : Prop} [Decidable p] (hp : p → s.boot.ph = 5 ∨ s.boot.ph = 6) : ¬ (s.boot.link && decide p) = true := by
        rw [Bool.and_eq_true, decide_eq_true_eq]
        rintro ⟨hl, hp'⟩
        rcases h with h | ⟨h5, h6⟩
        · rw [h] at hl
          cases hl
        · exact (hp hp').elim h5 h6
      cases w with
      | fn =>
        have hc : ¬ (s.boot.link && (decide (s.boot.ph = 5) || decide (s.boot.ph = 6))) = true := by
          rw [← Bool.decide_or]
          exact hoff id
        exact congrArg Host.Outcome.next (if_neg hc)
      | vec v => exact congrArg Host.Outcome.next (if_neg (hoff Or.inl))
      | entry v addr data => exact congrArg Host.Outcome.next (if_neg (hoff Or.inl))
    · have hc : (s.boot.link && (decide (s.boot.ph = 5) || decide (s.boot.ph = 6))) = true := by
        rw [hl, hp]
        rfl
      exact congrArg Host.Outcome.next ((if_pos hc).trans
        (State.releaseMsix_empty (s := { s with evt := { s.evt with fnMask := m } }) _ hpba))
    · intro masked
      have hc : (s.boot.link && decide (s.boot.ph = 5)) = true := by
        rw [hl, hp]
        rfl
      have hmask : s.evt.withMask v m = masked := rfl
      refine ⟨congrArg Host.Outcome.next ((if_pos hc).trans ?_), fun addr data => congrArg Host.Outcome.next ((if_pos hc).trans ?_)⟩
      · exact State.releaseOne_empty (s := { s with evt := s.evt.withMask v m }) hpba
      · exact State.releaseOne_empty (s := { s with evt := { s.evt.withMask v m with msg := tset 0 s.evt.msg v.val (data ++ addr) } }) hpba
    · have hc : (s.boot.link && decide (s.boot.ph = 5)) = true := by
        rw [hl, hp]
        rfl
      have hmask : (s.evt.withMask v false).vecMask = s.evt.vecMask &&& ~~~(BitVec.twoPow 2048 v.val) := by
        unfold Evt.withMask
        dsimp only
        rw [if_neg Bool.false_ne_true]
      have hvec : (s.evt.withMask v false).vecMask.getLsbD v = false := by
        rw [hmask]
        exact getLsbD_clear _ v
      have hrel := State.releaseMsix_one (s := { s with evt := s.evt.withMask v false }) hpba hf hvec
      have hex : exec (.msixMaskWrite (.vec v) false) s = .next (({ s with evt := s.evt.withMask v false } : State).releaseMsix [v.val]) :=
        congrArg Host.Outcome.next (if_pos hc)
      rw [hrel] at hex
      have hclear := getLsbD_clear s.evt.pba v
      exact ⟨_, hex, rfl, hclear⟩
    · intro ns
      have hns : s.sheetReady = ns := rfl
      clear_value ns
      have hex := exec_sheetHoldoff s
      rw [hns] at hex
      exact ⟨_, hex, rfl, rfl, rfl, rfl⟩

end Sys2Proof.Machine
end

section
/-! PROOFS. Lines of the cache that leave, loop-backs, and register writes (R10, R11, R213, R214, R556 to R561). -/

namespace Sys2Proof.Machine

-- One theorem at a time, as in the tests: the proofs together take too many threads.
set_option Elab.async false

/-! ### Tables -/

theorem tfind_tput_ne {α : Type} {t : Tab α} {i j : Nat} {v : α} (h : j ≠ i) : tfind (tput i v t) j = tfind t j := by
  induction t with
  | nil => exact if_neg (Ne.symm h)
  | cons e t ih =>
    obtain ⟨k, w⟩ := e
    unfold tput
    split
    · exact if_neg (Ne.symm h)
    · split
      next hk =>
        subst hk
        exact (if_neg (Ne.symm h)).trans (if_neg (Ne.symm h)).symm
      · exact if_congr Iff.rfl rfl ih

theorem tfind_tdel {α : Type} (t : Tab α) (i j : Nat) : tfind (tdel i t) j = if j = i then none else tfind t j := by
  induction t with
  | nil => exact (ite_self _).symm
  | cons e t ih =>
    obtain ⟨k, w⟩ := e
    unfold tdel
    by_cases hk : k = i
    · rw [if_pos hk, ih]
      by_cases hj : j = i
      · rw [if_pos hj, if_pos hj]
      · rw [if_neg hj, if_neg hj, tfind, if_neg (fun he => hj (he.symm.trans hk))]
    · rw [if_neg hk, tfind, ih]
      by_cases hkj : k = j
      · rw [if_pos hkj, if_neg (fun hj => hk (hkj.trans hj)), tfind, if_pos hkj]
      · rw [if_neg hkj, tfind, if_neg hkj]

theorem mem_keys_of_tfind {α : Type} {t : Tab α} {i : Nat} (h : tfind t i ≠ none) : i ∈ t.map (·.1) := by
  induction t with
  | nil => exact absurd rfl h
  | cons e t ih =>
    obtain ⟨k, w⟩ := e
    by_cases hk : k = i
    · exact List.mem_map.2 ⟨(k, w), List.mem_cons_self, hk⟩
    · rw [tfind, if_neg hk] at h
      exact List.mem_cons_of_mem _ (ih h)

section
variable {s t u : State} {l : Nat}

/-! ### Lines that leave -/

/-- No line has come, and the rigs are as they were. -/
structure State.Sheds (s t : State) : Prop where
  rigs : t.rigs = s.rigs
  gone (l : Nat) (h : s.line l = none) : t.line l = none

theorem State.Sheds.trans (h : s.Sheds t) (h' : t.Sheds u) : s.Sheds u := ⟨h'.rigs.trans h.rigs, fun l hl => h'.gone l (h.gone l hl)⟩

theorem State.Sheds.of_lines (hr : t.rigs = s.rigs) (hl : t.llc.lines = s.llc.lines) : s.Sheds t :=
  ⟨hr, fun l h => (congrArg (tfind · l) hl).trans h⟩

theorem State.Sheds.refl (s : State) : s.Sheds s := .of_lines rfl rfl

theorem State.Counts.sheds (h : s.Counts t) : s.Sheds t := by
  have hr := congrArg State.rigs h.frame
  exact .of_lines hr (congrArg Llc.lines h.llc)

theorem State.sheds_setLine {x : Line} (h : s.line l = some x) (y : Line) : s.Sheds (s.setLine l y) := by
  refine ⟨rfl, fun k hk => (tfind_tput_ne fun he => ?_).trans hk⟩
  rw [he, h] at hk
  cases hk

theorem State.sheds_setWritten (s : State) (g : Nat) : s.Sheds (s.setWritten g) := by
  unfold State.setWritten State.firstDram
  dsimp only
  split
  · split <;> exact .of_lines rfl rfl
  · exact .refl s

theorem State.sheds_flipWrite (s : State) (kind unit w : Nat) : s.Sheds (s.flipWrite kind unit w) := by
  unfold State.flipWrite
  split
  · split <;> exact .of_lines rfl rfl
  · exact .refl s

theorem State.sheds_backSector (s : State) (a : Nat) : s.Sheds (s.backSector a) := by
  unfold State.backSector
  split
  · exact ((State.Counts.refl s).countUe _ _).sheds
  · exact ((State.Counts.refl s).setMark a .none).sheds.trans (State.sheds_flipWrite _ _ _ _)

/-- A fold of steps none of which brings a line. -/
theorem State.sheds_foldl {f : State → Nat → State} (h : ∀ (s : State) (n : Nat), s.Sheds (f s n)) (xs : List Nat) (s : State) :
    s.Sheds (xs.foldl f s) := by
  induction xs generalizing s with
  | nil => exact .refl s
  | cons x xs ih => exact (h s x).trans (ih (f s x))

theorem State.sheds_lineErrors (s : State) (l : Nat) (need : BitVec 16) : s.Sheds (s.lineErrors l need) := by
  unfold State.lineErrors
  refine State.sheds_foldl (fun s i => ?_) _ s
  split
  · exact .refl s
  next x hx =>
    dsimp only
    split
    · split
      · exact (State.sheds_setLine hx _).trans ((State.Counts.refl _).setMark _ _).sheds
      · exact (State.sheds_setLine hx _).trans ((State.Counts.refl _).countCe _ _ _ _).sheds
    · split
      · exact (State.sheds_setLine hx _).trans ((State.Counts.refl _).countCe _ _ _ _).sheds
      · exact .refl s

theorem State.sheds_dropLine (s : State) (l : Nat) : s.Sheds (s.dropLine l) := by
  refine ⟨rfl, fun k hk => (tfind_tdel _ _ _).trans ?_⟩
  split
  · rfl
  · exact hk

theorem State.sheds_evict (s : State) (l : Nat) : s.Sheds (s.evict l) := by
  unfold State.evict
  split
  · exact .refl s
  next x _ =>
    refine State.Sheds.trans (t := s.backSectors l x.dirty) ?_ (State.sheds_dropLine _ l)
    unfold State.backSectors
    dsimp only
    have h1 : s.Sheds (if x.dirty = 0 then s else s.setWritten (l / 4)) := by
      split
      · exact .refl s
      · exact s.sheds_setWritten _
    exact (h1.trans (State.sheds_lineErrors _ l _)).trans (State.sheds_foldl (fun s i => s.sheds_backSector _) _ _)

theorem State.evict_self (s : State) (l : Nat) : (s.evict l).line l = none := by
  unfold State.evict
  split
  · assumption
  · exact (tfind_tdel _ _ _).trans (if_pos rfl)

theorem State.sheds_evictLines (s : State) (p : Nat → Bool) : s.Sheds (s.evictLines p) := State.sheds_foldl State.sheds_evict _ s

theorem State.each_evict (xs : List Nat) (h : l ∈ xs) (s : State) : (s.each xs State.evict).line l = none := by
  induction xs generalizing s with
  | nil => exact absurd h List.not_mem_nil
  | cons x xs ih =>
    show ((s.evict x).each xs State.evict).line l = none
    by_cases hx : l = x
    · subst hx
      exact (State.sheds_foldl State.sheds_evict xs _).gone l (s.evict_self l)
    · exact ih ((List.mem_cons.1 h).resolve_left hx) _

/-- The lines of a predicate are gone once they are evicted. -/
theorem State.evictLines_gone {p : Nat → Bool} (h : p l = true) : (s.evictLines p).line l = none := by
  by_cases hl : s.line l = none
  · exact (s.sheds_evictLines p).gone l hl
  · exact State.each_evict _ (List.mem_filter.2 ⟨mem_keys_of_tfind hl, h⟩) s

/-- Lines leave with no byte of memory changed, where no flip is armed and no set-written message is on the way. -/
theorem State.evictLines_mem (p : Nat → Bool) (hf : s.ras.flipTgt.getLsbD 63 = false) (hw : s.llc.setW = []) : (s.evictLines p).mem = s.mem := by
  have h := s.each_keeps (fun t => s.CountsLines t) State.evict ((s.llc.lines.map (·.1)).filter p) (.refl s) fun t l ht => ht.evict hf hw l
  have hc : s.Counts { s.evictLines p with llc := { (s.evictLines p).llc with lines := s.llc.lines } } := h
  exact hc.mem

/-! ### Loop-backs -/

theorem State.loopBegin_mem (s : State) (i : Nat) (w : BitVec 64) (hf : s.ras.flipTgt.getLsbD 63 = false) (hw : s.llc.setW = []) :
    (s.loopBegin i w).mem = s.mem := by
  unfold State.loopBegin
  split
  · rfl
  · split
    · split <;> rfl
    · split
      · exact State.evictLines_mem _ hf hw
      · rfl

theorem State.loopBegin_rigs (s : State) (i : Nat) (w : BitVec 64) : (s.loopBegin i w).rigs = s.rigs := by
  unfold State.loopBegin
  split
  · rfl
  · split
    · split <;> rfl
    · split
      · exact (s.sheds_evictLines _).rigs
      · rfl

theorem Loop.idle_iff {l : Loop} : (decide (l.st = 1) || decide (l.st = 2) || decide (l.st = 3)) = false ↔ l.st ≠ 1 ∧ l.st ≠ 2 ∧ l.st ≠ 3 := by
  rw [Bool.or_eq_false_iff, Bool.or_eq_false_iff, decide_eq_false_iff_not, decide_eq_false_iff_not, decide_eq_false_iff_not, and_assoc]

/-- A loop-back that may begin. -/
def State.loopBegun (s : State) (i : Nat) (x : BitVec 64) : State := (s.loopBegin i x).setLoop i { ctl := x ||| 1, st := 2 }

theorem State.loopEnter_running {i : Nat} (w : BitVec 64) (h : ¬ ((s.loop i).st ≠ 1 ∧ (s.loop i).st ≠ 2 ∧ (s.loop i).st ≠ 3)) : s.loopEnter i w = s := by
  unfold State.loopEnter
  dsimp only
  rw [if_pos]
  rw [← Loop.idle_iff, Bool.not_eq_false] at h
  exact h

theorem State.loopEnter_idle {i : Nat} (w : BitVec 64) (h : (s.loop i).st ≠ 1 ∧ (s.loop i).st ≠ 2 ∧ (s.loop i).st ≠ 3) : s.loopEnter i w =
    if !loopListed i (w &&& loopFields) then s.setLoop i { s.loop i with ctl := (w &&& loopFields) &&& ~~~1, st := 4, result := 4 }
    else if !s.loopReady i (w &&& loopFields) then s.setLoop i { s.loop i with ctl := (w &&& loopFields) &&& ~~~1, st := 4, result := 3 }
    else s.loopBegun i (w &&& loopFields) := by
  unfold State.loopEnter
  dsimp only
  rw [Loop.idle_iff.2 h, if_neg Bool.false_ne_true]
  rfl

theorem State.loop_of_loops (h : t.loops = s.loops) (i : Nat) : t.loop i = s.loop i := State.loop_congr h i

/-- A loop-back that ends on a port leaves it training where it is enabled, else down. -/
theorem State.loopEnd_port {i : Nat} (h1 : 1 ≤ i) (h7 : i < 7) (hd : loopDepth (s.loop i).ctl ≠ 5) (result : BitVec 8) (errs time : Nat) :
    ((s.loopEnd i result errs time).port (i - 1)).st = if (s.port (i - 1)).pen then 1 else 0 := by
  unfold State.loopEnd
  dsimp only
  rw [if_pos (by simp [h1, h7, hd]), State.port_setPort_self]
  split
  next h =>
    rw [if_pos (show (s.port (i - 1)).pen = true from h)]
    rfl
  next h => rw [if_neg (show ¬ (s.port (i - 1)).pen = true from h)]

/-! ### Register writes -/

theorem regAcc_word {off : Nat} (h : off % 8 = 0) (val : BitVec 64) : regAcc off 8 val = some ⟨off, BitVec.allOnes 64, val⟩ := by
  unfold regAcc
  rw [if_pos (by simp [h])]

theorem regAcc_high {off : Nat} (h : off % 8 = 4) (val : BitVec 64) : regAcc off 4 val = some ⟨off - 4, 0xFFFFFFFF00000000, val <<< 32⟩ := by
  unfold regAcc
  rw [if_neg (by simp), if_neg (by simp [h]), if_pos (by simp [h])]

theorem regAcc_none {off size : Nat} (h : size ≠ 4 ∧ size ≠ 8 ∨ off % size ≠ 0) (val : BitVec 64) : regAcc off size val = none := by
  have h8 : ¬ (size = 8 ∧ off % 8 = 0) := by
    rintro ⟨rfl, hm⟩
    rcases h with h | h
    · exact h.2 rfl
    · exact h hm
  have h4 : ¬ (size = 4 ∧ (off % 8 = 0 ∨ off % 8 = 4)) := by
    rintro ⟨rfl, hm⟩
    rcases h with h | h
    · exact h.1 rfl
    · omega
  unfold regAcc
  rw [if_neg (by simpa using h8), if_neg, if_neg]
  · simpa using fun hs hm => h4 ⟨hs, .inr hm⟩
  · simpa using fun hs hm => h4 ⟨hs, .inl hm⟩

theorem merge_word (val old : BitVec 64) (off : Nat) : (⟨off, BitVec.allOnes 64, val⟩ : RegAcc).merge old = val := by
  unfold RegAcc.merge
  rw [BitVec.not_allOnes, BitVec.and_zero, BitVec.zero_or, BitVec.and_allOnes]

/-- A whole word stored: the fields of the register take its bits. -/
theorem State.putFields_word (s : State) (off : Nat) (val mask : BitVec 64) : s.putFields ⟨off, BitVec.allOnes 64, val⟩ mask =
    s.setReg off ((s.reg off &&& ~~~mask) ||| (val &&& mask)) := by
  unfold State.putFields
  rw [merge_word]

/-- Fields of which the written half holds some: the others keep their bits. -/
theorem fields_half {old v mask be high : BitVec 64} (h : high = mask &&& be) :
    (old &&& ~~~mask) ||| (((old &&& ~~~be) ||| (v &&& be)) &&& mask) = (old &&& ~~~high) ||| (v &&& high) := by
  subst h
  refine BitVec.eq_of_getLsbD_eq fun i hi => ?_
  simp only [BitVec.getLsbD_or, BitVec.getLsbD_and, BitVec.getLsbD_not, decide_eq_true hi, Bool.true_and]
  cases old.getLsbD i <;> cases v.getLsbD i <;> cases mask.getLsbD i <;> cases be.getLsbD i <;> rfl

theorem regOpen_ready (hl : s.boot.link = true) (hp : s.boot.ph = 5) (off : Nat) : regOpen s off = true := by
  unfold regOpen
  rw [bar0On_ready hl hp]
  rfl

theorem regOpen_off (hl : s.boot.link = false) (off : Nat) : regOpen s off = false := by
  unfold regOpen State.bar0On State.strmOn
  rw [hl]
  simp

theorem exec_registerWrite {off size : Nat} {val : BitVec 64} {x : RegAcc} (h : regAcc off size val = some x) :
    exec (.registerWrite off size val) s = .next (if regOpen s x.off then s.regWrite x else s) := by
  show execRegisterWrite off size val s = _
  unfold execRegisterWrite
  rw [h]

theorem State.regWrite_ctr {x : RegAcc} (h : x.off = 0x0C0000) : s.regWrite x = s.putFields x 0xFFFF00FF00000003 := by
  have h1 : x.off / 0x10000 = 0xC := by omega
  unfold State.regWrite
  rw [h1]
  show s.writeCtr x = _
  unfold State.writeCtr
  split
  · rfl
  next h2 => exact absurd (h.symm.trans h2) (by decide)
  next h2 _ => exact absurd h h2

theorem State.regWrite_strm {x : RegAcc} (h : x.off / 0x10000 = 1) : s.regWrite x = s.writeStrm x := by
  simp only [State.regWrite, h]

/-- The ring's base: stored while the stream is not enabled. -/
theorem State.writeStrm_base {n : Nat} (hn : n < 256) {x : RegAcc} (h2 : (x.off - 0x010000) / 0x40 = n) (h3 : (x.off - 0x010000) % 0x40 = 0) :
    s.writeStrm x = if (s.strm n).en then s else s.putFields x 0xFFFFFFFFFFFFF000 := by
  unfold State.writeStrm
  generalize x.off - 0x010000 = o at h2 h3 ⊢
  refine (if_neg (Nat.not_le.2 (h2 ▸ hn))).trans ?_
  rw [h2]
  generalize o % 0x40 = k at h3 ⊢
  subst h3
  rfl

theorem State.regWrite_strmBase {n : Nat} (hn : n < 256) {x : RegAcc} (h : x.off = strmOff n 0) : s.regWrite x =
    if (s.strm n).en then s else s.putFields x 0xFFFFFFFFFFFFF000 := by
  have h1 : x.off / 0x10000 = 1 := by rw [h]; unfold strmOff; omega
  have h2 : (x.off - 0x010000) / 0x40 = n := by rw [h]; unfold strmOff; omega
  have h3 : (x.off - 0x010000) % 0x40 = 0 := by rw [h]; unfold strmOff; omega
  rw [State.regWrite_strm h1, State.writeStrm_base hn h2 h3]

/-! ### The mode of a region -/

theorem extract_mode (w : BitVec 64) : BitVec.ofNat 2 (bits w.toNat 18 17) = w.extractLsb' 17 2 := by
  refine BitVec.eq_of_toNat_eq ?_
  rw [BitVec.toNat_ofNat, BitVec.extractLsb'_toNat]
  exact Nat.mod_mod _ _

end

end Sys2Proof.Machine
end

section
/-! PROOFS. Loop-backs and register writes as stated (R10, R11, R213, R214, R556 to R561). -/

namespace Sys2Proof.Machine

-- One theorem at a time, as in the tests: the proofs together take too many threads.
set_option Elab.async false

section
variable {s : State}

theorem exec_loopEnter {i : IfaceId} {w : BitVec 64} (hb : s.bar0On (loopOff i) = true) (hw : w.getLsbD 0 = true) :
    exec (.loopEnter i w) s = .next (s.loopEnter i w) := by
  refine congrArg Host.Outcome.next (if_pos ?_)
  rw [hb, hw]
  rfl

/-- A loop-back on a port takes the port out of use; on the host link, the link. -/
theorem State.loopBegin_link (x : BitVec 64) : (s.loopBegin 0 x).boot.link = false := rfl

theorem State.loopBegin_port {i : Nat} {x : BitVec 64} (h1 : 1 ≤ i) (h7 : i < 7) (hd : loopDepth x ≠ 5) : ((s.loopBegin i x).port (i - 1)).st = 5 := by
  unfold State.loopBegin
  rw [if_neg (Nat.ne_of_gt h1), if_pos h7, if_neg hd, State.port_setPort_self]

theorem exec_loopDurationExpiry {i : IfaceId} {errs time : Nat} {locked : Bool}
    (h : (s.loop i).st = 3 ∨ ((s.loop i).st = 2 ∧ loopDur (s.loop i).ctl ≠ 0)) : exec (.loopDurationExpiry i errs time locked) s =
      .next (s.loopEnd i (if locked then (if errs = 0 then 0 else 1) else 2) errs time) := by
  have hres : (if !locked then 2 else if errs ≠ 0 then 1 else 0 : BitVec 8) = if locked then (if errs = 0 then 0 else 1) else 2 := by
    cases locked
    · rfl
    · by_cases he : errs = 0
      · simp [he]
      · simp [he]
  refine (if_pos ?_).trans (congrArg (fun r => Host.Outcome.next (s.loopEnd i r errs time)) hres)
  simpa using h

/-- The far end of an interface takes part in its loop-back (R561). -/
theorem loopFar_iff {i : IfaceId} : (((decide (i.val = 0) && decide (loopDepth (s.loop i).ctl = 4)) ||
    (decide (1 ≤ i.val) && decide (i.val < 7) && decide (4 ≤ loopDepth (s.loop i).ctl))) &&
      (decide ((s.loop i).st = 1) || decide ((s.loop i).st = 2))) = true ↔
    ((i.val = 0 ∧ loopDepth (s.loop i).ctl = 4) ∨ (1 ≤ i.val ∧ i.val < 7 ∧ 4 ≤ loopDepth (s.loop i).ctl)) ∧
      ((s.loop i).st = 1 ∨ (s.loop i).st = 2) := by
  simp only [Bool.and_eq_true, Bool.or_eq_true, decide_eq_true_eq, and_assoc]

theorem State.loopEnd_mem (s : State) (i : Nat) (result : BitVec 8) (errs time : Nat) : (s.loopEnd i result errs time).mem = s.mem := by
  have h := congrArg State.mem (s.loopEnd_frame i result errs time)
  exact h

theorem State.loopEnd_self (s : State) (i : Nat) (result : BitVec 8) (errs time : Nat) : (s.loopEnd i result errs time).loop i =
    { s.loop i with ctl := (s.loop i).ctl &&& ~~~1, st := 0, result := result, errs := satTo 0xFFFFFF errs, time := satTo 0xFFFF time } :=
  (State.loop_congr (s.loopEnd_loops i result errs time) i).trans (State.loop_setLoop_self _ _ _)

/-! ### The mode of a region -/

/-- The state in which the region selector is stored. -/
def State.modeSelected (s : State) (w : BitVec 64) : State := s.setReg 0x070008 (w &&& 0x1001FF)

theorem State.llcModeWrite_kept {w : BitVec 64} (h : w.getLsbD 16 = false ∨ 384 ≤ w.toNat % 512) : s.llcModeWrite w = s.modeSelected w := by
  unfold State.llcModeWrite
  dsimp only
  refine if_neg fun hc => ?_
  rw [Bool.and_eq_true, decide_eq_true_eq] at hc
  rcases h with h | h
  · rw [h] at hc
    cases hc.1
  · exact absurd hc.2 (Nat.not_lt.2 h)

theorem State.llcModeWrite_set {w : BitVec 64} (hb : w.getLsbD 16 = true) (hg : w.toNat % 512 < 384) : s.llcModeWrite w =
    if (s.rigOfRegion (w.toNat % 512)).isSome then { s.modeSelected w with llc := { s.llc with
      rstage := tset none s.llc.rstage (w.toNat % 512) (some (w.extractLsb' 17 2)) } }
    else (s.modeSelected w).setMode (w.toNat % 512) (w.extractLsb' 17 2) := by
  have hsel : bits w.toNat 8 0 = w.toNat % 512 := rfl
  unfold State.llcModeWrite
  rw [extract_mode]
  dsimp only
  rw [hsel, hb, decide_eq_true hg, if_pos (by decide)]
  rfl

end

/-- Settles O57: loop-backs, register writes, the hash key and the mode of a region. -/
theorem loopBacksAndRegisterWrites : Obligations.LoopBacksAndRegisterWrites := by
  unfold Obligations.LoopBacksAndRegisterWrites
  refine ⟨?_, ?_, ?_, ?_, ?_, ?_⟩
  · intro s i w l x idle hb
    refine ⟨fun hw hi => ?_, fun hw hi hl => ?_, fun hw hi hl hr => ?_, fun hw hi hl hr => ?_, ?_⟩
    · exact (exec_loopEnter hb hw).trans (congrArg Host.Outcome.next (State.loopEnter_running w hi))
    · refine (exec_loopEnter hb hw).trans (congrArg Host.Outcome.next ((State.loopEnter_idle w hi).trans (if_pos ?_)))
      rw [show loopListed i (w &&& loopFields) = false from hl]
      rfl
    · have hl' : ¬ (!loopListed i (w &&& loopFields)) = true := by
        rw [show loopListed i (w &&& loopFields) = true from hl]
        decide
      refine (exec_loopEnter hb hw).trans (congrArg Host.Outcome.next ((State.loopEnter_idle w hi).trans ((if_neg hl').trans (if_pos ?_))))
      rw [show s.loopReady i (w &&& loopFields) = false from hr]
      rfl
    · have hl' : ¬ (!loopListed i (w &&& loopFields)) = true := by
        rw [show loopListed i (w &&& loopFields) = true from hl]
        decide
      have hr' : ¬ (!s.loopReady i (w &&& loopFields)) = true := by
        rw [show s.loopReady i (w &&& loopFields) = true from hr]
        decide
      have hex := (exec_loopEnter hb hw).trans (congrArg Host.Outcome.next ((State.loopEnter_idle w hi).trans ((if_neg hl').trans (if_neg hr'))))
      refine ⟨_, hex, State.loop_setLoop_self _ _ _, fun hf hs => s.loopBegin_mem i x hf hs, s.loopBegin_rigs i x, fun h0 => ?_, fun h1 h7 hd => ?_⟩
      · show (s.loopBegin i x).boot.link = false
        rw [h0]
        exact State.loopBegin_link x
      · exact State.loopBegin_port h1 h7 hd
    · refine congrArg Host.Outcome.next ((if_pos hb).trans ?_)
      exact if_congr (by simp [l]) rfl rfl
  · intro s i errs time locked l ends far
    refine ⟨fun h => ?_, fun h he ht => ?_, fun h => ?_, fun h => ?_⟩
    · exact if_neg fun hc => h (by simpa [ends, l] using hc)
    · have herrs : satTo 0xFFFFFF errs = errs := if_pos he
      have htime : satTo 0xFFFF time = time := if_pos ht
      refine ⟨_, exec_loopDurationExpiry h, ?_, s.loopEnd_mem i _ _ _, fun h1 h7 hd => State.loopEnd_port h1 h7 hd _ _ _⟩
      rw [State.loopEnd_self, herrs, htime]
    · exact congrArg Host.Outcome.next (if_neg fun hc => h (loopFar_iff.1 hc))
    · refine ⟨_, congrArg Host.Outcome.next (if_pos (loopFar_iff.2 h)), ?_, ?_⟩
      · rw [State.loopEnd_self]
      · rw [State.loopEnd_self]
  · intro s off size val
    refine ⟨fun h => ?_, fun h => ?_⟩
    · show execRegisterWrite off size val s = _
      unfold execRegisterWrite
      rw [regAcc_none h]
    · show execRegisterWrite off size val s = _
      unfold execRegisterWrite
      split
      · rw [regOpen_off h]
        rfl
      · rfl
  · intro s val hl hp
    have hwrite {off size : Nat} {x : RegAcc} (hx : regAcc off size val = some x) : exec (.registerWrite off size val) s = .next (s.regWrite x) :=
      (exec_registerWrite hx).trans (congrArg Host.Outcome.next (if_pos (regOpen_ready hl hp _)))
    refine ⟨?_, ?_, fun n => ?_⟩
    · rw [hwrite (regAcc_word (by decide) val), State.regWrite_ctr rfl, State.putFields_word]
    · rw [hwrite (regAcc_high (by decide) val), State.regWrite_ctr rfl]
      refine congrArg (fun v => Host.Outcome.next (s.setReg 0x0C0000 v)) ?_
      exact fields_half (be := 0xFFFFFFFF00000000) (by decide)
    · have hoff : strmOff n 0 % 8 = 0 := by unfold strmOff; omega
      rw [hwrite (regAcc_word hoff val), State.regWrite_strmBase n.isLt rfl, State.putFields_word]
      have hmask : (~~~(0xFFFFFFFFFFFFF000 : BitVec 64)) = 0xFFF := by decide
      rw [hmask, BitVec.or_comm]
  · intro s k hb
    refine ⟨fun hk => ⟨s.hashKeyWrite k, congrArg Host.Outcome.next (if_pos hb), ?_, rfl⟩,
      s.hashKeyWrite 0, congrArg Host.Outcome.next (if_pos hb), ?_⟩
    · show ({ s.llc with staged := some (if k = 0 then Config.drawnKey s.free else k) } : Llc) = _
      rw [if_neg hk]
    · show ({ s.llc with staged := some (if (0 : BitVec 64) = 0 then Config.drawnKey s.free else 0) } : Llc) = _
      rw [if_pos rfl]
  · intro s w hb g m
    have hex : exec (.llcModeSet w) s = .next (s.llcModeWrite w) := congrArg Host.Outcome.next (if_pos hb)
    refine ⟨fun h => ?_, fun h hg hr => ?_, fun h hg hr => ?_⟩
    · rw [hex, State.llcModeWrite_kept h]
      rfl
    · rw [State.llcModeWrite_set h hg, if_pos hr] at hex
      exact ⟨_, hex, rfl, rfl⟩
    · have hr' : ¬ (s.rigOfRegion (w.toNat % 512)).isSome = true := by
        rw [show s.rigOfRegion (w.toNat % 512) = none from hr]
        decide
      rw [State.llcModeWrite_set h hg, if_neg hr'] at hex
      refine ⟨_, hex, tget_tset_self _ _ _ _, fun hf hs => ?_, fun l hl => ?_⟩
      · exact (s.modeSelected w).evictLines_mem (fun l => regionOf (1024 * l) = w.toNat % 512) hf hs
      · exact State.evictLines_gone (s := s.modeSelected w) (p := fun l => regionOf (1024 * l) = w.toNat % 512) (decide_eq_true hl)

end Sys2Proof.Machine
end

section
/-! PROOFS. Yards and their levels (R440, R443 to R447, R500): what a new level, a margin plan and the mapping of a yard change. -/

namespace Sys2Proof.Machine

-- One theorem at a time, as in the tests: the proofs together take too many threads.
set_option Elab.async false

/-! ### Faults leave the figures of a rig -/

/-- Two rigs that differ in no more than what a fault interval touches. -/
def Rig.SameFigures (k k' : Rig) : Prop := { k' with fault := k.fault, iv := k.iv, running := k.running, plan := k.plan } = k

theorem Rig.SameFigures.refl (k : Rig) : k.SameFigures k := rfl

theorem Rig.SameFigures.trans {k k' k'' : Rig} (h : k.SameFigures k') (h' : k'.SameFigures k'') : k.SameFigures k'' := by
  unfold Rig.SameFigures at *
  exact (congrArg (fun q : Rig => { q with fault := k.fault, iv := k.iv, running := k.running, plan := k.plan }) h').trans h

theorem Rig.sameFigures_faulted (k : Rig) (f : HwFault) : k.SameFigures (k.faulted f) := by
  unfold Rig.faulted
  split
  · exact rfl
  · exact rfl

theorem Rig.sameFigures_unfaulted (k : Rig) (f : HwFault) : k.SameFigures (k.unfaulted f) := by
  unfold Rig.unfaulted
  split
  · exact rfl
  · exact rfl

section
variable {s t u : State} {y x lvl cause : Nat} {held : Bool}

theorem State.yard_congr (h : t.yards = s.yards) (y : Nat) : t.yard y = s.yard y := congrArg (fun x => tget ({} : Yard) x y) h

theorem State.reg_congr (h : t.bar0 = s.bar0) (off : Nat) : t.reg off = s.reg off :=
  congrArg (fun x => (tfind x off).getD (resetReg off)) h

theorem tget_eq_getD {α : Type} (d : α) (t : Tab α) (i : Nat) : tget d t i = (tfind t i).getD d := by
  induction t with
  | nil => rfl
  | cons e t ih =>
    rw [tget, tfind]
    split
    · rfl
    · exact ih

theorem State.reg_eq (s : State) (off : Nat) : s.reg off = tget (resetReg off) s.bar0 off := (tget_eq_getD _ _ _).symm

theorem State.reg_setReg_self (s : State) (off : Nat) (w : BitVec 64) : (s.setReg off w).reg off = w :=
  (State.reg_eq _ off).trans (tget_tset_self (resetReg off) s.bar0 off w)

theorem State.faultBegin_mask (s : State) (f : HwFault) : (s.faultBegin f).evt.mask = s.evt.mask := by
  refine State.each_keeps s (fun t => t.evt.mask = s.evt.mask) _ _ rfl fun t r h => ?_
  dsimp only
  split
  · exact (State.raiseSrc_mask _ _).trans h
  · exact h

/-! ### What a change of levels leaves -/

/-- The state t is s with yards at other levels and plans: sources stay pending, masks and the figures of the rigs stay, and but for the
parts named nothing changes. -/
structure State.Levels (s t : State) : Prop where
  frame : { t with
    yards := s.yards, rigs := s.rigs, evt := s.evt, bar0 := s.bar0, therm := { t.therm with limit := s.therm.limit }
    pwr := { t.pwr with below := s.pwr.below, waits := s.pwr.waits } } = s
  mask : t.evt.mask = s.evt.mask
  pend : s.Pends t
  rig (r : Nat) : (s.rig r).SameFigures (t.rig r)

theorem State.Levels.refl (s : State) : s.Levels s := ⟨rfl, rfl, fun _ h => h, fun _ => rfl⟩

theorem State.Levels.trans (h : s.Levels t) (h' : t.Levels u) : s.Levels u where
  frame := (congrArg (fun v : State => { v with
    yards := s.yards, rigs := s.rigs, evt := s.evt, bar0 := s.bar0, therm := { v.therm with limit := s.therm.limit }
    pwr := { v.pwr with below := s.pwr.below, waits := s.pwr.waits } }) h'.frame).trans h.frame
  mask := h'.mask.trans h.mask
  pend := h.pend.trans h'.pend
  rig r := (h.rig r).trans (h'.rig r)

theorem State.levels_setYard (s : State) (y : Nat) (k : Yard) : s.Levels (s.setYard y k) := ⟨rfl, rfl, fun _ h => h, fun _ => rfl⟩

theorem State.levels_setReg (s : State) (off : Nat) (w : BitVec 64) : s.Levels (s.setReg off w) := ⟨rfl, rfl, fun _ h => h, fun _ => rfl⟩

theorem State.levels_raiseSrc (s : State) (n : Nat) : s.Levels (s.raiseSrc n) := by
  refine ⟨?_, s.raiseSrc_mask n, s.pends_raiseSrc n, fun r => ?_⟩ <;> obtain ⟨e, he⟩ := s.raiseSrc_eq n <;> rw [he]
  exact Rig.SameFigures.refl _

theorem State.levels_faultBegin (s : State) (f : HwFault) : s.Levels (s.faultBegin f) := by
  refine ⟨?_, s.faultBegin_mask f, (State.downs_faultBegin s f).pend, fun r => ?_⟩
  · obtain ⟨r, e, he⟩ := s.faultBegin_eq f
    rw [he]
  · rw [State.faultBegin_rig]
    split
    · exact Rig.sameFigures_faulted _ f
    · exact Rig.SameFigures.refl _

theorem State.levels_faultEnd (s : State) (f : HwFault) : s.Levels (s.faultEnd f) := by
  refine ⟨?_, ?_, (State.downs_faultEnd s f).pend, fun r => ?_⟩
  · obtain ⟨r, he⟩ := s.faultEnd_eq f
    rw [he]
  · obtain ⟨r, he⟩ := s.faultEnd_eq f
    rw [he]
  · rw [State.faultEnd_rig]
    split
    · exact Rig.sameFigures_unfaulted _ f
    · exact Rig.SameFigures.refl _

theorem State.levels_noteBelow (s : State) (y : YardId) (was : Bool) : s.Levels (s.noteBelow y was) := by
  have hbelow (b : Bool) : s.Levels { s with pwr := { s.pwr with below := b } } := ⟨rfl, rfl, fun _ h => h, fun _ => rfl⟩
  have hmark : s.Levels (if s.isBelow y && !was then { s with pwr := { s.pwr with below := true } } else s) := by
    split
    · exact hbelow true
    · exact State.Levels.refl s
  unfold State.noteBelow
  dsimp only
  generalize (if s.isBelow y && !was then { s with pwr := { s.pwr with below := true } } else s) = v at hmark ⊢
  split
  · exact hmark.trans (v.levels_faultBegin _)
  · split
    · exact hmark
    · exact hmark.trans (v.levels_faultEnd _)

theorem State.noteBelow_yards (s : State) (y : YardId) (was : Bool) : (s.noteBelow y was).yards = s.yards := by
  have hmark : (if s.isBelow y && !was then { s with pwr := { s.pwr with below := true } } else s).yards = s.yards := by
    split <;> rfl
  unfold State.noteBelow
  dsimp only
  generalize (if s.isBelow y && !was then { s with pwr := { s.pwr with below := true } } else s) = v at hmark ⊢
  split
  · obtain ⟨r, e, he⟩ := v.faultBegin_eq (.belowFloor y)
    rw [he]
    exact hmark
  · split
    · exact hmark
    · obtain ⟨r, he⟩ := v.faultEnd_eq (.belowFloor y)
      rw [he]
      exact hmark

/-! ### A new level -/

/-- A yard at a level, a form of level 7 and a reason. -/
def Yard.atLevel (k : Yard) (lvl : Nat) (held : Bool) (cause : Nat) : Yard :=
  { k with
    lvl := lvl, held := held && lvl = 7, cause := if lvl = 0 then 0 else cause
    boost := if lvl = 0 then k.boost else 0, ramp := .no, quarter := false }

theorem State.setLevel_yards (s : State) (y : YardId) (lvl : Nat) (held : Bool) (cause : Nat) :
    (s.setLevel y lvl held cause).yards = (s.setYard y ((s.yard y).atLevel lvl held cause)).yards := State.noteBelow_yards _ _ _

theorem State.setLevel_self (s : State) (y : YardId) (lvl : Nat) (held : Bool) (cause : Nat) :
    (s.setLevel y lvl held cause).yard y = (s.yard y).atLevel lvl held cause :=
  (State.yard_congr (s.setLevel_yards y lvl held cause) y.val).trans (State.yard_setYard_self s y.val _)

theorem State.setLevel_ne (s : State) {y : YardId} (h : x ≠ y.val) (lvl : Nat) (held : Bool) (cause : Nat) :
    (s.setLevel y lvl held cause).yard x = s.yard x :=
  (State.yard_congr (s.setLevel_yards y lvl held cause) x).trans (State.yard_setYard_ne _ _ h)

theorem State.levels_setLevel (s : State) (y : YardId) (lvl : Nat) (held : Bool) (cause : Nat) : s.Levels (s.setLevel y lvl held cause) := by
  have hset : s.Levels ({ s.setYard y ((s.yard y).atLevel lvl held cause) with
      pwr := { s.pwr with waits := s.pwr.waits.filter (· ≠ y.val) } } : State) := ⟨rfl, rfl, fun _ h => h, fun _ => rfl⟩
  exact hset.trans (State.levels_noteBelow _ y _)

theorem yardId_val (h : y < 256) : (yardId y).val = y := Nat.mod_eq_of_lt h

theorem yardId_self (y : YardId) : yardId y.val = y := Fin.ext (yardId_val y.isLt)

theorem State.furlOff_self (h : y < 256) (s : State) (cause : Nat) : (s.furlOff y cause).yard y = (s.yard y).atLevel 7 false cause := by
  have hself := s.setLevel_self (yardId y) 7 false cause
  rwa [yardId_val h] at hself

theorem State.furlOff_ne (h : y < 256) (hx : x ≠ y) (s : State) (cause : Nat) : (s.furlOff y cause).yard x = s.yard x :=
  s.setLevel_ne (by rw [yardId_val h]; exact hx) 7 false cause

theorem State.levels_furlOff (s : State) (y cause : Nat) : s.Levels (s.furlOff y cause) := s.levels_setLevel _ _ _ _

theorem State.levels_keepTop (s : State) (y cause : Nat) : s.Levels (s.keepTop y cause) := by
  unfold State.keepTop
  split
  · exact s.levels_setLevel _ _ _ _
  · exact State.Levels.refl s

theorem State.keepTop_ne (h : y < 256) (hx : x ≠ y) (s : State) (cause : Nat) : (s.keepTop y cause).yard x = s.yard x := by
  unfold State.keepTop
  split
  · exact s.setLevel_ne (by rw [yardId_val h]; exact hx) _ _ _
  · rfl

/-- A yard kept within what it may use stays as it is, but for a level that is too fast. -/
theorem State.keepTop_self (h : y < 256) (s : State) (cause : Nat) : (s.keepTop y cause).yard y =
    if (s.yard y).lvl < s.yardTop y then (s.yard y).atLevel (s.yardTop y) false cause else s.yard y := by
  unfold State.keepTop
  split
  · have hself := s.setLevel_self (yardId y) (s.yardTop y) false cause
    rwa [yardId_val h] at hself
  · rfl

/-- A sweep in which one index is visited once, said of the indices it visits. -/
theorem State.each_visit {f : State → Nat → State} {P Q : State → Prop} {n : Nat} {xs : List Nat} (hx : xs.Nodup) (hn : n ∈ xs)
    (hP : ∀ t i, i ∈ xs → i ≠ n → P t → P (f t i)) (hPQ : ∀ t, P t → Q (f t n)) (hQ : ∀ t i, i ∈ xs → i ≠ n → Q t → Q (f t i))
    (s : State) (h : P s) : Q (s.each xs f) := by
  have hsame : s.each xs f = s.each xs fun t i => if i ∈ xs then f t i else t := List.foldl_ext _ _ _ fun t i hi => (if_pos hi).symm
  rw [hsame]
  refine State.each_turn (P := P) (Q := Q) hx hn (fun t i hne ht => ?_) (fun t ht => ?_) (fun t i hne ht => ?_) s h
  · split
    next hi => exact hP t i hi hne ht
    next => exact ht
  · rw [if_pos hn]
    exact hPQ t ht
  · split
    next hi => exact hQ t i hi hne ht
    next => exact ht

/-- A sweep that furls every yard. -/
theorem State.each_furlOff (s : State) (cause : Nat) (h : y < 256) :
    (s.each allYards fun s y => s.furlOff y cause).yard y = (s.yard y).atLevel 7 false cause :=
  State.each_visit (P := fun t => t.yard y = s.yard y) (Q := fun t => t.yard y = (s.yard y).atLevel 7 false cause) List.nodup_range
    (List.mem_range.2 h) (fun t _ hi hne ht => (t.furlOff_ne (List.mem_range.1 hi) (Ne.symm hne) cause).trans ht)
    (fun t ht => (t.furlOff_self h cause).trans (congrArg (fun k : Yard => k.atLevel 7 false cause) ht))
    (fun t _ hi hne ht => (t.furlOff_ne (List.mem_range.1 hi) (Ne.symm hne) cause).trans ht) s rfl

/-! ### The margin plan -/

theorem State.levels_ageBit (s : State) (i : Nat) : s.Levels (s.ageBit i) := s.levels_setReg _ _

theorem State.levels_retireYard (s : State) (y : Nat) : s.Levels (s.retireYard y) := by
  unfold State.retireYard
  dsimp only
  split
  · exact (s.levels_setYard y _).trans (State.levels_setLevel _ _ _ _ _)
  · exact s.levels_setYard y _

/-- A yard with its figures planned. -/
def State.withPlan (s : State) (included : Bool) (y : Nat) : State :=
  let k := s.yard y
  let off := planOffset (median k.samples)
  match planCeil k.levels with
  | some c => if s.yardFloor y < c then s.retireYard y else (s.setYard y (k.applyPlan (included || s.yardFloor y = 7) off c)).keepTop y 0
  | none => if s.yardFloor y = 7 then s.setYard y (k.applyPlan true off 6) else s.retireYard y

theorem State.planYard_eq (s : State) (included : Bool) (y : Nat) : s.planYard included y =
    if (s.yard y).samples = [] || (s.yard y).retired then s
    else if ((s.withPlan included y).yard y).planned = (s.yard y).planned then s.withPlan included y
    else (s.withPlan included y).ageBit 1 := rfl

theorem State.levels_withPlan (s : State) (included : Bool) (y : Nat) : s.Levels (s.withPlan included y) := by
  unfold State.withPlan
  dsimp only
  split
  · split
    · exact s.levels_retireYard y
    · exact (s.levels_setYard y _).trans (State.levels_keepTop _ y 0)
  · split
    · exact s.levels_setYard y _
    · exact s.levels_retireYard y

theorem State.levels_planYard (s : State) (included : Bool) (y : Nat) : s.Levels (s.planYard included y) := by
  rw [State.planYard_eq]
  split
  · exact State.Levels.refl s
  · split
    · exact s.levels_withPlan included y
    · exact (s.levels_withPlan included y).trans (State.levels_ageBit _ 1)

theorem State.levels_marginPlan (s : State) (included : Bool) (ys : List Nat) : s.Levels (s.marginPlan included ys) :=
  State.each_keeps _ s.Levels _ _ (s.levels_setReg _ _) fun t y h => h.trans (t.levels_planYard included y)

end

end Sys2Proof.Machine
end

section
/-! PROOFS. Start-up (R501 to R517): what a reset keeps and what the end of each step leaves. -/

namespace Sys2Proof.Machine

-- One theorem at a time, as in the tests: the proofs together take too many threads.
set_option Elab.async false

section
variable {s t u : State} {e : StepEnd} {kind item i n : Nat} {xs : List Nat}

/-! ### Sweeps and the failure record -/

/-- What each round of a sweep keeps, and the round of one index brings about, holds after the sweep. -/
theorem State.each_marks {f : State → Nat → State} {Q : State → Prop} (hn : n ∈ xs) (hf : ∀ t, Q (f t n)) (hQ : ∀ t i, Q t → Q (f t i)) :
    ∀ s : State, Q (s.each xs f) := by
  induction xs with
  | nil => exact absurd hn List.not_mem_nil
  | cons x xs ih =>
    intro s
    obtain rfl | hmem := List.mem_cons.1 hn
    · exact State.each_keeps (f s n) Q f xs (hf s) hQ
    · exact ih hmem (f s x)

theorem State.chan_congr (h : t.hbm = s.hbm) (i : Nat) : t.chan i = s.chan i := congrArg (fun x => tget ({} : Hbm) x i) h

theorem State.listedBad_congr (hf : t.failures = s.failures) (hu : t.fuses = s.fuses) (kind : Nat) : t.listedBad kind = s.listedBad kind := by
  unfold State.listedBad State.fusedBad
  rw [hf, hu]

theorem State.recordFail_mono {x : Nat × Nat} (h : x ∈ s.failures) : x ∈ (s.recordFail kind item).failures := by
  unfold State.recordFail
  split
  · exact h
  · split
    · exact List.mem_append_left _ h
    · obtain ⟨e, he⟩ := s.raiseSrc_eq 259
      rw [he]
      exact h

theorem State.mem_recordFail {x : Nat × Nat} (h : x ∈ (s.recordFail kind item).failures) : x ∈ s.failures ∨ x = (kind, item) := by
  unfold State.recordFail at h
  split at h
  · exact .inl h
  · split at h
    · exact (List.mem_append.1 h).imp_right List.mem_singleton.1
    · obtain ⟨e, he⟩ := s.raiseSrc_eq 259
      rw [he] at h
      exact .inl h

theorem State.recordFail_length (h : s.failures.length < 1024) : (s.recordFail kind item).failures.length ≤ s.failures.length + 1 := by
  unfold State.recordFail
  split
  · exact Nat.le_succ _
  · simp [h]

/-- Failures for which there is room are all recorded. -/
theorem State.each_recordFail (kind : Nat) (xs : List Nat) : ∀ s : State, s.failures.length + xs.length ≤ 1024 → i ∈ xs →
    (kind, i) ∈ (s.each xs fun s i => s.recordFail kind i).failures := by
  induction xs with
  | nil => exact fun _ _ h => absurd h List.not_mem_nil
  | cons x xs ih =>
    intro s hroom hi
    rw [List.length_cons] at hroom
    have hlt : s.failures.length < 1024 := by omega
    obtain rfl | hmem := List.mem_cons.1 hi
    · exact State.each_keeps (s.recordFail kind i) (fun t => (kind, i) ∈ t.failures) _ xs (State.recordFail_room kind i hlt).1
        fun t n h => State.recordFail_mono h
    · have hlen := State.recordFail_length (kind := kind) (item := x) hlt
      exact ih (s.recordFail kind x) (by omega) hmem

/-! ### What a reset keeps -/

theorem State.park_frame (s : State) (y : Nat) : ({ s.park y with parked := s.parked, tiles := s.tiles, cores := s.cores } : State) = s := by
  refine State.each_keeps s (fun t => ({ t with parked := s.parked, tiles := s.tiles, cores := s.cores } : State) = s) _ _ rfl
    fun t j h => ?_
  dsimp only
  split <;> exact h

theorem State.parkAll_frame (s : State) : ({ s.parkAll with parked := s.parked, tiles := s.tiles, cores := s.cores } : State) = s :=
  State.each_keeps s (fun t => ({ t with parked := s.parked, tiles := s.tiles, cores := s.cores } : State) = s) _ _ rfl fun t y h =>
    (congrArg (fun u : State => { u with parked := s.parked, tiles := s.tiles, cores := s.cores }) (t.park_frame y)).trans h

/-- A reset keeps the failure record, host memory and what is stored of security. -/
theorem State.volatileReset_kept (s : State) (log : Bool) : (s.volatileReset log).failures = s.failures ∧
    (s.volatileReset log).hostMem = s.hostMem ∧ (s.volatileReset log).sec = s.sec.stored := by
  have hfail := congrArg State.failures s.parkAll_frame
  have hhost := congrArg State.hostMem s.parkAll_frame
  have hsec := congrArg (fun t : State => t.sec.stored) s.parkAll_frame
  exact ⟨hfail, hhost, hsec⟩

/-! ### The end of a step -/

theorem satTo_of_le {hi v : Nat} (h : v ≤ hi) : satTo hi v = v := if_pos h

/-- The state in which the end of a step is judged: its time and the units trained in full are counted, and its rails are up. -/
def State.stepping (s : State) (e : StepEnd) : State :=
  { s with
    boot := { s.boot with stime := s.boot.stime + e.ms, nfull := s.boot.nfull + e.full.length }
    pwr := (s.railStep s.boot.step e.volts).1.pwr }

/-- A step of start-up takes time while nothing holds it. -/
structure State.Stepping (s : State) (e : StepEnd) : Prop where
  ph : s.boot.ph = 1
  perst : s.boot.perst = false
  paused : s.boot.paused = false
  time : s.boot.stime + e.ms ≤ 0xFFFF
  full : s.boot.nfull + e.full.length ≤ 0xFFFF

theorem State.Stepping.exec_eq (h : s.Stepping e) : exec (.startupStepEnd e) s =
    if (s.stepping e).stepCause e (s.railStep s.boot.step e.volts).2 ≠ 0 then
      .next ((s.stepping e).startFailed ((s.stepping e).stepCause e (s.railStep s.boot.step e.volts).2))
    else
      let v := (s.stepping e).endStep e
      .next (if v.leftCause s.boot.step ≠ 0 then v.startFailed (v.leftCause s.boot.step)
        else { v with boot := { v.boot with step := min 9 (s.boot.step + 1) } }) := by
  obtain ⟨hph, hperst, hpaused, htime, hfull⟩ := h
  show execStartupStepEnd e s = _
  unfold execStartupStepEnd
  dsimp only
  rw [if_neg (by simp [hph, hperst, hpaused]), satTo_of_le htime, satTo_of_le hfull]
  rfl

theorem State.Stepping.fails (h : s.Stepping e) {c : BitVec 8} (hc : (s.stepping e).stepCause e (s.railStep s.boot.step e.volts).2 = c)
    (h0 : c ≠ 0) : exec (.startupStepEnd e) s = .next ((s.stepping e).startFailed c) := by
  subst hc
  exact h.exec_eq.trans (if_pos h0)

theorem State.Stepping.leaves_failed (h : s.Stepping e) {c : BitVec 8} {v : State}
    (hc : (s.stepping e).stepCause e (s.railStep s.boot.step e.volts).2 = 0) (hv : (s.stepping e).endStep e = v)
    (hl : v.leftCause s.boot.step = c) (h0 : c ≠ 0) : exec (.startupStepEnd e) s = .next (v.startFailed c) := by
  subst hv hl
  exact h.exec_eq.trans ((if_neg (not_not_intro hc)).trans (congrArg Host.Outcome.next (if_pos h0)))

theorem State.Stepping.ends (h : s.Stepping e) {v : State}
    (hc : (s.stepping e).stepCause e (s.railStep s.boot.step e.volts).2 = 0) (hv : (s.stepping e).endStep e = v)
    (hl : v.leftCause s.boot.step = 0) :
    exec (.startupStepEnd e) s = .next { v with boot := { v.boot with step := min 9 (s.boot.step + 1) } } := by
  subst hv
  exact h.exec_eq.trans ((if_neg (not_not_intro hc)).trans (congrArg Host.Outcome.next (if_neg (not_not_intro hl))))

/-- Steps other than 1 and 4 bring up no rail. -/
theorem State.railStep_none (s : State) (volts : List Nat) (h1 : n ≠ 1) (h4 : n ≠ 4) :
    (s.railStep n volts).1.pwr = s.pwr ∧ (s.railStep n volts).2 = true := by
  have htodo : s.stepRails n = [] := by
    unfold State.stepRails
    dsimp only
    rw [if_neg h1, if_neg h4]
  unfold State.railStep
  dsimp only
  rw [htodo]
  have hup : bringUp [] volts = [] := by cases volts <;> rfl
  rw [hup, List.append_nil]
  exact ⟨rfl, rfl⟩

theorem State.leftCause_other (s : State) (h6 : n ≠ 6) (h7 : n ≠ 7) : s.leftCause n = 0 := by
  unfold State.leftCause
  rw [if_neg (by simp [h6]), if_neg (by simp [h7])]

/-! ### Step 3 -/

/-- The identity pairs of the fused secret. -/
def State.withKeys (s : State) : State :=
  let secret := (majority (s.fuses.map (·.secret))).getD 0
  let pair (k : Nat) : KeyPair := ⟨(Config.identityPair k secret).1, (Config.identityPair k secret).2⟩
  { s with sec := { s.sec with rsa := pair 0, slh := pair 1 } }

/-- The rows the record and the fuses replace. -/
def State.withRows (s : State) : State :=
  let s : State := { s with parked := tmap {} (fun x => ({ x with tile := { x.tile with spare := [] } } : Parked)) s.parked }
  s.each (s.listedBad 1).dedup fun s i =>
    let pos := i / 65536
    let b := i % 65536 / 4096
    let x := tget {} s.parked pos
    { s with parked := tset {} s.parked pos { x with tile := { x.tile with spare := tset 0 x.tile.spare b (tget 0 x.tile.spare b + 1) } } }

/-- A channel listed as lost. -/
def State.withoutChan (s : State) (ch : Nat) : State := if ch < 256 then s.setChan ch { s.chan ch with lost := true } else s

/-- The channels the record and the fuses list as lost. -/
def State.withChans (s : State) : State := s.each (s.listedBad 5) State.withoutChan

/-- The ways the record and the fuses list as lost. -/
def State.withWays (s : State) : State := s.each (s.listedBad 4) fun s i => s.loseWay (i / 17) (i % 17)

theorem State.bootFuses_eq (s : State) : s.bootFuses = s.withKeys.withRows.withChans.withWays := rfl

theorem State.withRows_frame (s : State) : ({ s.withRows with parked := s.parked } : State) = s :=
  State.each_keeps _ (fun t => ({ t with parked := s.parked } : State) = s) _ _ rfl fun _ _ h => h

theorem State.withoutChan_frame (s : State) (ch : Nat) : ({ s.withoutChan ch with hbm := s.hbm } : State) = s := by
  unfold State.withoutChan
  split <;> rfl

theorem State.withChans_frame (s : State) : ({ s.withChans with hbm := s.hbm } : State) = s :=
  State.each_keeps s (fun t => ({ t with hbm := s.hbm } : State) = s) _ _ rfl fun t ch h =>
    (congrArg (fun u : State => { u with hbm := s.hbm }) (t.withoutChan_frame ch)).trans h

theorem State.withWays_frame (s : State) : ({ s.withWays with llc := s.llc } : State) = s :=
  State.each_keeps s (fun t => ({ t with llc := s.llc } : State) = s) _ _ rfl fun _ _ h => h

/-- A lost channel stays lost while others are. -/
theorem State.withoutChan_lost (s : State) (ch : Nat) (h : (s.chan n).lost = true) : ((s.withoutChan ch).chan n).lost = true := by
  unfold State.withoutChan
  split
  · by_cases hn : n = ch
    · subst hn
      rw [State.chan_setChan_self]
    · rw [State.chan_setChan_ne _ _ hn]
      exact h
  · exact h

theorem State.bootFuses_frame (s : State) : ({ s.bootFuses with parked := s.parked, hbm := s.hbm, llc := s.llc } : State) = s.withKeys := by
  rw [State.bootFuses_eq]
  have h1 := s.withKeys.withRows_frame
  generalize s.withKeys.withRows = t at h1 ⊢
  have h2 := t.withChans_frame
  generalize t.withChans = u at h2 ⊢
  have h3 := u.withWays_frame
  generalize u.withWays = v at h3 ⊢
  have h4 := (congrArg (fun w : State => { w with parked := s.parked, hbm := s.hbm, llc := s.llc }) h3).trans
    (congrArg (fun w : State => { w with parked := s.parked, hbm := s.hbm, llc := s.llc }) h2)
  exact h4.trans (congrArg (fun w : State => { w with parked := s.parked, hbm := s.hbm, llc := s.llc }) h1)

theorem State.bootFuses_lost (h : n ∈ s.listedBad 5) (h256 : n < 256) : (s.bootFuses.chan n).lost = true := by
  have hfail := congrArg State.failures s.withKeys.withRows_frame
  have hfuse := congrArg State.fuses s.withKeys.withRows_frame
  have hlisted : n ∈ s.withKeys.withRows.listedBad 5 := by
    have hsame := State.listedBad_congr (t := s.withKeys.withRows) (s := s) hfail hfuse 5
    rw [hsame]
    exact h
  have hlost : (s.withKeys.withRows.withChans.chan n).lost = true :=
    State.each_marks (Q := fun t => (t.chan n).lost = true) hlisted (fun t => by
      unfold State.withoutChan
      rw [if_pos h256, State.chan_setChan_self]) (fun t ch ht => t.withoutChan_lost ch ht) _
  have hways := congrArg State.hbm s.withKeys.withRows.withChans.withWays_frame
  rw [State.bootFuses_eq]
  exact (congrArg Hbm.lost (State.chan_congr hways n)).trans hlost

/-! ### Step 5 -/

/-- The halyard tile of a position once it is calibrated. -/
def State.calibrated (s : State) (e : StepEnd) (pos : Nat) : Tile :=
  let x := tget {} s.parked pos
  let listed := ((s.listedBad 2).filter fun i => i / 544 = pos).map (· % 544)
  let kept := if e.full.contains pos then [] else x.tile.wireBad
  { x.tile with wireBad := listed.foldl (fun w i => tset false w i true) kept }

/-- A calibrated halyard takes its width, and raises its source where one of its wires failed. -/
def State.widened (s : State) (e : StepEnd) (pos : Nat) : State :=
  let t := s.calibrated e pos
  let half := !(t.dirFull 0 && t.dirFull 1)
  let s : State := { s with parked := tset {} s.parked pos { tget {} s.parked pos with tile := { t with half := half } } }
  if half && e.bad.any (fun i => i / 544 = pos) then s.raiseSrc 14 else s

theorem State.calibrate_eq (s : State) (e : StepEnd) (pos : Nat) : s.calibrate e pos =
    if (s.calibrated e pos).dirUp 0 && (s.calibrated e pos).dirUp 1 then s.widened e pos
    else ((s.widened e pos).setYard (pos / 18) { (s.widened e pos).yard (pos / 18) with
      bad := ((s.widened e pos).yard (pos / 18)).bad ||| BitVec.twoPow 18 (pos % 18) }).recordFail 0 pos := rfl

theorem State.widened_eq (s : State) (e : StepEnd) (pos : Nat) : ∃ p v, s.widened e pos = { s with parked := p, evt := v } := by
  unfold State.widened
  dsimp only
  split
  · obtain ⟨v, hv⟩ := ({ s with parked := tset {} s.parked pos { tget {} s.parked pos with tile := { s.calibrated e pos with
      half := !((s.calibrated e pos).dirFull 0 && (s.calibrated e pos).dirFull 1) } } } : State).raiseSrc_eq 14
    exact ⟨_, v, hv⟩
  · exact ⟨_, _, rfl⟩

/-- The calibration of a halyard changes its tile, its yard and the record, in which no more than positions enter. -/
theorem State.calibrate_after (s : State) (e : StepEnd) (pos : Nat) :
    ({ s.calibrate e pos with parked := s.parked, evt := s.evt, yards := s.yards, failures := s.failures } : State) = s ∧
    (∀ x ∈ s.failures, x ∈ (s.calibrate e pos).failures) ∧ ∀ x ∈ (s.calibrate e pos).failures, x ∈ s.failures ∨ x.1 = 0 := by
  rw [State.calibrate_eq]
  obtain ⟨p, v, hw⟩ := s.widened_eq e pos
  rw [hw]
  split
  · exact ⟨rfl, fun x hx => hx, fun x hx => .inl hx⟩
  · generalize hk : ({ ({ s with parked := p, evt := v } : State).yard (pos / 18) with
      bad := (({ s with parked := p, evt := v } : State).yard (pos / 18)).bad ||| BitVec.twoPow 18 (pos % 18) } : Yard) = k
    obtain ⟨f, v', hr⟩ := (({ s with parked := p, evt := v } : State).setYard (pos / 18) k).recordFail_eq 0 pos
    refine ⟨by rw [hr]; rfl, fun x hx => State.recordFail_mono hx, fun x hx => ?_⟩
    exact (State.mem_recordFail hx).imp_right fun h => congrArg Prod.fst h

/-- The positions whose halyards step 5 calibrates. -/
def State.touchedBy (s : State) (e : StepEnd) : List Nat :=
  ((e.full ++ e.bad.map (· / 544) ++ (s.listedBad 2).map (· / 544)).filter (· < 4608)).dedup

/-- The failed wires that training finds enter the record. -/
def State.wiresRecorded (s : State) (e : StepEnd) : State :=
  (s.retested 2 544 e).each (e.bad.filter (· < 544 * 4608)) fun s i => s.recordFail 2 i

theorem State.bootHalyards_eq (s : State) (e : StepEnd) : s.bootHalyards e =
    (s.wiresRecorded e).each ((s.wiresRecorded e).touchedBy e) fun s pos => s.calibrate e pos := rfl

theorem State.wiresRecorded_frame (s : State) (e : StepEnd) :
    ({ s.wiresRecorded e with evt := s.evt, failures := s.failures } : State) = s := by
  refine State.each_keeps _ (fun t => ({ t with evt := s.evt, failures := s.failures } : State) = s) _ _ rfl fun t i h => ?_
  obtain ⟨f, v, hr⟩ := t.recordFail_eq 2 i
  rw [hr]
  exact h

theorem State.wiresRecorded_mem (hroom : s.failures.length + e.bad.length ≤ 1024) (hi : i ∈ e.bad) (hlt : i < 2506752) :
    (2, i) ∈ (s.wiresRecorded e).failures := by
  have hretest : (s.retested 2 544 e).failures.length ≤ s.failures.length := List.length_filter_le _ _
  have hbad : (e.bad.filter (· < 544 * 4608)).length ≤ e.bad.length := List.length_filter_le _ _
  exact State.each_recordFail 2 _ _ (by omega) (List.mem_filter.2 ⟨hi, decide_eq_true hlt⟩)

theorem State.wiresRecorded_passed (hi : i ∈ e.passed) (hfull : i / 544 ∈ e.full) (hfuse : i ∉ s.fusedBad 2) (hbad : i ∉ e.bad) :
    (2, i) ∉ (s.wiresRecorded e).failures := by
  have hretest : (2, i) ∉ (s.retested 2 544 e).failures := by
    intro hmem
    have hkeep := (List.mem_filter.1 hmem).2
    rw [Bool.not_eq_true'] at hkeep
    simp [hi, hfull, hfuse] at hkeep
  have hgo : ∀ (xs : List Nat), i ∉ xs → ∀ t : State, (2, i) ∉ t.failures →
      (2, i) ∉ (t.each xs fun s i => s.recordFail 2 i).failures := by
    intro xs
    induction xs with
    | nil => exact fun _ _ h => h
    | cons x xs ih =>
      intro hx t ht
      refine ih (fun h => hx (List.mem_cons_of_mem x h)) (t.recordFail 2 x) fun hmem => ?_
      obtain h | h := State.mem_recordFail hmem
      · exact ht h
      · exact hx (by rw [(Prod.mk.inj h).2]; exact List.mem_cons_self)
  exact hgo _ (fun h => hbad (List.mem_filter.1 h).1) _ hretest

theorem State.bootHalyards_after (s : State) (e : StepEnd) :
    ({ s.bootHalyards e with parked := s.parked, evt := s.evt, yards := s.yards, failures := s.failures } : State) = s ∧
    (∀ x ∈ (s.wiresRecorded e).failures, x ∈ (s.bootHalyards e).failures) ∧
    ∀ x ∈ (s.bootHalyards e).failures, x ∈ (s.wiresRecorded e).failures ∨ x.1 = 0 := by
  rw [State.bootHalyards_eq]
  have hframe := s.wiresRecorded_frame e
  generalize s.wiresRecorded e = w at hframe ⊢
  refine State.each_keeps w (fun t =>
    ({ t with parked := s.parked, evt := s.evt, yards := s.yards, failures := s.failures } : State) = s ∧
    (∀ x ∈ w.failures, x ∈ t.failures) ∧ ∀ x ∈ t.failures, x ∈ w.failures ∨ x.1 = 0) _ _ ⟨?_, fun x h => h, fun x h => .inl h⟩
    fun t pos ⟨h1, h2, h3⟩ => ?_
  · exact congrArg (fun u : State => { u with parked := s.parked, evt := s.evt, yards := s.yards, failures := s.failures }) hframe
  · obtain ⟨g1, g2, g3⟩ := t.calibrate_after e pos
    refine ⟨?_, fun x hx => g2 x (h2 x hx), fun x hx => ?_⟩
    · exact (congrArg (fun u : State => { u with parked := s.parked, evt := s.evt, yards := s.yards, failures := s.failures }) g1).trans h1
    · exact (g3 x hx).elim (h3 x) .inr

/-! ### Step 6 -/

/-- The HBM rows a start-up repairs: the first 16 of the record. -/
def State.dueRows (s : State) : List (Nat × Nat) := (s.failures.filter fun x => x.1 = 6).take 16

/-- A channel that fails training is lost. -/
def State.chanFails (s : State) (ch : Nat) : State :=
  (((s.setChan ch { s.chan ch with lost := true }).recordFail 5 ch).bumpGen).raiseSrc 260

theorem State.bootHbm_eq (s : State) (e : StepEnd) : s.bootHbm e =
    ({ s with failures := s.failures.filter fun x => !s.dueRows.contains x } : State).each (e.bad.filter (· < 256)) State.chanFails := rfl

/-- A channel that fails is lost and recorded, and its source is raised. -/
theorem State.chanFails_after (s : State) (ch : Nat) : (s.chanFails ch).mem = s.mem ∧
    (s.chanFails ch).hbm = (s.setChan ch { s.chan ch with lost := true }).hbm ∧
    ∀ x ∈ (s.chanFails ch).failures, x ∈ s.failures ∨ x.1 = 5 := by
  have hrec : ∀ x ∈ ((s.setChan ch { s.chan ch with lost := true }).recordFail 5 ch).failures, x ∈ s.failures ∨ x.1 = 5 :=
    fun x hx => (State.mem_recordFail hx).imp_right fun h => congrArg Prod.fst h
  obtain ⟨f, v', hr⟩ := (s.setChan ch { s.chan ch with lost := true }).recordFail_eq 5 ch
  obtain ⟨v, hv⟩ := (((s.setChan ch { s.chan ch with lost := true }).recordFail 5 ch).bumpGen).raiseSrc_eq 260
  unfold State.chanFails
  rw [hv]
  rw [hr] at hrec ⊢
  exact ⟨rfl, rfl, hrec⟩

theorem State.chanFails_lost (s : State) (ch : Nat) (h : (s.chan n).lost = true) : ((s.chanFails ch).chan n).lost = true := by
  obtain ⟨-, hhbm, -⟩ := s.chanFails_after ch
  rw [State.chan_congr hhbm]
  by_cases hn : n = ch
  · subst hn
    rw [State.chan_setChan_self]
  · rw [State.chan_setChan_ne _ _ hn]
    exact h

theorem State.chanFails_self (s : State) (ch : Nat) : ((s.chanFails ch).chan ch).lost = true := by
  obtain ⟨-, hhbm, -⟩ := s.chanFails_after ch
  rw [State.chan_congr hhbm, State.chan_setChan_self]

theorem State.bootHbm_mem (s : State) (e : StepEnd) : (s.bootHbm e).mem = s.mem := by
  rw [State.bootHbm_eq]
  exact State.each_keeps _ (fun t => t.mem = s.mem) _ _ rfl fun t ch h => (t.chanFails_after ch).1.trans h

theorem State.bootHbm_lost (hn : n ∈ e.bad) (h256 : n < 256) : ((s.bootHbm e).chan n).lost = true := by
  rw [State.bootHbm_eq]
  exact State.each_marks (Q := fun t => (t.chan n).lost = true) (List.mem_filter.2 ⟨hn, decide_eq_true h256⟩)
    (fun t => t.chanFails_self n) (fun t ch h => t.chanFails_lost ch h) _

theorem State.bootHbm_repaired {x : Nat × Nat} (hx : x ∈ s.dueRows) : x ∉ (s.bootHbm e).failures := by
  have hkind : x.1 = 6 := of_decide_eq_true (List.mem_filter.1 (List.mem_of_mem_take hx)).2
  rw [State.bootHbm_eq]
  refine State.each_keeps _ (fun t => x ∉ t.failures) _ _ ?_ fun t ch h hmem => ?_
  · intro hmem
    have hkeep := (List.mem_filter.1 hmem).2
    rw [Bool.not_eq_true', ← Bool.not_eq_true, List.contains_iff_mem] at hkeep
    exact hkeep hx
  · obtain h' | h' := (t.chanFails_after ch).2.2 x hmem
    · exact h h'
    · omega

/-! ### Step 7 -/

theorem State.stayDown_congr (h : t.net = s.net) (st : Nat) : t.stayDown st = s.stayDown st :=
  congrArg (fun w : Net => tget 0 w.out st == BitVec.allOnes 16) h

/-- Presence seen at a port. -/
def State.sees (present : BitVec 6) (s : State) (p : Nat) : State := s.setPort p { s.port p with present := present.getLsbD p }

/-- The stays once they are trained. -/
def State.staysTrained (s : State) (e : StepEnd) : State :=
  ((s.retested 3 544 e).each (e.bad.filter (· < 2176)) fun s i => s.recordFail 3 i).each (List.range 4) fun s st => s.trainStay e st

theorem State.bootStays_eq (s : State) (e : StepEnd) : s.bootStays e = (s.staysTrained e).each (List.range 6) (State.sees e.present) := rfl

theorem State.trainStay_eq (s : State) (e : StepEnd) (st : Nat) : ∃ w v, s.trainStay e st = { s with net := w, evt := v } := by
  unfold State.trainStay
  dsimp only
  split
  · obtain ⟨v, hv⟩ := State.raiseSrc_eq _ _
    exact ⟨_, v, hv⟩
  · exact ⟨_, _, rfl⟩

theorem State.bootStays_boot (s : State) (e : StepEnd) : (s.bootStays e).boot = s.boot := by
  rw [State.bootStays_eq]
  refine State.each_keeps _ (fun t => t.boot = s.boot) _ _ ?_ fun _ _ h => h
  refine State.each_keeps _ (fun t => t.boot = s.boot) _ _ ?_ fun t st h => ?_
  · refine State.each_keeps _ (fun t => t.boot = s.boot) _ _ rfl fun t i h => ?_
    obtain ⟨f, v, hr⟩ := t.recordFail_eq 3 i
    rw [hr]
    exact h
  · obtain ⟨w, v, ht⟩ := t.trainStay_eq e st
    rw [ht]
    exact h

theorem State.bootStays_present (s : State) (e : StepEnd) {p : Nat} (hp : p < 6) :
    ((s.bootStays e).port p).present = e.present.getLsbD p := by
  rw [State.bootStays_eq]
  exact State.each_turn (P := fun _ => True) (Q := fun t => (t.port p).present = e.present.getLsbD p) List.nodup_range (List.mem_range.2 hp)
    (fun _ _ _ _ => trivial) (fun t _ => by unfold State.sees; rw [State.port_setPort_self])
    (fun t i hi ht => by unfold State.sees; rw [State.port_setPort_ne _ _ (Ne.symm hi)]; exact ht) _ trivial

/-- A mast has every stay down. -/
def State.cutOff (s : State) : Prop := ∃ m, m < 4 ∧ ∀ st, st < 4 → m ∈ stayMasts st → s.stayDown st = true

/-- A stack has lost every channel. -/
def State.stackLost (s : State) : Prop := ∃ h, h < 8 ∧ ∀ c, c < 32 → (s.chan (32 * h + c)).lost = true

theorem State.cutOff_iff (s : State) :
    ((List.range 4).any fun m => ((List.range 4).filter fun st => (stayMasts st).contains m).all s.stayDown) = true ↔ s.cutOff := by
  simp only [State.cutOff, List.any_eq_true, List.mem_range, List.all_eq_true, List.mem_filter, List.contains_iff_mem, and_imp]

theorem State.stackLost_iff (s : State) :
    ((List.range 8).any fun h => (List.range 32).all fun c => (s.chan (32 * h + c)).lost) = true ↔ s.stackLost := by
  simp only [State.stackLost, List.any_eq_true, List.mem_range, List.all_eq_true]

theorem State.leftCause_seven (s : State) : (s.cutOff → s.leftCause 7 = 4) ∧ (¬ s.cutOff → s.leftCause 7 = 0) := by
  unfold State.leftCause
  rw [if_neg (by simp)]
  exact ⟨fun h => if_pos (by rw [s.cutOff_iff.2 h]; rfl), fun h => if_neg fun hc => h (s.cutOff_iff.1 (Bool.and_eq_true_iff.1 hc).2)⟩

theorem State.leftCause_six (s : State) : (s.stackLost → s.leftCause 6 = 6) ∧ (¬ s.stackLost → s.leftCause 6 = 0) := by
  unfold State.leftCause
  refine ⟨fun h => if_pos (by rw [s.stackLost_iff.2 h]; rfl), fun h => ?_⟩
  rw [if_neg fun hc => h (s.stackLost_iff.1 (Bool.and_eq_true_iff.1 hc).2), if_neg (by simp)]

/-! ### Step 8 -/

/-- A part that failed a test, or is listed, marks its position bad. -/
def State.marksBad (s : State) (i : Nat) : State :=
  if i < 18 * 256 then s.setYard (i / 18) { s.yard (i / 18) with bad := (s.yard (i / 18)).bad ||| BitVec.twoPow 18 (i % 18) } else s

/-- Memory as step 8 leaves it. -/
def State.cleared (s : State) : State := { s with mem := [], errs := [], gran := [], banks := [] }

/-- Every yard mapped anew, without the parts that failed. -/
def State.remapped (s : State) (failed : List Nat) : State :=
  (s.each (failed ++ s.listedBad 0) State.marksBad).each allYards State.mapYard

theorem State.step8_eq (s : State) (failed : List Nat) : s.step8 failed =
    ((s.remapped failed).each allYards fun s y => s.furlOff y 9).cleared := rfl

theorem State.cleared_yard (s : State) (y : Nat) : s.cleared.yard y = s.yard y := rfl

theorem State.step8_yard (s : State) (failed : List Nat) {y : Nat} (hy : y < 256) :
    (s.step8 failed).yard y = ((s.remapped failed).yard y).atLevel 7 false 9 := by
  rw [State.step8_eq, State.cleared_yard, State.each_furlOff _ 9 hy]

theorem State.step8_memory (s : State) (failed : List Nat) : (s.step8 failed).mem = [] ∧ (s.step8 failed).gran = [] ∧
    (s.step8 failed).errs = [] ∧ (s.step8 failed).banks = [] := ⟨rfl, rfl, rfl, rfl⟩

/-! ### Step 2 -/

theorem State.sheetRuns_after (s : State) : s.sheetRuns.boot = s.boot ∧ s.sheetRuns.sec = s.sec ∧ s.sheetRuns.nest.sheet = .running ∧
    s.sheetRuns.nest.latched = [] := by
  have hgo : ∀ (ns : List Nat) (t : State), ({ ns.foldl (fun s n => s.raiseSrc n) t with evt := t.evt } : State) = t := by
    intro ns
    induction ns with
    | nil => exact fun _ => rfl
    | cons m ms ih =>
      exact fun t => (congrArg (fun u : State => { u with evt := t.evt }) (ih (t.raiseSrc m))).trans (t.raiseSrc_frame m)
  have hframe := hgo s.nest.latched { s with nest := { s.nest with sheet := .running, latched := [] } }
  have hboot := congrArg State.boot hframe
  have hsec := congrArg State.sec hframe
  have hsheet := congrArg (fun t : State => t.nest.sheet) hframe
  have hlatched := congrArg (fun t : State => t.nest.latched) hframe
  exact ⟨hboot, hsec, hsheet, hlatched⟩

end

end Sys2Proof.Machine
end

section
/-! PROOFS. Start-up from power-on or a device reset to READY or FAILED (O53; R501 to R517). -/

namespace Sys2Proof.Machine

-- One theorem at a time, as in the tests: the proofs together take too many threads.
set_option Elab.async false

section
variable {s : State} {e : StepEnd}

/-! ### READY -/

/-- What the values of READY are kept in. -/
def State.bootValues (s : State) : State := { s with
  llc := { s.llc with key := Config.drawnKey s.free }
  free := s.free + 1
  pwr := { s.pwr with cap := if s.pwr.air then 1100 else 3400, floor := if s.pwr.air then 1000 else 2400 }
  sec := s.sec.raiseFuse }

/-- The margin plan and floors of READY, and its sources unmasked. -/
def State.bootPlan (s : State) (ns : List Nat) : State := ((s.marginPlan true allYards).putAllFloors).unmask ns

/-- The register words of READY, and its availability map. -/
def State.bootRegs (s : State) : State :=
  ((s.setReg nestSel 0x8008800380018000).setReg (nestSel + 8) 0x8100800B800A8009).bumpGen

/-- The boot registers of a device that is READY. -/
def State.nowReady (s : State) : State :=
  { s with boot := { s.boot with ph := 5, cause := 0, fast := s.boot.nfull = 0, force := false, saved := true } }

/-- The sources READY unmasks. -/
def bootSources : List Nat := (List.range 2048).filter bootUnmasked

theorem execReady_eq (s : State) : execReady s =
    if s.boot.ph ≠ 1 || s.boot.step ≠ 9 || s.boot.perst || s.boot.paused then .next s
    else .next (s.bootValues.bootPlan bootSources).bootRegs.nowReady := by
  unfold execReady
  unfold State.bootValues State.bootPlan bootSources State.bootRegs
  dsimp only
  generalize ((List.range 2048).filter bootUnmasked) = ns
  rfl

theorem exec_ready (hph : s.boot.ph = 1) (hstep : s.boot.step = 9) (hperst : s.boot.perst = false) (hpaused : s.boot.paused = false) :
    exec .ready s = .next (s.bootValues.bootPlan bootSources).bootRegs.nowReady := by
  refine (execReady_eq s).trans (if_neg ?_)
  simp [hph, hstep, hperst, hpaused]

theorem State.setReg_parts (s : State) (off : Nat) (w : BitVec 64) : (s.setReg off w).mem = s.mem ∧ (s.setReg off w).pwr = s.pwr ∧
    (s.setReg off w).llc = s.llc ∧ (s.setReg off w).evt = s.evt ∧ (s.setReg off w).boot = s.boot := ⟨rfl, rfl, rfl, rfl, rfl⟩

theorem State.nowReady_parts (t : State) : t.bootRegs.nowReady.mem = t.mem ∧ t.bootRegs.nowReady.pwr = t.pwr ∧
    t.bootRegs.nowReady.llc = t.llc ∧ t.bootRegs.nowReady.evt = t.evt ∧ t.bootRegs.nowReady.boot = { t.boot with
      gen := t.boot.gen + 1, ph := 5, cause := 0, fast := t.boot.nfull = 0, force := false, saved := true } := by
  unfold State.bootRegs
  obtain ⟨hmem1, hpwr1, hllc1, hevt1, hboot1⟩ := t.setReg_parts nestSel 0x8008800380018000
  generalize t.setReg nestSel 0x8008800380018000 = u at hmem1 hpwr1 hllc1 hevt1 hboot1 ⊢
  obtain ⟨hmem2, hpwr2, hllc2, hevt2, hboot2⟩ := u.setReg_parts (nestSel + 8) 0x8100800B800A8009
  generalize u.setReg (nestSel + 8) 0x8100800B800A8009 = v at hmem2 hpwr2 hllc2 hevt2 hboot2 ⊢
  exact ⟨hmem2.trans hmem1, hpwr2.trans hpwr1, hllc2.trans hllc1, hevt2.trans hevt1, congrArg (fun b : Boot => { b with
    gen := b.gen + 1, ph := 5, cause := 0, fast := b.nfull = 0, force := false, saved := true }) (hboot2.trans hboot1)⟩

/-- What the plan of READY leaves, and the sources it unmasks. -/
theorem State.bootPlan_after (s : State) (ns : List Nat) : (s.bootPlan ns).boot = s.boot ∧ (s.bootPlan ns).mem = s.mem ∧
    (s.bootPlan ns).llc = s.llc ∧ (s.bootPlan ns).pwr.cap = s.pwr.cap ∧ (s.bootPlan ns).pwr.floor = s.pwr.floor ∧
    ∀ m, m < 2048 → (s.bootPlan ns).evt.mask.getLsbD m = (s.evt.mask.getLsbD m && !decide (m ∈ ns)) := by
  have hplan := s.levels_marginPlan true allYards
  unfold State.bootPlan
  generalize s.marginPlan true allYards = t at hplan ⊢
  have hfloor := t.putAllFloors_frame
  generalize t.putAllFloors = u at hfloor ⊢
  obtain ⟨hframe, -, hmask⟩ := State.each_unmaskOne ns u
  rw [State.unmask_eq]
  have hmask' : u.evt.mask = s.evt.mask := by
    have h := congrArg (fun v : State => v.evt.mask) hfloor
    exact h.trans hplan.mask
  rw [← hmask']
  generalize u.each ns State.unmaskOne = v at hframe hmask ⊢
  have h := hplan.frame
  have hboot := congrArg State.boot hframe
  have hboot' := congrArg State.boot hfloor
  have hboot'' := congrArg State.boot h
  have hmem := congrArg State.mem hframe
  have hmem' := congrArg State.mem hfloor
  have hmem'' := congrArg State.mem h
  have hllc := congrArg State.llc hframe
  have hllc' := congrArg State.llc hfloor
  have hllc'' := congrArg State.llc h
  have hpwr := congrArg State.pwr hframe
  have hpwr' := congrArg State.pwr hfloor
  have hcap := congrArg (fun x : State => x.pwr.cap) h
  have hfl := congrArg (fun x : State => x.pwr.floor) h
  have hall : v.pwr = t.pwr := hpwr.trans hpwr'
  rw [hall]
  exact ⟨hboot.trans (hboot'.trans hboot''), hmem.trans (hmem'.trans hmem''), hllc.trans (hllc'.trans hllc''), hcap, hfl, hmask⟩

theorem bootUnmasked_zero : 0 ∈ bootSources :=
  List.mem_filter.2 ⟨List.mem_range.2 (by omega), by decide⟩

theorem bootUnmasked_rigs {n : Nat} (h1 : 128 ≤ n) (h2 : n ≤ 191) : n ∉ bootSources := by
  intro h
  have hb := (List.mem_filter.1 h).2
  simp [bootUnmasked, h1, h2] at hb

/-! ### What a step finds -/

theorem State.stepCause_own (hc : e.cause ≠ 0) (rails : Bool) : s.stepCause e rails = e.cause := if_pos hc

theorem State.stepCause_rails (hc : e.cause = 0) : s.stepCause e false = 3 :=
  (if_neg (not_not_intro hc)).trans (if_pos rfl)

theorem State.stepCause_up (hc : e.cause = 0) : s.stepCause e true =
    if s.boot.step = 2 && !s.sec.slotOk false && !s.sec.slotOk true then 1 else if s.boot.step = 3 && s.fusesBad then 2 else 0 :=
  (if_neg (not_not_intro hc)).trans (if_neg (by decide))

/-- A step that finds nothing wrong. -/
theorem State.stepCause_good (hc : e.cause = 0) (h2 : s.boot.step = 2 → s.sec.slotOk false = true ∨ s.sec.slotOk true = true)
    (h3 : s.boot.step = 3 → s.fusesBad = false) : s.stepCause e true = 0 := by
  rw [State.stepCause_up hc, if_neg, if_neg]
  · intro h
    obtain ⟨hstep, hbad⟩ := Bool.and_eq_true_iff.1 h
    rw [h3 (of_decide_eq_true hstep)] at hbad
    cases hbad
  · intro h
    obtain ⟨h', hb⟩ := Bool.and_eq_true_iff.1 h
    obtain ⟨hstep, ha⟩ := Bool.and_eq_true_iff.1 h'
    rw [Bool.not_eq_true'] at ha hb
    obtain hok | hok := h2 (of_decide_eq_true hstep)
    · exact absurd (hok.symm.trans ha) (by decide)
    · exact absurd (hok.symm.trans hb) (by decide)

/-- The state in which a step without rails ends. -/
theorem State.stepping_eq (h1 : s.boot.step ≠ 1) (h4 : s.boot.step ≠ 4) : s.stepping e =
    { s with boot := { s.boot with stime := s.boot.stime + e.ms, nfull := s.boot.nfull + e.full.length } } := by
  unfold State.stepping
  rw [(s.railStep_none e.volts h1 h4).1]

/-- A step without rails of its own that ends well goes on to the next. -/
theorem State.Stepping.next (h : s.Stepping e) (hc : e.cause = 0) (h1 : s.boot.step ≠ 1) (h4 : s.boot.step ≠ 4)
    (h2 : s.boot.step = 2 → s.sec.slotOk false = true ∨ s.sec.slotOk true = true) (h3 : s.boot.step = 3 → s.fusesBad = false) {v : State}
    (hv : ({ s with boot := { s.boot with stime := s.boot.stime + e.ms, nfull := s.boot.nfull + e.full.length } } : State).endStep e = v) :
    (∀ c, v.leftCause s.boot.step = c → c ≠ 0 → exec (.startupStepEnd e) s = .next (v.startFailed c)) ∧
    (v.leftCause s.boot.step = 0 →
      exec (.startupStepEnd e) s = .next { v with boot := { v.boot with step := min 9 (s.boot.step + 1) } }) := by
  rw [← State.stepping_eq h1 h4] at hv
  have hcause : (s.stepping e).stepCause e (s.railStep s.boot.step e.volts).2 = 0 := by
    rw [(s.railStep_none e.volts h1 h4).2]
    exact State.stepCause_good hc h2 h3
  exact ⟨fun c hl h0 => h.leaves_failed hcause hv hl h0, fun hl => h.ends hcause hv hl⟩

/-- The state whose step ends: its time and the units trained in full are counted. -/
def State.timed (s : State) (e : StepEnd) : State :=
  { s with boot := { s.boot with stime := s.boot.stime + e.ms, nfull := s.boot.nfull + e.full.length } }

/-- The end of a step, by the state it leaves: FAILED with the cause that gives, or the next step. -/
theorem State.Stepping.outcome (h : s.Stepping e) (hc : e.cause = 0) {n : Nat} (hn : s.boot.step = n) (h1 : n ≠ 1) (h4 : n ≠ 4)
    (h2 : n = 2 → s.sec.slotOk false = true ∨ s.sec.slotOk true = true) (h3 : n = 3 → s.fusesBad = false) {v : State}
    (hv : (s.timed e).endStep e = v) :
    (∀ c, v.leftCause n = c → c ≠ 0 → exec (.startupStepEnd e) s = .next (v.startFailed c)) ∧
    (v.leftCause n = 0 → exec (.startupStepEnd e) s = .next { v with boot := { v.boot with step := min 9 (n + 1) } }) := by
  subst hn
  exact h.next hc h1 h4 h2 h3 hv

/-- What the end of step n leaves. -/
def State.endAt (s : State) (n : Nat) (e : StepEnd) : State :=
  match n with
  | 2 => ({ s with sec := { s.sec with run := s.sec.boots } } : State).sheetRuns
  | 3 => s.bootFuses
  | 5 => s.bootHalyards e
  | 6 => s.bootHbm e
  | 7 => s.bootStays e
  | 8 => s.step8 e.failed
  | _ => s

theorem State.timed_endStep {n : Nat} (hn : s.boot.step = n) {v : State} (hv : (s.timed e).endAt n e = v) : (s.timed e).endStep e = v := by
  subst hn hv
  rfl

end

/-! ### The clauses of O53 -/

section
variable {s : State} {e : StepEnd}

theorem powerOn_begins (air : Bool) (ha : s.pwr.feedA = false) (hb : s.pwr.feedB = false) :
    exec (.powerOn air) s = .next (s.powerOn false air) :=
  congrArg Host.Outcome.next (if_neg (by rw [ha, hb]; decide))

theorem State.Stepping.step2 (h : s.Stepping e) (hc : e.cause = 0) (hn : s.boot.step = 2)
    (hok : s.sec.slotOk false = true ∨ s.sec.slotOk true = true) : ∃ t, exec (.startupStepEnd e) s = .next t ∧
      t.boot = { (s.timed e).boot with step := 3 } ∧ t.nest.sheet = .running ∧ t.nest.latched = [] ∧ t.sec.run = s.sec.boots := by
  obtain ⟨hboot, hsec, hsheet, hlatched⟩ :=
    State.sheetRuns_after { s.timed e with sec := { s.sec with run := s.sec.boots } }
  have hnext := (h.outcome hc hn (by decide) (by decide) (fun _ => hok) (fun h3 => absurd h3 (by decide)) (State.timed_endStep (v := ({ s.timed e with sec := { s.sec with run := s.sec.boots } } : State).sheetRuns) hn rfl)).2
    (State.leftCause_other _ (by decide) (by decide))
  refine ⟨_, hnext, ?_, hsheet, hlatched, congrArg Sec.run hsec⟩
  exact congrArg (fun b : Boot => { b with step := 3 }) hboot

theorem State.Stepping.step3 (h : s.Stepping e) (hc : e.cause = 0) (hn : s.boot.step = 3) (hbad : s.fusesBad = false) :
    ∃ t, exec (.startupStepEnd e) s = .next t ∧ t.boot = { (s.timed e).boot with step := 4 } ∧
      (∀ x, majority (s.fuses.map (·.secret)) = some x → t.sec.rsa = ⟨(Config.identityPair 0 x).1, (Config.identityPair 0 x).2⟩ ∧
        t.sec.slh = ⟨(Config.identityPair 1 x).1, (Config.identityPair 1 x).2⟩) ∧
      ∀ ch ∈ s.listedBad 5, ch < 256 → (t.chan ch).lost = true := by
  have hframe := (s.timed e).bootFuses_frame
  have hlost (ch : Nat) (hch : ch ∈ s.listedBad 5) (h256 : ch < 256) := State.bootFuses_lost (s := s.timed e) hch h256
  have hnext := (h.outcome hc hn (by decide) (by decide) (fun h2 => absurd h2 (by decide)) (fun _ => hbad)
    (State.timed_endStep (v := (s.timed e).bootFuses) hn rfl)).2 (State.leftCause_other _ (by decide) (by decide))
  generalize (s.timed e).bootFuses = v at hframe hlost hnext
  have hboot := congrArg State.boot hframe
  have hrsa := congrArg (fun t : State => t.sec.rsa) hframe
  have hslh := congrArg (fun t : State => t.sec.slh) hframe
  refine ⟨_, hnext, congrArg (fun b : Boot => { b with step := 4 }) hboot, fun x hx => ?_, hlost⟩
  have hsecret : (majority ((s.timed e).fuses.map (·.secret))).getD 0 = x := by
    show (majority (s.fuses.map (·.secret))).getD 0 = x
    rw [hx]
    rfl
  exact ⟨hrsa.trans (congrArg (fun x => (⟨(Config.identityPair 0 x).1, (Config.identityPair 0 x).2⟩ : KeyPair)) hsecret),
    hslh.trans (congrArg (fun x => (⟨(Config.identityPair 1 x).1, (Config.identityPair 1 x).2⟩ : KeyPair)) hsecret)⟩

theorem State.Stepping.step5 (h : s.Stepping e) (hc : e.cause = 0) (hn : s.boot.step = 5) (hroom : s.failures.length + e.bad.length ≤ 1024) :
    ∃ t, exec (.startupStepEnd e) s = .next t ∧ t.boot = { (s.timed e).boot with step := 6 } ∧ t.mem = s.mem ∧
      (∀ i ∈ e.bad, i < 2506752 → (2, i) ∈ t.failures) ∧
      ∀ i ∈ e.passed, i / 544 ∈ e.full → i ∉ s.fusedBad 2 → i ∉ e.bad → (2, i) ∉ t.failures := by
  obtain ⟨hframe, hmono, hnew⟩ := (s.timed e).bootHalyards_after e
  have hboot := congrArg State.boot hframe
  have hmem := congrArg State.mem hframe
  have hnext := (h.outcome hc hn (by decide) (by decide) (fun h2 => absurd h2 (by decide)) (fun h3 => absurd h3 (by decide))
    (State.timed_endStep (v := (s.timed e).bootHalyards e) hn rfl)).2 (State.leftCause_other _ (by decide) (by decide))
  refine ⟨_, hnext, congrArg (fun b : Boot => { b with step := 6 }) hboot, hmem, fun i hi hlt => ?_, fun i hi hfull hfuse hbad hrec => ?_⟩
  · exact hmono _ (State.wiresRecorded_mem (s := s.timed e) hroom hi hlt)
  · obtain h' | h' := hnew _ hrec
    · exact State.wiresRecorded_passed (s := s.timed e) hi hfull hfuse hbad h'
    · exact absurd h' (by simp)

theorem State.Stepping.step6 (h : s.Stepping e) (hc : e.cause = 0) (hn : s.boot.step = 6) : ∃ t, exec (.startupStepEnd e) s = .next t ∧
    t.mem = s.mem ∧ (∀ ch ∈ e.bad, ch < 256 → (t.chan ch).lost = true) ∧ (∀ x ∈ s.dueRows, x ∉ t.failures) ∧
    (t.stackLost → t.boot.ph = 6 ∧ t.boot.cause = 6) ∧ (¬ t.stackLost → t.boot.ph = 1 ∧ t.boot.step = 7) := by
  have hmem := (s.timed e).bootHbm_mem e
  have hlost (ch : Nat) (hch : ch ∈ e.bad) (h256 : ch < 256) := State.bootHbm_lost (s := s.timed e) hch h256
  have hrows (x : Nat × Nat) (hx : x ∈ s.dueRows) := State.bootHbm_repaired (s := s.timed e) (e := e) hx
  have hkept := ((State.BootKept.refl (s.timed e)).bootHbm e).eq
  have hnext := h.outcome hc hn (by decide) (by decide) (fun h2 => absurd h2 (by decide)) (fun h3 => absurd h3 (by decide))
    (State.timed_endStep (v := (s.timed e).bootHbm e) hn rfl)
  generalize (s.timed e).bootHbm e = v at hmem hlost hrows hkept hnext
  by_cases hstack : v.stackLost
  · exact ⟨_, hnext.1 6 ((State.leftCause_six _).1 hstack) (by decide), hmem, hlost, hrows, fun _ => ⟨rfl, rfl⟩, fun hno => absurd hstack hno⟩
  · refine ⟨_, hnext.2 ((State.leftCause_six _).2 hstack), hmem, hlost, hrows, fun hyes => absurd hyes hstack, fun _ => ⟨?_, rfl⟩⟩
    exact (congrArg Boot.ph hkept).trans h.ph

theorem State.Stepping.step7 (h : s.Stepping e) (hc : e.cause = 0) (hn : s.boot.step = 7) : ∃ t, exec (.startupStepEnd e) s = .next t ∧
    (∀ p, p < 6 → (t.port p).present = e.present.getLsbD p) ∧
    (t.cutOff → t.boot = { (s.timed e).boot with ph := 6, cause := 4 }) ∧ (¬ t.cutOff → t.boot = { (s.timed e).boot with step := 8 }) := by
  have hboot := (s.timed e).bootStays_boot e
  have hport (p : Nat) (hp : p < 6) := (s.timed e).bootStays_present e hp
  have hnext := h.outcome hc hn (by decide) (by decide) (fun h2 => absurd h2 (by decide)) (fun h3 => absurd h3 (by decide))
    (State.timed_endStep (v := (s.timed e).bootStays e) hn rfl)
  generalize (s.timed e).bootStays e = v at hboot hport hnext
  by_cases hcut : v.cutOff
  · exact ⟨_, hnext.1 4 ((State.leftCause_seven _).1 hcut) (by decide), hport,
      fun _ => congrArg (fun b : Boot => { b with ph := 6, cause := 4 }) hboot, fun hno => absurd hcut hno⟩
  · exact ⟨_, hnext.2 ((State.leftCause_seven _).2 hcut), hport, fun hyes => absurd hyes hcut,
      fun _ => congrArg (fun b : Boot => { b with step := 8 }) hboot⟩

theorem State.step8_furled (s : State) (failed : List Nat) {y : Nat} (hy : y < 256) :
    ((s.step8 failed).yard y).lvl = 7 ∧ ((s.step8 failed).yard y).held = false :=
  ⟨congrArg Yard.lvl (s.step8_yard failed hy), congrArg Yard.held (s.step8_yard failed hy)⟩

theorem State.furled_withBoot {v : State} (b : Boot) (h : ∀ y, y < 256 → (v.yard y).lvl = 7 ∧ (v.yard y).held = false) :
    ∀ y, y < 256 → (({ v with boot := b } : State).yard y).lvl = 7 ∧ (({ v with boot := b } : State).yard y).held = false := h

theorem State.Stepping.step8 (h : s.Stepping e) (hc : e.cause = 0) (hn : s.boot.step = 8) : ∃ t, exec (.startupStepEnd e) s = .next t ∧
    t.boot.step = 9 ∧ t.mem = [] ∧ t.gran = [] ∧ t.errs = [] ∧ t.banks = [] ∧ ∀ y, y < 256 → (t.yard y).lvl = 7 ∧ (t.yard y).held = false := by
  have hyard (y : Nat) (hy : y < 256) := (s.timed e).step8_furled e.failed hy
  obtain ⟨hmem, hgran, herrs, hbanks⟩ := (s.timed e).step8_memory e.failed
  have hnext := (h.outcome hc hn (by decide) (by decide) (fun h2 => absurd h2 (by decide)) (fun h3 => absurd h3 (by decide))
    (State.timed_endStep (v := (s.timed e).step8 e.failed) hn rfl)).2 (State.leftCause_other _ (by decide) (by decide))
  exact ⟨_, hnext, rfl, hmem, hgran, herrs, hbanks, State.furled_withBoot _ hyard⟩

end

end Sys2Proof.Machine

open Sys2Proof.Machine in
/-- Settles O53: each step's end by what `State.endStep` leaves for it, and READY by the frames of its plan and floors. -/
theorem Sys2Proof.Machine.startUpReachesReady : Obligations.StartUpReachesReady := by
  unfold Obligations.StartUpReachesReady
  intro s b
  refine ⟨fun air => ⟨fun hfeed => ?_, fun ha hb => ?_⟩, fun hph => ?_, fun hph => ?_, fun e hskip => ?_, fun e hph hperst hpaused htime hfull => ?_,
    fun on => rfl, fun hskip => ?_, fun hph hstep hperst hpaused => ?_, rfl, rfl, fun cxl => ?_⟩
  · exact congrArg Host.Outcome.next (if_pos (by rw [Bool.or_eq_true]; exact hfeed))
  · obtain ⟨hfail, hhost, hsec⟩ := s.volatileReset_kept false
    exact ⟨_, powerOn_begins air ha hb, rfl, rfl, rfl, rfl, rfl, rfl, rfl, rfl, rfl, hfail, hhost, hsec⟩
  · exact congrArg Host.Outcome.next (if_pos hph)
  · obtain ⟨hfail, hhost, hsec⟩ := s.volatileReset_kept true
    refine ⟨_, congrArg Host.Outcome.next (if_neg hph), rfl, ?_, rfl, rfl, rfl, rfl, rfl, rfl, rfl, rfl, hfail, hhost, hsec,
      fun c => ⟨rfl, rfl, rfl⟩⟩
    exact if_congr (by rw [Bool.and_eq_true, decide_eq_true_eq, decide_eq_true_eq]) rfl rfl
  · refine if_pos ?_
    obtain h | h | ⟨h, h'⟩ := hskip
    · simp [show s.boot.ph ≠ 1 from h]
    · simp [show s.boot.perst = true from h]
    · simp [show s.boot.paused = true from h]
      exact .inr h'
  · have h : s.Stepping e := ⟨hph, hperst, hpaused, htime, hfull⟩
    intro now up failed
    refine ⟨fun hc => ?_, fun hc hup => ?_, fun hc hn ha hb => ?_, fun hc hn hbad => ?_, fun hc hup hn => ?_, fun hc hn => State.Stepping.step2 h hc hn,
      fun hc hn => State.Stepping.step3 h hc hn, fun hc hn => State.Stepping.step5 h hc hn, fun hc hn => ?_,
      fun hc hn => ?_, fun hc hn => State.Stepping.step8 h hc hn⟩
    · exact h.fails (State.stepCause_own hc _) hc
    · refine h.fails ?_ (by decide)
      rw [show (s.railStep s.boot.step e.volts).2 = false from hup]
      exact State.stepCause_rails hc
    · refine h.fails ?_ (by decide)
      rw [(s.railStep_none e.volts (by rw [show s.boot.step = 2 from hn]; decide) (by rw [show s.boot.step = 2 from hn]; decide)).2,
        State.stepCause_up hc]
      refine if_pos ?_
      show (decide (s.boot.step = 2) && !s.sec.slotOk false && !s.sec.slotOk true) = true
      rw [ha, hb, show s.boot.step = 2 from hn]
      rfl
    · refine h.fails ?_ (by decide)
      rw [(s.railStep_none e.volts (by rw [show s.boot.step = 3 from hn]; decide) (by rw [show s.boot.step = 3 from hn]; decide)).2,
        State.stepCause_up hc]
      show (if decide (s.boot.step = 2) && !s.sec.slotOk false && !s.sec.slotOk true then 1
        else if decide (s.boot.step = 3) && s.fusesBad then 2 else 0) = (2 : BitVec 8)
      rw [show s.boot.step = 3 from hn, hbad]
      rfl
    · have hne (k : Nat) (hk : k ∈ [2, 3, 5, 6, 7, 8]) : s.boot.step ≠ k := hn k hk
      have hcause : (s.stepping e).stepCause e (s.railStep s.boot.step e.volts).2 = 0 := by
        rw [show (s.railStep s.boot.step e.volts).2 = true from hup]
        exact State.stepCause_good hc (fun h2 => absurd h2 (hne 2 (by decide))) (fun h3 => absurd h3 (hne 3 (by decide)))
      have hend : (s.stepping e).endStep e = s.stepping e := by
        unfold State.endStep
        split
        · exact absurd ‹_› (hne 2 (by decide))
        · exact absurd ‹_› (hne 3 (by decide))
        · exact absurd ‹_› (hne 5 (by decide))
        · exact absurd ‹_› (hne 6 (by decide))
        · exact absurd ‹_› (hne 7 (by decide))
        · exact absurd ‹_› (hne 8 (by decide))
        · rfl
      exact h.ends hcause hend (State.leftCause_other _ (hne 6 (by decide)) (hne 7 (by decide)))
    · obtain ⟨t, hex, hmem, hlost, hrows, hyes, hno⟩ := State.Stepping.step6 h hc hn
      exact ⟨t, hex, hmem, hlost, hrows, hyes, fun hall => hno fun ⟨k, hk, hstack⟩ => hall k hk hstack⟩
    · obtain ⟨t, hex, hport, hyes, hno⟩ := State.Stepping.step7 h hc hn
      exact ⟨t, hex, hport, hyes, fun hall => hno fun ⟨m, hm, halone⟩ => hall m hm halone⟩
  · refine (execReady_eq s).trans (if_pos ?_)
    obtain h | h | h | h := hskip
    · simp [show s.boot.ph ≠ 1 from h]
    · simp [show s.boot.step ≠ 9 from h]
    · simp [show s.boot.perst = true from h]
    · simp [show s.boot.paused = true from h]
  · obtain ⟨hboot, hmem, hllc, hcap, hfloor, hmask⟩ := s.bootValues.bootPlan_after bootSources
    have hex := exec_ready hph hstep hperst hpaused
    obtain ⟨h1, h2, h3, h4, h5⟩ := (s.bootValues.bootPlan bootSources).nowReady_parts
    generalize s.bootValues.bootPlan bootSources = t at hex hboot hmem hllc hcap hfloor hmask h1 h2 h3 h4 h5
    generalize t.bootRegs.nowReady = u at hex h1 h2 h3 h4 h5
    rw [hboot] at h5
    refine ⟨u, hex, congrArg Boot.ph h5, congrArg Boot.cause h5, congrArg Boot.force h5, congrArg Boot.fast h5, congrArg Boot.gen h5,
      h1.trans hmem, (congrArg Pwr.cap h2).trans hcap, (congrArg Pwr.floor h2).trans hfloor, congrArg Llc.key (h3.trans hllc), ?_,
      fun n hn1 hn2 => ?_⟩
    · have h0 := hmask 0 (by decide)
      rw [decide_eq_true bootUnmasked_zero, Bool.not_true, Bool.and_false] at h0
      exact (congrArg (fun e : Evt => e.mask.getLsbD 0) h4).trans h0
    · have hn := hmask n (by omega)
      rw [decide_eq_false (bootUnmasked_rigs hn1 hn2), Bool.not_false, Bool.and_true] at hn
      exact (congrArg (fun e : Evt => e.mask.getLsbD n) h4).trans hn
  · refine congrArg Host.Outcome.next (if_congr ?_ rfl rfl)
    rw [Bool.or_eq_true, Bool.and_eq_true, decide_eq_true_eq, decide_eq_true_eq, decide_eq_true_eq]
end

section
/-! PROOFS. Energy, feeds, converters, regulators and paths (R420 to R440): what each changes. -/

namespace Sys2Proof.Machine

-- One theorem at a time, as in the tests: the proofs together take too many threads.
set_option Elab.async false

section
variable {s t u : State} {n x y : Nat}

/-! ### Energy -/

/-- The counter of a rig and its remainder, with a part of a count added. -/
def State.energized (s : State) (r : Nat) (q : Rat) : State :=
  { s with energyRig := (addPart s.energyRig s.pwr.attr r q).1, pwr := { s.pwr with attr := (addPart s.energyRig s.pwr.attr r q).2 } }

/-- A bound rig that runs no command takes its energy to its own counter. -/
theorem State.addEnergy_idle {r : Nat} (h : (s.rig r).running = none) (q : Rat) : s.addEnergy r q = s.energized r q := by
  have hrun : ((s.energized r q).rig r).running = none := h
  unfold State.addEnergy
  show (match ((s.energized r q).rig r).running with | none => s.energized r q | some x => _) = _
  rw [hrun]

/-- A part of a count and what is left of it. -/
def State.taking (s : State) (r : Nat) (q : Rat) : Rat := tget (0 : Rat) s.pwr.attr r + q

theorem State.energized_self (s : State) (r : Nat) (q : Rat) :
    tget 0 (s.energized r q).energyRig r = tget 0 s.energyRig r + BitVec.ofNat 64 (s.taking r q).floor.toNat ∧
    tget 0 (s.energized r q).pwr.attr r = s.taking r q - ((s.taking r q).floor : Rat) :=
  ⟨tget_tset_self _ _ _ _, tget_tset_self _ _ _ _⟩

theorem State.energized_other (s : State) {r i : Nat} (h : i ≠ r) (q : Rat) :
    tget 0 (s.energized r q).energyRig i = tget 0 s.energyRig i ∧ tget 0 (s.energized r q).pwr.attr i = tget 0 s.pwr.attr i :=
  ⟨tget_tset_ne _ _ _ h, tget_tset_ne _ _ _ h⟩

/-- The part of an entry of a shared count. -/
def State.sharePart (total uj : Nat) (s : State) (e : Option Nat × Nat) : State :=
  match e.1 with
  | some r => if (s.rig r).st = 0 then s else s.addEnergy r ((uj * e.2 : Nat) / (total : Rat))
  | none => s

theorem State.share_eq (uj : Nat) {act : List (Option Nat × Nat)} {total : Nat} (ht : (act.map (·.2)).foldl (· + ·) 0 = total) (h0 : total ≠ 0) :
    s.share uj act = act.foldl (State.sharePart total uj) s := by
  subst ht
  exact if_neg h0

theorem State.sharePart_rig {r : Nat} (total uj k : Nat) (hst : (s.rig r).st ≠ 0) (hrun : (s.rig r).running = none) :
    s.sharePart total uj (some r, k) = s.energized r ((uj * k : Nat) / (total : Rat)) :=
  (if_neg hst).trans (State.addEnergy_idle hrun _)

/-! ### What a loss of power leaves -/

/-- The state t is s with cores marked down and yards off: cores stay down, sources pending, and the ratios of the paths and the failed
cells of the yards as they were. -/
structure State.Dims (s t : State) : Prop where
  down (n : Nat) (h : (s.core n).down = true) : (t.core n).down = true
  pend : s.Pends t
  paths : t.pwr.paths = s.pwr.paths
  cells (y : Nat) : (t.yard y).cells = (s.yard y).cells

theorem State.Dims.refl (s : State) : s.Dims s := ⟨fun _ h => h, fun _ h => h, rfl, fun _ => rfl⟩

theorem State.Dims.trans (h : s.Dims t) (h' : t.Dims u) : s.Dims u :=
  ⟨fun n hn => h'.down n (h.down n hn), h.pend.trans h'.pend, h'.paths.trans h.paths, fun y => (h'.cells y).trans (h.cells y)⟩

theorem State.Downs.dims (h : s.Downs t) : s.Dims t := by
  have hpwr := congrArg (fun v : State => v.pwr.paths) h.frame
  refine ⟨h.down, h.pend, hpwr, fun y => ?_⟩
  have hy := congrArg Yard.cells (h.yard y)
  exact hy

theorem State.dims_setYard (s : State) (y : Nat) (k : Yard) (h : k.cells = (s.yard y).cells) : s.Dims (s.setYard y k) := by
  refine ⟨fun _ h => h, fun _ h => h, rfl, fun z => ?_⟩
  by_cases hz : z = y
  · subst hz
    rw [State.yard_setYard_self]
    exact h
  · rw [State.yard_setYard_ne _ _ hz]

theorem State.dims_setLevel (s : State) (y : YardId) (lvl : Nat) (held : Bool) (cause : Nat) : s.Dims (s.setLevel y lvl held cause) := by
  have hl := s.levels_setLevel y lvl held cause
  have hcores := congrArg State.cores hl.frame
  have hpaths := congrArg (fun v : State => v.pwr.paths) hl.frame
  have hcore : (s.setLevel y lvl held cause).core = s.core := State.core_congr hcores
  refine ⟨fun n hn => ?_, hl.pend, hpaths, fun z => ?_⟩
  · rw [hcore]
    exact hn
  · by_cases hz : z = y.val
    · subst hz
      rw [State.setLevel_self]
      rfl
    · rw [State.setLevel_ne _ hz]

theorem State.dims_furlOff (s : State) (y cause : Nat) : s.Dims (s.furlOff y cause) := s.dims_setLevel (yardId y) 7 false cause

theorem State.dims_keepTop (s : State) (y cause : Nat) : s.Dims (s.keepTop y cause) := by
  unfold State.keepTop
  split
  · exact s.dims_setLevel (yardId y) (s.yardTop y) false cause
  · exact State.Dims.refl s

theorem State.dims_lowerDuty (s : State) (ratio : Rat) (y : Nat) : s.Dims (s.lowerDuty ratio y) := by
  refine State.each_keeps s s.Dims _ _ (State.Dims.refl s) fun t c h => h.trans ?_
  dsimp only
  split
  · exact ⟨fun _ h => h, fun _ h => h, rfl, fun _ => rfl⟩
  · exact State.Dims.refl t

/-! ### Both supplies of a yard off -/

/-- What a core keeps when it loses its supply. -/
def State.darkCore (s : State) (c : Nat) : State :=
  let k := s.core c
  s.setCore c { down := k.down, phase := k.phase, stop := k.stop, log := k.log, retired := k.retired, free := k.free }

/-- The memory and the cores of a yard that loses its supplies. -/
def State.darkCores (s : State) (y : Nat) : State :=
  let mine (a : Nat) : Bool := match place a with | .locker n _ => yardOf n = y | _ => false
  let s : State := { s with mem := tclear mine s.mem, errs := tclear mine s.errs }
  s.each ((s.cores.map (·.1)).filter fun c => yardOf c = y) State.darkCore

/-- No position of a yard works. -/
def State.unsupplied (s : State) (y : Nat) : State := s.setYard y { s.yard y with bad := BitVec.allOnes 18, dark := true }

theorem State.darken_eq (s : State) (record : Bool) (y : Nat) : s.darken record y =
    (((s.markYard record y).darkCores y).unsupplied y).furlOff y 6 := rfl

theorem State.dims_unsupplied (s : State) (y : Nat) : s.Dims (s.unsupplied y) := s.dims_setYard y _ rfl

theorem State.darkCore_down (s : State) (c n : Nat) : ((s.darkCore c).core n).down = (s.core n).down := by
  unfold State.darkCore
  dsimp only
  by_cases h : n = c
  · subst h
    rw [State.core_setCore_self]
  · rw [State.core_setCore_ne _ _ h]

theorem State.darkCores_after (s : State) (y : Nat) : (∀ n, ((s.darkCores y).core n).down = (s.core n).down) ∧
    (s.darkCores y).evt = s.evt ∧ (s.darkCores y).pwr = s.pwr ∧ (s.darkCores y).yards = s.yards :=
  State.each_keeps _ (fun t => (∀ n, (t.core n).down = (s.core n).down) ∧ t.evt = s.evt ∧ t.pwr = s.pwr ∧ t.yards = s.yards) _ _
    ⟨fun _ => rfl, rfl, rfl, rfl⟩ fun t c ⟨h1, h2, h3, h4⟩ => ⟨fun n => (t.darkCore_down c n).trans (h1 n), h2, h3, h4⟩

theorem State.dims_darkCores (s : State) (y : Nat) : s.Dims (s.darkCores y) := by
  obtain ⟨hdown, hevt, hpwr, hyards⟩ := s.darkCores_after y
  exact ⟨fun n hn => (hdown n).trans hn, State.Pends.of_evt hevt, congrArg Pwr.paths hpwr,
    fun z => congrArg Yard.cells (State.yard_congr hyards z)⟩

theorem State.dims_darkened (s : State) (y : Nat) : s.Dims (((s.darkCores y).unsupplied y).furlOff y 6) :=
  ((s.dims_darkCores y).trans ((s.darkCores y).dims_unsupplied y)).trans (((s.darkCores y).unsupplied y).dims_furlOff y 6)

theorem State.dims_darken (s : State) (record : Bool) (y : Nat) : s.Dims (s.darken record y) := by
  rw [State.darken_eq]
  exact (s.downs_markYard record y).dims.trans (State.dims_darkened _ y)

/-- A yard without supplies is furled, its cores down. -/
theorem State.darken_furled (s : State) (record : Bool) (h : y < 256) : ((s.darken record y).yard y).lvl = 7 ∧
    ∀ j, j < 16 → ((s.darken record y).core (16 * y + j)).down = true := by
  rw [State.darken_eq]
  constructor
  · rw [State.furlOff_self h]
    rfl
  · intro j hj
    have hdown := s.markYard_down record ⟨y, h⟩ hj
    generalize s.markYard record y = t at hdown ⊢
    exact (t.dims_darkened y).down _ hdown

theorem State.darken_other (s : State) (record : Bool) (h : y < 256) (hx : x ≠ y) : ((s.darken record y).yard x).lvl = (s.yard x).lvl := by
  rw [State.darken_eq, State.furlOff_ne h hx]
  unfold State.unsupplied
  rw [State.yard_setYard_ne _ _ hx]
  have hlvl := congrArg Yard.lvl ((s.downs_markYard record y).yard x)
  generalize s.markYard record y = t at hlvl ⊢
  obtain ⟨-, -, -, hyards⟩ := t.darkCores_after y
  rw [State.yard_congr hyards]
  exact hlvl

/-! ### The effect of a path -/

theorem State.dims_raiseSrc (s : State) (n : Nat) : s.Dims (s.raiseSrc n) := (s.downs_raiseSrc n).dims

/-- What the new state of a VDD_MEM path does to one of its yards. -/
def State.memEffect (st : BitVec 2) (ratio : Rat) (s : State) (y : Nat) : State :=
  if st = 2 then
    let s := s.markYard false y
    s.setYard y { s.yard y with bad := BitVec.allOnes 18 }
  else s.lowerDuty ratio y

theorem State.pathEffect_eq (s : State) (p : Nat) (st : BitVec 2) (ratio : Rat) : s.pathEffect p st ratio =
    if p < 256 then if st = 2 then (s.yardEvent p 2).darken true p else (s.yardEvent p 2).keepTop p 6
    else if p < 320 then (s.raiseSrc 2).each (memYards p) (State.memEffect st ratio)
    else if st = 2 then (s.raiseSrc 2).markMast (pathMast p) else s.raiseSrc 2 := rfl

theorem State.dims_memEffect (st : BitVec 2) (ratio : Rat) (s : State) (y : Nat) : s.Dims (State.memEffect st ratio s y) := by
  unfold State.memEffect
  split
  · have hdown := (s.downs_markYard false y).dims
    generalize s.markYard false y = t at hdown ⊢
    exact hdown.trans (t.dims_setYard y _ rfl)
  · exact s.dims_lowerDuty ratio y

theorem State.dims_pathEffect (s : State) (p : Nat) (st : BitVec 2) (ratio : Rat) : s.Dims (s.pathEffect p st ratio) := by
  have hyard : s.Dims (s.yardEvent p 2) := s.dims_raiseSrc _
  have hraise := s.dims_raiseSrc 2
  rw [State.pathEffect_eq]
  generalize s.raiseSrc 2 = t at hraise ⊢
  split
  · split
    · exact hyard.trans (State.dims_darken _ true p)
    · exact hyard.trans (State.dims_keepTop _ p 6)
  · split
    · exact hraise.trans (State.each_keeps t t.Dims _ _ (State.Dims.refl t) fun u y h => h.trans (State.dims_memEffect st ratio u y))
    · split
      · exact hraise.trans (t.downs_markCores false (1024 * pathMast p + ·) _).dims
      · exact hraise

theorem State.path_congr (h : t.pwr.paths = s.pwr.paths) (p : Nat) : t.path p = s.path p := congrArg (fun x => tget ({} : Path) x p) h

/-! ### What a yard may use -/

theorem State.yardTop_congr (hc : (t.yard y).cells = (s.yard y).cells) (hk : (t.yard y).ceil = (s.yard y).ceil)
    (hp : t.pwr.paths = s.pwr.paths) : t.yardTop y = s.yardTop y := by
  unfold State.yardTop State.yardCeiling
  rw [hc, hk, State.path_congr hp]

/-- A yard kept within what it may use is so. -/
theorem State.keepTop_top (h : y < 256) (s : State) (cause : Nat) : (s.keepTop y cause).yardTop y ≤ ((s.keepTop y cause).yard y).lvl := by
  have hd := s.dims_keepTop y cause
  have hk : ((s.keepTop y cause).yard y).ceil = (s.yard y).ceil := by
    rw [State.keepTop_self h]
    split <;> rfl
  rw [State.yardTop_congr (hd.cells y) hk hd.paths, State.keepTop_self h]
  split
  · exact Nat.le_refl _
  next hle => exact Nat.le_of_not_lt hle

end

end Sys2Proof.Machine
end

section
/-! PROOFS. Power delivery (O50; R420 to R443): energy, feeds, converters, regulator cells, paths, and the power-on of yards. -/

namespace Sys2Proof.Machine

-- One theorem at a time, as in the tests: the proofs together take too many threads.
set_option Elab.async false

section
variable {s : State}

/-! ### Sources of a yard -/

theorem yardSource_listed {y k : Nat} (hy : y < 256) (hk : k < 4) : listedSource (1024 + 4 * y + k) = true := by
  simp only [listedSource, Bool.or_eq_true, Bool.and_eq_true, decide_eq_true_eq]
  omega

theorem State.yardEvent_raised (s : State) (y : YardId) {k : Nat} (hk : k < 4) :
    (s.yardEvent y k).evt.pend.getLsbD (1024 + 4 * y.val + k) = true := by
  have hy := y.isLt
  exact State.raiseSrc_pend (yardSource_listed hy hk) (by omega) (by omega)

theorem State.low_raised (s : State) {n : Nat} (h : n ≤ 5) : (s.raiseSrc n).evt.pend.getLsbD n = true :=
  State.raiseSrc_pend (by simp [listedSource, h]) (by omega) (by omega)

/-! ### Converters -/

/-- A converter that fails is one fewer. -/
theorem converters_clear : ∀ (c : Fin 16) (k : Fin 4), (BitVec.ofFin (w := 4) c).getLsbD k = true →
    popcount ((BitVec.ofFin (w := 4) c) &&& ~~~(BitVec.twoPow 4 k.val)).toNat + 1 = popcount (BitVec.ofFin (w := 4) c).toNat := by
  decide

/-- The state of a converter that fails. -/
def State.convFailed (s : State) (k : Fin 4) : State :=
  ({ s with pwr := { s.pwr with conv := s.pwr.conv &&& ~~~(BitVec.twoPow 4 k.val), clost := true } } : State).raiseSrc 1

/-- Every yard loses its supplies. -/
def State.allDark (s : State) : State := s.each allYards fun s y => s.darken false y

/-- The memory, step and link domains alone stay on. -/
def State.memoryRails (s : State) : State := { s with pwr := { s.pwr with rails := s.pwr.only [.vstby, .mem, .step, .link] } }

theorem execConverterFailed_eq {k : Fin 4} (h : s.pwr.conv.getLsbD k = true) : execConverterFailed k s =
    if (s.convFailed k).pwr.converters ≠ 1 then .next (s.convFailed k) else .next (s.convFailed k).allDark.memoryRails := by
  refine (if_neg (by rw [h]; decide)).trans ?_
  unfold State.allDark
  generalize allYards = ys
  rfl

theorem State.convFailed_frame (s : State) (k : Fin 4) : ({ s.convFailed k with evt := s.evt } : State) =
    { s with pwr := { s.pwr with conv := s.pwr.conv &&& ~~~(BitVec.twoPow 4 k.val), clost := true } } := State.raiseSrc_frame _ _

theorem State.convFailed_converters {k : Fin 4} (h : s.pwr.conv.getLsbD k = true) :
    (s.convFailed k).pwr.converters + 1 = s.pwr.converters := by
  have hpwr := congrArg State.pwr (s.convFailed_frame k)
  have hcount := converters_clear s.pwr.conv.toFin k h
  exact (congrArg (fun p : Pwr => p.converters + 1) hpwr).trans hcount

theorem State.dims_allDark (s : State) : s.Dims s.allDark :=
  State.each_keeps s s.Dims _ _ (State.Dims.refl s) fun t y h => h.trans (t.dims_darken false y)

theorem State.allDark_furled (s : State) {y : Nat} (h : y < 256) : (s.allDark.yard y).lvl = 7 ∧
    ∀ j, j < 16 → (s.allDark.core (16 * y + j)).down = true := by
  refine State.each_visit (P := fun _ => True) (Q := fun t => (t.yard y).lvl = 7 ∧ ∀ j, j < 16 → (t.core (16 * y + j)).down = true)
    List.nodup_range (List.mem_range.2 h) (fun _ _ _ _ _ => trivial) (fun t _ => t.darken_furled false h)
    (fun t i hi hne ⟨hl, hd⟩ => ⟨?_, fun j hj => (t.dims_darken false i).down _ (hd j hj)⟩) s trivial
  exact (t.darken_other false (List.mem_range.1 hi) (Ne.symm hne)).trans hl

theorem State.allDark_down (s : State) {c : Nat} (h : c < 4096) : (s.allDark.core c).down = true := by
  obtain ⟨y, j, hy, hj, rfl⟩ : ∃ y j, y < 256 ∧ j < 16 ∧ 16 * y + j = c := ⟨c / 16, c % 16, by omega, by omega, by omega⟩
  exact (s.allDark_furled hy).2 j hj

theorem State.memoryRails_core (s : State) (c : Nat) : s.memoryRails.core c = s.core c := rfl

theorem State.memoryRails_evt (s : State) : s.memoryRails.evt = s.evt := rfl

theorem State.memoryRails_yard (s : State) (y : Nat) : s.memoryRails.yard y = s.yard y := rfl

/-! ### Regulator cells -/

/-- The state in which a regulator cell of a yard has failed. -/
def State.cellFailed (s : State) (y : YardId) : State :=
  let s := s.setYard y { s.yard y with cells := (s.yard y).cells + 1 }
  (({ s with pwr := { s.pwr with chg := true } } : State).bumpGen).yardEvent y 2

theorem execRegulatorCellFailed_eq (y : YardId) (h : (s.yard y).cells < 8) : execRegulatorCellFailed y s =
    .next (if (s.yard y).cells + 1 = 3 then (s.cellFailed y).darken true y
      else if (s.yard y).cells + 1 < 3 then (s.cellFailed y).keepTop y 6 else s.cellFailed y) := if_neg (by omega)

theorem State.cellFailed_frame (s : State) (y : YardId) : ({ s.cellFailed y with evt := s.evt } : State) =
    ({ s.setYard y { s.yard y with cells := (s.yard y).cells + 1 } with pwr := { s.pwr with chg := true } } : State).bumpGen :=
  State.raiseSrc_frame _ _

/-! ### Paths -/

theorem ratioState_le (q : Rat) : ratioState q ≤ 2 := by
  unfold ratioState
  split
  · omega
  · split <;> omega

theorem execPathRatioWindowEnd_eq (p : PathId) (xs : List Nat) (ratio : Rat) (st c : Nat)
    (hr : (if xs = [] then (s.path p).ratio else median (xs.map fun (n : Nat) => Int.ofNat n)) = ratio) (hc : ratioState ratio = c)
    (hs : max (s.path p).st.toNat (if s.boot.ph = 1 then c else min c (min (s.path p).c1.toNat (s.path p).c2.toNat)) = st) :
    execPathRatioWindowEnd p xs s =
      let t := s.setPath p { ratio := ratio, st := BitVec.ofNat 2 st, c1 := (s.path p).c2, c2 := BitVec.ofNat 2 c }
      if BitVec.ofNat 2 st = (s.path p).st then .next t
      else .next (({ t with pwr := { t.pwr with chg := true } } : State).pathEffect p (BitVec.ofNat 2 st) ratio) := by
  subst hr hc hs
  rfl

/-! ### Ramps -/

theorem State.settleWaits_eq (s : State) : s.settleWaits = s.each s.pwr.waits fun s y =>
    if (s.yard y).ramp = .wait && !s.heldBack y then s.setYard y { s.yard y with ramp := .ready } else s := rfl

/-- What yards going on to their ramps leaves: every part but yards, and every yard that did not wait. -/
theorem State.settleWaits_after (s : State) : ({ s.settleWaits with yards := s.yards } : State) = s ∧
    ∀ y, (s.yard y).ramp ≠ .wait → s.settleWaits.yard y = s.yard y := by
  rw [State.settleWaits_eq]
  refine State.each_keeps s (fun t => ({ t with yards := s.yards } : State) = s ∧ ∀ y, (s.yard y).ramp ≠ .wait → t.yard y = s.yard y) _ _
    ⟨rfl, fun _ _ => rfl⟩ fun t n ⟨h1, h2⟩ => ?_
  split
  next hc =>
    refine ⟨h1, fun y hy => ?_⟩
    have hwait : (t.yard n).ramp = .wait := of_decide_eq_true (Bool.and_eq_true_iff.1 hc).1
    have hne : y ≠ n := by
      rintro rfl
      rw [h2 y hy] at hwait
      exact hy hwait
    rw [State.yard_setYard_ne _ _ hne]
    exact h2 y hy
  next => exact ⟨h1, h2⟩

/-- Whether a yard is held back reads of the yards no more than which of them ramp or are ready to. -/
theorem State.heldBack_congr {t : State} (h : ∀ n, (decide ((t.yard n).ramp = .ramping) = decide ((s.yard n).ramp = .ramping)) ∧
    decide ((t.yard n).ramp = .ready) = decide ((s.yard n).ramp = .ready)) (y : Nat) : t.heldBack y = s.heldBack y := by
  have h1 : (fun n => decide ((t.yard n).ramp = .ramping)) = fun n => decide ((s.yard n).ramp = .ramping) := funext fun n => (h n).1
  have hramp (m : Nat) : t.ramping m = s.ramping m := by
    unfold State.ramping
    exact congrArg (fun f => ((List.range 64).filter fun i => f (64 * m + i)).length) h1
  unfold State.heldBack
  rw [hramp]
  congr 2
  exact funext fun n => by rw [(h n).1, (h n).2]

end

end Sys2Proof.Machine
end

section
/-! PROOFS. The clauses of power delivery and its theorem (O50). -/

namespace Sys2Proof.Machine

-- One theorem at a time, as in the tests: the proofs together take too many threads.
set_option Elab.async false

section
variable {s : State}

/-! ### Energy attribution -/

/-- Two bound rigs that run nothing share the energy of a domain. -/
theorem energyAttribution_two {r q : RigId} (uj a b other : Nat) (hrq : r ≠ q) (ht : a + b + other ≠ 0) (hr : (s.rig r).running = none)
    (hq : (s.rig q).running = none) (hrs : (s.rig r).st ≠ 0) (hqs : (s.rig q).st ≠ 0) :
    exec (.energyAttribution [] [⟨uj, [(r, a), (q, b)], other⟩]) s = .next ((s.energized r ((uj * a : Nat) / ((a + b + other : Nat) : Rat))).energized
      q ((uj * b : Nat) / ((a + b + other : Nat) : Rat))) := by
  have hsum : (([(some r.val, a), (some q.val, b), (none, other)] : List (Option Nat × Nat)).map (·.2)).foldl (· + ·) 0 = a + b + other := by
    simp
  show Host.Outcome.next (s.share uj [(some r.val, a), (some q.val, b), (none, other)]) = _
  rw [State.share_eq uj hsum ht, List.foldl_cons, State.sharePart_rig _ uj a hrs hr, List.foldl_cons]
  rw [State.sharePart_rig (s := s.energized r ((uj * a : Nat) / ((a + b + other : Nat) : Rat))) (a + b + other) uj b hqs hq]
  rfl

/-- The rig of a yard's core takes the core's part of the yard's energy. -/
theorem energyAttribution_yard {y : YardId} {c : CoreId} {r : RigId} (uj n idle : Nat) (hy : yardOf c = y.val) (hc : s.rigOfCore c = some r.val)
    (ht : n + idle ≠ 0) (hr : (s.rig r).running = none) (hrs : (s.rig r).st ≠ 0) :
    exec (.energyAttribution [⟨y, uj, [(c, n)], idle⟩] []) s = .next (s.energized r ((uj * n : Nat) / ((n + idle : Nat) : Rat))) := by
  have hsum : (([(some r.val, n), (none, idle)] : List (Option Nat × Nat)).map (·.2)).foldl (· + ·) 0 = n + idle := by simp
  show Host.Outcome.next (s.share uj (((([(c, n)] : List (CoreId × Nat)).filter fun e => yardOf e.1 = y.val).map
    fun e => (s.rigOfCore e.1, e.2)) ++ [(none, idle)])) = _
  rw [List.filter_cons_of_pos (by simp [hy]), List.filter_nil, List.map_cons, hc, List.map_nil, List.singleton_append]
  rw [State.share_eq uj hsum ht, List.foldl_cons, State.sharePart_rig _ uj n hrs hr]
  rfl

/-! ### Converters and cells -/

theorem converterFailed_few {k : Fin 4} (hk : s.pwr.conv.getLsbD k = true) (h2 : s.pwr.converters ≠ 2) :
    ∃ t, exec (.converterFailed k) s = .next t ∧
      t.pwr = { s.pwr with conv := s.pwr.conv &&& ~~~(BitVec.twoPow 4 k.val), clost := true } ∧ t.evt.pend.getLsbD 1 = true ∧
      t.cores = s.cores := by
  have hcount := State.convFailed_converters hk
  have hpwr := congrArg State.pwr (s.convFailed_frame k)
  have hcores := congrArg State.cores (s.convFailed_frame k)
  exact ⟨_, (execConverterFailed_eq hk).trans (if_pos (by omega)), hpwr, State.low_raised _ (by decide), hcores⟩

theorem converterFailed_third {k : Fin 4} (hk : s.pwr.conv.getLsbD k = true) (h2 : s.pwr.converters = 2) :
    ∃ t, exec (.converterFailed k) s = .next t ∧ t.evt.pend.getLsbD 1 = true ∧ (∀ c, c < 4096 → (t.core c).down = true) ∧
      ∀ y, y < 256 → (t.yard y).lvl = 7 := by
  have hcount := State.convFailed_converters hk
  have hex := (execConverterFailed_eq hk).trans (if_neg (by omega))
  have hpend : (s.convFailed k).evt.pend.getLsbD 1 = true := State.low_raised _ (by decide)
  generalize s.convFailed k = t at hex hpend
  have hdims := t.dims_allDark
  have hdown (c : Nat) (hc : c < 4096) := t.allDark_down hc
  have hfurl (y : Nat) (hy : y < 256) := (t.allDark_furled hy).1
  generalize t.allDark = u at hex hdims hdown hfurl
  refine ⟨_, hex, ?_, fun c hc => ?_, fun y hy => ?_⟩
  · rw [State.memoryRails_evt]
    exact hdims.pend 1 hpend
  · rw [State.memoryRails_core]
    exact hdown c hc
  · rw [State.memoryRails_yard]
    exact hfurl y hy

theorem cellFailed_few {y : YardId} (h : (s.yard y).cells < 2) : ∃ t, exec (.regulatorCellFailed y) s = .next t ∧
    (t.yard y).cells = (s.yard y).cells + 1 ∧ t.pwr.chg = true ∧ t.boot.gen = s.boot.gen + 1 ∧
    t.evt.pend.getLsbD (1024 + 4 * y.val + 2) = true ∧ t.yardTop y ≤ (t.yard y).lvl ∧ t.cores = s.cores ∧
    ∀ x, x ≠ y.val → t.yard x = s.yard x := by
  have hex := (execRegulatorCellFailed_eq (s := s) y (by omega)).trans (congrArg Host.Outcome.next ((if_neg (by omega)).trans (if_pos (by omega))))
  have hpend : (s.cellFailed y).evt.pend.getLsbD (1024 + 4 * y.val + 2) = true := State.yardEvent_raised _ y (by decide)
  have hcells : ((s.cellFailed y).yard y).cells = (s.yard y).cells + 1 := by
    have hyard := congrArg (fun t : State => t.yard y) (s.cellFailed_frame y)
    have hself := s.yard_setYard_self y.val { s.yard y with cells := (s.yard y).cells + 1 }
    exact congrArg Yard.cells (hyard.trans hself)
  have hother (x : Nat) (hx : x ≠ y.val) : (s.cellFailed y).yard x = s.yard x := by
    have hyard := congrArg (fun t : State => t.yard x) (s.cellFailed_frame y)
    have hne := s.yard_setYard_ne { s.yard y with cells := (s.yard y).cells + 1 } hx
    exact hyard.trans hne
  have hchg := congrArg (fun t : State => t.pwr.chg) (s.cellFailed_frame y)
  have hgen := congrArg (fun t : State => t.boot.gen) (s.cellFailed_frame y)
  have hcores := congrArg State.cores (s.cellFailed_frame y)
  have hchg' : (s.cellFailed y).pwr.chg = true := hchg
  have hgen' : (s.cellFailed y).boot.gen = s.boot.gen + 1 := hgen
  have hcores' : (s.cellFailed y).cores = s.cores := hcores
  clear hchg hgen hcores
  generalize s.cellFailed y = t at hex hpend hcells hother hchg' hgen' hcores'
  have hl := t.levels_keepTop y 6
  have hd := t.dims_keepTop y 6
  have hframe := hl.frame
  have h1 := congrArg (fun v : State => v.pwr.chg) hframe
  have h2 := congrArg (fun v : State => v.boot.gen) hframe
  have h3 := congrArg State.cores hframe
  exact ⟨_, hex, (hd.cells y).trans hcells, Eq.trans h1 hchg', Eq.trans h2 hgen', hd.pend _ hpend, State.keepTop_top y.isLt t 6,
    Eq.trans h3 hcores', fun x hx => (State.keepTop_ne y.isLt hx t 6).trans (hother x hx)⟩

theorem cellFailed_third {y : YardId} (h : (s.yard y).cells = 2) : ∃ t, exec (.regulatorCellFailed y) s = .next t ∧
    (t.yard y).cells = 3 ∧ (t.yard y).lvl = 7 ∧ (∀ j, j < 16 → (t.core (16 * y + j)).down = true) ∧
    t.evt.pend.getLsbD (1024 + 4 * y.val + 2) = true := by
  have hex := (execRegulatorCellFailed_eq (s := s) y (by omega)).trans (congrArg Host.Outcome.next (if_pos (by omega)))
  have hpend : (s.cellFailed y).evt.pend.getLsbD (1024 + 4 * y.val + 2) = true := State.yardEvent_raised _ y (by decide)
  have hcells : ((s.cellFailed y).yard y).cells = 3 := by
    have hyard := congrArg (fun t : State => t.yard y) (s.cellFailed_frame y)
    have hself := s.yard_setYard_self y.val { s.yard y with cells := (s.yard y).cells + 1 }
    exact (congrArg Yard.cells (hyard.trans hself)).trans (congrArg (· + 1) h)
  generalize s.cellFailed y = t at hex hpend hcells
  have hd := t.dims_darken true y
  obtain ⟨hlvl, hdown⟩ := t.darken_furled true y.isLt
  exact ⟨_, hex, (hd.cells y).trans hcells, hlvl, hdown, hd.pend _ hpend⟩

/-! ### Paths -/

theorem pathWindow (p : PathId) (xs : List Nat) (ratio : Rat) (st c : Nat)
    (hr : (if xs = [] then (s.path p).ratio else median (xs.map fun (n : Nat) => Int.ofNat n)) = ratio) (hc : ratioState ratio = c)
    (hs : max (s.path p).st.toNat (if s.boot.ph = 1 then c else min c (min (s.path p).c1.toNat (s.path p).c2.toNat)) = st) :
    ∃ t, exec (.pathRatioWindowEnd p xs) s = .next t ∧
      t.path p = { ratio := ratio, st := BitVec.ofNat 2 st, c1 := (s.path p).c2, c2 := BitVec.ofNat 2 c } ∧
      (∀ x, x ≠ p.val → t.path x = s.path x) ∧ (st = (s.path p).st.toNat → t.cores = s.cores ∧ t.yards = s.yards) ∧
      (st = 2 → (s.path p).st ≠ 2 → p.val < 256 → ∀ j, j < 16 → (t.core (16 * p.val + j)).down = true) := by
  have hex := execPathRatioWindowEnd_eq (s := s) p xs ratio st c hr hc hs
  have hlt : st < 4 := by
    have hc2 := ratioState_le ratio
    have hst := (s.path p).st.isLt
    rw [hc] at hc2
    subst hs
    split <;> omega
  have hself := s.path_setPath_self p.val { ratio := ratio, st := BitVec.ofNat 2 st, c1 := (s.path p).c2, c2 := BitVec.ofNat 2 c }
  have hne (x : Nat) (hx : x ≠ p.val) := s.path_setPath_ne
    ({ ratio := ratio, st := BitVec.ofNat 2 st, c1 := (s.path p).c2, c2 := BitVec.ofNat 2 c } : Path) hx
  have hsame : (s.setPath p { ratio := ratio, st := BitVec.ofNat 2 st, c1 := (s.path p).c2, c2 := BitVec.ofNat 2 c }).cores = s.cores ∧
    (s.setPath p { ratio := ratio, st := BitVec.ofNat 2 st, c1 := (s.path p).c2, c2 := BitVec.ofNat 2 c }).yards = s.yards := ⟨rfl, rfl⟩
  generalize s.setPath p { ratio := ratio, st := BitVec.ofNat 2 st, c1 := (s.path p).c2, c2 := BitVec.ofNat 2 c } = t at hex hself hne hsame
  by_cases hst : BitVec.ofNat 2 st = (s.path p).st
  · refine ⟨t, hex.trans (if_pos hst), hself, hne, fun _ => hsame, fun h2 hno => ?_⟩
    exact absurd (by rw [← hst, h2]; rfl) hno
  · have hd := State.dims_pathEffect { t with pwr := { t.pwr with chg := true } } p (BitVec.ofNat 2 st) ratio
    refine ⟨_, hex.trans (if_neg hst), (State.path_congr hd.paths _).trans hself, fun x hx => (State.path_congr hd.paths x).trans (hne x hx),
      fun h => ?_, fun h2 _ h256 j hj => ?_⟩
    · exact absurd (by rw [h, BitVec.ofNat_toNat, BitVec.setWidth_eq]) hst
    · rw [State.pathEffect_eq, if_pos h256, if_pos (by rw [h2]; rfl)]
      exact (State.darken_furled _ true h256).2 j hj

/-! ### The power-on of a yard -/

theorem powerOnRequest_first {y : YardId} (h : s.mayPowerOn y = true) (hw : s.pwr.waits = []) :
    ∃ t, exec (.yardPowerOnRequest y) s = .next t ∧
      t.yard y = { s.yard y with ramp := if s.heldBack y then .wait else .ready } ∧ t.pwr.waits = [y.val] := by
  have hno : (s.yard y).ramp = .no := by
    unfold State.mayPowerOn at h
    simp only [Bool.and_eq_true, decide_eq_true_eq] at h
    obtain ⟨⟨⟨⟨⟨⟨⟨⟨⟨-, hramp⟩, -⟩, -⟩, -⟩, -⟩, -⟩, -⟩, -⟩, -⟩ := h
    exact hramp
  let t : State := { s.setYard y { s.yard y with ramp := .wait } with pwr := { s.pwr with waits := s.pwr.waits ++ [y.val] } }
  have hex : exec (.yardPowerOnRequest y) s = .next t.settleWaits := if_neg (by rw [h]; decide)
  have hyard : t.yard y = { s.yard y with ramp := .wait } := s.yard_setYard_self y.val _
  have hback : t.heldBack y = s.heldBack y := by
    refine State.heldBack_congr (fun n => ?_) y
    by_cases hn : n = y.val
    · subst hn
      rw [hyard, hno]
      exact ⟨rfl, rfl⟩
    · have hne : t.yard n = s.yard n := s.yard_setYard_ne _ hn
      rw [hne]
      exact ⟨rfl, rfl⟩
  have hwaits : t.pwr.waits = [y.val] := by
    show s.pwr.waits ++ [y.val] = _
    rw [hw]
    rfl
  have hset : t.settleWaits = if (t.yard y).ramp = .wait && !t.heldBack y then t.setYard y { t.yard y with ramp := .ready } else t := by
    rw [State.settleWaits_eq, hwaits]
    rfl
  refine ⟨_, hex, ?_, (congrArg (fun v : State => v.pwr.waits) t.settleWaits_after.1).trans hwaits⟩
  rw [hset, hback, hyard]
  cases s.heldBack y
  · rw [if_pos (by rfl), State.yard_setYard_self]
    rfl
  · rw [if_neg (by rw [Bool.not_true, Bool.and_false]; decide), hyard]
    rfl

theorem rampEnd_wakes {y : YardId} (h : (s.yard y).ramp = .ramping) : ∃ t, exec (.yardRampEnd y) s = .next t ∧
    (t.yard y).lvl = s.wakeLevel y ∧ (t.yard y).ramp = .no ∧ t.cores = s.cores ∧ t.mem = s.mem := by
  have hex : exec (.yardRampEnd y) s = .next (s.wake y).settleWaits := congrArg Host.Outcome.next (if_pos h)
  have hyard : (s.wake y).yard y = (s.yard y).atLevel (s.wakeLevel y) false 1 := by
    unfold State.wake
    rw [yardId_self]
    exact s.setLevel_self y _ false 1
  have hframe := (s.levels_setLevel (yardId y) (s.wakeLevel y) false 1).frame
  have hcores := congrArg State.cores hframe
  have hmem := congrArg State.mem hframe
  have hcores' : (s.wake y).cores = s.cores := hcores
  have hmem' : (s.wake y).mem = s.mem := hmem
  clear hframe hcores hmem
  generalize s.wake y = t at hex hyard hcores' hmem'
  obtain ⟨hset, hkeep⟩ := t.settleWaits_after
  have hcores := congrArg State.cores hset
  have hmem := congrArg State.mem hset
  have hk := hkeep y (by rw [hyard]; exact fun h => by cases h)
  refine ⟨_, hex, ?_, ?_, Eq.trans hcores hcores', Eq.trans hmem hmem'⟩
  · rw [hk, hyard]
    rfl
  · rw [hk, hyard]
    rfl

theorem ramp_starts (y : YardId) (quarter b : Bool) (hb : ((neighbours y).any s.nearLimit == quarter) = b) :
    (if s.mayRamp y && b then s.startRamp y quarter else s) =
      if (s.yard y).ramp = .ready ∧ s.ramping (y.val / 64) < 4 ∧ (neighbours y).any s.nearLimit = quarter then
        { s.setYard y { s.yard y with ramp := .ramping, quarter := quarter } with
          pwr := { s.pwr with waits := s.pwr.waits.filter (· ≠ y.val) } } else s := by
  refine if_congr ?_ rfl rfl
  subst hb
  unfold State.mayRamp
  rw [Bool.and_eq_true, Bool.and_eq_true, decide_eq_true_eq, decide_eq_true_eq, beq_iff_eq, and_assoc]
  exact Iff.rfl

end

/-- Settles O50: the shared counts by their parts, and each event by what raising, furling and marking down leave. -/
theorem powerDeliveryAndYards : Obligations.PowerDeliveryAndYards := by
  unfold Obligations.PowerDeliveryAndYards
  refine ⟨?_, ?_, ?_, ?_⟩
  · intro s uj a b other r q hrq ht hr hq hrs hqs
    have hne : r.val ≠ q.val := fun h => hrq (Fin.ext h)
    refine ⟨_, energyAttribution_two uj a b other hrq ht hr hq hrs hqs, fun g n hg => ?_, fun i hir hiq => ?_, rfl⟩
    · obtain hg | hg := hg
      · obtain ⟨rfl, rfl⟩ := Prod.mk.inj hg
        obtain ⟨h1, h2⟩ := State.energized_other (s := s.energized g ((uj * n : Nat) / ((n + b + other : Nat) : Rat))) hne
          ((uj * b : Nat) / ((n + b + other : Nat) : Rat))
        obtain ⟨h3, h4⟩ := s.energized_self g ((uj * n : Nat) / ((n + b + other : Nat) : Rat))
        exact ⟨h1.trans h3, h2.trans h4⟩
      · obtain ⟨rfl, rfl⟩ := Prod.mk.inj hg
        obtain ⟨h1, h2⟩ := s.energized_other (Ne.symm hne) ((uj * a : Nat) / ((a + n + other : Nat) : Rat))
        obtain ⟨h3, h4⟩ := (s.energized r ((uj * a : Nat) / ((a + n + other : Nat) : Rat))).energized_self g
          ((uj * n : Nat) / ((a + n + other : Nat) : Rat))
        unfold State.taking at h3 h4
        rw [h1, h2] at h3
        rw [h2] at h4
        exact ⟨h3, h4⟩
    · exact (State.energized_other (s := s.energized r ((uj * a : Nat) / ((a + b + other : Nat) : Rat))) hiq _).1.trans
        (s.energized_other hir _).1
  · intro s y c r uj n idle hy hc ht hr hrs
    refine ⟨_, energyAttribution_yard uj n idle hy hc ht hr hrs, s.energized_self r _, fun i hi => (s.energized_other hi _).1, rfl⟩
  · intro s p
    refine ⟨fun ha => ?_, fun hb => ?_, fun ha => ?_, fun hb => ?_, fun ha hb => ?_, fun ha hb => ?_, fun h => ?_, fun ha hb => ?_,
      fun k hk => ?_, fun k hk h2 => converterFailed_few hk h2, fun k hk h2 => converterFailed_third hk h2⟩
    · have hframe := ({ s with pwr := { p with feedA := false, alost := true } } : State).raiseSrc_frame 0
      have hpwr := congrArg State.pwr hframe
      exact ⟨_, if_neg (by simp [show s.pwr.feedA = true from ha]), hpwr, State.low_raised _ (by decide),
        congrArg (fun t : State => { t with pwr := p }) hframe⟩
    · have hframe := ({ s with pwr := { p with feedB := false, blost := true } } : State).raiseSrc_frame 0
      have hpwr := congrArg State.pwr hframe
      exact ⟨_, if_neg (by simp [show s.pwr.feedB = true from hb]), hpwr, State.low_raised _ (by decide),
        congrArg (fun t : State => { t with pwr := p }) hframe⟩
    · exact if_pos (by rw [show s.pwr.feedA = false from ha]; rfl)
    · exact if_pos hb
    · have hframe := ({ s with pwr := { p with feedB := true } } : State).raiseSrc_frame 0
      have hpwr := congrArg State.pwr hframe
      refine ⟨_, (if_neg (by simp [show s.pwr.feedB = false from hb])).trans
        (if_neg (by simp [show s.pwr.feedA = true from ha])), hpwr, State.low_raised _ (by decide)⟩
    · obtain ⟨hfail, -, -⟩ := s.volatileReset_kept false
      refine ⟨_, (if_neg (by simp [show s.pwr.feedB = false from hb])).trans
        (if_pos (by rw [show s.pwr.feedA = false from ha, show s.pwr.feedB = false from hb]; rfl)), rfl, rfl, rfl, rfl, rfl, hfail⟩
    · exact congrArg Host.Outcome.next (if_pos (by rw [Bool.or_eq_true]; exact h))
    · obtain ⟨hfail, hhost, -⟩ := s.volatileReset_kept false
      exact ⟨_, congrArg Host.Outcome.next (if_neg (by rw [show s.pwr.feedA = false from ha, show s.pwr.feedB = false from hb]; decide)),
        rfl, rfl, rfl, hhost, hfail⟩
    · exact if_pos (by rw [show s.pwr.conv.getLsbD k = false from hk]; rfl)
  · intro s y k
    refine ⟨fun h => if_pos h, fun h => cellFailed_few h, fun h => cellFailed_third h, fun p xs => ?_, fun h => ?_,
      fun h hw => powerOnRequest_first h hw, fun i quarter hi => ?_, fun h => ?_, fun h => rampEnd_wakes h⟩
    · intro h ratio c st
      exact pathWindow p xs ratio st c rfl rfl rfl
    · exact if_pos (by rw [h]; rfl)
    · obtain ⟨rfl, rfl⟩ | ⟨rfl, rfl⟩ := hi
      · exact congrArg Host.Outcome.next (ramp_starts y true ((neighbours y).any s.nearLimit) (by
          cases (neighbours y.val).any s.nearLimit <;> rfl))
      · exact congrArg Host.Outcome.next (ramp_starts y false (!(neighbours y).any s.nearLimit) (by
          cases (neighbours y.val).any s.nearLimit <;> rfl))
    · exact congrArg Host.Outcome.next (if_neg h)

end Sys2Proof.Machine
end

section
/-! PROOFS. Margin plans (R500): AGE_STAT, and the plan of one yard among a sweep of all. -/

namespace Sys2Proof.Machine

-- One theorem at a time, as in the tests: the proofs together take too many threads.
set_option Elab.async false

section
variable {s t : State} {n x y c : Nat} {included : Bool}

/-! ### AGE_STAT -/

theorem State.noteBelow_bar0 (s : State) (y : YardId) (was : Bool) : (s.noteBelow y was).bar0 = s.bar0 := by
  have hmark : (if s.isBelow y && !was then { s with pwr := { s.pwr with below := true } } else s).bar0 = s.bar0 := by
    split <;> rfl
  unfold State.noteBelow
  dsimp only
  generalize (if s.isBelow y && !was then { s with pwr := { s.pwr with below := true } } else s) = v at hmark ⊢
  split
  · obtain ⟨r, e, he⟩ := v.faultBegin_eq (.belowFloor y)
    rw [he]
    exact hmark
  · split
    · exact hmark
    · obtain ⟨r, he⟩ := v.faultEnd_eq (.belowFloor y)
      rw [he]
      exact hmark

theorem State.setLevel_bar0 (s : State) (y : YardId) (lvl : Nat) (held : Bool) (cause : Nat) : (s.setLevel y lvl held cause).bar0 = s.bar0 :=
  State.noteBelow_bar0 _ _ _

theorem State.keepTop_bar0 (s : State) (y cause : Nat) : (s.keepTop y cause).bar0 = s.bar0 := by
  unfold State.keepTop
  split
  · exact s.setLevel_bar0 _ _ _ _
  · rfl

theorem State.retireYard_bar0 (s : State) (y : Nat) : (s.retireYard y).bar0 = s.bar0 := by
  unfold State.retireYard
  dsimp only
  split
  · exact State.setLevel_bar0 _ _ _ _ _
  · rfl

theorem State.withPlan_bar0 (s : State) (included : Bool) (y : Nat) : (s.withPlan included y).bar0 = s.bar0 := by
  unfold State.withPlan
  dsimp only
  split
  · split
    · exact s.retireYard_bar0 y
    · exact State.keepTop_bar0 _ y 0
  · split
    · rfl
    · exact s.retireYard_bar0 y

/-- A plan of a yard leaves AGE_STAT, or sets its CHG. -/
theorem State.planYard_reg (s : State) (included : Bool) (y : Nat) : (s.planYard included y).reg ageStat = s.reg ageStat ∨
    (s.planYard included y).reg ageStat = s.reg ageStat ||| BitVec.twoPow 64 1 := by
  have hreg := State.reg_congr (s.withPlan_bar0 included y) ageStat
  rw [State.planYard_eq]
  split
  · exact .inl rfl
  · split
    · exact .inl hreg
    · refine .inr ?_
      unfold State.ageBit
      rw [State.reg_setReg_self, hreg]

/-- The bits of a word from 48 on. -/
theorem bits_high (w : BitVec 64) : bits w.toNat 63 48 = (w.extractLsb' 48 16).toNat := (BitVec.extractLsb'_toNat ..).symm

theorem bits_high_chg (w : BitVec 64) : bits (w ||| BitVec.twoPow 64 1).toNat 63 48 = bits w.toNat 63 48 := by
  rw [bits_high, bits_high]
  congr 1
  apply BitVec.eq_of_getLsbD_eq
  intro i hi
  have hne : ¬ 1 = 48 + i := by omega
  simp only [BitVec.getLsbD_extractLsb', BitVec.getLsbD_or, BitVec.getLsbD_twoPow, hne, decide_false, Bool.and_false, Bool.or_false]

theorem bits_high_nat (v : Nat) : bits v 63 48 = v / 281474976710656 % 65536 := by
  unfold bits
  rw [Nat.shiftRight_eq_div_pow]
  omega

theorem setBits_low (v x : Nat) : setBits v 31 16 x / 281474976710656 = v / 281474976710656 := by
  unfold setBits bits
  rw [Nat.shiftRight_eq_div_pow]
  omega

theorem setBits_lower (v x : Nat) : setBits v 15 8 x / 281474976710656 = v / 281474976710656 := by
  unfold setBits bits
  rw [Nat.shiftRight_eq_div_pow]
  omega

theorem setBits_high (v x : Nat) (h : v < 18446744073709551616) : setBits v 63 48 x / 281474976710656 = x % 65536 := by
  unfold setBits bits
  rw [Nat.shiftRight_eq_div_pow]
  omega

/-- The word of AGE_STAT a plan begins with. -/
def State.planWord (s : State) (ys : List Nat) : Nat :=
  let w := (s.reg ageStat).toNat
  let w := setBits w 63 48 (bits w 63 48 + 1)
  match s.worstYard ys with
  | some x => setBits (setBits w 31 16 (x.1.floor % 65536).toNat) 15 8 x.2
  | none => w

theorem State.marginPlan_eq (s : State) (included : Bool) (ys : List Nat) : s.marginPlan included ys =
    (s.setReg ageStat (BitVec.ofNat 64 (s.planWord ys))).each ys fun s y => s.planYard included y := rfl

/-- The plans counted: one more. -/
theorem State.planWord_plans (s : State) (ys : List Nat) : bits (BitVec.ofNat 64 (s.planWord ys)).toNat 63 48 =
    (bits (s.reg ageStat).toNat 63 48 + 1) % 65536 := by
  have hlt := (s.reg ageStat).isLt
  have hword : s.planWord ys / 281474976710656 = (bits (s.reg ageStat).toNat 63 48 + 1) % 65536 := by
    unfold State.planWord
    dsimp only
    split
    · rw [setBits_lower, setBits_low, setBits_high _ _ hlt]
    · rw [setBits_high _ _ hlt]
  rw [bits_high_nat, BitVec.toNat_ofNat]
  omega

theorem State.marginPlan_plans (s : State) (included : Bool) (ys : List Nat) : bits ((s.marginPlan included ys).reg ageStat).toNat 63 48 =
    (bits (s.reg ageStat).toNat 63 48 + 1) % 65536 := by
  rw [State.marginPlan_eq]
  refine State.each_keeps _ (fun t => bits (t.reg ageStat).toNat 63 48 = (bits (s.reg ageStat).toNat 63 48 + 1) % 65536) _ _ ?_
    fun t y h => ?_
  · rw [State.reg_setReg_self]
    exact s.planWord_plans ys
  · obtain hreg | hreg := t.planYard_reg included y
    · rw [hreg]
      exact h
    · rw [hreg, bits_high_chg]
      exact h

/-! ### The floor of a yard -/

theorem Rig.SameFigures.eq {k k' : Rig} (h : k.SameFigures k') : ∃ a b c d, k' = { k with fault := a, iv := b, running := c, plan := d } := by
  refine ⟨k'.fault, k'.iv, k'.running, k'.plan, ?_⟩
  unfold Rig.SameFigures at h
  conv => rhs; rw [← h]

theorem State.Levels.yardFloor (h : s.Levels t) (y : Nat) : t.yardFloor y = s.yardFloor y := by
  have hnew := congrArg (fun v : State => v.pwr.newFloor) h.frame
  have hfloor := congrArg (fun v : State => v.pwr.floor) h.frame
  have hnew' : t.pwr.newFloor = s.pwr.newFloor := hnew
  have hfloor' : t.pwr.floor = s.pwr.floor := hfloor
  have hctl (r : Nat) : t.ctlFloors r = s.ctlFloors r := by
    obtain ⟨a, b, c, d, hr⟩ := (h.rig r).eq
    unfold State.ctlFloors
    rw [hr, hnew', hfloor']
    rfl
  have hin (r : Nat) : (t.rig r).inYard y = (s.rig r).inYard y := by
    obtain ⟨a, b, c, d, hr⟩ := (h.rig r).eq
    rw [hr]
    rfl
  unfold State.yardFloor State.yardRigs
  simp only [hin, hctl]

/-! ### The plan of one yard -/

theorem State.retireYard_ne (h : y < 256) (hx : x ≠ y) (s : State) : (s.retireYard y).yard x = s.yard x := by
  unfold State.retireYard
  dsimp only
  split
  · exact (State.setLevel_ne _ (by rw [yardId_val h]; exact hx) _ _ _).trans (State.yard_setYard_ne _ _ hx)
  · exact State.yard_setYard_ne _ _ hx

theorem State.withPlan_ne (h : y < 256) (hx : x ≠ y) (s : State) (included : Bool) : (s.withPlan included y).yard x = s.yard x := by
  unfold State.withPlan
  dsimp only
  split
  · split
    · exact State.retireYard_ne h hx s
    · exact (State.keepTop_ne h hx _ 0).trans (State.yard_setYard_ne _ _ hx)
  · split
    · exact State.yard_setYard_ne _ _ hx
    · exact State.retireYard_ne h hx s

theorem State.planYard_ne (h : y < 256) (hx : x ≠ y) (s : State) (included : Bool) : (s.planYard included y).yard x = s.yard x := by
  have hplan := State.withPlan_ne h hx s included
  rw [State.planYard_eq]
  split
  · rfl
  · split
    · exact hplan
    · exact hplan

/-- A yard without samples, or retired, keeps its plan. -/
theorem State.planYard_kept (s : State) (included : Bool) (h : (s.yard y).samples = [] ∨ (s.yard y).retired = true) :
    s.planYard included y = s := by
  rw [State.planYard_eq]
  refine if_pos ?_
  rw [Bool.or_eq_true, decide_eq_true_eq]
  exact h

/-- The figures of a plan: what is planned, and what is raised at once. -/
theorem Yard.applyPlan_after (k : Yard) (free : Bool) (off : Int) (ceil : Nat) : (k.applyPlan free off ceil).planned = (off, ceil) ∧
    (k.off ≤ off → (k.applyPlan free off ceil).off = off) ∧ (k.ceil ≤ ceil → (k.applyPlan free off ceil).ceil = ceil) := by
  unfold Yard.applyPlan Yard.planned
  refine ⟨?_, fun h => ?_, fun h => ?_⟩
  · dsimp only
    refine Prod.ext ?_ ?_
    · dsimp only
      by_cases hc : (free || decide (k.off ≤ off)) = true
      · rw [if_pos hc, if_pos hc]
        rfl
      · rw [if_neg hc]
        rfl
    · dsimp only
      by_cases hc : (free || decide (k.ceil ≤ ceil)) = true
      · rw [if_pos hc, if_pos hc]
        rfl
      · rw [if_neg hc]
        rfl
  · exact if_pos (by simp [h])
  · exact if_pos (by simp [h])

/-- A yard kept within what it may use keeps its plan, and runs no faster than its CEIL. -/
theorem State.keepTop_plan (h : y < 256) (s : State) (cause : Nat) : ((s.keepTop y cause).yard y).planned = (s.yard y).planned ∧
    ((s.keepTop y cause).yard y).off = (s.yard y).off ∧ ((s.keepTop y cause).yard y).ceil = (s.yard y).ceil ∧
    (s.yard y).ceil ≤ ((s.keepTop y cause).yard y).lvl := by
  have htop : (s.yard y).ceil ≤ s.yardTop y := Nat.le_max_left _ _
  rw [State.keepTop_self h]
  split
  · exact ⟨rfl, rfl, rfl, htop⟩
  next hle => exact ⟨rfl, rfl, rfl, by omega⟩

/-- What a plan whose level is allowed gives a yard. -/
structure State.Planned (s t : State) (y c : Nat) : Prop where
  planned : (t.yard y).planned = (planOffset (median (s.yard y).samples), c)
  off (h : (s.yard y).off ≤ planOffset (median (s.yard y).samples)) : (t.yard y).off = planOffset (median (s.yard y).samples)
  ceil (h : (s.yard y).ceil ≤ c) : (t.yard y).ceil = c ∧ c ≤ (t.yard y).lvl

theorem State.withPlan_planned (h : y < 256) (hc : planCeil (s.yard y).levels = some c) (hf : c ≤ s.yardFloor y) (included : Bool) :
    s.Planned (s.withPlan included y) y c := by
  obtain ⟨hp, ho, hk⟩ := (s.yard y).applyPlan_after (included || decide (s.yardFloor y = 7)) (planOffset (median (s.yard y).samples)) c
  have heq : s.withPlan included y = (s.setYard y ((s.yard y).applyPlan (included || decide (s.yardFloor y = 7))
      (planOffset (median (s.yard y).samples)) c)).keepTop y 0 := by
    unfold State.withPlan
    dsimp only
    rw [hc]
    exact if_neg (by omega)
  rw [heq]
  generalize (s.yard y).applyPlan (included || decide (s.yardFloor y = 7)) (planOffset (median (s.yard y).samples)) c = k at hp ho hk
  obtain ⟨h1, h2, h3, h4⟩ := State.keepTop_plan h (s.setYard y k) 0
  rw [State.yard_setYard_self] at h1 h2 h3 h4
  exact ⟨h1.trans hp, fun h => h2.trans (ho h), fun h => ⟨h3.trans (hk h), (hk h) ▸ h4⟩⟩

/-- A plan of a yard with samples whose level is allowed; where it differs from the last, CHG is set. -/
theorem State.planYard_planned (h : y < 256) (hs : (s.yard y).samples ≠ []) (hr : (s.yard y).retired = false)
    (hc : planCeil (s.yard y).levels = some c) (hf : c ≤ s.yardFloor y) (included : Bool) : s.Planned (s.planYard included y) y c ∧
    ((s.yard y).planned ≠ (planOffset (median (s.yard y).samples), c) → ((s.planYard included y).reg ageStat).getLsbD 1 = true) := by
  have hplan := State.withPlan_planned h hc hf included
  have hcond : ¬ ((decide ((s.yard y).samples = []) || (s.yard y).retired) = true) := by simp [hs, hr]
  by_cases hsame : ((s.withPlan included y).yard y).planned = (s.yard y).planned
  · have heq : s.planYard included y = s.withPlan included y := (s.planYard_eq included y).trans ((if_neg hcond).trans (if_pos hsame))
    rw [heq]
    exact ⟨hplan, fun hne => absurd (hsame.symm.trans hplan.planned) hne⟩
  · have heq : s.planYard included y = (s.withPlan included y).ageBit 1 :=
      (s.planYard_eq included y).trans ((if_neg hcond).trans (if_neg hsame))
    rw [heq]
    refine ⟨⟨hplan.planned, hplan.off, hplan.ceil⟩, fun _ => ?_⟩
    unfold State.ageBit
    rw [State.reg_setReg_self, BitVec.getLsbD_or, BitVec.getLsbD_twoPow]
    simp

/-! ### The plan of every yard -/

theorem State.planYard_chg (included : Bool) (y : Nat) (h : (s.reg ageStat).getLsbD 1 = true) :
    ((s.planYard included y).reg ageStat).getLsbD 1 = true := by
  obtain hreg | hreg := s.planYard_reg included y
  · rw [hreg]
    exact h
  · rw [hreg, BitVec.getLsbD_or, h]
    rfl

theorem State.marginPlan_kept (h : y < 256) (s : State) (included : Bool) (hk : (s.yard y).samples = [] ∨ (s.yard y).retired = true) :
    (s.marginPlan included allYards).yard y = s.yard y := by
  rw [State.marginPlan_eq]
  refine State.each_visit (P := fun t => t.yard y = s.yard y) (Q := fun t => t.yard y = s.yard y) List.nodup_range (List.mem_range.2 h)
    (fun t i hi hne ht => (State.planYard_ne (List.mem_range.1 hi) (Ne.symm hne) t included).trans ht) (fun t ht => ?_)
    (fun t i hi hne ht => (State.planYard_ne (List.mem_range.1 hi) (Ne.symm hne) t included).trans ht) _ rfl
  rw [State.planYard_kept t included (by rw [ht]; exact hk)]
  exact ht

theorem State.marginPlan_planned (h : y < 256) (s : State) (included : Bool) (hs : (s.yard y).samples ≠ []) (hr : (s.yard y).retired = false)
    (hc : planCeil (s.yard y).levels = some c) (hf : c ≤ s.yardFloor y) : s.Planned (s.marginPlan included allYards) y c ∧
    ((s.yard y).planned ≠ (planOffset (median (s.yard y).samples), c) →
      ((s.marginPlan included allYards).reg ageStat).getLsbD 1 = true) := by
  rw [State.marginPlan_eq]
  refine State.each_visit (P := fun t => s.Levels t ∧ t.yard y = s.yard y) (Q := fun t => s.Planned t y c ∧
      ((s.yard y).planned ≠ (planOffset (median (s.yard y).samples), c) → (t.reg ageStat).getLsbD 1 = true)) List.nodup_range
    (List.mem_range.2 h) (fun t i hi hne ⟨hl, ht⟩ => ⟨hl.trans (t.levels_planYard included i),
      (State.planYard_ne (List.mem_range.1 hi) (Ne.symm hne) t included).trans ht⟩) (fun t ⟨hl, ht⟩ => ?_)
    (fun t i hi hne ⟨hp, hchg⟩ => ?_) _ ⟨s.levels_setReg _ _, rfl⟩
  · have hplan := State.planYard_planned (s := t) (c := c) h (by rw [ht]; exact hs) (by rw [ht]; exact hr) (by rw [ht]; exact hc)
      (by rw [hl.yardFloor]; exact hf) included
    obtain ⟨⟨h1, h2, h3⟩, h4⟩ := hplan
    rw [ht] at h1 h2 h3 h4
    exact ⟨⟨h1, h2, h3⟩, h4⟩
  · have hyard := State.planYard_ne (List.mem_range.1 hi) (Ne.symm hne) t included
    obtain ⟨h1, h2, h3⟩ := hp
    rw [← hyard] at h1 h2 h3
    exact ⟨⟨h1, h2, h3⟩, fun hne => State.planYard_chg included i (hchg hne)⟩

end

end Sys2Proof.Machine
end

section
/-! PROOFS. Scrubs (R485 to R487): the words of a range, and the line of a scrub started by register. -/

namespace Sys2Proof.Machine

-- One theorem at a time, as in the tests: the proofs together take too many threads.
set_option Elab.async false

section
variable {s t u : State} {w v a n : Nat} {nofix : Bool}

/-! ### Marks under the counting of errors -/

theorem State.countCe_errs (s : State) (kind unit addr pos : Nat) : (s.countCe kind unit addr pos).errs = s.errs := by
  unfold State.countCe
  dsimp only
  split
  · split <;> rfl
  · rfl

theorem State.ownLog_errs (s : State) (a : Nat) : (s.ownLog a).errs = s.errs := by
  unfold State.ownLog
  split
  · dsimp only
    split
    · obtain ⟨f, e, h⟩ := State.recordFail_eq _ _
      rw [h]
      rfl
    · rfl
  · rfl
  · rfl
  · rfl

theorem State.countUe_errs (s : State) (kind unit : Nat) : (s.countUe kind unit).errs = s.errs := by
  unfold State.countUe
  obtain ⟨e, h⟩ := State.raiseSrc_eq _ _
  rw [h]

theorem State.mark_congr (h : t.errs = s.errs) (w : Nat) : t.mark w = s.mark w := congrArg (fun x => tget Err.none x w) h

theorem State.mark_setMark_other (s : State) (e : Err) (h : v ≠ w) : (s.setMark w e).mark v = s.mark v := tget_tset_ne _ _ _ h

/-! ### What a scrub changes -/

/-- The state t is s with errors met and corrected words cleaned: an uncorrectable word stays, and a word without an error stays so. -/
structure State.Cleans (s t : State) : Prop where
  counts : s.Counts t
  mark (w : Nat) : t.mark w = s.mark w ∨ t.mark w = .none ∧ ∃ pos, s.mark w = .ce pos

theorem State.Cleans.refl (s : State) : s.Cleans s := ⟨.refl s, fun _ => .inl rfl⟩

theorem State.Cleans.trans (h : s.Cleans t) (h' : t.Cleans u) : s.Cleans u := by
  refine ⟨h.counts.trans h'.counts, fun w => ?_⟩
  obtain h1 | ⟨h1, hpos⟩ := h.mark w
  · obtain h2 | ⟨h2, hpos⟩ := h'.mark w
    · exact .inl (h2.trans h1)
    · exact .inr ⟨h2, h1 ▸ hpos⟩
  · obtain h2 | ⟨h2, hpos'⟩ := h'.mark w
    · exact .inr ⟨h2.trans h1, hpos⟩
    · exact .inr ⟨h2, hpos⟩

theorem State.Cleans.ue (h : s.Cleans t) (hw : s.mark w = .ue) : t.mark w = .ue := by
  obtain h1 | ⟨-, pos, h1⟩ := h.mark w
  · exact h1.trans hw
  · exact absurd (hw.symm.trans h1) (by simp)

/-- A word that holds no corrected error holds none afterwards. -/
theorem State.Cleans.clean (h : s.Cleans t) (hw : ∀ pos, s.mark w ≠ .ce pos) (pos : Nat) : t.mark w ≠ .ce pos := by
  obtain h1 | ⟨h1, -⟩ := h.mark w
  · rw [h1]
    exact hw pos
  · rw [h1]
    simp

theorem State.cleans_meet (s : State) (w : Nat) : s.Cleans (s.meet w).1 := by
  refine ⟨(State.Counts.refl s).meet w, fun v => ?_⟩
  unfold State.meet
  split
  · exact .inl rfl
  next pos hpos =>
    have hlog : ((s.countCe (errUnit w).1 (errUnit w).2 (errAddr w) pos).ownLog w).mark v = s.mark v :=
      State.mark_congr ((State.ownLog_errs _ w).trans (s.countCe_errs _ _ _ _)) v
    dsimp only
    generalize (s.countCe (errUnit w).1 (errUnit w).2 (errAddr w) pos).ownLog w = t at hlog
    split
    · by_cases hv : v = w
      · subst hv
        exact .inr ⟨t.mark_setMark_self v .none, pos, hpos⟩
      · exact .inl ((t.mark_setMark_other .none hv).trans hlog)
    · exact .inl hlog
  · exact .inl (State.mark_congr (s.countUe_errs _ _) v)

/-- A correctable word rewritten. -/
theorem State.cleans_setMark {pos : Nat} (h : s.mark w = .ce pos ∨ s.mark w = .none) : s.Cleans (s.setMark w .none) := by
  refine ⟨(State.Counts.refl s).setMark w .none, fun v => ?_⟩
  by_cases hv : v = w
  · subst hv
    have hself := s.mark_setMark_self v .none
    obtain h | h := h
    · exact .inr ⟨hself, pos, h⟩
    · exact .inl (hself.trans h.symm)
  · exact .inl (s.mark_setMark_other .none hv)

theorem State.meet_ce {pos : Nat} (h : s.mark w = .ce pos) : (s.meet w).1.mark w = .ce pos ∨ (s.meet w).1.mark w = .none := by
  obtain h1 | ⟨h1, -⟩ := (s.cleans_meet w).mark w
  · exact .inl (h1.trans h)
  · exact .inr h1

theorem scrubWord_cleans (nofix : Bool) (x : State × Nat × Nat × Option Nat) (w : Nat) : x.1.Cleans (scrubWord nofix x w).1 := by
  obtain ⟨s, cor, unc, first⟩ := x
  unfold scrubWord
  dsimp only
  split
  · exact ⟨(State.Counts.refl s).countUe _ _, fun v => .inl (State.mark_congr (s.countUe_errs _ _) v)⟩
  · split
    · exact State.Cleans.refl s
    next pos hpos =>
      dsimp only
      split
      · exact s.cleans_meet w
      · exact (s.cleans_meet w).trans (State.cleans_setMark (State.meet_ce hpos))
    · exact s.cleans_meet w

/-- A word of a tile that is scrubbed holds no corrected error. -/
theorem scrubWord_fixed {m o : Nat} (hw : place w = .tile m o) (x : State × Nat × Nat × Option Nat) (pos : Nat) :
    (scrubWord false x w).1.mark w ≠ .ce pos := by
  obtain ⟨s, cor, unc, first⟩ := x
  unfold scrubWord
  dsimp only
  rw [if_neg (by rw [hw]; simp)]
  split
  next h => rw [h]; simp
  next pos' hpos =>
    dsimp only
    rw [if_neg (by decide), State.mark_setMark_self]
    simp
  next h =>
    rw [(s.cleans_meet w).ue h]
    simp

/-! ### The words of a range -/

theorem foldl_keeps {α β : Type} {f : β → α → β} {P : β → Prop} (hf : ∀ b x, P b → P (f b x)) (xs : List α) : ∀ b, P b → P (xs.foldl f b) := by
  induction xs with
  | nil => exact fun _ h => h
  | cons x xs ih => exact fun b h => ih (f b x) (hf b x h)

theorem foldl_marks {α β : Type} {f : β → α → β} {P Q : β → Prop} {a : α} {xs : List α} (ha : a ∈ xs) (hP : ∀ b x, P b → P (f b x))
    (hf : ∀ b, P b → Q (f b a)) (hQ : ∀ b x, Q b → Q (f b x)) : ∀ b, P b → Q (xs.foldl f b) := by
  induction xs with
  | nil => exact absurd ha List.not_mem_nil
  | cons x xs ih =>
    intro b h
    obtain rfl | hmem := List.mem_cons.1 ha
    · exact foldl_keeps hQ xs _ (hf b h)
    · exact ih hmem (f b x) (hP b x h)

theorem scrubGran_cleans (nofix : Bool) (x : State × Nat × Nat × Option Nat) (g : Nat) : x.1.Cleans (scrubGran nofix x g).1 := by
  unfold scrubGran
  split
  · exact foldl_keeps (P := fun y => x.1.Cleans y.1) (fun y w h => h.trans (scrubWord_cleans nofix y w)) _ x (State.Cleans.refl x.1)
  · exact State.Cleans.refl x.1

/-- A word of a tile in a scrubbed granule holds no corrected error. -/
theorem scrubGran_fixed {m o g i : Nat} (hi : i < 64) (hw : place (4096 * g + 64 * i) = .tile m o) (x : State × Nat × Nat × Option Nat)
    (hg : x.1.granAt (4096 * g) = .written) (pos : Nat) : (scrubGran false x g).1.mark (4096 * g + 64 * i) ≠ .ce pos := by
  have hmem : 4096 * g + 64 * i ∈ (List.range 64).map fun i => 4096 * g + 64 * i := List.mem_map.2 ⟨i, List.mem_range.2 hi, rfl⟩
  unfold scrubGran
  rw [if_pos hg]
  exact foldl_marks (P := fun _ => True) (Q := fun y => ∀ pos, y.1.mark (4096 * g + 64 * i) ≠ .ce pos) hmem (fun _ _ _ => trivial)
    (fun y _ pos => scrubWord_fixed hw y pos) (fun y w h pos => (scrubWord_cleans false y w).clean h pos) x trivial pos

theorem State.Cleans.granAt (h : s.Cleans t) (a : Nat) : t.granAt a = s.granAt a := by
  have hgran := congrArg State.gran h.counts.frame
  exact congrArg (fun x => tget Gran.unwritten x (a / 4096)) hgran

/-- The granules of a range, up to the first of a core that is down. -/
def State.scrubbed (s : State) (a n : Nat) : List Nat := ((List.range (n / 4096)).map (· + a / 4096)).takeWhile fun g => !s.downAt (4096 * g)

/-- The state of a range that is scrubbed, and its counts. -/
def State.scrubFold (s : State) (a n : Nat) (nofix : Bool) : State × Nat × Nat × Option Nat :=
  (s.scrubbed a n).foldl (scrubGran nofix) (s, 0, 0, none)

theorem State.scrubRange_eq (s : State) (a n : Nat) (nofix : Bool) : s.scrubRange a n nofix = ((s.scrubFold a n nofix).1,
    [BitVec.ofNat 64 (s.scrubbed a n).length, BitVec.ofNat 64 (s.scrubFold a n nofix).2.1, BitVec.ofNat 64 (s.scrubFold a n nofix).2.2.1,
      BitVec.ofNat 64 ((s.scrubFold a n nofix).2.2.2.getD (2 ^ 64 - 1))],
    (s.scrubbed a n).length == ((List.range (n / 4096)).map (· + a / 4096)).length) := rfl

theorem State.scrubFold_cleans (s : State) (a n : Nat) (nofix : Bool) : s.Cleans (s.scrubFold a n nofix).1 :=
  foldl_keeps (P := fun y => s.Cleans y.1) (fun y g h => h.trans (scrubGran_cleans nofix y g)) _ (s, 0, 0, none) (State.Cleans.refl s)

/-- Where no core of the range is down, every granule is visited. -/
theorem State.scrubbed_whole (h : ∀ i, i < n / 4096 → s.downAt (4096 * (i + a / 4096)) = false) :
    s.scrubbed a n = (List.range (n / 4096)).map (· + a / 4096) := by
  refine List.takeWhile_eq_self_iff.2 fun g hg => ?_
  obtain ⟨i, hi, rfl⟩ := List.mem_map.1 hg
  rw [h i (List.mem_range.1 hi)]
  rfl

/-- Where a core of the range is down, the range is not visited whole. -/
theorem State.scrubbed_cut {i : Nat} (hi : i < n / 4096) (h : s.downAt (4096 * (i + a / 4096)) = true) :
    ((s.scrubbed a n).length == ((List.range (n / 4096)).map (· + a / 4096)).length) = false := by
  rw [beq_eq_false_iff_ne]
  intro hlen
  have hall : s.scrubbed a n = (List.range (n / 4096)).map (· + a / 4096) := (List.takeWhile_prefix _).eq_of_length hlen
  have hmem : i + a / 4096 ∈ s.scrubbed a n := by
    rw [hall]
    exact List.mem_map.2 ⟨i, List.mem_range.2 hi, rfl⟩
  have hgood := List.mem_takeWhile_imp hmem
  rw [h] at hgood
  cases hgood

/-- A word of a tile in a range that is scrubbed whole holds no corrected error. -/
theorem State.scrubFold_fixed {m o g i : Nat} (hg : g ∈ s.scrubbed a n) (hi : i < 64) (hw : place (4096 * g + 64 * i) = .tile m o)
    (hgran : s.granAt (4096 * g) = .written) (pos : Nat) : (s.scrubFold a n false).1.mark (4096 * g + 64 * i) ≠ .ce pos :=
  foldl_marks (P := fun y => s.Cleans y.1) (Q := fun y => ∀ pos, y.1.mark (4096 * g + 64 * i) ≠ .ce pos) hg
    (fun y g h => h.trans (scrubGran_cleans false y g)) (fun y h pos => scrubGran_fixed hi hw y ((h.granAt _).trans hgran) pos)
    (fun y g h pos => (scrubGran_cleans false y g).clean h pos) (s, 0, 0, none) (State.Cleans.refl s) pos

end

end Sys2Proof.Machine
end

section
/-! PROOFS. Telltales, margin plans, scrubs and failing ways (O52; R483 to R500). -/

namespace Sys2Proof.Machine

-- One theorem at a time, as in the tests: the proofs together take too many threads.
set_option Elab.async false

section
variable {s : State}

theorem State.Levels.mem {t : State} (h : s.Levels t) : t.mem = s.mem := by
  have hmem := congrArg State.mem h.frame
  exact hmem

/-! ### Scrubs started by register -/

theorem leNat_leBytes8 {v : Nat} (h : v < 18446744073709551616) : leNat (leBytes 8 v) = v := by
  simp only [leBytes, leNat, BitVec.toNat_ofNat]
  omega

theorem State.scrubBase_lt (s : State) : s.scrubBase < 18446744073709551616 := by
  unfold State.scrubBase bits
  omega

theorem State.scrubLen_lt (s : State) : s.scrubLen < 18446744073709551616 := by
  unfold State.scrubLen bits
  omega

theorem State.scrubBase_aligned (s : State) : 4096 * (s.scrubBase / 4096) = s.scrubBase := by
  unfold State.scrubBase
  omega

theorem State.scrubLen_aligned (s : State) : 4096 * (s.scrubLen / 4096) = s.scrubLen := by
  unfold State.scrubLen
  omega

theorem field_append (xs bs ys : List Byte) {off n : Nat} (h : xs.length = off) (h' : bs.length = n) : field (xs ++ bs ++ ys) off n = leNat bs := by
  subst h h'
  unfold field
  rw [List.append_assoc, List.drop_left, List.take_left]

/-- The fields of a scrub started by register. -/
theorem scrubLine_fields (rig base len now : Nat) (nofix : Bool) (hb : base < 18446744073709551616) (hl : len < 18446744073709551616) :
    (scrubLine rig base len nofix now).op = 4 ∧ (scrubLine rig base len nofix now).cls = 3 ∧
    (scrubLine rig base len nofix now).u 24 8 = base ∧ (scrubLine rig base len nofix now).u 32 8 = len := by
  refine ⟨?_, ?_, ?_, ?_⟩
  · show (BitVec.ofNat 8 ((4 + 3 * 65536 + rig * 16777216) % 256)).toNat + 256 * 0 = 4
    rw [BitVec.toNat_ofNat]
    omega
  · show (BitVec.ofNat 8 ((4 + 3 * 65536 + rig * 16777216) / 256 / 256 % 256)).toNat + 256 * 0 = 3
    rw [BitVec.toNat_ofNat]
    omega
  · have hpre : (leBytes 8 (4 + 3 * 65536 + rig * 16777216) ++ leBytes 16 0).length = 24 := by simp
    have h := field_append (leBytes 8 (4 + 3 * 65536 + rig * 16777216) ++ leBytes 16 0) (leBytes 8 base)
      (leBytes 8 len ++ leBytes 8 0 ++ leBytes 1 (b2n nofix) ++ leBytes 15 0) hpre (leBytes_length 8 base)
    rw [leNat_leBytes8 hb] at h
    refine Eq.trans ?_ h
    show field _ 24 8 = _
    simp only [scrubLine, List.append_assoc]
  · have hpre : (leBytes 8 (4 + 3 * 65536 + rig * 16777216) ++ leBytes 16 0 ++ leBytes 8 base).length = 32 := by simp
    have h := field_append (leBytes 8 (4 + 3 * 65536 + rig * 16777216) ++ leBytes 16 0 ++ leBytes 8 base) (leBytes 8 len)
      (leBytes 8 0 ++ leBytes 1 (b2n nofix) ++ leBytes 15 0) hpre (leBytes_length 8 len)
    rw [leNat_leBytes8 hl] at h
    refine Eq.trans ?_ h
    show field _ 32 8 = _
    simp only [scrubLine, List.append_assoc]

/-- The state in which a register-started scrub is accepted. -/
def State.scrubTaken (s : State) (nofix : Bool) : State := { s with scrub := { s.scrub with nofix := nofix, busy := true, rig := none } }

theorem State.rigOfAddr_of_rigs {t : State} (h : t.rigs = s.rigs) (x : Nat) : t.rigOfAddr x = s.rigOfAddr x := by
  have hrig : t.rig = s.rig := funext fun r => State.rig_congr h r
  unfold State.rigOfAddr State.rigOfRegion State.rigOfCore
  rw [hrig]

theorem State.scrubOwner_of_rigs {t : State} (h : t.rigs = s.rigs) (a n : Nat) : t.scrubOwner a n = s.scrubOwner a n := by
  have howner : t.rigOfAddr = s.rigOfAddr := funext fun x => State.rigOfAddr_of_rigs h x
  unfold State.scrubOwner
  rw [howner]

theorem State.scrubTaken_base (s : State) (nofix : Bool) : (s.scrubTaken nofix).scrubBase = s.scrubBase := by
  unfold State.scrubBase
  rw [State.reg_congr (t := s.scrubTaken nofix) (s := s) rfl]

theorem State.scrubTaken_len (s : State) (nofix : Bool) : (s.scrubTaken nofix).scrubLen = s.scrubLen := by
  unfold State.scrubLen
  rw [State.reg_congr (t := s.scrubTaken nofix) (s := s) rfl]

theorem State.scrubTaken_owner (s : State) (nofix : Bool) : (s.scrubTaken nofix).scrubOwner (s.scrubTaken nofix).scrubBase
    (s.scrubTaken nofix).scrubLen = s.scrubOwner s.scrubBase s.scrubLen := by
  have hbase := s.scrubTaken_base nofix
  have hlen := s.scrubTaken_len nofix
  have howner := State.scrubOwner_of_rigs (t := s.scrubTaken nofix) (s := s) rfl
  generalize s.scrubTaken nofix = t at hbase hlen howner ⊢
  rw [hbase, hlen, howner]

/-- What a scrub that is accepted does, by the owner of its range. -/
def State.scrubFor (s : State) (nofix : Bool) (base len : Nat) (owner : Option (Option Nat)) : State :=
  match owner with
  | none => (s.putSum noSum 0).regScrubEnd 0x11
  | some none => s
  | some (some g) => ({ s with scrub := { s.scrub with rig := some g } } : State).setRig g
      { s.rig g with cq := (s.rig g).cq ++ [{ r := scrubLine g base len nofix s.adm.now, moved := !(s.rig g).iv.isEmpty }] }

theorem State.scrubGo_eq (s : State) (nofix : Bool) (h : s.scrub.busy = false) : s.scrubGo nofix =
    (s.scrubTaken nofix).scrubFor nofix (s.scrubTaken nofix).scrubBase (s.scrubTaken nofix).scrubLen
      (s.scrubOwner s.scrubBase s.scrubLen) := by
  rw [← s.scrubTaken_owner nofix]
  exact if_neg (by rw [h]; decide)

/-- How a register-started scrub ends. -/
theorem State.regScrubEnd_after (s : State) (status : BitVec 8) : (s.regScrubEnd status).scrub.busy = false ∧
    (s.regScrubEnd status).scrub.done = true ∧ (s.regScrubEnd status).scrub.status = status ∧
    (s.regScrubEnd status).scrub.sum = s.scrub.sum ∧ (s.regScrubEnd status).evt.pend.getLsbD 257 = true ∧
    (s.regScrubEnd status).mem = s.mem ∧ (s.regScrubEnd status).gran = s.gran ∧ (s.regScrubEnd status).errs = s.errs := by
  have hframe := ({ s with scrub := { s.scrub with busy := false, done := true, status := status, rig := none } } : State).raiseSrc_frame 257
  have hbusy := congrArg (fun t : State => t.scrub.busy) hframe
  have hdone := congrArg (fun t : State => t.scrub.done) hframe
  have hstatus := congrArg (fun t : State => t.scrub.status) hframe
  have hsum := congrArg (fun t : State => t.scrub.sum) hframe
  have hmem := congrArg State.mem hframe
  have hgran := congrArg State.gran hframe
  have herrs := congrArg State.errs hframe
  exact ⟨hbusy, hdone, hstatus, hsum, State.raiseSrc_pend (by decide) (by decide) (by decide), hmem, hgran, herrs⟩

theorem execScrubEnd_eq (h : s.scrubbing = none) : execScrubEnd s =
    if s.scrub.busy && s.scrub.rig.isNone && !s.scrubWaits s.scrubBase s.scrubLen then
      .next (((s.scrubRange s.scrubBase s.scrubLen s.scrub.nofix).1.putSum (s.scrubRange s.scrubBase s.scrubLen s.scrub.nofix).2.1 0).regScrubEnd
        (finScrub (s.scrubRange s.scrubBase s.scrubLen s.scrub.nofix).2.2).status)
    else .next s := by
  unfold execScrubEnd
  rw [h]

/-- A register-started scrub of a range bound to no rig, as it ends. -/
theorem scrubEnd_ends (h : s.scrubbing = none) (hb : s.scrub.busy = true) (hr : s.scrub.rig = none)
    (hw : s.scrubWaits s.scrubBase s.scrubLen = false) : ∃ t, exec .scrubEnd s = .next t ∧ t.mem = s.mem ∧ t.gran = s.gran ∧
      t.scrub.busy = false ∧ t.scrub.done = true ∧ t.evt.pend.getLsbD 257 = true ∧
      t.scrub.status = (finScrub ((s.scrubbed s.scrubBase s.scrubLen).length ==
        ((List.range (s.scrubLen / 4096)).map (· + s.scrubBase / 4096)).length)).status ∧
      t.scrub.sum.getD 0 0 = BitVec.ofNat 64 (s.scrubbed s.scrubBase s.scrubLen).length ∧
      ∀ w, t.mark w = (s.scrubFold s.scrubBase s.scrubLen s.scrub.nofix).1.mark w := by
  have hex := (execScrubEnd_eq h).trans (if_pos (by rw [hb, hr, hw]; rfl))
  have hcounts := (s.scrubFold_cleans s.scrubBase s.scrubLen s.scrub.nofix).counts.frame
  have hmem := congrArg State.mem hcounts
  have hgran := congrArg State.gran hcounts
  have heq := s.scrubRange_eq s.scrubBase s.scrubLen s.scrub.nofix
  generalize s.scrubRange s.scrubBase s.scrubLen s.scrub.nofix = z at hex heq
  subst heq
  generalize s.scrubFold s.scrubBase s.scrubLen s.scrub.nofix = x at hex hmem hgran ⊢
  obtain ⟨h1, h2, h3, h4, h5, h6, h7, h8⟩ := (x.1.putSum [BitVec.ofNat 64 (s.scrubbed s.scrubBase s.scrubLen).length,
    BitVec.ofNat 64 x.2.1, BitVec.ofNat 64 x.2.2.1, BitVec.ofNat 64 (x.2.2.2.getD (2 ^ 64 - 1))] 0).regScrubEnd_after
    (finScrub ((s.scrubbed s.scrubBase s.scrubLen).length ==
        ((List.range (s.scrubLen / 4096)).map (· + s.scrubBase / 4096)).length)).status
  refine ⟨_, hex, ?_, ?_, h1, h2, h5, h3, ?_, fun w => ?_⟩
  · exact h6.trans hmem
  · exact h7.trans hgran
  · exact congrArg (fun l : List (BitVec 64) => l.getD 0 0) h4
  · exact State.mark_congr h8 w

theorem scrubGo_noRange {nofix : Bool} (h0 : s.bar0On 0x050030 = true) (hb : s.scrub.busy = false)
    (ho : s.scrubOwner s.scrubBase s.scrubLen = none) : ∃ t, exec (.scrubGo nofix) s = .next t ∧ t.scrub.busy = false ∧
      t.scrub.done = true ∧ t.scrub.status = 0x11 ∧ t.evt.pend.getLsbD 257 = true := by
  have hgo := s.scrubGo_eq nofix hb
  rw [ho] at hgo
  obtain ⟨h1, h2, h3, -, h5, -⟩ := ((s.scrubTaken nofix).putSum noSum 0).regScrubEnd_after 0x11
  exact ⟨_, (congrArg Host.Outcome.next (if_pos h0)).trans (congrArg Host.Outcome.next hgo), h1, h2, h3, h5⟩

theorem scrubGo_free {nofix : Bool} (h0 : s.bar0On 0x050030 = true) (hb : s.scrub.busy = false)
    (ho : s.scrubOwner s.scrubBase s.scrubLen = some none) : exec (.scrubGo nofix) s = .next (s.scrubTaken nofix) := by
  have hgo := s.scrubGo_eq nofix hb
  rw [ho] at hgo
  exact (congrArg Host.Outcome.next (if_pos h0)).trans (congrArg Host.Outcome.next hgo)

theorem scrubGo_bound {nofix : Bool} {g : Nat} (h0 : s.bar0On 0x050030 = true) (hb : s.scrub.busy = false)
    (ho : s.scrubOwner s.scrubBase s.scrubLen = some (some g)) : ∃ t m, exec (.scrubGo nofix) s = .next t ∧
      t.scrub = { s.scrub with nofix := nofix, busy := true, rig := some g } ∧
      t.rig g = { s.rig g with cq := (s.rig g).cq ++ [m] } ∧ m.r.op = 4 ∧ m.r.cls = 3 ∧ m.r.u 24 8 = s.scrubBase ∧
      m.r.u 32 8 = s.scrubLen := by
  have hgo := s.scrubGo_eq nofix hb
  rw [ho, State.scrubTaken_base, State.scrubTaken_len] at hgo
  obtain ⟨h1, h2, h3, h4⟩ := scrubLine_fields g s.scrubBase s.scrubLen s.adm.now nofix s.scrubBase_lt s.scrubLen_lt
  generalize hr : scrubLine g s.scrubBase s.scrubLen nofix s.adm.now = r at h1 h2 h3 h4
  generalize s.scrubBase = base at hgo h3 hr ⊢
  generalize s.scrubLen = len at hgo h4 hr ⊢
  refine ⟨(s.scrubTaken nofix).scrubFor nofix base len (some (some g)), { r := r, moved := !(s.rig g).iv.isEmpty },
    (congrArg Host.Outcome.next (if_pos h0)).trans (congrArg Host.Outcome.next hgo), rfl, ?_, h1, h2, h3, h4⟩
  rw [← hr]
  exact State.rig_setRig_self _ g _

/-! ### Failing ways -/

/-- The state in which a way of a slice fails. -/
def State.wayFails (s : State) (slice way : Nat) : State :=
  { s with llc := { s.llc with failing := tset 0 s.llc.failing slice (tget 0 s.llc.failing slice ||| BitVec.twoPow 16 way) } }

theorem State.failWay_eq (s : State) (slice way : Nat) : s.failWay slice way =
    if (tget (0 : BitVec 16) s.llc.failing slice).getLsbD way || (tget (0 : BitVec 16) s.llc.retired slice).getLsbD way then s
    else (s.wayFails slice way).recordFail 4 (17 * slice + if tget none s.llc.spareFor slice = some way then 16 else way) := rfl

theorem wayRetire_records {k : SliceId} {way : Fin 16}
    (ho : ((tget (0 : BitVec 16) s.llc.failing k.val).getLsbD way || (tget (0 : BitVec 16) s.llc.retired k.val).getLsbD way) = false)
    (hroom : s.failures.length < 1024) : ∃ t, exec (.llcWayRetire k way) s = .next t ∧
      tget 0 t.llc.failing k.val = tget 0 s.llc.failing k.val ||| BitVec.twoPow 16 way.val ∧
      (4, 17 * k.val + if tget none s.llc.spareFor k.val = some way.val then 16 else way.val) ∈ t.failures ∧
      { t with llc := s.llc, failures := s.failures } = s ∧ t.llc.lines = s.llc.lines := by
  have hex : exec (.llcWayRetire k way) s = .next _ := congrArg Host.Outcome.next ((s.failWay_eq k.val way.val).trans
    (if_neg (by rw [ho]; decide)))
  generalize 17 * k.val + (if tget none s.llc.spareFor k.val = some way.val then 16 else way.val) = item at hex ⊢
  obtain ⟨hmem, hframe⟩ := State.recordFail_room (s := s.wayFails k.val way.val) 4 item hroom
  have hllc := congrArg State.llc hframe
  have hself : tget 0 (s.wayFails k.val way.val).llc.failing k.val = tget 0 s.llc.failing k.val ||| BitVec.twoPow 16 way.val :=
    tget_tset_self _ _ _ _
  generalize (s.wayFails k.val way.val).recordFail 4 item = t at hex hmem hframe hllc
  have hfail := congrArg (fun l : Llc => tget 0 l.failing k.val) hllc
  have hlines := congrArg Llc.lines hllc
  have hrest := congrArg (fun u : State => { u with llc := s.llc, failures := s.failures }) hframe
  exact ⟨t, hex, hfail.trans hself, hmem, hrest, hlines⟩

/-! ### Telltales -/

/-- The state in which a yard's guard rises by 5 mV. -/
def State.guardRaised (s : State) (y : YardId) : State :=
  s.setYard y { s.yard y with guard := min ((s.yard y).guard + 5) (60 - (s.yard y).off).toNat }

theorem guardRaise (y : YardId) (h : (s.yard y).off + (s.yard y).guard < 60) : ∃ t, exec (.telltaleGuardRaise y false) s = .next t ∧
    t.yard y = { s.yard y with guard := min ((s.yard y).guard + 5) (60 - (s.yard y).off).toNat } ∧
    (t.yard y).off + (t.yard y).guard ≤ 60 ∧ t.evt.pend.getLsbD (1024 + 4 * y.val + 3) = true ∧ (t.reg ageStat).getLsbD 2 = true ∧
    t.cores = s.cores := by
  have hex : exec (.telltaleGuardRaise y false) s = .next (((s.guardRaised y).ageBit 2).yardEvent y 3) := if_pos h
  have hyard : ((s.guardRaised y).ageBit 2).yard y =
      { s.yard y with guard := min ((s.yard y).guard + 5) (60 - (s.yard y).off).toNat } := s.yard_setYard_self y.val _
  have hbit : (((s.guardRaised y).ageBit 2).reg ageStat).getLsbD 2 = true := by
    unfold State.ageBit
    rw [State.reg_setReg_self, BitVec.getLsbD_or, BitVec.getLsbD_twoPow]
    simp
  have hcores : ((s.guardRaised y).ageBit 2).cores = s.cores := rfl
  have hpend := State.yardEvent_raised ((s.guardRaised y).ageBit 2) y (k := 3) (by decide)
  have hframe : ({ ((s.guardRaised y).ageBit 2).yardEvent y 3 with evt := ((s.guardRaised y).ageBit 2).evt } : State) =
      (s.guardRaised y).ageBit 2 := State.raiseSrc_frame _ _
  generalize ((s.guardRaised y).ageBit 2).yardEvent y 3 = t at hex hframe hpend
  generalize (s.guardRaised y).ageBit 2 = u at hframe hyard hbit hcores
  have hyards := congrArg State.yards hframe
  have hbar0 := congrArg State.bar0 hframe
  have hcores' := congrArg State.cores hframe
  have hty : t.yard y = u.yard y := State.yard_congr hyards y
  have htr : t.reg ageStat = u.reg ageStat := State.reg_congr hbar0 ageStat
  refine ⟨t, hex, hty.trans hyard, ?_, hpend, htr ▸ hbit, Eq.trans hcores' hcores⟩
  rw [hty, hyard]
  dsimp only
  omega

end

/-- Settles O52: margin plans by the sweep of every yard, scrubs by what each word of the range is left with. -/
theorem ageingScrubsAndRepairRegisters : Obligations.AgeingScrubsAndRepairRegisters := by
  unfold Obligations.AgeingScrubsAndRepairRegisters
  refine ⟨?_, ?_, ?_, ?_, ?_, ?_, ?_⟩
  · intro s y x k
    refine ⟨fun h => ?_, fun h => guardRaise y h, fun h => ⟨?_, ?_⟩⟩
    · have hdrop : (k.samples ++ [x.slack]).drop ((k.samples ++ [x.slack]).length - sampleCap) = k.samples ++ [x.slack] := by
        rw [List.length_append, List.length_singleton, show k.samples.length + 1 - sampleCap = 0 by omega, List.drop_zero]
      show Host.Outcome.next (s.setYard y { k with
        slack := x.slack, raw := x.raw, low := satTo 255 x.low, temp := x.temp, levels := x.levels
        samples := (k.samples ++ [x.slack]).drop ((k.samples ++ [x.slack]).length - sampleCap) }) = _
      rw [hdrop]
    · exact if_neg (Int.not_lt.2 h)
    · exact ⟨_, if_neg (Int.not_lt.2 h), fun j hj => s.markYard_down true y hj⟩
  · intro s i hi
    have hex : exec i s = .next (s.marginPlan false allYards) := by
      obtain rfl | ⟨rfl, hon⟩ := hi
      · rfl
      · exact congrArg Host.Outcome.next (if_pos hon)
    have hmem := (s.levels_marginPlan false allYards).mem
    refine ⟨_, hex, hmem, s.marginPlan_plans false allYards, fun y => ?_⟩
    intro k
    refine ⟨fun hk => State.marginPlan_kept y.isLt s false hk, fun c hs hr hc hf => ?_⟩
    obtain ⟨⟨h1, h2, h3⟩, h4⟩ := State.marginPlan_planned y.isLt s false hs hr hc hf
    exact ⟨h1, h2, h3, h4⟩
  · intro s hoff
    exact congrArg Host.Outcome.next (if_neg (by rw [hoff]; decide))
  · intro s w
    exact ⟨fun h => congrArg Host.Outcome.next (if_pos h), fun h => congrArg Host.Outcome.next (if_pos h)⟩
  · intro s nofix
    refine ⟨fun hb => ?_, fun h0 hb => ⟨fun ho => scrubGo_noRange h0 hb ho, fun ho => scrubGo_free h0 hb ho,
      fun g ho => scrubGo_bound h0 hb ho⟩⟩
    have hgo : s.scrubGo nofix = s := if_pos hb
    refine congrArg Host.Outcome.next ?_
    rw [hgo]
    exact ite_self _
  · intro s hs
    refine ⟨fun h => ?_, fun hb hr hw ⟨i, hi, hdown⟩ => ?_, fun hb hr hw hall => ?_⟩
    · refine (execScrubEnd_eq hs).trans (if_neg ?_)
      obtain h | h | h := h
      · simp [h]
      · rw [← Option.not_isNone] at h
        simp only [Bool.not_eq_true'] at h
        simp [h]
      · simp [h]
    · obtain ⟨t, hex, hmem, -, h1, h2, h3, h4, -⟩ := scrubEnd_ends hs hb hr hw
      have haddr : 4096 * (i + s.scrubBase / 4096) = s.scrubBase + 4096 * i := by
        have hbase := s.scrubBase_aligned
        omega
      rw [State.scrubbed_cut hi (by rw [haddr]; exact hdown)] at h4
      exact ⟨t, hex, hmem, h1, h2, h4, h3⟩
    · obtain ⟨t, hex, hmem, hgran, h1, h2, h3, h4, h5, h6⟩ := scrubEnd_ends hs hb hr hw
      have hwhole : s.scrubbed s.scrubBase s.scrubLen = (List.range (s.scrubLen / 4096)).map (· + s.scrubBase / 4096) := by
        refine State.scrubbed_whole fun i hi => ?_
        have hbase := s.scrubBase_aligned
        rw [show 4096 * (i + s.scrubBase / 4096) = s.scrubBase + 4096 * i by omega]
        exact hall i hi
      rw [hwhole] at h4 h5
      rw [List.length_map, List.length_range] at h5
      refine ⟨t, hex, hmem, hgran, h1, h2, ?_, h3, h5, fun w hue => ?_, fun i hi => ?_⟩
      · rw [h4, beq_self_eq_true]
        rfl
      · rw [h6]
        exact (s.scrubFold_cleans _ _ _).ue hue
      · intro w hfix hgr htile pos
        obtain ⟨c, o, hplace⟩ := htile
        have hbase := s.scrubBase_aligned
        have hlen := s.scrubLen_aligned
        have hw : w = 4096 * (i / 64 + s.scrubBase / 4096) + 64 * (i % 64) := by
          show s.scrubBase + 64 * i = _
          omega
        have hin : i / 64 + s.scrubBase / 4096 ∈ s.scrubbed s.scrubBase s.scrubLen := by
          rw [hwhole]
          exact List.mem_map.2 ⟨i / 64, List.mem_range.2 (by omega), rfl⟩
        generalize i / 64 + s.scrubBase / 4096 = g at hw hin
        have hgg : s.granAt (4096 * g) = .written := by
          have hsame : w / 4096 = 4096 * g / 4096 := by omega
          have hgr' := hgr
          unfold State.granAt at hgr' ⊢
          rwa [← hsame]
        rw [h6, hfix, hw]
        exact State.scrubFold_fixed hin (by omega) (hw ▸ hplace) hgg pos
  · intro s k way f out
    exact ⟨fun h => congrArg Host.Outcome.next ((s.failWay_eq k.val way.val).trans (if_pos h)), fun h hroom => wayRetire_records h hroom⟩

end Sys2Proof.Machine
end

section
/-! PROOFS. The governor and the thermal limits (R446 to R470): what a choice of yards, an emergency furl and the sensors change. -/

namespace Sys2Proof.Machine

-- One theorem at a time, as in the tests: the proofs together take too many threads.
set_option Elab.async false

section
variable {s t u : State} {x y : Nat} {ys : List Nat}

/-! ### Choosing the hottest yard -/

/-- The hottest so far of two. -/
def State.hotter (s : State) (m : Option Nat) (y : Nat) : Option Nat :=
  match m with
  | none => some y
  | some x => if (s.yard x).trusted < (s.yard y).trusted then some y else m

theorem State.hottestOf_eq (s : State) (ys : List Nat) : s.hottestOf ys = ys.foldl s.hotter none := rfl

theorem State.foldl_hotter (ys : List Nat) : ∀ m : Nat, ∃ x, ys.foldl s.hotter (some m) = some x ∧ (x = m ∨ x ∈ ys) ∧
    (s.yard m).trusted ≤ (s.yard x).trusted ∧ ∀ z ∈ ys, (s.yard z).trusted ≤ (s.yard x).trusted := by
  induction ys with
  | nil => exact fun m => ⟨m, rfl, .inl rfl, Nat.le_refl _, fun _ h => absurd h List.not_mem_nil⟩
  | cons y ys ih =>
    intro m
    rw [List.foldl_cons]
    by_cases h : (s.yard m).trusted < (s.yard y).trusted
    · have hstep : s.hotter (some m) y = some y := if_pos h
      obtain ⟨x, hx, hin, hm, hall⟩ := ih y
      refine ⟨x, by rw [hstep]; exact hx, .inr ?_, by omega, fun z hz => ?_⟩
      · obtain rfl | hin := hin
        · exact List.mem_cons_self
        · exact List.mem_cons_of_mem y hin
      · obtain rfl | hz := List.mem_cons.1 hz
        · exact hm
        · exact hall z hz
    · have hstep : s.hotter (some m) y = some m := if_neg h
      obtain ⟨x, hx, hin, hm, hall⟩ := ih m
      refine ⟨x, by rw [hstep]; exact hx, hin.imp_right (List.mem_cons_of_mem y), hm, fun z hz => ?_⟩
      obtain rfl | hz := List.mem_cons.1 hz
      · omega
      · exact hall z hz

/-- The hottest of some yards is one of them, and none is hotter. -/
theorem State.hottestOf_spec (h : s.hottestOf ys = some x) : x ∈ ys ∧ ∀ z ∈ ys, (s.yard z).trusted ≤ (s.yard x).trusted := by
  rw [State.hottestOf_eq] at h
  cases ys with
  | nil => cases h
  | cons y ys =>
    obtain ⟨x', hx, hin, hm, hall⟩ := State.foldl_hotter (s := s) ys y
    have heq : x' = x := Option.some.inj (hx.symm.trans h)
    subst heq
    refine ⟨?_, fun z hz => ?_⟩
    · obtain rfl | hin := hin
      · exact List.mem_cons_self
      · exact List.mem_cons_of_mem y hin
    · obtain rfl | hz := List.mem_cons.1 hz
      · exact hm
      · exact hall z hz

theorem State.hottestOf_some (h : x ∈ ys) : ∃ y, s.hottestOf ys = some y := by
  rw [State.hottestOf_eq]
  cases ys with
  | nil => cases h
  | cons z zs =>
    obtain ⟨x', hx, -⟩ := State.foldl_hotter (s := s) zs z
    exact ⟨x', hx⟩

/-! ### What the limits read -/

/-- Two states with the same caps, floors, coolant and rigs. -/
structure State.SameLimits (s t : State) : Prop where
  cap : t.pwr.cap = s.pwr.cap
  conv : t.pwr.conv = s.pwr.conv
  air : t.pwr.air = s.pwr.air
  floor : t.pwr.floor = s.pwr.floor
  newFloor : t.pwr.newFloor = s.pwr.newFloor
  cons : t.pwr.cons = s.pwr.cons
  therm : t.therm = s.therm
  bar0 : t.bar0 = s.bar0
  rigs : t.rigs = s.rigs

theorem State.SameLimits.capEff (h : s.SameLimits t) : t.capEff = s.capEff := by
  have hreg := State.reg_congr h.bar0
  unfold State.capEff State.coolLimit Pwr.limit Pwr.converters State.frated
  simp only [h.cap, h.conv, h.air, h.therm, hreg]

theorem State.SameLimits.target (h : s.SameLimits t) : t.target = s.target := by
  unfold State.target
  rw [h.cons, h.capEff]

theorem State.SameLimits.yardFloor (h : s.SameLimits t) (y : Nat) : t.yardFloor y = s.yardFloor y := by
  have hrig : t.rig = s.rig := funext fun r => State.rig_congr h.rigs r
  unfold State.yardFloor State.yardRigs State.ctlFloors
  rw [hrig, h.newFloor, h.floor]

theorem State.SameLimits.reefable (h : s.SameLimits t) (hl : (t.yard y).lvl = (s.yard y).lvl) : t.reefable y = s.reefable y := by
  have hrig : t.rig = s.rig := funext fun r => State.rig_congr h.rigs r
  unfold State.reefable State.yardBound State.powerFloor
  rw [hrig, hl, h.capEff, h.floor, h.yardFloor]

/-- A yard that may be reefed is one of the device's. -/
theorem State.lt_of_reefable (h : s.reefable y = true) : y < 256 := by
  obtain ⟨hbound, -⟩ := Bool.and_eq_true_iff.1 h
  obtain ⟨r, -, hr⟩ := List.any_eq_true.1 hbound
  by_contra hge
  have hzero : (s.rig r).cores.extractLsb' (16 * y) 16 = 0 := by
    apply BitVec.eq_of_getLsbD_eq
    intro i hi
    rw [BitVec.getLsbD_extractLsb', BitVec.getLsbD_of_ge _ _ (by omega), Bool.and_false]
    exact BitVec.getLsbD_zero.symm
  unfold Rig.inYard at hr
  rw [hzero] at hr
  simp at hr

/-! ### Reefing one yard -/

theorem State.levels_reefOne (s : State) (ys : List Nat) (share : Bool) : s.Levels (s.reefOne ys share) := by
  unfold State.reefOne
  split
  · exact s.levels_setLevel _ _ _ _
  · exact State.Levels.refl s

theorem State.reefOne_hottest (share : Bool) (h : s.hottestOf ys = some y) (hy : y < 256) :
    ((s.reefOne ys share).yard y).lvl = (s.yard y).lvl + 1 ∧ ∀ z, z ≠ y → (s.reefOne ys share).yard z = s.yard z := by
  have heq : s.reefOne ys share = s.setLevel (yardId y) ((s.yard y).lvl + 1) false (s.capCause share) := by
    unfold State.reefOne
    rw [h]
  rw [heq]
  constructor
  · have hself := s.setLevel_self (yardId y) ((s.yard y).lvl + 1) false (s.capCause share)
    rw [yardId_val hy] at hself
    rw [hself]
    rfl
  · exact fun z hz => s.setLevel_ne (by rw [yardId_val hy]; exact hz) _ _ _

theorem State.levels_raisePower (s : State) : s.Levels s.raisePower := by
  unfold State.raisePower
  split
  · exact (s.levels_setYard _ _).trans (State.levels_setLevel _ _ _ _ _)
  · exact State.Levels.refl s

/-! ### Sensors, duty and boosts -/

theorem State.pldmSet_frame (s : State) (id st : Nat) : ({ s.pldmSet id st with
    therm := { (s.pldmSet id st).therm with pldm := s.therm.pldm, events := s.therm.events } } : State) = s := by
  unfold State.pldmSet
  split <;> rfl

/-- The states of the sensors are their own. -/
theorem State.pldmSet_eq (s : State) (id st : Nat) : ∃ p e, s.pldmSet id st = { s with therm := { s.therm with pldm := p, events := e } } := by
  unfold State.pldmSet
  split
  · exact ⟨s.therm.pldm, s.therm.events, rfl⟩
  · exact ⟨_, _, rfl⟩

theorem State.pldmPower_eq (s : State) : ∃ p e, s.pldmPower = { s with therm := { s.therm with pldm := p, events := e } } := by
  unfold State.pldmPower
  dsimp only
  obtain ⟨p, e, h⟩ := s.pldmSet_eq 4 (warnState (decide (95 / 100 * s.capEff < (s.pwr.sample : Rat))) (decide (s.capEff < (s.pwr.mean10 : Rat))))
  rw [h]
  generalize warnState (decide (s.pwr.va < 550) || decide (620 < s.pwr.va)) (!s.pwr.feedA) = a
  generalize warnState (decide (s.pwr.vb < 550) || decide (620 < s.pwr.vb)) (!s.pwr.feedB) = b
  obtain ⟨p1, e1, h1⟩ := ({ s with therm := { s.therm with pldm := p, events := e } } : State).pldmSet_eq 7 a
  rw [h1]
  obtain ⟨p2, e2, h2⟩ := ({ s with therm := { s.therm with pldm := p1, events := e1 } } : State).pldmSet_eq 8 b
  exact ⟨p2, e2, h2⟩

theorem State.setDuty_frame (s : State) : ({ s.setDuty with tiles := s.tiles } : State) = s := by
  refine State.each_keeps s (fun t => ({ t with tiles := s.tiles } : State) = s) _ _ rfl fun t c h => ?_
  dsimp only
  split
  · split <;> exact h
  · split <;> exact h

theorem State.dropBoosts_after (s : State) : ({ s.dropBoosts with yards := s.yards } : State) = s ∧
    ∀ y, (s.dropBoosts.yard y).lvl = (s.yard y).lvl := by
  refine State.each_keeps s (fun t => ({ t with yards := s.yards } : State) = s ∧ ∀ y, (t.yard y).lvl = (s.yard y).lvl) _ _
    ⟨rfl, fun _ => rfl⟩ fun t n ⟨h1, h2⟩ => ?_
  split
  · refine ⟨h1, fun y => ?_⟩
    by_cases hy : y = n
    · subst hy
      rw [State.yard_setYard_self]
      exact h2 y
    · rw [State.yard_setYard_ne _ _ hy]
      exact h2 y
  · exact ⟨h1, h2⟩

/-- How an evaluation of the governor ends: levels, power, memory and cores stay. -/
theorem State.evaluated (s : State) : s.setDuty.dropBoosts.pldmPower.pwr = s.pwr ∧ s.setDuty.dropBoosts.pldmPower.mem = s.mem ∧
    s.setDuty.dropBoosts.pldmPower.cores = s.cores ∧ ∀ y, (s.setDuty.dropBoosts.pldmPower.yard y).lvl = (s.yard y).lvl := by
  have h1 := s.setDuty_frame
  generalize s.setDuty = t at h1 ⊢
  obtain ⟨h2, h3⟩ := t.dropBoosts_after
  generalize t.dropBoosts = u at h2 h3 ⊢
  obtain ⟨p, e, h4⟩ := u.pldmPower_eq
  rw [h4]
  have hpwr1 := congrArg State.pwr h1
  have hpwr2 := congrArg State.pwr h2
  have hmem1 := congrArg State.mem h1
  have hmem2 := congrArg State.mem h2
  have hcores1 := congrArg State.cores h1
  have hcores2 := congrArg State.cores h2
  have hyards1 := congrArg State.yards h1
  exact ⟨Eq.trans hpwr2 hpwr1, Eq.trans hmem2 hmem1, Eq.trans hcores2 hcores1, fun y => (h3 y).trans
    (congrArg Yard.lvl (State.yard_congr hyards1 y))⟩

/-! ### Emergency furl -/

theorem State.pauseBanks_frame (s : State) (pause : Bool) : ({ s.pauseBanks pause with banks := s.banks } : State) = s := by
  refine State.each_keeps s (fun t => ({ t with banks := s.banks } : State) = s) _ _ rfl fun t i h => ?_
  dsimp only
  split
  · split <;> exact h
  · split <;> exact h

theorem State.pauseBanks_kept (s : State) (pause : Bool) : (s.pauseBanks pause).therm = s.therm ∧ (s.pauseBanks pause).yards = s.yards ∧
    (s.pauseBanks pause).mem = s.mem ∧ (s.pauseBanks pause).pwr = s.pwr := by
  have h := s.pauseBanks_frame pause
  generalize s.pauseBanks pause = t at h ⊢
  have htherm := congrArg State.therm h
  have hyards := congrArg State.yards h
  have hmem := congrArg State.mem h
  have hpwr := congrArg State.pwr h
  exact ⟨htherm, hyards, hmem, hpwr⟩

/-- Every yard furled in the off form. -/
def State.allFurled (s : State) : State := s.each allYards fun s y => s.furlOff y 8

/-- The state in which an emergency is kept. -/
def State.inEmergency (s : State) : State := { s with pwr := { s.pwr with emerg := true }, therm := s.therm.keep }

/-- What an emergency keeps of its state's power and thermal parts. -/
theorem State.inEmergency_parts (s : State) : s.inEmergency.pwr.emerg = true ∧ s.inEmergency.yards = s.yards ∧ s.inEmergency.mem = s.mem ∧
    s.inEmergency.therm.pulses = s.therm.pulses ∧ s.inEmergency.therm.inf = s.therm.inf ∧ s.inEmergency.therm.flow = s.therm.flow :=
  ⟨rfl, rfl, rfl, rfl, rfl, rfl⟩

theorem State.emergency_eq (s : State) : s.emergency = ((s.allFurled.pauseBanks true).inEmergency).raiseSrc 3 := by
  unfold State.emergency State.allFurled State.inEmergency
  generalize allYards = ys
  rfl

theorem State.levels_allFurled (s : State) : s.Levels s.allFurled :=
  State.each_keeps s s.Levels _ _ (State.Levels.refl s) fun t y h => h.trans (t.levels_furlOff y 8)

theorem State.allFurled_yard (s : State) (hy : y < 256) : s.allFurled.yard y = (s.yard y).atLevel 7 false 8 := by
  unfold State.allFurled
  exact s.each_furlOff 8 hy

/-- What a change of levels keeps of the temperatures and the coolant. -/
theorem State.Levels.therm (h : s.Levels t) : t.therm.pulses = s.therm.pulses ∧ t.therm.inf = s.therm.inf ∧ t.therm.flow = s.therm.flow ∧
    t.therm.tin = s.therm.tin ∧ t.therm.tout = s.therm.tout ∧ t.therm.n = s.therm.n := by
  have hpulses := congrArg (fun v : State => v.therm.pulses) h.frame
  have hinf := congrArg (fun v : State => v.therm.inf) h.frame
  have hflow := congrArg (fun v : State => v.therm.flow) h.frame
  have htin := congrArg (fun v : State => v.therm.tin) h.frame
  have htout := congrArg (fun v : State => v.therm.tout) h.frame
  have hn := congrArg (fun v : State => v.therm.n) h.frame
  exact ⟨hpulses, hinf, hflow, htin, htout, hn⟩

/-- The end of an emergency: its mark and its source. -/
theorem State.inEmergency_raised (s : State) : (s.inEmergency.raiseSrc 3).pwr.emerg = true ∧
    (s.inEmergency.raiseSrc 3).evt.pend.getLsbD 3 = true ∧ (s.inEmergency.raiseSrc 3).yards = s.yards ∧
    (s.inEmergency.raiseSrc 3).mem = s.mem ∧ (s.inEmergency.raiseSrc 3).therm.pulses = s.therm.pulses ∧
    (s.inEmergency.raiseSrc 3).therm.inf = s.therm.inf ∧ (s.inEmergency.raiseSrc 3).therm.flow = s.therm.flow := by
  obtain ⟨hemerg, hyards, hmem, hpulses, hinf, hflow⟩ := s.inEmergency_parts
  generalize s.inEmergency = w at hemerg hyards hmem hpulses hinf hflow ⊢
  have hpend := State.low_raised w (n := 3) (by decide)
  have hraise := w.raiseSrc_frame 3
  generalize w.raiseSrc 3 = v at hraise hpend ⊢
  have hpwrv : v.pwr = w.pwr := by
    have h := congrArg State.pwr hraise
    exact h
  have hthermv : v.therm = w.therm := by
    have h := congrArg State.therm hraise
    exact h
  have hyardv : v.yards = w.yards := by
    have h := congrArg State.yards hraise
    exact h
  have hmemv : v.mem = w.mem := by
    have h := congrArg State.mem hraise
    exact h
  rw [hpwrv, hthermv, hyardv, hmemv]
  exact ⟨hemerg, hpend, hyards, hmem, hpulses, hinf, hflow⟩

/-- An emergency furls every yard and raises its source. -/
theorem State.emergency_after (s : State) : s.emergency.pwr.emerg = true ∧ s.emergency.evt.pend.getLsbD 3 = true ∧
    (∀ y, y < 256 → (s.emergency.yard y).lvl = 7 ∧ (s.emergency.yard y).held = false) ∧ s.emergency.mem = s.mem ∧
    s.emergency.therm.pulses = s.therm.pulses ∧ s.emergency.therm.inf = s.therm.inf ∧ s.emergency.therm.flow = s.therm.flow := by
  have hfurl (y : Nat) (hy : y < 256) := s.allFurled_yard hy
  have hlevels := s.levels_allFurled
  rw [State.emergency_eq]
  generalize s.allFurled = t at hfurl hlevels ⊢
  obtain ⟨hpulset, hinft, hflowt, -, -, -⟩ := hlevels.therm
  have hmemt : t.mem = s.mem := hlevels.mem
  obtain ⟨hthermu, hyardu, hmemu, -⟩ := t.pauseBanks_kept true
  generalize t.pauseBanks true = u at hthermu hyardu hmemu ⊢
  obtain ⟨hemerg, hpend, hyards, hmem, hpulses, hinf, hflow⟩ := u.inEmergency_raised
  generalize u.inEmergency.raiseSrc 3 = v at hemerg hpend hyards hmem hpulses hinf hflow ⊢
  have hyard (y : Nat) : v.yard y = t.yard y := State.yard_congr (hyards.trans hyardu) y
  refine ⟨hemerg, hpend, fun y hy => ?_, hmem.trans (hmemu.trans hmemt), ?_, ?_, ?_⟩
  · rw [hyard, hfurl y hy]
    exact ⟨rfl, rfl⟩
  · rw [hpulses, hthermu, hpulset]
  · rw [hinf, hthermu, hinft]
  · rw [hflow, hthermu, hflowt]

end

end Sys2Proof.Machine
end

section
/-! PROOFS. Evaluations of the governor and furls by duty cycle (R454, R455, R469): what they keep and which yard they reef. -/

namespace Sys2Proof.Machine

-- One theorem at a time, as in the tests: the proofs together take too many threads.
set_option Elab.async false

section
variable {s t : State} {y : Nat}

/-! ### Tables in canonical form -/

/-- The value a table in canonical form gives at the key of one of its entries. -/
theorem tget_of_mem {α : Type} [DecidableEq α] {d : α} {t : Tab α} {e : Nat × α} (hw : tabWf d t = true) (he : e ∈ t) : tget d t e.1 = e.2 := by
  obtain ⟨hp, -⟩ := (tabWfFrom_iff t).1 hw
  clear hw
  induction t with
  | nil => cases he
  | cons a t ih =>
    obtain ⟨hlt, hp⟩ := List.pairwise_cons.1 hp
    obtain rfl | he := List.mem_cons.1 he
    · exact if_pos rfl
    · have hne : a.1 ≠ e.1 := Nat.ne_of_lt (hlt e he)
      exact (if_neg hne).trans (ih he hp)

/-! ### The history of an evaluation -/

/-- Every yard remembers an evaluation. -/
def State.pushAll (s : State) : State := s.each (s.yards.map (·.1)) fun s y => s.setYard y (s.yard y).push

theorem Yard.push_hist (k : Yard) : k.push.hist ≠ [] := by
  intro h
  have hlen := congrArg List.length h
  simp [Yard.push] at hlen
  omega

theorem Yard.push_ne (k : Yard) : k.push ≠ {} := fun h => k.push_hist (congrArg Yard.hist h)

/-- What remembering an evaluation keeps. -/
theorem State.pushAll_after (s : State) : ({ s.pushAll with yards := s.yards } : State) = s ∧ ∀ y, (s.pushAll.yard y).lvl = (s.yard y).lvl ∧
    (s.pushAll.yard y).trusted = (s.yard y).trusted ∧ (s.yard y ≠ {} → s.pushAll.yard y ≠ {}) := by
  refine State.each_keeps s (fun t => ({ t with yards := s.yards } : State) = s ∧ ∀ y, (t.yard y).lvl = (s.yard y).lvl ∧
    (t.yard y).trusted = (s.yard y).trusted ∧ (s.yard y ≠ {} → t.yard y ≠ {})) _ _ ⟨rfl, fun _ => ⟨rfl, rfl, id⟩⟩ fun t n ⟨h1, h2⟩ => ⟨h1, fun y => ?_⟩
  by_cases hy : y = n
  · subst hy
    rw [State.yard_setYard_self]
    exact ⟨(h2 y).1, (h2 y).2.1, fun _ => Yard.push_ne _⟩
  · rw [State.yard_setYard_ne _ _ hy]
    exact h2 y

/-- With less than 20 evaluations remembered, no loss of coolant is seen. -/
theorem State.suddenLoss_short (hw : tabWf {} s.yards = true) (hh : ∀ y, (s.yard y).hist.length < 20) : s.suddenLoss = s.pushAll := by
  have hnone : s.yards.filter (fun e => e.2.lossSign) = [] := by
    refine List.filter_eq_nil_iff.2 fun e he hloss => ?_
    have hlen : e.2.hist.length < 20 := by
      rw [← tget_of_mem hw he]
      exact hh e.1
    unfold Yard.lossSign at hloss
    split at hloss
    · simp at hloss
      omega
    · cases hloss
  unfold State.suddenLoss State.pushAll
  rw [hnone]
  rfl

/-! ### What a change of levels keeps of the power -/

theorem State.Levels.pwr (h : s.Levels t) : t.pwr.mean1 = s.pwr.mean1 ∧ t.pwr.sample = s.pwr.sample ∧ t.pwr.va = s.pwr.va ∧ t.pwr.ev = s.pwr.ev ∧
    t.pwr.emerg = s.pwr.emerg ∧ t.cores = s.cores := by
  have hmean := congrArg (fun v : State => v.pwr.mean1) h.frame
  have hsample := congrArg (fun v : State => v.pwr.sample) h.frame
  have hva := congrArg (fun v : State => v.pwr.va) h.frame
  have hev := congrArg (fun v : State => v.pwr.ev) h.frame
  have hemerg := congrArg (fun v : State => v.pwr.emerg) h.frame
  have hcores := congrArg State.cores h.frame
  exact ⟨hmean, hsample, hva, hev, hemerg, hcores⟩

/-! ### The action of an evaluation -/

/-- The level change of an evaluation without figures of rigs. -/
def State.govern (s : State) (mean : Nat) : State :=
  if s.pwr.emerg then s
  else if s.target < (mean : Rat) then s.reefPower []
  else if (mean : Rat) < 97 / 100 * s.target then s.raisePower
  else s

theorem State.reefPower_nil (s : State) : s.reefPower [] = s.reefOne ((s.yards.map (·.1)).filter s.reefable) false := rfl

theorem State.levels_govern (s : State) (mean : Nat) : s.Levels (s.govern mean) := by
  unfold State.govern
  split
  · exact State.Levels.refl s
  · split
    · rw [State.reefPower_nil]
      exact s.levels_reefOne _ _
    · split
      · exact s.levels_raisePower
      · exact State.Levels.refl s

theorem State.govern_within {mean : Nat} (h : s.pwr.emerg = true ∨ (97 / 100 * s.target ≤ (mean : Rat) ∧ (mean : Rat) ≤ s.target)) :
    s.govern mean = s := by
  unfold State.govern
  obtain h | ⟨h1, h2⟩ := h
  · exact if_pos h
  · rw [if_neg (not_lt.2 h2), if_neg (not_lt.2 h1), ite_self]

/-- Above the target the hottest yard that may be reefed drops one level. -/
theorem State.govern_above {mean : Nat} (hemerg : s.pwr.emerg = false) (h : s.target < (mean : Rat)) {x : Nat} (hx : s.yard x ≠ {})
    (hr : s.reefable x = true) : ∃ y, s.reefable y = true ∧ ((s.govern mean).yard y).lvl = (s.yard y).lvl + 1 ∧
      (∀ z, z ≠ y → (s.govern mean).yard z = s.yard z) ∧
      ∀ z, s.yard z ≠ {} → s.reefable z = true → (s.yard z).trusted ≤ (s.yard y).trusted := by
  have hmem {z : Nat} (hz : s.yard z ≠ {}) (hr : s.reefable z = true) : z ∈ (s.yards.map (·.1)).filter s.reefable :=
    List.mem_filter.2 ⟨mem_keys_of_tget_ne hz, hr⟩
  have heq : s.govern mean = s.reefOne ((s.yards.map (·.1)).filter s.reefable) false :=
    (if_neg (by rw [hemerg]; decide)).trans ((if_pos h).trans s.reefPower_nil)
  obtain ⟨y, hy⟩ := State.hottestOf_some (s := s) (hmem hx hr)
  obtain ⟨hin, hall⟩ := State.hottestOf_spec hy
  have hyr := (List.mem_filter.1 hin).2
  obtain ⟨hlvl, hne⟩ := State.reefOne_hottest false hy (State.lt_of_reefable hyr)
  rw [heq]
  exact ⟨y, hyr, hlvl, hne, fun z hz hr => hall z (hmem hz hr)⟩

/-! ### A whole evaluation -/

/-- An evaluation without figures of yards, rigs and paths, in a state that takes its telemetry. -/
theorem State.governorEvaluation_eq {x : Telemetry} (hy : x.yards = []) (hr : x.rigs = []) (hp : x.paths = []) (hg : s.governs = true) :
    execGovernorEvaluation x s = .next ((s.takeTelemetry x).suddenLoss.govern x.mean1).setDuty.dropBoosts.pldmPower := by
  have htake : (s.takeTelemetry x).governs = true := by
    unfold State.takeTelemetry
    rw [hy]
    exact hg
  unfold execGovernorEvaluation
  rw [hp, hr]
  generalize s.takeTelemetry x = t at htake ⊢
  have hpaths (v : State) : (if v.pwr.emerg = true then v else v.holdPaths []) = v := ite_self v
  refine (if_neg (by rw [htake]; decide)).trans ?_
  exact congrArg (fun v : State => Host.Outcome.next v.setDuty.dropBoosts.pldmPower) (hpaths (t.suddenLoss.govern x.mean1))

/-- What telemetry without figures of yards changes. -/
theorem State.takeTelemetry_after {x : Telemetry} (hy : x.yards = []) : s.SameLimits (s.takeTelemetry x) ∧
    (s.takeTelemetry x).pwr.mean1 = x.mean1 ∧ (s.takeTelemetry x).pwr.sample = x.sample ∧ (s.takeTelemetry x).pwr.va = x.va ∧
    (s.takeTelemetry x).pwr.ev = s.pwr.ev + 1 ∧ (s.takeTelemetry x).pwr.emerg = s.pwr.emerg ∧ (s.takeTelemetry x).mem = s.mem ∧
    (s.takeTelemetry x).cores = s.cores ∧ (s.takeTelemetry x).yards = s.yards := by
  unfold State.takeTelemetry
  rw [hy]
  exact ⟨⟨rfl, rfl, rfl, rfl, rfl, rfl, rfl, rfl, rfl⟩, rfl, rfl, rfl, rfl, rfl, rfl, rfl, rfl⟩

/-! ### Furls by duty cycle -/

theorem State.rigYards_nodup (s : State) (r : Nat) : (s.rigYards r).Nodup := List.Nodup.filter _ List.nodup_range

theorem State.lt_of_rigYards {r : Nat} (h : y ∈ s.rigYards r) : y < 256 := List.mem_range.1 (List.mem_filter.1 h).1

/-- A sweep that sets the level of every yard it visits. -/
theorem State.each_setLevel {ys : List Nat} (hn : ys.Nodup) (hlt : ∀ z ∈ ys, z < 256) (hy : y ∈ ys) (s : State) (lvl : Nat) (held : Bool)
    (cause : Nat) : ((s.each ys fun s y => s.setLevel (yardId y) lvl held cause).yard y).lvl = lvl ∧
      ((s.each ys fun s y => s.setLevel (yardId y) lvl held cause).yard y).held = (held && decide (lvl = 7)) := by
  refine State.each_visit (P := fun _ => True) (Q := fun t => (t.yard y).lvl = lvl ∧ (t.yard y).held = (held && decide (lvl = 7))) hn hy
    (fun _ _ _ _ _ => trivial) (fun t _ => ?_) (fun t i hi hne ht => ?_) s trivial
  · have hself := t.setLevel_self (yardId y) lvl held cause
    rw [yardId_val (hlt y hy)] at hself
    rw [hself]
    exact ⟨rfl, rfl⟩
  · rwa [t.setLevel_ne (by rw [yardId_val (hlt i hi)]; exact Ne.symm hne) lvl held cause]

end

end Sys2Proof.Machine
end

section
/-! PROOFS. Sensor samples, the model's estimates and the coolant (R461 to R473): what they keep and which yards they reef. -/

namespace Sys2Proof.Machine

-- One theorem at a time, as in the tests: the proofs together take too many threads.
set_option Elab.async false

section
variable {s t u : State} {y : Nat}

/-! ### What the actions on temperatures keep -/

/-- Two states with the same memory, sensor readings and emergency. -/
structure State.Tempers (s t : State) : Prop where
  mem : t.mem = s.mem
  tin : t.therm.tin = s.therm.tin
  tout : t.therm.tout = s.therm.tout
  n : t.therm.n = s.therm.n
  step : t.therm.step = s.therm.step
  hbm : t.therm.hbm = s.therm.hbm
  emerg : t.pwr.emerg = s.pwr.emerg

theorem State.Tempers.refl (s : State) : s.Tempers s := ⟨rfl, rfl, rfl, rfl, rfl, rfl, rfl⟩

theorem State.Tempers.trans (h : s.Tempers t) (h' : t.Tempers u) : s.Tempers u where
  mem := h'.mem.trans h.mem
  tin := h'.tin.trans h.tin
  tout := h'.tout.trans h.tout
  n := h'.n.trans h.n
  step := h'.step.trans h.step
  hbm := h'.hbm.trans h.hbm
  emerg := h'.emerg.trans h.emerg

theorem State.Levels.tempers (h : s.Levels t) : s.Tempers t where
  mem := h.mem
  tin := h.therm.2.2.2.1
  tout := h.therm.2.2.2.2.1
  n := h.therm.2.2.2.2.2
  step := by
    have hstep := congrArg (fun v : State => v.therm.step) h.frame
    exact hstep
  hbm := by
    have hhbm := congrArg (fun v : State => v.therm.hbm) h.frame
    exact hhbm
  emerg := h.pwr.2.2.2.2.1

theorem State.tempers_setTile (s : State) (c : Nat) (k : Tile) : s.Tempers (s.setTile c k) := ⟨rfl, rfl, rfl, rfl, rfl, rfl, rfl⟩

theorem State.tempers_limit (s : State) : s.Tempers { s with therm := { s.therm with limit := true } } := ⟨rfl, rfl, rfl, rfl, rfl, rfl, rfl⟩

theorem State.Tempers.ite {c : Prop} [Decidable c] (h : s.Tempers t) (h' : s.Tempers u) : s.Tempers (if c then t else u) := by
  split
  · exact h
  · exact h'

/-- The limit by temperature is marked where a condition holds. -/
def State.noteLimit (s : State) (b : Bool) : State := if b then { s with therm := { s.therm with limit := true } } else s

theorem State.tempers_noteLimit (s : State) (b : Bool) : s.Tempers (s.noteLimit b) := State.Tempers.ite s.tempers_limit (State.Tempers.refl s)

/-- The condition under which a yard is reefed for temperature. -/
def State.hotReefs (s : State) (below : Bool) (y : Nat) : Bool :=
  (s.yard y).lvl < (if below then 7 else min 6 (s.yardFloor y)) || (below && (s.yard y).lvl = 7 && (s.yard y).held)

/-- A yard one level lower for temperature. -/
def State.hotLevel (s : State) (y : Nat) : State := s.setLevel (yardId y) (min 7 ((s.yard y).lvl + 1)) false 3

theorem State.reefHot_eq (s : State) (below : Bool) (y : Nat) : s.reefHot below y =
    if s.hotReefs below y then (s.hotLevel y).noteLimit ((s.hotLevel y).isBelow y && !s.isBelow y) else s := by
  unfold State.reefHot State.noteLimit State.hotLevel State.hotReefs
  rfl

theorem State.tempers_reefHot (s : State) (below : Bool) (y : Nat) : s.Tempers (s.reefHot below y) := by
  rw [State.reefHot_eq]
  exact State.Tempers.ite ((s.levels_setLevel _ _ _ _).tempers.trans (State.tempers_noteLimit _ _)) (State.Tempers.refl s)

theorem State.tempers_lowerDl (s : State) (below : Bool) (c : Nat) : s.Tempers (s.lowerDl below c) :=
  State.Tempers.ite (s.tempers_setTile c _) (State.Tempers.refl s)

theorem State.tempers_coolTiles (s : State) (below : Bool) (y : Nat) : s.Tempers (s.coolTiles below y) := by
  have h : s.Tempers (s.each ((List.range 16).map (· + 16 * y)) fun s c => s.lowerDl below c) :=
    State.each_keeps s s.Tempers _ _ (State.Tempers.refl s) fun t c h => h.trans (t.tempers_lowerDl below c)
  unfold State.coolTiles
  dsimp only
  refine State.Tempers.trans ?_ (State.levels_noteBelow _ _ _).tempers
  split
  · exact h.trans (State.tempers_limit _)
  · exact h

/-- The duty limits of the tiles beneath a yard as their shares give them. -/
def State.topTiles (s : State) (y : Nat) : State :=
  s.each ((List.range 16).map (· + 16 * y)) fun s c => s.setTile c { s.tile c with dl := s.dlTop c }

theorem State.freeTiles_eq (s : State) (y : Nat) : s.freeTiles y = (s.topTiles y).noteBelow (yardId y) (s.isBelow y) := rfl

theorem State.topTiles_kept (s : State) (y : Nat) : s.Tempers (s.topTiles y) ∧ (s.topTiles y).yards = s.yards :=
  State.each_keeps s (fun t => s.Tempers t ∧ t.yards = s.yards) _ _ ⟨State.Tempers.refl s, rfl⟩
    fun t _ h => ⟨h.1.trans (t.tempers_setTile _ _), h.2⟩

theorem State.tempers_freeTiles (s : State) (y : Nat) : s.Tempers (s.freeTiles y) := by
  rw [State.freeTiles_eq]
  exact (s.topTiles_kept y).1.trans (State.levels_noteBelow _ _ _).tempers

theorem State.freeTiles_yards (s : State) (y : Nat) : (s.freeTiles y).yards = s.yards := by
  rw [State.freeTiles_eq]
  exact (State.noteBelow_yards _ _ _).trans (s.topTiles_kept y).2

/-! ### Watching a yard -/

/-- A yard has its flags and its tiles their duty. -/
def State.flagged (s : State) (y : Nat) : State :=
  if (s.yard y).tileHot && !(s.yard y).flags.tileHot then (s.setYard y (s.yard y).flags).freeTiles y else s.setYard y (s.yard y).flags

/-- A watched yard is flagged, and is warned of or not. -/
theorem State.watchYard_eq (s : State) (y : Nat) : s.watchYard y = s.flagged y ∨
    s.watchYard y = ((s.flagged y).setYard y { (s.flagged y).yard y with warned := some (s.flagged y).therm.n }).yardEvent y 1 := by
  unfold State.watchYard State.flagged
  dsimp only
  generalize (if (s.yard y).tileHot && !(s.yard y).flags.tileHot then (s.setYard y (s.yard y).flags).freeTiles y
    else s.setYard y (s.yard y).flags) = t
  split
  · split
    · exact .inr rfl
    · exact .inl rfl
  · split
    · exact .inr rfl
    · exact .inl rfl

theorem State.flagged_kept (s : State) (y : Nat) : s.Tempers (s.flagged y) ∧ (s.flagged y).yards = (s.setYard y (s.yard y).flags).yards := by
  have h := (s.levels_setYard y (s.yard y).flags).tempers
  unfold State.flagged
  split
  · exact ⟨h.trans (State.tempers_freeTiles _ y), State.freeTiles_yards _ y⟩
  · exact ⟨h, rfl⟩

theorem State.yardEvent_yards (s : State) (y k : Nat) : (s.yardEvent y k).yards = s.yards := by
  have h := congrArg State.yards (s.raiseSrc_frame (1024 + 4 * y + k))
  exact h

theorem State.tempers_watchYard (s : State) (y : Nat) : s.Tempers (s.watchYard y) := by
  have h := (s.flagged_kept y).1
  obtain he | he := s.watchYard_eq y
  · rwa [he]
  · rw [he]
    exact h.trans ((State.levels_setYard _ _ _).trans (State.levels_raiseSrc _ _)).tempers

/-- A watched yard is as its flags leave it, but for the time of its warning. -/
theorem State.watchYard_self (s : State) (y : Nat) : ∃ w, (s.watchYard y).yards = (s.setYard y { (s.yard y).flags with warned := w }).yards ∨
    (s.watchYard y).yards = ((s.setYard y (s.yard y).flags).setYard y { (s.yard y).flags with warned := w }).yards := by
  have h := (s.flagged_kept y).2
  have hyard : (s.flagged y).yard y = (s.yard y).flags := (State.yard_congr h y).trans (s.yard_setYard_self y _)
  obtain he | he := s.watchYard_eq y
  · rw [he]
    exact ⟨(s.yard y).flags.warned, .inl h⟩
  · rw [he, State.yardEvent_yards, hyard]
    refine ⟨some (s.flagged y).therm.n, .inr ?_⟩
    exact congrArg (fun t => tset ({} : Yard) t y { (s.yard y).flags with warned := some (s.flagged y).therm.n }) h

/-- Watching a yard changes no level. -/
theorem State.watchYard_lvl (s : State) (x y : Nat) : ((s.watchYard x).yard y).lvl = (s.yard y).lvl := by
  obtain ⟨w, hw | hw⟩ := s.watchYard_self x
  · rw [State.yard_congr hw]
    by_cases hy : y = x
    · subst hy
      rw [State.yard_setYard_self]
      rfl
    · rw [State.yard_setYard_ne _ _ hy]
  · rw [State.yard_congr hw]
    by_cases hy : y = x
    · subst hy
      rw [State.yard_setYard_self]
      rfl
    · rw [State.yard_setYard_ne _ _ hy, State.yard_setYard_ne _ _ hy]

/-! ### The sweeps of a sample -/

/-- Every yard is watched. -/
def State.watchAll (s : State) : State := s.each (s.yards.map (·.1)) State.watchYard

theorem State.watchAll_kept (s : State) : s.Tempers s.watchAll ∧ ∀ y, (s.watchAll.yard y).lvl = (s.yard y).lvl :=
  State.each_keeps s (fun t => s.Tempers t ∧ ∀ y, (t.yard y).lvl = (s.yard y).lvl) _ _ ⟨State.Tempers.refl s, fun _ => rfl⟩
    fun t x h => ⟨h.1.trans (t.tempers_watchYard x), fun y => (t.watchYard_lvl x y).trans (h.2 y)⟩

/-- Yards are reefed by their own temperature. -/
def State.reefJunctions (s : State) (ys : List Nat) : State :=
  s.each ys fun s y =>
    if 1050 ≤ (s.yard y).trusted then s.reefHot true y else if 1030 ≤ (s.yard y).trusted then s.reefHot false y else s

/-- Tiles lose duty, and yards are reefed, by the tiles' temperature. -/
def State.reefTiles (s : State) (ys : List Nat) : State :=
  s.each ys fun s y =>
    if 950 ≤ (s.yard y).tileTrusted then (s.coolTiles true y).reefHot true y else if 930 ≤ (s.yard y).tileTrusted then s.coolTiles false y else s

/-- A step die or a stack of a mast is at its limit. -/
def State.mastAtLimit (s : State) (m : Nat) : Bool :=
  1050 ≤ tget 0 s.therm.step m || 950 ≤ tget 0 s.therm.hbm (2 * m) || 950 ≤ tget 0 s.therm.hbm (2 * m + 1)

/-- The hottest yard of a mast is reefed where its step die or a stack of it is at its limit. -/
def State.reefMast (s : State) (m : Nat) : State :=
  match s.hottestOf ((mastYards m).filter fun y => (s.yard y).lvl < 7) with
  | some y => if s.mastAtLimit m then s.reefHot true y else s
  | none => s

theorem State.table174_eq (s : State) : s.table174 = ((s.reefJunctions (s.yards.map (·.1))).reefTiles (s.yards.map (·.1))).each (List.range 4)
    State.reefMast := by
  unfold State.table174 State.reefJunctions State.reefTiles
  generalize s.yards.map (·.1) = ys
  generalize List.range 4 = ms
  rfl

theorem State.tempers_reefJunctions (s : State) (ys : List Nat) : s.Tempers (s.reefJunctions ys) := by
  refine State.each_keeps s s.Tempers _ _ (State.Tempers.refl s) fun t y h => h.trans ?_
  split
  · exact t.tempers_reefHot true y
  · split
    · exact t.tempers_reefHot false y
    · exact State.Tempers.refl t

theorem State.tempers_reefTiles (s : State) (ys : List Nat) : s.Tempers (s.reefTiles ys) := by
  refine State.each_keeps s s.Tempers _ _ (State.Tempers.refl s) fun t y h => h.trans ?_
  split
  · exact (t.tempers_coolTiles true y).trans (State.tempers_reefHot _ true y)
  · split
    · exact t.tempers_coolTiles false y
    · exact State.Tempers.refl t

theorem State.tempers_reefMast (s : State) (m : Nat) : s.Tempers (s.reefMast m) := by
  unfold State.reefMast
  split
  · split
    · exact s.tempers_reefHot true _
    · exact State.Tempers.refl s
  · exact State.Tempers.refl s

theorem State.tempers_table174 (s : State) : s.Tempers s.table174 := by
  rw [State.table174_eq]
  exact ((s.tempers_reefJunctions _).trans (State.tempers_reefTiles _ _)).trans
    (State.each_keeps _ (State.Tempers _) _ _ (State.Tempers.refl _) fun t m h => h.trans (t.tempers_reefMast m))

theorem State.tempers_raiseCooled (s : State) : s.Tempers s.raiseCooled := by
  refine State.each_keeps s s.Tempers _ _ (State.Tempers.refl s) fun t y h => h.trans ?_
  dsimp only
  split
  · exact (t.levels_setLevel _ _ _ _).tempers
  · exact State.Tempers.refl t

/-- A sample follows the thermal cycles and the sensors' states. -/
def State.sampled (s : State) : State := ({ s with therm := s.therm.cycles s.hottest } : State).pldmTemps

theorem Therm.cycles_parts (k : Therm) (c : Nat) : (k.cycles c).tin = k.tin ∧ (k.cycles c).tout = k.tout ∧ (k.cycles c).n = k.n := by
  unfold Therm.cycles
  dsimp only
  split <;> exact ⟨rfl, rfl, rfl⟩

theorem State.pldmTemps_eq (s : State) : ∃ p e, s.pldmTemps = { s with therm := { s.therm with pldm := p, events := e } } := by
  unfold State.pldmTemps
  dsimp only
  generalize warnState (400 < s.therm.tin) (550 ≤ s.therm.tin) = a
  generalize warnState (700 < s.therm.tout) (800 < s.therm.tout) = b
  generalize warnState (10 * s.tjWarn ≤ s.hottest) (1050 ≤ s.hottest) = c
  generalize warnState (10 * s.tdWarn ≤ s.hottestTile) (950 ≤ s.hottestTile) = d
  obtain ⟨p1, e1, h1⟩ := s.pldmSet_eq 1 a
  rw [h1]
  obtain ⟨p2, e2, h2⟩ := ({ s with therm := { s.therm with pldm := p1, events := e1 } } : State).pldmSet_eq 2 b
  rw [h2]
  obtain ⟨p3, e3, h3⟩ := ({ s with therm := { s.therm with pldm := p2, events := e2 } } : State).pldmSet_eq 5 c
  rw [h3]
  obtain ⟨p4, e4, h4⟩ := ({ s with therm := { s.therm with pldm := p3, events := e3 } } : State).pldmSet_eq 6 d
  exact ⟨p4, e4, h4⟩

theorem State.sampled_kept (s : State) : s.sampled.mem = s.mem ∧ s.sampled.therm.tin = s.therm.tin ∧ s.sampled.therm.tout = s.therm.tout ∧
    s.sampled.therm.n = s.therm.n ∧ s.sampled.yards = s.yards := by
  unfold State.sampled
  obtain ⟨hin, hout, hn⟩ := s.therm.cycles_parts s.hottest
  generalize s.therm.cycles s.hottest = k at hin hout hn ⊢
  obtain ⟨p, e, h⟩ := ({ s with therm := k } : State).pldmTemps_eq
  rw [h]
  exact ⟨rfl, hin, hout, hn, rfl⟩

end

end Sys2Proof.Machine
end

section
/-! PROOFS. One hot yard, and the rules of the coolant (R465, R467 to R470). -/

namespace Sys2Proof.Machine

-- One theorem at a time, as in the tests: the proofs together take too many threads.
set_option Elab.async false

section
variable {s t u : State} {y c l : Nat} {k : Yard}

/-! ### Samples -/

/-- The readings of the yards of a sample. -/
def State.readYards (s : State) (xs : List YardTemp) : State :=
  xs.foldl (fun s e => s.setYard e.yard { s.yard e.yard with own := e.core, tileT := e.tile }) s

theorem State.readYards_after (s : State) (xs : List YardTemp) : ({ s.readYards xs with yards := s.yards } : State) = s ∧
    ∀ y, ((s.readYards xs).yard y).lvl = (s.yard y).lvl := by
  unfold State.readYards
  refine foldl_keeps (P := fun t : State => ({ t with yards := s.yards } : State) = s ∧ ∀ y, (t.yard y).lvl = (s.yard y).lvl)
    (f := fun s e => s.setYard e.yard { s.yard e.yard with own := e.core, tileT := e.tile })
    (fun t e ⟨h1, h2⟩ => ⟨h1, fun y => ?_⟩) xs s ⟨rfl, fun _ => rfl⟩
  by_cases hy : y = e.yard
  · subst hy
    rw [State.yard_setYard_self]
    exact h2 _
  · rw [State.yard_setYard_ne _ _ hy]
    exact h2 y

theorem State.readSensors_yards (s : State) (x : Sensors) : (s.readSensors x).yards = (s.readYards x.yards).yards := rfl

theorem State.readSensors_after (s : State) (x : Sensors) : (s.readSensors x).mem = s.mem ∧ (s.readSensors x).therm.tin = x.inlet ∧
    (s.readSensors x).therm.tout = x.outlet ∧ (s.readSensors x).therm.n = s.therm.n + 1 ∧ (s.readSensors x).pwr = s.pwr ∧
    (s.readSensors x).governs = s.governs ∧ ∀ y, ((s.readSensors x).yard y).lvl = (s.yard y).lvl := by
  obtain ⟨hframe, hlvl⟩ := s.readYards_after x.yards
  have hparts : (s.readSensors x).mem = (s.readYards x.yards).mem ∧ (s.readSensors x).therm.n = (s.readYards x.yards).therm.n + 1 ∧
      (s.readSensors x).pwr = (s.readYards x.yards).pwr ∧ (s.readSensors x).governs = (s.readYards x.yards).governs := ⟨rfl, rfl, rfl, rfl⟩
  obtain ⟨hmem, hn, hpwr, hgov⟩ := hparts
  rw [hmem, hn, hpwr, hgov]
  have hyards (y : Nat) : (s.readSensors x).yard y = (s.readYards x.yards).yard y := State.yard_congr (s.readSensors_yards x) y
  generalize s.readYards x.yards = t at hframe hlvl hyards ⊢
  have hmem' := congrArg State.mem hframe
  have htherm := congrArg (fun v : State => v.therm.n + 1) hframe
  have hpwr' := congrArg State.pwr hframe
  have hgov' := congrArg State.governs hframe
  exact ⟨hmem', rfl, rfl, htherm, hpwr', hgov', fun y => by rw [hyards, hlvl]⟩

/-- The actions of Table 17-4 where they are due. -/
def State.acted (s : State) : State := if s.therm.n % 5 = 0 && !s.pwr.emerg then s.table174 else s

/-- The releases of Table 17-4 where they are due. -/
def State.coolReleased (s : State) : State := if s.therm.n % 100 = 0 && !s.pwr.emerg then s.raiseCooled else s

theorem State.sensorSample_eq (x : Sensors) (h : s.governs = true) :
    execSensorSample x s = .next (s.readSensors x).watchAll.acted.coolReleased.sampled := by
  have hg := (s.readSensors_after x).2.2.2.2.2.1.trans h
  unfold execSensorSample
  generalize s.readSensors x = t at hg ⊢
  exact if_neg (by rw [hg]; decide)

theorem State.tempers_acted (s : State) : s.Tempers s.acted := State.Tempers.ite s.tempers_table174 (State.Tempers.refl s)

theorem State.tempers_coolReleased (s : State) : s.Tempers s.coolReleased := State.Tempers.ite s.tempers_raiseCooled (State.Tempers.refl s)

theorem State.acted_idle (h : s.therm.n % 5 ≠ 0) : s.acted = s := if_neg (by simp [h])

theorem State.coolReleased_idle (h : s.therm.n % 100 ≠ 0) : s.coolReleased = s := if_neg (by simp [h])

/-! ### One hot yard -/

/-- A device with one yard, without an estimate, at a temperature and a level, and its tiles cold. -/
def State.Lone (s : State) (y c l : Nat) (k : Yard) : Prop :=
  s.yards = [(y, k)] ∧ k.own = c ∧ k.hasModel = false ∧ k.tileT = 0 ∧ k.lvl = l

theorem State.Lone.yard (h : s.Lone y c l k) : s.yard y = k := by
  obtain ⟨h, -⟩ := h
  unfold State.yard
  rw [h]
  exact if_pos rfl

theorem State.Lone.keys (h : s.Lone y c l k) : s.yards.map (·.1) = [y] := by
  obtain ⟨h, -⟩ := h
  rw [h]
  rfl

theorem State.setYard_lone (h : s.yards = [(y, k)]) {k' : Yard} (hk : k'.own ≠ 0) : (s.setYard y k').yards = [(y, k')] := by
  have hne : k' ≠ {} := fun he => hk (congrArg Yard.own he)
  unfold State.setYard
  rw [h]
  refine (if_neg hne).trans ?_
  simp [tput]

/-- A hot yard is flagged. -/
theorem State.watchAll_lone (h : s.Lone y c l k) (hc : 1050 ≤ c) : ∃ k', s.watchAll.Lone y c l k' ∧ k'.hot = true := by
  have heq : s.watchAll = s.watchYard y := by
    unfold State.watchAll
    rw [h.keys]
    rfl
  have hyard := h.yard
  obtain ⟨hyards, hown, hmodel, htile, hlvl⟩ := h
  have hpos : k.flags.own ≠ 0 := by
    show k.own ≠ 0
    omega
  have hhot : k.flags.hot = true := by
    have htrusted : k.trusted = c := (if_neg (by rw [hmodel]; decide)).trans hown
    refine if_pos ?_
    omega
  obtain ⟨w, hw⟩ := s.watchYard_self y
  rw [hyard] at hw
  refine ⟨{ k.flags with warned := w }, ⟨?_, hown, hmodel, htile, hlvl⟩, hhot⟩
  rw [heq]
  obtain hw | hw := hw
  · exact hw.trans (State.setYard_lone hyards hpos)
  · exact hw.trans (State.setYard_lone (State.setYard_lone hyards hpos) hpos)

theorem State.noteLimit_yards (s : State) (b : Bool) : (s.noteLimit b).yards = s.yards := by
  unfold State.noteLimit
  split <;> rfl

/-- A hot yard that has a level left drops one. -/
theorem State.reefJunctions_lone (h : s.Lone y c l k) (hy : y < 256) (hc : 1050 ≤ c) (hl : l < 7) :
    (s.reefJunctions [y]).Lone y c (l + 1) (k.atLevel (l + 1) false 3) := by
  have hyard := h.yard
  obtain ⟨hyards, hown, hmodel, htile, hlvl⟩ := h
  have htrusted : 1050 ≤ (s.yard y).trusted := by
    rw [hyard, Yard.trusted, if_neg (by rw [hmodel]; decide)]
    omega
  have hreefs : s.hotReefs true y = true := by
    unfold State.hotReefs
    rw [hyard, hlvl]
    simp [hl]
  have heq : (s.reefJunctions [y]).yards = (s.hotLevel y).yards := by
    have hone : s.reefJunctions [y] = s.reefHot true y := if_pos htrusted
    rw [hone, State.reefHot_eq, if_pos hreefs]
    exact State.noteLimit_yards _ _
  have hset : (s.hotLevel y).yards = [(y, k.atLevel (l + 1) false 3)] := by
    unfold State.hotLevel
    rw [hyard, hlvl, Nat.min_eq_right (by omega : l + 1 ≤ 7), State.setLevel_yards, yardId_val hy, hyard]
    refine State.setYard_lone hyards ?_
    show k.own ≠ 0
    omega
  exact ⟨heq.trans hset, hown, hmodel, htile, rfl⟩

/-- Cold tiles change nothing. -/
theorem State.reefTiles_lone (h : s.Lone y c l k) : s.reefTiles [y] = s := by
  have hyard := h.yard
  obtain ⟨-, -, hmodel, htile, -⟩ := h
  have hcold : (s.yard y).tileTrusted = 0 := by
    rw [hyard, Yard.tileTrusted, if_neg (by rw [hmodel]; decide)]
    exact htile
  unfold State.reefTiles
  show (if 950 ≤ (s.yard y).tileTrusted then _ else if 930 ≤ (s.yard y).tileTrusted then _ else s) = s
  rw [hcold]
  exact (if_neg (by decide)).trans (if_neg (by decide))

/-- Cold step dies and stacks change nothing. -/
theorem State.reefMast_cold (hs : s.therm.step = []) (hb : s.therm.hbm = []) (m : Nat) : s.reefMast m = s := by
  have hcold : s.mastAtLimit m = false := by
    unfold State.mastAtLimit
    rw [hs, hb]
    rfl
  unfold State.reefMast
  rw [hcold]
  split <;> rfl

theorem State.table174_lone (h : s.Lone y c l k) (hy : y < 256) (hc : 1050 ≤ c) (hl : l < 7) (hs : s.therm.step = []) (hb : s.therm.hbm = []) :
    s.table174.Lone y c (l + 1) (k.atLevel (l + 1) false 3) := by
  have hreef := State.reefJunctions_lone h hy hc hl
  have hkept := s.tempers_reefJunctions [y]
  rw [State.table174_eq, h.keys]
  generalize s.reefJunctions [y] = t at hreef hkept ⊢
  have hmast (m : Nat) : t.reefMast m = t := State.reefMast_cold (hkept.step.trans hs) (hkept.hbm.trans hb) m
  rw [State.reefTiles_lone hreef]
  have hall : t.each (List.range 4) State.reefMast = t := List.foldl_fixed' hmast _
  rw [hall]
  exact hreef

/-! ### The coolant -/

/-- The marks of an evaluation of the coolant. -/
def State.coolMarked (s : State) (warn cut : Bool) (okFor : Nat) : State :=
  { s with therm := { s.therm with warn := warn, cut := cut, okFor := okFor } }

/-- Source 3 is raised where a mark is new. -/
def State.coolRaised (s : State) (new : Bool) : State := if new then s.raiseSrc 3 else s

/-- Two states with the same memory, yards, power and flow. -/
structure State.Flows (s t : State) : Prop where
  mem : t.mem = s.mem
  yards : t.yards = s.yards
  pwr : t.pwr = s.pwr
  pulses : t.therm.pulses = s.therm.pulses
  inf : t.therm.inf = s.therm.inf
  flow : t.therm.flow = s.therm.flow

theorem State.Flows.trans (h : s.Flows t) (h' : t.Flows u) : s.Flows u where
  mem := h'.mem.trans h.mem
  yards := h'.yards.trans h.yards
  pwr := h'.pwr.trans h.pwr
  pulses := h'.pulses.trans h.pulses
  inf := h'.inf.trans h.inf
  flow := h'.flow.trans h.flow

theorem State.flows_coolMarked (s : State) (warn cut : Bool) (okFor : Nat) : s.Flows (s.coolMarked warn cut okFor) :=
  ⟨rfl, rfl, rfl, rfl, rfl, rfl⟩

theorem State.flows_coolRaised (s : State) (new : Bool) : s.Flows (s.coolRaised new) := by
  unfold State.coolRaised
  split
  · have hframe := s.raiseSrc_frame 3
    generalize s.raiseSrc 3 = t at hframe ⊢
    have hmem := congrArg State.mem hframe
    have hyards := congrArg State.yards hframe
    have hpwr := congrArg State.pwr hframe
    have htherm : t.therm = s.therm := by
      have h := congrArg State.therm hframe
      exact h
    exact ⟨hmem, hyards, hpwr, congrArg Therm.pulses htherm, congrArg Therm.inf htherm, congrArg Therm.flow htherm⟩
  · exact ⟨rfl, rfl, rfl, rfl, rfl, rfl⟩

theorem State.flows_pldmSet (s : State) (id st : Nat) : s.Flows (s.pldmSet id st) := by
  obtain ⟨p, e, h⟩ := s.pldmSet_eq id st
  rw [h]
  exact ⟨rfl, rfl, rfl, rfl, rfl, rfl⟩

/-- The mark of a warm inlet. -/
def State.inletMarked (s : State) (tin : Nat) : State := { s with therm := { s.therm with inhot := 400 < tin } }

theorem State.flows_inletMarked (s : State) (tin : Nat) : s.Flows (s.inletMarked tin) := ⟨rfl, rfl, rfl, rfl, rfl, rfl⟩

theorem State.coolStates_flows (s : State) (tin : Nat) : ∃ v : State, s.Flows v ∧ s.coolStates tin = v.inletStates tin := by
  unfold State.coolStates
  dsimp only
  generalize decide (s.therm.flow < ((s.warnPct * s.frated : Nat) : Rat) / 100) = warn
  generalize decide (s.therm.flow < ((60 * s.frated : Nat) : Rat) / 100) = cut
  generalize (if ((s.warnPct * s.frated : Nat) : Rat) / 100 ≤ s.therm.inf then s.therm.okFor + 1 else 0) = okFor
  generalize (warn && !s.therm.warn || cut && !s.therm.cut) = new
  have hraised := (s.flows_coolMarked warn cut okFor).trans (State.flows_coolRaised _ new)
  exact ⟨((s.coolMarked warn cut okFor).coolRaised new).pldmSet 3
    (warnState warn (cut || ((s.coolMarked warn cut okFor).coolRaised new).pwr.emerg)), hraised.trans (State.flows_pldmSet _ 3 _), rfl⟩

theorem State.inletStates_cool {tin : Nat} (s : State) (h : tin < 550) : s.inletStates tin = s.inletMarked tin :=
  if_neg (by simp [h])

theorem State.inletStates_furled {tin : Nat} (h : s.pwr.emerg = true) : s.inletStates tin = s.inletMarked tin := by
  refine if_neg ?_
  show ¬ (decide (550 ≤ tin) && !s.pwr.emerg) = true
  rw [h]
  simp

theorem State.inletStates_hot {tin : Nat} (h : 550 ≤ tin) (he : s.pwr.emerg = false) : s.inletStates tin = (s.inletMarked tin).emergency := by
  refine if_pos ?_
  show (decide (550 ≤ tin) && !s.pwr.emerg) = true
  rw [he]
  simp [h]

/-- What the inlet's rules keep, and what a hot inlet does. -/
theorem State.inletStates_after (s : State) (tin : Nat) : (s.inletStates tin).mem = s.mem ∧
    (s.inletStates tin).therm.pulses = s.therm.pulses ∧ (s.inletStates tin).therm.inf = s.therm.inf ∧
    (s.inletStates tin).therm.flow = s.therm.flow ∧
    (tin < 550 → (s.inletStates tin).yards = s.yards ∧ (s.inletStates tin).pwr = s.pwr) ∧
    (550 ≤ tin → s.pwr.emerg = false → (s.inletStates tin).pwr.emerg = true ∧ (s.inletStates tin).evt.pend.getLsbD 3 = true ∧
      ∀ y, y < 256 → ((s.inletStates tin).yard y).lvl = 7 ∧ ((s.inletStates tin).yard y).held = false) := by
  have hmark := s.flows_inletMarked tin
  by_cases htin : tin < 550
  · rw [s.inletStates_cool htin]
    exact ⟨hmark.mem, hmark.pulses, hmark.inf, hmark.flow, fun _ => ⟨hmark.yards, hmark.pwr⟩, fun h => absurd h (by omega)⟩
  · cases he : s.pwr.emerg with
    | true =>
      rw [State.inletStates_furled he]
      exact ⟨hmark.mem, hmark.pulses, hmark.inf, hmark.flow, fun h => absurd h htin, fun _ h => nomatch h⟩
    | false =>
      rw [State.inletStates_hot (by omega) he]
      obtain ⟨hemerg, hpend, hyards, hmem, hpulses, hinf, hflow⟩ := (s.inletMarked tin).emergency_after
      exact ⟨hmem.trans hmark.mem, hpulses.trans hmark.pulses, hinf.trans hmark.inf, hflow.trans hmark.flow, fun h => absurd h htin,
        fun _ _ => ⟨hemerg, hpend, hyards⟩⟩

end

end Sys2Proof.Machine
end

section
/-! PROOFS. The fast guard, the governor, temperature and coolant: obligation O51 (R446, R453 to R470). -/

namespace Sys2Proof.Machine

-- One theorem at a time, as in the tests: the proofs together take too many threads.
set_option Elab.async false

section
variable {s : State} {y : Nat}

/-! ### The fast guard and the governor -/

theorem State.fastGuard_above {m : MastId} {est : Nat} (hph : s.boot.ph = 5) (hcons : s.pwr.cons = false) (hemerg : s.pwr.emerg = false)
    (habove : (min 3900 (s.capEff + 500) : Rat) < (est : Rat)) (hy : s.hottestOf ((mastYards m).filter s.reefable) = some y) :
    ∃ t, exec (.fastGuardEstimate m est) s = .next t ∧ (t.yard y).lvl = (s.yard y).lvl + 1 ∧ ∀ x, x ≠ y → t.yard x = s.yard x := by
  have hlim : s.SameLimits { s with pwr := { s.pwr with est := est } } := ⟨rfl, rfl, rfl, rfl, rfl, rfl, rfl, rfl, rfl⟩
  have hreef (x : Nat) : State.reefable { s with pwr := { s.pwr with est := est } } x = s.reefable x := hlim.reefable rfl
  have hcap := hlim.capEff
  have hlt : y < 256 := State.lt_of_reefable (List.mem_filter.1 (State.hottestOf_spec hy).1).2
  have hlist : (mastYards m).filter s.reefable = (mastYards m).filter (State.reefable { s with pwr := { s.pwr with est := est } }) :=
    List.filter_congr fun x _ => (hreef x).symm
  rw [hlist] at hy
  have hhot : State.hottestOf { s with pwr := { s.pwr with est := est } }
      ((mastYards m).filter (State.reefable { s with pwr := { s.pwr with est := est } })) = some y := hy
  obtain ⟨hlvl, hne⟩ := State.reefOne_hottest false hhot hlt
  have hc : ¬ (s.boot.ph ≠ 5 || s.pwr.cons || s.pwr.emerg ||
      !decide (min 3900 (State.capEff { s with pwr := { s.pwr with est := est } } + 500) < (est : Rat))) = true := by
    rw [hph, hcons, hemerg, hcap, decide_eq_true habove]
    decide
  exact ⟨_, if_neg hc, hlvl, hne⟩

theorem State.fastGuard_below {m : MastId} {est : Nat} (h : s.boot.ph ≠ 5 ∨ s.pwr.cons = true ∨ s.pwr.emerg = true ∨
    ¬ (min 3900 (s.capEff + 500) : Rat) < (est : Rat)) :
    exec (.fastGuardEstimate m est) s = .next { s with pwr := { s.pwr with est := est } } := by
  have hlim : s.SameLimits { s with pwr := { s.pwr with est := est } } := ⟨rfl, rfl, rfl, rfl, rfl, rfl, rfl, rfl, rfl⟩
  have hcap := hlim.capEff
  have hc : (s.boot.ph ≠ 5 || s.pwr.cons || s.pwr.emerg ||
      !decide (min 3900 (State.capEff { s with pwr := { s.pwr with est := est } } + 500) < (est : Rat))) = true := by
    rw [hcap]
    obtain h | h | h | h := h
    · simp [h]
    · simp [h]
    · simp [h]
    · rw [decide_eq_false h]
      exact Bool.or_true _
  exact if_pos hc

theorem State.governorEvaluation_after {x : Telemetry} (hw : tabWf {} s.yards = true) (hy : x.yards = []) (hr : x.rigs = []) (hp : x.paths = [])
    (hh : ∀ y, (s.yard y).hist.length < 20) :
    ∃ t, exec (.governorEvaluation x) s = .next t ∧ t.pwr.mean1 = x.mean1 ∧ t.pwr.sample = x.sample ∧ t.pwr.va = x.va ∧
      t.pwr.ev = s.pwr.ev + 1 ∧ t.mem = s.mem ∧ t.cores = s.cores ∧
      (s.governs = false ∨ s.pwr.emerg = true ∨ (97 / 100 * s.target ≤ (x.mean1 : Rat) ∧ (x.mean1 : Rat) ≤ s.target) →
        ∀ y, (t.yard y).lvl = (s.yard y).lvl) ∧
      (s.governs = true → s.pwr.emerg = false → s.target < (x.mean1 : Rat) → (∃ y, s.yard y ≠ {} ∧ s.reefable y = true) →
        ∃ y, s.reefable y = true ∧ (t.yard y).lvl = (s.yard y).lvl + 1 ∧ (∀ z, z ≠ y → (t.yard z).lvl = (s.yard z).lvl) ∧
          ∀ z, s.yard z ≠ {} → s.reefable z = true → (s.yard z).trusted ≤ (s.yard y).trusted) := by
  obtain ⟨hlim, hmean, hsample, hva, hev, hemerg, hmem, hcores, hyards⟩ := State.takeTelemetry_after (s := s) hy
  have hyard (y : Nat) : (s.takeTelemetry x).yard y = s.yard y := State.yard_congr hyards y
  cases hg : s.governs with
  | false =>
    refine ⟨s.takeTelemetry x, ?_, hmean, hsample, hva, hev, hmem, hcores, fun _ y => congrArg Yard.lvl (hyard y), fun h => nomatch h⟩
    have htake : (s.takeTelemetry x).governs = false := by
      unfold State.takeTelemetry
      rw [hy]
      exact hg
    refine if_pos ?_
    rw [htake]
    rfl
  | true =>
    refine ⟨_, State.governorEvaluation_eq hy hr hp hg, ?_⟩
    have hloss : (s.takeTelemetry x).suddenLoss = (s.takeTelemetry x).pushAll :=
      State.suddenLoss_short (by rw [hyards]; exact hw) fun y => by rw [hyard]; exact hh y
    rw [hloss]
    obtain ⟨hframe, hpush⟩ := (s.takeTelemetry x).pushAll_after
    generalize s.takeTelemetry x = a at hlim hmean hsample hva hev hemerg hmem hcores hyards hyard hframe hpush ⊢
    generalize a.pushAll = b at hframe hpush ⊢
    have hlimb : a.SameLimits b := by
      have hpwr : b.pwr = a.pwr := by
        have h := congrArg State.pwr hframe
        exact h
      have htherm := congrArg State.therm hframe
      have hbar := congrArg State.bar0 hframe
      have hrigs := congrArg State.rigs hframe
      exact ⟨congrArg Pwr.cap hpwr, congrArg Pwr.conv hpwr, congrArg Pwr.air hpwr, congrArg Pwr.floor hpwr, congrArg Pwr.newFloor hpwr,
        congrArg Pwr.cons hpwr, htherm, hbar, hrigs⟩
    have hpwrb : b.pwr = a.pwr := by
      have h := congrArg State.pwr hframe
      exact h
    have hmemb : b.mem = a.mem := by
      have h := congrArg State.mem hframe
      exact h
    have hcoresb : b.cores = a.cores := by
      have h := congrArg State.cores hframe
      exact h
    have htarget : b.target = s.target := hlimb.target.trans hlim.target
    have hlvlb (y : Nat) : (b.yard y).lvl = (s.yard y).lvl := (hpush y).1.trans (congrArg Yard.lvl (hyard y))
    have htrustb (y : Nat) : (b.yard y).trusted = (s.yard y).trusted := (hpush y).2.1.trans (congrArg Yard.trusted (hyard y))
    have hkeyb (y : Nat) (h : s.yard y ≠ {}) : b.yard y ≠ {} := (hpush y).2.2 (by rw [hyard]; exact h)
    have hreefb (y : Nat) : b.reefable y = s.reefable y :=
      (hlimb.reefable (hpush y).1).trans (hlim.reefable (congrArg Yard.lvl (hyard y)))
    have hemergb : b.pwr.emerg = s.pwr.emerg := by rw [hpwrb, hemerg]
    have hlevels := b.levels_govern x.mean1
    obtain ⟨hmeanc, hsamplec, hvac, hevc, -, hcoresc⟩ := hlevels.pwr
    have hmemc := hlevels.mem
    have hwithin := State.govern_within (s := b) (mean := x.mean1)
    have hgov := @State.govern_above b x.mean1
    generalize b.govern x.mean1 = c at hmeanc hsamplec hvac hevc hcoresc hmemc hwithin hgov ⊢
    obtain ⟨hpwrd, hmemd, hcoresd, hlvld⟩ := c.evaluated
    generalize c.setDuty.dropBoosts.pldmPower = d at hpwrd hmemd hcoresd hlvld ⊢
    refine ⟨?_, ?_, ?_, ?_, hmemd.trans (hmemc.trans (hmemb.trans hmem)), hcoresd.trans (hcoresc.trans (hcoresb.trans hcores)), fun h y => ?_,
      fun _ he ht ⟨z, hz, hzr⟩ => ?_⟩
    · rw [hpwrd, hmeanc, hpwrb, hmean]
    · rw [hpwrd, hsamplec, hpwrb, hsample]
    · rw [hpwrd, hvac, hpwrb, hva]
    · rw [hpwrd, hevc, hpwrb, hev]
    · have heq : c = b := hwithin (by
        obtain h | h | h := h
        · cases h
        · exact .inl (hemergb.trans h)
        · exact .inr (by rwa [htarget]))
      rw [hlvld, heq]
      exact hlvlb y
    · obtain ⟨y, hyr, hlvl, hne, hall⟩ := hgov (hemergb.trans he) (by rwa [htarget]) (hkeyb z hz) ((hreefb z).trans hzr)
      refine ⟨y, (hreefb y).symm.trans hyr, ?_, fun z hz => ?_, fun z hz hzr => ?_⟩
      · rw [hlvld, hlvl, hlvlb]
      · rw [hlvld, hne z hz]
        exact hlvlb z
      · have h := hall z (hkeyb z hz) ((hreefb z).trans hzr)
        rwa [htrustb, htrustb] at h

/-! ### Furls by duty cycle -/

/-- The mark of a rig whose yards furl by duty cycle. -/
theorem dutyBit_set (w : BitVec 64) (r : RigId) : (w ||| BitVec.twoPow 64 r.val).getLsbD r = true := by
  simp

theorem dutyBit_clear (w : BitVec 64) (r : RigId) : (w &&& ~~~(BitVec.twoPow 64 r.val)).getLsbD r = false := by
  simp

/-- The state with a word of the rigs that furl by duty cycle. -/
def State.withDuty (s : State) (w : BitVec 64) : State := { s with pwr := { s.pwr with duty := w } }

theorem State.withDuty_yard (s : State) (w : BitVec 64) (y : Nat) : (s.withDuty w).yard y = s.yard y := rfl

/-- Yards at level 7 in the held form. -/
def State.furlHeld (s : State) (ys : List Nat) : State := s.each ys fun s y => s.setLevel (yardId y) 7 true 7

/-- Yards that resume at level 6. -/
def State.resumed (s : State) (ys : List Nat) : State := s.each ys fun s y => s.setLevel (yardId y) 6 false 1

/-- The condition for a rig to furl by duty cycle. -/
def State.mayFurl (s : State) (ys : List Nat) : Bool := s.governs && ys ≠ [] && ys.all fun y => (s.yard y).lvl = 6

theorem State.dutyCycleFurl_true (s : State) (r : RigId) : execDutyCycleFurl r true s = if s.mayFurl (s.rigYards r) then
    .next ((s.furlHeld (s.rigYards r)).withDuty ((s.furlHeld (s.rigYards r)).pwr.duty ||| BitVec.twoPow 64 r.val)) else .next s := by
  unfold execDutyCycleFurl State.furlHeld State.mayFurl
  generalize s.rigYards r = ys
  rfl

theorem State.dutyCycleFurl_false (s : State) (r : RigId) : execDutyCycleFurl r false s =
    .next ((s.resumed ((s.rigYards r).filter fun y => (s.yard y).held && (s.yard y).cause = 7)).withDuty
      ((s.resumed ((s.rigYards r).filter fun y => (s.yard y).held && (s.yard y).cause = 7)).pwr.duty &&& ~~~(BitVec.twoPow 64 r.val))) := by
  unfold execDutyCycleFurl State.resumed
  generalize s.rigYards r = ys
  rfl

theorem State.dutyCycleFurl_begins {r : RigId} (hg : s.governs = true) (hne : s.rigYards r ≠ []) (hall : ∀ y ∈ s.rigYards r, (s.yard y).lvl = 6) :
    ∃ t, exec (.dutyCycleFurl r true) s = .next t ∧ t.pwr.duty.getLsbD r = true ∧
      ∀ y ∈ s.rigYards r, (t.yard y).lvl = 7 ∧ (t.yard y).held = true := by
  have hc : s.mayFurl (s.rigYards r) = true := by
    unfold State.mayFurl
    rw [hg, decide_eq_true hne, List.all_eq_true.2 fun y hy => decide_eq_true (hall y hy)]
    rfl
  refine ⟨_, (s.dutyCycleFurl_true r).trans (if_pos hc), dutyBit_set _ r, fun y hy => ?_⟩
  rw [State.withDuty_yard]
  exact State.each_setLevel (s.rigYards_nodup r) (fun _ => State.lt_of_rigYards) hy s 7 true 7

theorem State.dutyCycleFurl_refused {r : RigId} (h : s.governs = false ∨ s.rigYards r = [] ∨ ∃ y ∈ s.rigYards r, (s.yard y).lvl ≠ 6) :
    exec (.dutyCycleFurl r true) s = .next s := by
  refine (s.dutyCycleFurl_true r).trans (if_neg ?_)
  unfold State.mayFurl
  obtain h | h | ⟨y, hy, hl⟩ := h
  · simp [h]
  · simp [h]
  · intro hc
    have hall := (Bool.and_eq_true_iff.1 hc).2
    exact hl (of_decide_eq_true (List.all_eq_true.1 hall y hy))

theorem State.dutyCycleFurl_ends (r : RigId) : ∃ t, exec (.dutyCycleFurl r false) s = .next t ∧ t.pwr.duty.getLsbD r = false ∧
      ∀ y ∈ s.rigYards r, (s.yard y).held = true → (s.yard y).cause = 7 → (t.yard y).lvl = 6 := by
  refine ⟨_, s.dutyCycleFurl_false r, dutyBit_clear _ r, fun y hy hh hc => ?_⟩
  rw [State.withDuty_yard]
  exact (State.each_setLevel (List.Nodup.filter _ (s.rigYards_nodup r)) (fun z hz => State.lt_of_rigYards (List.mem_filter.1 hz).1)
    (List.mem_filter.2 ⟨hy, by rw [hh, hc]; rfl⟩) s 6 false 1).1

/-! ### Measured-only control -/

theorem State.consSet_after {d : Nat} (hd : 15 < d) (hc : s.pwr.cons = false) (hg : s.governs = true) :
    ∃ t, exec (.consSet d) s = .next t ∧ t.pwr.cons = true ∧ t.evt.pend.getLsbD 2 = true ∧ t.mem = s.mem := by
  refine ⟨_, if_neg (by rw [hc, hg]; simpa using hd), ?_⟩
  have hpend := State.low_raised { s with pwr := { s.pwr with cons := true, diff := satTo 255 d } } (n := 2) (by decide)
  have hraise := State.raiseSrc_frame { s with pwr := { s.pwr with cons := true, diff := satTo 255 d } } 2
  generalize State.raiseSrc { s with pwr := { s.pwr with cons := true, diff := satTo 255 d } } 2 = t at hpend hraise ⊢
  obtain ⟨hdrop, -⟩ := t.dropBoosts_after
  generalize t.dropBoosts = u at hdrop ⊢
  have hpwrt := congrArg (fun v : State => v.pwr.cons) hraise
  have hmemt := congrArg State.mem hraise
  have hpwru := congrArg (fun v : State => v.pwr.cons) hdrop
  have hevtu := congrArg (fun v : State => v.evt.pend.getLsbD 2) hdrop
  have hmemu := congrArg State.mem hdrop
  exact ⟨Eq.trans hpwru hpwrt, Eq.trans hevtu hpend, Eq.trans hmemu hmemt⟩

/-! ### Sensor samples -/

theorem State.sensorSample_after (s : State) (x : Sensors) : ∃ t, exec (.sensorSample x) s = .next t ∧ t.therm.tin = x.inlet ∧
    t.therm.tout = x.outlet ∧ t.therm.n = s.therm.n + 1 ∧ t.mem = s.mem ∧
    ((s.therm.n + 1) % 5 ≠ 0 → ∀ y, (t.yard y).lvl = (s.yard y).lvl) := by
  obtain ⟨hmem, hin, hout, hn, -, hgov, hlvl⟩ := s.readSensors_after x
  cases hg : s.governs with
  | false =>
    refine ⟨s.readSensors x, if_pos ?_, hin, hout, hn, hmem, fun _ => hlvl⟩
    rw [hgov, hg]
    rfl
  | true =>
    refine ⟨_, State.sensorSample_eq x hg, ?_⟩
    generalize s.readSensors x = a at hmem hin hout hn hlvl ⊢
    obtain ⟨hwatch, hwlvl⟩ := a.watchAll_kept
    generalize a.watchAll = b at hwatch hwlvl ⊢
    have hall := b.tempers_acted.trans (State.tempers_coolReleased b.acted)
    have hidle (h : b.therm.n % 5 ≠ 0) : b.acted.coolReleased = b := by
      rw [State.acted_idle h]
      exact State.coolReleased_idle (by omega)
    generalize b.acted.coolReleased = c at hall hidle ⊢
    obtain ⟨hmem', hin', hout', hn', hyards⟩ := c.sampled_kept
    have hkept := hwatch.trans hall
    refine ⟨hin'.trans (hkept.tin.trans hin), hout'.trans (hkept.tout.trans hout), hn'.trans (hkept.n.trans hn), hmem'.trans (hkept.mem.trans hmem),
      fun h y => ?_⟩
    have heq : c = b := hidle (by rw [hwatch.n, hn]; exact h)
    rw [State.yard_congr hyards, heq, hwlvl, hlvl]

/-- A hot yard is reefed at the next action. -/
theorem State.sensorSample_hot {x : Sensors} {y : YardId} {k : Yard} {c : Nat} (hg : s.governs = true) (he : s.pwr.emerg = false)
    (hy : s.yards = [(y.val, k)]) (hm : k.hasModel = false) (hl : k.lvl < 7) (hx : x = ⟨[⟨y, c, 0⟩], [], [], x.inlet, x.outlet, []⟩)
    (hc : 1050 ≤ c) (hs : s.therm.step = []) (hb : s.therm.hbm = []) (h5 : (s.therm.n + 1) % 5 = 0) (h100 : (s.therm.n + 1) % 100 ≠ 0) :
    ∃ t, exec (.sensorSample x) s = .next t ∧ (t.yard y).lvl = k.lvl + 1 ∧ (t.yard y).cause = 3 ∧ (t.yard y).hot = true := by
  have hyard : s.yard y = k := by
    unfold State.yard
    rw [hy]
    exact if_pos rfl
  have hlone : (s.readSensors x).Lone y c k.lvl { k with own := c, tileT := 0 } := by
    refine ⟨?_, rfl, hm, rfl, rfl⟩
    rw [State.readSensors_yards, hx]
    show (s.setYard y { s.yard y with own := c, tileT := 0 }).yards = _
    rw [hyard]
    refine State.setYard_lone hy ?_
    show c ≠ 0
    omega
  have hcold : (s.readSensors x).therm.step = [] ∧ (s.readSensors x).therm.hbm = [] := by
    rw [hx]
    exact ⟨hs, hb⟩
  obtain ⟨-, -, -, hn, hpwr, -, -⟩ := s.readSensors_after x
  refine ⟨_, State.sensorSample_eq x hg, ?_⟩
  generalize s.readSensors x = a at hlone hcold hn hpwr ⊢
  obtain ⟨hwatch, -⟩ := a.watchAll_kept
  obtain ⟨k', hlone', hhot⟩ := State.watchAll_lone hlone hc
  generalize a.watchAll = b at hwatch hlone' ⊢
  have htable := State.table174_lone hlone' y.isLt hc hl (hwatch.step.trans hcold.1) (hwatch.hbm.trans hcold.2)
  have hnb : b.therm.n = s.therm.n + 1 := hwatch.n.trans hn
  have heb : b.pwr.emerg = false := by rw [hwatch.emerg, hpwr, he]
  have hacted : b.acted = b.table174 := if_pos (by rw [hnb, heb, h5]; rfl)
  rw [hacted]
  have hkept := b.tempers_table174
  generalize b.table174 = d at htable hkept ⊢
  rw [State.coolReleased_idle (by rw [hkept.n, hnb]; exact h100)]
  have hsampled := (State.yard_congr d.sampled_kept.2.2.2.2 y).trans htable.yard
  rw [hsampled]
  exact ⟨rfl, rfl, hhot⟩

/-! ### The model's estimates -/

/-- A yard with an estimate. -/
def Yard.estimated (k : Yard) (c d : Nat) : Yard :=
  { k with
    model := c, tileM := d, hasModel := true, diff := suspect k.own c k.diff, tdiff := suspect k.tileT d k.tdiff
    susp := k.susp || 3 ≤ suspect k.own c k.diff, tsusp := k.tsusp || 3 ≤ suspect k.tileT d k.tdiff }

/-- An estimate makes a sensor suspect that was not. -/
def Yard.newlySuspect (k : Yard) (c d : Nat) : Bool :=
  (3 ≤ suspect k.own c k.diff && !k.susp) || (3 ≤ suspect k.tileT d k.tdiff && !k.tsusp)

theorem State.modelEvaluation_eq (s : State) (y : YardId) (c d : Nat) : exec (.modelEvaluation [⟨y, c, d⟩]) s =
    .next (if (s.yard y).newlySuspect c d then (s.setYard y ((s.yard y).estimated c d)).yardEvent y 1
      else s.setYard y ((s.yard y).estimated c d)) := by
  show execModelEvaluation [⟨y, c, d⟩] s = _
  unfold execModelEvaluation Yard.newlySuspect Yard.estimated
  rfl

theorem State.setYard_frame (s : State) (y : Nat) (k : Yard) : ({ s.setYard y k with yards := s.yards, evt := s.evt } : State) = s := by
  unfold State.setYard
  rfl

theorem State.modelEvaluation_after (s : State) (y : YardId) (c d : Nat) : ∃ t, exec (.modelEvaluation [⟨y, c, d⟩]) s = .next t ∧
    t.yard y = (s.yard y).estimated c d ∧ ({ t with yards := s.yards, evt := s.evt } : State) = s ∧
    ((s.yard y).newlySuspect c d = true → t.evt.pend.getLsbD (1024 + 4 * y.val + 1) = true) := by
  rw [State.modelEvaluation_eq]
  generalize (s.yard y).newlySuspect c d = new
  generalize (s.yard y).estimated c d = k
  have hself := s.yard_setYard_self y k
  cases new with
  | false => exact ⟨s.setYard y k, congrArg Host.Outcome.next (if_neg Bool.false_ne_true), hself, s.setYard_frame y k, fun h => nomatch h⟩
  | true =>
    have hpend := State.yardEvent_raised (s.setYard y k) y (k := 1) (by decide)
    have hyards := State.yardEvent_yards (s.setYard y k) y 1
    have hframe : ({ (s.setYard y k).yardEvent y 1 with evt := (s.setYard y k).evt } : State) = s.setYard y k :=
      State.raiseSrc_frame (s.setYard y k) (1024 + 4 * y.val + 1)
    have heq : (if true = true then (s.setYard y k).yardEvent y 1 else s.setYard y k) = (s.setYard y k).yardEvent y 1 := if_pos rfl
    have hevt : (s.setYard y k).evt = s.evt := rfl
    have hset := s.setYard_frame y k
    rw [heq]
    generalize s.setYard y k = u at hpend hyards hframe hself hevt hset ⊢
    generalize u.yardEvent y 1 = v at hpend hyards hframe ⊢
    refine ⟨v, rfl, (State.yard_congr hyards y).trans hself, ?_, fun _ => hpend⟩
    rw [hevt] at hframe
    have h := congrArg (fun v : State => ({ v with yards := s.yards, evt := s.evt } : State)) hframe
    exact Eq.trans h hset

/-! ### The coolant -/

/-- The state with the flow of an evaluation. -/
def State.flowed (s : State) (inf flow : Rat) (meter : Nat) (valid dis : Bool) : State :=
  { s with therm := { s.therm with
      inf := inf, flow := flow, flowm := meter, invalid := !valid, mdis := s.therm.mdis || dis, pulses := 0 } }

theorem State.flowInference_after {p tin tout : Nat} (hg : s.governs = true) (ha : s.pwr.air = false) :
    ∃ t, exec (.flowInference p tin tout) s = .next t ∧ t.mem = s.mem ∧ t.therm.pulses = 0 ∧
      (s.meterOn = false → 500 ≤ p → tin + 20 ≤ tout → t.therm.inf = inferFlow p (tout - tin) ∧ t.therm.flow = t.therm.inf) ∧
      (tin < 550 → t.yards = s.yards ∧ t.pwr = s.pwr) ∧
      (550 ≤ tin → s.pwr.emerg = false → t.pwr.emerg = true ∧ t.evt.pend.getLsbD 3 = true ∧
        ∀ y, y < 256 → (t.yard y).lvl = 7 ∧ (t.yard y).held = false) := by
  have heq : ∃ inf flow meter valid dis, execFlowInference p tin tout s = .next ((s.flowed inf flow meter valid dis).coolStates tin) ∧
      (s.meterOn = false → 500 ≤ p → tin + 20 ≤ tout → inf = inferFlow p (tout - tin) ∧ flow = inf) := by
    refine ⟨_, _, _, _, _, (if_neg (by rw [hg]; decide)).trans (if_neg (by rw [ha]; decide)), fun hm hp ht => ?_⟩
    rw [hm]
    exact ⟨if_pos (by simp [hp, ht]), rfl⟩
  obtain ⟨inf, flow, meter, valid, dis, heq, hflow⟩ := heq
  refine ⟨_, heq, ?_⟩
  have hparts : (s.flowed inf flow meter valid dis).mem = s.mem ∧ (s.flowed inf flow meter valid dis).yards = s.yards ∧
      (s.flowed inf flow meter valid dis).pwr = s.pwr ∧ (s.flowed inf flow meter valid dis).therm.pulses = 0 ∧
      (s.flowed inf flow meter valid dis).therm.inf = inf ∧ (s.flowed inf flow meter valid dis).therm.flow = flow := ⟨rfl, rfl, rfl, rfl, rfl, rfl⟩
  generalize s.flowed inf flow meter valid dis = a at hparts ⊢
  obtain ⟨hmem, hyards, hpwr, hpulses, hinf, hfl⟩ := hparts
  obtain ⟨v, hv, hcool⟩ := a.coolStates_flows tin
  obtain ⟨hmem', hpulses', hinf', hfl', hcold, hhot⟩ := v.inletStates_after tin
  rw [hcool]
  refine ⟨hmem'.trans (hv.mem.trans hmem), hpulses'.trans (hv.pulses.trans hpulses), fun hm hp ht => ?_, fun h => ?_, fun h he => ?_⟩
  · obtain ⟨h1, h2⟩ := hflow hm hp ht
    have hi := hinf'.trans (hv.inf.trans hinf)
    exact ⟨hi.trans h1, (hfl'.trans (hv.flow.trans hfl)).trans (h2.trans hi.symm)⟩
  · obtain ⟨h1, h2⟩ := hcold h
    exact ⟨h1.trans (hv.yards.trans hyards), h2.trans (hv.pwr.trans hpwr)⟩
  · exact hhot h (by rw [hv.pwr, hpwr, he])

theorem State.emergClear_after (he : s.pwr.emerg = true) (hh : s.hottest < 850) (ha : s.pwr.air = true ∨ 10 ≤ s.therm.okFor) :
    s.emergClear.pwr = { s.pwr with emerg := false } ∧ s.emergClear.mem = s.mem ∧ s.emergClear.yards = s.yards := by
  have heq : s.emergClear = State.pauseBanks { s with pwr := { s.pwr with emerg := false } } false := by
    refine if_pos ?_
    obtain ha | ha := ha
    · simp [he, hh, ha]
    · simp [he, hh, ha]
  rw [heq]
  obtain ⟨-, hyards, hmem, hpwr⟩ := State.pauseBanks_kept { s with pwr := { s.pwr with emerg := false } } false
  exact ⟨hpwr, hmem, hyards⟩

end

/-- Settles O51: a choice of the hottest yard, a relation for what the actions on temperatures keep, and the states of the coolant. -/
theorem governorTemperatureAndCoolant : Obligations.GovernorTemperatureAndCoolant := by
  unfold Obligations.GovernorTemperatureAndCoolant
  refine ⟨?_, ?_, ?_, ?_, ?_, ?_, ?_, ?_, ?_, ?_, ?_, ?_⟩
  · intro s m est
    exact ⟨State.fastGuard_below, fun y h1 h2 h3 h4 h5 => State.fastGuard_above h1 h2 h3 h4 h5⟩
  · intro s x hw hy hr hp hh
    exact State.governorEvaluation_after hw hy hr hp hh
  · intro s r
    exact ⟨State.dutyCycleFurl_begins, State.dutyCycleFurl_refused, State.dutyCycleFurl_ends r⟩
  · intro s y
    have hc : ((s.governs && s.yardBound y && s.mayBoost y && decide (30 ≤ (s.yard y).raw)) = true) =
        (s.governs = true ∧ s.yardBound y = true ∧ s.mayBoost y = true ∧ 30 ≤ (s.yard y).raw) := by
      simp [and_assoc]
    exact congrArg Host.Outcome.next (if_congr (iff_of_eq hc) rfl rfl)
  · intro s d
    refine ⟨fun h => ?_, State.consSet_after⟩
    refine if_pos ?_
    obtain h | h | h := h
    · simp [h]
    · simp [h]
    · simp [h]
  · intro s
    rfl
  · intro s x
    refine ⟨fun hg => ?_, s.sensorSample_after x, fun y k c => State.sensorSample_hot⟩
    refine if_pos ?_
    rw [(s.readSensors_after x).2.2.2.2.2.1, hg]
    rfl
  · intro s y c d
    obtain ⟨t, ht, hyard, hframe, hpend⟩ := s.modelEvaluation_after y c d
    intro k far
    refine ⟨t, ht, by rw [hyard]; rfl, by rw [hyard]; rfl, by rw [hyard]; rfl, fun hnear => ?_, fun hfar => ?_, hframe⟩
    · have hzero : suspect k.own c k.diff = 0 := if_neg (by simpa [far] using hnear)
      rw [hyard]
      refine ⟨hzero, ?_⟩
      show (k.susp || decide (3 ≤ suspect k.own c k.diff)) = k.susp
      rw [hzero]
      exact Bool.or_false _
    · have hmore : suspect k.own c k.diff = k.diff + 1 := if_pos (by simpa [far] using hfar)
      rw [hyard]
      refine ⟨hmore, fun h2 => ?_⟩
      have hthree : decide (3 ≤ suspect k.own c k.diff) = true := by
        rw [hmore]
        exact decide_eq_true (by omega)
      refine ⟨?_, fun hs => hpend ?_⟩
      · show (k.susp || decide (3 ≤ suspect k.own c k.diff)) = true
        rw [hthree]
        exact Bool.or_true _
      · show (decide (3 ≤ suspect k.own c k.diff) && !k.susp || _) = true
        rw [hthree, hs]
        rfl
  · intro s p tin tout
    refine ⟨fun hg => if_pos (by rw [hg]; rfl), fun hg ha ht => ?_, fun hg ha ht he => ?_, State.flowInference_after⟩
    · have hair : exec (.flowInference p tin tout) s = .next (s.inletStates tin) := (if_neg (by rw [hg]; decide)).trans (if_pos ha)
      rw [hair, s.inletStates_cool ht]
      rfl
    · have hair : exec (.flowInference p tin tout) s = .next (s.inletStates tin) := (if_neg (by rw [hg]; decide)).trans (if_pos ha)
      obtain ⟨-, -, -, -, -, hhot⟩ := s.inletStates_after tin
      exact ⟨_, hair, hhot ht he⟩
  · intro s
    rfl
  · intro s
    refine ⟨fun h => if_pos ?_, fun h0 h1 => ?_⟩
    · obtain h | ⟨h, h'⟩ := h
      · simp [h]
      · simp [h, h']
    · refine ⟨_, if_neg ?_, rfl, rfl, rfl, rfl⟩
      intro hc
      obtain hc | hc := Bool.or_eq_true_iff.1 hc
      · exact h0 (of_decide_eq_true hc)
      · obtain ⟨hp, hs⟩ := Bool.and_eq_true_iff.1 hc
        have hp := of_decide_eq_true hp
        have hs := of_decide_eq_true hs
        have hge := h1 hp
        omega
  · intro s good
    constructor
    · intro h
      by_cases hon : s.bar0On 0x030020 = true
      · have hkeep : s.emergClear = s := by
          refine if_neg fun hc => h ?_
          have hc' := hc
          simp only [Bool.and_eq_true, Bool.or_eq_true, decide_eq_true_eq] at hc'
          obtain ⟨⟨he, hh⟩, ha⟩ := hc'
          exact ⟨hon, he, hh, ha⟩
        exact congrArg Host.Outcome.next ((if_pos hon).trans hkeep)
      · exact congrArg Host.Outcome.next (if_neg hon)
    · intro ⟨hon, he, hh, ha⟩
      exact ⟨_, congrArg Host.Outcome.next (if_pos hon), State.emergClear_after he hh ha⟩

end Sys2Proof.Machine
end
